-- ==== Sys2Proof/Word.lean ====
section
/-! DEFINITION. The word types of the Stasol S9 (00_scope.md R2, R3) and the sparse table used for every
collection that the spec indexes by number (registers, lanes, cores, tiles). -/

namespace Sys2Proof

abbrev Byte := BitVec 8
abbrev Half := BitVec 16
abbrev Word := BitVec 32
abbrev DWord := BitVec 64
/-- One bit per lane of a quire (01_machine.md R18). -/
abbrev Mask := BitVec 96

/-- A finite map from numbers, kept as a list of pairs: plain data. A key that is not listed reads as the
default given at the read. -/
abbrev Tab (α : Type) := List (Nat × α)

namespace Tab

def find {α : Type} : Tab α → Nat → Option α
  | [], _ => none
  | (k, v) :: t, n => if k = n then some v else find t n

def get {α : Type} (d : α) (t : Tab α) (n : Nat) : α := (find t n).getD d

def set {α : Type} : Tab α → Nat → α → Tab α
  | [], n, a => [(n, a)]
  | (k, v) :: t, n, a =>
    if n < k then (n, a) :: (k, v) :: t
    else if n = k then (n, a) :: t
    else (k, v) :: set t n a

def del {α : Type} : Tab α → Nat → Tab α
  | [], _ => []
  | (k, v) :: t, n => if k = n then del t n else (k, v) :: del t n

/-- Rewrites the entry of a listed key; an unlisted key changes nothing. -/
def modify {α : Type} (t : Tab α) (n : Nat) (f : α → α) : Tab α :=
  match find t n with
  | some a => set t n (f a)
  | none => t

end Tab

end Sys2Proof
end

