-- ==== Sys2Proof/Syntax.lean ====
section
/-! DEFINITION. The instructions: one constructor per row of spec/opcode_table.json. A constructor of an
instruction word carries the fields of its format (02_instruction_words.md R35 to R43); fields that the
instruction's row fixes stand in the format too and are constrained by Sys2Proof/WellFormed.lean. -/

namespace Sys2Proof

/-- Clause classes and issue ports (R26, R27), in the order of their codes. -/
inductive Cls where
  | sys | front | vec | mem | mat | eng | ctl
  deriving DecidableEq, Repr

/-- A candidate of the issue ports (R26): the front-end context of block b, or slot sl of quire q of block b. -/
inductive UnitId where
  | front (b : Nat)
  | slot (b q sl : Nat)
  deriving DecidableEq, Repr

/-- The units whose loss R398 handles. -/
inductive LossKind where
  | core | quad | die | bank | group
  deriving DecidableEq, Repr

/-- F.VV (R35). The ternion instructions read eb as their format bit F64 (R243). -/
structure VV where
  m : BitVec 1
  eb : BitVec 1
  vb : BitVec 7
  ea : BitVec 1
  va : BitVec 7
  vd : BitVec 7
  deriving DecidableEq, Repr

/-- F.VI (R35). -/
structure VI where
  imm : BitVec 9
  ea : BitVec 1
  va : BitVec 7
  vd : BitVec 7
  deriving DecidableEq, Repr

/-- F.VM (R35). -/
structure VM where
  imm : BitVec 16
  vd : BitVec 7
  deriving DecidableEq, Repr

/-- F.VC (R35). -/
structure VC where
  cond : BitVec 4
  vb : BitVec 7
  m : BitVec 1
  va : BitVec 7
  e : BitVec 1
  kd : BitVec 4
  deriving DecidableEq, Repr

/-- F.VK (R35). -/
structure VK where
  k : BitVec 4
  x : BitVec 1
  ea : BitVec 1
  va : BitVec 7
  vd : BitVec 7
  deriving DecidableEq, Repr

/-- F.CVT (R35). -/
structure VT where
  dst : BitVec 4
  src : BitVec 4
  sat : BitVec 1
  ea : BitVec 1
  va : BitVec 7
  vd : BitVec 7
  deriving DecidableEq, Repr

/-- F.VR (R35). -/
structure VR where
  k : BitVec 4
  d : BitVec 1
  ea : BitVec 1
  va : BitVec 7
  sd : BitVec 5
  deriving DecidableEq, Repr

/-- F.K (R35). -/
structure KF where
  ka : BitVec 4
  kb : BitVec 4
  kd : BitVec 4
  sd : BitVec 5
  deriving DecidableEq, Repr

/-- F.S (R35). -/
structure SF where
  cond : BitVec 4
  sb : BitVec 5
  sa : BitVec 5
  sd : BitVec 5
  deriving DecidableEq, Repr

/-- The layout of SMOVI (R35). -/
structure SI where
  imm : BitVec 16
  sd : BitVec 5
  deriving DecidableEq, Repr

/-- F.MV (R37). -/
structure MV where
  width : BitVec 3
  sx : BitVec 1
  sb : BitVec 5
  ea : BitVec 1
  va : BitVec 7
  data : BitVec 7
  deriving DecidableEq, Repr

/-- F.MA (R37). -/
structure MA where
  op : BitVec 4
  scope : BitVec 3
  w64 : BitVec 1
  nr : BitVec 1
  ea : BitVec 1
  va : BitVec 7
  data : BitVec 7
  deriving DecidableEq, Repr

/-- F.MS (R37): hi is [23:20], the width and the sign-extend bit, or the operation of ATOMS. -/
structure MS where
  hi : BitVec 4
  t : BitVec 4
  map : BitVec 1
  ea : BitVec 1
  va : BitVec 7
  data : BitVec 7
  deriving DecidableEq, Repr

/-- F.MU (R37). -/
structure MU where
  width : BitVec 3
  sx : BitVec 1
  sb : BitVec 5
  imm : BitVec 10
  sd : BitVec 5
  deriving DecidableEq, Repr

/-- F.MF (R37). -/
structure MF where
  scope : BitVec 3
  sb : BitVec 5
  sl : BitVec 5
  deriving DecidableEq, Repr

/-- F.MM (R39). -/
structure MM where
  ad : BitVec 4
  ta : BitVec 4
  tb : BitVec 4
  sel : BitVec 5
  vs : BitVec 7
  deriving DecidableEq, Repr

/-- F.E (R40). -/
structure EE where
  q : BitVec 4
  ra : BitVec 5
  rb : BitVec 5
  rc : BitVec 5
  rd : BitVec 5
  deriving DecidableEq, Repr

/-- B and BC (R41, R42). -/
structure CB where
  c : BitVec 3
  sense : BitVec 1
  off : BitVec 20
  deriving DecidableEq, Repr

/-- BRA, CALL, WAITJ, TOKEN (R41): one 20-bit field. -/
structure CO where
  off : BitVec 20
  deriving DecidableEq, Repr

/-- SPLIT (R41). -/
structure CS where
  k : BitVec 4
  target : BitVec 10
  join : BitVec 10
  deriving DecidableEq, Repr

/-- JTAB (R41). -/
structure CJ where
  n1 : BitVec 7
  ea : BitVec 1
  va : BitVec 7
  sb : BitVec 5
  deriving DecidableEq, Repr

/-- BAR (R41). -/
structure CR where
  scope : BitVec 3
  deriving DecidableEq, Repr

/-- QPUSH, QPOP (R41). -/
structure CQ where
  q : BitVec 4
  s : BitVec 5
  deriving DecidableEq, Repr

/-- WAITB (R41). -/
structure CW where
  s : BitVec 5
  deriving DecidableEq, Repr

/-- TMODE (R41). -/
structure CM where
  mode : BitVec 1
  deriving DecidableEq, Repr

/-- F.XR (R42). -/
structure XR where
  f9 : BitVec 9
  xb : BitVec 5
  xa : BitVec 5
  xd : BitVec 5
  deriving DecidableEq, Repr

/-- F.XI (R42). -/
structure XI where
  imm : BitVec 14
  xa : BitVec 5
  xd : BitVec 5
  deriving DecidableEq, Repr

/-- F.XL (R42). -/
structure XL where
  hw : BitVec 2
  imm : BitVec 16
  xd : BitVec 5
  deriving DecidableEq, Repr

/-- F.XC (R42). -/
structure XC where
  xb : BitVec 5
  xa : BitVec 5
  cond : BitVec 4
  cd : BitVec 3
  deriving DecidableEq, Repr

/-- F.XCI (R42). -/
structure XCI where
  imm : BitVec 12
  xa : BitVec 5
  cond : BitVec 4
  cd : BitVec 3
  deriving DecidableEq, Repr

/-- F.XJ (R42). -/
structure XJ where
  off : BitVec 24
  deriving DecidableEq, Repr

/-- F.Y (R43). -/
structure YY where
  f10 : BitVec 10
  a : BitVec 4
  ra : BitVec 5
  rd : BitVec 5
  deriving DecidableEq, Repr

/-- TRAP (R43). -/
structure YT where
  imm : BitVec 16
  deriving DecidableEq, Repr

/-- What a step is about: the issuing unit of a word, or the agent and item of another agent's step. Each step's
meaning says which of these it reads. -/
structure Subject where
  unit : UnitId := .front 0
  /-- package, by pod id -/
  pkg : Nat := 0
  /-- partition, by pod partition id -/
  part : Nat := 0
  /-- the item: a core, an operation, a message, a block, a node, a function -/
  idx : Nat := 0
  /-- a second number: a queue, a direction, a die, a plane, an access width -/
  sub : Nat := 0
  /-- an address or a register offset -/
  off : Nat := 0
  cls : Cls := .sys
  val : DWord := 0
  ctx : Word := 0
  loss : LossKind := .core
  flag : Bool := false
  flag2 : Bool := false
  bytes : List Byte := []
  nums : List Nat := []
  deriving DecidableEq, Repr


/-- Every row of spec/opcode_table.json: the instruction words (02_instruction_words.md R44) with the fields of their
format, and the steps of the other agents (95_what_each_step_holds.md) with what names their subject. -/
inductive Instr where
  | iadd (f : VV)
  | isub (f : VV)
  | imul (f : VV)
  | imulh (f : VV)
  | umulh (f : VV)
  | imad (f : VV)
  | iabs (f : VV)
  | ineg (f : VV)
  | imin (f : VV)
  | imax (f : VV)
  | umin (f : VV)
  | umax (f : VV)
  | and (f : VV)
  | or (f : VV)
  | xor (f : VV)
  | andn (f : VV)
  | shl (f : VV)
  | shr (f : VV)
  | sar (f : VV)
  | clz (f : VV)
  | popc (f : VV)
  | brev (f : VV)
  | bfx (f : VV)
  | bfxu (f : VV)
  | bfi (f : VV)
  | idiv (f : VV)
  | udiv (f : VV)
  | irem (f : VV)
  | urem (f : VV)
  | iaddi (f : VI)
  | andi (f : VI)
  | ori (f : VI)
  | xori (f : VI)
  | shli (f : VI)
  | shri (f : VI)
  | sari (f : VI)
  | movi (f : VM)
  | movhi (f : VM)
  | mov (f : VV)
  | sel (f : VK)
  | shfl (f : VV)
  | shflup (f : VV)
  | shfldn (f : VV)
  | shflx (f : VV)
  | bcast (f : VV)
  | laneid (f : VV)
  | s2v (f : VV)
  | s2vSib (f : VV)
  | v2s (f : VV)
  | icmp (f : VC)
  | ucmp (f : VC)
  | fcmp (f : VC)
  | dcmp (f : VC)
  | fadd (f : VV)
  | fsub (f : VV)
  | fmul (f : VV)
  | ffma (f : VV)
  | fmin (f : VV)
  | fmax (f : VV)
  | fabs (f : VV)
  | fneg (f : VV)
  | fdiv (f : VV)
  | fsqrt (f : VV)
  | frcp (f : VV)
  | frsq (f : VV)
  | fexp2 (f : VV)
  | flog2 (f : VV)
  | ftanh (f : VV)
  | frnd (f : VV)
  | fclass (f : VV)
  | dadd (f : VV)
  | dsub (f : VV)
  | dmul (f : VV)
  | dfma (f : VV)
  | dmin (f : VV)
  | dmax (f : VV)
  | ddiv (f : VV)
  | dsqrt (f : VV)
  | cvt (f : VT)
  | pack2 (f : VT)
  | unpack2 (f : VT)
  | redf (f : VR)
  | redfmin (f : VR)
  | redfmax (f : VR)
  | redi (f : VR)
  | scani (f : VK)
  | kand (f : KF)
  | kor (f : KF)
  | kxor (f : KF)
  | knot (f : KF)
  | kmov (f : KF)
  | kpop (f : KF)
  | kany (f : KF)
  | kall (f : KF)
  | kfirst (f : KF)
  | sadd (f : SF)
  | ssub (f : SF)
  | smul (f : SF)
  | sand (f : SF)
  | sor (f : SF)
  | sxor (f : SF)
  | sshl (f : SF)
  | sshr (f : SF)
  | smov (f : SF)
  | smovi (f : SI)
  | scmp (f : SF)
  | dig (f : VV)
  | tmean (f : VV)
  | tspread (f : VV)
  | sibsel (f : VV)
  | tchk (f : VV)
  | ld (f : MV)
  | st (f : MV)
  | ldt (f : MV)
  | stt (f : MV)
  | lds (f : MS)
  | sts (f : MS)
  | ldu (f : MU)
  | stu (f : MU)
  | atom (f : MA)
  | acas (f : MA)
  | fatom (f : MA)
  | atoms (f : MS)
  | pref (f : MV)
  | clean (f : MV)
  | fence (f : MF)
  | afence (f : MF)
  | seal (f : MF)
  | unseal (f : MF)
  | mmab (f : MM)
  | mmah (f : MM)
  | mmas8 (f : MM)
  | mmas4 (f : MM)
  | mzero (f : MM)
  | mlda (f : MM)
  | msta (f : MM)
  | mdrv (f : MM)
  | mdrs (f : MM)
  | mcvt (f : MM)
  | msig (f : MM)
  | msigxSt (f : MM)
  | msigxCmp (f : MM)
  | mtrip (f : MM)
  | cpy (f : EE)
  | cpy2 (f : EE)
  | cpyt (f : EE)
  | cpyr (f : EE)
  | cpym (f : EE)
  | gthr (f : EE)
  | sctr (f : EE)
  | fill (f : EE)
  | coll (f : EE)
  | carb (f : EE)
  | cwait (f : EE)
  | cpoll (f : EE)
  | migr (f : EE)
  | hgsend (f : EE)
  | hgsig (f : EE)
  | hgwait (f : EE)
  | hgtake (f : EE)
  | hgqry (f : EE)
  | b (f : CB)
  | bra (f : CO)
  | call (f : CO)
  | split (f : CS)
  | waitj (f : CO)
  | jtab (f : CJ)
  | token (f : CO)
  | bar (f : CR)
  | qpush (f : CQ)
  | qpop (f : CQ)
  | waitb (f : CW)
  | tmode (f : CM)
  | add (f : XR)
  | sub (f : XR)
  | mul (f : XR)
  | mulh (f : XR)
  | divu (f : XR)
  | remu (f : XR)
  | frontAnd (f : XR)
  | frontOr (f : XR)
  | frontXor (f : XR)
  | frontShl (f : XR)
  | frontShr (f : XR)
  | frontSar (f : XR)
  | min (f : XR)
  | max (f : XR)
  | addi (f : XI)
  | frontAndi (f : XI)
  | frontOri (f : XI)
  | frontShli (f : XI)
  | frontShri (f : XI)
  | li (f : XL)
  | lih (f : XL)
  | cmp (f : XC)
  | cmpi (f : XCI)
  | fadds (f : XR)
  | fmuls (f : XR)
  | ffmas (f : XR)
  | fdivs (f : XR)
  | fcmps (f : XC)
  | fcvts (f : XR)
  | ldx (f : XI)
  | stx (f : XI)
  | atmx (f : XR)
  | bc (f : CB)
  | j (f : XJ)
  | jal (f : XJ)
  | jr (f : XR)
  | tmset (f : XR)
  | tmadv (f : XR)
  | tmget (f : XR)
  | dqpush (f : XR)
  | ovfget (f : XR)
  | lsupd (f : XR)
  | nadd (f : XR)
  | nwdraw (f : XR)
  | nstat (f : XR)
  | trap (f : YT)
  | mfsr (f : YY)
  | mtsr (f : YY)
  | pgmap (f : YY)
  | pgunmap (f : YY)
  | tlbinvPage (f : YY)
  | tlbinvGpage (f : YY)
  | tlbinvS2 (f : YY)
  | tlbinvS2all (f : YY)
  | spilla (f : YY)
  | filla (f : YY)
  | savel (f : YY)
  | loadl (f : YY)
  | waitev (f : YY)
  | pfence
  | ret
  | join
  | xacq
  | xrel
  | yield
  | exit
  | btok
  | fexit
  | nop
  | eret
  | tlbinvCtx
  | tlbinvPart
  | clauseSelect
  | loadReturn
  | matRetire
  | engineCommandStart
  | collReadyStart
  | collExchange
  | collStep
  | peerTimeout
  | migrDrainDone
  | engineCompletion
  | cwaitPop
  | qpopDeliver
  | queuePushAccept
  | btokPop
  | xacqGrant
  | xlockStall
  | barrierRelease
  | waitbComplete
  | waitbUnsatisfiable
  | waitjExpiry
  | waitevDeliver
  | fenceComplete
  | sealEffect
  | unsealEffect
  | sweepComplete
  | gateAnswer
  | gateTokenRefill
  | hgwaitTimeout
  | gateTableRetry
  | gateRedirect
  | read
  | write
  | atomic
  | gate
  | resp
  | ack
  | retryMap
  | flitCrcReplay
  | dieLaneReplace
  | planeDead
  | quiesceReport
  | packageFenceOut
  | planeMapCommit
  | planeFreeze
  | planeShadowWrite
  | backgroundScrub
  | launchQueueTail
  | graphAccept
  | nodeReserve
  | blockDispatch
  | blockRetire
  | sliceExpiry
  | graceHalt
  | kill
  | blockSave
  | blockResume
  | unitLoss
  | layoutCommit
  | layoutTick
  | scrubComplete
  | errclr
  | frameRelease
  | frameReleaseDone
  | s2respRelease
  | s2respRefuse
  | placeWrite
  | registerWrite
  | priDoorbell
  | pageRequestResponse
  | atsTranslationCompletion
  | atsInvalidationRequest
  | inboundWrite
  | hostCompletion
  | completionTimeout
  | linkDown
  | functionReset
  | coldReset
  | powerOn
  | getVersion
  | getCapabilities
  | negotiateAlgorithms
  | getDigests
  | getCertificate
  | challenge
  | getMeasurements
  | throttle
  | criticalTemperature
  | roceSend
  | roceRdmaWrite
  | roceRdmaWriteImm
  | roceRdmaRead
  | roceUnsupported
  | roceRetransmitTimeout
  | pfcPause
  | ecnMark
  | ethernetLinkFail
  | heldSlotAnswer
  | gateClose
  | hPreemptionRequest
  | peerToPeerRequest
  deriving DecidableEq, Repr

end Sys2Proof
end

