-- ==== Sys2Proof/WellFormed.lean ====
section
/-! DEFINITION. What the ILLEGAL_OP row of each chapter's check table asks of an instruction's fields
(02_instruction_words.md R32, R35 to R45, and the check tables R162, R255, R294, R313, R329, R358, R368, R403):
a field that the instruction does not use is 0, and condition, format, width and immediate values are permitted.
Register limits are ILLEGAL_OPERAND checks and stand with the meanings. -/

namespace Sys2Proof

/-- vb when m = 1: [21:20] are 0 (R35). -/
def VV.sOnly (f : VV) : Bool := f.vb.extractLsb' 5 2 == 0#2

/-- A two-source F.VV word: with m = 1 the high bits of vb and the e bit are 0 (R35, R254). -/
def VV.binary (f : VV) : Bool := f.m == 0 || (f.sOnly && f.eb == 0)

/-- A one-source F.VV word (R260, R270). -/
def VV.unary (f : VV) : Bool := f.m == 0 && f.eb == 0 && f.vb == 0

/-- F.VC: with m = 1 the high bits of vb are 0 (R35). -/
def VC.sField (f : VC) : Bool := f.m == 0 || f.vb.extractLsb' 5 2 == 0#2

/-- The conditions of integer compares (R45). -/
def intCond (c : BitVec 4) : Bool := decide (c.toNat ≤ 9)

/-- The conditions of FP compares (R45). -/
def fpCond (c : BitVec 4) : Bool := decide (c.toNat ≤ 5) || c == 10 || c == 11

/-- Format codes of R36. -/
def isFpFmt (c : BitVec 4) : Bool := c == 0 || c == 1 || c == 2 || c == 6
def isIntFmt (c : BitVec 4) : Bool := c == 3 || c == 4 || (decide (7 ≤ c.toNat) && decide (c.toNat ≤ 11)) || c == 13
def is32or64Fp (c : BitVec 4) : Bool := c == 2 || c == 6
def is32or64Int (c : BitVec 4) : Bool := c == 7 || c == 13

/-- The conversions that R223 defines. -/
def cvtDefined (src dst : BitVec 4) : Bool :=
  src != dst &&
    if isFpFmt src then isFpFmt dst || isIntFmt dst || dst == 12 || (dst == 5 && is32or64Fp src)
    else if isIntFmt src then isFpFmt dst || isIntFmt dst || (dst == 5 && is32or64Int src)
    else if src == 12 then isFpFmt dst
    else if src == 5 then is32or64Fp dst || is32or64Int dst
    else false

/-- PACK2 from wide to narrow (R277); UNPACK2 has the two exchanged (R278). -/
def packable (wide narrow : BitVec 4) : Bool :=
  (wide == 2 || wide == 7 || wide == 8) &&
  (narrow == 0 || narrow == 1 || narrow == 9 || narrow == 10 || narrow == 3 || narrow == 11 || narrow == 12 || narrow == 4) &&
  cvtDefined wide narrow

/-- The formats of FCVTS (R317). -/
def frontFmt (c : BitVec 4) : Bool := c == 2 || c == 6 || c == 7 || c == 8 || c == 13

/-- F.MS: the width code and the sign-extend bit of LDS and STS (R37). -/
def MS.width (f : MS) : Nat := f.hi.toNat / 2
def MS.sx (f : MS) : BitVec 1 := f.hi.extractLsb' 0 1

/-- F.MS: t is 0 when no map is used (R165). -/
def MS.mapField (f : MS) : Bool := f.map == 1 || f.t == 0

/-- A scale select that closes the block (R298). -/
def MM.closing (f : MM) : Bool := decide (f.sel.toNat < 16) && f.sel.extractLsb' 0 2 != 3#2


/-- An instruction whose fields pass the ILLEGAL_OP checks. The steps of other agents have no fields of this kind. -/
def Instr.wellFormed : Instr → Bool
  | .iadd f => f.binary
  | .isub f => f.binary
  | .imul f => f.binary
  | .imulh f => f.binary
  | .umulh f => f.binary
  | .imad f => f.binary
  | .iabs f => f.unary
  | .ineg f => f.unary
  | .imin f => f.binary
  | .imax f => f.binary
  | .umin f => f.binary
  | .umax f => f.binary
  | .and f => f.binary
  | .or f => f.binary
  | .xor f => f.binary
  | .andn f => f.binary
  | .shl f => f.binary
  | .shr f => f.binary
  | .sar f => f.binary
  | .clz f => f.unary
  | .popc f => f.unary
  | .brev f => f.unary
  | .bfx f => f.binary
  | .bfxu f => f.binary
  | .bfi f => f.binary
  | .idiv f => f.binary
  | .udiv f => f.binary
  | .irem f => f.binary
  | .urem f => f.binary
  | .iaddi _ => true
  | .andi _ => true
  | .ori _ => true
  | .xori _ => true
  | .shli f => decide (f.imm.toNat < 32)
  | .shri f => decide (f.imm.toNat < 32)
  | .sari f => decide (f.imm.toNat < 32)
  | .movi _ => true
  | .movhi _ => true
  | .mov f => f.unary
  | .sel f => f.x == 0
  | .shfl f => f.binary
  | .shflup f => f.binary
  | .shfldn f => f.binary
  | .shflx f => f.binary
  | .bcast f => f.binary
  | .laneid f => f.unary && f.ea == 0 && f.va == 0
  | .s2v f => f.m == 1 && f.eb == 0 && f.sOnly && f.ea == 0 && f.va == 0
  | .s2vSib f => f.m == 1 && f.eb == 1 && f.sOnly && f.ea == 0 && f.va == 0
  | .v2s f => f.unary && f.vd.extractLsb' 5 2 == 0#2
  | .icmp f => f.sField && intCond f.cond
  | .ucmp f => f.sField && intCond f.cond
  | .fcmp f => f.sField && fpCond f.cond
  | .dcmp f => f.sField && fpCond f.cond
  | .fadd f => f.binary
  | .fsub f => f.binary
  | .fmul f => f.binary
  | .ffma f => f.binary
  | .fmin f => f.binary
  | .fmax f => f.binary
  | .fabs f => f.unary
  | .fneg f => f.unary
  | .fdiv f => f.binary
  | .fsqrt f => f.unary
  | .frcp f => f.unary
  | .frsq f => f.unary
  | .fexp2 f => f.unary
  | .flog2 f => f.unary
  | .ftanh f => f.unary
  | .frnd f => f.unary
  | .fclass f => f.unary
  | .dadd f => f.binary
  | .dsub f => f.binary
  | .dmul f => f.binary
  | .dfma f => f.binary
  | .dmin f => f.binary
  | .dmax f => f.binary
  | .ddiv f => f.binary
  | .dsqrt f => f.unary
  | .cvt f => cvtDefined f.src f.dst
  | .pack2 f => packable f.src f.dst
  | .unpack2 f => packable f.dst f.src && cvtDefined f.src f.dst
  | .redf _ => true
  | .redfmin _ => true
  | .redfmax _ => true
  | .redi _ => true
  | .scani _ => true
  | .kand f => f.sd == 0
  | .kor f => f.sd == 0
  | .kxor f => f.sd == 0
  | .knot f => f.kb == 0 && f.sd == 0
  | .kmov f => f.kb == 0 && f.sd == 0
  | .kpop f => f.kd == 0
  | .kany f => f.kd == 0 && f.sd.extractLsb' 3 2 == 0#2
  | .kall f => f.kd == 0 && f.sd.extractLsb' 3 2 == 0#2
  | .kfirst _ => true
  | .sadd f => f.cond == 0
  | .ssub f => f.cond == 0
  | .smul f => f.cond == 0
  | .sand f => f.cond == 0
  | .sor f => f.cond == 0
  | .sxor f => f.cond == 0
  | .sshl f => f.cond == 0
  | .sshr f => f.cond == 0
  | .smov f => f.cond == 0 && f.sb == 0
  | .smovi _ => true
  | .scmp f => intCond f.cond && f.sd.extractLsb' 3 2 == 0#2
  | .dig f => f.m == 0 && f.vb == 0
  | .tmean f => f.m == 0 && f.vb == 0
  | .tspread f => f.m == 0 || f.sOnly
  | .sibsel f => f.m == 0 && f.vb.toNat < 3
  | .tchk f => f.m == 0 || f.sOnly
  | .ld f => decide (f.width.toNat ≤ 4) && (f.sx == 0 || decide (f.width.toNat ≤ 1))
  | .st f => decide (f.width.toNat ≤ 4) && f.sx == 0
  | .ldt f => (f.width == 2 || f.width == 3) && f.sx == 0
  | .stt f => (f.width == 2 || f.width == 3) && f.sx == 0
  | .lds f => f.mapField && decide (f.width ≤ 4) && (f.sx == 0 || decide (f.width ≤ 1))
  | .sts f => f.mapField && decide (f.width ≤ 4) && f.sx == 0
  | .ldu f => decide (f.width.toNat ≤ 3) && (f.sx == 0 || decide (f.width.toNat ≤ 1))
  | .stu f => decide (f.width.toNat ≤ 3) && f.sx == 0
  | .atom f => decide (f.op.toNat ≤ 10)
  | .acas f => f.op == 0 && f.nr == 0
  | .fatom f => decide (f.op.toNat ≤ 2)
  | .atoms f => f.mapField && decide (f.hi.toNat ≤ 10)
  | .pref f => f.width == 0 && f.sx == 0 && f.data == 0
  | .clean f => f.width == 0 && f.sx == 0 && f.data == 0
  | .fence f => f.sb == 0 && f.sl == 0
  | .afence f => f.scope == 0
  | .seal f => f.scope == 0
  | .unseal f => f.scope == 0
  | .mmab f => f.sel == 0 && f.vs == 0
  | .mmah f => f.sel == 0 && f.vs == 0
  | .mmas8 f => f.closing || (f.sel == 31 && f.vs == 0)
  | .mmas4 f => f.closing || (f.sel == 31 && f.vs == 0)
  | .mzero f => f.ta == 0 && f.tb == 0 && f.sel == 0 && f.vs == 0
  | .mlda f => f.tb == 0 && f.sel == 0 && f.vs == 0
  | .msta f => f.tb == 0 && f.sel == 0 && f.vs == 0
  | .mdrv f => f.ta == 0 && f.tb == 0 && f.sel == 0
  | .mdrs f => f.tb == 0 && f.sel == 0 && f.vs == 0
  | .mcvt f => f.ta == 0 && f.tb == 0 && (f.closing || f.sel == 31)
  | .msig f => f.ta == 0 && f.tb == 0 && f.sel == 0 && f.vs == 0
  | .msigxSt f => f.ad == 0 && f.ta == 0 && f.tb == 0 && f.sel == 0 && f.vs.extractLsb' 5 2 == 0#2
  | .msigxCmp f => f.ad == 0 && f.ta == 0 && f.tb == 0 && f.sel == 1 && f.vs.extractLsb' 5 2 == 0#2
  | .mtrip f => f.ad == 0 && f.ta == 0 && f.tb == 0 && f.sel == 0 && decide (f.vs.toNat < 3)
  | .cpy _ => true
  | .cpy2 f => f.rb == 0
  | .cpyt _ => true
  | .cpyr f => f.rb == 0
  | .cpym f => f.rb == 0
  | .gthr f => f.rb == 0
  | .sctr f => f.rb == 0
  | .fill _ => true
  | .coll f => f.rb == 0 && f.rc == 0
  | .carb f => f.rb == 0 && f.rc == 0 && f.rd == 0
  | .cwait _ => true
  | .cpoll _ => true
  | .migr f => f.rd == 0
  | .hgsend f => f.q == 0
  | .hgsig f => f.q == 0 && f.rc == 0 && f.rd == 0
  | .hgwait f => f.q == 0
  | .hgtake f => f.q == 0
  | .hgqry f => f.q == 0 && f.rc == 0
  | .b _ => true
  | .bra _ => true
  | .call _ => true
  | .split _ => true
  | .waitj _ => true
  | .jtab _ => true
  | .token _ => true
  | .bar _ => true
  | .qpush _ => true
  | .qpop _ => true
  | .waitb _ => true
  | .tmode _ => true
  | .add f => f.f9 == 0
  | .sub f => f.f9 == 0
  | .mul f => f.f9 == 0
  | .mulh f => f.f9 == 0
  | .divu f => f.f9 == 0
  | .remu f => f.f9 == 0
  | .frontAnd f => f.f9 == 0
  | .frontOr f => f.f9 == 0
  | .frontXor f => f.f9 == 0
  | .frontShl f => f.f9 == 0
  | .frontShr f => f.f9 == 0
  | .frontSar f => f.f9 == 0
  | .min f => f.f9 == 0
  | .max f => f.f9 == 0
  | .addi _ => true
  | .frontAndi _ => true
  | .frontOri _ => true
  | .frontShli f => decide (f.imm.toNat < 64)
  | .frontShri f => decide (f.imm.toNat < 64)
  | .li f => f.hw == 0
  | .lih _ => true
  | .cmp f => intCond f.cond
  | .cmpi f => intCond f.cond
  | .fadds f => f.f9 == 0
  | .fmuls f => f.f9 == 0
  | .ffmas f => f.f9 == 0
  | .fdivs f => f.f9 == 0
  | .fcmps f => fpCond f.cond
  | .fcvts f => f.xb == 0 && f.f9.extractLsb' 0 1 == 0#1 && frontFmt (f.f9.extractLsb' 5 4) && frontFmt (f.f9.extractLsb' 1 4) && f.f9.extractLsb' 5 4 != f.f9.extractLsb' 1 4
  | .ldx _ => true
  | .stx _ => true
  | .atmx f => f.f9.extractLsb' 0 2 == 0#2 && decide ((f.f9.extractLsb' 5 4).toNat ≤ 10)
  | .bc _ => true
  | .j _ => true
  | .jal _ => true
  | .jr f => f.f9 == 0 && f.xb == 0 && f.xd == 0
  | .tmset f => f.f9 == 0 && f.xb == 0 && decide (f.xd.toNat < 16)
  | .tmadv f => f.f9 == 0 && f.xb == 0 && decide (f.xd.toNat < 16)
  | .tmget f => f.f9 == 0 && f.xb == 0 && decide (f.xa.toNat < 16)
  | .dqpush f => f.f9.extractLsb' 0 5 == 0#5 && f.xb == 0 && f.xd == 0
  | .ovfget f => f.f9 == 0 && f.xb == 0 && f.xa == 0
  | .lsupd f => f.f9 == 0 && f.xb == 0 && f.xd == 0
  | .nadd f => f.f9 == 0 && f.xb == 0
  | .nwdraw f => f.f9 == 0
  | .nstat f => f.f9 == 0 && f.xb == 0
  | .trap _ => true
  | .mfsr f => f.a == 0 && f.ra == 0
  | .mtsr f => f.a == 0 && f.rd == 0
  | .pgmap f => f.f10 == 0 && f.a == 0
  | .pgunmap f => f.f10 == 0 && f.a == 0 && f.rd == 0
  | .tlbinvPage f => f.f10 == 0 && f.a == 0 && f.rd == 0
  | .tlbinvGpage f => f.f10 == 3 && f.a == 0 && f.rd == 0
  | .tlbinvS2 f => f.f10 == 4 && f.a == 0 && f.rd == 0
  | .tlbinvS2all f => f.f10 == 5 && f.a == 0 && f.rd == 0
  | .spilla f => f.f10 == 0 && f.rd == 0
  | .filla f => f.f10 == 0 && f.rd == 0
  | .savel f => decide (f.f10.toNat < 256) && f.a == 0 && f.rd == 0
  | .loadl f => decide (f.f10.toNat < 256) && f.a == 0 && f.rd == 0
  | .waitev f => f.a == 0 && f.ra == 0
  | .pfence => true
  | .ret => true
  | .join => true
  | .xacq => true
  | .xrel => true
  | .yield => true
  | .exit => true
  | .btok => true
  | .fexit => true
  | .nop => true
  | .eret => true
  | .tlbinvCtx => true
  | .tlbinvPart => true
  | .clauseSelect => true
  | .loadReturn => true
  | .matRetire => true
  | .engineCommandStart => true
  | .collReadyStart => true
  | .collExchange => true
  | .collStep => true
  | .peerTimeout => true
  | .migrDrainDone => true
  | .engineCompletion => true
  | .cwaitPop => true
  | .qpopDeliver => true
  | .queuePushAccept => true
  | .btokPop => true
  | .xacqGrant => true
  | .xlockStall => true
  | .barrierRelease => true
  | .waitbComplete => true
  | .waitbUnsatisfiable => true
  | .waitjExpiry => true
  | .waitevDeliver => true
  | .fenceComplete => true
  | .sealEffect => true
  | .unsealEffect => true
  | .sweepComplete => true
  | .gateAnswer => true
  | .gateTokenRefill => true
  | .hgwaitTimeout => true
  | .gateTableRetry => true
  | .gateRedirect => true
  | .read => true
  | .write => true
  | .atomic => true
  | .gate => true
  | .resp => true
  | .ack => true
  | .retryMap => true
  | .flitCrcReplay => true
  | .dieLaneReplace => true
  | .planeDead => true
  | .quiesceReport => true
  | .packageFenceOut => true
  | .planeMapCommit => true
  | .planeFreeze => true
  | .planeShadowWrite => true
  | .backgroundScrub => true
  | .launchQueueTail => true
  | .graphAccept => true
  | .nodeReserve => true
  | .blockDispatch => true
  | .blockRetire => true
  | .sliceExpiry => true
  | .graceHalt => true
  | .kill => true
  | .blockSave => true
  | .blockResume => true
  | .unitLoss => true
  | .layoutCommit => true
  | .layoutTick => true
  | .scrubComplete => true
  | .errclr => true
  | .frameRelease => true
  | .frameReleaseDone => true
  | .s2respRelease => true
  | .s2respRefuse => true
  | .placeWrite => true
  | .registerWrite => true
  | .priDoorbell => true
  | .pageRequestResponse => true
  | .atsTranslationCompletion => true
  | .atsInvalidationRequest => true
  | .inboundWrite => true
  | .hostCompletion => true
  | .completionTimeout => true
  | .linkDown => true
  | .functionReset => true
  | .coldReset => true
  | .powerOn => true
  | .getVersion => true
  | .getCapabilities => true
  | .negotiateAlgorithms => true
  | .getDigests => true
  | .getCertificate => true
  | .challenge => true
  | .getMeasurements => true
  | .throttle => true
  | .criticalTemperature => true
  | .roceSend => true
  | .roceRdmaWrite => true
  | .roceRdmaWriteImm => true
  | .roceRdmaRead => true
  | .roceUnsupported => true
  | .roceRetransmitTimeout => true
  | .pfcPause => true
  | .ecnMark => true
  | .ethernetLinkFail => true
  | .heldSlotAnswer => true
  | .gateClose => true
  | .hPreemptionRequest => true
  | .peerToPeerRequest => true

end Sys2Proof
end

