-- ==== Sys2Proof/Decode.lean ====
section
/-! DEFINITION. The decoder and the encoder of instruction words (02_instruction_words.md R32 to R44): the class
of the enclosing clause selects the opcode space, [31:24] is the opcode, and [23:0] holds the fields of the format.
A word is rejected by name when its opcode is unassigned in the class or a field breaks the rules of its row. -/

namespace Sys2Proof

/-- Why a word is no instruction of a class; both are ILLEGAL_OP (R32). -/
inductive DecodeErr where
  /-- the opcode is not assigned in the class -/
  | unassigned (op : Nat)
  /-- a field that must be 0 is not, or a field value is not permitted -/
  | badField (op : Nat)
  deriving DecidableEq, Repr

/-- Four bytes, the first lowest in memory, as a word (00_scope.md R3). -/
def wordOfBytes (b0 b1 b2 b3 : Byte) : Word := b3 ++ b2 ++ b1 ++ b0

/-- What a word of a clause is: an instruction, or a rejection by name. -/
inductive Decoded where
  | instr (i : Instr)
  | reject (e : DecodeErr)
  deriving DecidableEq, Repr

def opcodeOf (w : Word) : Nat := (w.extractLsb' 24 8).toNat

def VV.ofWord (w : Word) : Option VV :=
  some { m := w.extractLsb' 23 1, eb := w.extractLsb' 22 1, vb := w.extractLsb' 15 7, ea := w.extractLsb' 14 1, va := w.extractLsb' 7 7, vd := w.extractLsb' 0 7 }
def VI.ofWord (w : Word) : Option VI :=
  some { imm := w.extractLsb' 15 9, ea := w.extractLsb' 14 1, va := w.extractLsb' 7 7, vd := w.extractLsb' 0 7 }
def VM.ofWord (w : Word) : Option VM :=
  if w.extractLsb' 7 1 == 0#1 then some { imm := w.extractLsb' 8 16, vd := w.extractLsb' 0 7 } else none
def VC.ofWord (w : Word) : Option VC :=
  some { cond := w.extractLsb' 20 4, vb := w.extractLsb' 13 7, m := w.extractLsb' 12 1, va := w.extractLsb' 5 7, e := w.extractLsb' 4 1, kd := w.extractLsb' 0 4 }
def VK.ofWord (w : Word) : Option VK :=
  if w.extractLsb' 16 4 == 0#4 then some { k := w.extractLsb' 20 4, x := w.extractLsb' 15 1, ea := w.extractLsb' 14 1, va := w.extractLsb' 7 7, vd := w.extractLsb' 0 7 } else none
def VT.ofWord (w : Word) : Option VT :=
  some { dst := w.extractLsb' 20 4, src := w.extractLsb' 16 4, sat := w.extractLsb' 15 1, ea := w.extractLsb' 14 1, va := w.extractLsb' 7 7, vd := w.extractLsb' 0 7 }
def VR.ofWord (w : Word) : Option VR :=
  if w.extractLsb' 15 4 == 0#4 && w.extractLsb' 5 2 == 0#2 then some { k := w.extractLsb' 20 4, d := w.extractLsb' 19 1, ea := w.extractLsb' 14 1, va := w.extractLsb' 7 7, sd := w.extractLsb' 0 5 } else none
def KF.ofWord (w : Word) : Option KF :=
  if w.extractLsb' 5 7 == 0#7 then some { ka := w.extractLsb' 20 4, kb := w.extractLsb' 16 4, kd := w.extractLsb' 12 4, sd := w.extractLsb' 0 5 } else none
def SF.ofWord (w : Word) : Option SF :=
  if w.extractLsb' 15 5 == 0#5 then some { cond := w.extractLsb' 20 4, sb := w.extractLsb' 10 5, sa := w.extractLsb' 5 5, sd := w.extractLsb' 0 5 } else none
def SI.ofWord (w : Word) : Option SI :=
  if w.extractLsb' 21 3 == 0#3 then some { imm := w.extractLsb' 5 16, sd := w.extractLsb' 0 5 } else none
def MV.ofWord (w : Word) : Option MV :=
  some { width := w.extractLsb' 21 3, sx := w.extractLsb' 20 1, sb := w.extractLsb' 15 5, ea := w.extractLsb' 14 1, va := w.extractLsb' 7 7, data := w.extractLsb' 0 7 }
def MA.ofWord (w : Word) : Option MA :=
  some { op := w.extractLsb' 20 4, scope := w.extractLsb' 17 3, w64 := w.extractLsb' 16 1, nr := w.extractLsb' 15 1, ea := w.extractLsb' 14 1, va := w.extractLsb' 7 7, data := w.extractLsb' 0 7 }
def MS.ofWord (w : Word) : Option MS :=
  some { hi := w.extractLsb' 20 4, t := w.extractLsb' 16 4, map := w.extractLsb' 15 1, ea := w.extractLsb' 14 1, va := w.extractLsb' 7 7, data := w.extractLsb' 0 7 }
def MU.ofWord (w : Word) : Option MU :=
  some { width := w.extractLsb' 21 3, sx := w.extractLsb' 20 1, sb := w.extractLsb' 15 5, imm := w.extractLsb' 5 10, sd := w.extractLsb' 0 5 }
def MF.ofWord (w : Word) : Option MF :=
  if w.extractLsb' 20 4 == 0#4 && w.extractLsb' 15 2 == 0#2 && w.extractLsb' 0 5 == 0#5 then some { scope := w.extractLsb' 17 3, sb := w.extractLsb' 10 5, sl := w.extractLsb' 5 5 } else none
def MM.ofWord (w : Word) : Option MM :=
  some { ad := w.extractLsb' 20 4, ta := w.extractLsb' 16 4, tb := w.extractLsb' 12 4, sel := w.extractLsb' 7 5, vs := w.extractLsb' 0 7 }
def EE.ofWord (w : Word) : Option EE :=
  some { q := w.extractLsb' 20 4, ra := w.extractLsb' 15 5, rb := w.extractLsb' 10 5, rc := w.extractLsb' 5 5, rd := w.extractLsb' 0 5 }
def CB.ofWord (w : Word) : Option CB :=
  some { c := w.extractLsb' 21 3, sense := w.extractLsb' 20 1, off := w.extractLsb' 0 20 }
def CO.ofWord (w : Word) : Option CO :=
  if w.extractLsb' 20 4 == 0#4 then some { off := w.extractLsb' 0 20 } else none
def CS.ofWord (w : Word) : Option CS :=
  some { k := w.extractLsb' 20 4, target := w.extractLsb' 10 10, join := w.extractLsb' 0 10 }
def CJ.ofWord (w : Word) : Option CJ :=
  if w.extractLsb' 15 2 == 0#2 && w.extractLsb' 5 2 == 0#2 then some { n1 := w.extractLsb' 17 7, ea := w.extractLsb' 14 1, va := w.extractLsb' 7 7, sb := w.extractLsb' 0 5 } else none
def CR.ofWord (w : Word) : Option CR :=
  if w.extractLsb' 20 4 == 0#4 && w.extractLsb' 0 17 == 0#17 then some { scope := w.extractLsb' 17 3 } else none
def CQ.ofWord (w : Word) : Option CQ :=
  if w.extractLsb' 5 15 == 0#15 then some { q := w.extractLsb' 20 4, s := w.extractLsb' 0 5 } else none
def CW.ofWord (w : Word) : Option CW :=
  if w.extractLsb' 5 19 == 0#19 then some { s := w.extractLsb' 0 5 } else none
def CM.ofWord (w : Word) : Option CM :=
  if w.extractLsb' 1 23 == 0#23 then some { mode := w.extractLsb' 0 1 } else none
def XR.ofWord (w : Word) : Option XR :=
  some { f9 := w.extractLsb' 15 9, xb := w.extractLsb' 10 5, xa := w.extractLsb' 5 5, xd := w.extractLsb' 0 5 }
def XI.ofWord (w : Word) : Option XI :=
  some { imm := w.extractLsb' 10 14, xa := w.extractLsb' 5 5, xd := w.extractLsb' 0 5 }
def XL.ofWord (w : Word) : Option XL :=
  if w.extractLsb' 23 1 == 0#1 then some { hw := w.extractLsb' 21 2, imm := w.extractLsb' 5 16, xd := w.extractLsb' 0 5 } else none
def XC.ofWord (w : Word) : Option XC :=
  if w.extractLsb' 17 7 == 0#7 then some { xb := w.extractLsb' 12 5, xa := w.extractLsb' 7 5, cond := w.extractLsb' 3 4, cd := w.extractLsb' 0 3 } else none
def XCI.ofWord (w : Word) : Option XCI :=
  some { imm := w.extractLsb' 12 12, xa := w.extractLsb' 7 5, cond := w.extractLsb' 3 4, cd := w.extractLsb' 0 3 }
def XJ.ofWord (w : Word) : Option XJ :=
  some { off := w.extractLsb' 0 24 }
def YY.ofWord (w : Word) : Option YY :=
  some { f10 := w.extractLsb' 14 10, a := w.extractLsb' 10 4, ra := w.extractLsb' 5 5, rd := w.extractLsb' 0 5 }
def YT.ofWord (w : Word) : Option YT :=
  if w.extractLsb' 0 8 == 0#8 then some { imm := w.extractLsb' 8 16 } else none

/-- One row of a class: its opcode, the bits that spec/opcode_table.json fixes for it (how many, which, and their
value), and its reading of a word. -/
structure Row where
  op : Nat
  fixedBits : Nat
  mask : Word
  pat : Word
  read : Word → Option Instr

def sysRows : List Row := [
  ⟨0x01, 16, 0xFF0000FF#32, 0x01000000#32, fun w => (YT.ofWord w).map .trap⟩,
  ⟨0x03, 17, 0xFF003FE0#32, 0x03000000#32, fun w => (YY.ofWord w).map .mfsr⟩,
  ⟨0x04, 17, 0xFF003C1F#32, 0x04000000#32, fun w => (YY.ofWord w).map .mtsr⟩,
  ⟨0x05, 22, 0xFFFFFC00#32, 0x05000000#32, fun w => (YY.ofWord w).map .pgmap⟩,
  ⟨0x06, 27, 0xFFFFFC1F#32, 0x06000000#32, fun w => (YY.ofWord w).map .pgunmap⟩,
  ⟨0x07, 27, 0xFFFFFC1F#32, 0x07000000#32, fun w => (YY.ofWord w).map .tlbinvPage⟩,
  ⟨0x07, 27, 0xFFFFFC1F#32, 0x0700C000#32, fun w => (YY.ofWord w).map .tlbinvGpage⟩,
  ⟨0x07, 27, 0xFFFFFC1F#32, 0x07010000#32, fun w => (YY.ofWord w).map .tlbinvS2⟩,
  ⟨0x07, 27, 0xFFFFFC1F#32, 0x07014000#32, fun w => (YY.ofWord w).map .tlbinvS2all⟩,
  ⟨0x08, 23, 0xFFFFC01F#32, 0x08000000#32, fun w => (YY.ofWord w).map .spilla⟩,
  ⟨0x09, 23, 0xFFFFC01F#32, 0x09000000#32, fun w => (YY.ofWord w).map .filla⟩,
  ⟨0x0A, 19, 0xFFC03C1F#32, 0x0A000000#32, fun w => (YY.ofWord w).map .savel⟩,
  ⟨0x0B, 19, 0xFFC03C1F#32, 0x0B000000#32, fun w => (YY.ofWord w).map .loadl⟩,
  ⟨0x0C, 23, 0xFFFC3FE0#32, 0x0C000000#32, fun w => (YY.ofWord w).map .waitev⟩,
  ⟨0x00, 32, 0xFFFFFFFF#32, 0x00000000#32, fun w => if w = 0x00000000 then some .nop else none⟩,
  ⟨0x02, 32, 0xFFFFFFFF#32, 0x02000000#32, fun w => if w = 0x02000000 then some .eret else none⟩,
  ⟨0x07, 32, 0xFFFFFFFF#32, 0x07004000#32, fun w => if w = 0x07004000 then some .tlbinvCtx else none⟩,
  ⟨0x07, 32, 0xFFFFFFFF#32, 0x07008000#32, fun w => if w = 0x07008000 then some .tlbinvPart else none⟩]

def frontRows0 : List Row := [
  ⟨0x00, 17, 0xFFFF8000#32, 0x00000000#32, fun w => (XR.ofWord w).map .add⟩,
  ⟨0x01, 17, 0xFFFF8000#32, 0x01000000#32, fun w => (XR.ofWord w).map .sub⟩,
  ⟨0x02, 17, 0xFFFF8000#32, 0x02000000#32, fun w => (XR.ofWord w).map .mul⟩,
  ⟨0x03, 17, 0xFFFF8000#32, 0x03000000#32, fun w => (XR.ofWord w).map .mulh⟩,
  ⟨0x04, 17, 0xFFFF8000#32, 0x04000000#32, fun w => (XR.ofWord w).map .divu⟩,
  ⟨0x05, 17, 0xFFFF8000#32, 0x05000000#32, fun w => (XR.ofWord w).map .remu⟩,
  ⟨0x06, 17, 0xFFFF8000#32, 0x06000000#32, fun w => (XR.ofWord w).map .frontAnd⟩,
  ⟨0x07, 17, 0xFFFF8000#32, 0x07000000#32, fun w => (XR.ofWord w).map .frontOr⟩,
  ⟨0x08, 17, 0xFFFF8000#32, 0x08000000#32, fun w => (XR.ofWord w).map .frontXor⟩,
  ⟨0x09, 17, 0xFFFF8000#32, 0x09000000#32, fun w => (XR.ofWord w).map .frontShl⟩,
  ⟨0x0A, 17, 0xFFFF8000#32, 0x0A000000#32, fun w => (XR.ofWord w).map .frontShr⟩,
  ⟨0x0B, 17, 0xFFFF8000#32, 0x0B000000#32, fun w => (XR.ofWord w).map .frontSar⟩,
  ⟨0x0C, 17, 0xFFFF8000#32, 0x0C000000#32, fun w => (XR.ofWord w).map .min⟩,
  ⟨0x0D, 17, 0xFFFF8000#32, 0x0D000000#32, fun w => (XR.ofWord w).map .max⟩,
  ⟨0x10, 8, 0xFF000000#32, 0x10000000#32, fun w => (XI.ofWord w).map .addi⟩,
  ⟨0x11, 8, 0xFF000000#32, 0x11000000#32, fun w => (XI.ofWord w).map .frontAndi⟩,
  ⟨0x12, 8, 0xFF000000#32, 0x12000000#32, fun w => (XI.ofWord w).map .frontOri⟩,
  ⟨0x13, 8, 0xFF000000#32, 0x13000000#32, fun w => (XI.ofWord w).map .frontShli⟩,
  ⟨0x14, 8, 0xFF000000#32, 0x14000000#32, fun w => (XI.ofWord w).map .frontShri⟩,
  ⟨0x15, 11, 0xFFE00000#32, 0x15000000#32, fun w => (XL.ofWord w).map .li⟩,
  ⟨0x16, 9, 0xFF800000#32, 0x16000000#32, fun w => (XL.ofWord w).map .lih⟩,
  ⟨0x18, 15, 0xFFFE0000#32, 0x18000000#32, fun w => (XC.ofWord w).map .cmp⟩,
  ⟨0x19, 8, 0xFF000000#32, 0x19000000#32, fun w => (XCI.ofWord w).map .cmpi⟩,
  ⟨0x20, 17, 0xFFFF8000#32, 0x20000000#32, fun w => (XR.ofWord w).map .fadds⟩,
  ⟨0x21, 17, 0xFFFF8000#32, 0x21000000#32, fun w => (XR.ofWord w).map .fmuls⟩,
  ⟨0x22, 17, 0xFFFF8000#32, 0x22000000#32, fun w => (XR.ofWord w).map .ffmas⟩,
  ⟨0x23, 17, 0xFFFF8000#32, 0x23000000#32, fun w => (XR.ofWord w).map .fdivs⟩,
  ⟨0x24, 15, 0xFFFE0000#32, 0x24000000#32, fun w => (XC.ofWord w).map .fcmps⟩,
  ⟨0x25, 14, 0xFF00FC00#32, 0x25000000#32, fun w => (XR.ofWord w).map .fcvts⟩,
  ⟨0x30, 8, 0xFF000000#32, 0x30000000#32, fun w => (XI.ofWord w).map .ldx⟩]
def frontRows1 : List Row := [
  ⟨0x31, 8, 0xFF000000#32, 0x31000000#32, fun w => (XI.ofWord w).map .stx⟩,
  ⟨0x32, 10, 0xFF018000#32, 0x32000000#32, fun w => (XR.ofWord w).map .atmx⟩,
  ⟨0x40, 8, 0xFF000000#32, 0x40000000#32, fun w => (CB.ofWord w).map .bc⟩,
  ⟨0x41, 8, 0xFF000000#32, 0x41000000#32, fun w => (XJ.ofWord w).map .j⟩,
  ⟨0x42, 8, 0xFF000000#32, 0x42000000#32, fun w => (XJ.ofWord w).map .jal⟩,
  ⟨0x43, 27, 0xFFFFFC1F#32, 0x43000000#32, fun w => (XR.ofWord w).map .jr⟩,
  ⟨0x50, 23, 0xFFFFFC10#32, 0x50000000#32, fun w => (XR.ofWord w).map .tmset⟩,
  ⟨0x51, 23, 0xFFFFFC10#32, 0x51000000#32, fun w => (XR.ofWord w).map .tmadv⟩,
  ⟨0x52, 23, 0xFFFFFE00#32, 0x52000000#32, fun w => (XR.ofWord w).map .tmget⟩,
  ⟨0x58, 23, 0xFF0FFC1F#32, 0x58000000#32, fun w => (XR.ofWord w).map .dqpush⟩,
  ⟨0x60, 27, 0xFFFFFFE0#32, 0x60000000#32, fun w => (XR.ofWord w).map .ovfget⟩,
  ⟨0x61, 27, 0xFFFFFC1F#32, 0x61000000#32, fun w => (XR.ofWord w).map .lsupd⟩,
  ⟨0x68, 22, 0xFFFFFC00#32, 0x68000000#32, fun w => (XR.ofWord w).map .nadd⟩,
  ⟨0x69, 17, 0xFFFF8000#32, 0x69000000#32, fun w => (XR.ofWord w).map .nwdraw⟩,
  ⟨0x6A, 22, 0xFFFFFC00#32, 0x6A000000#32, fun w => (XR.ofWord w).map .nstat⟩,
  ⟨0x44, 32, 0xFFFFFFFF#32, 0x44000000#32, fun w => if w = 0x44000000 then some .btok else none⟩,
  ⟨0x70, 32, 0xFFFFFFFF#32, 0x70000000#32, fun w => if w = 0x70000000 then some .fexit else none⟩]
def frontRows : List Row := frontRows0 ++ frontRows1

def vecRows0 : List Row := [
  ⟨0x00, 8, 0xFF000000#32, 0x00000000#32, fun w => (VV.ofWord w).map .iadd⟩,
  ⟨0x01, 8, 0xFF000000#32, 0x01000000#32, fun w => (VV.ofWord w).map .isub⟩,
  ⟨0x02, 8, 0xFF000000#32, 0x02000000#32, fun w => (VV.ofWord w).map .imul⟩,
  ⟨0x03, 8, 0xFF000000#32, 0x03000000#32, fun w => (VV.ofWord w).map .imulh⟩,
  ⟨0x04, 8, 0xFF000000#32, 0x04000000#32, fun w => (VV.ofWord w).map .umulh⟩,
  ⟨0x05, 8, 0xFF000000#32, 0x05000000#32, fun w => (VV.ofWord w).map .imad⟩,
  ⟨0x06, 17, 0xFFFF8000#32, 0x06000000#32, fun w => (VV.ofWord w).map .iabs⟩,
  ⟨0x07, 17, 0xFFFF8000#32, 0x07000000#32, fun w => (VV.ofWord w).map .ineg⟩,
  ⟨0x08, 8, 0xFF000000#32, 0x08000000#32, fun w => (VV.ofWord w).map .imin⟩,
  ⟨0x09, 8, 0xFF000000#32, 0x09000000#32, fun w => (VV.ofWord w).map .imax⟩,
  ⟨0x0A, 8, 0xFF000000#32, 0x0A000000#32, fun w => (VV.ofWord w).map .umin⟩,
  ⟨0x0B, 8, 0xFF000000#32, 0x0B000000#32, fun w => (VV.ofWord w).map .umax⟩,
  ⟨0x0C, 8, 0xFF000000#32, 0x0C000000#32, fun w => (VV.ofWord w).map .and⟩,
  ⟨0x0D, 8, 0xFF000000#32, 0x0D000000#32, fun w => (VV.ofWord w).map .or⟩,
  ⟨0x0E, 8, 0xFF000000#32, 0x0E000000#32, fun w => (VV.ofWord w).map .xor⟩,
  ⟨0x0F, 8, 0xFF000000#32, 0x0F000000#32, fun w => (VV.ofWord w).map .andn⟩,
  ⟨0x10, 8, 0xFF000000#32, 0x10000000#32, fun w => (VV.ofWord w).map .shl⟩,
  ⟨0x11, 8, 0xFF000000#32, 0x11000000#32, fun w => (VV.ofWord w).map .shr⟩,
  ⟨0x12, 8, 0xFF000000#32, 0x12000000#32, fun w => (VV.ofWord w).map .sar⟩,
  ⟨0x13, 17, 0xFFFF8000#32, 0x13000000#32, fun w => (VV.ofWord w).map .clz⟩,
  ⟨0x14, 17, 0xFFFF8000#32, 0x14000000#32, fun w => (VV.ofWord w).map .popc⟩,
  ⟨0x15, 17, 0xFFFF8000#32, 0x15000000#32, fun w => (VV.ofWord w).map .brev⟩,
  ⟨0x16, 8, 0xFF000000#32, 0x16000000#32, fun w => (VV.ofWord w).map .bfx⟩,
  ⟨0x17, 8, 0xFF000000#32, 0x17000000#32, fun w => (VV.ofWord w).map .bfxu⟩,
  ⟨0x18, 8, 0xFF000000#32, 0x18000000#32, fun w => (VV.ofWord w).map .bfi⟩,
  ⟨0x19, 8, 0xFF000000#32, 0x19000000#32, fun w => (VV.ofWord w).map .idiv⟩,
  ⟨0x1A, 8, 0xFF000000#32, 0x1A000000#32, fun w => (VV.ofWord w).map .udiv⟩,
  ⟨0x1B, 8, 0xFF000000#32, 0x1B000000#32, fun w => (VV.ofWord w).map .irem⟩,
  ⟨0x1C, 8, 0xFF000000#32, 0x1C000000#32, fun w => (VV.ofWord w).map .urem⟩,
  ⟨0x20, 8, 0xFF000000#32, 0x20000000#32, fun w => (VI.ofWord w).map .iaddi⟩]
def vecRows1 : List Row := [
  ⟨0x21, 8, 0xFF000000#32, 0x21000000#32, fun w => (VI.ofWord w).map .andi⟩,
  ⟨0x22, 8, 0xFF000000#32, 0x22000000#32, fun w => (VI.ofWord w).map .ori⟩,
  ⟨0x23, 8, 0xFF000000#32, 0x23000000#32, fun w => (VI.ofWord w).map .xori⟩,
  ⟨0x24, 8, 0xFF000000#32, 0x24000000#32, fun w => (VI.ofWord w).map .shli⟩,
  ⟨0x25, 8, 0xFF000000#32, 0x25000000#32, fun w => (VI.ofWord w).map .shri⟩,
  ⟨0x26, 8, 0xFF000000#32, 0x26000000#32, fun w => (VI.ofWord w).map .sari⟩,
  ⟨0x27, 9, 0xFF000080#32, 0x27000000#32, fun w => (VM.ofWord w).map .movi⟩,
  ⟨0x28, 9, 0xFF000080#32, 0x28000000#32, fun w => (VM.ofWord w).map .movhi⟩,
  ⟨0x30, 17, 0xFFFF8000#32, 0x30000000#32, fun w => (VV.ofWord w).map .mov⟩,
  ⟨0x31, 13, 0xFF0F8000#32, 0x31000000#32, fun w => (VK.ofWord w).map .sel⟩,
  ⟨0x32, 8, 0xFF000000#32, 0x32000000#32, fun w => (VV.ofWord w).map .shfl⟩,
  ⟨0x33, 8, 0xFF000000#32, 0x33000000#32, fun w => (VV.ofWord w).map .shflup⟩,
  ⟨0x34, 8, 0xFF000000#32, 0x34000000#32, fun w => (VV.ofWord w).map .shfldn⟩,
  ⟨0x35, 8, 0xFF000000#32, 0x35000000#32, fun w => (VV.ofWord w).map .shflx⟩,
  ⟨0x36, 8, 0xFF000000#32, 0x36000000#32, fun w => (VV.ofWord w).map .bcast⟩,
  ⟨0x37, 25, 0xFFFFFF80#32, 0x37000000#32, fun w => (VV.ofWord w).map .laneid⟩,
  ⟨0x38, 20, 0xFFF07F80#32, 0x38800000#32, fun w => (VV.ofWord w).map .s2v⟩,
  ⟨0x38, 20, 0xFFF07F80#32, 0x38C00000#32, fun w => (VV.ofWord w).map .s2vSib⟩,
  ⟨0x39, 19, 0xFFFF8060#32, 0x39000000#32, fun w => (VV.ofWord w).map .v2s⟩,
  ⟨0x40, 8, 0xFF000000#32, 0x40000000#32, fun w => (VC.ofWord w).map .icmp⟩,
  ⟨0x41, 8, 0xFF000000#32, 0x41000000#32, fun w => (VC.ofWord w).map .ucmp⟩,
  ⟨0x42, 8, 0xFF000000#32, 0x42000000#32, fun w => (VC.ofWord w).map .fcmp⟩,
  ⟨0x43, 8, 0xFF000000#32, 0x43000000#32, fun w => (VC.ofWord w).map .dcmp⟩,
  ⟨0x50, 8, 0xFF000000#32, 0x50000000#32, fun w => (VV.ofWord w).map .fadd⟩,
  ⟨0x51, 8, 0xFF000000#32, 0x51000000#32, fun w => (VV.ofWord w).map .fsub⟩,
  ⟨0x52, 8, 0xFF000000#32, 0x52000000#32, fun w => (VV.ofWord w).map .fmul⟩,
  ⟨0x53, 8, 0xFF000000#32, 0x53000000#32, fun w => (VV.ofWord w).map .ffma⟩,
  ⟨0x54, 8, 0xFF000000#32, 0x54000000#32, fun w => (VV.ofWord w).map .fmin⟩,
  ⟨0x55, 8, 0xFF000000#32, 0x55000000#32, fun w => (VV.ofWord w).map .fmax⟩,
  ⟨0x56, 17, 0xFFFF8000#32, 0x56000000#32, fun w => (VV.ofWord w).map .fabs⟩]
def vecRows2 : List Row := [
  ⟨0x57, 17, 0xFFFF8000#32, 0x57000000#32, fun w => (VV.ofWord w).map .fneg⟩,
  ⟨0x58, 8, 0xFF000000#32, 0x58000000#32, fun w => (VV.ofWord w).map .fdiv⟩,
  ⟨0x59, 17, 0xFFFF8000#32, 0x59000000#32, fun w => (VV.ofWord w).map .fsqrt⟩,
  ⟨0x5A, 17, 0xFFFF8000#32, 0x5A000000#32, fun w => (VV.ofWord w).map .frcp⟩,
  ⟨0x5B, 17, 0xFFFF8000#32, 0x5B000000#32, fun w => (VV.ofWord w).map .frsq⟩,
  ⟨0x5C, 17, 0xFFFF8000#32, 0x5C000000#32, fun w => (VV.ofWord w).map .fexp2⟩,
  ⟨0x5D, 17, 0xFFFF8000#32, 0x5D000000#32, fun w => (VV.ofWord w).map .flog2⟩,
  ⟨0x5E, 17, 0xFFFF8000#32, 0x5E000000#32, fun w => (VV.ofWord w).map .ftanh⟩,
  ⟨0x5F, 17, 0xFFFF8000#32, 0x5F000000#32, fun w => (VV.ofWord w).map .frnd⟩,
  ⟨0x60, 17, 0xFFFF8000#32, 0x60000000#32, fun w => (VV.ofWord w).map .fclass⟩,
  ⟨0x70, 8, 0xFF000000#32, 0x70000000#32, fun w => (VV.ofWord w).map .dadd⟩,
  ⟨0x71, 8, 0xFF000000#32, 0x71000000#32, fun w => (VV.ofWord w).map .dsub⟩,
  ⟨0x72, 8, 0xFF000000#32, 0x72000000#32, fun w => (VV.ofWord w).map .dmul⟩,
  ⟨0x73, 8, 0xFF000000#32, 0x73000000#32, fun w => (VV.ofWord w).map .dfma⟩,
  ⟨0x74, 8, 0xFF000000#32, 0x74000000#32, fun w => (VV.ofWord w).map .dmin⟩,
  ⟨0x75, 8, 0xFF000000#32, 0x75000000#32, fun w => (VV.ofWord w).map .dmax⟩,
  ⟨0x76, 8, 0xFF000000#32, 0x76000000#32, fun w => (VV.ofWord w).map .ddiv⟩,
  ⟨0x77, 17, 0xFFFF8000#32, 0x77000000#32, fun w => (VV.ofWord w).map .dsqrt⟩,
  ⟨0x80, 8, 0xFF000000#32, 0x80000000#32, fun w => (VT.ofWord w).map .cvt⟩,
  ⟨0x81, 8, 0xFF000000#32, 0x81000000#32, fun w => (VT.ofWord w).map .pack2⟩,
  ⟨0x82, 8, 0xFF000000#32, 0x82000000#32, fun w => (VT.ofWord w).map .unpack2⟩,
  ⟨0x90, 14, 0xFF078060#32, 0x90000000#32, fun w => (VR.ofWord w).map .redf⟩,
  ⟨0x91, 14, 0xFF078060#32, 0x91000000#32, fun w => (VR.ofWord w).map .redfmin⟩,
  ⟨0x92, 14, 0xFF078060#32, 0x92000000#32, fun w => (VR.ofWord w).map .redfmax⟩,
  ⟨0x93, 14, 0xFF078060#32, 0x93000000#32, fun w => (VR.ofWord w).map .redi⟩,
  ⟨0x94, 12, 0xFF0F0000#32, 0x94000000#32, fun w => (VK.ofWord w).map .scani⟩,
  ⟨0xA0, 20, 0xFF000FFF#32, 0xA0000000#32, fun w => (KF.ofWord w).map .kand⟩,
  ⟨0xA1, 20, 0xFF000FFF#32, 0xA1000000#32, fun w => (KF.ofWord w).map .kor⟩,
  ⟨0xA2, 20, 0xFF000FFF#32, 0xA2000000#32, fun w => (KF.ofWord w).map .kxor⟩,
  ⟨0xA3, 24, 0xFF0F0FFF#32, 0xA3000000#32, fun w => (KF.ofWord w).map .knot⟩]
def vecRows3 : List Row := [
  ⟨0xA4, 24, 0xFF0F0FFF#32, 0xA4000000#32, fun w => (KF.ofWord w).map .kmov⟩,
  ⟨0xA5, 19, 0xFF00FFE0#32, 0xA5000000#32, fun w => (KF.ofWord w).map .kpop⟩,
  ⟨0xA6, 21, 0xFF00FFF8#32, 0xA6000000#32, fun w => (KF.ofWord w).map .kany⟩,
  ⟨0xA7, 21, 0xFF00FFF8#32, 0xA7000000#32, fun w => (KF.ofWord w).map .kall⟩,
  ⟨0xA8, 15, 0xFF000FE0#32, 0xA8000000#32, fun w => (KF.ofWord w).map .kfirst⟩,
  ⟨0xB0, 17, 0xFFFF8000#32, 0xB0000000#32, fun w => (SF.ofWord w).map .sadd⟩,
  ⟨0xB1, 17, 0xFFFF8000#32, 0xB1000000#32, fun w => (SF.ofWord w).map .ssub⟩,
  ⟨0xB2, 17, 0xFFFF8000#32, 0xB2000000#32, fun w => (SF.ofWord w).map .smul⟩,
  ⟨0xB3, 17, 0xFFFF8000#32, 0xB3000000#32, fun w => (SF.ofWord w).map .sand⟩,
  ⟨0xB4, 17, 0xFFFF8000#32, 0xB4000000#32, fun w => (SF.ofWord w).map .sor⟩,
  ⟨0xB5, 17, 0xFFFF8000#32, 0xB5000000#32, fun w => (SF.ofWord w).map .sxor⟩,
  ⟨0xB6, 17, 0xFFFF8000#32, 0xB6000000#32, fun w => (SF.ofWord w).map .sshl⟩,
  ⟨0xB7, 17, 0xFFFF8000#32, 0xB7000000#32, fun w => (SF.ofWord w).map .sshr⟩,
  ⟨0xB8, 22, 0xFFFFFC00#32, 0xB8000000#32, fun w => (SF.ofWord w).map .smov⟩,
  ⟨0xB9, 11, 0xFFE00000#32, 0xB9000000#32, fun w => (SI.ofWord w).map .smovi⟩,
  ⟨0xBA, 15, 0xFF0F8018#32, 0xBA000000#32, fun w => (SF.ofWord w).map .scmp⟩,
  ⟨0xC0, 16, 0xFFBF8000#32, 0xC0000000#32, fun w => (VV.ofWord w).map .dig⟩,
  ⟨0xC1, 16, 0xFFBF8000#32, 0xC1000000#32, fun w => (VV.ofWord w).map .tmean⟩,
  ⟨0xC2, 8, 0xFF000000#32, 0xC2000000#32, fun w => (VV.ofWord w).map .tspread⟩,
  ⟨0xC3, 14, 0xFFBE0000#32, 0xC3000000#32, fun w => (VV.ofWord w).map .sibsel⟩,
  ⟨0xC4, 8, 0xFF000000#32, 0xC4000000#32, fun w => (VV.ofWord w).map .tchk⟩]
def vecRows : List Row := vecRows0 ++ vecRows1 ++ vecRows2 ++ vecRows3

def memRows : List Row := [
  ⟨0x00, 8, 0xFF000000#32, 0x00000000#32, fun w => (MV.ofWord w).map .ld⟩,
  ⟨0x01, 9, 0xFF100000#32, 0x01000000#32, fun w => (MV.ofWord w).map .st⟩,
  ⟨0x02, 11, 0xFFD00000#32, 0x02400000#32, fun w => (MV.ofWord w).map .ldt⟩,
  ⟨0x03, 11, 0xFFD00000#32, 0x03400000#32, fun w => (MV.ofWord w).map .stt⟩,
  ⟨0x04, 8, 0xFF000000#32, 0x04000000#32, fun w => (MS.ofWord w).map .lds⟩,
  ⟨0x05, 9, 0xFF100000#32, 0x05000000#32, fun w => (MS.ofWord w).map .sts⟩,
  ⟨0x06, 8, 0xFF000000#32, 0x06000000#32, fun w => (MU.ofWord w).map .ldu⟩,
  ⟨0x07, 9, 0xFF100000#32, 0x07000000#32, fun w => (MU.ofWord w).map .stu⟩,
  ⟨0x08, 8, 0xFF000000#32, 0x08000000#32, fun w => (MA.ofWord w).map .atom⟩,
  ⟨0x09, 13, 0xFFF08000#32, 0x09000000#32, fun w => (MA.ofWord w).map .acas⟩,
  ⟨0x0A, 8, 0xFF000000#32, 0x0A000000#32, fun w => (MA.ofWord w).map .fatom⟩,
  ⟨0x0B, 8, 0xFF000000#32, 0x0B000000#32, fun w => (MS.ofWord w).map .atoms⟩,
  ⟨0x0C, 19, 0xFFF0007F#32, 0x0C000000#32, fun w => (MV.ofWord w).map .pref⟩,
  ⟨0x0D, 19, 0xFFF0007F#32, 0x0D000000#32, fun w => (MV.ofWord w).map .clean⟩,
  ⟨0x10, 29, 0xFFF1FFFF#32, 0x10000000#32, fun w => (MF.ofWord w).map .fence⟩,
  ⟨0x12, 22, 0xFFFF801F#32, 0x12000000#32, fun w => (MF.ofWord w).map .afence⟩,
  ⟨0x13, 22, 0xFFFF801F#32, 0x13000000#32, fun w => (MF.ofWord w).map .seal⟩,
  ⟨0x14, 22, 0xFFFF801F#32, 0x14000000#32, fun w => (MF.ofWord w).map .unseal⟩,
  ⟨0x11, 32, 0xFFFFFFFF#32, 0x11000000#32, fun w => if w = 0x11000000 then some .pfence else none⟩]

def matRows : List Row := [
  ⟨0x00, 20, 0xFF000FFF#32, 0x00000000#32, fun w => (MM.ofWord w).map .mmab⟩,
  ⟨0x01, 20, 0xFF000FFF#32, 0x01000000#32, fun w => (MM.ofWord w).map .mmah⟩,
  ⟨0x02, 8, 0xFF000000#32, 0x02000000#32, fun w => (MM.ofWord w).map .mmas8⟩,
  ⟨0x03, 8, 0xFF000000#32, 0x03000000#32, fun w => (MM.ofWord w).map .mmas4⟩,
  ⟨0x04, 28, 0xFF0FFFFF#32, 0x04000000#32, fun w => (MM.ofWord w).map .mzero⟩,
  ⟨0x05, 24, 0xFF00FFFF#32, 0x05000000#32, fun w => (MM.ofWord w).map .mlda⟩,
  ⟨0x06, 24, 0xFF00FFFF#32, 0x06000000#32, fun w => (MM.ofWord w).map .msta⟩,
  ⟨0x07, 21, 0xFF0FFF80#32, 0x07000000#32, fun w => (MM.ofWord w).map .mdrv⟩,
  ⟨0x08, 24, 0xFF00FFFF#32, 0x08000000#32, fun w => (MM.ofWord w).map .mdrs⟩,
  ⟨0x09, 16, 0xFF0FF000#32, 0x09000000#32, fun w => (MM.ofWord w).map .mcvt⟩,
  ⟨0x0A, 28, 0xFF0FFFFF#32, 0x0A000000#32, fun w => (MM.ofWord w).map .msig⟩,
  ⟨0x0B, 27, 0xFFFFFFE0#32, 0x0B000000#32, fun w => (MM.ofWord w).map .msigxSt⟩,
  ⟨0x0B, 27, 0xFFFFFFE0#32, 0x0B000080#32, fun w => (MM.ofWord w).map .msigxCmp⟩,
  ⟨0x0C, 30, 0xFFFFFFFC#32, 0x0C000000#32, fun w => (MM.ofWord w).map .mtrip⟩]

def engRows : List Row := [
  ⟨0x00, 10, 0xFFC00000#32, 0x00800000#32, fun w => (EE.ofWord w).map .cpy⟩,
  ⟨0x01, 15, 0xFFC07C00#32, 0x01800000#32, fun w => (EE.ofWord w).map .cpy2⟩,
  ⟨0x02, 10, 0xFFC00000#32, 0x02800000#32, fun w => (EE.ofWord w).map .cpyt⟩,
  ⟨0x03, 15, 0xFFC07C00#32, 0x03800000#32, fun w => (EE.ofWord w).map .cpyr⟩,
  ⟨0x04, 15, 0xFFC07C00#32, 0x04800000#32, fun w => (EE.ofWord w).map .cpym⟩,
  ⟨0x05, 15, 0xFFC07C00#32, 0x05800000#32, fun w => (EE.ofWord w).map .gthr⟩,
  ⟨0x06, 15, 0xFFC07C00#32, 0x06800000#32, fun w => (EE.ofWord w).map .sctr⟩,
  ⟨0x07, 10, 0xFFC00000#32, 0x07800000#32, fun w => (EE.ofWord w).map .fill⟩,
  ⟨0x08, 20, 0xFFC07FE0#32, 0x08800000#32, fun w => (EE.ofWord w).map .coll⟩,
  ⟨0x09, 27, 0xFFF07FFF#32, 0x09000000#32, fun w => (EE.ofWord w).map .carb⟩,
  ⟨0x0A, 10, 0xFFC00000#32, 0x0AC00000#32, fun w => (EE.ofWord w).map .cwait⟩,
  ⟨0x0B, 10, 0xFFC00000#32, 0x0BC00000#32, fun w => (EE.ofWord w).map .cpoll⟩,
  ⟨0x0C, 15, 0xFFC0001F#32, 0x0C800000#32, fun w => (EE.ofWord w).map .migr⟩,
  ⟨0x10, 12, 0xFFF00000#32, 0x10000000#32, fun w => (EE.ofWord w).map .hgsend⟩,
  ⟨0x11, 22, 0xFFF003FF#32, 0x11000000#32, fun w => (EE.ofWord w).map .hgsig⟩,
  ⟨0x12, 12, 0xFFF00000#32, 0x12000000#32, fun w => (EE.ofWord w).map .hgwait⟩,
  ⟨0x13, 12, 0xFFF00000#32, 0x13000000#32, fun w => (EE.ofWord w).map .hgtake⟩,
  ⟨0x14, 17, 0xFFF003E0#32, 0x14000000#32, fun w => (EE.ofWord w).map .hgqry⟩]

def ctlRows : List Row := [
  ⟨0x00, 8, 0xFF000000#32, 0x00000000#32, fun w => (CB.ofWord w).map .b⟩,
  ⟨0x01, 12, 0xFFF00000#32, 0x01000000#32, fun w => (CO.ofWord w).map .bra⟩,
  ⟨0x02, 12, 0xFFF00000#32, 0x02000000#32, fun w => (CO.ofWord w).map .call⟩,
  ⟨0x04, 8, 0xFF000000#32, 0x04000000#32, fun w => (CS.ofWord w).map .split⟩,
  ⟨0x06, 12, 0xFFF00000#32, 0x06000000#32, fun w => (CO.ofWord w).map .waitj⟩,
  ⟨0x07, 12, 0xFF018060#32, 0x07000000#32, fun w => (CJ.ofWord w).map .jtab⟩,
  ⟨0x08, 12, 0xFFF00000#32, 0x08000000#32, fun w => (CO.ofWord w).map .token⟩,
  ⟨0x09, 29, 0xFFF1FFFF#32, 0x09000000#32, fun w => (CR.ofWord w).map .bar⟩,
  ⟨0x0A, 23, 0xFF0FFFE0#32, 0x0A000000#32, fun w => (CQ.ofWord w).map .qpush⟩,
  ⟨0x0B, 23, 0xFF0FFFE0#32, 0x0B000000#32, fun w => (CQ.ofWord w).map .qpop⟩,
  ⟨0x10, 27, 0xFFFFFFE0#32, 0x10000000#32, fun w => (CW.ofWord w).map .waitb⟩,
  ⟨0x11, 31, 0xFFFFFFFE#32, 0x11000000#32, fun w => (CM.ofWord w).map .tmode⟩,
  ⟨0x03, 32, 0xFFFFFFFF#32, 0x03000000#32, fun w => if w = 0x03000000 then some .ret else none⟩,
  ⟨0x05, 32, 0xFFFFFFFF#32, 0x05000000#32, fun w => if w = 0x05000000 then some .join else none⟩,
  ⟨0x0C, 32, 0xFFFFFFFF#32, 0x0C000000#32, fun w => if w = 0x0C000000 then some .xacq else none⟩,
  ⟨0x0D, 32, 0xFFFFFFFF#32, 0x0D000000#32, fun w => if w = 0x0D000000 then some .xrel else none⟩,
  ⟨0x0E, 32, 0xFFFFFFFF#32, 0x0E000000#32, fun w => if w = 0x0E000000 then some .yield else none⟩,
  ⟨0x0F, 32, 0xFFFFFFFF#32, 0x0F000000#32, fun w => if w = 0x0F000000 then some .exit else none⟩]

/-- The opcode map (R44). -/
def rowsOf : Cls → List Row
  | .sys => sysRows
  | .front => frontRows
  | .vec => vecRows
  | .mem => memRows
  | .mat => matRows
  | .eng => engRows
  | .ctl => ctlRows

/-- The rows of the class that read the word as a well-formed instruction. -/
def readRow (w : Word) (r : Row) : Option Instr :=
  if r.op = opcodeOf w then (r.read w).filter (·.wellFormed) else none

/-- The instruction that a word of a clause of class c is (R32). -/
def decode (c : Cls) (w : Word) : Decoded :=
  match (rowsOf c).findSome? (readRow w) with
  | some i => .instr i
  | none =>
    if (rowsOf c).any (fun r => r.op = opcodeOf w) then .reject (.badField (opcodeOf w))
    else .reject (.unassigned (opcodeOf w))

/-! The encoder: the same tables, written from the formats. -/

def VV.bits (f : VV) : BitVec 24 := f.m ++ f.eb ++ f.vb ++ f.ea ++ f.va ++ f.vd
def VI.bits (f : VI) : BitVec 24 := f.imm ++ f.ea ++ f.va ++ f.vd
def VM.bits (f : VM) : BitVec 24 := f.imm ++ 0#1 ++ f.vd
def VC.bits (f : VC) : BitVec 24 := f.cond ++ f.vb ++ f.m ++ f.va ++ f.e ++ f.kd
def VK.bits (f : VK) : BitVec 24 := f.k ++ 0#4 ++ f.x ++ f.ea ++ f.va ++ f.vd
def VT.bits (f : VT) : BitVec 24 := f.dst ++ f.src ++ f.sat ++ f.ea ++ f.va ++ f.vd
def VR.bits (f : VR) : BitVec 24 := f.k ++ f.d ++ 0#4 ++ f.ea ++ f.va ++ 0#2 ++ f.sd
def KF.bits (f : KF) : BitVec 24 := f.ka ++ f.kb ++ f.kd ++ 0#7 ++ f.sd
def SF.bits (f : SF) : BitVec 24 := f.cond ++ 0#5 ++ f.sb ++ f.sa ++ f.sd
def SI.bits (f : SI) : BitVec 24 := 0#3 ++ f.imm ++ f.sd
def MV.bits (f : MV) : BitVec 24 := f.width ++ f.sx ++ f.sb ++ f.ea ++ f.va ++ f.data
def MA.bits (f : MA) : BitVec 24 := f.op ++ f.scope ++ f.w64 ++ f.nr ++ f.ea ++ f.va ++ f.data
def MS.bits (f : MS) : BitVec 24 := f.hi ++ f.t ++ f.map ++ f.ea ++ f.va ++ f.data
def MU.bits (f : MU) : BitVec 24 := f.width ++ f.sx ++ f.sb ++ f.imm ++ f.sd
def MF.bits (f : MF) : BitVec 24 := 0#4 ++ f.scope ++ 0#2 ++ f.sb ++ f.sl ++ 0#5
def MM.bits (f : MM) : BitVec 24 := f.ad ++ f.ta ++ f.tb ++ f.sel ++ f.vs
def EE.bits (f : EE) : BitVec 24 := f.q ++ f.ra ++ f.rb ++ f.rc ++ f.rd
def CB.bits (f : CB) : BitVec 24 := f.c ++ f.sense ++ f.off
def CO.bits (f : CO) : BitVec 24 := 0#4 ++ f.off
def CS.bits (f : CS) : BitVec 24 := f.k ++ f.target ++ f.join
def CJ.bits (f : CJ) : BitVec 24 := f.n1 ++ 0#2 ++ f.ea ++ f.va ++ 0#2 ++ f.sb
def CR.bits (f : CR) : BitVec 24 := 0#4 ++ f.scope ++ 0#17
def CQ.bits (f : CQ) : BitVec 24 := f.q ++ 0#15 ++ f.s
def CW.bits (f : CW) : BitVec 24 := 0#19 ++ f.s
def CM.bits (f : CM) : BitVec 24 := 0#23 ++ f.mode
def XR.bits (f : XR) : BitVec 24 := f.f9 ++ f.xb ++ f.xa ++ f.xd
def XI.bits (f : XI) : BitVec 24 := f.imm ++ f.xa ++ f.xd
def XL.bits (f : XL) : BitVec 24 := 0#1 ++ f.hw ++ f.imm ++ f.xd
def XC.bits (f : XC) : BitVec 24 := 0#7 ++ f.xb ++ f.xa ++ f.cond ++ f.cd
def XCI.bits (f : XCI) : BitVec 24 := f.imm ++ f.xa ++ f.cond ++ f.cd
def XJ.bits (f : XJ) : BitVec 24 := f.off
def YY.bits (f : YY) : BitVec 24 := f.f10 ++ f.a ++ f.ra ++ f.rd
def YT.bits (f : YT) : BitVec 24 := f.imm ++ 0#8

/-- The class and the word of an instruction; none for the steps of other agents, which have no encoding. -/
def encode : Instr → Option (Cls × Word)
  | .iadd f => some (.vec, 0x00#8 ++ f.bits)
  | .isub f => some (.vec, 0x01#8 ++ f.bits)
  | .imul f => some (.vec, 0x02#8 ++ f.bits)
  | .imulh f => some (.vec, 0x03#8 ++ f.bits)
  | .umulh f => some (.vec, 0x04#8 ++ f.bits)
  | .imad f => some (.vec, 0x05#8 ++ f.bits)
  | .iabs f => some (.vec, 0x06#8 ++ f.bits)
  | .ineg f => some (.vec, 0x07#8 ++ f.bits)
  | .imin f => some (.vec, 0x08#8 ++ f.bits)
  | .imax f => some (.vec, 0x09#8 ++ f.bits)
  | .umin f => some (.vec, 0x0A#8 ++ f.bits)
  | .umax f => some (.vec, 0x0B#8 ++ f.bits)
  | .and f => some (.vec, 0x0C#8 ++ f.bits)
  | .or f => some (.vec, 0x0D#8 ++ f.bits)
  | .xor f => some (.vec, 0x0E#8 ++ f.bits)
  | .andn f => some (.vec, 0x0F#8 ++ f.bits)
  | .shl f => some (.vec, 0x10#8 ++ f.bits)
  | .shr f => some (.vec, 0x11#8 ++ f.bits)
  | .sar f => some (.vec, 0x12#8 ++ f.bits)
  | .clz f => some (.vec, 0x13#8 ++ f.bits)
  | .popc f => some (.vec, 0x14#8 ++ f.bits)
  | .brev f => some (.vec, 0x15#8 ++ f.bits)
  | .bfx f => some (.vec, 0x16#8 ++ f.bits)
  | .bfxu f => some (.vec, 0x17#8 ++ f.bits)
  | .bfi f => some (.vec, 0x18#8 ++ f.bits)
  | .idiv f => some (.vec, 0x19#8 ++ f.bits)
  | .udiv f => some (.vec, 0x1A#8 ++ f.bits)
  | .irem f => some (.vec, 0x1B#8 ++ f.bits)
  | .urem f => some (.vec, 0x1C#8 ++ f.bits)
  | .iaddi f => some (.vec, 0x20#8 ++ f.bits)
  | .andi f => some (.vec, 0x21#8 ++ f.bits)
  | .ori f => some (.vec, 0x22#8 ++ f.bits)
  | .xori f => some (.vec, 0x23#8 ++ f.bits)
  | .shli f => some (.vec, 0x24#8 ++ f.bits)
  | .shri f => some (.vec, 0x25#8 ++ f.bits)
  | .sari f => some (.vec, 0x26#8 ++ f.bits)
  | .movi f => some (.vec, 0x27#8 ++ f.bits)
  | .movhi f => some (.vec, 0x28#8 ++ f.bits)
  | .mov f => some (.vec, 0x30#8 ++ f.bits)
  | .sel f => some (.vec, 0x31#8 ++ f.bits)
  | .shfl f => some (.vec, 0x32#8 ++ f.bits)
  | .shflup f => some (.vec, 0x33#8 ++ f.bits)
  | .shfldn f => some (.vec, 0x34#8 ++ f.bits)
  | .shflx f => some (.vec, 0x35#8 ++ f.bits)
  | .bcast f => some (.vec, 0x36#8 ++ f.bits)
  | .laneid f => some (.vec, 0x37#8 ++ f.bits)
  | .s2v f => some (.vec, 0x38#8 ++ f.bits)
  | .s2vSib f => some (.vec, 0x38#8 ++ f.bits)
  | .v2s f => some (.vec, 0x39#8 ++ f.bits)
  | .icmp f => some (.vec, 0x40#8 ++ f.bits)
  | .ucmp f => some (.vec, 0x41#8 ++ f.bits)
  | .fcmp f => some (.vec, 0x42#8 ++ f.bits)
  | .dcmp f => some (.vec, 0x43#8 ++ f.bits)
  | .fadd f => some (.vec, 0x50#8 ++ f.bits)
  | .fsub f => some (.vec, 0x51#8 ++ f.bits)
  | .fmul f => some (.vec, 0x52#8 ++ f.bits)
  | .ffma f => some (.vec, 0x53#8 ++ f.bits)
  | .fmin f => some (.vec, 0x54#8 ++ f.bits)
  | .fmax f => some (.vec, 0x55#8 ++ f.bits)
  | .fabs f => some (.vec, 0x56#8 ++ f.bits)
  | .fneg f => some (.vec, 0x57#8 ++ f.bits)
  | .fdiv f => some (.vec, 0x58#8 ++ f.bits)
  | .fsqrt f => some (.vec, 0x59#8 ++ f.bits)
  | .frcp f => some (.vec, 0x5A#8 ++ f.bits)
  | .frsq f => some (.vec, 0x5B#8 ++ f.bits)
  | .fexp2 f => some (.vec, 0x5C#8 ++ f.bits)
  | .flog2 f => some (.vec, 0x5D#8 ++ f.bits)
  | .ftanh f => some (.vec, 0x5E#8 ++ f.bits)
  | .frnd f => some (.vec, 0x5F#8 ++ f.bits)
  | .fclass f => some (.vec, 0x60#8 ++ f.bits)
  | .dadd f => some (.vec, 0x70#8 ++ f.bits)
  | .dsub f => some (.vec, 0x71#8 ++ f.bits)
  | .dmul f => some (.vec, 0x72#8 ++ f.bits)
  | .dfma f => some (.vec, 0x73#8 ++ f.bits)
  | .dmin f => some (.vec, 0x74#8 ++ f.bits)
  | .dmax f => some (.vec, 0x75#8 ++ f.bits)
  | .ddiv f => some (.vec, 0x76#8 ++ f.bits)
  | .dsqrt f => some (.vec, 0x77#8 ++ f.bits)
  | .cvt f => some (.vec, 0x80#8 ++ f.bits)
  | .pack2 f => some (.vec, 0x81#8 ++ f.bits)
  | .unpack2 f => some (.vec, 0x82#8 ++ f.bits)
  | .redf f => some (.vec, 0x90#8 ++ f.bits)
  | .redfmin f => some (.vec, 0x91#8 ++ f.bits)
  | .redfmax f => some (.vec, 0x92#8 ++ f.bits)
  | .redi f => some (.vec, 0x93#8 ++ f.bits)
  | .scani f => some (.vec, 0x94#8 ++ f.bits)
  | .kand f => some (.vec, 0xA0#8 ++ f.bits)
  | .kor f => some (.vec, 0xA1#8 ++ f.bits)
  | .kxor f => some (.vec, 0xA2#8 ++ f.bits)
  | .knot f => some (.vec, 0xA3#8 ++ f.bits)
  | .kmov f => some (.vec, 0xA4#8 ++ f.bits)
  | .kpop f => some (.vec, 0xA5#8 ++ f.bits)
  | .kany f => some (.vec, 0xA6#8 ++ f.bits)
  | .kall f => some (.vec, 0xA7#8 ++ f.bits)
  | .kfirst f => some (.vec, 0xA8#8 ++ f.bits)
  | .sadd f => some (.vec, 0xB0#8 ++ f.bits)
  | .ssub f => some (.vec, 0xB1#8 ++ f.bits)
  | .smul f => some (.vec, 0xB2#8 ++ f.bits)
  | .sand f => some (.vec, 0xB3#8 ++ f.bits)
  | .sor f => some (.vec, 0xB4#8 ++ f.bits)
  | .sxor f => some (.vec, 0xB5#8 ++ f.bits)
  | .sshl f => some (.vec, 0xB6#8 ++ f.bits)
  | .sshr f => some (.vec, 0xB7#8 ++ f.bits)
  | .smov f => some (.vec, 0xB8#8 ++ f.bits)
  | .smovi f => some (.vec, 0xB9#8 ++ f.bits)
  | .scmp f => some (.vec, 0xBA#8 ++ f.bits)
  | .dig f => some (.vec, 0xC0#8 ++ f.bits)
  | .tmean f => some (.vec, 0xC1#8 ++ f.bits)
  | .tspread f => some (.vec, 0xC2#8 ++ f.bits)
  | .sibsel f => some (.vec, 0xC3#8 ++ f.bits)
  | .tchk f => some (.vec, 0xC4#8 ++ f.bits)
  | .ld f => some (.mem, 0x00#8 ++ f.bits)
  | .st f => some (.mem, 0x01#8 ++ f.bits)
  | .ldt f => some (.mem, 0x02#8 ++ f.bits)
  | .stt f => some (.mem, 0x03#8 ++ f.bits)
  | .lds f => some (.mem, 0x04#8 ++ f.bits)
  | .sts f => some (.mem, 0x05#8 ++ f.bits)
  | .ldu f => some (.mem, 0x06#8 ++ f.bits)
  | .stu f => some (.mem, 0x07#8 ++ f.bits)
  | .atom f => some (.mem, 0x08#8 ++ f.bits)
  | .acas f => some (.mem, 0x09#8 ++ f.bits)
  | .fatom f => some (.mem, 0x0A#8 ++ f.bits)
  | .atoms f => some (.mem, 0x0B#8 ++ f.bits)
  | .pref f => some (.mem, 0x0C#8 ++ f.bits)
  | .clean f => some (.mem, 0x0D#8 ++ f.bits)
  | .fence f => some (.mem, 0x10#8 ++ f.bits)
  | .afence f => some (.mem, 0x12#8 ++ f.bits)
  | .seal f => some (.mem, 0x13#8 ++ f.bits)
  | .unseal f => some (.mem, 0x14#8 ++ f.bits)
  | .mmab f => some (.mat, 0x00#8 ++ f.bits)
  | .mmah f => some (.mat, 0x01#8 ++ f.bits)
  | .mmas8 f => some (.mat, 0x02#8 ++ f.bits)
  | .mmas4 f => some (.mat, 0x03#8 ++ f.bits)
  | .mzero f => some (.mat, 0x04#8 ++ f.bits)
  | .mlda f => some (.mat, 0x05#8 ++ f.bits)
  | .msta f => some (.mat, 0x06#8 ++ f.bits)
  | .mdrv f => some (.mat, 0x07#8 ++ f.bits)
  | .mdrs f => some (.mat, 0x08#8 ++ f.bits)
  | .mcvt f => some (.mat, 0x09#8 ++ f.bits)
  | .msig f => some (.mat, 0x0A#8 ++ f.bits)
  | .msigxSt f => some (.mat, 0x0B#8 ++ f.bits)
  | .msigxCmp f => some (.mat, 0x0B#8 ++ f.bits)
  | .mtrip f => some (.mat, 0x0C#8 ++ f.bits)
  | .cpy f => some (.eng, 0x00#8 ++ f.bits)
  | .cpy2 f => some (.eng, 0x01#8 ++ f.bits)
  | .cpyt f => some (.eng, 0x02#8 ++ f.bits)
  | .cpyr f => some (.eng, 0x03#8 ++ f.bits)
  | .cpym f => some (.eng, 0x04#8 ++ f.bits)
  | .gthr f => some (.eng, 0x05#8 ++ f.bits)
  | .sctr f => some (.eng, 0x06#8 ++ f.bits)
  | .fill f => some (.eng, 0x07#8 ++ f.bits)
  | .coll f => some (.eng, 0x08#8 ++ f.bits)
  | .carb f => some (.eng, 0x09#8 ++ f.bits)
  | .cwait f => some (.eng, 0x0A#8 ++ f.bits)
  | .cpoll f => some (.eng, 0x0B#8 ++ f.bits)
  | .migr f => some (.eng, 0x0C#8 ++ f.bits)
  | .hgsend f => some (.eng, 0x10#8 ++ f.bits)
  | .hgsig f => some (.eng, 0x11#8 ++ f.bits)
  | .hgwait f => some (.eng, 0x12#8 ++ f.bits)
  | .hgtake f => some (.eng, 0x13#8 ++ f.bits)
  | .hgqry f => some (.eng, 0x14#8 ++ f.bits)
  | .b f => some (.ctl, 0x00#8 ++ f.bits)
  | .bra f => some (.ctl, 0x01#8 ++ f.bits)
  | .call f => some (.ctl, 0x02#8 ++ f.bits)
  | .split f => some (.ctl, 0x04#8 ++ f.bits)
  | .waitj f => some (.ctl, 0x06#8 ++ f.bits)
  | .jtab f => some (.ctl, 0x07#8 ++ f.bits)
  | .token f => some (.ctl, 0x08#8 ++ f.bits)
  | .bar f => some (.ctl, 0x09#8 ++ f.bits)
  | .qpush f => some (.ctl, 0x0A#8 ++ f.bits)
  | .qpop f => some (.ctl, 0x0B#8 ++ f.bits)
  | .waitb f => some (.ctl, 0x10#8 ++ f.bits)
  | .tmode f => some (.ctl, 0x11#8 ++ f.bits)
  | .add f => some (.front, 0x00#8 ++ f.bits)
  | .sub f => some (.front, 0x01#8 ++ f.bits)
  | .mul f => some (.front, 0x02#8 ++ f.bits)
  | .mulh f => some (.front, 0x03#8 ++ f.bits)
  | .divu f => some (.front, 0x04#8 ++ f.bits)
  | .remu f => some (.front, 0x05#8 ++ f.bits)
  | .frontAnd f => some (.front, 0x06#8 ++ f.bits)
  | .frontOr f => some (.front, 0x07#8 ++ f.bits)
  | .frontXor f => some (.front, 0x08#8 ++ f.bits)
  | .frontShl f => some (.front, 0x09#8 ++ f.bits)
  | .frontShr f => some (.front, 0x0A#8 ++ f.bits)
  | .frontSar f => some (.front, 0x0B#8 ++ f.bits)
  | .min f => some (.front, 0x0C#8 ++ f.bits)
  | .max f => some (.front, 0x0D#8 ++ f.bits)
  | .addi f => some (.front, 0x10#8 ++ f.bits)
  | .frontAndi f => some (.front, 0x11#8 ++ f.bits)
  | .frontOri f => some (.front, 0x12#8 ++ f.bits)
  | .frontShli f => some (.front, 0x13#8 ++ f.bits)
  | .frontShri f => some (.front, 0x14#8 ++ f.bits)
  | .li f => some (.front, 0x15#8 ++ f.bits)
  | .lih f => some (.front, 0x16#8 ++ f.bits)
  | .cmp f => some (.front, 0x18#8 ++ f.bits)
  | .cmpi f => some (.front, 0x19#8 ++ f.bits)
  | .fadds f => some (.front, 0x20#8 ++ f.bits)
  | .fmuls f => some (.front, 0x21#8 ++ f.bits)
  | .ffmas f => some (.front, 0x22#8 ++ f.bits)
  | .fdivs f => some (.front, 0x23#8 ++ f.bits)
  | .fcmps f => some (.front, 0x24#8 ++ f.bits)
  | .fcvts f => some (.front, 0x25#8 ++ f.bits)
  | .ldx f => some (.front, 0x30#8 ++ f.bits)
  | .stx f => some (.front, 0x31#8 ++ f.bits)
  | .atmx f => some (.front, 0x32#8 ++ f.bits)
  | .bc f => some (.front, 0x40#8 ++ f.bits)
  | .j f => some (.front, 0x41#8 ++ f.bits)
  | .jal f => some (.front, 0x42#8 ++ f.bits)
  | .jr f => some (.front, 0x43#8 ++ f.bits)
  | .tmset f => some (.front, 0x50#8 ++ f.bits)
  | .tmadv f => some (.front, 0x51#8 ++ f.bits)
  | .tmget f => some (.front, 0x52#8 ++ f.bits)
  | .dqpush f => some (.front, 0x58#8 ++ f.bits)
  | .ovfget f => some (.front, 0x60#8 ++ f.bits)
  | .lsupd f => some (.front, 0x61#8 ++ f.bits)
  | .nadd f => some (.front, 0x68#8 ++ f.bits)
  | .nwdraw f => some (.front, 0x69#8 ++ f.bits)
  | .nstat f => some (.front, 0x6A#8 ++ f.bits)
  | .trap f => some (.sys, 0x01#8 ++ f.bits)
  | .mfsr f => some (.sys, 0x03#8 ++ f.bits)
  | .mtsr f => some (.sys, 0x04#8 ++ f.bits)
  | .pgmap f => some (.sys, 0x05#8 ++ f.bits)
  | .pgunmap f => some (.sys, 0x06#8 ++ f.bits)
  | .tlbinvPage f => some (.sys, 0x07#8 ++ f.bits)
  | .tlbinvGpage f => some (.sys, 0x07#8 ++ f.bits)
  | .tlbinvS2 f => some (.sys, 0x07#8 ++ f.bits)
  | .tlbinvS2all f => some (.sys, 0x07#8 ++ f.bits)
  | .spilla f => some (.sys, 0x08#8 ++ f.bits)
  | .filla f => some (.sys, 0x09#8 ++ f.bits)
  | .savel f => some (.sys, 0x0A#8 ++ f.bits)
  | .loadl f => some (.sys, 0x0B#8 ++ f.bits)
  | .waitev f => some (.sys, 0x0C#8 ++ f.bits)
  | .pfence => some (.mem, 0x11000000#32)
  | .ret => some (.ctl, 0x03000000#32)
  | .join => some (.ctl, 0x05000000#32)
  | .xacq => some (.ctl, 0x0C000000#32)
  | .xrel => some (.ctl, 0x0D000000#32)
  | .yield => some (.ctl, 0x0E000000#32)
  | .exit => some (.ctl, 0x0F000000#32)
  | .btok => some (.front, 0x44000000#32)
  | .fexit => some (.front, 0x70000000#32)
  | .nop => some (.sys, 0x00000000#32)
  | .eret => some (.sys, 0x02000000#32)
  | .tlbinvCtx => some (.sys, 0x07004000#32)
  | .tlbinvPart => some (.sys, 0x07008000#32)
  | .clauseSelect => none
  | .loadReturn => none
  | .matRetire => none
  | .engineCommandStart => none
  | .collReadyStart => none
  | .collExchange => none
  | .collStep => none
  | .peerTimeout => none
  | .migrDrainDone => none
  | .engineCompletion => none
  | .cwaitPop => none
  | .qpopDeliver => none
  | .queuePushAccept => none
  | .btokPop => none
  | .xacqGrant => none
  | .xlockStall => none
  | .barrierRelease => none
  | .waitbComplete => none
  | .waitbUnsatisfiable => none
  | .waitjExpiry => none
  | .waitevDeliver => none
  | .fenceComplete => none
  | .sealEffect => none
  | .unsealEffect => none
  | .sweepComplete => none
  | .gateAnswer => none
  | .gateTokenRefill => none
  | .hgwaitTimeout => none
  | .gateTableRetry => none
  | .gateRedirect => none
  | .read => none
  | .write => none
  | .atomic => none
  | .gate => none
  | .resp => none
  | .ack => none
  | .retryMap => none
  | .flitCrcReplay => none
  | .dieLaneReplace => none
  | .planeDead => none
  | .quiesceReport => none
  | .packageFenceOut => none
  | .planeMapCommit => none
  | .planeFreeze => none
  | .planeShadowWrite => none
  | .backgroundScrub => none
  | .launchQueueTail => none
  | .graphAccept => none
  | .nodeReserve => none
  | .blockDispatch => none
  | .blockRetire => none
  | .sliceExpiry => none
  | .graceHalt => none
  | .kill => none
  | .blockSave => none
  | .blockResume => none
  | .unitLoss => none
  | .layoutCommit => none
  | .layoutTick => none
  | .scrubComplete => none
  | .errclr => none
  | .frameRelease => none
  | .frameReleaseDone => none
  | .s2respRelease => none
  | .s2respRefuse => none
  | .placeWrite => none
  | .registerWrite => none
  | .priDoorbell => none
  | .pageRequestResponse => none
  | .atsTranslationCompletion => none
  | .atsInvalidationRequest => none
  | .inboundWrite => none
  | .hostCompletion => none
  | .completionTimeout => none
  | .linkDown => none
  | .functionReset => none
  | .coldReset => none
  | .powerOn => none
  | .getVersion => none
  | .getCapabilities => none
  | .negotiateAlgorithms => none
  | .getDigests => none
  | .getCertificate => none
  | .challenge => none
  | .getMeasurements => none
  | .throttle => none
  | .criticalTemperature => none
  | .roceSend => none
  | .roceRdmaWrite => none
  | .roceRdmaWriteImm => none
  | .roceRdmaRead => none
  | .roceUnsupported => none
  | .roceRetransmitTimeout => none
  | .pfcPause => none
  | .ecnMark => none
  | .ethernetLinkFail => none
  | .heldSlotAnswer => none
  | .gateClose => none
  | .hPreemptionRequest => none
  | .peerToPeerRequest => none

/-- The class under which a bare word is read where no clause header names one: that of the row, among those
that read the word, which fixes the most bits; of equals the first in the order VEC MEM MAT ENG CTL FRONT SYS
(DESIGN CHOICE, log 8: the opcode table has no class column). -/
def bareRead (w : Word) : Option (Cls × Instr) :=
  let cands := [Cls.vec, .mem, .mat, .eng, .ctl, .front, .sys].flatMap fun c =>
    ((rowsOf c).filter fun r => w &&& r.mask = r.pat).filterMap fun r => (readRow w r).map fun i => (r.fixedBits, c, i)
  let best := cands.foldl (fun (acc : Option (Nat × Cls × Instr)) x =>
    match acc with
    | none => some x
    | some a => if a.1 < x.1 then some x else acc) none
  best.map (·.2)

/-- The host's question: the instruction that the decoder reads from one 32-bit word. -/
def decodeTableWord (nbits w : Nat) : Option Instr :=
  if nbits ≤ 32 then
    (bareRead (wordOfBytes (BitVec.ofNat 8 w) (BitVec.ofNat 8 (w / 256)) (BitVec.ofNat 8 (w / 65536)) (BitVec.ofNat 8 (w / 16777216)))).map (·.2)
  else none

end Sys2Proof
end

