-- ==== Sys2Proof/Machine/Numbers.lean ====
section
/-! DEFINITION. Number formats, rounding, the random stream and the order of sums (10_numbers.md). A bit pattern is a
Nat below 2 to the format's width; exact values are rationals of the form m · 2^e, quotients, roots, or enclosed reals. -/

namespace Sys2Proof.Machine

/-! ## Fields and bytes -/

/-- len bits of v from bit lo. -/
def bits (v lo len : Nat) : Nat := (v >>> lo) % 2 ^ len

def bitAt (v n : Nat) : Bool := (v >>> n) % 2 == 1

/-- The n low bytes of v, little-endian (00_scope.md R3). -/
def leBytes : Nat → Nat → List Byte
  | 0, _ => []
  | n + 1, v => BitVec.ofNat 8 v :: leBytes n (v / 256)

def ofLe : List Byte → Nat
  | [] => 0
  | b :: t => b.toNat + 256 * ofLe t

/-- v, of w bits, as a signed number. -/
def toSigned (w v : Nat) : Int := if 2 * v < 2 ^ w then (v : Int) else (v : Int) - 2 ^ w

/-- The low w bits of an integer's two's complement. -/
def ofSigned (w : Nat) (i : Int) : Nat := (i % (2 ^ w : Int)).toNat

def sext (from_ to_ v : Nat) : Nat := ofSigned to_ (toSigned from_ (v % 2 ^ from_))

/-! ## Formats (R204, R207) -/

structure Fmt where
  /-- precision with the hidden bit -/
  p : Nat
  /-- bits of the exponent field -/
  eb : Nat
  bias : Nat
  /-- SC8: unsigned, no infinity, the top code alone is NaN -/
  sc8 : Bool := false
  deriving DecidableEq, Repr

def fp64 : Fmt := { p := 53, eb := 11, bias := 1023 }
def fp32 : Fmt := { p := 24, eb := 8, bias := 127 }
def bf16 : Fmt := { p := 8, eb := 8, bias := 127 }
def fp16 : Fmt := { p := 11, eb := 5, bias := 15 }
def sc8 : Fmt := { p := 4, eb := 5, bias := 15, sc8 := true }

namespace Fmt

def width (F : Fmt) : Nat := F.p + F.eb
def emin (F : Fmt) : Int := 1 - F.bias
def emax (F : Fmt) : Int := if F.sc8 then 16 else F.bias
def expOnes (F : Fmt) : Nat := 2 ^ F.eb - 1
def inf (F : Fmt) (neg : Bool) : Nat := (if neg then 2 ^ (F.p + F.eb - 1) else 0) + F.expOnes * 2 ^ (F.p - 1)
def nan (F : Fmt) : Nat := if F.sc8 then 0xFF else F.expOnes * 2 ^ (F.p - 1) + 2 ^ (F.p - 2)
def zero (F : Fmt) (neg : Bool) : Nat := if neg then 2 ^ (F.p + F.eb - 1) else 0
def maxFin (F : Fmt) (neg : Bool) : Nat := if F.sc8 then 0xFE else F.inf neg - 1

end Fmt

/-- A value of a format: R205. -/
inductive FV where
  | nan
  | inf (neg : Bool)
  | zero (neg : Bool)
  /-- m · 2^e with m ≠ 0 -/
  | fin (neg : Bool) (m : Nat) (e : Int)
  deriving DecidableEq, Repr

namespace FV

def isNan : FV → Bool
  | nan => true
  | _ => false

def isZero : FV → Bool
  | zero _ => true
  | _ => false

def isInf : FV → Bool
  | inf _ => true
  | _ => false

def neg : FV → Bool
  | nan => false
  | inf n => n
  | zero n => n
  | fin n _ _ => n

def flip : FV → FV
  | nan => nan
  | inf n => inf (!n)
  | zero n => zero (!n)
  | fin n m e => fin (!n) m e

/-- The value times 2^1100, an integer for every FP32 and FP64 value; zero for NaN and infinity. -/
def scaled : FV → Int
  | fin n m e => let v : Int := (m <<< (e + 1100).toNat : Nat); if n then -v else v
  | _ => 0

end FV

/-- Reads an encoding (R205, R207). -/
def unpack (F : Fmt) (w : Nat) : FV :=
  let f := bits w 0 (F.p - 1)
  let e := bits w (F.p - 1) F.eb
  let n := !F.sc8 && bitAt w (F.p + F.eb - 1)
  if F.sc8 && w % 256 == 0xFF then .nan
  else if !F.sc8 && e == F.expOnes then (if f == 0 then .inf n else .nan)
  else if e == 0 then (if f == 0 then .zero n else .fin n f (F.emin - (F.p - 1 : Nat)))
  else .fin n (f + 2 ^ (F.p - 1)) ((e : Int) - F.bias - (F.p - 1 : Nat))

def isSubnormal (F : Fmt) (w : Nat) : Bool := bits w (F.p - 1) F.eb == 0 && bits w 0 (F.p - 1) != 0

/-- FTZ on an input (R214): the value and whether a subnormal was flushed. -/
def flushIn (F : Fmt) (ftz : Bool) (w : Nat) : FV × Bool :=
  if ftz && isSubnormal F w then (.zero (bitAt w (F.p + F.eb - 1)), true) else (unpack F w, false)

/-! ## Magnitudes -/

/-- A positive real x: the exponent of its binade, and for each k the floor of x · 2^k with whether it is exact. -/
structure Mag where
  E : Int
  sc : Int → Nat × Bool

/-- m · 2^e, m ≠ 0. -/
def Mag.dyadic (m : Nat) (e : Int) : Mag where
  E := (Nat.log2 m : Int) + e
  sc k := if 0 ≤ e + k then (m <<< (e + k).toNat, true)
          else let s := (-(e + k)).toNat; (m >>> s, m % 2 ^ s == 0)

/-- The largest of est+1, est, est-1 whose power of two does not exceed x. -/
def magE (est : Int) (sc : Int → Nat × Bool) : Int :=
  if 1 ≤ (sc (-(est + 1))).1 then est + 1 else if 1 ≤ (sc (-est)).1 then est else est - 1

/-- n/d · 2^e. -/
def Mag.ratio (n d : Nat) (e : Int) : Mag :=
  let sc := fun k : Int =>
    if 0 ≤ e + k then let v := n <<< (e + k).toNat; (v / d, v % d == 0)
    else let v := d <<< (-(e + k)).toNat; (n / v, n % v == 0)
  { E := magE ((Nat.log2 n : Int) - Nat.log2 d + e) sc, sc }

/-- Floor of the square root, bit by bit from bit n down. -/
def isqrtGo (v : Nat) : Nat → Nat → Nat
  | 0, r => if (r + 1) * (r + 1) ≤ v then r + 1 else r
  | n + 1, r => let c := r + 2 ^ (n + 1); isqrtGo v n (if c * c ≤ v then c else r)

def isqrt (v : Nat) : Nat := isqrtGo v (Nat.log2 v / 2) 0

/-- The root of m · 2^e. -/
def Mag.sqrt (m : Nat) (e : Int) : Mag :=
  let sc := fun k : Int =>
    if 0 ≤ e + 2 * k then let v := m <<< (e + 2 * k).toNat; let r := isqrt v; (r, r * r == v)
    else let s := (-(e + 2 * k)).toNat; let v := m >>> s; let r := isqrt v; (r, r * r == v && m % 2 ^ s == 0)
  { E := magE (((Nat.log2 m : Int) + e) / 2) sc, sc }

/-- The reciprocal of the root of m · 2^e. -/
def Mag.rsqrt (m : Nat) (e : Int) : Mag :=
  let sc := fun k : Int =>
    if 0 ≤ 2 * k - e then
      let n := 2 ^ (2 * k - e).toNat; let v := n / m; let r := isqrt v; (r, r * r == v && n % m == 0)
    else (0, false)
  { E := magE (-(((Nat.log2 m : Int) + e) / 2)) sc, sc }

/-! ### Enclosed reals (log 10: the enclosure's width, below 2^-230, decides every rounding of an FP32 argument) -/

/-- Floor of ln 2 · 2^256. -/
def ln2Fix : Nat := 0xB17217F7D1CF79ABC9E3B39803F2F6AF40F343267298B62D8A0D175B8BAAFA2B

/-- Σ t^j/j! from term j on, in units of 2^-256. -/
def expSeries (t : Nat) : Nat → Nat → Nat → Nat
  | 0, _, _ => 0
  | n + 1, j, term => term + expSeries t n (j + 1) (term * t / (2 ^ 256 * j))

/-- 2^y for y in [0,1), both in units of 2^-256. -/
def exp2Frac (y : Nat) : Nat := expSeries (y * ln2Fix / 2 ^ 256) 64 1 (2 ^ 256)

/-- Σ z^(2j+1)/(2j+1) in units of 2^-256; pw is z^(2j+1), z2 is z². -/
def atanhSeries (z2 : Nat) : Nat → Nat → Nat → Nat
  | 0, _, _ => 0
  | n + 1, j, pw => pw / j + atanhSeries z2 n (j + 2) (pw * z2 / 2 ^ 256)

/-- log2 of m · 2^-w for 2^w ≤ m < 2^(w+1), in units of 2^-256. -/
def log2Frac (m w : Nat) : Nat :=
  let z := (m - 2 ^ w) * 2 ^ 256 / (m + 2 ^ w)
  2 * atanhSeries (z * z / 2 ^ 256) 88 1 z * 2 ^ 256 / ln2Fix

/-- A positive real known as a · 2^-256 · 2^e up to the enclosure, never exact. -/
def Mag.approx (a : Nat) (e : Int) : Mag where
  E := (Nat.log2 a : Int) - 256 + e
  sc k := if 0 ≤ e + k - 256 then (a <<< (e + k - 256).toNat, false) else (a >>> (-(e + k - 256)).toNat, false)

/-- The real just below m · 2^e, nearer than any grid that is asked for. -/
def Mag.below (m : Nat) (e : Int) : Mag where
  E := if m == 2 ^ Nat.log2 m then (Nat.log2 m : Int) + e - 1 else (Nat.log2 m : Int) + e
  sc k := let r := (Mag.dyadic m e).sc k; (if r.2 then r.1 - 1 else r.1, false)

/-! ## Rounding (R212, R213) -/

inductive Rm where
  | rne | rtz | rup | rdn
  | sr (u : Nat)
  deriving DecidableEq, Repr

/-- x rounded on the grid of multiples of 2^qe, as the multiplier. -/
def roundAt (rm : Rm) (neg : Bool) (x : Mag) (qe : Int) : Nat :=
  let t := (x.sc (-qe)).1
  let exact := (x.sc (-qe)).2
  if exact then t else
  match rm with
  | .rtz => t
  | .rup => if neg then t else t + 1
  | .rdn => if neg then t + 1 else t
  | .rne =>
    let h := x.sc (1 - qe)
    if h.1 % 2 == 0 then t else if h.2 then (if t % 2 == 0 then t else t + 1) else t + 1
  | .sr u => if u < (x.sc (16 - qe)).1 - 65536 * t then t + 1 else t

/-- The overflow result of R212; SC8 has its own (R228). -/
def overflow (F : Fmt) (rm : Rm) (neg : Bool) : Nat :=
  match rm with
  | .rne => F.inf neg
  | .sr _ => F.inf neg
  | .rtz => F.maxFin neg
  | .rup => if neg then F.maxFin true else F.inf false
  | .rdn => if neg then F.inf true else F.maxFin false

/-- A rounded result: its bits, whether the rounded magnitude exceeded the maximum, and whether it is nonzero and
smaller than the smallest normal number (a value that rounds to zero is not replaced by FTZ: log 23). -/
structure Rounded where
  bits : Nat
  big : Bool := false
  tiny : Bool := false
  deriving DecidableEq, Repr

/-- RND of a nonzero magnitude (R212). -/
def roundMag (F : Fmt) (rm : Rm) (neg : Bool) (x : Mag) : Rounded :=
  let qe := max x.E F.emin - (F.p - 1 : Nat)
  let n := roundAt rm neg x qe
  let carry := n == 2 ^ F.p
  let n' := if carry then 2 ^ (F.p - 1) else n
  let qe' := if carry then qe + 1 else qe
  let sign := if neg && !F.sc8 then 2 ^ (F.p + F.eb - 1) else 0
  if n' < 2 ^ (F.p - 1) then { bits := sign + n', tiny := n' != 0 }
  else
    let ex := qe' + (F.p - 1 : Nat)
    let b := (ex + F.bias).toNat * 2 ^ (F.p - 1) + (n' - 2 ^ (F.p - 1))
    if ex > F.emax || (F.sc8 && b == 0xFF) then { bits := overflow F rm neg, big := true }
    else { bits := sign + b }

/-- An exact result before rounding. -/
inductive Exact where
  | nan
  | inf (neg : Bool)
  | zero (neg : Bool)
  /-- an exact zero sum (R212) -/
  | zeroSum
  | mag (neg : Bool) (x : Mag)

def roundExact (F : Fmt) (rm : Rm) : Exact → Rounded
  | .nan => { bits := F.nan }
  | .inf n => { bits := F.inf n }
  | .zero n => { bits := F.zero n }
  | .zeroSum => { bits := F.zero (rm == .rdn) }
  | .mag n x => roundMag F rm n x

/-- A rounded result after FTZ (R214), with whether it was flushed. -/
def flushOut (F : Fmt) (ftz : Bool) (e : Exact) (rm : Rm) : Nat × Bool :=
  let r := roundExact F rm e
  if ftz && r.tiny then (F.zero (match e with | .mag n _ => n | _ => false), true) else (r.bits, false)

/-! ## Arithmetic on values (R270 to R273) -/

def exactOfInt (i : Int) (e : Int) : Exact :=
  if i == 0 then .zeroSum else .mag (i < 0) (.dyadic i.natAbs e)

def exactOf : FV → Exact
  | .nan => .nan
  | .inf n => .inf n
  | .zero n => .zero n
  | .fin n m e => .mag n (.dyadic m e)

def signedOf (n : Bool) (m : Nat) : Int := if n then -(m : Int) else (m : Int)

/-- m · 2^e rescaled to exponent e' ≤ e. -/
def alignTo (n : Bool) (m : Nat) (e e' : Int) : Int := signedOf n (m <<< (e - e').toNat)

def fvAdd (a b : FV) : Exact :=
  match a, b with
  | .nan, _ => .nan
  | _, .nan => .nan
  | .inf n, .inf n' => if n == n' then .inf n else .nan
  | .inf n, _ => .inf n
  | _, .inf n => .inf n
  | .zero n, .zero n' => if n == n' then .zero n else .zeroSum
  | .zero _, b => exactOf b
  | a, .zero _ => exactOf a
  | .fin n m e, .fin n' m' e' =>
    let f := min e e'
    exactOfInt (alignTo n m e f + alignTo n' m' e' f) f

def fvMul (a b : FV) : Exact :=
  match a, b with
  | .nan, _ => .nan
  | _, .nan => .nan
  | .inf n, .inf n' => .inf (n != n')
  | .inf n, .zero _ => (if n then .nan else .nan)
  | .zero _, .inf _ => .nan
  | .inf n, .fin n' _ _ => .inf (n != n')
  | .fin n _ _, .inf n' => .inf (n != n')
  | .zero n, b => .zero (n != b.neg)
  | a, .zero n' => .zero (a.neg != n')
  | .fin n m e, .fin n' m' e' => .mag (n != n') (.dyadic (m * m') (e + e'))

/-- a × b as a value, for the fused operations; none for an invalid product. -/
def fvProd (a b : FV) : Option FV :=
  match a, b with
  | .nan, _ => none
  | _, .nan => none
  | .inf _, .zero _ => none
  | .zero _, .inf _ => none
  | .inf n, b => some (.inf (n != b.neg))
  | a, .inf n => some (.inf (a.neg != n))
  | .zero n, b => some (.zero (n != b.neg))
  | a, .zero n => some (.zero (a.neg != n))
  | .fin n m e, .fin n' m' e' => some (.fin (n != n') (m * m') (e + e'))

def fvFma (a b c : FV) : Exact :=
  match fvProd a b with
  | none => .nan
  | some p => fvAdd p c

def fvDiv (a b : FV) : Exact :=
  match a, b with
  | .nan, _ => .nan
  | _, .nan => .nan
  | .inf _, .inf _ => .nan
  | .zero _, .zero _ => .nan
  | .inf n, b => .inf (n != b.neg)
  | a, .inf n => .zero (a.neg != n)
  | .zero n, b => .zero (n != b.neg)
  | a, .zero n => .inf (a.neg != n)
  | .fin n m e, .fin n' m' e' => .mag (n != n') (.ratio m m' (e - e'))

def fvSqrt : FV → Exact
  | .nan => .nan
  | .inf n => if n then .nan else .inf false
  | .zero n => .zero n
  | .fin n m e => if n then .nan else .mag false (.sqrt m e)

def fvRcp (a : FV) : Exact := fvDiv (.fin false 1 0) a

def fvRsq : FV → Exact
  | .nan => .nan
  | .inf n => if n then .nan else .zero false
  | .zero n => .inf n
  | .fin n m e => if n then .nan else .mag false (.rsqrt m e)

/-- m · 2^e as an integer part and a fraction in units of 2^-256, toward minus infinity. -/
def splitFix (n : Bool) (m : Nat) (e : Int) : Int × Nat :=
  let v : Int := if 0 ≤ e + 256 then alignTo n m (e + 256) 0
                 else signedOf n (m >>> (-(e + 256)).toNat)
  (v / 2 ^ 256, (v % 2 ^ 256).toNat)

def fvExp2 : FV → Exact
  | .nan => .nan
  | .inf n => if n then .zero false else .inf false
  | .zero _ => .mag false (.dyadic 1 0)
  | .fin n m e =>
    if (Nat.log2 m : Int) + e ≥ 9 then .mag false (.dyadic 1 (if n then -512 else 512))
    else
      let s := splitFix n m e
      if s.2 == 0 then .mag false (.dyadic 1 s.1) else .mag false (.approx (exp2Frac s.2) s.1)

def fvLog2 : FV → Exact
  | .nan => .nan
  | .inf n => if n then .nan else .inf false
  | .zero _ => .inf true
  | .fin n m e =>
    if n then .nan
    else
      let w := Nat.log2 m
      let i : Int := (w : Int) + e
      if m == 2 ^ w then (if i == 0 then .zero false else .mag (i < 0) (.dyadic i.natAbs 0))
      else
        let v : Int := i * 2 ^ 256 + log2Frac m w
        .mag (v < 0) (.approx v.natAbs 0)

def fvTanh : FV → Exact
  | .nan => .nan
  | .inf n => .mag n (.dyadic 1 0)
  | .zero n => .zero n
  | .fin n m e =>
    let E := (Nat.log2 m : Int) + e
    if E ≥ 6 then .mag n (.below 1 0)
    else if E < -40 then .mag n (.below m e)
    else
      let s := splitFix false (m * 2 * 2 ^ 512 / ln2Fix) (e - 256)
      let a := exp2Frac s.2 <<< s.1.toNat
      .mag n (.approx ((a - 2 ^ 256) * 2 ^ 256 / (a + 2 ^ 256)) 0)

/-- Comparison of non-NaN values: -1, 0 or 1 (−0 = +0). -/
def fvCmp (a b : FV) : Int :=
  let rank : FV → Int := fun v => match v with
    | .inf true => -1
    | .inf false => 1
    | _ => 0
  if rank a != rank b then (if rank a < rank b then -1 else 1)
  else if a.scaled < b.scaled then -1 else if a.scaled == b.scaled then 0 else 1

/-- R272: whether a is chosen over b; −0 orders below +0. -/
def fvPick (wantMax : Bool) (a b : FV) : Bool :=
  let c := fvCmp a b
  let lt := c == -1 || (c == 0 && a.neg && !b.neg)
  let gt := c == 1 || (c == 0 && !a.neg && b.neg)
  if wantMax then !lt else !gt

/-- FMIN, FMAX, DMIN, DMAX on encodings that FTZ has already treated. -/
def minMaxBits (F : Fmt) (wantMax : Bool) (a b : Nat) : Nat :=
  let x := unpack F a
  let y := unpack F b
  if x.isNan then (if y.isNan then F.nan else b)
  else if y.isNan then a
  else if fvPick wantMax x y then a else b

def flushBits (F : Fmt) (ftz : Bool) (w : Nat) : Nat × Bool :=
  if ftz && isSubnormal F w then (F.zero (bitAt w (F.p + F.eb - 1)), true) else (w, false)

/-- FRND (R274): the FP32 value rounded to an integer on the grid of integers. -/
def fvRnd (F : Fmt) (rm : Rm) (v : FV) (w : Nat) : Nat :=
  match v with
  | .nan => F.nan
  | .fin n m e =>
    let k := roundAt rm n (.dyadic m e) 0
    if k == 0 then F.zero n else (roundMag F .rtz n (.dyadic k 0)).bits
  | _ => w

/-- FCLASS (R275). -/
def fclassBits (w : Nat) : Nat :=
  let n := bitAt w 31
  let e := bits w 23 8
  let f := bits w 0 23
  if e == 255 then
    if f == 0 then (if n then 1 else 128) else if bitAt w 22 then 512 else 256
  else if e == 0 then
    if f == 0 then (if n then 8 else 16) else (if n then 4 else 32)
  else if n then 2 else 64

/-! ## Shared functions (R229) -/

def fvE : FV → Int
  | .fin _ m e => (Nat.log2 m : Int) + e
  | _ => 0

/-- DIG: R229, R236. -/
def digCount (F : Fmt) (x0 x1 x2 : Nat) : Nat :=
  let a := unpack F x0
  let b := unpack F x1
  let c := unpack F x2
  if a.isNan || b.isNan || c.isNan then 0
  else if fvCmp a b == 0 && fvCmp b c == 0 then F.p
  else if a.isInf || b.isInf || c.isInf then 0
  else
    let hi := max a.scaled (max b.scaled c.scaled)
    let lo := min a.scaled (min b.scaled c.scaled)
    let med := a.scaled + b.scaled + c.scaled - hi - lo
    if med == 0 then 0
    else
      let d := (Nat.log2 med.natAbs : Int) - Nat.log2 (hi - lo).toNat - 1
      min d.toNat F.p

/-- The median of three non-NaN values, as its encoding. -/
def medianBits (F : Fmt) (x0 x1 x2 : Nat) : Nat :=
  let le := fun a b => fvPick false (unpack F a) (unpack F b)
  if le x0 x1 then (if le x1 x2 then x1 else if le x0 x2 then x2 else x0)
  else (if le x0 x2 then x0 else if le x1 x2 then x2 else x1)

/-- TMEAN (11_ternion.md R245): RNE of the exact mean. -/
def tmean (F : Fmt) (x0 x1 x2 : Nat) : Nat :=
  let vs := [unpack F x0, unpack F x1, unpack F x2]
  let pos := vs.any fun v => v.isInf && !v.neg
  let neg := vs.any fun v => v.isInf && v.neg
  if vs.any (·.isNan) || (pos && neg) then F.nan
  else if pos then F.inf false
  else if neg then F.inf true
  else
    let S := vs.foldl (fun a v => a + v.scaled) 0
    if S == 0 then F.zero (vs.all fun v => v.isZero && v.neg)
    else (roundMag F .rne (S < 0) (.ratio S.natAbs 3 (-1100))).bits

/-- MAJ3. -/
def maj3 (a b c : Nat) : Option Nat :=
  if a == b || a == c then some a else if b == c then some b else none

/-- SPREAD (03_memory.md R64). -/
def spread (F : Fmt) (m d : Nat) : Nat × Nat × Nat :=
  match unpack F m with
  | .fin n k e =>
    let E := (Nat.log2 k : Int) + e
    let q := max E F.emin - (F.p - 1 : Nat)
    let de := E - (d : Int) - 2
    if de < q then (m, m, m)
    else
      let up := fvAdd (.fin n k e) (.fin false 1 de)
      let dn := fvAdd (.fin n k e) (.fin true 1 de)
      (m, (roundExact F .rne up).bits, (roundExact F .rne dn).bits)
  | _ => (m, m, m)

/-! ## Residues (R208, R209) -/

def resM : Nat := 16515840

def resOf (i : Int) : Nat :=
  (i % 256).toNat + 256 * (i % 255).toNat + 65536 * (i % 253).toNat

def crt (w : Nat) : Int :=
  let a := bits w 0 8
  let b := bits w 8 8 % 255
  let c := bits w 16 8 % 253
  let n := (a * 11032065 + b * 8225536 + c * 13774080) % resM
  if n < 8257920 then (n : Int) else (n : Int) - resM

/-! ## The Gherowa function (R217) -/

def gherowa (seed s a b : Word) : Word :=
  let x := seed ^^^ (s * 0x27D4EB2F#32) ^^^ (a * 0x9E3779B9#32) ^^^ (b * 0x85EBCA6B#32)
  let x := x ^^^ (x >>> 16)
  let x := x * 0x7FEB352D#32
  let x := x ^^^ (x >>> 15)
  let x := x * 0x846CA68B#32
  x ^^^ (x >>> 16)

/-! ## The order of sums (R220) -/

/-- One level: adjacent terms combined, node numbers from k; an odd last term passes up. -/
def treeLevel {α : Type} (rho : α → α → Nat → α) : List α → Nat → List α × Nat
  | a :: b :: t, k => let r := treeLevel rho t (k + 1); (rho a b k :: r.1, r.2)
  | [a], k => ([a], k)
  | [], k => ([], k)

/-- TREE, with fuel for its levels. -/
def tree {α : Type} (rho : α → α → Nat → α) : Nat → List α → Nat → Option α
  | _, [], _ => none
  | _, [a], _ => some a
  | 0, a :: _, _ => some a
  | n + 1, l, k => let r := treeLevel rho l k; tree rho n r.1 r.2

/-! ## Conversion (R223 to R228) -/

/-- The result of a conversion and the events it counts. -/
structure Conv where
  out : Nat
  sat : Bool := false
  nan : Bool := false
  flush : Bool := false
  deriving DecidableEq, Repr

inductive FKind where
  | fp (F : Fmt)
  | int (signed : Bool) (w : Nat)
  | scale
  | res
  deriving DecidableEq, Repr

/-- The format codes of R36. -/
def fkind (code : Nat) : Option FKind :=
  match code with
  | 0 => some (.fp bf16)
  | 1 => some (.fp fp16)
  | 2 => some (.fp fp32)
  | 3 => some (.int true 8)
  | 4 => some (.int true 4)
  | 5 => some .res
  | 6 => some (.fp fp64)
  | 7 => some (.int true 32)
  | 8 => some (.int false 32)
  | 9 => some (.int true 16)
  | 10 => some (.int false 16)
  | 11 => some (.int false 8)
  | 12 => some .scale
  | 13 => some (.int true 64)
  | _ => none

/-- Bits that a value of the format takes in its register group. -/
def codeWide (code : Nat) : Bool := code == 6 || code == 13

def intMax (signed : Bool) (w : Nat) : Int := if signed then 2 ^ (w - 1) - 1 else 2 ^ w - 1
def intMin (signed : Bool) (w : Nat) : Int := if signed then -(2 ^ (w - 1)) else 0

/-- The register image of an integer result (R224). -/
def intImage (signed : Bool) (w : Nat) (i : Int) : Nat :=
  let low := ofSigned w i
  if signed then ofSigned (max 32 w) (toSigned w low) else low

/-- An exact value into an FP format, with saturation (R225, R227). -/
def toFp (F : Fmt) (sat ftz : Bool) (rm : Rm) (e : Exact) (srcNan : Bool) : Conv :=
  let r := roundExact F rm e
  if r.big && sat then { out := F.maxFin (match e with | .mag n _ => n | _ => false), sat := true }
  else if ftz && r.tiny then { out := F.zero (match e with | .mag n _ => n | _ => false), flush := true }
  else { out := r.bits, nan := r.bits == F.nan && !srcNan }

/-- An integer into an integer format (R226, R227). -/
def toInt (signed : Bool) (w : Nat) (sat : Bool) (i : Int) : Conv :=
  if i > intMax signed w then
    if sat then { out := intImage signed w (intMax signed w), sat := true } else { out := intImage signed w i }
  else if i < intMin signed w then
    if sat then { out := intImage signed w (intMin signed w), sat := true } else { out := intImage signed w i }
  else { out := intImage signed w i }

def toRes (sat : Bool) (i : Int) : Conv :=
  if i > 8257919 then (if sat then { out := resOf 8257919, sat := true } else { out := resOf i })
  else if i < -8257920 then (if sat then { out := resOf (-8257920), sat := true } else { out := resOf i })
  else { out := resOf i }

/-- The integer a value rounds to (R226 step 1); none for NaN and infinity. -/
def fvToInt (rm : Rm) : FV → Option Int
  | .fin n m e => some (signedOf n (roundAt rm n (.dyadic m e) 0))
  | .zero _ => some 0
  | _ => none

/-- FP to SC8 (R228). -/
def toScale (sat ftz : Bool) (rm : Rm) (v : FV) : Conv :=
  match v with
  | .nan => { out := 0xFF }
  | .zero _ => { out := 0 }
  | .inf n =>
    if n then (if sat then { out := 0, sat := true } else { out := 0xFF, nan := true })
    else (if sat then { out := 0xFE, sat := true } else { out := 0xFF, nan := true })
  | .fin n m e =>
    if n then (if sat then { out := 0, sat := true } else { out := 0xFF, nan := true })
    else
      let r := roundMag sc8 rm false (.dyadic m e)
      if r.big then (if sat then { out := 0xFE, sat := true } else { out := 0xFF, nan := true })
      else if ftz && r.tiny then { out := 0, flush := true }
      else { out := r.bits }

/-- The pairs that R223 defines. -/
def convDefined (dst src : Nat) : Bool :=
  dst != src &&
  match fkind dst, fkind src with
  | some (.fp _), some (.fp _) => true
  | some (.int _ _), some (.fp _) => true
  | some .scale, some (.fp _) => true
  | some .res, some (.fp _) => src == 2 || src == 6
  | some (.fp _), some (.int _ _) => true
  | some (.int _ _), some (.int _ _) => true
  | some .res, some (.int _ _) => src == 7 || src == 13
  | some (.fp _), some .scale => true
  | some (.fp _), some .res => dst == 2 || dst == 6
  | some (.int _ _), some .res => dst == 7 || dst == 13
  | _, _ => false

/-- One conversion of a source word by R223 to R228; ftz applies to FP and SC8 inputs and results (R214; log 23).
An infinity that becomes the end of an integer range is a clamp whatever the saturate bit is (R226; log 23). -/
def convert (dst src : Nat) (sat ftz : Bool) (rm : Rm) (w : Nat) : Conv :=
  match fkind src with
  | none => { out := 0 }
  | some (.fp S) =>
    let iv := flushIn S ftz (w % 2 ^ S.width)
    let v := iv.1
    let c : Conv :=
      match fkind dst with
      | some (.fp D) => toFp D sat ftz rm (exactOf v) v.isNan
      | some (.int sg n) =>
        (match v with
         | .nan => { out := 0, sat := true }
         | .inf ng =>
           { out := intImage sg n (if ng then intMin sg n else intMax sg n), sat := true }
         | _ => toInt sg n sat ((fvToInt rm v).getD 0))
      | some .res =>
        (match v with
         | .nan => { out := 0, sat := true }
         | .inf ng => { out := resOf (if ng then -8257920 else 8257919), sat := true }
         | _ => toRes sat ((fvToInt rm v).getD 0))
      | some .scale => toScale sat ftz rm v
      | none => { out := 0 }
    { c with flush := c.flush || iv.2 }
  | some (.int sg n) =>
    let i := if sg then toSigned n (w % 2 ^ n) else ((w % 2 ^ n : Nat) : Int)
    (match fkind dst with
     | some (.fp D) => toFp D sat false rm (if i == 0 then .zero false else exactOfInt i 0) false
     | some (.int dg dn) => toInt dg dn sat i
     | some .res => toRes sat i
     | _ => { out := 0 })
  | some .scale =>
    let iv := flushIn sc8 ftz (w % 256)
    (match fkind dst with
     | some (.fp D) =>
       let c := toFp D sat ftz rm (exactOf iv.1) iv.1.isNan
       { c with flush := c.flush || iv.2 }
     | _ => { out := 0 })
  | some .res =>
    let i := crt w
    (match fkind dst with
     | some (.fp D) => toFp D sat false rm (if i == 0 then .zero false else exactOfInt i 0) false
     | some (.int dg dn) => toInt dg dn sat i
     | _ => { out := 0 })

/-! ## Atomic arithmetic (07_local_memory.md R168, R169) -/

/-- f(op, old, v) on w bits. -/
def atomInt (op w old v : Nat) : Nat :=
  match op with
  | 0 => (old + v) % 2 ^ w
  | 1 => old &&& v
  | 2 => old ||| v
  | 3 => old ^^^ v
  | 4 => if toSigned w old ≤ toSigned w v then old else v
  | 5 => if toSigned w v ≤ toSigned w old then old else v
  | 6 => min old v
  | 7 => max old v
  | 8 => v
  | 9 => if v ≤ old then 0 else old + 1
  | _ => if old == 0 || v < old then v else old - 1

/-- FATOM: RNE, never flushed. -/
def atomFp (op : Nat) (F : Fmt) (old v : Nat) : Nat :=
  match op with
  | 0 => (roundExact F .rne (fvAdd (unpack F old) (unpack F v))).bits
  | 1 => minMaxBits F false old v
  | _ => minMaxBits F true old v

end Sys2Proof.Machine
end

