-- ==== Sys2Proof/Config.lean ====
section
/-! DEFINITION. What an installation fixes, and the values that the spec leaves free. A free value is an opaque
constant with no body: no proof can see what it is. -/

namespace Sys2Proof.Config

/-- The pod ids of the packages that are powered at reset (log 6, DESIGN CHOICE: one module; a pod of several
packages is a state whose table lists several). -/
def podIds : List Nat := [0]

/-- A yes or no that the spec leaves open (log 2), drawn with State.freeCtr: whether the L1 allocated a line in a
scratchpad step between two blocks of one context (07_local_memory.md R151). -/
opaque freeBool : Nat → Bool

/-- A value that the spec does not state (log 2), drawn with State.freeCtr. -/
opaque freeWord : Nat → Word

/-- The SHA-512 digests of Halmet's firmware (0) and of the die firmware (1) that the package has loaded (17_partitions.md
R408; log 117): the spec gives no image. -/
opaque firmwareDigest : Nat → BitVec 512

/-- Corrected errors of one unit after which H is told (03_memory.md R60: the threshold that H sets; log 7). -/
def correctedThreshold : Nat := 1000

end Sys2Proof.Config
end

