-- ==== Sys2Proof/Machine/State.lean ====
section
/-! DEFINITION. The state of a pod of Stasol S9 packages, as plain data, the reasons a step can stop, and the
state after reset. INVENTORY.md lists every field with the rule that names it. -/

namespace Sys2Proof.Machine

/-- Why exec gives no next state. -/
inductive Fault where
  /-- Raised by every word's meaning when the subject of the step is no resident unit of the word's class. No such
  word can be selected (02_instruction_words.md R28 check 2), so stopping is safe. -/
  | noIssuer
  deriving DecidableEq, Repr

inductive Refusal where
  /-- Raised by an arm of exec whose instruction has no meaning yet; safe. -/
  | notModelled (mnemonic : String)
  deriving DecidableEq, Repr

/-! ## Levels, causes, notes -/

/-- Privilege levels (01_machine.md R25). -/
inductive Level where
  | u | s | h
  deriving DecidableEq, Repr

/-- Trap causes (16_traps.md R362). -/
inductive Cause where
  | illegalClause | illegalOp | illegalOperand | illegalConvergence | modeMismatch | emptySource | pageFault
  | protection | secondStage | memerr | align | bounds | instabCancel | instabCompare | instabZdiv | detviol
  | sigMismatch | accOwner | xlockViol | xlockStall | gateDenied | gateRate | gateClosed | gateBad | trap
  deriving DecidableEq, Repr

/-- Kinds of pending-error note (09_registers.md R198). -/
inductive NoteKind where
  | memerr | gpaRefused | align | protection
  deriving DecidableEq, Repr

/-- A pending-error note of an empty register (03_memory.md R61, R439; 09_registers.md R198). -/
structure Note where
  kind : NoteKind
  memkind : Nat
  lanes : Mask
  addr : DWord
  /-- for a load, its virtual address, which the journal is told (R61) -/
  load : DWord := 0
  deriving DecidableEq, Repr

/-- A register with its full/empty bit and its note (R193, R195). -/
structure Reg (α : Type) where
  val : α
  full : Bool := true
  note : Option Note := none
  deriving DecidableEq, Repr

/-- A vector register: one 32-bit value per lane; a lane past the end of the list reads 0. -/
structure VReg where
  lanes : List Word := []
  full : Bool := true
  note : Option Note := none
  deriving DecidableEq, Repr

/-- A trap about to be taken: TRAPINFO, the faulters' mask (none: the slot's whole mask), and DETAIL (R362, R363). -/
structure Trap where
  cause : Cause
  info : DWord := 0
  mask : Option Mask := none
  detail : BitVec 16 := 0
  /-- MEMERR of a load: the address of the load (R61) -/
  load : DWord := 0
  deriving DecidableEq, Repr

/-- The trap registers of one level (R363 to R365). -/
structure TrapRegs where
  pc : DWord := 0
  cause : Word := 0
  mask : Mask := 0
  info : DWord := 0
  deriving DecidableEq, Repr

/-- The per-level trap state of a slot or front-end context: the live copy, the copy saved at entry with k15, the
in-handler bit, and the position that ERET resumes (R365, R371). -/
structure LevelTrap where
  regs : TrapRegs := {}
  saved : TrapRegs := {}
  savedK15 : Mask := 0
  inHandler : Bool := false
  entryMask : Mask := 0
  entryPc : DWord := 0
  hdr : DWord := 0
  left : Nat := 0
  cls : Cls := .sys
  deriving DecidableEq, Repr

/-- What a unit that issues nothing waits for. The word at pc has issued and completes when the wait ends, except
for heldWalk, which issues it again. -/
inductive Wait where
  | none
  /-- WAITJ on a record until a core cycle (14_control.md R338) -/
  | waitj (rec deadline : Nat)
  /-- QPUSH to a full queue (15_scheduling.md R359) -/
  | qpush (q : Nat) (val : DWord)
  /-- DQPUSH to a full decision queue (14_control.md R323) -/
  | dqpush (quire : Nat) (val : DWord)
  /-- TOKEN with q1 full (R324) -/
  | token (val : DWord)
  /-- QPOP of an empty queue (R359): its place in the order of issue, and the notes that its destinations held before -/
  | qpop (q rd ord : Nat) (old : List (Option Note))
  /-- BTOK with q1 empty (R325): the note that x30 held before -/
  | btok (old : List (Option Note))
  /-- XACQ of a held lock (09_registers.md R199) -/
  | xacq
  /-- WAITB on block idx of the node with sequence number seq (15_scheduling.md R353) -/
  | waitb (self : Bool) (seq idx : Nat)
  /-- BAR while the earlier arrival is unreleased (R358) -/
  | bar (scope : Nat)
  /-- FENCE, PFENCE or AFENCE (08_ordering.md R185): the scope; region for AFENCE -/
  | fence (scope : Nat) (afence : Bool) (base len : Nat)
  /-- SEAL and UNSEAL (R189, R190) -/
  | seal (base len : Nat)
  | unseal (base len : Nat)
  /-- TLBINV, PGUNMAP (04_translation.md R84) -/
  | sweep (id : Nat)
  /-- a headgate operation (17_partitions.md R402) -/
  | gate (id : Nat)
  /-- WAITEV of a class (16_traps.md R373) -/
  | waitev (cls rd : Nat)
  /-- a walk held at H (04_translation.md R79) -/
  | heldWalk (pkg part granule : Nat)
  /-- a Translation Request for an access of the instruction (R85); the word issues again when it is answered -/
  | ats (pkg part page : Nat)
  /-- a cause taken at H (16_traps.md R367): the trap, and the level before it -/
  | heldAtH (t : Trap) (pc : DWord)
  deriving DecidableEq, Repr

/-- How far a pre-emption has stopped a unit (R376 to R378). -/
inductive Stop where
  | run
  | safePoint (live : Nat)
  /-- halted between words; whether it was parked at WAITEV -/
  | halted (parked : Bool)
  deriving DecidableEq, Repr

/-- The control state of a slot or a front-end context (R18, R311). left counts the words of the selected clause that
have not issued; 0 means that pc names a header. -/
structure Strand where
  pc : DWord := 0
  hdr : DWord := 0
  left : Nat := 0
  cls : Cls := .sys
  level : Level := .u
  trapU : LevelTrap := {}
  trapS : LevelTrap := {}
  /-- the copy of level H: the last cause taken there (R363, R367) -/
  trapH : TrapRegs := {}
  /-- s24 to s31, or x26 to x30, of level S (R366) -/
  bank : Tab (Reg DWord) := []
  wait : Wait := .none
  /-- imprecise reports due at the next clause selection (R364) -/
  due : List Trap := []
  /-- after-completion traps due before the next word, oldest first (R239, R306, R364) -/
  pend : List Trap := []
  stop : Stop := .run
  /-- a halt has taken back its XACQ (09_registers.md R198) -/
  atXacq : Bool := false
  /-- excluded from the ports by YIELD until others have issued: the candidates that have, by port (R341) -/
  yielded : Option (List (UnitId × Cls)) := none
  deriving DecidableEq, Repr

structure Slot where
  ctl : Strand := {}
  mask : Mask := 0
  /-- innermost join record, 0 for none (R331) -/
  innermost : Nat := 0
  /-- a pop of the divergence stack has trapped: the slot holds no lanes but its handler runs in it (R333) -/
  popTrap : Bool := false
  deriving DecidableEq, Repr

/-- A join record (R331); kind 1 SPLIT, 2 JTAB, 3 CALL. -/
structure JoinRec where
  id : Nat
  kind : Nat
  jpc : DWord
  expect : Mask
  parent : Nat
  arrived : Mask := 0
  /-- the slot whose exit completed it, which takes its lanes (R334) -/
  exitBy : Option Nat := none
  deriving DecidableEq, Repr

/-- A cached translation (04_translation.md R73, R74): in a TLB, of a leaf's whole page; in a last-page register, of one
64 KiB page. vpage and frame are its first 64 KiB page and frame. -/
structure TlbEnt where
  part : Nat
  ctx : Word
  vpage : Nat
  /-- log2 of the leaf's page size -/
  size : Nat
  frame : Nat
  w : Bool
  u : Bool
  kind : Nat
  wb : Bool
  d : Bool
  cnt : Bool
  deriving DecidableEq, Repr

/-- A quire (R18, R193, R384). -/
structure Quire where
  s0 : Slot := {}
  s1 : Slot := {}
  live : Mask := 0
  /-- the lanes of each entry on the divergence stack, by index (R332) -/
  stackLanes : Tab Mask := []
  v : Tab VReg := []
  s : Tab (Reg Word) := []
  k : Tab (Reg Mask) := []
  c : Tab (Reg Bool) := []
  ter : Bool := false
  /-- matrix mode: 0 single, 1 shared-operand triple, 2 full triple (13_matrix.md R296) -/
  mtrip : Nat := 0
  icnt : Tab Word := []
  tctl : Word := 0x1015
  tstat : Word := 0
  fpctl : Word := 0
  sigv : DWord := 0
  dstack : DWord := 0
  recs : List JoinRec := []
  recCtr : Nat := 1
  /-- levels of the stack entries that were pushed above U, by index (log 16) -/
  stackLvl : Tab Level := []
  lastPage : Tab TlbEnt := []
  /-- scope of the recorded barrier arrival, if unreleased (15_scheduling.md R358) -/
  arrival : Option Nat := none
  /-- the operation number that stood next when it was recorded: earlier ones are carried (08_ordering.md R180) -/
  arrivalAt : Nat := 0
  q0 : List DWord := []
  deriving DecidableEq, Repr

/-- The lanes on the divergence stack. -/
def Quire.onStack (Q : Quire) : Mask := Q.stackLanes.foldl (fun m e => m ||| e.2) 0

/-- A front-end context (14_control.md R311). -/
structure Front where
  ctl : Strand := {}
  x : Tab (Reg DWord) := []
  c : Tab (Reg Bool) := []
  fpctl : Word := 0
  done : Bool := false
  deriving DecidableEq, Repr

/-- The fields of a node record (15_scheduling.md R346). -/
structure NodeRec where
  text : DWord := 0
  live : DWord := 0
  args : DWord := 0
  gx : Nat := 1
  gy : Nat := 1
  gz : Nat := 1
  t : Nat := 1
  flags : BitVec 16 := 0
  prio : Nat := 0
  npred : Nat := 0
  ntile : Nat := 0
  baseregs : Nat := 1
  seed : Word := 0
  tag : DWord := 0
  bitmap : DWord := 0
  stattab : DWord := 0
  statn : Nat := 0
  scratch : Nat := 0
  acctiles : Nat := 0
  engq : List Nat := []
  dsbase : DWord := 0
  dscap : Nat := 0
  tmaps : BitVec 16 := 0
  livecount : Nat := 0
  queues : BitVec 8 := 0
  roleq : List (Nat × Nat) := []
  frontent : Nat := 0
  quireent : Nat := 0
  preds : List DWord := []
  tiles : List (DWord × DWord) := []
  deriving DecidableEq, Repr

/-- A completion record (06_engines.md R120). -/
structure EngRec where
  w0 : DWord := 0
  w1 : DWord := 0
  w2 : DWord := 0
  w3 : DWord := 0
  deriving DecidableEq, Repr

/-- An entry of a command/completion pair: the command and, when it has completed, its record (R112, R114). -/
structure PairEnt where
  op : Nat
  record : Option EngRec := none
  deriving DecidableEq, Repr

/-- A CWAIT (or CPOLL) whose pop has not taken place (R122, R123). -/
structure PopWait where
  unit : UnitId
  q : Nat
  dests : List Nat
  poll : Bool
  /-- the destinations are in the bank of level S -/
  bank : Bool := false
  deriving DecidableEq, Repr

/-- The lock of an extended set (09_registers.md R199, R201). -/
structure XLock where
  holder : Option Nat := none
  stall : Nat := 0
  /-- the quire that waited when it was last released: it takes the lock next -/
  next : Option Nat := none
  deriving DecidableEq, Repr

/-- Whether a block is in a core's store, and how it ended (R347, R387). -/
inductive BlockEnd where
  | running
  /-- every lane and the front-end stopped without the completion bit: STOP, WAITB, replay refused -/
  | stopped
  | faulted
  deriving DecidableEq, Repr

/-- A save slot with the context record's values as they stood when it was taken (16_traps.md R380, R382). -/
structure SaveSlot where
  base : Nat
  size : Nat
  acc : Nat
  idx : Nat
  deriving DecidableEq, Repr

/-- A resident block (01_machine.md R22). Quires and extended sets stand in their own tables. -/
structure Block where
  part : Nat := 0
  ctx : Word := 0
  pkg : Nat := 0
  core : Nat := 0
  /-- sequence number of its node in the partition's pool (R345) -/
  seq : Nat := 0
  nodeVa : DWord := 0
  idx : Nat := 0
  nq : Nat := 1
  node : NodeRec := {}
  seed : Word := 0
  ovf : Word := 0
  /-- six counts per tensor id (11_ternion.md R250) -/
  stats : Tab (List Nat) := []
  q1 : List DWord := []
  roleQ : Tab (List DWord) := []
  pairs : Tab (List PairEnt) := []
  pops : List PopWait := []
  locks : Tab XLock := []
  /-- extended sets by pair: v64 to v127 (R194) -/
  ext : Tab (Tab VReg) := []
  /-- first local-SRAM step of the scratchpad allocation, its size in steps, first physical tile (R150, R290) -/
  step0 : Nat := 0
  abase : Nat := 0
  attempt : Nat := 1
  front : Front := {}
  ending : BlockEnd := .running
  /-- save slot taken at the soft stage (R380) -/
  saveSlot : Option SaveSlot := none
  /-- uncorrectable entries of its queues (03_memory.md R59): queue, quire, place from the head -/
  badQ : List (Nat × Nat × Nat) := []
  deriving DecidableEq, Repr

/-- One physical accumulator tile (13_matrix.md R291): element 256 plane + 16 r + c. -/
structure Tile where
  elems : Tab Word := []
  count : BitVec 24 := 0
  trip : Bool := false
  resOpen : Bool := false
  /-- MZERO has cleared the USED bit: COUNT stands (R303; log 19) -/
  keep : Bool := false
  /-- the planes with an uncorrectable word (03_memory.md R59) -/
  bad : List Nat := []
  deriving DecidableEq, Repr

/-- A 64 KiB step of local SRAM (07_local_memory.md R150, R151). -/
structure SramStep where
  block : Option Nat := none
  /-- the context that used it last as scratchpad -/
  user : Option (Nat × Word) := none
  deriving DecidableEq, Repr

/-- A MAT instruction that has issued and not retired: what it writes (13_matrix.md R293). -/
structure MatOp where
  /-- its number among the pod's operations -/
  id : Nat := 0
  b : Nat
  q : Nat
  sl : Nat
  pc : DWord := 0
  tile : Option (Nat × Tile) := none
  used : Option (Nat × Bool) := none
  vregs : List (Nat × List Word) := []
  /-- scratchpad bytes at core SRAM offsets -/
  scratch : List (Nat × Byte) := []
  /-- tile whose plane 0 is folded into SIGV (R304) -/
  fold : Option (List Word) := none
  /-- statistics: tensor id, saturations, NaNs; and OVF bits (R230, R326) -/
  stat : Option (Nat × Nat × Nat) := none
  ovf : Word := 0
  /-- an uncorrectable operand: no effect, MEMERR at the next selection (R295) -/
  failed : Bool := false
  /-- MSIGX: its memory operation, the virtual address, and whether a mismatch traps (R306) -/
  msigx : Option (Nat × DWord × Bool) := none
  deriving DecidableEq, Repr

/-- A port's selection state: for each candidate the opportunities it has been passed over, and the candidates in the
order in which they last issued here (15_scheduling.md R360). -/
structure PortState where
  passed : List (UnitId × Nat) := []
  order : List UnitId := []
  deriving DecidableEq, Repr

/-- A core (R24, R193). -/
structure Core where
  t : Tab DWord := []
  tiles : Tab Tile := []
  accOwn : Word := 0xFFFFFFFF
  accUsed : BitVec 16 := 0
  sram : List Host.Cell := []
  /-- uncorrectable 4-byte words of the SRAM (R59) -/
  badSram : List Nat := []
  steps : Tab SramStep := []
  tlb : List TlbEnt := []
  matQ : List MatOp := []
  ports : Tab PortState := []
  /-- the context that runs here and the core cycles of its slice (R361) -/
  running : Option (Nat × Word) := none
  slice : Nat := 0
  /-- contexts whose slices have expired here, in that order: they take the core again round-robin, after others that have
  work for it (R361) -/
  turns : List Word := []
  deriving DecidableEq, Repr

/-! ## Accesses and messages -/

inductive AtomKind where
  | atom | acas | fatom
  deriving DecidableEq, Repr

/-- An atomic operation on one location (07_local_memory.md R168). -/
structure AtomOp where
  kind : AtomKind
  op : Nat
  w64 : Bool
  v : DWord
  cmp : DWord := 0
  /-- the old value is returned -/
  ret : Bool := true
  deriving DecidableEq, Repr

inductive LaneAct where
  | rd (n : Nat)
  | wr (bytes : List Byte)
  | amo (a : AtomOp)
  deriving DecidableEq, Repr

/-- What one lane (or piece of an element) does in a 64-byte line, at byte off of the line. -/
structure LaneOp where
  key : Nat
  off : Nat
  act : LaneAct
  /-- the virtual address (R184, R198), and the thread that makes the access -/
  va : Nat := 0
  thread : Nat := 0
  /-- the bytes that a load through an alias returns in place of memory's (R184) -/
  old : Option (List Byte) := none
  deriving DecidableEq, Repr

/-- Where the second stage sends a line (04_translation.md R77). -/
inductive Target where
  | dev (dpa : Nat)
  | host (ha : Nat)
  deriving DecidableEq, Repr

/-- A request for one 64-byte line (R161). -/
structure LineReq where
  unit : UnitId
  pkg : Nat
  part : Nat
  ctx : Word
  /-- guest-physical line base -/
  gpa : Nat
  ops : List LaneOp
  lvl : Level
  /-- the outstanding operation that collects the results -/
  op : Nat
  write : Bool
  ter : Bool := false
  /-- the die that counts it, where its page is counted (04_translation.md R89) -/
  cnt : Option Nat := none
  /-- a store of an engine operation, which op names -/
  eng : Bool := false
  deriving DecidableEq, Repr

/-! ## Virtual aliases (08_ordering.md R184) -/

/-- A thread of the memory model (R172): a logical thread, by its block, quire and first lane; a front-end context; an
engine operation. -/
inductive ThreadId where
  | lane (b q l : Nat)
  | front (b : Nat)
  | eng (id : Nat)
  /-- the host and the device itself, which store through no virtual page -/
  | dev
  deriving DecidableEq, Repr

/-- A byte stored through another page since a view was taken: its offset in the line, its value, the storing thread and
the address that it used, and whether that thread has executed an AFENCE over that address since. -/
structure NewerStore where
  off : Nat
  val : Byte
  writer : ThreadId
  va : Nat
  fenced : Bool := false
  deriving DecidableEq, Repr

/-- Bytes of a line, n from lo on, as one thread's loads through one virtual page still return them, and the stores that
they may not yet see, oldest first. bytes holds the whole line. cw names the completion words, by guest-physical address,
of the engine operations among the storing threads. -/
structure View where
  thread : ThreadId
  part : Nat
  ctx : Word
  vpage : Nat
  line : Nat
  lo : Nat := 0
  n : Nat := 64
  bytes : List Byte
  newer : List NewerStore := []
  cw : List (Nat × Nat) := []
  deriving DecidableEq, Repr

/-- What a home answers: bytes per key, and failing keys with their notes. -/
structure Answer where
  got : List (Nat × List Byte) := []
  errs : List (Nat × Note) := []
  /-- keys of the stores and atomics that wrote nothing: dropped (R62), refused, or a compare that failed (R168) -/
  unwritten : List Nat := []
  deriving DecidableEq, Repr

inductive MsgState where
  /-- not injected: bucket frozen or port full (05_fabric.md R98, R100) -/
  | queued
  | flying
  /-- held at the home for a newer plane map (R99) -/
  | heldHome
  /-- refused with RETRY_MAP: on the way back, then waiting for the version -/
  | retryBack (ver : Nat)
  | retryWait (ver : Nat)
  /-- the answer travels back: results and failing keys -/
  | answered (a : Answer)
  deriving DecidableEq, Repr

/-- A fabric or host-link request with its message header (R95). -/
structure Msg where
  req : LineReq
  tgt : Target
  state : MsgState := .queued
  plane : Nat := 0
  origin : Nat := 0
  seq : Nat := 0
  ver : Nat := 0
  replay : Bool := false
  /-- its place in the order in which requests were sent (R97, R103) -/
  stamp : Nat := 0
  /-- host requests: waiting for an address translation (04_translation.md R85) -/
  ats : Bool := false
  /-- host requests: the translated address at which it is sent with AT = Translated (R85) -/
  sentAs : Option Nat := none
  /-- reference time at which it was made -/
  sent : Nat := 0
  deriving DecidableEq, Repr

/-- How returned data is placed (R158, R159, R164, R167, R306, R318). -/
inductive Dest where
  | none
  /-- n registers from r; width in bytes; sign-extend -/
  | vreg (r n bytes : Nat) (sx : Bool)
  | sreg (r bytes : Nat) (sx bank : Bool)
  | xreg (r : Nat) (w64 bank : Bool)
  /-- LDT: register, FP64, and the kind of each thread's page -/
  | ldt (r : Nat) (f64 : Bool) (kinds : List (Nat × Nat))
  /-- MSIGX.CMP: the compared address and the value to compare -/
  | msigx (addr : DWord) (val : DWord)
  deriving DecidableEq, Repr

/-- An issued memory operation whose requests have not all been answered (R160). -/
structure PendOp where
  unit : UnitId
  dest : Dest
  ter : Bool
  /-- lane or thread keys that the operation covers -/
  keys : List Nat
  waiting : Nat
  got : List (Nat × List Byte) := []
  errs : List (Nat × Note) := []
  /-- lanes whose threads issued it -/
  lanes : Mask := 0
  /-- an atomic whose acquire holds back later accesses: 1 those homed in the package, 2 those to device memory, 3 all
  (R179, R182) -/
  acq : Nat := 0
  /-- no access: an MFSR of this register, whose value is not there yet (09_registers.md R195) -/
  sr : Option Nat := none
  /-- what TSTAT held when that MFSR issued (11_ternion.md R240) -/
  srAt : DWord := 0
  deriving DecidableEq, Repr

/-- A request or walk held at a controller for H (04_translation.md R78, R79). -/
inductive HeldWhat where
  | line (r : LineReq)
  /-- a line request that no second-stage fault holds: it is sent after an earlier held one of its threads (log 14) -/
  | behind (r : LineReq)
  /-- a line request that its unit's store path has not let go yet (08_ordering.md R175; log 111) -/
  | slow (r : LineReq)
  /-- the walk of a unit's access: its virtual address, the walk level, whether it writes, the lanes that need it -/
  | walk (u : UnitId) (va level : Nat) (write : Bool) (mask : Option Mask)
  /-- an access that its instruction makes before it takes effect -/
  | sync (u : UnitId) (va : Nat) (write : Bool)
  /-- an access of an engine operation -/
  | eng (id gpa : Nat) (write : Bool)
  /-- the walk of an engine operation's access -/
  | engWalk (id gpa va level : Nat) (write : Bool)
  deriving DecidableEq, Repr

structure Held where
  pkg : Nat
  part : Nat
  granule : Nat
  what : HeldWhat
  deriving DecidableEq, Repr

/-- What a sweep removes (R84, R86). -/
inductive SweepKind where
  | page (ctx : Word) (vpage : Nat)
  /-- one virtual page in every context of the partition (R91) -/
  | pageAll (vpage : Nat)
  | pages (ctx : Word) (first n : Nat)
  | ctx (ctx : Word)
  | part
  | gpage (frame : Nat)
  | s2 (granule : Nat)
  | s2all
  /-- a context's stores, and then the context takes a new CTXID (09_registers.md R441) -/
  | rename (old new : Word)
  deriving DecidableEq, Repr

structure Sweep where
  part : Nat
  kind : SweepKind
  unit : Option UnitId := none
  eng : Option Nat := none
  deriving DecidableEq, Repr

/-! ## Engines -/

inductive EngPhase where
  | queued
  | running
  /-- MIGR: waiting for the first sweep and the drain of writes, then for the second sweep, and then for its last store of the
  leaf where that could not be made at once (04_translation.md R91) -/
  | migrSweep1
  | migrDrain
  | migrSweep2
  | migrDone
  /-- COLL handed to its collective engine, which is to read the ring (06_engines.md R442); waiting on READY (R137) -/
  | collRing
  | collReady
  | collExch
  | collStep (step : Nat)
  /-- ended by a failure or a success, record not yet queued -/
  | ended
  deriving DecidableEq, Repr

/-- A COLL's checked descriptor (R135). -/
structure CollDesc where
  op : Nat := 0
  fmt : Nat := 0
  n : Nat := 0
  rank : Nat := 0
  e : Nat := 0
  ring : Nat := 0
  ready : Nat := 0
  thresh : DWord := 0
  cid : Word := 0
  timeout : Nat := 0
  deriving DecidableEq, Repr

/-- A ring entry (R136). -/
structure RingEnt where
  bucket : Nat := 0
  stage : Nat := 0
  engine : Nat := 0
  path : Nat := 0
  qp : Nat := 0
  /-- the package and die that ENGINE names -/
  serves : Option (Nat × Nat) := none
  deriving DecidableEq, Repr

/-- Bytes that an engine operation is to write: at a virtual address, or at an offset of the scratchpad of a block that
the operation names by a number. -/
structure EngPut where
  pad : Option Nat := none
  at_ : Nat
  bytes : List Byte
  deriving DecidableEq, Repr

/-- An engine operation from its fork to its record (R111 to R121). -/
structure EngOp where
  /-- its number among the pod's operations -/
  id : Nat := 0
  unit : UnitId
  b : Nat
  part : Nat
  ctx : Word
  level : Level
  pkg : Nat
  /-- package-level engine number -/
  eng : Nat
  q : Nat
  opc : Nat
  ra : DWord := 0
  rb : DWord := 0
  rc : DWord := 0
  tag : DWord := 0
  map : DWord := 0
  phase : EngPhase := .queued
  status : Nat := 0
  cause : Nat := 0
  reason : Nat := 0
  addr : DWord := 0
  detail : DWord := 0
  coll : CollDesc := {}
  ring : List RingEnt := []
  /-- the partial that this rank holds and the neighbours it has matched (R138) -/
  partial_ : List Word := []
  sent : Nat := 0
  recvd : Nat := 0
  since : Nat := 0
  left : Option Nat := none
  right : Option Nat := none
  /-- the order in which the engines started their commands -/
  started : Nat := 0
  /-- PATH 1 (R139): chunks that have arrived and returns that have come back; chunks and returns on the way -/
  arrived : Nat := 0
  returned : Nat := 0
  outW : List (Nat × List Byte) := []
  outR : List Nat := []
  /-- the completion word could not be written (R115) -/
  cwFail : Bool := false
  /-- MIGR: guest-physical address of the leaf, and the old frame -/
  leaf : Nat := 0
  oldFrame : Nat := 0
  /-- it runs on a collective engine, which is number eng (R442) -/
  onColl : Bool := false
  /-- the descriptor as it was read, and what it names: indices, a table row, destination entries -/
  desc : Option (List Byte × List Byte) := none
  /-- source pieces that have been read, by address; the writes of the chunk that a COLL receives; the writes that have been
  made (R117; log 55) -/
  fetched : List (Nat × List Byte) := []
  plan : Option (List EngPut) := none
  early : List Nat := []
  /-- a COLL has stored the data of the step that it sends, and not yet the word that says so (R139) -/
  mid : Bool := false
  /-- the completion word has been sent to another package (R115) -/
  cwSent : Bool := false
  /-- the access to host memory that it waits for: its virtual address, and since when (05_fabric.md R109) -/
  asked : Option (Nat × Nat) := none
  deriving DecidableEq, Repr

/-! ## Headgates -/

inductive GateKind where
  | send | sig | wait | take | qry
  deriving DecidableEq, Repr

inductive GateState where
  /-- not injected: bucket frozen or port full (05_fabric.md R98, R100) -/
  | queued
  /-- on the way to the home -/
  | sent
  /-- held at the home for a newer plane map; refused with RETRY_MAP: on the way back, then waiting (R99) -/
  | heldMap
  | retryBack (ver : Nat)
  | retryWait (ver : Nat)
  /-- held at the home while the gate migrates (17_partitions.md R406) -/
  | heldMigr
  /-- waiting for a token, a slot, a message, or the threshold (R401, R404) -/
  | heldToken
  | heldSlot
  | waiting
  /-- the unit's table was full (R404) -/
  | tableFull
  /-- answered: results, or a trap -/
  | answered (rs : List DWord)
  | trapped (t : Trap)
  deriving DecidableEq, Repr

structure GateOp where
  unit : UnitId
  kind : GateKind
  part : Nat
  ctx : Word
  atH : Bool
  handle : Nat
  opnd : DWord := 0
  timeout : Nat := 0
  nb : Bool := false
  /-- the message sent, or taken -/
  msg : List Byte := []
  /-- HGTAKE: the guest-physical and the virtual place of the message, and whether its page is counted -/
  gpa : Nat := 0
  va : Nat := 0
  cnt : Bool := false
  dests : List Nat := []
  /-- the notes that the destinations held before, one list to a destination -/
  olds : List (List (Option Note)) := []
  state : GateState := .sent
  /-- the object at which it is held, and since when -/
  home : Nat := 0
  since : Nat := 0
  /-- order of its arrival at the gate; 0 before -/
  order : Nat := 0
  /-- its message header, where the gate is homed on another package (R95), and its place in the order of sending -/
  plane : Nat := 0
  origin : Nat := 0
  seq : Nat := 0
  ver : Nat := 0
  replay : Bool := false
  stamp : Nat := 0
  /-- the result that the home's window holds for a replay (R102) -/
  recorded : Option GateState := none
  deriving DecidableEq, Repr

/-! ## Packages -/

/-- A layout entry (17_partitions.md R389). -/
structure LayoutEnt where
  quads : BitVec 96 := 0
  banks : BitVec 128 := 0
  groups : BitVec 128 := 0
  copyEng : Word := 0
  collEng : Byte := 0
  eth : Byte := 0
  podPart : BitVec 14 := 0
  valid : Bool := false
  hbmBase : DWord := 0
  s2Table : DWord := 0
  s2Limit : Word := 0
  policy : Word := 0
  paging : DWord := 0
  slice : Word := 5400000
  grace : Word := 100
  kill : Word := 10000
  deriving DecidableEq, Repr

/-- An L2 line: its tag, its device-physical line, whether it is dirty and which 32-byte units are pinned
(07_local_memory.md R146, R149). The bytes are those of memory: caches hold no second value that a program sees. -/
structure L2Line where
  part : Nat
  gpaLine : Nat
  dpaLine : Nat
  dirty : Bool
  bad0 : Bool := false
  bad1 : Bool := false
  deriving DecidableEq, Repr

/-- An access counter (04_translation.md R89). -/
structure Counter where
  part : Nat
  frame : Nat
  count : Nat
  stopped : Bool := false
  deriving DecidableEq, Repr

inductive ScrubWhat where
  | quad (n : Nat)
  | bank (n : Nat)
  | copyEng (n : Nat)
  | collEng (n : Nat)
  | coreOf (part : Nat) (ctx : Word) (core : Nat)
  deriving DecidableEq, Repr

/-- A quiesce in progress (05_fabric.md R103). -/
structure Quiesce where
  dead : List Nat
  start : Nat
  reports : List Nat := []
  ticked : Bool := false
  /-- packages whose step-4 report is on the way to this one -/
  coming : List Nat := []
  /-- planes whose status event has been posted (R105) -/
  posted : List Nat := []
  /-- planes that return (R106) -/
  back : List Nat := []
  deriving DecidableEq, Repr

/-- A page-request slot of a function (04_translation.md R87). -/
structure PriSlot where
  unit : UnitId
  page : Nat
  write : Bool := false
  deriving DecidableEq, Repr

/-- A Translation Request of an access that is made in one step (R85; log 15): the unit or the engine operation that
waits, the untranslated page of 4 KiB, and the guest-physical address. -/
structure AtsWant where
  part : Nat
  page : Nat
  gpa : Nat
  unit : Option UnitId := none
  eng : Nat := 0
  sent : Nat := 0
  deriving DecidableEq, Repr

/-- A block in the journal of the die to which it was dispatched (16_traps.md R386). -/
structure JournalEnt where
  part : Nat
  seq : Nat
  idx : Nat
  attempt : Nat
  deriving DecidableEq, Repr

/-- An uncorrectable error that a die's replay journal is told (03_memory.md R61, 16_traps.md R386). -/
structure JournalErr where
  part : Nat
  seq : Nat
  idx : Nat
  attempt : Nat
  kind : Nat
  /-- guest-physical address of the failing unit, and the address of the load -/
  unit : DWord
  load : DWord
  deriving DecidableEq, Repr

/-- An ATC entry (R85). -/
structure AtcEnt where
  page : Nat
  dst : Nat
  r : Bool
  w : Bool
  /-- the guest-physical granule through which it was reached -/
  granule : Nat := 0
  deriving DecidableEq, Repr

/-- An ATS Invalidation Request that has not been completed (R86): its pages of 4 KiB, and under a PASID the context that
it names, if any; whether its work has begun, the Translated requests that it waits for, and its sweep. -/
structure Inval where
  first : Nat
  n : Nat
  pasid : Bool
  begun : Bool := false
  waits : List Nat := []
  sweep : Option Nat := none
  ctx : Word := 0
  deriving DecidableEq, Repr

/-- A function of the host link (R85, R88, R110). -/
structure Func where
  gen : Nat := 0
  pri : Tab PriSlot := []
  atc : List AtcEnt := []
  atsOn : Bool := false
  /-- invalidations in the order of their arrival, and how many have been completed (R86) -/
  invals : List Inval := []
  invDone : Nat := 0
  deriving DecidableEq, Repr

/-- A queue pair of an Ethernet port (05_fabric.md R107): the context for which its supervisor made it, its priority,
what it has received, the packets it has sent and not seen acknowledged, and its answers to reads. -/
structure QPair where
  ctx : Word := 0
  prio : Nat := 0
  /-- path MTU in bytes; the timeout in ticks, and how often what is not acknowledged is sent again -/
  mtu : Nat := 1024
  timeout : Nat := 400000
  retries : Nat := 7
  /-- times it has been sent again since the last acknowledgement, and since when it waits for one -/
  tries : Nat := 0
  since : Nat := 0
  reads : List (List Byte) := []
  unacked : Nat := 0
  resent : Nat := 0
  rate : Nat := 0
  deriving DecidableEq, Repr

structure EthPort where
  up : Bool := true
  paused : BitVec 8 := 0
  dropped : Nat := 0
  qps : Tab QPair := []
  deriving DecidableEq, Repr

/-- What the device answers over SPDM 1.3 (17_partitions.md R408). The third measurement digests the live layout
entries and plane map of the last commit. -/
inductive SpdmAnswer where
  | version
  | capabilities
  /-- RSA-4096 and SHA-512 -/
  | algorithms
  | digests
  | certificate
  | challengeAuth
  /-- measurements 1 and 2, the digests of Halmet's and of the die's firmware, and what measurement 3 digests -/
  | measurements (halmet die : BitVec 512) (layout : Tab LayoutEnt) (map : Tab Nat)
  deriving DecidableEq, Repr

/-- A window of host-managed device memory that H defines (R108): its host address, its length, and the device-physical
address of its first byte. -/
structure CxlWindow where
  base : Nat
  len : Nat
  dpa : Nat
  deriving DecidableEq, Repr

/-- A result window of a home for a source package and origin port (R102): sequence numbers with results, newest first. -/
structure Window where
  src : Nat
  origin : Nat
  results : List (Nat × Answer) := []
  deriving DecidableEq, Repr

/-- The counts of a partition's register page on a package (17_partitions.md R393): scope clamps of its units there,
discarded page responses of its function, and refused host writes. -/
structure PageCounts where
  clamps : DWord := 0
  latePri : DWord := 0
  hostRef : DWord := 0
  deriving DecidableEq, Repr

structure Pkg where
  map : Tab Nat := []
  shadowMap : Tab Nat := []
  ver : BitVec 16 := 0
  live : BitVec 8 := 0xFF
  frozen : BitVec 8 := 0
  frozenSet : Tab (List Nat) := []
  quiesceOn : Bool := false
  quiesce : Option Quiesce := none
  seqs : Tab Nat := []
  windows : List Window := []
  left : Bool := false
  fenced : List Nat := []
  crcReplays : Nat := 0
  spareLanes : Tab Nat := []
  half : List Nat := []
  shadow : Tab LayoutEnt := []
  layout : Tab LayoutEnt := []
  version : Word := 0
  committing : Bool := false
  /-- the scrubs still to end of a commit that has ticked (17_partitions.md R391) -/
  commitScrubs : List ScrubWhat := []
  err : BitVec 4 := 0
  devstat : DWord := 0x80
  frgpa : DWord := 0
  frgo : DWord := 0
  releases : List (Nat × Nat × Nat) := []
  hshadow : DWord := 0
  hsetbase : DWord := 0
  s2resp : DWord := 0
  podmask : BitVec 320 := 0
  place : Tab Byte := []
  /-- dies whose spare quad has been used (R397) -/
  usedSpares : List Nat := []
  /-- by pod partition (R393) -/
  counts : Tab PageCounts := []
  scrubs : List ScrubWhat := []
  l2 : List L2Line := []
  counters : Tab (List Counter) := []
  /-- corrected-error counts (R60): channel groups, 128 on second-tier channels, 160 on dies; the threshold and the
  scrub period in hours that H sets, and the period in which each line was last scrubbed -/
  corrected : Tab Nat := []
  corrThreshold : Nat := Config.correctedThreshold
  scrubHours : Nat := 24
  scrubbed : Tab Nat := []
  /-- the replay journals by die, each with its mirror on the die whose number differs in bit 0: the blocks dispatched,
  and the errors (R386) -/
  dispatched : Tab (List JournalEnt) := []
  journal : Tab (List JournalErr) := []
  /-- translations held by copy engines 0 to 31 and collective engines, 32 and up (04_translation.md R74) -/
  engTlbs : Tab (List TlbEnt) := []
  atsWant : List AtsWant := []
  enabled : DWord := 0x3FFF
  funcs : Tab Func := []
  eth : Tab EthPort := []
  halmetUp : Bool := true
  recovery : Bool := false
  linkUp : Bool := true
  /-- the arithmetic clock of each die in MHz, and its core cycles since reset in millionths (00_scope.md R5, R409) -/
  clocks : Tab Nat := []
  cyc : Tab Nat := []
  stopped : Bool := false
  spdm : List SpdmAnswer := []
  /-- the partition that H has bound each of the 32 virtual functions to, and its CXL.mem windows (R108) -/
  vfs : Tab Nat := []
  cxl : List CxlWindow := []
  measured : Tab LayoutEnt × Tab Nat := ([], [])
  /-- dies, banks and channel groups whose loss H has declared (R386, R398) -/
  lostDies : List Nat := []
  lostBanks : List Nat := []
  lostGroups : List Nat := []
  /-- token refills done (R401) -/
  refills : Nat := 0
  /-- stores of level H to registers that only H may reach: offset, halves written, value -/
  hwrites : List (Nat × Nat × DWord) := []
  refusedP2p : Nat := 0
  /-- stores that have reached a page-request doorbell and wait for a request slot (R87) -/
  doorbells : List (Nat × UnitId × DWord) := []
  deriving DecidableEq, Repr

/-! ## Partitions and the scheduler -/

structure LaunchQ where
  base : DWord := 0
  size : Word := 0
  ctx : Word := 0
  head : Word := 0
  tail : Word := 0
  en : Bool := false
  err : Bool := false
  /-- accepted TAIL values with the level of their writer: H or below (R344) -/
  levels : List (Word × Bool) := []
  deriving DecidableEq, Repr

/-- The unit that failed with a block (16_traps.md R386): a core of a physical quad, the quad, or a die. -/
inductive FailedUnit where
  | core (pkg phys n : Nat)
  | quad (pkg phys : Nat)
  | die (pkg d : Nat)
  deriving DecidableEq, Repr

/-- A block that is to be dispatched again, outside the unit that failed (R387). -/
structure Redo where
  idx : Nat
  attempt : Nat
  failed : FailedUnit
  deriving DecidableEq, Repr

/-- A node the partition has accepted (R347 to R349). -/
structure Node where
  va : DWord
  ctx : Word
  nrec : NodeRec
  prio : Nat
  state : Nat := 0
  statsLost : Bool := false
  next : Nat := 0
  retired : Nat := 0
  /-- blocks dispatched and not yet ended -/
  running : Nat := 0
  /-- blocks that ended without their completion bit -/
  failed : List Nat := []
  bits : List Nat := []
  entered : Nat := 0
  passedAt : Option Nat := none
  reserving : Bool := false
  withdrawn : Bool := false
  /-- terminal state owed when the dispatched blocks have ended -/
  owed : Option Nat := none
  /-- failed blocks to dispatch again (16_traps.md R387) -/
  redo : List Redo := []
  /-- for each predecessor, the node that the pool held under its address at acceptance, by sequence number (R347) -/
  from_ : List (Option Nat) := []
  /-- it has ended and the pool holds it no more (15_scheduling.md R440) -/
  gone : Bool := false
  deriving DecidableEq, Repr

/-- A sealed region (03_memory.md R66). -/
structure Seal where
  base : Nat
  len : Nat
  frames : List Nat
  ctx : Word
  deriving DecidableEq, Repr

/-- A saved block (16_traps.md R382 to R385): its number, which it takes again when it resumes, its context, slot and
core, whether its tiles were moved, what the image has no place for, and its scratchpad. -/
structure Saved where
  b : Nat
  ctx : Word
  slot : SaveSlot
  core : Nat
  seq : Nat
  idx : Nat
  attempt : Nat
  moved : Bool
  block : Block
  quires : List (Nat × Quire)
  scratch : List Host.Cell
  deriving DecidableEq, Repr

/-- A text section placed by the loader (02_instruction_words.md R53; log 9). -/
structure Text where
  ctx : Word
  base : Nat
  size : Nat
  deriving DecidableEq, Repr

/-- A pre-emption request (16_traps.md R376, R380). -/
structure Preempt where
  part : Nat
  ctx : Word
  cores : List Nat
  start : Nat
  grace : Bool := false
  layout : Bool := false
  deriving DecidableEq, Repr

/-- Undelivered events of a context and class (R373), each with the unit that alone it wakes, if there is one (R87);
and whether one was dropped. -/
structure EventQ where
  ctx : Word
  cls : Nat
  vals : List (Option UnitId × DWord) := []
  lost : Bool := false
  deriving DecidableEq, Repr

structure Part where
  /-- the last word stored to the page-request doorbell (04_translation.md R87) -/
  priDoor : DWord := 0
  ctxTab : DWord := 0
  gateDir : DWord := 0
  queues : Tab LaunchQ := []
  seals : List Seal := []
  carb : BitVec 16 := 0x2844
  nodes : Tab Node := []
  nextSeq : Nat := 0
  /-- records of nodes that were accepted: context and address (R346) -/
  past : List (Word × DWord) := []
  saved : List Saved := []
  texts : List Text := []
  events : List EventQ := []
  deriving DecidableEq, Repr

/-- What the device tells H. -/
inductive HEvent where
  | secondStage (part gpa : Nat) (ctx : Word) (write : Bool)
  | walkHeld (part gpa va level : Nat)
  | corrected (pkg unit : Nat)
  | scrubFound (pkg addr : Nat)
  | storeDropped (ctx : Word) (addr : Nat)
  | noThreadAccess (part addr : Nat)
  | migrStuck (leaf : Nat)
  | registerError (pkg : Nat)
  | planeLost (plane : Nat)
  | leftPod (pkg : Nat)
  | fencedOut (pkg : Nat)
  | boundaryHalf (pkg bnd : Nat)
  | boundaryLane (pkg bnd : Nat)
  | l2SetPinned (pkg : Nat)
  | trapAtH (u : UnitId) (cause : Cause) (esc : Bool)
  | killed (part : Nat) (ctx : Word)
  | noSaveSlot (part : Nat) (ctx : Word)
  /-- an access of the device to a save area meets a fault or an uncorrectable unit (16_traps.md R382) -/
  | areaFault (part : Nat) (ctx : Word) (va : Nat)
  | placeIgnored (pkg quad : Nat)
  | frameReleased (pkg frame : Nat)
  | enabledIgnored (pkg : Nat)
  | unitLost (pkg : Nat) (kind : LossKind) (n : Nat)
  | replaceRequested (pkg : Nat)
  | critical (pkg : Nat)
  | recovery (pkg : Nat)
  deriving DecidableEq, Repr

/-! ## Moves -/

/-- Which agent moves next. The order of agents is an input of a run (log 1). -/
inductive Move where
  /-- a unit issues the next word of its selected clause -/
  | word (u : UnitId)
  /-- another agent's step -/
  | event (i : Instr) (sub : Subject)
  /-- time passes, in picoseconds: reference ticks, and each die's core cycles by its own clock (R5) -/
  | pass (ps : Nat)
  /-- a translation store of a core drops an entry (R74) -/
  | evict (core entry : Nat)
  | evictEng (pkg eng entry : Nat)
  /-- storage becomes uncorrectable (R59): a 32-byte unit of device memory; a unit of an L2 line; a word of local SRAM;
  a plane of an accumulator tile; a v, s, x, k or c register (class 0 to 4); an entry of a block's queue, by queue, quire and place -/
  | badUnit (unit : Nat)
  | badL2 (pkg line : Nat) (second : Bool)
  | badSram (core word : Nat)
  | badTile (core tile plane : Nat)
  | badReg (u : UnitId) (cls r : Nat)
  | badQueue (b q quire place : Nat)
  /-- an error is corrected in the data of an access: the count it belongs to (R60) -/
  | correctedErr (pkg unit : Nat)
  /-- H sets the corrected-error threshold and the scrub period (R60) -/
  | setScrub (pkg threshold hours : Nat)
  /-- H, which runs outside the partitions' units, writes ENABLED of a package or a partition's GATEDIR (17_partitions.md
  R399, R407) -/
  | setEnabled (pkg : Nat) (v : DWord)
  | setGateDir (part : Nat) (v : DWord)
  /-- an L2 evicts a line (07_local_memory.md R146) -/
  | dropLine (pkg line : Nat)
  /-- a thread's loads through a virtual page keep returning n bytes of a line as they stand now (08_ordering.md R184); and
  no more -/
  | keepView (t : ThreadId) (pkg part : Nat) (ctx : Word) (vpage line lo n : Nat)
  | dropView (n : Nat)
  /-- from now on a unit's accesses of a side, 0 its own package, 1 other packages, 2 the host, are let go late, or no more;
  and the late one at place n of the held accesses is let go (08_ordering.md R175; log 111) -/
  | lag (u : UnitId) (side : Nat) (on : Bool)
  | go (n : Nat)
  /-- a free slot takes work: a record that an exit has completed, or the top of the divergence stack (14_control.md
  R335) -/
  | takeWork (b q sl : Nat)
  /-- the pool lets go of a node that has ended (15_scheduling.md R440) -/
  | forgetNode (part seq : Nat)
  /-- a running engine operation moves piece k of its data (06_engines.md R117) -/
  | engPiece (id k : Nat)
  /-- the loader tells where a text section stands (02_instruction_words.md R53) -/
  | loadText (part : Nat) (t : Text)
  /-- the host writes ATS Enable of a function (04_translation.md R85) -/
  | setAts (pkg part : Nat) (on : Bool)
  /-- the oldest invalidation of a function has done its work, and its completion goes to the host (R86) -/
  | invalDone (pkg part : Nat)
  /-- H binds a virtual function to a partition, or defines a CXL.mem window (R108) -/
  | bindVf (pkg vf part : Nat)
  | setCxl (pkg : Nat) (w : CxlWindow)
  /-- the host writes a register of a function's page through its BAR: 8-byte offset, value, halves written -/
  | barWrite (pkg part off : Nat) (v : DWord) (halves : Nat)
  /-- the host writes device memory through a CXL.mem window -/
  | cxlWrite (pkg addr : Nat) (bytes : List Byte)
  /-- a partition's supervisor makes a queue pair of a port (05_fabric.md R107) -/
  | makeQp (pkg die qp : Nat) (q : QPair)
  deriving DecidableEq, Repr

/-- The pod. -/
structure State where
  agenda : List Move
  subject : Subject
  /-- reference time in ticks, and the picoseconds of the current tick (00_scope.md R5) -/
  now : Nat
  frac : Nat
  freeCtr : Nat
  nextId : Nat
  mem : List Host.Cell
  hostMem : List Host.Cell
  bad : List Nat
  views : List View
  pkgs : Tab Pkg
  parts : Tab Part
  cores : Tab Core
  blocks : Tab Block
  quires : Tab Quire
  ops : Tab PendOp
  msgs : Tab Msg
  held : List Held
  sweeps : Tab Sweep
  engs : Tab EngOp
  gates : Tab GateOp
  preempts : Tab Preempt
  told : List HEvent
  /-- the units and sides whose accesses are let go late (08_ordering.md R175; log 111) -/
  lag : List (UnitId × Nat)
  /-- the device accesses of the step being taken that cannot be made now, each with the Translation Request it needs (log
  110); empty between steps -/
  barred : List (Option (Nat × AtsWant))
  deriving DecidableEq, Repr

/-- The reset plane map: bucket b to plane b mod 8 (05_fabric.md R98). -/
def resetMap : Tab Nat := (List.range 256).map fun b => (b, b % 8)

/-- The reset place table: physical quad 13 (n div 12) + n mod 12, with V (17_partitions.md R396). -/
def resetPlace : Tab Byte := (List.range 96).map fun n => (n, BitVec.ofNat 8 (128 + 13 * (n / 12) + n % 12))

def Pkg.reset : Pkg := { map := resetMap, shadowMap := resetMap, place := resetPlace }

/-- The pod after reset: no partition, no block, memory with nothing listed. -/
def State.reset : State where
  agenda := []
  subject := {}
  now := 0
  frac := 0
  freeCtr := 0
  nextId := 1
  mem := []
  hostMem := []
  bad := []
  views := []
  pkgs := Config.podIds.map fun p => (p, Pkg.reset)
  parts := []
  cores := []
  blocks := []
  quires := []
  ops := []
  msgs := []
  held := []
  sweeps := []
  engs := []
  gates := []
  preempts := []
  told := []
  lag := []
  barred := []

end Sys2Proof.Machine
end

