-- ==== Sys2Proof/Machine/Registers.lean ====
section
/-! DEFINITION. The registers of the device window that only H may reach, as 64-bit words: the layout block and the plane
map (17_partitions.md R388, R389, R396, R397, 05_fabric.md R98). -/

namespace Sys2Proof.Machine

/-- Offset of the device register window in a package (03_memory.md R55). -/
def winBase : Nat := 0x0F0000000000

/-- A write of the halves that mask names (1 low, 2 high, 3 both). -/
def mergeHalf (old v : DWord) (mask : Nat) : DWord :=
  (if bitAt mask 1 then v.extractLsb' 32 32 else old.extractLsb' 32 32) ++
    (if bitAt mask 0 then v.extractLsb' 0 32 else old.extractLsb' 0 32)

/-! ## Layout entries (R389) -/

/-- The word at offset o of an entry. -/
def LayoutEnt.word (L : LayoutEnt) (o : Nat) : DWord :=
  match o with
  | 0x00 => L.quads.extractLsb' 0 64
  | 0x08 => (L.quads.extractLsb' 64 32).setWidth 64
  | 0x10 => L.banks.extractLsb' 0 64
  | 0x18 => L.banks.extractLsb' 64 64
  | 0x20 => L.groups.extractLsb' 0 64
  | 0x28 => L.groups.extractLsb' 64 64
  | 0x30 => BitVec.ofNat 64 (L.copyEng.toNat + L.collEng.toNat <<< 32 + L.eth.toNat <<< 40 + L.podPart.toNat <<< 48 +
      (if L.valid then 2 ^ 63 else 0))
  | 0x38 => L.hbmBase
  | 0x40 => L.s2Table
  | 0x48 => L.policy ++ L.s2Limit
  | 0x50 => L.paging
  | 0x58 => L.grace ++ L.slice
  | 0x60 => L.kill.setWidth 64
  | _ => 0

/-- The entry after a write of the whole word at offset o. A reserved bit stays 0 (00_scope.md R7). -/
def LayoutEnt.setWord (L : LayoutEnt) (o : Nat) (v : DWord) : LayoutEnt :=
  match o with
  | 0x00 => { L with quads := L.quads.extractLsb' 64 32 ++ v }
  | 0x08 => { L with quads := v.extractLsb' 0 32 ++ L.quads.extractLsb' 0 64 }
  | 0x10 => { L with banks := L.banks.extractLsb' 64 64 ++ v }
  | 0x18 => { L with banks := v ++ L.banks.extractLsb' 0 64 }
  | 0x20 => { L with groups := L.groups.extractLsb' 64 64 ++ v }
  | 0x28 => { L with groups := v ++ L.groups.extractLsb' 0 64 }
  | 0x30 =>
    { L with
      copyEng := v.extractLsb' 0 32, collEng := v.extractLsb' 32 8, eth := v.extractLsb' 40 8
      podPart := v.extractLsb' 48 14, valid := v.getLsbD 63 }
  | 0x38 => { L with hbmBase := v }
  | 0x40 => { L with s2Table := v }
  | 0x48 => { L with s2Limit := v.extractLsb' 0 32, policy := v.extractLsb' 32 32 &&& 0xF1#32 }
  | 0x50 => { L with paging := v }
  | 0x58 => { L with slice := v.extractLsb' 0 32, grace := v.extractLsb' 32 32 }
  | 0x60 => { L with kill := v.extractLsb' 0 32 }
  | _ => L

/-! ## Reading (R388, R98) -/

def podmaskWord (m : BitVec 320) (i : Nat) : DWord := m.extractLsb' (64 * i) 64

/-- Eight place entries from n on. -/
def placeWordAt (p : Pkg) (n : Nat) : DWord :=
  (List.range 8).foldl (fun v i => if n + i < 96 then v ||| ((Tab.get 0 p.place (n + i)).setWidth 64 <<< (8 * i)) else v) 0

def layoutRead (p : Pkg) (o : Nat) : DWord :=
  if o < 0x1000 then (Tab.get {} p.shadow (o / 0x80)).word (o % 0x80)
  else if o < 0x2000 then (Tab.get {} p.layout ((o - 0x1000) / 0x80)).word (o % 0x80)
  else if 0x3000 ≤ o && o < 0x3060 then placeWordAt p (o - 0x3000)
  else if 0x2050 ≤ o && o < 0x2078 then podmaskWord p.podmask ((o - 0x2050) / 8)
  else match o with
    | 0x2000 => p.version.setWidth 64
    | 0x2008 => if p.committing then 1 else 0
    | 0x2010 => p.err.setWidth 64
    | 0x2018 => p.devstat
    | 0x2020 => p.frgpa
    | 0x2028 => p.frgo
    | 0x2030 => BitVec.ofNat 64 p.releases.length
    | 0x2038 => p.hshadow
    | 0x2040 => p.hsetbase
    | 0x2048 => p.s2resp
    | _ => 0

/-- Sixteen 4-bit entries of a plane map from bucket b on. -/
def planeWord (t : Tab Nat) (b : Nat) : DWord :=
  BitVec.ofNat 64 ((List.range 16).foldl (fun v j => v + (Tab.get 0 t (b + j) % 8) <<< (4 * j)) 0)

def planeRead (p : Pkg) (o : Nat) : DWord :=
  if o < 0x80 then planeWord p.map (2 * o)
  else if o < 0x100 then planeWord p.shadowMap (2 * (o - 0x80))
  else match o with
    | 0x100 => p.ver.setWidth 64
    | 0x110 => BitVec.ofNat 64 (p.live.toNat + p.frozen.toNat <<< 8 + (if p.quiesceOn then 65536 else 0))
    | _ => 0

/-- The word at an 8-byte offset of the window that only H may reach. -/
def hRead (p : Pkg) (off : Nat) : DWord :=
  if winBase + 0x100000 ≤ off && off < winBase + 0x104000 then layoutRead p (off - (winBase + 0x100000))
  else if winBase + 0x200000 ≤ off && off < winBase + 0x201000 then planeRead p (off - (winBase + 0x200000))
  else 0

end Sys2Proof.Machine
end

