-- ==== Sys2Proof/Machine/Memory.lean ====
section
/-! DEFINITION. Memory as bytes, the second stage, the home L2, and the register page (03_memory.md, 04_translation.md R77,
07_local_memory.md R146 to R149). -/

namespace Sys2Proof.Machine

/-! ## Bytes in canonical form -/

/-- What a byte that nothing has written reads as (log 4, DESIGN CHOICE). -/
def Memory.unlisted : Byte := 0

def Memory.read : List Host.Cell → Nat → Byte
  | [], _ => Memory.unlisted
  | (k, b) :: t, a => if k = a then b else Memory.read t a

/-- Writes one byte; the value of an unlisted byte removes the entry. -/
def Memory.write : List Host.Cell → Nat → Byte → List Host.Cell
  | [], a, b => if b = Memory.unlisted then [] else [(a, b)]
  | (k, v) :: t, a, b =>
    if a < k then (if b = Memory.unlisted then (k, v) :: t else (a, b) :: (k, v) :: t)
    else if a = k then (if b = Memory.unlisted then t else (a, b) :: t)
    else (k, v) :: Memory.write t a b

/-- Addresses strictly rise and no entry equals what an unlisted address reads as. -/
def Memory.wf : List Host.Cell → Bool
  | [] => true
  | [c] => c.2 != Memory.unlisted
  | c :: d :: t => c.2 != Memory.unlisted && decide (c.1 < d.1) && Memory.wf (d :: t)

def Memory.readBytes (m : List Host.Cell) (a : Nat) : Nat → List Byte
  | 0 => []
  | n + 1 => Memory.read m a :: Memory.readBytes m (a + 1) n

def Memory.writeBytes (m : List Host.Cell) (a : Nat) : List Byte → List Host.Cell
  | [] => m
  | b :: t => Memory.writeBytes (Memory.write m a b) (a + 1) t

/-- Removes every entry of n bytes from a: those bytes read as the unlisted value, zero. -/
def Memory.zeroRange (m : List Host.Cell) (a n : Nat) : List Host.Cell :=
  m.filter fun c => c.1 < a || a + n ≤ c.1

/-! ## Parts of the state -/

def bitList (n v : Nat) : List Nat := (List.range n).filter (bitAt v)

def State.pkgOf (s : State) (p : Nat) : Pkg := Tab.get {} s.pkgs p
def State.coreOf (s : State) (g : Nat) : Core := Tab.get {} s.cores g
def State.partOf (s : State) (n : Nat) : Part := Tab.get {} s.parts n
def State.updPkg (s : State) (p : Nat) (f : Pkg → Pkg) : State := { s with pkgs := Tab.modify s.pkgs p f }
def State.updCore (s : State) (g : Nat) (f : Core → Core) : State :=
  { s with cores := Tab.set s.cores g (f (s.coreOf g)) }
def State.updPart (s : State) (n : Nat) (f : Part → Part) : State :=
  { s with parts := Tab.set s.parts n (f (s.partOf n)) }
def State.updBlock (s : State) (b : Nat) (f : Block → Block) : State :=
  { s with blocks := Tab.modify s.blocks b f }
def State.updQuire (s : State) (k : Nat) (f : Quire → Quire) : State :=
  { s with quires := Tab.modify s.quires k f }
def State.tell (s : State) (e : HEvent) : State := { s with told := s.told ++ [e] }

/-- Counts on a partition's register page of a package (17_partitions.md R393). -/
def State.updCounts (s : State) (pkg part : Nat) (f : PageCounts → PageCounts) : State :=
  s.updPkg pkg fun p => { p with counts := Tab.set p.counts part (f (Tab.get {} p.counts part)) }

/-- The key of quire q of block b. -/
def quireKey (b q : Nat) : Nat := b * 16 + q

/-- Cores are numbered over the pod: 384 to a package (R11). -/
def coreGid (pkg n : Nat) : Nat := pkg * 384 + n
def dieOfCore (g : Nat) : Nat := g % 384 / 48

/-- A MAT instruction that has not retired owes a tile: it is empty (13_matrix.md R293). -/
def Core.tileOwed (c : Core) (p : Nat) : Bool := c.matQ.any fun m => m.tile.any (·.1 == p) || m.used.any (·.1 == p)

/-- The core cycles that the die of core g has run: periods of its own arithmetic clock (00_scope.md R5). -/
def coreCycles (s : State) (g : Nat) : Nat := Tab.get 0 (s.pkgOf (g / 384)).cyc (dieOfCore g) / 1000000

/-- The live layout entry of a partition on a package (17_partitions.md R389). -/
def layoutOf (s : State) (pkg part : Nat) : Option LayoutEnt :=
  ((s.pkgOf pkg).layout.find? fun e => e.2.valid && e.2.podPart.toNat == part).map (·.2)

/-- ENABLED of a package (R407); bit 0 is always enabled. -/
def featureOn (s : State) (pkg n : Nat) : Bool := n == 0 || bitAt (s.pkgOf pkg).enabled.toNat n

/-- A virtual function is bound to the partition (05_fabric.md R108). -/
def Pkg.bound (p : Pkg) (part : Nat) : Bool := p.vfs.any fun v => v.2 == part

/-! ## Memory sets and device-physical addresses (R55 to R57) -/

/-- The memory sets of a package: base and ascending groups. -/
def memSets (p : Pkg) : List (Nat × List Nat) :=
  let ents := p.layout.filter fun e => e.2.valid && e.2.groups != 0
  let owned := ents.foldl (fun a e => a ||| e.2.groups.toNat) 0
  ents.map (fun e => (e.2.hbmBase.toNat, bitList 128 e.2.groups.toNat)) ++
    [(p.hsetbase.toNat, (List.range 128).filter fun g => !bitAt owned g)]

/-- The group and byte within it of an HBM offset. -/
def hbmGroup (p : Pkg) (off : Nat) : Option (Nat × Nat) :=
  match (memSets p).find? (fun S => S.1 ≤ off && off < S.1 + S.2.length * 2 ^ 33) with
  | some S =>
    let g := (off - S.1) >>> 12
    some (S.2.getD (g % S.2.length) 0, ((g / S.2.length) <<< 12) + off % 4096)
  | none => none

/-- Channel and byte of a second-tier offset (R57). -/
def tier2Channel (off : Nat) : Nat × Nat :=
  let g := (off - 2 ^ 40) >>> 12
  (g % 32, ((g / 32) <<< 12) + off % 4096)

/-- Whether a package's offset exists: HBM that a set covers, the second tier, or the register window. -/
def offsetExists (s : State) (home off : Nat) : Bool :=
  if off < 2 ^ 40 then
    match Tab.find s.pkgs home with
    | some p => (hbmGroup p off).isSome
    | none => true
  else off < 2 ^ 41 || winBase ≤ off

/-- Whether a device-physical address may leave package pkg (R55). -/
def dpaExists (s : State) (pkg d : Nat) : Bool :=
  let home := d >>> 44
  (home == pkg || (home < 320 && (s.pkgOf pkg).podmask.getLsbD home)) && offsetExists s home (d % 2 ^ 44)

def isWindow (d : Nat) : Bool := winBase ≤ d % 2 ^ 44

/-- Memory kind of a device address: 0 HBM, 1 second tier (R363). -/
def memKind (d : Nat) : Nat := if d % 2 ^ 44 < 2 ^ 40 then 0 else 1

/-- A frame that its home package is scrubbing reads as unmapped (R395). -/
def scrubPending (s : State) (d : Nat) : Bool :=
  (s.pkgOf (d >>> 44)).releases.any fun r => r.1 == d >>> 25

/-! ## The second stage (R77) -/

/-- The target of a guest-physical address; none for an entry that is invalid, refusing, or out of the limit. -/
def secondStage (s : State) (pkg part gpa : Nat) (write : Bool) : Option Target :=
  match layoutOf s pkg part with
  | none => none
  | some L =>
    let g := gpa >>> 25
    if L.s2Limit.toNat ≤ g then none
    else
      let e := ofLe (Memory.readBytes s.mem (L.s2Table.toNat + 8 * g) 8)
      if !bitAt e 0 || bits e 3 22 != 0 || bits e 56 8 != 0 || (write && !bitAt e 1) then none
      else
        let t := (bits e 25 31 <<< 25) + gpa % 2 ^ 25
        if bitAt e 2 then some (.host t)
        else if bits e 53 3 != 0 || !dpaExists s pkg t || scrubPending s t then none
        else some (.dev t)

/-! ## The home L2 (R146 to R149) -/

def L2Line.is (l : L2Line) (part line : Nat) : Bool := l.part == part && l.gpaLine == line

def l2Find (s : State) (pkg part line : Nat) : Option L2Line :=
  (s.pkgOf pkg).l2.find? (·.is part line)

/-- R147: home bank and (log 11, DESIGN CHOICE) set of a line. -/
def l2Place (L : LayoutEnt) (line : Nat) : Nat × Nat :=
  let own := bitList 128 L.banks.toNat
  let h := line ^^^ (line >>> 13) ^^^ (line >>> 29)
  (own.getD (h % own.length) 0, h / max 1 own.length % 4096)

/-- R148: a line already in the home bank is served there; otherwise the second stage decides. -/
def locate (s : State) (pkg part gpa : Nat) (write : Bool) : Option Target :=
  match l2Find s pkg part (gpa / 64) with
  | some l => some (.dev (l.dpaLine * 64 + gpa % 64))
  | none => secondStage s pkg part gpa write

def pinned (l : L2Line) : Bool := l.bad0 || l.bad1

/-- The line's home bank is a bank that H has declared lost (17_partitions.md R398). -/
def bankLost (s : State) (pkg part line : Nat) : Bool :=
  !(s.pkgOf pkg).lostBanks.isEmpty && match layoutOf s pkg part with
    | some L => (s.pkgOf pkg).lostBanks.contains (l2Place L line).1
    | none => false

/-- The byte's channel group is one that H has declared lost. -/
def groupLost (s : State) (d : Nat) : Bool :=
  let p := s.pkgOf (d >>> 44)
  !p.lostGroups.isEmpty && d % 2 ^ 44 < 2 ^ 40 && match hbmGroup p (d % 2 ^ 44) with
    | some g => p.lostGroups.contains g.1
    | none => false

/-- Allocates a line of local memory; a set of 16 pinned lines allocates nothing (R149). -/
def l2Fill (s : State) (pkg part line dline : Nat) : State :=
  if (l2Find s pkg part line).isSome || isWindow (dline * 64) ||
     s.bad.contains (dline * 2) || s.bad.contains (dline * 2 + 1) || bankLost s pkg part line || groupLost s (dline * 64) then s
  else
    let new : L2Line := { part := part, gpaLine := line, dpaLine := dline, dirty := false }
    let p := s.pkgOf pkg
    let place := fun l : L2Line =>
      match layoutOf s pkg l.part with
      | some L => l2Place L l.gpaLine
      | none => (0, 0)
    let same := p.l2.filter fun l => place l == place new
    if same.length < 16 then s.updPkg pkg fun p => { p with l2 := p.l2 ++ [new] }
    else
      match same.find? (!pinned ·) with
      | some v => s.updPkg pkg fun p => { p with l2 := (p.l2.filter (· != v)) ++ [new] }
      | none => s.tell (.l2SetPinned pkg)

def l2Update (s : State) (pkg part line : Nat) (f : L2Line → L2Line) : State :=
  s.updPkg pkg fun p => { p with l2 := p.l2.map fun l => if l.is part line then f l else l }

/-- Whether the 32-byte unit u of a line is uncorrectable where it is held now, and the memory kind that says so. -/
def unitFault (s : State) (pkg part line dline u : Nat) : Option Nat :=
  if bankLost s pkg part line then some 2
  else match l2Find s pkg part line with
  | some l => if (if u == 0 then l.bad0 else l.bad1) then some 2 else none
  | none => if s.bad.contains (dline * 2 + u) || groupLost s (dline * 64) then some (memKind (dline * 64)) else none

def clearUnit (s : State) (pkg part line dline u : Nat) : State :=
  { l2Update s pkg part line (fun l => if u == 0 then { l with bad0 := false } else { l with bad1 := false }) with
    bad := s.bad.filter (· != dline * 2 + u) }

/-! ## Lane operations at a home (R61, R62, R161) -/

def LaneOp.len (o : LaneOp) : Nat :=
  match o.act with
  | .rd n => n
  | .wr bs => bs.length
  | .amo a => if a.w64 then 8 else 4

def LaneOp.writes (o : LaneOp) : Bool :=
  match o.act with
  | .rd _ => false
  | _ => true

/-- The units of the line that the operation touches. -/
def LaneOp.units (o : LaneOp) : List Nat := (List.range 2).filter fun u => o.off < 32 * (u + 1) && 32 * u < o.off + o.len

/-- The value an atomic leaves, from the old one (R168, R169). -/
def atomNew (a : AtomOp) (old : Nat) : Nat :=
  let w := if a.w64 then 64 else 32
  match a.kind with
  | .atom => atomInt a.op w old a.v.toNat
  | .acas => if old == a.cmp.toNat then a.v.toNat else old
  | .fatom => atomFp a.op (if a.w64 then fp64 else fp32) old a.v.toNat

/-- Whether the plain stores of a request write the whole of a 32-byte unit. The lanes of one request are performed as
one step (R161), and are taken together as the store of R62 (log 78). -/
def coversUnit (ops : List LaneOp) (u : Nat) : Bool :=
  (List.range 32).all fun i => ops.any fun o =>
    match o.act with
    | .wr bs => o.off ≤ 32 * u + i && 32 * u + i < o.off + bs.length
    | _ => false

/-- The stores that meet no uncorrectable unit but ones that all of them together rewrite whole. -/
def storesOk (bad : List Nat) (ops : List LaneOp) : List LaneOp :=
  ops.filter fun o => o.units.all fun u => !bad.contains u || coversUnit ops u

/-- The uncorrectable units of a line that the stores of a request rewrite whole (R62): a store that reaches another bad
unit in part is not performed, and rewrites none. -/
def curedUnits (bad : List Nat) (ops : List LaneOp) : List Nat :=
  let ok := storesOk bad (storesOk bad ops)
  bad.filter (coversUnit ok)

/-- The note of an uncorrectable unit, for an access at va. -/
def memNote (kind gpa : Nat) (va : Nat := 0) : Note :=
  { kind := .memerr, memkind := kind, lanes := 0, addr := BitVec.ofNat 64 gpa, load := BitVec.ofNat 64 va }

/-- Whether an atomic writes: a compare that fails stores nothing (R168). -/
def AtomOp.stores (a : AtomOp) (old : Nat) : Bool := a.kind != .acas || old == a.cmp.toNat

def Answer.drop (a : Answer) (o : LaneOp) : Answer := { a with unwritten := a.unwritten ++ [o.key] }

/-- A store at a home: the line's copy is dirty. -/
def homeStore (s : State) (pkg part line a : Nat) (bs : List Byte) : State :=
  l2Update { s with mem := Memory.writeBytes s.mem a bs } pkg part line fun l => { l with dirty := true }

/-- One lane's part of a request at the home. -/
def laneAtHome (pkg part line dline : Nat) (ctx : Word) (acc : State × Answer) (o : LaneOp) : State × Answer :=
  let s := acc.1
  let bad := o.units.filterMap fun u => (unitFault s pkg part line dline u).map fun k => (k, line * 64 + 32 * u)
  let a := dline * 64 + o.off
  let fail := fun (k g : Nat) => { acc.2 with errs := acc.2.errs ++ [(o.key, memNote k g o.va)] }
  match bad, o.act with
  | (k, g) :: _, .rd _ => (s, fail k g)
  | (_, g) :: _, .wr _ => (s.tell (.storeDropped ctx g), acc.2.drop o)
  | (k, g) :: _, .amo op => if op.ret then (s, (fail k g).drop o) else (s.tell (.storeDropped ctx g), acc.2.drop o)
  | [], .rd n => (s, { acc.2 with got := acc.2.got ++ [(o.key, o.old.getD (Memory.readBytes s.mem a n))] })
  | [], .wr bs => (homeStore s pkg part line a bs, acc.2)
  | [], .amo op =>
    let oldB := Memory.readBytes s.mem a o.len
    let ans := if op.ret then { acc.2 with got := acc.2.got ++ [(o.key, oldB)] } else acc.2
    if op.stores (ofLe oldB) then (homeStore s pkg part line a (leBytes o.len (atomNew op (ofLe oldB))), ans)
    else (s, ans.drop o)

/-- A line request performed in the L2 of its home package, as one step (R161). -/
def performDev (s : State) (home : Nat) (part line dline : Nat) (ctx : Word) (ops : List LaneOp) : State × Answer :=
  let s := l2Fill s home part line dline
  let bad := (List.range 2).filter fun u => (unitFault s home part line dline u).isSome
  let cured := if bankLost s home part line || groupLost s (dline * 64) then [] else curedUnits bad ops
  ops.foldl (laneAtHome home part line dline ctx) (cured.foldl (fun s u => clearUnit s home part line dline u) s, {})

/-- A request to host memory, by its completer (R109, R170). -/
def laneAtHost (ha : Nat) (acc : State × Answer) (o : LaneOp) : State × Answer :=
  let s := acc.1
  let a := ha + o.off
  match o.act with
  | .rd n => (s, { acc.2 with got := acc.2.got ++ [(o.key, o.old.getD (Memory.readBytes s.hostMem a n))] })
  | .wr bs => ({ s with hostMem := Memory.writeBytes s.hostMem a bs }, acc.2)
  | .amo op =>
    let oldB := Memory.readBytes s.hostMem a o.len
    let ans := if op.ret then { acc.2 with got := acc.2.got ++ [(o.key, oldB)] } else acc.2
    if op.stores (ofLe oldB) then
      ({ s with hostMem := Memory.writeBytes s.hostMem a (leBytes o.len (atomNew op (ofLe oldB))) }, ans)
    else (s, ans.drop o)

def performHost (s : State) (ha : Nat) (ops : List LaneOp) : State × Answer :=
  ops.foldl (laneAtHost ha) (s, {})

/-- The host address that a request carries (04_translation.md R85): the ATC's translated one when it holds the page and
grants the access, and otherwise the untranslated one. -/
def hostAddr (s : State) (pkg part ha : Nat) (write : Bool) : Nat :=
  match Tab.find (s.pkgOf pkg).funcs part with
  | some f =>
    (match f.atc.find? fun e => e.page == ha >>> 12 && (if write then e.w else e.r) with
     | some e => if f.atsOn then (e.dst <<< 12) + ha % 4096 else ha
     | none => ha)
  | none => ha

/-- Whether an access to a host address must first be translated: ATS is on, and the ATC has no entry of its page. -/
def atsMiss (s : State) (pkg part ha : Nat) : Bool :=
  match Tab.find (s.pkgOf pkg).funcs part with
  | some f => f.atsOn && !f.atc.any fun e => e.page == ha >>> 12
  | none => false

/-- A remote package whose requests complete as uncorrectable of kind REMOTE (R106). -/
def remoteLost (s : State) (pkg home : Nat) : Bool :=
  home != pkg && ((s.pkgOf pkg).left || (s.pkgOf pkg).fenced.contains home)

/-! ## The register page (R58, R393, R344, R439) -/

/-- A write of t to TAIL (R344); byH says that its writer is at level H. -/
def tailWrite (q : LaunchQ) (t : Word) (byH : Bool) : LaunchQ :=
  let d := (t - q.tail).toNat
  if d == 0 then q
  else if d + (q.tail - q.head).toNat ≤ q.size.toNat then
    { q with tail := t, levels := q.levels ++ [(t, byH)] }
  else { q with err := true }

def pageIndex (off : Nat) : Nat := (off - (winBase + 0x2000000)) / 0x2000000

def inPage (off : Nat) : Bool := winBase + 0x2000000 ≤ off && off < winBase + 0x2000000 + 32 * 0x2000000

/-- Registers that only H may reach: the layout block and the plane map, as far as their tables go. An offset past them
decodes to no register (R58; log 79). -/
def hOnly (off : Nat) : Bool :=
  (winBase + 0x100000 ≤ off && off < winBase + 0x102078) || (winBase + 0x103000 ≤ off && off < winBase + 0x103060) ||
    (winBase + 0x200000 ≤ off && off < winBase + 0x200118)

def pageRead (s : State) (pkg i o : Nat) : DWord :=
  match Tab.find (s.pkgOf pkg).layout i with
  | none => 0
  | some L =>
    if !L.valid then 0 else
    let n := L.podPart.toNat
    let P := s.partOf n
    if o == 0x000 then BitVec.ofNat 64 n
    else if o == 0x008 then (s.pkgOf pkg).version.setWidth 64
    else if o == 0x040 then P.priDoor
    else if o == 0x080 then P.ctxTab
    else if o == 0x088 then L.paging
    else if o == 0x100 then (Tab.get {} (s.pkgOf pkg).counts n).clamps
    else if o == 0x108 then (Tab.get {} (s.pkgOf pkg).counts n).latePri
    else if o == 0x110 then (Tab.get {} (s.pkgOf pkg).counts n).hostRef
    else if 0x200 ≤ o && o < 0x400 then
      let q := Tab.get {} P.queues ((o - 0x200) / 0x20)
      match (o - 0x200) % 0x20 with
      | 0x00 => q.base
      | 0x08 => q.ctx ++ q.size
      | 0x10 => q.tail ++ q.head
      | 0x18 => (if q.en then 1 else 0) + (if q.err then 2 else 0)
      | _ => 0
    else 0

inductive WinRes where
  | ok (s : State)
  | bad (k : NoteKind)

/-- A write to the register page at 8-byte offset o; v holds both halves, mask says which are written. CTXTAB,
BASE, SIZE and CTX are written at S only (R344, R393): another level's write changes nothing (DEDUCED, log 25:
R439 names R98 and R388 as the level rules whose breach is reported). -/
def pageWrite (s : State) (pkg i o : Nat) (v : DWord) (mask : Nat) (lvl : Level) (u : Option UnitId) : WinRes :=
  match Tab.find (s.pkgOf pkg).layout i with
  | none => .ok s
  | some L =>
    if !L.valid then .ok s else
    let n := L.podPart.toNat
    let P := s.partOf n
    if o == 0x040 then
      if mask != 3 || v &&& 0xFFF000000000FFFE#64 != 0 then .bad .align
      else
        let s := s.updPart n fun P => { P with priDoor := v }
        match u with
        | some w => if featureOn s pkg 12 then
            .ok (s.updPkg pkg fun p => { p with doorbells := p.doorbells ++ [(n, w, v)] }) else .ok s
        | none => .ok s
    else if o == 0x080 then
      if lvl == .s then .ok (s.updPart n fun P => { P with ctxTab := mergeHalf P.ctxTab v mask })
      else .ok s
    else if 0x200 ≤ o && o < 0x400 then
      let k := (o - 0x200) / 0x20
      let q := Tab.get {} P.queues k
      let put := fun q' : LaunchQ => WinRes.ok (s.updPart n fun P => { P with queues := Tab.set P.queues k q' })
      match (o - 0x200) % 0x20 with
      | 0x00 => if lvl == .s then put { q with base := mergeHalf q.base v mask } else .ok s
      | 0x08 =>
        if lvl == .s then
          put { q with size := if bitAt mask 0 then v.extractLsb' 0 32 else q.size
                       ctx := if bitAt mask 1 then v.extractLsb' 32 32 else q.ctx }
        else .ok s
      | 0x10 => if bitAt mask 1 then put (tailWrite q (v.extractLsb' 32 32) (lvl == .h)) else .ok s
      | 0x18 =>
        if bitAt mask 0 then put { q with en := v.getLsbD 0, err := q.err && !v.getLsbD 1 } else .ok s
      | _ => .ok s
    else .ok s

/-- Why an access of n bytes to the register window is refused. Its width and place come first, and every atomic with
them, and then the level (R58, R439; log 80). -/
def windowBreach (off n : Nat) (amo : Bool) (lvl : Level) : Option NoteKind :=
  if amo || !(n == 4 || n == 8) || off % n != 0 then some .align
  else if hOnly off && lvl != .h then some .protection
  else none

/-- A read of 4 or 8 bytes of the window, of a half where it is 4. -/
def windowRead (s : State) (home off n : Nat) : List Byte :=
  let base := off / 8 * 8
  let v := if inPage off then pageRead s home (pageIndex off) ((base - (winBase + 0x2000000)) % 0x2000000)
    else if hOnly off then hRead (s.pkgOf home) base else 0
  leBytes n (v.toNat >>> (8 * (off - base)))

/-- A write of 4 or 8 bytes of the window. -/
def windowWrite (s : State) (home off : Nat) (bs : List Byte) (lvl : Level) (u : Option UnitId) : WinRes :=
  let base := off / 8 * 8
  let v := BitVec.ofNat 64 (ofLe bs <<< (8 * (off - base)))
  let mask := if bs.length == 8 then 3 else if off % 8 == 0 then 1 else 2
  if hOnly off then .ok (s.updPkg home fun p => { p with hwrites := p.hwrites ++ [(base, mask, v)] })
  else if inPage off then pageWrite s home (pageIndex off) ((base - (winBase + 0x2000000)) % 0x2000000) v mask lvl u
  else .ok s

/-- One lane's access to the register window (R58, R439). -/
def laneAtWindow (home line dline : Nat) (lvl : Level) (u : Option UnitId) (acc : State × Answer) (o : LaneOp) :
    State × Answer :=
  let s := acc.1
  let off := (dline * 64 + o.off) % 2 ^ 44
  let fail := fun k : NoteKind =>
    let note : Note := { kind := k, memkind := 0, lanes := 0, addr := BitVec.ofNat 64 (line * 64 + o.off) }
    (s, ({ acc.2 with errs := acc.2.errs ++ [(o.key, note)] } : Answer).drop o)
  match windowBreach off o.len (match o.act with
      | .amo _ => true
      | _ => false) lvl, o.act with
  | some k, _ => fail k
  | none, .amo _ => fail .align
  | none, .rd n => (s, { acc.2 with got := acc.2.got ++ [(o.key, windowRead s home off n)] })
  | none, .wr bs =>
    match windowWrite s home off bs lvl u with
    | .ok s' => (s', acc.2)
    | .bad k => fail k

/-- A line request performed at its home package: memory through the L2, or the register window. -/
def performAt (s : State) (home : Nat) (part line dline : Nat) (ctx : Word) (lvl : Level) (u : Option UnitId)
    (ops : List LaneOp) : State × Answer :=
  if isWindow (dline * 64) then ops.foldl (laneAtWindow home line dline lvl u) (s, {})
  else performDev s home part line dline ctx ops

end Sys2Proof.Machine
end

