-- ==== Sys2Proof/Machine/Journey.lean ====
section
/-! DEFINITION. The journey of an access: the plane and port that take it, its place among the requests of its pair, and
the accesses that the device makes itself, by guest-physical address (05_fabric.md R95 to R102, 03_memory.md R61, R62,
04_translation.md R85). -/

namespace Sys2Proof.Machine

/-! ## Planes, ports and windows (R96 to R102) -/

/-- CRC-32C of one byte's bits (R96). -/
def crcStep (c : Nat) (b : Nat) : Nat :=
  (List.range 8).foldl (fun c _ => if c % 2 == 1 then (c / 2) ^^^ 0x82F63B78 else c / 2) (c ^^^ b)

/-- The bucket of a device-physical address (R96). -/
def bucketOf (dpa : Nat) : Nat :=
  let k := (dpa % 2 ^ 56) >>> 6
  (((leBytes 7 k).foldl (fun c b => crcStep c b.toNat) 0xFFFFFFFF) ^^^ 0xFFFFFFFF) % 256

/-- Whether injection for a bucket is held at the package (R98). -/
def bucketFrozen (p : Pkg) (bucket : Nat) : Bool := p.frozenSet.any fun e => e.2.contains bucket

/-- A headgate operation that travels from a package holds an entry of its port's retry buffer. -/
def GateOp.buffered (g : GateOp) : Bool :=
  g.stamp != 0 && (match g.state with
    | .queued => false
    | .retryWait _ => false
    | _ => true)

def gatePkg (s : State) (g : GateOp) : Nat :=
  match g.unit with
  | .front b => ((Tab.find s.blocks b).map (·.pkg)).getD 0
  | .slot b _ _ => ((Tab.find s.blocks b).map (·.pkg)).getD 0

/-- Requests of a port that hold a retry-buffer entry. -/
def portLoad (s : State) (pkg plane : Nat) : Nat :=
  (s.msgs.filter fun m => m.2.req.pkg == pkg && m.2.origin == plane && (match m.2.state with
    | MsgState.flying => true
    | MsgState.heldHome => true
    | MsgState.answered _ => true
    | MsgState.retryBack _ => true
    | _ => false)).length +
  (s.gates.filter fun g => g.2.buffered && g.2.origin == plane && gatePkg s g.2 == pkg).length

/-- The plane of a device address, as a package maps it (R96). -/
def planeOf (s : State) (pkg d : Nat) : Nat := Tab.get 0 (s.pkgOf pkg).map (bucketOf d)

/-- The port of an address takes a new request: its bucket is not frozen and its retry buffer has room (R98, R100). -/
def portOpen (s : State) (pkg d : Nat) : Bool :=
  !bucketFrozen (s.pkgOf pkg) (bucketOf d) && decide (portLoad s pkg (planeOf s pkg d) < 2048)

/-- The next SEQ of a port is taken. -/
def takeSeq (s : State) (pkg plane : Nat) : Nat × State :=
  let q := Tab.get 0 (s.pkgOf pkg).seqs plane
  (q, s.updPkg pkg fun p => { p with seqs := Tab.set p.seqs plane ((q + 1) % 16777216) })

/-- Records the result of a request in its window at the home, which keeps the last 2,048 (R102). -/
def windowPut (p : Pkg) (src origin seq : Nat) (a : Answer) : Pkg :=
  let is := fun w : Window => w.src == src && w.origin == origin
  if p.windows.any is then
    { p with windows := p.windows.map fun w => if is w then { w with results := ((seq, a) :: w.results).take 2048 } else w }
  else { p with windows := p.windows ++ [{ src := src, origin := origin, results := [(seq, a)] }] }

/-- A request or a headgate operation of the package to the same home travels on a plane. -/
def pairFlies (s : State) (pkg home plane : Nat) : Bool :=
  (s.msgs.any fun m => m.2.req.pkg == pkg && m.2.plane == plane && m.2.state == MsgState.flying && (match m.2.tgt with
    | .dev d => d >>> 44 == home
    | .host _ => false)) ||
  s.gates.any fun g => g.2.stamp != 0 && g.2.state == GateState.sent && g.2.plane == plane && g.2.home >>> 44 == home && gatePkg s g.2 == pkg

/-- An access that is made in one step (log 15) can make its journey over the fabric now: its port takes it, nothing of
the pair travels on its plane, and the home's map agrees (R97 to R100). -/
def tripReady (s : State) (pkg d : Nat) : Bool :=
  let home := d >>> 44
  let plane := planeOf s pkg d
  home == pkg || (portOpen s pkg d && !pairFlies s pkg home plane && planeOf s home d == plane)

/-- Such a journey: a SEQ of the port, and a result in the home's window. -/
def trip (s : State) (pkg d : Nat) (a : Answer) : State :=
  if d >>> 44 == pkg then s
  else
    let plane := planeOf s pkg d
    let q := takeSeq s pkg plane
    q.2.updPkg (d >>> 44) fun p => windowPut p pkg plane q.1 a

/-- The home bank of the line is being scrubbed on the package (R156). -/
def bankScrubbed (s : State) (pkg part line : Nat) : Bool :=
  match layoutOf s pkg part with
  | some L => (s.pkgOf pkg).scrubs.any fun w => w == .bank (l2Place L line).1
  | none => false

/-- Whether a store's place is a page-request doorbell whose function has no free request slot: the store stalls
(04_translation.md R87). -/
def doorbellFull (s : State) (d : Nat) : Bool :=
  let off := d % 2 ^ 44
  let home := d >>> 44
  isWindow d && inPage off && (off - (winBase + 0x2000000)) % 0x2000000 / 8 == 8 &&
    match Tab.find (s.pkgOf home).layout (pageIndex off) with
    | some L =>
      let n := L.podPart.toNat
      decide (32 ≤ (Tab.get {} (s.pkgOf home).funcs n).pri.length + ((s.pkgOf home).doorbells.filter (·.1 == n)).length)
    | none => false

/-- Whether an access to a line that the device address d homes cannot be made now: the fabric does not take it, its bank
is being scrubbed, or the doorbell that it stores to is full (05_fabric.md R97 to R100, 07_local_memory.md R156, R87). -/
def lineBarred (s : State) (pkg part gpa d : Nat) (write : Bool) : Bool :=
  !tripReady s pkg d || bankScrubbed s (d >>> 44) part (gpa / 64) || (write && doorbellFull s d)

/-! ## Accesses of the device itself, by guest-physical address -/

/-- How a device access ends. -/
inductive Dev (α : Type) where
  | ok (a : α)
  /-- the second stage fails at this address -/
  | s2 (gpa : Nat)
  /-- an uncorrectable unit, or a target that does not answer: its address and memory kind -/
  | mem (gpa kind : Nat)
  /-- the register window refuses it -/
  | win (gpa : Nat) (k : NoteKind)
  /-- it cannot be made now; want: its guest-physical address and the host address to be translated first (R85) -/
  | wait (want : Option (Nat × Nat))

/-- Splits n bytes from a at line bounds, with fuel: (address, length). -/
def pieces : Nat → Nat → Nat → List (Nat × Nat)
  | 0, _, _ => []
  | f + 1, a, n => if n == 0 then [] else
    let k := min n (64 - a % 64)
    (a, k) :: pieces f (a + k) (n - k)

/-- The first uncorrectable 32-byte unit that n bytes of a line meet: its address and kind. -/
def firstFault (s : State) (part gpa d n : Nat) : Option (Nat × Nat) :=
  (((List.range 2).filter fun u => gpa % 64 < 32 * (u + 1) && 32 * u < gpa % 64 + n).filterMap fun u =>
    (unitFault s (d >>> 44) part (gpa / 64) (d / 64) u).map fun k => (gpa / 64 * 64 + 32 * u, k)).head?

/-- Reads n bytes within a line at a guest-physical address, at their place. -/
def lineRead (s : State) (pkg part gpa n : Nat) (lvl : Level) : Dev (List Byte) :=
  match locate s pkg part gpa false with
  | none => .s2 gpa
  | some (.host ha) =>
    if !(s.pkgOf pkg).linkUp then .mem gpa 5
    else if atsMiss s pkg part ha then .wait (some (gpa, ha))
    else .ok (Memory.readBytes s.hostMem (hostAddr s pkg part ha false) n)
  | some (.dev d) =>
    if remoteLost s pkg (d >>> 44) then .mem gpa 4
    else if lineBarred s pkg part gpa d false then .wait none
    else if isWindow d then
      match windowBreach (d % 2 ^ 44) n false lvl with
      | some k => .win gpa k
      | none => .ok (windowRead s (d >>> 44) (d % 2 ^ 44) n)
    else match firstFault s part gpa d n with
      | some f => .mem f.1 f.2
      | none => .ok (Memory.readBytes s.mem d n)

/-- The journey of a line's read that has been made. -/
def lineTrip (s : State) (pkg part gpa : Nat) (got : List Byte) : State :=
  match locate s pkg part gpa false with
  | some (.dev d) => if remoteLost s pkg (d >>> 44) then s else trip s pkg d { got := [(0, got)] }
  | _ => s

/-- The journeys of a read of bytes, line by line. -/
def readTrips (s : State) (pkg part gpa : Nat) (got : List Byte) : State :=
  (pieces (got.length / 64 + 2) gpa got.length).foldl (fun s p => lineTrip s pkg part p.1 ((got.drop (p.1 - gpa)).take p.2)) s

/-- Reads n bytes at a guest-physical address, line by line. -/
def gpaRead (s : State) (pkg part gpa n : Nat) (lvl : Level := .s) : Dev (List Byte) :=
  (pieces (n / 64 + 2) gpa n).foldl (fun r p =>
    match r with
    | .ok acc =>
      (match lineRead s pkg part p.1 p.2 lvl with
       | .ok l => .ok (acc ++ l)
       | e => e)
    | e => e) (.ok [])

/-- Writes bytes within a line at a guest-physical address; the second result says that the store was dropped (R62). -/
def linePut (s : State) (pkg part gpa : Nat) (bs : List Byte) (ctx : Word) (lvl : Level) (u : Option UnitId) :
    Dev (State × Bool) :=
  match locate s pkg part gpa true with
  | none => .s2 gpa
  | some (.host ha) =>
    if !(s.pkgOf pkg).linkUp then .mem gpa 5
    else if atsMiss s pkg part ha then .wait (some (gpa, ha))
    else .ok ({ s with hostMem := Memory.writeBytes s.hostMem (hostAddr s pkg part ha true) bs }, false)
  | some (.dev d) =>
    if remoteLost s pkg (d >>> 44) then .mem gpa 4
    else if lineBarred s pkg part gpa d true then .wait none
    else
      let r := performAt s (d >>> 44) part (gpa / 64) (d / 64) ctx lvl u [{ key := 0, off := gpa % 64, act := .wr bs }]
      match r.2.errs with
      | e :: _ => .win gpa e.2.kind
      | [] => .ok (trip r.1 pkg d {}, !r.2.unwritten.isEmpty)

/-- Writes bytes at a guest-physical address; nothing is written past a failure. The second result says that a store was
dropped. -/
def gpaStore (s : State) (pkg part gpa : Nat) (bs : List Byte) (ctx : Word) (lvl : Level := .s) (u : Option UnitId := none) :
    Dev (State × Bool) :=
  (pieces (bs.length / 64 + 2) gpa bs.length).foldl (fun r p =>
    match r with
    | .ok x =>
      (match linePut x.1 pkg part p.1 ((bs.drop (p.1 - gpa)).take p.2) ctx lvl u with
       | .ok y => .ok (y.1, x.2 || y.2)
       | e => e)
    | e => e) (.ok (s, false))

/-- A store that nothing is told of when R62 drops it, but H. -/
def gpaPut (s : State) (pkg part gpa : Nat) (bs : List Byte) (ctx : Word) (lvl : Level := .s) (u : Option UnitId := none) :
    Dev State :=
  match gpaStore s pkg part gpa bs ctx lvl u with
  | .ok x => .ok x.1
  | .s2 g => .s2 g
  | .mem g k => .mem g k
  | .win g k => .win g k
  | .wait w => .wait w

/-! ## Stores that views may not see (08_ordering.md R184) -/

/-- A byte stored at va reaches a view of its line: through the view's own page it takes the byte's place. none: it is
stored through no virtual page. -/
def View.store (v : View) (w : ThreadId) (page : Option (Word × Nat)) (off : Nat) (b : Byte) : View :=
  let va := match page with
    | some p => p.2
    | none => 0
  if page == some (v.ctx, va) && v.vpage == va >>> 16 then
    { v with bytes := v.bytes.set off b, newer := v.newer.filter (·.off != off) }
  else { v with newer := v.newer ++ [{ off := off, val := b, writer := w, va := va }] }

/-- Bytes stored by a thread at offset off of a line, in a context at a virtual address, or through no page. What they
replace is no completion word any more. -/
def noteStore (s : State) (part line : Nat) (w : ThreadId) (page : Option (Word × Nat)) (off : Nat) (bs : List Byte) : State :=
  if s.views.isEmpty then s
  else { s with views := s.views.map fun v =>
    let g := line * 64 + off
    let v := if v.part == part then { v with cw := v.cw.filter fun c => !(decide (g < c.1 + 8) && decide (c.1 < g + bs.length)) } else v
    if v.part == part && v.line == line then
      bs.zipIdx.foldl (fun v b => v.store w (page.map fun p => (p.1, p.2 + b.2)) (off + b.2) b.1) v
    else v }

/-- Bytes stored at guest-physical lines one after another. -/
def noteStored (s : State) (part gpa : Nat) (w : ThreadId) (page : Option (Word × Nat)) (bs : List Byte) : State :=
  if s.views.isEmpty then s
  else (pieces (bs.length / 64 + 2) gpa bs.length).foldl (fun s p =>
    noteStore s part (p.1 / 64) w (page.map fun x => (x.1, x.2 + (p.1 - gpa))) (p.1 % 64) ((bs.drop (p.1 - gpa)).take p.2)) s

/-- The bytes that a thread's load of n bytes at va and gpa returns, within a line, when memory holds bs there. -/
def overlay (s : State) (t : ThreadId) (part : Nat) (ctx : Word) (va gpa : Nat) (bs : List Byte) : List Byte :=
  if s.views.isEmpty then bs
  else bs.zipIdx.map fun b =>
    let off := gpa % 64 + b.2
    match s.views.find? fun v => v.thread == t && v.part == part && v.ctx == ctx && v.vpage == va >>> 16 &&
        v.line == gpa / 64 && decide (v.lo ≤ off) && decide (off < v.lo + v.n) with
    | some v => v.bytes.getD off b.1
    | none => b.1

/-- A write of the device itself, through no virtual page. -/
def gpaWrite (s : State) (pkg part gpa : Nat) (bs : List Byte) (ctx : Word) (lvl : Level := .s) (u : Option UnitId := none) :
    Dev State :=
  match gpaPut s pkg part gpa bs ctx lvl u with
  | .ok t => .ok (noteStored t part gpa .dev none bs)
  | .s2 g => .s2 g
  | .mem g k => .mem g k
  | .win g k => .win g k
  | .wait w => .wait w

/-- A write of the device itself that must be known to have been made: a dropped store fails. -/
def gpaWriteAll (s : State) (pkg part gpa : Nat) (bs : List Byte) (ctx : Word) : Dev State :=
  match gpaStore s pkg part gpa bs ctx with
  | .ok (t, false) => .ok (noteStored t part gpa .dev none bs)
  | .ok (_, true) => .mem gpa 2
  | .s2 g => .s2 g
  | .mem g k => .mem g k
  | .win g k => .win g k
  | .wait w => .wait w

def devNat (r : Dev (List Byte)) : Dev Nat :=
  match r with
  | .ok l => .ok (ofLe l)
  | .s2 g => .s2 g
  | .mem g k => .mem g k
  | .win g k => .win g k
  | .wait w => .wait w

/-! ## Accesses that no unit waits for -/

/-- A device access of the step cannot be made now, and nothing holds it: the step does not take place, and a Translation
Request that it needs goes to the host (log 110). -/
def State.bar (s : State) (pkg part : Nat) (want : Option (Nat × Nat)) : State :=
  { s with barred := s.barred ++ [want.map fun x =>
      (pkg, { part := part, page := x.2 >>> 12, gpa := x.1, sent := s.now })] }

/-- A Translation Request of no unit, unless one for its page is on its way. -/
def State.wantPage (s : State) (w : Nat × AtsWant) : State :=
  s.updPkg w.1 fun p =>
    if p.atsWant.any (fun x => x.part == w.2.part && x.page == w.2.page && x.unit.isNone && x.eng == 0) then p
    else { p with atsWant := p.atsWant ++ [w.2] }

/-- What a step leaves: the state it reached, or, where a device access of it could not be made, the one it started from. -/
def settled (s t : State) : State :=
  if t.barred == s.barred then t else (t.barred.filterMap id).foldl State.wantPage s

end Sys2Proof.Machine
end

