-- ==== Sys2Proof/Machine/Translate.lean ====
section
/-! DEFINITION. The first-stage walk, the translation stores, and what counts accesses (04_translation.md R67 to R74, R89,
R90). -/

namespace Sys2Proof.Machine

/-! ## The first-stage walk (R67 to R72) -/

inductive Walk where
  /-- the leaf: its entry, its guest-physical place and its level -/
  | leaf (e place level : Nat)
  /-- the reason, the level, and the place of the entry -/
  | fault (reason level place : Nat)
  /-- a second-stage fault of a table read (R79) -/
  | held (gpa level : Nat)
  | mem (gpa kind : Nat)
  /-- the register window refuses a table read (03_memory.md R439) -/
  | win (gpa : Nat) (k : NoteKind)
  /-- a table read cannot be made now -/
  | wait (want : Option (Nat × Nat))
  deriving DecidableEq, Repr

/-- A leaf of the level breaks R68 or R69. -/
def leafBroken (e level limit : Nat) : Bool :=
  level == 0 || bits e 3 2 == 3 || bits e 10 6 != 0 ||
  (level == 2 && bits e 16 9 != 0) || (level == 1 && bits e 16 18 != 0) || limit ≤ bits e 16 36 <<< 16

def tableBroken (e level limit : Nat) : Bool :=
  level == 3 || bits e 1 8 != 0 || bits e 10 2 != 0 || bits e 52 12 != 0 || limit ≤ bits e 12 40 <<< 12

/-- Guest-physical limit of a partition on a package (R77). -/
def gpaLimit (s : State) (pkg part : Nat) : Nat :=
  match layoutOf s pkg part with
  | some L => L.s2Limit.toNat <<< 25
  | none => 0

/-- An 8-byte read of a walk: the state after its journey and the value, or how the walk ends. -/
def walkRead8 (s : State) (pkg part gpa level : Nat) : State × (Walk ⊕ Nat) :=
  match gpaRead s pkg part gpa 8 with
  | .ok l => (readTrips s pkg part gpa l, .inr (ofLe l))
  | .s2 g => (s, .inl (.held g level))
  | .mem g k => (s, .inl (.mem g k))
  | .win g k => (s, .inl (.win g k))
  | .wait w => (s, .inl (.wait w))

def walkFrom (s : State) (pkg part va limit : Nat) : Nat → Nat → Nat → State × Walk
  | 0, _, table => (s, .fault 1 3 table)
  | f + 1, level, table =>
    let place := table + 8 * bits va (43 - 9 * level) 9
    match walkRead8 s pkg part place level with
    | (s, .inl w) => (s, w)
    | (s, .inr e) =>
      if !bitAt e 0 then (s, .fault 0 level place)
      else if bitAt e 9 then (s, if leafBroken e level limit then .fault 1 level place else .leaf e place level)
      else if tableBroken e level limit then (s, .fault 1 level place)
      else walkFrom s pkg part va limit f (level + 1) (bits e 12 40 <<< 12)

/-- The root table of a context (R70). The level reported for a held read of the paging record or of the root array is 0
(log 84). -/
def rootOf (s : State) (pkg part : Nat) (ctx : Word) : State × (Walk ⊕ Nat) :=
  match layoutOf s pkg part with
  | none => (s, .inl (.fault 6 0 0))
  | some L =>
    match walkRead8 s pkg part L.paging.toNat 0 with
    | (s, .inl w) => (s, .inl w)
    | (s, .inr roots) =>
      match walkRead8 s pkg part (roots + 8 * (ctx.toNat % 4096)) 0 with
      | (s, .inl w) => (s, .inl w)
      | (s, .inr r) =>
        (s, if !bitAt r 0 then .inl (.fault 6 0 0)
            else if bits r 1 11 != 0 || bits r 52 12 != 0 || gpaLimit s pkg part ≤ bits r 12 40 <<< 12 then .inl (.fault 1 0 0)
            else .inr (bits r 12 40 <<< 12))

/-- The walk of an address, and the state after the journeys of its reads. -/
def walk (s : State) (pkg part : Nat) (ctx : Word) (va : Nat) : State × Walk :=
  match rootOf s pkg part ctx with
  | (s, .inl w) => (s, w)
  | (s, .inr t) => walkFrom s pkg part va (gpaLimit s pkg part) 4 0 t

/-- The translation that a leaf gives, of its whole page (R74). -/
def leafEnt (part : Nat) (ctx : Word) (va e level : Nat) : TlbEnt where
  part := part
  ctx := ctx
  vpage := va >>> 16 >>> (9 * (3 - level)) <<< (9 * (3 - level))
  size := 16 + 9 * (3 - level)
  frame := bits e 16 36
  w := bitAt e 1
  u := bitAt e 2
  kind := bits e 3 2
  wb := bitAt e 5
  d := bitAt e 7
  cnt := bitAt e 8

/-- Sets A, and D for a write, in the leaf (R72). -/
def markLeaf (s : State) (pkg part : Nat) (ctx : Word) (e place : Nat) (write : Bool) : Dev State :=
  let e' := e ||| 0x40 ||| (if write then 0x80 else 0)
  if e' == e then .ok s else gpaWrite s pkg part place (leBytes 8 e') ctx

/-! ## Translating an access (R71 to R74) -/

/-- Who translates: a lane of a quire (with its last-page register), a front-end context, or an engine. -/
structure Who where
  pkg : Nat
  part : Nat
  ctx : Word
  lvl : Level
  core : Option Nat := none
  lane : Option (Nat × Nat) := none
  /-- the lanes from that one on that make the access as one: the three siblings of a logical thread (R73) -/
  alike : Nat := 1
  /-- an engine of the package: copy engines 0 to 31, collective engines 32 and up -/
  eng : Option Nat := none
  deriving DecidableEq, Repr

inductive Xl where
  /-- guest-physical address, storage kind, whether the page is counted -/
  | ok (gpa kind : Nat) (cnt : Bool)
  | fault (c : Cause) (reason level : Nat)
  | mem (gpa kind : Nat)
  | win (gpa : Nat) (k : NoteKind)
  | held (gpa level : Nat)
  /-- a write to a page under migration (R91), or a table access that cannot be made now -/
  | blocked
  /-- a table access to host memory whose address must be translated first: guest-physical and host address (R85) -/
  | ats (gpa ha : Nat)
  deriving DecidableEq, Repr

/-- The entry's page covers a 64 KiB page. -/
def TlbEnt.covers (e : TlbEnt) (vpage : Nat) : Bool := e.vpage >>> (e.size - 16) == vpage >>> (e.size - 16)

/-- The entry for one 64 KiB page of its page. -/
def TlbEnt.sub (e : TlbEnt) (vpage : Nat) : TlbEnt :=
  { e with vpage := vpage, size := 16, frame := e.frame + vpage % 2 ^ (e.size - 16) }

/-- The TLB that an agent translates through (R74). -/
def tlbOf (s : State) (w : Who) : List TlbEnt :=
  match w.core, w.eng with
  | some g, _ => (s.coreOf g).tlb
  | none, some n => Tab.get [] (s.pkgOf w.pkg).engTlbs n
  | none, none => []

/-- A cached translation of a 64 KiB page: the lane's last-page register, then the TLB. -/
def cachedEnt (s : State) (w : Who) (vpage : Nat) : Option TlbEnt :=
  let hit := fun e : TlbEnt => e.part == w.part && e.ctx == w.ctx && e.covers vpage
  let last := match w.lane with
    | some (k, l) => ((Tab.find s.quires k).bind fun q => Tab.find q.lastPage l).filter hit
    | none => none
  match last with
  | some e => some (e.sub vpage)
  | none => ((tlbOf s w).find? hit).map (·.sub vpage)

/-- Refills the lane's last-page register, and those of its siblings, which hold equal values. -/
def installLast (s : State) (w : Who) (e : TlbEnt) : State :=
  match w.lane with
  | some (k, l) => s.updQuire k fun q =>
      { q with lastPage := (List.range w.alike).foldl (fun t i => Tab.set t (l + i) e) q.lastPage }
  | none => s

/-- A TLB of n entries takes an entry in place of those of the same page. -/
def putTlb (l : List TlbEnt) (n : Nat) (e : TlbEnt) : List TlbEnt :=
  let old := l.filter fun x => !(x.part == e.part && x.ctx == e.ctx && (x.covers e.vpage || e.covers x.vpage))
  (if old.length < n then old else old.drop 1) ++ [e]

/-- The result of a walk goes into the agent's TLB, 2,048 entries of a core or 256 of an engine, and the slice of va
into the lane's last-page register. -/
def installEnt (s : State) (w : Who) (va : Nat) (e : TlbEnt) : State :=
  let s := installLast s w (e.sub (va >>> 16))
  match w.core, w.eng with
  | some g, _ => s.updCore g fun c => { c with tlb := putTlb c.tlb 2048 e }
  | none, some n => s.updPkg w.pkg fun p => { p with engTlbs := Tab.set p.engTlbs n (putTlb (Tab.get [] p.engTlbs n) 256 e) }
  | none, none => s

/-- Orders 6 and 7 of R71 on a translation. -/
def checkEnt (w : Who) (e : TlbEnt) (va : Nat) (write : Bool) : Xl :=
  if w.lvl == .u && !e.u then .fault .protection 3 3
  else if write && !e.w then .fault .protection 2 3
  else .ok (e.frame <<< 16 + va % 65536) e.kind e.cnt

/-- An access that cannot be made now. -/
def Xl.waits (want : Option (Nat × Nat)) : Xl :=
  match want with
  | some x => .ats x.1 x.2
  | none => .blocked

/-- Translates one address by R71 to R74: a cached translation, or a walk whose result is installed. A cached
translation that is not dirty, or that is write-blocked, never serves a write (R72, R91). A write of A or D that the second
stage refuses is held as the walk's (log 84). Reasons 6 and 7 are reported
with LEVEL 0, where no walk level was reached (log 81). -/
def translate (s : State) (w : Who) (va : Nat) (write : Bool) : State × Xl :=
  if 2 ^ 52 ≤ va then (s, .fault .pageFault 7 0)
  else
    let viaWalk : State × Xl :=
      match walk s w.pkg w.part w.ctx va with
      | (s, .fault r l _) => (s, .fault .pageFault r l)
      | (s, .held g l) => (s, .held g l)
      | (s, .mem g k) => (s, .mem g k)
      | (s, .win g k) => (s, .win g k)
      | (s, .wait x) => (s, .waits x)
      | (s, .leaf e place level) =>
        let t := leafEnt w.part w.ctx va e level
        match checkEnt w (t.sub (va >>> 16)) va write with
        | .ok gpa kind cnt =>
          if write && t.wb then (s, .blocked)
          else
            (match markLeaf s w.pkg w.part w.ctx e place write with
             | .ok s' => (installEnt s' w va { t with d := t.d || write }, .ok gpa kind cnt)
             | .s2 g => (s, .held g level)
             | .mem g k => (s, .mem g k)
             | .win g k => (s, .win g k)
             | .wait x => (s, .waits x))
        | x => (s, x)
    match cachedEnt s w (va >>> 16) with
    | some e =>
      if write && (!e.d || e.wb) && e.w then viaWalk
      else
        (match checkEnt w e va write with
         | .ok gpa kind cnt => (installLast s w e, .ok gpa kind cnt)
         | x => (s, x))
    | none => viaWalk

/-- Whether a guest-physical byte lies in a sealed region of the partition (R66). -/
def isSealed (s : State) (part gpa : Nat) : Bool :=
  (s.partOf part).seals.any fun r => r.frames.contains (gpa >>> 16)

/-! ## Access counting (R89, R90) -/

def noThread (s : State) (part gpa : Nat) : State := s.tell (.noThreadAccess part gpa)

/-- A read of the device for no thread: the value, unless it fails or cannot be made now. -/
def quietRead (s : State) (pkg part gpa n : Nat) : State × Option Nat :=
  match gpaRead s pkg part gpa n with
  | .ok l => (readTrips s pkg part gpa l, some (ofLe l))
  | .wait w => (s.bar pkg part w, none)
  | .s2 g => (noThread s part g, none)
  | .mem g _ => (noThread s part g, none)
  | .win g _ => (noThread s part g, none)

/-- A write of the device for no thread: whether it has been made. -/
def quietWrite (s : State) (pkg part gpa : Nat) (bs : List Byte) : State × Bool :=
  match gpaWriteAll s pkg part gpa bs 0 with
  | .ok t => (t, true)
  | .wait w => (s.bar pkg part w, false)
  | .s2 g => (noThread s part g, false)
  | .mem g _ => (noThread s part g, false)
  | .win g _ => (noThread s part g, false)

/-- LOST := LOST + 1 (R90). -/
def bumpLost (s : State) (pkg part rec_ : Nat) : State :=
  match quietRead s pkg part (rec_ + 0x30) 4 with
  | (s, none) => s
  | (s, some n) => (quietWrite s pkg part (rec_ + 0x30) (leBytes 4 (n + 1))).1

/-- Posts an event to a context's latch (R373): at most 16, a further one is dropped and marked. -/
def latchEvent (q : List EventQ) (ctx : Word) (cls : Nat) (u : Option UnitId) (v : DWord) : List EventQ :=
  match q.find? (fun e => e.ctx == ctx && e.cls == cls) with
  | none => q ++ [{ ctx := ctx, cls := cls, vals := [(u, v)] }]
  | some _ => q.map fun e =>
      if e.ctx == ctx && e.cls == cls then
        (if e.vals.length < 16 then { e with vals := e.vals ++ [(u, v)] } else { e with lost := true }) else e

/-- The contexts of a partition that hold blocks, saved blocks, nodes or launch queues. -/
def partContexts (s : State) (part : Nat) : List Word :=
  ((s.blocks.filter (·.2.part == part)).map (·.2.ctx) ++ (s.partOf part).saved.map (·.ctx) ++
    (s.partOf part).nodes.map (·.2.ctx) ++ ((s.partOf part).queues.filter (·.2.en)).map (·.2.ctx)).eraseDups

/-- Posts an event of a class to every context of a partition. -/
def postEvent (s : State) (part cls : Nat) (v : DWord) : State :=
  (partContexts s part).foldl (fun s c => s.updPart part fun P => { P with events := latchEvent P.events c cls none v }) s

/-- The fields of the paging record that the notification queue has: base, size, tail and head. -/
def queueFields (s : State) (pkg part r : Nat) : State × Option (List Nat) :=
  [(0x18, 8), (0x20, 4), (0x24, 4), (0x28, 4)].foldl (fun acc x =>
    match acc with
    | (s, none) => (s, none)
    | (s, some l) => (match quietRead s pkg part (r + x.1) x.2 with
      | (s, some v) => (s, some (l ++ [v]))
      | (s, none) => (s, none))) (s, some [])

/-- Writes a 32-byte entry to the partition's notification queue (R90): whether it was written. -/
def notify (s : State) (pkg part : Nat) (entry : List Byte) : State × Bool :=
  match layoutOf s pkg part with
  | none => (s, false)
  | some L =>
    let r := L.paging.toNat
    match queueFields s pkg part r with
    | (s, some [base, size, tail, head]) =>
      if (tail + 2 ^ 32 - head) % 2 ^ 32 == size then (bumpLost s pkg part r, false)
      else
        let w1 := quietWrite s pkg part (base + 32 * (tail % max 1 size)) entry
        let w2 := if w1.2 then quietWrite w1.1 pkg part (r + 0x24) (leBytes 4 (tail + 1)) else w1
        if w2.2 then (postEvent w2.1 part 2 (BitVec.ofNat 64 ((tail + 1) % 2 ^ 32)), true) else (bumpLost w2.1 pkg part r, false)
    | (s, _) => (bumpLost s pkg part r, false)

/-- The die's counters after one more access to the frame, least recently used first, at most 1,024; and the count. -/
def countIn (cs : List Counter) (part frame : Nat) : List Counter × Counter :=
  match cs.find? (fun c => c.part == part && c.frame == frame) with
  | some c =>
    let c' := if c.stopped then c else { c with count := c.count + 1 }
    (cs.filter (· != c) ++ [c'], c')
  | none =>
    let c : Counter := { part := part, frame := frame, count := 1 }
    ((if cs.length < 1024 then cs else cs.drop 1) ++ [c], c)

/-- One line request to a counted page reaches the L2 of the issuing die (R89). -/
def countAccess (s : State) (pkg die part gpa : Nat) : State :=
  if !featureOn s pkg 11 then s else
  match layoutOf s pkg part with
  | none => s
  | some L =>
    match quietRead s pkg part (L.paging.toNat + 0x2C) 2 with
    | (s, none) => s
    | (s, some t) =>
      let thresh := if t == 0 then 256 else t
      let frame := gpa >>> 16
      let r := countIn (Tab.get [] (s.pkgOf pkg).counters die) part frame
      let put := fun (s : State) (cs : List Counter) => s.updPkg pkg fun p => { p with counters := Tab.set p.counters die cs }
      let s1 := put s r.1
      if r.2.stopped || r.2.count < thresh then s1
      else
        let n := notify s1 pkg part
          (leBytes 8 (frame <<< 16 + 1) ++ leBytes 4 (die + (pkg % 256) <<< 8 + (pkg / 256) <<< 16) ++ leBytes 4 s.now ++ leBytes 16 0)
        put n.1 (r.1.map fun c => if c.part == part && c.frame == frame then
          (if n.2 then { c with stopped := true } else { c with count := 0 }) else c)

end Sys2Proof.Machine
end

