-- ==== Sys2Proof/Machine/Nodes.lean ====
section
/-! DEFINITION. Nodes and blocks as the scheduler keeps them: states, edges, ends, and the loss of a block's attempt
(15_scheduling.md R345 to R355, 16_traps.md R386, R387). -/

namespace Sys2Proof.Machine

/-! ## The device's own accesses through a context (15_scheduling.md R440) -/

/-- The lowest package on which the partition has a live layout entry. -/
def homePkg (s : State) (part : Nat) : Nat :=
  ((s.pkgs.map (·.1)).find? fun p => (layoutOf s p part).isSome).getD 0

/-- A fault of an access at level H, which is one to a save area, is reported to H (16_traps.md R382). -/
def areaFault (s : State) (part : Nat) (ctx : Word) (lvl : Level) (va : Nat) : State :=
  if lvl == .h then s.tell (.areaFault part ctx va) else s

/-- Translates as an access of no thread: nothing is held; a failure is reported to H when the second stage fails. -/
def ctxGpa (s : State) (part : Nat) (ctx : Word) (lvl : Level) (va : Nat) (write : Bool) : State × Option Nat :=
  match translate s { pkg := homePkg s part, part := part, ctx := ctx, lvl := lvl } va write with
  | (s', .ok gpa _ _) => if write && isSealed s' part gpa then (areaFault s' part ctx lvl va, none) else (s', some gpa)
  | (s', .held g _) => (noThread s' part g, none)
  | (s', .ats g ha) => (s'.bar (homePkg s part) part (some (g, ha)), none)
  | (s', .blocked) => (s'.bar (homePkg s part) part none, none)
  | (s', _) => (areaFault s' part ctx lvl va, none)

/-- Reads n bytes at a virtual address, page by page. -/
def ctxReadAt (s : State) (part : Nat) (ctx : Word) (lvl : Level) (va n : Nat) : State × Option (List Byte) :=
  (pieces (n / 64 + 2) va n).foldl (fun r p =>
    match r with
    | (s, some acc) =>
      (match ctxGpa s part ctx lvl p.1 false with
       | (s', some g) =>
         (match gpaRead s' (homePkg s part) part g p.2 with
          | .ok l => (readTrips s' (homePkg s part) part g l, some (acc ++ l))
          | .wait w => (s'.bar (homePkg s part) part w, none)
          | .s2 g => (noThread s' part g, none)
          | .mem _ _ => (areaFault s' part ctx lvl p.1, none)
          | .win _ _ => (areaFault s' part ctx lvl p.1, none))
       | (s', none) => (s', none))
    | e => e) (s, some [])

def ctxWriteAt (s : State) (part : Nat) (ctx : Word) (lvl : Level) (va : Nat) (bs : List Byte) : State × Bool :=
  (pieces (bs.length / 64 + 2) va bs.length).foldl (fun r p =>
    if !r.2 then r else
    match ctxGpa r.1 part ctx lvl p.1 true with
    | (s', some g) =>
      (match gpaWriteAll s' (homePkg s part) part g ((bs.drop (p.1 - va)).take p.2) ctx with
       | .ok s'' => (s'', true)
       | .wait w => (s'.bar (homePkg s part) part w, false)
       | .s2 g => (noThread s' part g, false)
       | .mem _ _ => (areaFault s' part ctx lvl p.1, false)
       | .win _ _ => (areaFault s' part ctx lvl p.1, false))
    | (s', none) => (s', false)) (s, true)

/-! ## Node records (R346) -/

def fld (l : List Byte) (o n : Nat) : Nat := ofLe ((l.drop o).take n)

def parseNode (l : List Byte) : NodeRec where
  text := BitVec.ofNat 64 (fld l 0x00 8)
  live := BitVec.ofNat 64 (fld l 0x08 8)
  args := BitVec.ofNat 64 (fld l 0x10 8)
  gx := fld l 0x18 4
  gy := fld l 0x1C 4
  gz := fld l 0x20 4
  t := fld l 0x24 2
  flags := BitVec.ofNat 16 (fld l 0x26 2)
  prio := fld l 0x28 1
  npred := fld l 0x29 1
  ntile := fld l 0x2A 1
  baseregs := fld l 0x2B 1
  seed := BitVec.ofNat 32 (fld l 0x2C 4)
  tag := BitVec.ofNat 64 (fld l 0x30 8)
  bitmap := BitVec.ofNat 64 (fld l 0x38 8)
  stattab := BitVec.ofNat 64 (fld l 0x50 8)
  statn := fld l 0x58 2
  scratch := fld l 0x5A 1
  acctiles := fld l 0x5B 1
  engq := (List.range 4).map fun j => fld l (0x5C + j) 1
  dsbase := BitVec.ofNat 64 (fld l 0x60 8)
  dscap := fld l 0x68 2
  tmaps := BitVec.ofNat 16 (fld l 0x6A 2)
  livecount := fld l 0x6C 2
  queues := BitVec.ofNat 8 (fld l 0x6E 1)
  roleq := (List.range 6).map fun j => (fld l (0x70 + 2 * j) 1, fld l (0x71 + 2 * j) 1)
  frontent := fld l 0x80 4
  quireent := fld l 0x84 4
  preds := (List.range 8).map fun i => BitVec.ofNat 64 (fld l (0x90 + 8 * i) 8)
  tiles := (List.range 8).map fun j => (BitVec.ofNat 64 (fld l (0xD0 + 16 * j) 8), BitVec.ofNat 64 (fld l (0xD8 + 16 * j) 8))

namespace NodeRec

def ter (n : NodeRec) : Bool := n.flags.getLsbD 0
def det (n : NodeRec) : Bool := n.flags.getLsbD 1
def idem (n : NodeRec) : Bool := n.flags.getLsbD 2
def gang (n : NodeRec) : Bool := n.flags.getLsbD 3
def stop (n : NodeRec) : Bool := n.flags.getLsbD 4
def srvec (n : NodeRec) : Bool := n.flags.getLsbD 5
def ext (n : NodeRec) : Bool := n.flags.getLsbD 6
def total (n : NodeRec) : Nat := n.gx * n.gy * n.gz
/-- Threads of a quire and quires of a block at launch (R19, R22). -/
def w (n : NodeRec) : Nat := if n.ter then 32 else 96
def quires (n : NodeRec) : Nat := (n.t + n.w - 1) / n.w

end NodeRec

/-- The node that the pool holds for a record of a context, the latest accepted. -/
def nodeAt (s : State) (part : Nat) (ctx : Word) (va : Nat) : Option (Nat × Node) :=
  ((s.partOf part).nodes.filter fun e => e.2.va.toNat == va && e.2.ctx == ctx && !e.2.gone).getLast?

/-- The node that a predecessor's address names: of the record's own context, or else of another context of the partition
(R356; log 105). -/
def predAt (s : State) (part : Nat) (ctx : Word) (va : Nat) : Option (Nat × Node) :=
  match nodeAt s part ctx va with
  | some n => some n
  | none => ((s.partOf part).nodes.filter fun e => e.2.va.toNat == va && !e.2.gone).getLast?

def updNode (s : State) (part seq : Nat) (f : Node → Node) : State :=
  s.updPart part fun P => { P with nodes := Tab.modify P.nodes seq f }

def nodeOf (s : State) (part seq : Nat) : Option Node := Tab.find (s.partOf part).nodes seq

/-- The STATUS word (R347). -/
def statusWord (n : Node) : Nat := n.state + (if n.statsLost then 256 else 0) + n.retired <<< 16

/-- Writes a node's STATUS; the write is not retried (R440). -/
def putStatus (s : State) (part seq : Nat) : State :=
  match nodeOf s part seq with
  | none => s
  | some n => (ctxWriteAt s part n.ctx .u (n.va.toNat + 0x40) (leBytes 8 (statusWord n))).1

/-! ## Edges and ends (R347, R348, R355) -/

/-- What a predecessor's state makes of an edge: 0 unsatisfied, 1 satisfied, 2 withdrawn, 3 ended otherwise. -/
def edgeOf (st : Nat) : Nat := if st == 3 then 1 else if st == 4 then 2 else if st ≥ 5 then 3 else 0

/-- What an access told H, but for what had been told before: a device read that is repeated reports a failure once. -/
def toldOnce (s t : State) : State := if t.told.all s.told.contains then { t with told := s.told } else t

/-- The state of edge i: that of the node that the pool held at acceptance, or what the record's STATUS says. -/
def edgeState (s : State) (part : Nat) (n : Node) (i : Nat) (pred : DWord) : State × Nat :=
  match (n.from_.getD i none).bind (nodeOf s part) with
  | some p => (s, if edgeOf p.state == 0 && pred.getLsbD 63 && 0 < p.next then 1 else edgeOf p.state)
  | none =>
    let r := ctxReadAt s part n.ctx .u (pred.toNat % 2 ^ 52 + 0x40) 8
    (toldOnce s r.1, match r.2 with
      | some l => edgeOf (ofLe l % 256)
      | none => 0)

def edges (s : State) (part : Nat) (n : Node) : State × List Nat :=
  (n.nrec.preds.take n.nrec.npred).zipIdx.foldl (fun r p =>
    let x := edgeState r.1 part n p.2 p.1
    (x.1, r.2 ++ [x.2])) (s, [])

/-- The node stands in the ready pool: its edges are satisfied, and blocks of it are left to dispatch (R348). -/
def inPool (n : Node) : Bool :=
  (n.state == 1 || n.state == 2) && !n.withdrawn && n.owed.isNone && (decide (n.next < n.nrec.total) || !n.redo.isEmpty)

/-- Nodes in the partition's ready pool. -/
def poolSize (s : State) (part : Nat) : Nat := ((s.partOf part).nodes.filter fun n => inPool n.2).length

/-- A node as its edges now stand: ready, failed, withdrawn, or as it was. -/
def nodeStep (s : State) (part seq : Nat) : State :=
  match nodeOf s part seq with
  | none => s
  | some n =>
    if 3 ≤ n.state then s else
    let r := edges s part n
    let s := r.1
    let es := r.2
    let live := !n.withdrawn && n.owed.isNone
    let n' : Node :=
      if live && es.any (· == 3) then { n with owed := some 6 }
      else if live && es.any (· == 2) then { n with withdrawn := true }
      else if live && n.state == 0 && es.all (· == 1) && decide (poolSize s part < 65536) then { n with state := 1, entered := s.now }
      else n
    let n' := if n'.owed.isSome || n'.withdrawn then { n' with redo := [] } else n'
    let atEnd := n'.running == 0 && n'.redo.isEmpty
    let n'' : Node :=
      if atEnd && n'.owed.isSome then { n' with state := n'.owed.getD 5 }
      else if atEnd && n'.withdrawn then { n' with state := 4 }
      else if atEnd && n'.next == n'.nrec.total && n'.state == 2 then { n' with state := 3 }
      else n'
    if n'' == n then s else putStatus (updNode s part seq fun _ => n'') part seq

/-- Carries every edge and end through the pool: as many rounds as there are nodes. -/
def settleNodes (s : State) (part : Nat) : State :=
  (List.range ((s.partOf part).nodes.length + 1)).foldl
    (fun s _ => ((s.partOf part).nodes.map (·.1)).foldl (fun s q => nodeStep s part q) s) s

/-! ## Context records (16_traps.md R381) -/

structure CtxRec where
  uvecq : DWord
  uvecf : DWord
  svecq : DWord
  svecf : DWord
  savebase : Nat
  nslot : Nat
  slotsize : Nat
  accarea : Nat
  first : Nat
  last : Nat
  limited : Bool
  deriving DecidableEq, Repr

def parseCtxRec (l : List Byte) : Option CtxRec :=
  let adm := fld l 0x38 8
  if fld l 0x2C 4 != 0 || fld l 0x20 8 % 65536 != 0 || fld l 0x30 8 % 65536 != 0 ||
     fld l 0x28 2 == 0 || 4096 < fld l 0x28 2 || fld l 0x2A 2 < 19 || 1024 < fld l 0x2A 2 ||
     bits adm 34 29 != 0 || (bitAt adm 63 && bits adm 17 17 < bits adm 0 17) then none
  else some
    { uvecq := BitVec.ofNat 64 (fld l 0 8)
      uvecf := BitVec.ofNat 64 (fld l 8 8)
      svecq := BitVec.ofNat 64 (fld l 16 8)
      svecf := BitVec.ofNat 64 (fld l 24 8)
      savebase := fld l 0x20 8
      nslot := fld l 0x28 2
      slotsize := fld l 0x2A 2
      accarea := fld l 0x30 8
      first := bits adm 0 17
      last := bits adm 17 17
      limited := bitAt adm 63 }

/-- The context's record, read through the second stage and not held; none when it cannot be read or is malformed. -/
def ctxRecord (s : State) (part : Nat) (ctx : Word) : State × Option CtxRec :=
  let a := (s.partOf part).ctxTab.toNat + 64 * (ctx.toNat % 4096)
  match gpaRead s (homePkg s part) part a 64 with
  | .ok l => (readTrips s (homePkg s part) part a l, parseCtxRec l)
  | .wait w => (s.bar (homePkg s part) part w, none)
  | _ => (s, none)

/-! ## The end of a block's residence -/

/-- Bits of the save area's bitmap (16_traps.md R382), written at level H. -/
def saveBit (s : State) (part : Nat) (ctx : Word) (savebase i : Nat) (on : Bool) : State :=
  let a := savebase + i / 8
  match ctxReadAt s part ctx .h a 1 with
  | (s', some l) =>
    let v := ofLe l
    let v' := if on then v ||| 2 ^ (i % 8) else v &&& (255 - 2 ^ (i % 8))
    (ctxWriteAt s' part ctx .h a (leBytes 1 v')).1
  | (s', none) => s'

/-- Clears WB of a leaf that a MIGR has set (04_translation.md R91); a failed write is told to H. -/
def clearWb (s : State) (e : EngOp) : State :=
  match devNat (gpaRead s e.pkg e.part e.leaf 8) with
  | .ok v =>
    (match gpaWrite s e.pkg e.part e.leaf (leBytes 8 (v &&& (2 ^ 64 - 1 - 0x20))) e.ctx with
     | .ok s' => s'
     | .wait w => s.bar e.pkg e.part w
     | _ => s.tell (.migrStuck e.leaf))
  | .wait w => s.bar e.pkg e.part w
  | _ => s.tell (.migrStuck e.leaf)

def EngOp.migrating (e : EngOp) : Bool :=
  match e.phase with
  | .migrSweep1 => true
  | .migrDrain => true
  | .migrSweep2 => true
  | .migrDone => true
  | _ => false

/-- Whether a COLL is between its exchange and its last step. -/
def EngOp.collBusy (e : EngOp) : Bool :=
  match e.phase with
  | .collExch => true
  | .collStep _ => true
  | _ => false

def leftRank (c : CollDesc) : Nat := (c.rank + c.n - 1) % c.n
def rightRank (c : CollDesc) : Nat := (c.rank + 1) % c.n

/-- A COLL that stands at its collective engine and has not met both neighbours. -/
def EngOp.collWaits (e : EngOp) : Bool :=
  match e.phase with
  | .collRing => true
  | .collReady => true
  | .collExch => true
  | _ => false

/-- Whether c may answer e as its left or right neighbour: its rank, its engine, that its ring names e's engine, as far as
it has read its ring, and that it is unmatched on that side (R137). -/
def EngOp.answeredBy (e c : EngOp) (toLeft : Bool) : Bool :=
  let r := if toLeft then leftRank e.coll else rightRank e.coll
  c.onColl && c.collWaits && c.part == e.part && c.coll.rank == r && (e.ring.getD r {}).serves == some (c.pkg, c.eng) &&
    (c.phase == .collRing || (c.ring.getD e.coll.rank {}).serves == some (e.pkg, e.eng)) &&
    (if toLeft then c.right.isNone else c.left.isNone)

/-- Whether e waits on the neighbour f: the oldest that could answer it, or, where none stands at its engine yet, a COLL of
that rank which has read its descriptor (log 57). -/
def EngOp.waitsOn (e : EngOp) (s : State) (f : EngOp) : Bool :=
  e.phase == .collExch && [true, false].any fun toLeft =>
    (if toLeft then e.left.isNone else e.right.isNone) &&
      (if f.onColl then e.answeredBy f toLeft && !s.engs.any fun c => e.answeredBy c.2 toLeft && decide (c.2.started < f.started)
       else f.coll.n != 0 && f.part == e.part && f.coll.rank == (if toLeft then leftRank e.coll else rightRank e.coll) &&
         !s.engs.any fun c => e.answeredBy c.2 toLeft)

/-- Every COLL that waits on one of the given operations ends with PEER_ABORT, and so on around the ring (R140). The
operations are given as they stood before they ended. -/
def abortPeers (s : State) : Nat → List (Nat × EngOp) → State
  | 0, _ => s
  | f + 1, gone =>
    let named := fun n : Nat => gone.any (·.1 == n)
    let meets := fun e : EngOp => e.collBusy && (e.left.any named || e.right.any named || gone.any fun g => e.waitsOn s g.2)
    let hit := s.engs.filter fun e => meets e.2
    if hit.isEmpty then s
    else
      let s := { s with engs := s.engs.map fun e : Nat × EngOp => if hit.any (·.1 == e.1) then
        (e.1, { e.2 with phase := .ended, status := 1, cause := 13, detail := BitVec.ofNat 64 (min e.2.sent e.2.recvd)
                         desc := none, fetched := [], plan := none, early := [] }) else e }
      abortPeers s f hit

/-- Stops the engine operations that a test names; bytes already written stay (06_engines.md R143). -/
def stopEngines (s : State) (f : EngOp → Bool) : State :=
  let gone := s.engs.filter fun e => f e.2
  let s := gone.foldl (fun s e => if e.2.migrating then clearWb s e.2 else s) s
  let s := abortPeers { s with engs := s.engs.filter fun e => !f e.2 } s.engs.length gone
  let s := { s with
    msgs := s.msgs.filter fun m => !(m.2.req.eng && decide (m.2.state = MsgState.queued) && gone.any (·.1 == m.2.req.op))
    held := s.held.filter fun h => (match h.what with
      | .eng id _ _ => !gone.any (·.1 == id)
      | .engWalk id _ _ _ _ => !gone.any (·.1 == id)
      | _ => true)
    pkgs := s.pkgs.map fun p : Nat × Pkg => if p.2.atsWant.isEmpty then p
      else (p.1, { p.2 with atsWant := p.2.atsWant.filter fun w => !gone.any (·.1 == w.eng) }) }
  { s with sweeps := s.sweeps.filter fun w =>
      match w.2.eng with
      | some id => !gone.any (·.1 == id)
      | none => true }

def unitBlock : UnitId → Nat
  | .front b => b
  | .slot b _ _ => b

/-- WAITERS of the gate at an address, as its unit keeps it (17_partitions.md R400). -/
def countWaiters (s : State) (a : Nat) : State :=
  let n := (s.gates.filter fun x => x.2.home == a && x.2.state == .waiting).length
  { s with mem := Memory.writeBytes s.mem (a + 6) (leBytes 2 n) }

/-- WAITERS of the gates at which an HGWAIT waited before. -/
def recount (before s : State) : State :=
  (((before.gates.filter fun x => x.2.state == GateState.waiting).map fun x => x.2.home).eraseDups).foldl countWaiters s

/-- A block leaves its core: its units, requests and queues end. keepScratch leaves its steps to its context (R151). -/
def dropBlock (s : State) (b : Nat) (keepScratch : Bool) : State :=
  match Tab.find s.blocks b with
  | none => s
  | some B =>
    let mine := fun u : UnitId => unitBlock u == b
    let old := s
    let gates := s.gates.length
    let s := s.updCore B.core fun c =>
      { c with
        steps := c.steps.map fun e => if e.2.block == some b then
          (e.1, ({ block := none, user := if keepScratch then some (B.part, B.ctx) else none } : SramStep)) else e
        sram := if keepScratch then c.sram else
          Memory.zeroRange c.sram (B.step0 * 65536) (B.node.scratch * 65536)
        matQ := c.matQ.filter fun m => m.b != b
        running := c.running }
    let s := { s with
      blocks := Tab.del s.blocks b
      quires := s.quires.filter fun e => e.1 / 16 != b
      ops := s.ops.filter fun e => !mine e.2.unit
      msgs := s.msgs.filter fun e => e.2.req.eng || !(mine e.2.req.unit && decide (e.2.state = MsgState.queued))
      held := s.held.filter fun h => (match h.what with
        | .line r => !mine r.unit
        | .behind r => !mine r.unit
        | .slow r => !mine r.unit
        | .walk u _ _ _ _ => !mine u
        | .sync u _ _ => !mine u
        | .eng _ _ _ => true
        | .engWalk _ _ _ _ _ => true)
      pkgs := s.pkgs.map fun p : Nat × Pkg => if p.2.atsWant.isEmpty then p
        else (p.1, { p.2 with atsWant := p.2.atsWant.filter fun w => !w.unit.any mine })
      gates := s.gates.filter fun e => !mine e.2.unit }
    let s := if s.gates.length == gates then s else recount old s
    let s := { s with preempts := s.preempts.filter fun p => s.blocks.any fun e =>
      e.2.part == p.2.part && e.2.ctx == p.2.ctx && p.2.cores.contains e.2.core }
    s.updCore B.core fun c =>
      { c with running := if s.blocks.any (fun e => e.2.core == B.core) then c.running else none }

/-- n tiles from physical tile a read +0 with ACNT 0 and a clear USED bit (13_matrix.md R290, R292). -/
def Core.clearTiles (c : Core) (a n : Nat) : Core :=
  let mine := fun p : Nat => a ≤ p && p < a + n
  { c with
    accUsed := ((List.range 16).filter mine).foldl (fun u p => u &&& ~~~(1#16 <<< p)) c.accUsed
    tiles := c.tiles.filter fun t : Nat × Tile => !mine t.1 }

/-- The physical quad of a core (17_partitions.md R396). -/
def physQuad (s : State) (g : Nat) : Nat := (Tab.get 0 (s.pkgOf (g / 384)).place (g % 384 / 4)).toNat % 128

/-- A core lies in a failed unit. -/
def FailedUnit.has (u : FailedUnit) (s : State) (g : Nat) : Bool :=
  match u with
  | .core p q n => g / 384 == p && physQuad s g == q && g % 4 == n
  | .quad p q => g / 384 == p && physQuad s g == q
  | .die p d => g / 384 == p && physQuad s g / 13 == d

/-! ## The replay journals (R386) -/

/-- The replay journal of a die, and its mirror on the die whose number differs in bit 0, are told of an uncorrectable
error that a block meets (03_memory.md R61, 16_traps.md R386). -/
def journalErr (s : State) (B : Block) (t : Trap) : State :=
  let e : JournalErr :=
    { part := B.part, seq := B.seq, idx := B.idx, attempt := B.attempt, kind := t.detail.toNat, unit := t.info, load := t.load }
  let d := dieOfCore B.core
  s.updPkg B.pkg fun p =>
    { p with journal := [d, d ^^^ 1].foldl (fun j k => Tab.set j k (Tab.get [] j k ++ [e])) p.journal }

/-- The entry of a block in the journals. -/
def JournalEnt.of (e : JournalEnt) (B : Block) : Bool := e.part == B.part && e.seq == B.seq && e.idx == B.idx

/-- The journals' entries of a block go when it completes (R386). -/
def journalRetire (s : State) (B : Block) : State :=
  { s with pkgs := s.pkgs.map fun x : Nat × Pkg => if x.2.journal.isEmpty && x.2.dispatched.isEmpty then x else
    (x.1, { x.2 with
      dispatched := x.2.dispatched.map fun j => (j.1, j.2.filter fun e => !e.of B)
      journal := x.2.journal.map fun j => (j.1, j.2.filter fun e => !(e.part == B.part && e.seq == B.seq && e.idx == B.idx)) }) }

/-- A block stands in the journal of its die and in the mirror, and in no other. -/
def journalPut (s : State) (B : Block) : State :=
  let d := dieOfCore B.core
  let s : State := { s with pkgs := s.pkgs.map fun x : Nat × Pkg => if x.2.dispatched.isEmpty then x else
    (x.1, { x.2 with dispatched := x.2.dispatched.map fun j => (j.1, j.2.filter fun e => !e.of B) }) }
  s.updPkg B.pkg fun p =>
    let e : JournalEnt := { part := B.part, seq := B.seq, idx := B.idx, attempt := B.attempt }
    { p with dispatched := [d, d ^^^ 1].foldl (fun j k => Tab.set j k (Tab.get [] j k ++ [e])) p.dispatched }

/-- A failed block's attempt is discarded; it is dispatched again outside the unit that failed, or completes FAULTED
(R387). -/
def failBlock (s : State) (b : Nat) (unit : Option FailedUnit := none) : State :=
  match Tab.find s.blocks b with
  | none => s
  | some B =>
    let failed := unit.getD (.core (B.core / 384) (physQuad s B.core) (B.core % 4))
    let again := B.node.idem && B.attempt < 3 && (nodeOf s B.part B.seq).any fun n => !n.withdrawn && n.owed.isNone
    let s := stopEngines s fun e => e.b == b
    let s := s.updCore B.core fun c =>
      if c.accOwn == B.ctx then c.clearTiles B.abase B.node.acctiles else c
    let s := match B.saveSlot with
      | some i => saveBit s B.part B.ctx i.base i.idx false
      | none => s
    let s := dropBlock s b true
    let s := updNode s B.part B.seq fun n =>
      if again then { n with running := n.running - 1, redo := n.redo ++ [{ idx := B.idx, attempt := B.attempt + 1, failed := failed }] }
      else { n with running := n.running - 1, failed := B.idx :: n.failed,
                    owed := match n.owed with
                      | none => some 5
                      | o => o }
    settleNodes (if again then s else journalRetire s B) B.part

/-! ## Killing a context (16_traps.md R379, 14_control.md R333, R342) -/

/-- Clears the tile maps that a block reserved. -/
def clearMaps (c : Core) (n : NodeRec) : Core :=
  { c with t := c.t.filter fun e => !n.tmaps.getLsbD e.1 }

/-- A core of the partition (17_partitions.md R389). -/
def coreIn (s : State) (part g : Nat) : Bool :=
  match layoutOf s (g / 384) part with
  | some L => L.quads.getLsbD (g % 384 / 4)
  | none => false

/-- The stores that a killed context owns are scrubbed and have no owner (13_matrix.md R309). -/
def scrubStores (s : State) (part : Nat) (ctx : Word) : State :=
  let gs := (s.cores.filter fun c => c.2.accOwn == ctx && coreIn s part c.1).map (·.1)
  gs.foldl (fun s g =>
    (s.updCore g fun c => { c with accOwn := 0xFFFFFFFF, accUsed := 0, tiles := [] }).updPkg (g / 384) fun p =>
      let w := ScrubWhat.coreOf part ctx g
      { p with scrubs := if p.scrubs.contains w then p.scrubs else p.scrubs ++ [w] }) s

/-- The steps of local SRAM that a killed context used last are zeroed and have no user, and its translations go from the
cores of its partition (R379, 07_local_memory.md R156). -/
def scrubContext (s : State) (part : Nat) (ctx : Word) : State :=
  { s with cores := s.cores.map fun e : Nat × Core =>
    let used := e.2.steps.filter fun t : Nat × SramStep => t.2.user == some (part, ctx) && t.2.block.isNone
    (e.1, { e.2 with
      sram := used.foldl (fun m (t : Nat × SramStep) => Memory.zeroRange m (t.1 * 65536) 65536) e.2.sram
      steps := e.2.steps.map fun t : Nat × SramStep =>
        if t.2.user == some (part, ctx) then (t.1, { t.2 with user := none }) else t
      tlb := e.2.tlb.filter fun x => !(x.part == part && x.ctx == ctx) }) }

/-- One block of a killed context ends KILLED: its SRAM steps and maps are zeroed and its core's scrub begins. -/
def killBlock (s : State) (b : Nat) : State :=
  match Tab.find s.blocks b with
  | none => s
  | some B =>
    let s := stopEngines s fun e => e.b == b
    let s := journalRetire (dropBlock s b false) B
    let s := s.updCore B.core fun c =>
      let c := clearMaps c B.node
      if c.accOwn == B.ctx then { c with accOwn := 0xFFFFFFFF, accUsed := 0, tiles := [] } else c
    s.updPkg B.pkg fun p =>
      let w := ScrubWhat.coreOf B.part B.ctx B.core
      { p with scrubs := if p.scrubs.contains w then p.scrubs else p.scrubs ++ [w] }

/-- The seals, launch queues and saved blocks of a killed context. -/
def killInPart (P : Part) (ctx : Word) (status : Nat) : Part :=
  { P with
    seals := P.seals.filter fun r => r.ctx != ctx
    queues := P.queues.map fun q => if q.2.ctx == ctx then (q.1, { q.2 with en := false, err := true }) else q
    saved := P.saved.filter fun v => v.ctx != ctx
    nodes := P.nodes.map fun n => if n.2.ctx == ctx && n.2.state < 3 then
      (n.1, { n.2 with state := status, running := 0, redo := [], owed := none, withdrawn := false }) else n }

/-- Ends a context: every block is KILLED, every node that has not ended takes the status, KILLED unless another is
given, and H is told. -/
def killContext (s : State) (part : Nat) (ctx : Word) (status : Nat := 9) : State :=
  let live := (((s.partOf part).nodes.filter fun n => n.2.ctx == ctx && n.2.state < 3).map (·.1))
  let slots := (s.blocks.filter fun e => e.2.part == part && e.2.ctx == ctx).filterMap (·.2.saveSlot) ++
    ((s.partOf part).saved.filter (·.ctx == ctx)).map (·.slot)
  let out := ((s.partOf part).saved.filter (·.ctx == ctx)).map (·.b)
  let s := ((s.partOf part).saved.filter (·.ctx == ctx)).foldl (fun s v => journalRetire s v.block) s
  let s := slots.foldl (fun s i => saveBit s part ctx i.base i.idx false) s
  let s := ((s.blocks.filter fun e => e.2.part == part && e.2.ctx == ctx).map (·.1)).foldl killBlock s
  let s := scrubContext (scrubStores (stopEngines s fun e => out.contains e.b) part ctx) part ctx
  let s := s.updPart part fun P => killInPart P ctx status
  let s := { s with preempts := s.preempts.filter fun p => !(p.2.part == part && p.2.ctx == ctx) }
  let s := live.foldl (fun s q => putStatus s part q) s
  (settleNodes s part).tell (.killed part ctx)

end Sys2Proof.Machine
end

