-- ==== Sys2Proof/Machine/Ops.lean ====
section
/-! DEFINITION. The unit that issues a word: its registers and sources, taking a trap and returning from one, and how
a word ends (01_machine.md, 02_instruction_words.md R28 to R34, 09_registers.md, 16_traps.md R362 to R371). -/

namespace Sys2Proof.Machine

/-! ## The issuing unit -/

/-- The unit of the step, as it stands when the word issues. -/
structure Issuer where
  u : UnitId
  b : Nat
  q : Nat
  sl : Nat
  fe : Bool
  blk : Block
  qr : Quire
  st : Strand
  mask : Mask
  /-- the word, for TRAPINFO -/
  word : Word
  deriving DecidableEq, Repr

def Quire.slot (q : Quire) (sl : Nat) : Slot := if sl == 0 then q.s0 else q.s1

def Quire.setSlot (q : Quire) (sl : Nat) (x : Slot) : Quire := if sl == 0 then { q with s0 := x } else { q with s1 := x }

/-- A free slot holds no lanes (R18); a slot whose divergence-stack pop has trapped runs its handler without lanes
and is not free (14_control.md R333). -/
def Slot.free (x : Slot) : Bool := x.mask == 0 && !x.popTrap && x.ctl.wait == .none

/-- The control state of a front-end context that has not ended, or of a slot. -/
def unitStrand (s : State) (u : UnitId) : Option Strand :=
  match u with
  | .front b => (Tab.find s.blocks b).bind fun B => if B.front.done then none else some B.front.ctl
  | .slot b q sl => (Tab.find s.quires (quireKey b q)).map fun Q => (Q.slot sl).ctl

def updStrand (s : State) (u : UnitId) (f : Strand → Strand) : State :=
  match u with
  | .front b => s.updBlock b fun B => { B with front := { B.front with ctl := f B.front.ctl } }
  | .slot b q sl => s.updQuire (quireKey b q) fun Q => Q.setSlot sl { Q.slot sl with ctl := f (Q.slot sl).ctl }

/-- The word an instruction is encoded as, for TRAPINFO; 0 for a step without an encoding. -/
def wordOf (i : Instr) : Word :=
  match encode i with
  | some (_, w) => w
  | none => 0

def issuerOf (s : State) (u : UnitId) (w : Word) : Option Issuer :=
  match u with
  | .front b =>
    (Tab.find s.blocks b).bind fun B =>
      if B.front.done then none
      else some { u := u, b := b, q := 0, sl := 0, fe := true, blk := B, qr := {}, st := B.front.ctl, mask := 0, word := w }
  | .slot b q sl =>
    (Tab.find s.blocks b).bind fun B => (Tab.find s.quires (quireKey b q)).bind fun Q =>
      if (Q.slot sl).free then none
      else some { u := u, b := b, q := q, sl := sl, fe := false, blk := B, qr := Q, st := (Q.slot sl).ctl,
                  mask := (Q.slot sl).mask, word := w }

namespace Issuer

def key (I : Issuer) : Nat := quireKey I.b I.q
def ter (I : Issuer) : Bool := I.qr.ter
/-- Logical threads of the quire in its mode (R19). -/
def w (I : Issuer) : Nat := if I.qr.ter then 32 else 96
def atU (I : Issuer) : Bool := I.st.level == .u
def fpctl (I : Issuer) : Word := if I.fe then I.blk.front.fpctl else I.qr.fpctl
def ftz (I : Issuer) : Bool := I.fpctl.getLsbD 3
def tensor (I : Issuer) : Nat := bits I.fpctl.toNat 16 12

end Issuer

/-- The logical threads of a lane mask, ascending (R19). -/
def threadsOf (ter : Bool) (m : Mask) : List Nat :=
  if ter then (List.range 32).filter fun i => m.getLsbD (3 * i) else (List.range 96).filter fun i => m.getLsbD i

/-- The lanes of a logical thread. -/
def lanesOf (ter : Bool) (i : Nat) : List Nat := if ter then [3 * i, 3 * i + 1, 3 * i + 2] else [i]

def threadOf (ter : Bool) (lane : Nat) : Nat := if ter then lane / 3 else lane

def maskOf (l : List Nat) : Mask := l.foldl (fun m i => m ||| (1#96 <<< i)) 0

def maskOfThreads (ter : Bool) (l : List Nat) : Mask := maskOf (l.flatMap (lanesOf ter))

def majTriples (m : Mask) : Mask :=
  maskOfThreads true ((List.range 32).filter fun i =>
    2 ≤ ([3 * i, 3 * i + 1, 3 * i + 2].filter fun l => m.getLsbD l).length)

def wholeTriples (m : Mask) : Bool := m == majTriples m

/-- A mask or predicate that comes from memory: in ternion mode each triple takes the majority of its bits, so that it
holds whole triples (R19, 11_ternion.md R241; log 77). -/
def fitTriples (ter : Bool) (m : Mask) : Mask := if ter then majTriples m else m

/-- The lanes of a trap: in ternion mode a triple with one of them has all three (R19, 11_ternion.md R241; log 77). -/
def growTriples (ter : Bool) (m : Mask) : Mask :=
  if ter then maskOfThreads true ((List.range 32).filter fun i => [3 * i, 3 * i + 1, 3 * i + 2].any fun l => m.getLsbD l) else m

def Issuer.threads (I : Issuer) : List Nat := threadsOf I.ter I.mask

/-- The global logical thread index of thread i (R20). -/
def Issuer.global (I : Issuer) (i : Nat) : Nat := (I.blk.idx * I.blk.nq + I.q) * I.w + i

/-- ICNT of thread i at issue (R219, R232). -/
def Issuer.icnt (I : Issuer) (i : Nat) : Word := Tab.get 0 I.qr.icnt i

/-! ## Registers (R33, R193 to R196, R366) -/

def VReg.at (v : VReg) (l : Nat) : Word := v.lanes.getD l 0

/-- A vector register; v64 to v127 stand in the pair's extended set. -/
def Issuer.vreg (I : Issuer) (r : Nat) : VReg :=
  if r < 64 then Tab.get {} I.qr.v r else Tab.get {} (Tab.get [] I.blk.ext (I.q / 2)) r

def putV (s : State) (I : Issuer) (r : Nat) (v : VReg) : State :=
  if r < 64 then s.updQuire I.key fun Q => { Q with v := Tab.set Q.v r v }
  else s.updBlock I.b fun B => { B with ext := Tab.set B.ext (I.q / 2) (Tab.set (Tab.get [] B.ext (I.q / 2)) r v) }

/-- Lane values after a write of the lanes in m. -/
def mergeLanes (old : List Word) (m : Mask) (f : Nat → Word) : List Word :=
  (List.range 96).map fun l => if m.getLsbD l then f l else old.getD l 0

/-- Writes the lanes in m, and the register becomes full without a note (R196). -/
def writeV (s : State) (I : Issuer) (r : Nat) (m : Mask) (f : Nat → Word) : State :=
  putV s I r { lanes := mergeLanes (I.vreg r).lanes m f }

/-- s24 to s31 at S are the slot's bank (R366). -/
def Issuer.sbank (I : Issuer) (r : Nat) : Bool := I.st.level != .u && 24 ≤ r

def Issuer.sreg (I : Issuer) (r : Nat) : Reg Word :=
  if I.sbank r then
    let x := Tab.get { val := 0 } I.st.bank r
    { val := x.val.setWidth 32, full := x.full, note := x.note }
  else Tab.get { val := 0 } I.qr.s r

def putS (s : State) (I : Issuer) (r : Nat) (v : Reg Word) : State :=
  if I.sbank r then updStrand s I.u fun c => { c with bank := Tab.set c.bank r { val := v.val.setWidth 64, full := v.full, note := v.note } }
  else s.updQuire I.key fun Q => { Q with s := Tab.set Q.s r v }

def writeS (s : State) (I : Issuer) (r : Nat) (v : Word) : State := putS s I r { val := v }

/-- Writes an even pair, the low half first. -/
def writeS2 (s : State) (I : Issuer) (r : Nat) (v : DWord) : State :=
  writeS (writeS s I r (v.setWidth 32)) I (r + 1) (v.extractLsb' 32 32)

def Issuer.s2 (I : Issuer) (r : Nat) : DWord := (I.sreg (r + 1)).val ++ (I.sreg r).val

/-- k0 reads all-ones and is always full. -/
def Issuer.kreg (I : Issuer) (r : Nat) : Reg Mask := if r == 0 then { val := BitVec.allOnes 96 } else Tab.get { val := 0 } I.qr.k r

def writeK (s : State) (I : Issuer) (r : Nat) (v : Mask) : State :=
  if r == 0 then s else s.updQuire I.key fun Q => { Q with k := Tab.set Q.k r { val := v } }

def Issuer.creg (I : Issuer) (r : Nat) : Reg Bool :=
  Tab.get { val := false } (if I.fe then I.blk.front.c else I.qr.c) r

def writeC (s : State) (I : Issuer) (r : Nat) (v : Bool) : State :=
  if I.fe then s.updBlock I.b fun B => { B with front := { B.front with c := Tab.set B.front.c r { val := v } } }
  else s.updQuire I.key fun Q => { Q with c := Tab.set Q.c r { val := v } }

/-- x26 to x30 at S are the context's bank (R366). -/
def Issuer.xbank (I : Issuer) (r : Nat) : Bool := I.st.level != .u && 26 ≤ r && r ≤ 30

/-- x0 reads zero and is always full. -/
def Issuer.xreg (I : Issuer) (r : Nat) : Reg DWord :=
  if r == 0 then { val := 0 }
  else if I.xbank r then Tab.get { val := 0 } I.st.bank r
  else Tab.get { val := 0 } I.blk.front.x r

/-- A write to x0 is discarded. -/
def putX (s : State) (I : Issuer) (r : Nat) (v : Reg DWord) : State :=
  if r == 0 then s
  else if I.xbank r then updStrand s I.u fun c => { c with bank := Tab.set c.bank r v }
  else s.updBlock I.b fun B => { B with front := { B.front with x := Tab.set B.front.x r v } }

def writeX (s : State) (I : Issuer) (r : Nat) (v : DWord) : State := putX s I r { val := v }

/-- A 64-bit operand of the ENG and SYS classes: an x register, or an even s pair (R40, R43). -/
def Issuer.r64 (I : Issuer) (r : Nat) : DWord := if I.fe then (I.xreg r).val else I.s2 r

def write64 (s : State) (I : Issuer) (r : Nat) (v : DWord) : State := if I.fe then writeX s I r v else writeS2 s I r v

/-- Marks a register empty at the issue of a long-latency producer; an old note goes (R195, R196). -/
def emptyV (s : State) (I : Issuer) (r : Nat) : State := putV s I r { I.vreg r with full := false, note := none }
def emptyS (s : State) (I : Issuer) (r : Nat) : State :=
  putS s I r { I.sreg r with full := false, note := none }
def emptyX (s : State) (I : Issuer) (r : Nat) : State :=
  if r == 0 then s else putX s I r { I.xreg r with full := false, note := none }
def empty64 (s : State) (I : Issuer) (r : Nat) : State :=
  if I.fe then emptyX s I r else emptyS (emptyS s I r) I (r + 1)

/-- The notes that the registers of a 64-bit operand hold. -/
def Issuer.notes64 (I : Issuer) (r : Nat) : List (Option Note) :=
  if I.fe then [(I.xreg r).note] else [(I.sreg r).note, (I.sreg (r + 1)).note]

/-- A 64-bit operand is as it was before an instruction emptied it: full, or empty with the note that it held. -/
def unempty64 (s : State) (I : Issuer) (r : Nat) (old : List (Option Note)) : State :=
  let n := old.getD 0 none
  let m := old.getD 1 none
  if I.fe then putX s I r { val := (I.xreg r).val, full := n.isNone, note := n }
  else putS (putS s I r { val := (I.sreg r).val, full := n.isNone, note := n }) I (r + 1)
    { val := (I.sreg (r + 1)).val, full := m.isNone, note := m }

/-- Registers r to r+n-1 lie in the quire's allocation (R194): the base set, or the extended set under the pair lock. -/
def Issuer.vOk (I : Issuer) (r n : Nat) : Bool :=
  r + n ≤ 8 * I.blk.node.baseregs && r + n ≤ 64 ||
  (64 ≤ r && r + n ≤ 128 && I.blk.node.ext && (Tab.get {} I.blk.locks (I.q / 2)).holder == some I.q)

/-- An even pair, or a single register, within the allocation. -/
def Issuer.vWide (I : Issuer) (wide : Bool) (r : Nat) : Bool :=
  if wide then r % 2 == 0 && I.vOk r 2 else I.vOk r 1

/-! ## Sources (R34, R196) -/

structure SrcSt where
  full : Bool
  note : Option Note
  e : Bool := false
  deriving DecidableEq, Repr

def Issuer.srcV (I : Issuer) (r : Nat) (e : Bool := false) : SrcSt := { full := (I.vreg r).full, note := (I.vreg r).note, e := e }
def Issuer.srcS (I : Issuer) (r : Nat) : SrcSt := { full := (I.sreg r).full, note := (I.sreg r).note }
def Issuer.srcK (I : Issuer) (r : Nat) : SrcSt := { full := (I.kreg r).full, note := (I.kreg r).note }
def Issuer.srcC (I : Issuer) (r : Nat) : SrcSt := { full := (I.creg r).full, note := (I.creg r).note }
def Issuer.srcX (I : Issuer) (r : Nat) : SrcSt := { full := (I.xreg r).full, note := (I.xreg r).note }
def Issuer.srcV2 (I : Issuer) (wide : Bool) (r : Nat) (e : Bool := false) : List SrcSt :=
  if wide then [I.srcV r e, I.srcV (r + 1) e] else [I.srcV r e]
def Issuer.srcS2 (I : Issuer) (r : Nat) : List SrcSt := [I.srcS r, I.srcS (r + 1)]
/-- A 64-bit operand of ENG and SYS. -/
def Issuer.src64 (I : Issuer) (r : Nat) : List SrcSt := if I.fe then [I.srcX r] else I.srcS2 r

/-- The trap of a pending-error note (R61, R78, R439); log 12 for the mask of a refused access. -/
def noteTrap (mask : Mask) (n : Note) : Trap :=
  let a := n.addr &&& 0xFFFFFFFFFFFFF#64
  match n.kind with
  | .memerr => { cause := .memerr, info := a, detail := BitVec.ofNat 16 n.memkind, load := n.load }
  | .gpaRefused =>
    { cause := .pageFault, info := a ||| (5#64 <<< 52) ||| (3#64 <<< 55)
      mask := if n.lanes &&& mask == 0 then none else some (n.lanes &&& mask) }
  | .align => { cause := .align, info := a }
  | .protection => { cause := .protection, info := n.addr }

inductive Ready where
  | ok
  | stall
  | trap (t : Trap)
  deriving DecidableEq, Repr

/-- The order of R196 over the sources of one instruction. -/
def checkSrcs (I : Issuer) (l : List SrcSt) : Ready :=
  if l.any fun x => !x.full && x.note.isNone && x.e then .trap { cause := .emptySource, info := I.word.setWidth 64 }
  else match (l.filterMap fun x => if x.full then none else x.note) with
    | n :: _ => .trap (noteTrap I.mask n)
    | [] => if l.all (·.full) then .ok else .stall

/-- A destination that an outstanding producer still owes stalls its writer (R196). -/
def owed (l : List SrcSt) : Bool := l.any fun x => !x.full && x.note.isNone

/-! ## Taking a trap (R362 to R367) -/

def Cause.code : Cause → Nat
  | .illegalClause => 0x01 | .illegalOp => 0x02 | .illegalOperand => 0x03 | .illegalConvergence => 0x04
  | .modeMismatch => 0x05 | .emptySource => 0x06 | .pageFault => 0x07 | .protection => 0x08 | .secondStage => 0x09
  | .memerr => 0x0A | .align => 0x0B | .bounds => 0x0C | .instabCancel => 0x0D | .instabCompare => 0x0E
  | .instabZdiv => 0x0F | .detviol => 0x10 | .sigMismatch => 0x11 | .accOwner => 0x12 | .xlockViol => 0x13
  | .xlockStall => 0x14 | .gateDenied => 0x15 | .gateRate => 0x16 | .gateClosed => 0x17 | .gateBad => 0x18 | .trap => 0x19

def Cause.level : Cause → Level
  | .instabCancel => .u | .instabCompare => .u | .instabZdiv => .u | .sigMismatch => .u | .trap => .u
  | .secondStage => .h
  | _ => .s

def Level.num : Level → Nat
  | .u => 0 | .s => 1 | .h => 2

def Level.top (a b : Level) : Level := if a.num < b.num then b else a

/-- Where a trap is taken: its level, its vector, and whether it was escalated (R367, R381). -/
def trapTarget (R : Option CtxRec) (fe : Bool) (st : Strand) (c : Cause) : Level × DWord × Bool :=
  match R with
  | none => (.h, 0, true)
  | some R =>
    let uvec := if fe then R.uvecf else R.uvecq
    let svec := if fe then R.svecf else R.svecq
    let want := Level.top c.level st.level
    let toS := want == .u && (uvec == 0 || st.trapU.inHandler)
    let lvl : Level := if toS then .s else want
    let toH := lvl == .s && (svec == 0 || st.trapS.inHandler)
    if toH || lvl == .h then (.h, 0, toH || toS)
    else (lvl, if lvl == .u then uvec else svec, toS)

/-- TRAPCAUSE (R363). -/
def trapCauseWord (t : Trap) (prev : Level) (sl : Nat) (esc : Bool) : Word :=
  BitVec.ofNat 32 (t.cause.code + prev.num <<< 8 + sl <<< 10 + (if esc then 2048 else 0) + t.detail.toNat <<< 16)

/-- The level's trap state at an entry (R365): the registers as they stood and k15 are saved, the new ones written. -/
def enterLevel (L : LevelTrap) (st : Strand) (r : TrapRegs) (k15 : Mask) (mask : Mask) : LevelTrap :=
  { regs := r, saved := L.regs, savedK15 := k15, inHandler := true, entryMask := mask, entryPc := st.pc
    hdr := st.hdr, left := st.left, cls := st.cls }

/-- The unit at its handler. At S its bank is full at entry (R366). -/
def enterStrand (st : Strand) (lvl : Level) (vec : DWord) (r : TrapRegs) (k15 : Mask) (mask : Mask) : Strand :=
  let st' : Strand := { st with pc := vec, left := 0, level := lvl, wait := .none }
  if lvl == .u then { st' with trapU := enterLevel st.trapU st r k15 mask }
  else { st' with
         trapS := enterLevel st.trapS st r k15 mask
         bank := if st.level == .u then st.bank.map fun e : Nat × Reg DWord => (e.1, { val := e.2.val }) else st.bank }

/-- Last-page registers of a slot's lanes go at every entry to or return from S or H (R73). -/
def dropLastPages (Q : Quire) (mask : Mask) : Quire := { Q with lastPage := Q.lastPage.filter fun e => !mask.getLsbD e.1 }

def dropPages (s : State) (u : UnitId) (mask : Mask) : State :=
  match u with
  | .front _ => s
  | .slot b q _ => s.updQuire (quireKey b q) fun Q => dropLastPages Q mask

/-- Takes a trap at the unit's pc. A cause that reaches H holds the unit, writes the copy of level H and tells H; MEMERR of
core SRAM fails the block instead (R386). -/
def takeTrap (s : State) (u : UnitId) (t : Trap) : State :=
  match unitStrand s u, Tab.find s.blocks (unitBlock u) with
  | some st, some B =>
    if t.cause == .memerr && t.detail == 3 then failBlock (journalErr s B t) (unitBlock u)
    else
      let fe := match u with
        | .front _ => true
        | _ => false
      let sl := match u with
        | .slot _ _ sl => sl
        | _ => 0
      let Q0 : Quire := match u with
        | .slot b q _ => (Tab.find s.quires (quireKey b q)).getD {}
        | _ => {}
      let smask : Mask := if fe then 0 else (Q0.slot sl).mask
      let tm : Mask := if fe then 0 else growTriples Q0.ter (t.mask.getD smask)
      let R := ctxRecord s B.part B.ctx
      let T := trapTarget R.2 fe st t.cause
      let s := R.1
      let s := if t.cause == .memerr then journalErr s B t else s
      let regs : TrapRegs := { pc := st.pc, cause := trapCauseWord t st.level sl T.2.2, mask := tm, info := t.info }
      if T.1 == .h then
        let s := (updStrand s u fun c => { c with wait := .heldAtH { t with mask := some tm } st.pc, trapH := regs }).tell
          (.trapAtH u t.cause T.2.2)
        dropPages s u smask
      else
        match u with
        | .front _ => updStrand s u fun c => enterStrand c T.1 T.2.1 regs 0 0
        | .slot b q sl => s.updQuire (quireKey b q) fun Q =>
            let Q' := Q.setSlot sl { Q.slot sl with
              ctl := enterStrand (Q.slot sl).ctl T.1 T.2.1 regs (Tab.get { val := 0 } Q.k 15).val smask }
            let Q' := { Q' with k := Tab.set Q'.k 15 { val := tm } }
            if T.1 == .s then dropLastPages Q' smask else Q'
  | _, _ => s

/-- The level's trap state of a strand; H keeps none. -/
def Strand.trapOf (st : Strand) : LevelTrap := if st.level == .u then st.trapU else st.trapS

def levelOfPrev (c : Word) : Level :=
  match bits c.toNat 8 2 with
  | 0 => .u
  | 1 => .s
  | _ => .h

/-- Return from a handler (R371): the unit takes PREV and continues at TRAPPC, mid-clause when TRAPPC is the entry's. -/
def returnStrand (st : Strand) : Strand :=
  let L := st.trapOf
  let same := L.regs.pc == L.entryPc
  let back : LevelTrap := { L with regs := L.saved, inHandler := false }
  let st' : Strand :=
    { st with
      pc := L.regs.pc
      hdr := L.hdr
      left := if same then L.left else 0
      cls := L.cls
      level := levelOfPrev L.regs.cause }
  if st.level == .u then { st' with trapU := back } else { st' with trapS := back }

/-- ERET's effect on the unit: k15 and the level's registers as before the entry. A slot without lanes is free again. -/
def takeReturn (s : State) (u : UnitId) : State :=
  match u with
  | .front _ => updStrand s u returnStrand
  | .slot b q sl => s.updQuire (quireKey b q) fun Q =>
      let st := (Q.slot sl).ctl
      let Q' := Q.setSlot sl { Q.slot sl with ctl := returnStrand st, popTrap := false }
      let Q' := { Q' with k := Tab.set Q'.k 15 { val := fitTriples Q.ter st.trapOf.savedK15 } }
      if st.level == .s then dropLastPages Q' (Q.slot sl).mask else Q'

/-! ## How a word ends -/

inductive Act where
  /-- the word completes -/
  | done (s : State)
  /-- the word stalls in place: nothing has changed (R30) -/
  | stall
  /-- the word has issued and its unit waits -/
  | wait (s : State) (w : Wait)
  /-- the word traps and has had no effect of its own -/
  | trap (t : Trap)
  /-- the word traps; stores that it has made keep their values (04_translation.md R82) -/
  | trapIn (s : State) (t : Trap)
  /-- the word completes, and then a trap is due (R239, R306) -/
  | after (s : State) (t : Trap)
  /-- the word completes and control goes to pc -/
  | jump (s : State) (pc : DWord)
  /-- the unit's control state is already what the word makes it -/
  | fixed (s : State)

/-- ICNT of every thread in the issuing slot's mask advances at U (R232). -/
def countIcnt (s : State) (I : Issuer) : State :=
  if I.fe || !I.atU then s
  else s.updQuire I.key fun Q =>
    { Q with icnt := I.threads.foldl (fun t i => Tab.set t i (Tab.get 0 t i + 1)) Q.icnt }

/-- The unit goes on to the next word of its clause. -/
def nextWord (s : State) (u : UnitId) : State :=
  updStrand s u fun c => { c with pc := c.pc + 4, left := c.left - 1, wait := .none }

/-- The holder of a pair lock has issued a word: the stall counter returns to 0 (R201). -/
def touchLock (s : State) (u : UnitId) : State :=
  match u with
  | .front _ => s
  | .slot b q _ => s.updBlock b fun B =>
      match Tab.find B.locks (q / 2) with
      | some L => if L.holder == some q then { B with locks := Tab.set B.locks (q / 2) { L with stall := 0 } } else B
      | none => B

def complete (s : State) (I : Issuer) : State := nextWord (countIcnt s I) I.u

def Act.finish (a : Act) (s0 : State) (I : Issuer) : Host.Outcome State Fault Refusal :=
  match a with
  | .done s => .next (complete s I)
  | .stall => .next s0
  | .wait s w => .next (updStrand s I.u fun c => { c with wait := w })
  | .trap t => .next (takeTrap s0 I.u t)
  | .trapIn s t => .next (takeTrap s I.u t)
  | .after s t => .next (takeTrap (complete s I) I.u t)
  | .jump s pc => .next (updStrand (countIcnt s I) I.u fun c => { c with pc := pc, left := 0, wait := .none })
  | .fixed s => .next s

/-- Traps whose TRAPINFO is the word. -/
def Issuer.bad (I : Issuer) (c : Cause) : Act := .trap { cause := c, info := I.word.setWidth 64 }

/-- Sources, then destinations, then the effect. -/
def withSrcs (I : Issuer) (srcs dsts : List SrcSt) (k : Unit → Act) : Act :=
  match checkSrcs I srcs with
  | .trap t => .trap t
  | .stall => .stall
  | .ok => if owed dsts then .stall else k ()

/-- The feature an instruction belongs to (17_partitions.md R407); 0 is the base. -/
def featureOf : Instr → Nat
  | .dig _ => 1 | .tmean _ => 1 | .tspread _ => 1 | .sibsel _ => 1 | .tchk _ => 1 | .ldt _ => 1 | .stt _ => 1
  | .tmode f => if f.mode == 1 then 1 else 0
  | .dadd _ => 2 | .dsub _ => 2 | .dmul _ => 2 | .dfma _ => 2 | .dmin _ => 2 | .dmax _ => 2 | .ddiv _ => 2 | .dsqrt _ => 2
  | .dcmp _ => 2
  | .mmab _ => 3 | .mmah _ => 3 | .mzero _ => 3 | .mlda _ => 3 | .msta _ => 3 | .mdrv _ => 3 | .mdrs _ => 3
  | .msig _ => 3 | .msigxSt _ => 3 | .msigxCmp _ => 3 | .mtrip _ => 3
  | .mmas8 _ => 4 | .mmas4 _ => 4 | .mcvt _ => 4
  | .xacq => 6 | .xrel => 6
  | .hgsend _ => 7 | .hgsig _ => 7 | .hgwait _ => 7 | .hgtake _ => 7 | .hgqry _ => 7
  | .cpyr _ => 8
  | .cpym _ => 9
  | .migr _ => 11
  | .seal _ => 13 | .unseal _ => 13
  | _ => 0

/-- An instruction of a narrow-matrix feature needs the matrix feature too, being MAT class. -/
def enabledAt (s : State) (pkg : Nat) (i : Instr) : Bool :=
  featureOn s pkg (featureOf i) && (featureOf i != 4 || featureOn s pkg 3)

/-- The meaning of a word that quires issue. -/
def onQuire (i : Instr) (s : State) (k : Issuer → Act) : Host.Outcome State Fault Refusal :=
  match issuerOf s s.subject.unit (wordOf i) with
  | none => .fault .noIssuer
  | some I =>
    if I.fe then .fault .noIssuer
    else if !enabledAt s I.blk.pkg i then (I.bad .illegalOp).finish s I
    else (k I).finish s I

/-- The meaning of a word that front-end contexts issue. -/
def onFront (i : Instr) (s : State) (k : Issuer → Act) : Host.Outcome State Fault Refusal :=
  match issuerOf s s.subject.unit (wordOf i) with
  | none => .fault .noIssuer
  | some I =>
    if !I.fe then .fault .noIssuer
    else if !enabledAt s I.blk.pkg i then (I.bad .illegalOp).finish s I
    else (k I).finish s I

/-- The meaning of a word that both issue (SYS and ENG). -/
def onUnit (i : Instr) (s : State) (k : Issuer → Act) : Host.Outcome State Fault Refusal :=
  match issuerOf s s.subject.unit (wordOf i) with
  | none => .fault .noIssuer
  | some I => if !enabledAt s I.blk.pkg i then (I.bad .illegalOp).finish s I else (k I).finish s I

/-! ## Statistics and overflow flags (R230, R251, R326) -/

/-- Adds to one of the six counts of a tensor id of the block. -/
def addStat (s : State) (b tensor k n : Nat) : State :=
  if n == 0 then s else s.updBlock b fun B =>
    let old := Tab.get [0, 0, 0, 0, 0, 0] B.stats tensor
    { B with stats := Tab.set B.stats tensor (old.set k (old.getD k 0 + n)) }

/-- Sets bits of the block's OVF. -/
def setOvf (s : State) (b : Nat) (m : Word) : State := if m == 0 then s else s.updBlock b fun B => { B with ovf := B.ovf ||| m }

/-- Completes a waiting word of a unit (an event has ended its wait). -/
def endWait (s : State) (u : UnitId) (w : Word) (f : State → Issuer → State) : Host.Outcome State Fault Refusal :=
  match issuerOf s u w with
  | none => .next s
  | some I => .next (complete (f s I) I)

/-- A free value and the state after it is drawn (log 2). -/
def drawBool (s : State) : Bool × State := (Config.freeBool s.freeCtr, { s with freeCtr := s.freeCtr + 1 })
def drawWord (s : State) : Word × State := (Config.freeWord s.freeCtr, { s with freeCtr := s.freeCtr + 1 })

end Sys2Proof.Machine
end

