-- ==== Sys2Proof/Machine/Flags.lean ====
section
/-! DEFINITION. Condition codes (02_instruction_words.md R45), the majority of a thread's siblings (11_ternion.md R241,
R242), the events that arithmetic counts (10_numbers.md R230) and the instability conditions (11_ternion.md R237 to
R240). -/

namespace Sys2Proof.Machine

/-- The relations of R45 on w-bit integers; signed conditions follow sg, and codes 6 to 9 are always unsigned. -/
def condInt (cond : Nat) (sg : Bool) (w a b : Nat) : Bool :=
  let lt := if sg then decide (toSigned w a < toSigned w b) else decide (a < b)
  match cond with
  | 0 => a == b
  | 1 => a != b
  | 2 => lt
  | 3 => lt || a == b
  | 4 => !lt && a != b
  | 5 => !lt
  | 6 => decide (a < b)
  | 7 => decide (a ≤ b)
  | 8 => decide (b < a)
  | 9 => decide (b ≤ a)
  | _ => false

/-- The relations of R45 on values; −0 = +0, and NaNs make only NE and UN true. -/
def condFp (cond : Nat) (a b : FV) : Bool :=
  let un := a.isNan || b.isNan
  let c := fvCmp a b
  match cond with
  | 0 => !un && c == 0
  | 1 => un || c != 0
  | 2 => !un && c == -1
  | 3 => !un && c != 1
  | 4 => !un && c == 1
  | 5 => !un && c != -1
  | 10 => un
  | 11 => !un
  | _ => false

/-- MAJ3 of a thread's three values; a single-lane thread's value is its own. -/
def majority (ter : Bool) (i : Nat) (f : Nat → Nat) : Option Nat :=
  if ter then maj3 (f (3 * i)) (f (3 * i + 1)) (f (3 * i + 2)) else some (f i)

/-- The threads whose siblings all differ. -/
def noMajority (I : Issuer) (f : Nat → Nat) : List Nat := I.threads.filter fun i => (majority I.ter i f).isNone

def Issuer.badThreads (I : Issuer) (l : List Nat) : Act :=
  .trap { cause := .illegalOperand, info := I.word.setWidth 64, mask := some (maskOfThreads I.ter l) }

/-! ## Events of lane results -/

/-- A lane's result with the events of R230, and whether it is infinite or NaN (R326). -/
structure LaneRes where
  out : Nat := 0
  sat : Bool := false
  flush : Bool := false
  nan : Bool := false
  nonfin : Bool := false
  deriving DecidableEq, Repr

/-- The results of the lanes that execute, by lane. -/
abbrev Results := Tab LaneRes

def Issuer.lanes (I : Issuer) : List Nat := I.threads.flatMap (lanesOf I.ter)

def Issuer.results (I : Issuer) (f : Nat → LaneRes) : Results := I.lanes.map fun l => (l, f l)

/-- Logical threads with a lane that meets p (R230: once per thread). -/
def countThreads (I : Issuer) (r : Results) (p : LaneRes → Bool) : Nat :=
  (I.threads.filter fun i => (lanesOf I.ter i).any fun l => p (Tab.get {} r l)).length

/-- Adds a vector result's events to the block's statistics, and its non-finite results to OVF. -/
def countEvents (s : State) (I : Issuer) (r : Results) : State :=
  let s := addStat s I.b I.tensor 0 (countThreads I r (·.sat))
  let s := addStat s I.b I.tensor 1 (countThreads I r (·.flush))
  let s := addStat s I.b I.tensor 2 (countThreads I r (·.nan))
  if r.any (·.2.nonfin) then setOvf s I.b (1#32 <<< (I.tensor % 32)) else s

/-! ## Rounding of a VEC instruction (R215, R216, R218, R219, R257) -/

/-- The rounding numbered k of thread i, for sibling j. -/
def Issuer.round (I : Issuer) (i j k : Nat) : Rm :=
  let g := BitVec.ofNat 32 (I.global i)
  if I.ter then
    let w := gherowa (I.blk.seed + BitVec.ofNat 32 (k / 10)) 0 g (I.icnt i)
    if w.getLsbD (3 * (k % 10) + j) then .rup else .rdn
  else
    match bits I.fpctl.toNat 0 3 with
    | 0 => .rne
    | 1 => .rtz
    | 2 => .rup
    | 3 => .rdn
    | _ => .sr ((gherowa (I.blk.seed + BitVec.ofNat 32 k) 3 g (I.icnt i)).toNat % 65536)

/-- The rounding numbered k charged to the thread of a lane. -/
def Issuer.laneRound (I : Issuer) (l k : Nat) : Rm := I.round (threadOf I.ter l) (if I.ter then l % 3 else 0) k

/-! ## Instability (R237 to R240) -/

/-- A slot inside an instability handler counts every condition and is never trapped (R239). -/
def inInstabHandler (st : Strand) : Bool :=
  let is := fun L : LevelTrap => L.inHandler && (let c := bits L.regs.cause.toNat 0 8; 0x0D ≤ c && c ≤ 0x0F)
  is st.trapU || is st.trapS

/-- Adds n to the TSTAT field at bit lo, saturating at 1,023 (R240). -/
def bumpTstat (v : Word) (lo n : Nat) : Word :=
  let new := min 1023 (bits v.toNat lo 10 + n)
  BitVec.ofNat 32 (v.toNat - bits v.toNat lo 10 <<< lo + new <<< lo)

/-- An instability condition: its number in TCTL, TSTAT and the statistics: 0 CANCEL, 1 COMPARE, 2 ZDIV. -/
def instabCause (n : Nat) : Cause :=
  match n with
  | 0 => .instabCancel
  | 1 => .instabCompare
  | _ => .instabZdiv

/-- What meeting a condition does after the instruction has completed; digits is DIGITS of the lowest thread. -/
def instability (s : State) (I : Issuer) (n : Nat) (met : List Nat) (digits : Nat) : Act :=
  if met.isEmpty || !I.ter then .done s
  else
    let act := bits I.qr.tctl.toNat (2 * n) 2
    let act := if inInstabHandler I.st then 1 else act
    if act == 0 || act == 3 then .done s
    else
      let s := addStat s I.b I.tensor (3 + n) met.length
      if act == 1 then .done (s.updQuire I.key fun Q => { Q with tstat := bumpTstat Q.tstat (10 * n) met.length })
      else .after s { cause := instabCause n, mask := some (maskOfThreads true met)
                      info := (I.st.pc &&& 0xFFFFFFFFFFFFF#64) ||| (BitVec.ofNat 64 digits <<< 52) }

end Sys2Proof.Machine
end

