-- ==== Sys2Proof/Machine/Operands.lean ====
section
/-! DEFINITION. The operand forms of the VEC and uniform instructions (02_instruction_words.md R35, 12_vector.md R254):
v registers, the uniform operand of m = 1, even pairs, and the checks every form shares. -/

namespace Sys2Proof.Machine

/-- A lane's 32- or 64-bit value: the low half in the even register. -/
def Issuer.vval (I : Issuer) (wide : Bool) (r l : Nat) : Nat :=
  ((I.vreg r).at l).toNat + (if wide then ((I.vreg (r + 1)).at l).toNat <<< 32 else 0)

def Issuer.sval (I : Issuer) (wide : Bool) (r : Nat) : Nat := if wide then (I.s2 r).toNat else (I.sreg r).val.toNat

/-- The second operand: register vb, or with m = 1 the s register in its low five bits, the same in every lane. -/
structure Opnd where
  uni : Bool
  r : Nat
  deriving DecidableEq, Repr

def opndB (m : BitVec 1) (vb : BitVec 7) : Opnd := if m == 1 then { uni := true, r := vb.toNat % 32 } else { uni := false, r := vb.toNat }

def Opnd.val (o : Opnd) (I : Issuer) (wide : Bool) (l : Nat) : Nat :=
  if o.uni then I.sval wide o.r else I.vval wide o.r l

def Opnd.ok (o : Opnd) (I : Issuer) (wide : Bool) : Bool :=
  if o.uni then !wide || o.r % 2 == 0 else I.vWide wide o.r

def Opnd.srcs (o : Opnd) (I : Issuer) (wide e : Bool) : List SrcSt :=
  if o.uni then (if wide then I.srcS2 o.r else [I.srcS o.r]) else I.srcV2 wide o.r e

/-- Sibling values of thread i of a register, for the digit counts; a single lane's value counts three times. -/
def Issuer.digits (I : Issuer) (F : Fmt) (wide : Bool) (r i : Nat) : Nat :=
  if I.ter then digCount F (I.vval wide r (3 * i)) (I.vval wide r (3 * i + 1)) (I.vval wide r (3 * i + 2))
  else let v := I.vval wide r i; digCount F v v v

/-- A uniform operand counts as three equal siblings: d = p (R238). -/
def Opnd.digits (o : Opnd) (I : Issuer) (F : Fmt) (wide : Bool) (i : Nat) : Nat :=
  if o.uni then F.p else I.digits F wide o.r i

/-- Writes lane results to a register, or to the halves of a pair. -/
def writeLanes (s : State) (I : Issuer) (wide : Bool) (r : Nat) (m : Mask) (f : Nat → Nat) : State :=
  let s := writeV s I r m fun l => BitVec.ofNat 32 (f l)
  if wide then writeV s I (r + 1) m fun l => BitVec.ofNat 32 (f l >>> 32) else s

/-- Which of the operands of an F.VV instruction it reads. -/
structure Shape where
  /-- vb is an operand -/
  b : Bool := true
  /-- vd is an operand too -/
  d : Bool := false
  wide : Bool := false
  deriving DecidableEq, Repr

/-- The register checks of an F.VV instruction (R255 order 2). -/
def Shape.ok (h : Shape) (I : Issuer) (f : VV) : Bool :=
  I.vWide h.wide f.va.toNat && I.vWide h.wide f.vd.toNat && (!h.b || (opndB f.m f.vb).ok I h.wide)

def Shape.srcs (h : Shape) (I : Issuer) (f : VV) : List SrcSt :=
  I.srcV2 h.wide f.va.toNat (f.ea == 1) ++
    (if h.b then (opndB f.m f.vb).srcs I h.wide (f.eb == 1) else []) ++
    (if h.d then I.srcV2 h.wide f.vd.toNat else [])

/-- The frame of an F.VV instruction: checks, sources, destination, then its effect. -/
def vvFrame (h : Shape) (I : Issuer) (f : VV) (k : Unit → Act) : Act :=
  if !h.ok I f then I.bad .illegalOperand
  else withSrcs I (h.srcs I f) (I.srcV2 h.wide f.vd.toNat) k

/-- A 32-bit integer operation of each lane: va, vb, vd. -/
def vvInt (i : Instr) (h : Shape) (f : VV) (s : State) (g : Word → Word → Word → Word) : Host.Outcome State Fault Refusal :=
  onQuire i s fun I => vvFrame h I f fun _ =>
    .done (writeV s I f.vd.toNat I.mask fun l =>
      g ((I.vreg f.va.toNat).at l) (BitVec.ofNat 32 ((opndB f.m f.vb).val I false l)) ((I.vreg f.vd.toNat).at l))

/-- The frame of an F.VI instruction and its effect. -/
def viInt (i : Instr) (f : VI) (s : State) (g : Word → Word → Word) : Host.Outcome State Fault Refusal :=
  onQuire i s fun I =>
    if !(I.vOk f.va.toNat 1 && I.vOk f.vd.toNat 1) then I.bad .illegalOperand
    else withSrcs I [I.srcV f.va.toNat (f.ea == 1)] [I.srcV f.vd.toNat] fun _ =>
      .done (writeV s I f.vd.toNat I.mask fun l => g ((I.vreg f.va.toNat).at l) (f.imm.signExtend 32))

/-- One lane of a floating-point instruction (R214, R270): inputs after FTZ, one rounding, its events. -/
def fpLane (F : Fmt) (ftz : Bool) (rm : Rm) (ins : List Nat) (op : List FV → Exact) : LaneRes :=
  let vs := ins.map (flushIn F ftz)
  let r := flushOut F ftz (op (vs.map (·.1))) rm
  let v := unpack F r.1
  { out := r.1
    flush := r.2 || vs.any (·.2)
    nan := v.isNan && !vs.any (·.1.isNan)
    nonfin := v.isNan || v.isInf }

/-- The operands of an F.VV floating-point instruction in a lane: va, vb, vd as the shape reads them. -/
def Shape.vals (h : Shape) (I : Issuer) (f : VV) (l : Nat) : List Nat :=
  [I.vval h.wide f.va.toNat l] ++ (if h.b then [(opndB f.m f.vb).val I h.wide l] else []) ++
    (if h.d then [I.vval h.wide f.vd.toNat l] else [])

/-- Which instability condition an instruction has (R238). -/
inductive Watch where
  | none | cancel | zdivB | zdivA
  deriving DecidableEq, Repr

/-- The threads that meet an instruction's condition, and DIGITS of the lowest. -/
def watchMet (w : Watch) (h : Shape) (F : Fmt) (I : Issuer) (f : VV) (r : Results) : List Nat × Nat :=
  let dres := fun i => digCount F (Tab.get {} r (3 * i)).out (Tab.get {} r (3 * i + 1)).out (Tab.get {} r (3 * i + 2)).out
  if !I.ter then ([], 0) else
  match w with
  | .none => ([], 0)
  | .cancel =>
    let loss := bits I.qr.tctl.toNat 8 6
    let met := I.threads.filter fun i =>
      let dmin := min (I.digits F h.wide f.va.toNat i)
        (min ((opndB f.m f.vb).digits I F h.wide i) (if h.d then I.digits F h.wide f.vd.toNat i else F.p))
      !((lanesOf true i).any fun l => (Tab.get {} r l).nonfin) && dres i + loss < dmin
    (met, match met with
      | i :: _ => dres i
      | [] => 0)
  | .zdivB => (I.threads.filter fun i => (opndB f.m f.vb).digits I F h.wide i == 0, 0)
  | .zdivA => (I.threads.filter fun i => I.digits F h.wide f.va.toNat i == 0, 0)

def watchNum : Watch → Nat
  | .zdivB => 2
  | .zdivA => 2
  | _ => 0

/-- A floating-point F.VV instruction with one rounding, k = 0 (R270, R273). -/
def vvFp (i : Instr) (h : Shape) (F : Fmt) (w : Watch) (f : VV) (s : State) (op : List FV → Exact) :
    Host.Outcome State Fault Refusal :=
  onQuire i s fun I => vvFrame h I f fun _ =>
    let r := I.results fun l => fpLane F I.ftz (I.laneRound l 0) (h.vals I f l) op
    let s := writeLanes s I h.wide f.vd.toNat I.mask fun l => (Tab.get {} r l).out
    let s := countEvents s I r
    let m := watchMet w h F I f r
    instability s I (watchNum w) m.1 m.2

/-- A minimum or maximum: no rounding (R272). -/
def vvMinMax (i : Instr) (wide : Bool) (F : Fmt) (mx : Bool) (f : VV) (s : State) : Host.Outcome State Fault Refusal :=
  let h : Shape := { wide := wide }
  onQuire i s fun I => vvFrame h I f fun _ =>
    let r := I.results fun l =>
      let a := flushBits F I.ftz (I.vval wide f.va.toNat l)
      let b := flushBits F I.ftz ((opndB f.m f.vb).val I wide l)
      let o := minMaxBits F mx a.1 b.1
      { out := o, flush := a.2 || b.2, nonfin := (unpack F o).isNan || (unpack F o).isInf }
    .done (countEvents (writeLanes s I wide f.vd.toNat I.mask fun l => (Tab.get {} r l).out) I r)

end Sys2Proof.Machine
end

