-- ==== Sys2Proof/Machine/Float.lean ====
section
/-! DEFINITION. Compares, FP32 and FP64 arithmetic, conversions, reductions and the ternion instructions of the VEC
class (12_vector.md R269 to R281, 11_ternion.md R243 to R248). -/

namespace Sys2Proof.Machine

/-! ## Compares (R269) -/

/-- A compare: rel gives each lane's outcome, flushes the inputs flushed in a lane, digits the DIGITS of a thread. -/
def compare (i : Instr) (f : VC) (s : State) (wide : Bool) (rel : Issuer → Nat → Bool) (flushes : Issuer → Nat → List Bool)
    (digits : Issuer → Nat → Nat) : Host.Outcome State Fault Refusal :=
  onQuire i s fun I =>
    let ob := opndB f.m f.vb
    if f.kd == 0 || !(I.vWide wide f.va.toNat && ob.ok I wide) then I.bad .illegalOperand
    else withSrcs I (I.srcV2 wide f.va.toNat (f.e == 1) ++ ob.srcs I wide (f.e == 1)) [I.srcK f.kd.toNat] fun _ =>
      let out : Tab Bool := I.lanes.map fun l => (l, rel I l)
      let res := fun t => if I.ter then
          let a := Tab.get false out (3 * t)
          if a == Tab.get false out (3 * t + 1) || a == Tab.get false out (3 * t + 2) then a else !a
        else Tab.get false out t
      let m := maskOfThreads I.ter (I.threads.filter res)
      let s := writeK s I f.kd.toNat (((I.kreg f.kd.toNat).val &&& ~~~I.mask) ||| m)
      let nf := fun n => (I.threads.filter fun t => (lanesOf I.ter t).any fun l => (flushes I l).getD n false).length
      let s := addStat s I.b I.tensor 1 (nf 0 + nf 1)
      let met := if I.ter then I.threads.filter fun t =>
          !(Tab.get false out (3 * t) == Tab.get false out (3 * t + 1) && Tab.get false out (3 * t) == Tab.get false out (3 * t + 2))
        else []
      instability s I 1 met (digits I (met.headD 0))

def intCompare (i : Instr) (sg : Bool) (f : VC) (s : State) : Host.Outcome State Fault Refusal :=
  compare i f s false
    (fun I l => condInt f.cond.toNat sg 32 (I.vval false f.va.toNat l) ((opndB f.m f.vb).val I false l))
    (fun _ _ => []) (fun _ _ => 0)

def fpCompare (i : Instr) (F : Fmt) (wide : Bool) (f : VC) (s : State) : Host.Outcome State Fault Refusal :=
  compare i f s wide
    (fun I l => condFp f.cond.toNat (flushIn F I.ftz (I.vval wide f.va.toNat l)).1
      (flushIn F I.ftz ((opndB f.m f.vb).val I wide l)).1)
    (fun I l => [(flushIn F I.ftz (I.vval wide f.va.toNat l)).2, (flushIn F I.ftz ((opndB f.m f.vb).val I wide l)).2])
    (fun I t => min (I.digits F wide f.va.toNat t) ((opndB f.m f.vb).digits I F wide t))

def execIcmp (f : VC) (s : State) := intCompare (.icmp f) true f s
def execUcmp (f : VC) (s : State) := intCompare (.ucmp f) false f s
def execFcmp (f : VC) (s : State) := fpCompare (.fcmp f) fp32 false f s
def execDcmp (f : VC) (s : State) := fpCompare (.dcmp f) fp64 true f s

/-! ## Arithmetic (R270 to R274) -/

def op1 (g : FV → Exact) : List FV → Exact
  | [a] => g a
  | _ => .nan

def op2 (g : FV → FV → Exact) : List FV → Exact
  | [a, b] => g a b
  | _ => .nan

def op3 (g : FV → FV → FV → Exact) : List FV → Exact
  | [a, b, c] => g a b c
  | _ => .nan

def fpBinary : Shape := {}
def fpUnary : Shape := { b := false }
def fpTernary : Shape := { d := true }
def dpBinary : Shape := { wide := true }
def dpUnary : Shape := { b := false, wide := true }
def dpTernary : Shape := { d := true, wide := true }

def fvSub (a b : FV) : Exact := fvAdd a b.flip

def execFadd (f : VV) (s : State) := vvFp (.fadd f) fpBinary fp32 .cancel f s (op2 fvAdd)
def execFsub (f : VV) (s : State) := vvFp (.fsub f) fpBinary fp32 .cancel f s (op2 fvSub)
def execFmul (f : VV) (s : State) := vvFp (.fmul f) fpBinary fp32 .none f s (op2 fvMul)
def execFfma (f : VV) (s : State) := vvFp (.ffma f) fpTernary fp32 .cancel f s (op3 fvFma)
def execFmin (f : VV) (s : State) := vvMinMax (.fmin f) false fp32 false f s
def execFmax (f : VV) (s : State) := vvMinMax (.fmax f) false fp32 true f s
def execFabs (f : VV) (s : State) := vvInt (.fabs f) fpUnary f s fun a _ _ => a &&& 0x7FFFFFFF
def execFneg (f : VV) (s : State) := vvInt (.fneg f) fpUnary f s fun a _ _ => a ^^^ 0x80000000
def execFdiv (f : VV) (s : State) := vvFp (.fdiv f) fpBinary fp32 .zdivB f s (op2 fvDiv)
def execFsqrt (f : VV) (s : State) := vvFp (.fsqrt f) fpUnary fp32 .none f s (op1 fvSqrt)
def execFrcp (f : VV) (s : State) := vvFp (.frcp f) fpUnary fp32 .zdivA f s (op1 fvRcp)
def execFrsq (f : VV) (s : State) := vvFp (.frsq f) fpUnary fp32 .zdivA f s (op1 fvRsq)
def execFexp2 (f : VV) (s : State) := vvFp (.fexp2 f) fpUnary fp32 .none f s (op1 fvExp2)
def execFlog2 (f : VV) (s : State) := vvFp (.flog2 f) fpUnary fp32 .none f s (op1 fvLog2)
def execFtanh (f : VV) (s : State) := vvFp (.ftanh f) fpUnary fp32 .none f s (op1 fvTanh)
def execDadd (f : VV) (s : State) := vvFp (.dadd f) dpBinary fp64 .cancel f s (op2 fvAdd)
def execDsub (f : VV) (s : State) := vvFp (.dsub f) dpBinary fp64 .cancel f s (op2 fvSub)
def execDmul (f : VV) (s : State) := vvFp (.dmul f) dpBinary fp64 .none f s (op2 fvMul)
def execDfma (f : VV) (s : State) := vvFp (.dfma f) dpTernary fp64 .cancel f s (op3 fvFma)
def execDmin (f : VV) (s : State) := vvMinMax (.dmin f) true fp64 false f s
def execDmax (f : VV) (s : State) := vvMinMax (.dmax f) true fp64 true f s
def execDdiv (f : VV) (s : State) := vvFp (.ddiv f) dpBinary fp64 .zdivB f s (op2 fvDiv)
def execDsqrt (f : VV) (s : State) := vvFp (.dsqrt f) dpUnary fp64 .none f s (op1 fvSqrt)

def execFrnd (f : VV) (s : State) : Host.Outcome State Fault Refusal :=
  onQuire (.frnd f) s fun I => vvFrame fpUnary I f fun _ =>
    let r := I.results fun l =>
      let w := flushBits fp32 I.ftz (I.vval false f.va.toNat l)
      let v := unpack fp32 w.1
      { out := fvRnd fp32 (I.laneRound l 0) v w.1, flush := w.2, nonfin := v.isNan || v.isInf }
    .done (countEvents (writeLanes s I false f.vd.toNat I.mask fun l => (Tab.get {} r l).out) I r)

def execFclass (f : VV) (s : State) := vvInt (.fclass f) fpUnary f s fun a _ _ => BitVec.ofNat 32 (fclassBits a.toNat)

/-! ## Conversions (R276 to R278) -/

/-- Whether a converted value is infinite or NaN. -/
def convNonfin (dst out : Nat) : Bool :=
  match fkind dst with
  | some (.fp F) => (unpack F out).isNan || (unpack F out).isInf
  | some .scale => out == 0xFF
  | _ => false

def convLane (dst src : Nat) (sat ftz : Bool) (rm : Rm) (w : Nat) : LaneRes :=
  let c := convert dst src sat ftz rm w
  { out := c.out, sat := c.sat, flush := c.flush, nan := c.nan, nonfin := convNonfin dst c.out }

def execCvt (f : VT) (s : State) : Host.Outcome State Fault Refusal :=
  onQuire (.cvt f) s fun I =>
    let d := f.dst.toNat
    let c := f.src.toNat
    if !convDefined d c then I.bad .illegalOp
    else if !(I.vWide (codeWide c) f.va.toNat && I.vWide (codeWide d) f.vd.toNat) then I.bad .illegalOperand
    else withSrcs I (I.srcV2 (codeWide c) f.va.toNat (f.ea == 1)) (I.srcV2 (codeWide d) f.vd.toNat) fun _ =>
      let r := I.results fun l => convLane d c (f.sat == 1) I.ftz (I.laneRound l 0) (I.vval (codeWide c) f.va.toNat l)
      .done (countEvents (writeLanes s I (codeWide d) f.vd.toNat I.mask fun l => (Tab.get {} r l).out) I r)

/-- Bits of a packed element (R277); 0 for a format that is not packed. -/
def packWidth (code : Nat) : Nat :=
  match code with
  | 0 => 16 | 1 => 16 | 9 => 16 | 10 => 16
  | 3 => 8 | 11 => 8 | 12 => 8
  | 4 => 4
  | _ => 0

def packWideFmt (code : Nat) : Bool := code == 2 || code == 7 || code == 8

def execPack2 (f : VT) (s : State) : Host.Outcome State Fault Refusal :=
  onQuire (.pack2 f) s fun I =>
    let d := f.dst.toNat
    let c := f.src.toNat
    let n := packWidth d
    if n == 0 || !packWideFmt c || !convDefined d c then I.bad .illegalOp
    else if !(I.vWide true f.va.toNat && I.vOk f.vd.toNat 1) then I.bad .illegalOperand
    else withSrcs I (I.srcV2 true f.va.toNat (f.ea == 1)) [I.srcV f.vd.toNat] fun _ =>
      let half := fun k => I.results fun l =>
        convLane d c (f.sat == 1) I.ftz (I.laneRound l k) (I.vval false (f.va.toNat + k) l)
      let lo := half 0
      let hi := half 1
      let s := writeLanes s I false f.vd.toNat I.mask fun l =>
        (Tab.get {} lo l).out % 2 ^ n + ((Tab.get {} hi l).out % 2 ^ n) <<< n
      .done (countEvents (countEvents s I lo) I hi)

/-- A source format code of integers (R223). -/
def intCode (code : Nat) : Bool :=
  match fkind code with
  | some (.int _ _) => true
  | _ => false

/-- UNPACK2 (R278): two elements of va, the lower to vd. .SAT applies to an integer source alone. A conversion of BF16 or
FP16 to an integer that is not exact rounds as every rounding of a VEC-class word does, with the numbers of PACK2 (log 24). -/
def execUnpack2 (f : VT) (s : State) : Host.Outcome State Fault Refusal :=
  onQuire (.unpack2 f) s fun I =>
    let d := f.dst.toNat
    let c := f.src.toNat
    let n := packWidth c
    if n == 0 || !packWideFmt d || !convDefined d c then I.bad .illegalOp
    else if !(I.vOk f.va.toNat 1 && I.vWide true f.vd.toNat) then I.bad .illegalOperand
    else withSrcs I [I.srcV f.va.toNat (f.ea == 1)] (I.srcV2 true f.vd.toNat) fun _ =>
      let half := fun k => I.results fun l =>
        { convLane d c (f.sat == 1 && intCode c) I.ftz (I.laneRound l k) (bits (I.vval false f.va.toNat l) (n * k) n) with nonfin := false }
      let lo := half 0
      let hi := half 1
      let s := writeV s I f.vd.toNat I.mask fun l => BitVec.ofNat 32 (Tab.get {} lo l).out
      let s := writeV s I (f.vd.toNat + 1) I.mask fun l => BitVec.ofNat 32 (Tab.get {} hi l).out
      .done (countEvents (countEvents s I lo) I hi)

/-! ## Reductions (R279 to R281) -/

/-- A plane's reduction: its value, the flushes it counts, and whether it is a NaN from non-NaN terms. -/
structure PlaneRes where
  out : Nat
  flushes : Nat := 0
  newNan : Bool := false
  nonfin : Bool := false
  deriving DecidableEq, Repr

/-- REDF, REDFMIN and REDFMAX over one plane's terms. -/
def planeFp (F : Fmt) (ftz : Bool) (empty : Nat) (node : Nat → Nat → Nat → Nat × Bool) (terms : List Nat) : PlaneRes :=
  let ts := terms.map fun w => let x := flushBits F ftz w; (x.1, if x.2 then 1 else 0)
  let r := (tree (fun (a b : Nat × Nat) k => let x := node a.1 b.1 k; (x.1, a.2 + b.2 + if x.2 then 1 else 0)) 8 ts 0).getD (empty, 0)
  let v := unpack F r.1
  { out := if v.isNan then F.nan else r.1, flushes := r.2
    newNan := v.isNan && !terms.any (fun w => (unpack F w).isNan), nonfin := v.isNan || v.isInf }

/-- The planes of a reduction: three in ternion mode, one in single-lane mode. -/
def planesOf (I : Issuer) : List Nat := if I.ter then [0, 1, 2] else [0]

/-- The result registers of a reduction (R279). -/
def redOk (I : Issuer) (wide : Bool) (sd : Nat) : Bool :=
  match I.ter, wide with
  | false, false => true
  | false, true => sd % 2 == 0
  | true, false => sd ≤ 29
  | true, true => sd % 2 == 0 && sd ≤ 26

def redDsts (I : Issuer) (wide : Bool) (sd : Nat) : List SrcSt :=
  (List.range ((if wide then 2 else 1) * (planesOf I).length)).map fun n => I.srcS (sd + n)

/-- A reduction: plane gives the result of plane j over its terms. -/
def reduce (i : Instr) (f : VR) (s : State) (plane : Issuer → Bool → Nat → List Nat → PlaneRes) :
    Host.Outcome State Fault Refusal :=
  onQuire i s fun I =>
    let wide := f.d == 1
    let sd := f.sd.toNat
    if !(I.vWide wide f.va.toNat && redOk I wide sd) then I.bad .illegalOperand
    else withSrcs I (I.srcV2 wide f.va.toNat (f.ea == 1) ++ [I.srcK f.k.toNat]) (redDsts I wide sd) fun _ =>
      let ts := threadsOf I.ter (I.mask &&& (I.kreg f.k.toNat).val)
      let rs := (planesOf I).map fun j => (j, plane I wide j (ts.map fun t => I.vval wide f.va.toNat (if I.ter then 3 * t + j else t)))
      let s := rs.foldl (fun s r => if wide then writeS2 s I (sd + 2 * r.1) (BitVec.ofNat 64 r.2.out)
                                    else writeS s I (sd + r.1) (BitVec.ofNat 32 r.2.out)) s
      let s := addStat s I.b I.tensor 1 (rs.foldl (fun n r => n + r.2.flushes) 0)
      let s := addStat s I.b I.tensor 2 (rs.filter (·.2.newNan)).length
      .done (if rs.any (·.2.nonfin) then setOvf s I.b (1#32 <<< (I.tensor % 32)) else s)

def redFmt (wide : Bool) : Fmt := if wide then fp64 else fp32

def execRedf (f : VR) (s : State) := reduce (.redf f) f s fun I wide j ts =>
  let F := redFmt wide
  planeFp F I.ftz 0 (fun a b k => flushOut F I.ftz (fvAdd (unpack F a) (unpack F b)) (I.round (I.threads.headD 0) j k)) ts

def execRedfmin (f : VR) (s : State) := reduce (.redfmin f) f s fun I wide _ ts =>
  let F := redFmt wide
  planeFp F I.ftz (F.inf false) (fun a b _ => (minMaxBits F false a b, false)) ts

def execRedfmax (f : VR) (s : State) := reduce (.redfmax f) f s fun I wide _ ts =>
  let F := redFmt wide
  planeFp F I.ftz (F.inf true) (fun a b _ => (minMaxBits F true a b, false)) ts

def execRedi (f : VR) (s : State) := reduce (.redi f) f s fun _ wide _ ts =>
  { out := ts.foldl (· + ·) 0 % 2 ^ (if wide then 64 else 32) }

/-! ## Ternion instructions (11_ternion.md R243 to R248) -/

/-- The three sibling values of a lane's thread; a single lane's value counts three times. -/
def sibs (I : Issuer) (wide : Bool) (r l : Nat) : Nat × Nat × Nat :=
  if I.ter then
    let b := 3 * (l / 3)
    (I.vval wide r b, I.vval wide r (b + 1), I.vval wide r (b + 2))
  else let v := I.vval wide r l; (v, v, v)

def terFmt (f : VV) : Fmt := if f.eb == 1 then fp64 else fp32

/-- A ternion instruction of one operand: dwide says whether vd is a pair with F64. -/
def terUnary (i : Instr) (f : VV) (s : State) (dwide : Bool) (res : Issuer → Nat → LaneRes) :
    Host.Outcome State Fault Refusal :=
  onQuire i s fun I =>
    let wide := f.eb == 1
    if !(I.vWide wide f.va.toNat && I.vWide (wide && dwide) f.vd.toNat) then I.bad .illegalOperand
    else withSrcs I (I.srcV2 wide f.va.toNat (f.ea == 1)) (I.srcV2 (wide && dwide) f.vd.toNat) fun _ =>
      let r := I.results (res I)
      .done (countEvents (writeLanes s I (wide && dwide) f.vd.toNat I.mask fun l => (Tab.get {} r l).out) I r)

/-- A ternion instruction with a digit-count operand: the count of a lane's thread is that of sibling 0. -/
def terCount (i : Instr) (f : VV) (s : State) (dwide : Bool) (res : Issuer → Nat → Nat → LaneRes) :
    Host.Outcome State Fault Refusal :=
  onQuire i s fun I =>
    let wide := f.eb == 1
    let ob := opndB f.m f.vb
    if !(I.vWide wide f.va.toNat && I.vWide (wide && dwide) f.vd.toNat && ob.ok I false) then I.bad .illegalOperand
    else withSrcs I (I.srcV2 wide f.va.toNat (f.ea == 1) ++ ob.srcs I false false) (I.srcV2 (wide && dwide) f.vd.toNat) fun _ =>
      let r := I.results fun l => res I (min (ob.val I false (if I.ter then 3 * (l / 3) else l)) (terFmt f).p) l
      .done (countEvents (writeLanes s I (wide && dwide) f.vd.toNat I.mask fun l => (Tab.get {} r l).out) I r)

def execDig (f : VV) (s : State) := terUnary (.dig f) f s false fun I l =>
  let x := sibs I (f.eb == 1) f.va.toNat l
  { out := digCount (terFmt f) x.1 x.2.1 x.2.2 }

def execTmean (f : VV) (s : State) := terUnary (.tmean f) f s true fun I l =>
  let F := terFmt f
  let x := sibs I (f.eb == 1) f.va.toNat l
  let m := tmean F x.1 x.2.1 x.2.2
  let v := unpack F m
  { out := m
    nan := v.isNan && !((unpack F x.1).isNan || (unpack F x.2.1).isNan || (unpack F x.2.2).isNan)
    nonfin := v.isNan || v.isInf }

def execTspread (f : VV) (s : State) := terCount (.tspread f) f s true fun I d l =>
  let y := spread (terFmt f) (sibs I (f.eb == 1) f.va.toNat l).1 d
  let m := if !I.ter then y.1 else match l % 3 with
    | 0 => y.1
    | 1 => y.2.1
    | _ => y.2.2
  { out := m, nonfin := (unpack (terFmt f) m).isNan || (unpack (terFmt f) m).isInf }

def execSibsel (f : VV) (s : State) := terUnary (.sibsel f) f s true fun I l =>
  let x := sibs I (f.eb == 1) f.va.toNat l
  { out := match f.vb.toNat % 4 with
      | 0 => x.1
      | 1 => x.2.1
      | _ => x.2.2 }

/-- The sign class of R248. -/
def signClass (F : Fmt) (w : Nat) : Nat :=
  let v := unpack F w
  if v.isNan then 0 else if v.isZero then 2 else if v.neg then 1 else 3

def execTchk (f : VV) (s : State) := terCount (.tchk f) f s false fun I r l =>
  let F := terFmt f
  let x := sibs I (f.eb == 1) f.va.toNat l
  let d := digCount F x.1 x.2.1 x.2.2
  let sg := signClass F x.1
  { out := d + (if d == 0 then 256 else 0) + (if d + bits I.qr.tctl.toNat 8 6 < r then 512 else 0) +
      (if sg == signClass F x.2.1 && sg == signClass F x.2.2 then 0 else 1024) }

end Sys2Proof.Machine
end

