-- ==== Sys2Proof/Machine/Alias.lean ====
section
/-! DEFINITION. Virtual aliases: what a thread's loads through one virtual page may still return of a line that other
pages have stored to, and what AFENCE and an engine join end (08_ordering.md R184, R188; log 27). -/

namespace Sys2Proof.Machine

/-- The thread of a unit whose first lane is l (R172). -/
def unitThread (u : UnitId) (l : Nat) : ThreadId :=
  match u with
  | .front b => .front b
  | .slot b q _ => .lane b q l

def LineReq.threadOf (r : LineReq) (o : LaneOp) : ThreadId :=
  if r.eng then .eng r.op else unitThread r.unit (if r.ter then 3 * o.thread else o.thread)

/-- A request's lane operations, its loads with the bytes that they return in place of those at the line's place in m. -/
def LineReq.seen (r : LineReq) (s : State) (m : List Host.Cell) (place : Nat) : List LaneOp :=
  if s.views.isEmpty then r.ops else r.ops.map fun o =>
    match o.act with
    | .rd n => { o with old := some (overlay s (r.threadOf o) r.part r.ctx o.va (r.gpa / 64 * 64 + o.off) (Memory.readBytes m (place + o.off) n)) }
    | _ => o

/-- What a request's stores and atomics have left, at its line's place in m. -/
def noteStores (s : State) (r : LineReq) (m : List Host.Cell) (place : Nat) (none_ : List Nat) : State :=
  r.ops.foldl (fun s o =>
    if o.writes && !none_.contains o.key then
      noteStore s r.part (r.gpa / 64) (r.threadOf o) (some (r.ctx, o.va)) o.off (Memory.readBytes m (place + o.off) o.len)
    else s) s

/-- The virtual address of byte off of a view's line. -/
def View.addr (v : View) (off : Nat) : Nat := v.vpage <<< 16 + (v.line * 64 + off) % 65536

/-- The stores that stay unseen when those that a test names, and all before them, are seen. -/
def stillNewer (f : NewerStore → Bool) : List NewerStore → List NewerStore
  | [] => []
  | e :: t => if (e :: t).any (fun x => x.off == e.off && f x) then stillNewer f t else e :: stillNewer f t

/-- The view when the stores that a test names are published to its thread: each byte takes the last of them. -/
def View.publish (v : View) (f : NewerStore → Bool) : View :=
  { v with
    bytes := v.bytes.zipIdx.map fun b => ((v.newer.reverse.find? fun e => e.off == b.2 && f e).map (·.val)).getD b.1
    newer := stillNewer f v.newer }

def within (base len va : Nat) : Bool := base ≤ va && va < base + len

/-- A view at the AFENCE event of threads over a region: that of one of them sees the stores to the region that their
writers fenced before, and its own; and the threads' stores to the region are fenced from now on. -/
def View.fence (v : View) (ts : List ThreadId) (base len : Nat) : View :=
  let v := if ts.contains v.thread then
      v.publish fun e => within base len (v.addr e.off) && (e.fenced || (e.writer == v.thread && within base len e.va))
    else v
  { v with newer := v.newer.map fun e => if ts.contains e.writer && within base len e.va then { e with fenced := true } else e }

def fenceAlias (s : State) (ts : List ThreadId) (base len : Nat) : State :=
  if s.views.isEmpty then s else { s with views := s.views.map (·.fence ts base len) }

/-- A join of engine operations: the stores of those that a test names are published to the joining threads. -/
def joinEngines (s : State) (ts : List ThreadId) (f : View → Nat → Bool) : State :=
  if s.views.isEmpty then s
  else { s with views := s.views.map fun v =>
    if ts.contains v.thread then v.publish fun e => match e.writer with
      | .eng id => f v id
      | _ => false
    else v }

/-- An acquire load by a thread of n bytes at guest-physical g joins the operations whose completion words it returns
(06_engines.md R118, R181). -/
def joinAt (s : State) (t : ThreadId) (g n : Nat) : State :=
  joinEngines s [t] fun v id => v.cw.any fun c => c.2 == id && decide (g < c.1 + 8) && decide (c.1 < g + n)

/-- The atomics of a request that return a completion word join its operation: they are acquire loads of it (06_engines.md
R118, R181). -/
def joinWords (s : State) (r : LineReq) : State :=
  if s.views.isEmpty then s
  else r.ops.foldl (fun s o => match o.act with
    | .amo a => if a.ret then joinAt s (r.threadOf o) (r.gpa / 64 * 64 + o.off) o.len else s
    | _ => s) s

/-- A line request performed at its home package, at device-physical address d. -/
def performLine (s : State) (r : LineReq) (d : Nat) : State × Answer :=
  let place := d / 64 * 64
  let s := joinWords s r
  let x := performAt s (d >>> 44) r.part (r.gpa / 64) (d / 64) r.ctx r.lvl (some r.unit)
    (if isWindow place then r.ops else r.seen s s.mem place)
  (if isWindow place then x.1 else noteStores x.1 r x.1.mem place x.2.unwritten, x.2)

/-- A line request performed by the host's completer, at the line of ha. -/
def performHostLine (s : State) (r : LineReq) (ha : Nat) : State × Answer :=
  let place := ha / 64 * 64
  let s := joinWords s r
  let x := performHost s place (r.seen s s.hostMem place)
  (noteStores x.1 r x.1.hostMem place x.2.unwritten, x.2)

/-- The threads that an issuer stands for. -/
def Issuer.aliasThreads (I : Issuer) : List ThreadId :=
  if I.fe then [unitThread I.u 0] else I.threads.map fun i => unitThread I.u (if I.ter then 3 * i else i)

/-- A thread that may load: an operation does so once it has started, after what its issuer accessed before the fork is
performed, so that no view of it holds what the fork has published (R116, R184). -/
def mayView (s : State) (t : ThreadId) : Bool :=
  match t with
  | .eng id => (Tab.find s.engs id).any fun e => e.phase != .queued
  | _ => true

/-- A thread's view of n bytes of a line through a page is taken, as they stand now. -/
def keepView (s : State) (t : ThreadId) (pkg part : Nat) (ctx : Word) (vpage line lo n : Nat) : State :=
  let put := fun bs : List Byte =>
    { s with views := s.views.filter (fun v => !(v.thread == t && v.part == part && v.ctx == ctx && v.vpage == vpage &&
          v.line == line && decide (v.lo < lo + n) && decide (lo < v.lo + v.n))) ++
        [{ thread := t, part := part, ctx := ctx, vpage := vpage, line := line, lo := lo, n := n, bytes := bs }] }
  if !mayView s t then s
  else match locate s pkg part (line * 64) false with
  | none => s
  | some (.dev d) => if isWindow d then s else put (Memory.readBytes s.mem d 64)
  | some (.host ha) => put (Memory.readBytes s.hostMem ha 64)

end Sys2Proof.Machine
end

