-- ==== Sys2Proof/Machine/Access.lean ====
section
/-! DEFINITION. How the memory instructions reach memory: translation of every access, coalescing into line requests,
where each line is performed, and what returns (04_translation.md R71, R78 to R80, 05_fabric.md R96 to R100,
07_local_memory.md R157 to R162, 08_ordering.md R182). -/

namespace Sys2Proof.Machine

/-! ## Scopes (01_machine.md R15, R16) -/

/-- The scope that code obtains: below H, codes 6 and 7 are executed as 5 and counted. -/
def Issuer.scope (I : Issuer) (scope : Nat) : Nat := if scope ≥ 6 && I.st.level != .h then 5 else scope

def countClamp (s : State) (I : Issuer) (scope : Nat) : State :=
  if scope ≥ 6 && I.st.level != .h then s.updCounts I.blk.pkg I.blk.part fun c => { c with clamps := c.clamps + 1 } else s

/-! ## Outstanding operations -/

/-- The quire or context that an operation belongs to. -/
def sameUnit (a b : UnitId) : Bool :=
  match a, b with
  | .front x, .front y => x == y
  | .slot x q _, .slot y r _ => x == y && q == r
  | _, _ => false

/-- Operations of the issuer's threads that have not completed. -/
def outstanding (s : State) (u : UnitId) (mask : Mask) : List (Nat × PendOp) :=
  s.ops.filter fun e => sameUnit e.2.unit u && (match u with
    | .front _ => true
    | _ => e.2.lanes &&& mask != 0)

/-- The side of a request: 0 its own package, 1 another package, 2 the host; none where the second stage fails. -/
def reqSide (s : State) (r : LineReq) : Option Nat :=
  (locate s r.pkg r.part r.gpa r.write).map fun t => match t with
    | .dev d => if d >>> 44 == r.pkg then 0 else 1
    | .host _ => 2

/-- Whether an operation has a request that is not performed and acknowledged, and that a scope carries (08_ordering.md
R179): PKG and narrower, those homed in the package, which are performed at once unless they are held or let go late; PART and POD, those
to device memory; SYS, those to host memory too. -/
def opPending (s : State) (scope id : Nat) : Bool :=
  (s.held.any fun h => match h.what with
    | .line r => r.op == id
    | .behind r => r.op == id
    | .slow r => r.op == id && (decide (5 ≤ scope) || reqSide s r == some 0) && (decide (7 ≤ scope) || reqSide s r != some 2)
    | _ => false) ||
  (5 ≤ scope && s.msgs.any fun m => m.2.req.op == id && (match m.2.tgt with
    | .dev _ => true
    | .host _ => decide (7 ≤ scope)))

/-- Whether a MAT instruction of the unit's quire that is numbered below lim still owes scratchpad writes, which are
accesses of the quire in its program order (13_matrix.md R289). -/
def matWrites (s : State) (u : UnitId) (lim : Nat) : Bool :=
  match u with
  | .front _ => false
  | .slot b q _ => (Tab.find s.blocks b).any fun B =>
      (s.coreOf B.core).matQ.any fun m => m.b == b && m.q == q && decide (m.id < lim) && !m.scratch.isEmpty

/-- Whether an access that the unit's threads made before operation lim, and that the scope carries, is still to be
performed: a release waits for it (08_ordering.md R180 to R182). -/
def unperformed (s : State) (u : UnitId) (mask : Mask) (lim scope : Nat) : Bool :=
  ((outstanding s u mask).any fun e => decide (e.1 < lim) && opPending s scope e.1) || matWrites s u lim

/-! ## Requests -/

/-- One access of a logical thread: key names it in the answer. -/
structure MemReq where
  key : Nat
  thread : Nat
  va : Nat
  act : LaneAct
  /-- a digit byte: its page must be PLAIN (R63) -/
  plain : Bool := false
  deriving DecidableEq, Repr

def Issuer.who (I : Issuer) (thread : Nat) : Who where
  pkg := I.blk.pkg
  part := I.blk.part
  ctx := I.blk.ctx
  lvl := I.st.level
  core := some I.blk.core
  lane := if I.fe then none else some (I.key, if I.ter then 3 * thread else thread)
  alike := if I.ter then 3 else 1

/-- A translated access. -/
structure Located where
  req : MemReq
  xl : Xl
  deriving DecidableEq, Repr

def translateAll (s : State) (I : Issuer) (write : Bool) (rs : List MemReq) : State × List Located :=
  rs.foldl (fun acc r => let x := translate acc.1 (I.who r.thread) r.va write
                         (x.1, acc.2 ++ [{ req := r, xl := x.2 }])) (s, [])

/-- TRAPINFO of PAGE_FAULT and PROTECTION (R80). -/
def faultInfo (va reason level : Nat) (write : Bool) (pkind : Nat) : DWord :=
  BitVec.ofNat 64 (va % 2 ^ 52 + reason <<< 52 + level <<< 55 + (if write then 2 ^ 57 else 0) + pkind <<< 59)

/-- The mask of the threads that meet a cause; an access made once for the slot gives the whole mask (R167). -/
def Issuer.faulters (I : Issuer) (whole : Bool) (l : List Nat) : Option Mask :=
  if I.fe || whole then none else some (maskOfThreads I.ter l.eraseDups)

def xlFault (c : Cause) (x : Located) : Option (Nat × Nat) :=
  match x.xl with
  | .fault c' r l => if c' == c then some (r, l) else none
  | _ => none

/-- Which trap, stall or wait the translated accesses meet, in the order of R162 (log 13). -/
inductive XlVerdict where
  | go
  | stall
  | trap (t : Trap)
  /-- a walk held at H: where, at which level, for which address, and the lanes that need it -/
  | held (gpa level va : Nat) (mask : Option Mask)
  /-- a table access whose host address must be translated first -/
  | ats (gpa ha : Nat)
  deriving DecidableEq, Repr

/-- The trap of a cause of R71 that some accesses meet; TRAPINFO is that of the lowest. -/
def faultTrap (I : Issuer) (write whole : Bool) (c : Cause) (xs : List Located) : Option Trap :=
  match xs.filter (fun x => (xlFault c x).isSome) with
  | [] => none
  | x :: t =>
    let d := (xlFault c x).getD (0, 0)
    let m := I.faulters whole ((x :: t).map fun y : Located => y.req.thread)
    some { cause := c, info := faultInfo x.req.va d.1 d.2 write 0, mask := m }

/-- PROTECTION of order 9 of R162, with its PKIND. -/
def kindTrap (I : Issuer) (write whole : Bool) (pkind : Nat) (xs : List Located) : Option Trap :=
  match xs with
  | [] => none
  | x :: t =>
    let m := I.faulters whole ((x :: t).map fun y : Located => y.req.thread)
    some { cause := .protection, info := faultInfo x.req.va 0 3 write pkind, mask := m }

def Located.heldAt (x : Located) : Option (Nat × Nat × Nat) :=
  match x.xl with
  | .held g l => some (g, l, x.req.va)
  | _ => none

def Located.atsAt (x : Located) : Option (Nat × Nat) :=
  match x.xl with
  | .ats g ha => some (g, ha)
  | _ => none

/-- ALIGN or PROTECTION of the register window at a guest-physical address, for an instruction that reads it itself
(03_memory.md R439). -/
def windowTrap (g : Nat) (k : NoteKind) : Trap :=
  { cause := if k == .align then .align else .protection, info := BitVec.ofNat 64 (g % 2 ^ 52) }

/-- MEMERR at an instruction whose own read meets an uncorrectable unit (R61). -/
def memTrap (g k : Nat) (load : Nat := 0) : Trap :=
  { cause := .memerr, info := BitVec.ofNat 64 g, detail := BitVec.ofNat 16 k, load := BitVec.ofNat 64 load }

/-- An uncorrectable unit, or a register window that refuses, met by the walk (R61). -/
def Located.walkErr (x : Located) : Option Trap :=
  match x.xl with
  | .mem g k => some (memTrap g k)
  | .win g k => some (windowTrap g k)
  | _ => none

def Located.sealedAt (x : Located) (s : State) (part : Nat) : Bool :=
  match x.xl with
  | .ok g _ _ => isSealed s part g
  | _ => false

def Located.notPlain (x : Located) : Bool :=
  match x.xl with
  | .ok _ k _ => x.req.plain && k != 0
  | _ => false

/-- The order of R71 and R162 over all accesses (log 13): page faults of the walk, with them a leaf of reserved KIND (log
112), then a walk that H holds, which is order 5 of R71, then what a completed walk or its leaf gives. -/
def verdict (s : State) (I : Issuer) (write whole : Bool) (xs : List Located) : XlVerdict :=
  match faultTrap I write whole .pageFault xs, xs.filterMap Located.heldAt with
  | some t, _ => .trap t
  | none, (g, l, va) :: _ =>
    let need := xs.filter fun x => x.heldAt.any fun h => h.1 >>> 25 == g >>> 25
    .held g l va (I.faulters whole (need.map fun y : Located => y.req.thread))
  | none, [] =>
    match xs.findSome? Located.atsAt with
    | some w => .ats w.1 w.2
    | none =>
    if xs.any fun x => x.xl == Xl.blocked then .stall
    else
      let walkErrs := (xs.filterMap Located.walkErr).head?
      let sealErr := kindTrap I write whole 1 (xs.filter fun x => write && x.sealedAt s I.blk.part)
      let digitErr := kindTrap I write whole 2 (xs.filter Located.notPlain)
      match [walkErrs, faultTrap I write whole .protection xs, sealErr, digitErr].filterMap id with
      | t :: _ => .trap t
      | [] => .go

/-- A walk is held at the controller, and its unit in walk-held state (R79). -/
def holdWalk (s : State) (I : Issuer) (g level va : Nat) (write : Bool) (mask : Option Mask) : Act :=
  let h : Held := { pkg := I.blk.pkg, part := I.blk.part, granule := g >>> 25, what := .walk I.u va level write mask }
  .wait ({ s with held := s.held ++ [h] }.tell (.walkHeld I.blk.part g va level)) (.heldWalk I.blk.pkg I.blk.part (g >>> 25))

/-- A Translation Request for an access goes to the host, and the instruction issues again when it is answered (R85). -/
def wantAts (s : State) (I : Issuer) (gpa ha : Nat) : Act :=
  let w : AtsWant := { part := I.blk.part, page := ha >>> 12, gpa := gpa, unit := some I.u, sent := s.now }
  .wait (s.updPkg I.blk.pkg fun k => { k with atsWant := k.atsWant ++ [w] }) (.ats I.blk.pkg I.blk.part (ha >>> 12))

/-- A device access of the instruction cannot be made now: it stalls, or waits for a translation of the host's. -/
def barredAct (s : State) (I : Issuer) (want : Option (Nat × Nat)) : Act :=
  match want with
  | some x => wantAts s I x.1 x.2
  | none => .stall

/-- What an instruction meets whose accesses may not go on. -/
def XlVerdict.meets (v : XlVerdict) (s : State) (I : Issuer) (write : Bool) : Act :=
  match v with
  | .go => .stall
  | .stall => .stall
  | .trap t => .trap t
  | .held g l va m => holdWalk s I g l va write m
  | .ats g ha => wantAts s I g ha

/-! ## Line requests -/

/-- One line's part of an instruction: the line, whether its page is counted, and the lane operations. -/
structure LinePart where
  line : Nat
  cnt : Bool
  ops : List LaneOp
  deriving DecidableEq, Repr

/-- Lane operations in ascending order of their keys: by thread, and a thread's pieces in their order (R161). -/
def insertOp (o : LaneOp) : List LaneOp → List LaneOp
  | [] => [o]
  | x :: t => if o.key < x.key then o :: x :: t else x :: insertOp o t

/-- An access joins the request for its line, unless an earlier piece of its thread is in that request's place or after
it: then a new request follows (03_memory.md R65). -/
def placeOp (acc : List LinePart) (line : Nat) (cnt : Bool) (o : LaneOp) : List LinePart :=
  let after := (acc.zipIdx.filter fun e => e.1.ops.any (·.thread == o.thread)).foldl (fun m e => max m e.2) 0
  match acc.zipIdx.find? fun e => e.1.line == line && decide (after ≤ e.2) with
  | some e => acc.set e.2 { e.1 with cnt := e.1.cnt || cnt, ops := insertOp o e.1.ops }
  | none => acc ++ [{ line := line, cnt := cnt, ops := [o] }]

/-- The line requests of the accesses: the first pieces of all threads, and then the second ones, so that the store of a
mean comes before that of its digit byte and the parts of an element in ascending order (R65, R161). -/
def groupLines (xs : List Located) : List LinePart :=
  let later := fun (r : MemReq) => xs.any fun y : Located => y.req.thread == r.thread && decide (y.req.key < r.key)
  ((xs.filter fun x => !later x.req) ++ xs.filter fun x => later x.req).foldl (fun acc x =>
    match x.xl with
    | .ok gpa _ cnt =>
      placeOp acc (gpa / 64) cnt { key := x.req.key, off := gpa % 64, act := x.req.act, va := x.req.va, thread := x.req.thread }
    | _ => acc) []

/-- What is known of an operation while its lines are sent. -/
structure Sending where
  s : State
  ans : Answer := {}
  waiting : Nat := 0

def putMsg (s : State) (id : Nat) (m : Msg) : State := { s with msgs := Tab.set s.msgs id m }

/-- Injects a queued request when its bucket is not frozen and its port has room (R98, R100). -/
def inject (s : State) (id : Nat) : State :=
  match Tab.find s.msgs id with
  | none => s
  | some m =>
    match m.tgt with
    | .host _ => { s with msgs := Tab.set s.msgs id { m with state := .flying } }
    | .dev d =>
      let plane := planeOf s m.req.pkg d
      if !portOpen s m.req.pkg d then putMsg s id { m with state := .queued }
      else
        let q := takeSeq s m.req.pkg plane
        putMsg { q.2 with nextId := s.nextId + 1 } id
          { m with state := .flying, plane := plane, origin := plane, seq := q.1, ver := (s.pkgOf m.req.pkg).ver.toNat, replay := false
                   stamp := s.nextId }

/-- Errors of every lane of a request that fails as a whole. -/
def failAll (r : LineReq) (note : LaneOp → Note) : Answer :=
  { errs := r.ops.map fun o => (o.key, note o), unwritten := r.ops.map (·.key) }

/-- The answer to a request whose target does not answer: every lane is uncorrectable, of a memory kind (R106, R109). -/
def failKind (r : LineReq) (kind : Nat) : Answer := failAll r fun o => memNote kind (r.gpa + o.off / 32 * 32) o.va

/-- Host memory performs ADD, XCHG and CAS atomics alone (R170). -/
def LaneOp.hostRefused (o : LaneAct) : Bool :=
  match o with
  | .amo a => !(a.kind == .acas || (a.kind == .atom && (a.op == 0 || a.op == 8)))
  | _ => false

/-- The note of an access that host memory refuses when it reaches it: PROTECTION with reason WRITE_DENIED (R170; log 82). -/
def deniedNote (o : LaneOp) : Note :=
  { kind := .protection, memkind := 0, lanes := 0, addr := faultInfo o.va 2 3 true 0 }

/-- The layout bits of a partition's banks in a set of entries. -/
def banksOf (t : Tab LayoutEnt) (part : Nat) : BitVec 128 :=
  ((t.find? fun e => e.2.valid && e.2.podPart.toNat == part).map (·.2.banks)).getD 0

/-- The live entries. -/
def validEnts (t : Tab LayoutEnt) : List LayoutEnt := (t.filter fun e => e.2.valid).map (·.2)

/-- The partition that owns a unit, by a test of an entry. -/
def ownerBy (t : Tab LayoutEnt) (f : LayoutEnt → Bool) : Option Nat := ((validEnts t).find? f).map fun e => e.podPart.toNat

/-- The units of n whose owner differs between two layouts. -/
def changedUnits (a b : Tab LayoutEnt) (n : Nat) (f : LayoutEnt → Nat → Bool) : List Nat :=
  (List.range n).filter fun i => ownerBy a (fun e => f e i) != ownerBy b (fun e => f e i)

/-- A commit is to give a quad to another owner: no block is placed on it from then on (17_partitions.md R391). -/
def quadLeaves (p : Pkg) (q : Nat) : Bool :=
  p.committing && ownerBy p.layout (fun e => e.quads.getLsbD q) != ownerBy p.shadow (fun e => e.quads.getLsbD q)

/-- A commit of the package is to change the partition's banks: its accesses to them stall from then on (17_partitions.md
R391). -/
def banksLeave (p : Pkg) (part : Nat) : Bool := p.committing && banksOf p.layout part != banksOf p.shadow part

/-- A commit's pre-emption request stands against the context: its accesses are among those that the commit lets end
(log 91). -/
def quiescing (s : State) (part : Nat) (ctx : Word) : Bool :=
  s.preempts.any fun p => p.2.layout && p.2.part == part && p.2.ctx == ctx

/-- A new access of a context to the line at its home package stalls. -/
def bankStops (s : State) (home part : Nat) (ctx : Word) (line : Nat) : Bool :=
  bankScrubbed s home part line || (banksLeave (s.pkgOf home) part && !quiescing s part ctx)

/-- Puts a line request behind what it waits for. -/
def queueBehind (acc : Sending) (r : LineReq) : Sending :=
  let h : Held := { pkg := r.pkg, part := r.part, granule := r.gpa >>> 25, what := .behind r }
  { acc with s := { acc.s with held := acc.s.held ++ [h] }, waiting := acc.waiting + 1 }

/-- The line of a counted page reaches the L2 of the issuing die (R89). -/
def countLine (s : State) (r : LineReq) : State :=
  match r.cnt with
  | some die => countAccess s r.pkg die r.part r.gpa
  | none => s

/-- Sends one line request of operation op: performed here, injected into the fabric or the host link, held at the
second stage, or kept back while its bank is scrubbed or about to change owner. -/
def sendLine (acc : Sending) (r : LineReq) : Sending :=
  let s := acc.s
  let h : Held := { pkg := r.pkg, part := r.part, granule := r.gpa >>> 25, what := .line r }
  let fail := fun (x : Answer) => { acc with ans := { got := acc.ans.got, errs := acc.ans.errs ++ x.errs } }
  match locate s r.pkg r.part r.gpa r.write with
  | none =>
    { acc with s := { s with held := s.held ++ [h] }.tell (.secondStage r.part r.gpa r.ctx r.write), waiting := acc.waiting + 1 }
  | some (.dev d) =>
    if bankStops s (d >>> 44) r.part r.ctx (r.gpa / 64) then queueBehind acc r
    else if d >>> 44 == r.pkg then
      let x := performLine (countLine s r) r d
      { acc with s := x.1, ans := { got := acc.ans.got ++ x.2.got, errs := acc.ans.errs ++ x.2.errs } }
    else if remoteLost s r.pkg (d >>> 44) then fail (failKind r 4)
    else
      let s := countLine s r
      let id := s.nextId
      let s := { s with nextId := id + 1, msgs := Tab.set s.msgs id { req := r, tgt := .dev d, sent := s.now } }
      { acc with s := inject s id, waiting := acc.waiting + 1 }
  | some (.host ha) =>
    if !(s.pkgOf r.pkg).linkUp then fail (failKind r 5)
    else if r.ops.any fun o => LaneOp.hostRefused o.act then fail (failAll r deniedNote)
    else
      let s := countLine s r
      let id := s.nextId
      let miss := atsMiss s r.pkg r.part ha
      let there := hostAddr s r.pkg r.part ha r.write
      let m : Msg := { req := r, tgt := .host ha, state := .flying, ats := miss, sentAs := if there == ha then none else some there, sent := s.now }
      { acc with s := { s with nextId := id + 1, msgs := Tab.set s.msgs id m }, waiting := acc.waiting + 1 }

/-- Traps reported imprecisely to a unit for a failed store or no-return atomic (R78, R109, R439). -/
def impreciseTrap (n : Note) : Trap :=
  let t := noteTrap (BitVec.allOnes 96) n
  { t with info := t.info ||| (1#64 <<< 58) ||| (if n.kind == .gpaRefused then 1#64 <<< 57 else 0), mask := none }

def addDue (s : State) (u : UnitId) (ns : List Note) : State :=
  match ns with
  | [] => s
  | n :: _ => updStrand s u fun c => { c with due := c.due ++ [impreciseTrap n] }

/-- Whether an access of the issuer's threads earlier than operation op is held at the second stage, or behind one: a
later access is sent after it, so that the order of R175 holds wherever it turns out to be homed (log 14). -/
def heldBack (s : State) (u : UnitId) (mask : Mask) (op : Nat) : Bool :=
  (outstanding s u mask).any fun e => e.1 < op && s.held.any fun h =>
    match h.what with
    | .line r => r.op == e.1
    | .behind r => r.op == e.1
    | _ => false

/-- Whether two requests of a unit have an access of one thread each. -/
def shareThread (x r : LineReq) : Bool := sameUnit x.unit r.unit && x.ops.any fun o => r.ops.any (·.thread == o.thread)

/-- Whether a request of an earlier operation, that its unit's store path has not let go, must precede this one (R175): of
one thread, and both homed in the package, or of one line. -/
def slowBefore (s : State) (r : LineReq) : Bool :=
  s.held.any fun h => match h.what with
    | .slow x => decide (x.op < r.op) && shareThread x r && reqSide s x == reqSide s r &&
        (reqSide s r == some 0 || locate s x.pkg x.part x.gpa x.write == locate s r.pkg r.part r.gpa r.write)
    | _ => false

/-- Whether a new request of the unit is let go late (log 111). -/
def isSlow (s : State) (r : LineReq) : Bool :=
  slowBefore s r || (match reqSide s r with
    | some n => s.lag.contains (r.unit, n)
    | none => false)

/-- Whether an access of the unit's threads to its own package, of an operation before lim, has not been let go. -/
def slowLocal (s : State) (u : UnitId) (lim : Nat) : Bool :=
  s.held.any fun h => match h.what with
    | .slow x => sameUnit x.unit u && decide (x.op < lim) && reqSide s x == some 0
    | _ => false

/-- Whether a piece of one of the request's threads, of the same instruction, has been sent and is not performed (R65):
among the held requests before place n of the list, or in a message. -/
def pieceBefore (s : State) (r : LineReq) (n : Nat) : Bool :=
  let meets := fun x : LineReq => x.op == r.op && x.ops.any fun o => r.ops.any (·.thread == o.thread)
  ((s.held.take n).any fun h => match h.what with
    | .line x => meets x
    | .behind x => meets x
    | .slow x => meets x
    | _ => false) ||
  s.msgs.any fun m => meets m.2.req && (match m.2.state with
    | .answered _ => false
    | _ => true)

/-- Whether an access must wait for an earlier atomic's response, by the accesses that its scope carries (R179, R182). -/
def acquireHolds (s : State) (I : Issuer) (lines : List LinePart) (write : Bool) : Bool :=
  (outstanding s I.u I.mask).any fun e => match e.2.acq with
    | 0 => false
    | 1 => lines.any fun l => (match locate s I.blk.pkg I.blk.part (l.line * 64) write with
      | some (.dev d) => d >>> 44 == I.blk.pkg
      | _ => false)
    | 2 => lines.any fun l => (match locate s I.blk.pkg I.blk.part (l.line * 64) write with
      | some (.host _) => false
      | _ => true)
    | _ => true

/-- What an atomic of a scope holds back. -/
def acqOf (scope : Nat) : Nat := if 7 ≤ scope then 3 else if 5 ≤ scope then 2 else 1

/-- The accesses that host memory does not perform (R170). -/
def hostRefuses (s : State) (I : Issuer) (xs : List Located) : List Located :=
  xs.filter fun x => LaneOp.hostRefused x.req.act && (match x.xl with
    | .ok gpa _ _ =>
      (match locate s I.blk.pkg I.blk.part gpa true with
       | some (.host _) => true
       | _ => false)
    | _ => false)

/-- A store of the accesses waits at a doorbell. -/
def doorbellWaits (s : State) (I : Issuer) (xs : List Located) : Bool :=
  xs.any fun x => match x.req.act, x.xl with
    | .wr _, .ok gpa _ _ =>
      (match locate s I.blk.pkg I.blk.part gpa true with
       | some (.dev d) => doorbellFull s d
       | _ => false)
    | _, _ => false

/-- Counts the line requests of a unit that go to counted pages (R89). -/
def countLines (s : State) (I : Issuer) (ls : List (Nat × Bool)) : State :=
  ls.foldl (fun s l => if l.2 then countAccess s I.blk.pkg (dieOfCore I.blk.core) I.blk.part (l.1 * 64) else s) s

/-- Puts a line request with those that are let go late. -/
def queueSlow (acc : Sending) (r : LineReq) : Sending :=
  let h : Held := { pkg := r.pkg, part := r.part, granule := r.gpa >>> 25, what := .slow r }
  { acc with s := { acc.s with held := acc.s.held ++ [h] }, waiting := acc.waiting + 1 }

/-- A new line request: let go at once, or late. -/
def postLine (acc : Sending) (r : LineReq) : Sending := if isSlow acc.s r then queueSlow acc r else sendLine acc r

/-- Sends the line requests of operation id, in their order: each waits for held accesses of its threads (log 14) and for
the earlier piece of one of its elements. -/
def sendLines (s : State) (I : Issuer) (write : Bool) (id : Nat) (lines : List LinePart) : Sending :=
  lines.foldl (fun acc l =>
    let r : LineReq :=
      { unit := I.u, pkg := I.blk.pkg, part := I.blk.part, ctx := I.blk.ctx, gpa := l.line * 64, ops := l.ops
        lvl := I.st.level, op := id, write := write, ter := I.ter
        cnt := if l.cnt then some (dieOfCore I.blk.core) else none }
    if heldBack acc.s I.u I.mask id || pieceBefore acc.s r acc.s.held.length then queueBehind acc r else postLine acc r)
    ({ s := s } : Sending)

/-- Issues the accesses of a memory instruction whose own checks have passed. mark marks the destination empty. It stalls
while a MAT instruction of its quire owes scratchpad writes, which come before it (08_ordering.md R175). -/
def memIssue (s : State) (I : Issuer) (write whole : Bool) (rs : List MemReq) (dest : Dest) (acq : Nat)
    (mark : State → State) : Act :=
  let t := translateAll s I write rs
  match verdict t.1 I write whole t.2 with
  | .go =>
    match hostRefuses t.1 I t.2 with
    | x :: rest =>
      let m := I.faulters whole ((x :: rest).map fun y : Located => y.req.thread)
      .trap { cause := .protection, info := faultInfo x.req.va 2 3 true 0, mask := m }
    | [] =>
      let lines := groupLines t.2
      if acquireHolds t.1 I lines write || matWrites t.1 I.u t.1.nextId || doorbellWaits t.1 I t.2 then .stall
      else
        let id := t.1.nextId
        let r := sendLines { mark t.1 with nextId := id + 1 } I write id lines
        if dest == .none && r.waiting == 0 then .done (addDue r.s I.u (r.ans.errs.map (·.2)))
        else
          let op : PendOp :=
            { unit := I.u, dest := dest, ter := I.ter, keys := rs.map fun x : MemReq => x.key
              waiting := r.waiting, got := r.ans.got, errs := r.ans.errs, lanes := I.mask
              acq := if r.waiting == 0 then 0 else acq }
          .done { r.s with ops := Tab.set r.s.ops id op }
  | v => v.meets t.1 I write

/-! ## What returns (R160, R61, R78) -/

/-- The bytes of a key in an answer. -/
def gotBytes (g : List (Nat × List Byte)) (k : Nat) : Nat := ofLe (((g.find? (·.1 == k)).map (·.2)).getD [])

def extendLoad (bytes : Nat) (sx : Bool) (v : Nat) : Nat := if sx then sext (8 * bytes) 32 v else v

/-! ## Accesses that an instruction makes before it takes effect (R82, R333, R339, R374, R375; log 15) -/

/-- How such an access ends: the state and what it gives, or what the instruction meets. -/
inductive Sync (α : Type) where
  | ok (s : State) (a : α)
  | no (a : Act)

def Sync.andThen {α : Type} (r : Sync α) (k : State → α → Act) : Act :=
  match r with
  | .ok s a => k s a
  | .no a => a

/-- A second-stage failure: the access is held for H, and the instruction issues again when H answers. -/
def holdSync (s : State) (I : Issuer) (g va : Nat) (write : Bool) : Act :=
  let h : Held := { pkg := I.blk.pkg, part := I.blk.part, granule := g >>> 25, what := .sync I.u va write }
  .wait ({ s with held := s.held ++ [h] }.tell (.secondStage I.blk.part g I.blk.ctx write))
    (.heldWalk I.blk.pkg I.blk.part (g >>> 25))

/-- A line's part of such an access: its address, its guest-physical place, its length, and whether its page is counted. -/
structure SyncPiece where
  va : Nat
  gpa : Nat
  n : Nat
  cnt : Bool
  deriving DecidableEq, Repr

/-- Whether an access to the line cannot be made now: the device cannot make it, a commit stops its bank, or an earlier
message of the unit to the line, or an acquire that carries it, has not been performed (R175). -/
def SyncPiece.waits (p : SyncPiece) (s : State) (I : Issuer) (write : Bool) : Bool :=
  (match locate s I.blk.pkg I.blk.part p.gpa write with
    | some (.dev d) => (!remoteLost s I.blk.pkg (d >>> 44) && lineBarred s I.blk.pkg I.blk.part p.gpa d write) ||
        bankStops s (d >>> 44) I.blk.part I.blk.ctx (p.gpa / 64)
    | _ => false) ||
  acquireHolds s I [{ line := p.gpa / 64, cnt := false, ops := [] }] write ||
  s.msgs.any fun m => !m.2.req.eng && sameUnit m.2.req.unit I.u && decide (m.2.req.gpa / 64 = p.gpa / 64) && (match m.2.state with
    | .answered _ => false
    | _ => true)

/-- The host address of a piece that must be translated first (R85). -/
def SyncPiece.wants (p : SyncPiece) (s : State) (I : Issuer) (write : Bool) : Option Nat :=
  match locate s I.blk.pkg I.blk.part p.gpa write with
  | some (.host ha) => if (s.pkgOf I.blk.pkg).linkUp && atsMiss s I.blk.pkg I.blk.part ha then some ha else none
  | _ => none

/-- Translates n bytes from va as an access of the slot, line by line. It waits for those of the unit's earlier accesses
that precede it in program order (R175). -/
def syncXlate (s : State) (I : Issuer) (write : Bool) (va n : Nat) : Sync (List SyncPiece) :=
  if heldBack s I.u I.mask s.nextId || slowLocal s I.u s.nextId || matWrites s I.u s.nextId then .no .stall
  else
    let t := translateAll s I write ((pieces (n / 64 + 2) va n).map fun p =>
      { key := p.2, thread := I.threads.headD 0, va := p.1, act := .rd 1 })
    match verdict t.1 I write true t.2 with
    | .go =>
      let ps := t.2.filterMap fun x => match x.xl with
        | .ok g _ cnt => some ({ va := x.req.va, gpa := g, n := x.req.key, cnt := cnt } : SyncPiece)
        | _ => none
      if ps.any fun p => p.waits t.1 I write then .no .stall
      else match ps.findSome? fun p => (p.wants t.1 I write).map fun ha => (p, ha) with
        | some x => .no (wantAts t.1 I x.1.gpa x.2)
        | none => .ok t.1 ps
    | v => .no (v.meets t.1 I write)

/-- The thread whose accesses these are. -/
def Issuer.syncThread (I : Issuer) : ThreadId :=
  unitThread I.u (if I.fe then 0 else let i := I.threads.headD 0; if I.ter then 3 * i else i)

/-- Reads the bytes of translated pieces, at their place. A piece of the register window that is refused traps at the
instruction, which consumes it (03_memory.md R439). -/
def syncGather (s : State) (I : Issuer) (ps : List SyncPiece) : Sync (List Byte) :=
  let r := ps.foldl (fun r p =>
    match r with
    | .no a => .no a
    | .ok s acc =>
      match gpaRead s I.blk.pkg I.blk.part p.gpa p.n I.st.level with
      | .ok l => .ok (readTrips s I.blk.pkg I.blk.part p.gpa l) (acc ++ overlay s I.syncThread I.blk.part I.blk.ctx p.va p.gpa l)
      | .s2 g => .no (holdSync s I g p.va false)
      | .mem g k => .no (.trap (memTrap g k p.va))
      | .win g k => .no (.trap (windowTrap g k))
      | .wait w => .no (barredAct s I w)) (Sync.ok s [])
  match r with
  | .ok s l => .ok (countLines s I (ps.map fun p => (p.gpa / 64, p.cnt))) l
  | .no a => .no a

def syncRead (s : State) (I : Issuer) (va n : Nat) : Sync (List Byte) :=
  match syncXlate s I false va n with
  | .no a => .no a
  | .ok s ps => syncGather s I ps

/-- A store of the slot's instruction at one place. One that fails there is reported at the next clause selection (R78,
R106, R109, R439). -/
def syncPut (s : State) (I : Issuer) (va gpa : Nat) (bs : List Byte) : State :=
  match gpaPut s I.blk.pkg I.blk.part gpa bs I.blk.ctx I.st.level (some I.u) with
  | .ok s' => noteStored s' I.blk.part gpa I.syncThread (some (I.blk.ctx, va)) bs
  | .s2 _ => s
  | .wait w => s.bar I.blk.pkg I.blk.part w
  | .mem g k => addDue s I.u [memNote k g]
  | .win g k => addDue s I.u [{ kind := k, memkind := 0, lanes := 0, addr := BitVec.ofNat 64 g }]

/-- Writes bytes at translated pieces; nothing is written when a piece is refused by the second stage. -/
def syncScatter (s : State) (I : Issuer) (va : Nat) (ps : List SyncPiece) (bs : List Byte) : Sync Unit :=
  match ps.find? fun p => (locate s I.blk.pkg I.blk.part p.gpa true).isNone with
  | some p => .no (holdSync s I p.gpa p.va true)
  | none => .ok (ps.foldl (fun s p => syncPut s I p.va p.gpa ((bs.drop (p.va - va)).take p.n))
      (countLines s I (ps.map fun p => (p.gpa / 64, p.cnt)))) ()

def syncWrite (s : State) (I : Issuer) (va : Nat) (bs : List Byte) : Sync Unit :=
  match syncXlate s I true va bs.length with
  | .no a => .no a
  | .ok s ps => syncScatter s I va ps bs

end Sys2Proof.Machine
end

