-- ==== Sys2Proof/Machine/TileMap.lean ====
section
/-! DEFINITION. Tile maps (13_matrix.md R286, R287, 07_local_memory.md R154) and the scratchpad of a block: its
allocation in the core's local SRAM, its uncorrectable words and its accesses (R150, R151, R153, 03_memory.md R59). -/

namespace Sys2Proof.Machine

/-! ## Fields of a tile map -/

def tmBase (m : DWord) : Nat := bits m.toNat 0 19
def tmPitch (m : DWord) : Nat := bits m.toNat 19 8 * 32
def tmFmt (m : DWord) : Nat := bits m.toNat 27 4
def tmTr (m : DWord) : Bool := m.getLsbD 31
def tmRows (m : DWord) : Nat := 16 * 2 ^ bits m.toNat 32 2
def tmCols (m : DWord) : Nat := 16 * 2 ^ bits m.toNat 34 2
def tmSkew (m : DWord) : Bool := m.getLsbD 36
def tmSr (m : DWord) : Bool := m.getLsbD 37
def tmDrm (m : DWord) : Nat := bits m.toNat 38 2
def tmTensor (m : DWord) : Nat := bits m.toNat 40 12
def tmPstrCode (m : DWord) : Nat := bits m.toNat 52 4
/-- Plane stride in bytes; 0 for none. -/
def tmPstr (m : DWord) : Nat := if tmPstrCode m == 0 then 0 else 2 ^ (tmPstrCode m + 9)
def tmSrKey (m : DWord) : Nat := bits m.toNat 56 8

/-- Element width in half bytes; 0 for a reserved format. -/
def tmNibbles (m : DWord) : Nat :=
  match tmFmt m with
  | 0 => 4 | 1 => 4 | 2 => 8 | 3 => 2 | 4 => 1 | 5 => 8 | 6 => 16 | _ => 0

def isPow2 (n : Nat) : Bool := n != 0 && 2 ^ Nat.log2 n == n

/-- The checks of R154, and of the format, with n planes counted in the size. -/
def mapFormed (m : DWord) (alloc planes : Nat) : Bool :=
  tmPitch m != 0 && tmNibbles m != 0 && tmCols m * tmNibbles m ≤ 2 * tmPitch m &&
  (!tmSkew m || isPow2 (bits m.toNat 19 8)) && tmBase m + (planes - 1) * tmPstr m + tmRows m * tmPitch m ≤ alloc

/-- The checks of a map that a MAT instruction names: those, and its plane stride (R287). -/
def mapValid (m : DWord) (alloc planes : Nat) : Bool := mapFormed m alloc planes && tmPstrCode m ≤ 9

/-- Scratchpad offset of the byte that holds element (r, c) (R154). -/
def tmOffset (m : DWord) (r c : Nat) : Nat :=
  let lb := c * tmNibbles m / 2
  if !tmSkew m then tmBase m + r * tmPitch m + lb
  else
    let pw := tmPitch m / 8
    let n := max 1 (128 / pw)
    let x := 4 * ((r / n) % min 32 (pw / 4))
    tmBase m + r * tmPitch m + 8 * ((lb / 8) ^^^ x) + lb % 8

/-! ## The block's scratchpad -/

def Block.scratchBase (B : Block) : Nat := B.step0 * 65536
def Block.scratchLen (B : Block) : Nat := B.node.scratch * 65536

/-- The 4-byte words of core SRAM that n bytes at an offset touch. -/
def sramWords (a n : Nat) : List Nat := (List.range ((a + n + 3) / 4 - a / 4)).map (· + a / 4)

def Core.sramBad (c : Core) (a n : Nat) : Bool := (sramWords a n).any c.badSram.contains

/-- A store to core SRAM: whole words are rewritten and their errors cleared; a part of an uncorrectable word is not
stored (R59, R62). The second result says that a part was dropped. -/
def Core.sramStore (c : Core) (a : Nat) (bs : List Byte) : Core × Bool :=
  let whole := (sramWords a bs.length).filter fun w => a ≤ 4 * w && 4 * w + 4 ≤ a + bs.length
  let c' := { c with badSram := c.badSram.filter fun w => !whole.contains w }
  if c'.sramBad a bs.length then
    (bs.zipIdx.foldl (fun c e => if c.badSram.contains ((a + e.2) / 4) then c
      else { c with sram := Memory.write c.sram (a + e.2) e.1 }) c', true)
  else ({ c' with sram := Memory.writeBytes c'.sram a bs }, false)

/-- Writes scratchpad bytes: a wholly written word loses its error; a part of an uncorrectable word is not stored (R59,
R62). The second result is the first such word. -/
def sramScatter (c : Core) (cells : List (Nat × Byte)) : Core × Option Nat :=
  let whole := fun w : Nat => (List.range 4).all fun i => cells.any (·.1 == 4 * w + i)
  let c := if c.badSram.isEmpty then c else { c with badSram := c.badSram.filter fun w => !whole w }
  let ok := cells.filter fun x => !c.badSram.contains (x.1 / 4)
  let lost := (cells.filter fun x => c.badSram.contains (x.1 / 4)).head?
  ({ c with sram := ok.foldl (fun m x => Memory.write m x.1 x.2) c.sram }, lost.map (·.1))

/-- One lane's access to core SRAM at offset a (R161, R166). -/
def sramLane (acc : Core × Answer × Bool) (key a : Nat) (act : LaneAct) : Core × Answer × Bool :=
  let c := acc.1
  let ans := acc.2.1
  match act with
  | .rd n =>
    if c.sramBad a n then (c, { ans with errs := ans.errs ++ [(key, memNote 3 a)] }, acc.2.2)
    else (c, { ans with got := ans.got ++ [(key, Memory.readBytes c.sram a n)] }, acc.2.2)
  | .wr bs =>
    let r := c.sramStore a bs
    (r.1, ans, acc.2.2 || r.2)
  | .amo op =>
    if c.sramBad a 4 then (c, { ans with errs := ans.errs ++ [(key, memNote 3 a)] }, acc.2.2)
    else
      let old := Memory.readBytes c.sram a 4
      ({ c with sram := if op.stores (ofLe old) then Memory.writeBytes c.sram a (leBytes 4 (atomNew op (ofLe old))) else c.sram },
       { ans with got := ans.got ++ [(key, old)] }, acc.2.2)

/-- Whether a MAT instruction of the quire that has not retired writes bytes of a range (R289); operands are read at
issue. -/
def matTouches (s : State) (I : Issuer) (a n : Nat) : Bool :=
  (s.coreOf I.blk.core).matQ.any fun m => m.b == I.b && m.q == I.q &&
    m.scratch.any fun t => decide (a ≤ t.1) && decide (t.1 < a + n)

/-- Scratchpad bytes of a block, for the matrix engine and engines: none when a word is uncorrectable. -/
def scratchRead (s : State) (core a n : Nat) : Option (List Byte) :=
  let c := s.coreOf core
  if c.sramBad a n then none else some (Memory.readBytes c.sram a n)

end Sys2Proof.Machine
end

