-- ==== Sys2Proof/Machine/MemOps.lean ====
section
/-! DEFINITION. The memory instructions of the MEM class and the steps that end them (07_local_memory.md R157 to R171,
08_ordering.md R185 to R190, 03_memory.md R61 to R66). -/

namespace Sys2Proof.Machine

/-! ## Frames of the MEM class -/

/-- v registers of a width code: one, a pair, or four. -/
def regsOfWidth (w : Nat) : Nat := if w == 4 then 4 else if w == 3 then 2 else 1

/-- A group of n data registers, aligned to n (R158). -/
def Issuer.groupOk (I : Issuer) (r n : Nat) : Bool := r % n == 0 && I.vOk r n

def Issuer.srcGroup (I : Issuer) (r n : Nat) : List SrcSt := (List.range n).map fun j => I.srcV (r + j)

/-- A lane's value of n registers, the lowest 32 bits in the first. -/
def Issuer.group (I : Issuer) (r n l : Nat) : Nat :=
  (List.range n).foldl (fun a j => a + ((I.vreg (r + j)).at l).toNat <<< (32 * j)) 0

def emptyGroup (s : State) (I : Issuer) (r n : Nat) : State := (List.range n).foldl (fun s j => emptyV s I (r + j)) s

/-- The virtual address of a lane of an F.MV instruction (R157). -/
def mvAddr (f : MV) (I : Issuer) (l : Nat) : Nat :=
  (I.s2 f.sb.toNat + ((I.vreg f.va.toNat).at l).signExtend 64).toNat

def mvOk (f : MV) (I : Issuer) (n : Nat) : Bool :=
  f.sb.toNat % 2 == 0 && I.vOk f.va.toNat 1 && I.groupOk f.data.toNat n

def mvSrcs (f : MV) (I : Issuer) : List SrcSt := I.srcV f.va.toNat (f.ea == 1) :: I.srcS2 f.sb.toNat

/-- A thread's value: MAJ3 of its siblings' (R159); the threads without one trap before it is used. -/
def Issuer.maj (I : Issuer) (f : Nat → Nat) (i : Nat) : Nat := (majority I.ter i f).getD 0

/-- Threads whose siblings' addresses, or values, all differ. -/
def Issuer.split (I : Issuer) (fs : List (Nat → Nat)) : List Nat :=
  I.threads.filter fun i => fs.any fun f => (majority I.ter i f).isNone

/-- ALIGN with the address of the lowest faulting thread (R158, R362). -/
def alignTrap (I : Issuer) (whole : Bool) (l : List (Nat × Nat)) : Option Trap :=
  match l with
  | [] => none
  | x :: t =>
    some { cause := .align, info := BitVec.ofNat 64 (x.2 % 2 ^ 52)
           mask := if whole || I.fe then none else some (maskOfThreads I.ter ((x :: t).map (·.1))) }

/-- The misaligned accesses among threads with their addresses. -/
def misaligned (l : List (Nat × Nat)) (b : Nat) : List (Nat × Nat) := l.filter fun x => x.2 % b != 0

/-- Orders 4 to 9 of R162 for an access of each thread at addr, aligned to b. vals are the operands that take a
majority; bad is the DETVIOL check of order 5. -/
def perThread (s : State) (I : Issuer) (write : Bool) (b : Nat) (addr : Nat → Nat) (vals : List (Nat → Nat)) (det : Bool)
    (act : Nat → LaneAct) (dest : Dest) (acq : Nat) (mark : State → State) : Act :=
  match I.split (addr :: vals) with
  | x :: t => I.badThreads (x :: t)
  | [] =>
    if det then I.bad .detviol
    else match alignTrap I false (misaligned (I.threads.map fun i => (i, I.maj addr i)) b) with
    | some t => .trap t
    | none =>
      memIssue s I write false (I.threads.map fun i => { key := i, thread := i, va := I.maj addr i, act := act i }) dest acq mark

/-! ## LD and ST (R163) -/

def execLd (f : MV) (s : State) : Host.Outcome State Fault Refusal :=
  onQuire (.ld f) s fun I =>
    let n := regsOfWidth f.width.toNat
    let b := 2 ^ f.width.toNat
    let d := f.data.toNat
    if !mvOk f I n then I.bad .illegalOperand
    else withSrcs I (mvSrcs f I) (I.srcGroup d n) fun _ =>
      perThread s I false b (mvAddr f I) [] false (fun _ => .rd b) (.vreg d n b (f.sx == 1)) 0 (fun s => emptyGroup s I d n)

/-- The majority of the data (R159) is taken of the siblings' whole registers, also where .8 and .16 store only their low
bits (log 122). -/
def execSt (f : MV) (s : State) : Host.Outcome State Fault Refusal :=
  onQuire (.st f) s fun I =>
    let n := regsOfWidth f.width.toNat
    let b := 2 ^ f.width.toNat
    let d := f.data.toNat
    if !mvOk f I n then I.bad .illegalOperand
    else withSrcs I (mvSrcs f I ++ I.srcGroup d n) [] fun _ =>
      perThread s I true b (mvAddr f I) [I.group d n] false (fun i => .wr (leBytes b (I.maj (I.group d n) i))) .none 0 id

/-! ## LDT and STT (R164, R63 to R65) -/

/-- Whether an LDT or STT word is of FP64. -/
def mvF64 (f : MV) : Bool := f.width == 3
def mvEs (f : MV) : Nat := if (mvF64 f) then 8 else 4
def mvFmt (f : MV) : Fmt := if (mvF64 f) then fp64 else fp32

/-- The kind of the page that holds each thread's element; none where its translation fails. -/
def elemKinds (s : State) (I : Issuer) (f : MV) (write : Bool) : List (Nat × Option Nat) :=
  (translateAll s I write (I.threads.map fun i => { key := i, thread := i, va := I.maj (mvAddr f I) i, act := .rd 1 })).2.map
    fun x => (x.req.thread, match x.xl with
      | .ok _ k _ => some k
      | _ => none)

/-- The digit byte's address. -/
def mvDigitAddr (f : MV) (I : Issuer) (i : Nat) : Nat :=
  let va := (BitVec.ofNat 32 (I.maj (fun l => ((I.vreg f.va.toNat).at l).toNat) i)).toInt
  (I.s2 f.sb.toNat + (I.sreg (f.sb.toNat + 2)).val.signExtend 64 + BitVec.ofInt 64 (va / ((mvEs f) : Int))).toNat

/-- The parts of a TRIPLE element: one access, or two where it crosses a line (R65). -/
def triplePieces (a n : Nat) : List (Nat × Nat) := pieces 3 a n

/-- The accesses of a thread: the element, and the digit byte of MEANDIG. A single-lane LDT reads the digit byte too,
though it does not use the value (log 83). -/
def elemReqs (f : MV) (I : Issuer) (i : Nat) (kind : Option Nat) (elem : LaneAct) (triple : Nat → Nat → LaneAct)
    (digit : LaneAct) : List MemReq :=
  let a := I.maj (mvAddr f I) i
  match kind with
  | some 1 => (triplePieces a (3 * (mvEs f))).zipIdx.map fun p =>
      { key := i * 8 + p.2, thread := i, va := p.1.1, act := triple (p.1.1 - a) p.1.2 }
  | some 2 => [{ key := i * 8, thread := i, va := a, act := elem },
               { key := i * 8 + 2, thread := i, va := mvDigitAddr f I i, act := digit, plain := true }]
  | _ => [{ key := i * 8, thread := i, va := a, act := elem }]

/-- The frame of LDT and STT: register checks, sources, majority, alignment, and then the accesses of each thread. -/
def tripleFrame (i : Instr) (f : MV) (s : State) (write : Bool) (k : Issuer → List (Nat × Option Nat) → Act) :
    Host.Outcome State Fault Refusal :=
  onQuire i s fun I =>
    let n := if (mvF64 f) then 2 else 1
    let d := f.data.toNat
    if !(mvOk f I n && f.sb.toNat ≤ 28) then I.bad .illegalOperand
    else
      withSrcs I (mvSrcs f I ++ [I.srcS (f.sb.toNat + 2)] ++ (if write then I.srcGroup d n else []))
        (if write then [] else I.srcGroup d n) fun _ =>
      match I.split [mvAddr f I] with
      | x :: t => I.badThreads (x :: t)
      | [] =>
        let kinds := elemKinds s I f write
        let off := fun i : Nat => I.maj (fun l => ((I.vreg f.va.toNat).at l).toNat) i % (mvEs f)
        match alignTrap I false ((kinds.filter fun x : Nat × Option Nat =>
            I.maj (mvAddr f I) x.1 % (mvEs f) != 0 || (x.2 == some 2 && off x.1 != 0)).map
              fun x : Nat × Option Nat => (x.1, I.maj (mvAddr f I) x.1)) with
        | some t => .trap t
        | none => k I kinds

def execLdt (f : MV) (s : State) : Host.Outcome State Fault Refusal :=
  tripleFrame (.ldt f) f s false fun I kinds =>
    let n := if (mvF64 f) then 2 else 1
    memIssue s I false false
      (kinds.flatMap fun x : Nat × Option Nat => elemReqs f I x.1 x.2 (.rd (mvEs f)) (fun _ k => .rd k) (.rd 1))
      (.ldt f.data.toNat (mvF64 f) (kinds.map fun x : Nat × Option Nat => (x.1, x.2.getD 0))) 0
      (fun s => emptyGroup s I f.data.toNat n)

/-- The siblings that STT stores: a single lane's value stands for all three. -/
def sttSiblings (f : MV) (I : Issuer) (i : Nat) : List Nat :=
  let n := if (mvF64 f) then 2 else 1
  (if I.ter then lanesOf true i else [i, i, i]).map (I.group f.data.toNat n)

def sttMean (f : MV) (I : Issuer) (i : Nat) : Nat :=
  let x := sttSiblings f I i
  if I.ter then tmean (mvFmt f) (x.getD 0 0) (x.getD 1 0) (x.getD 2 0) else x.getD 0 0

def sttDigit (f : MV) (I : Issuer) (i : Nat) : Nat :=
  let x := sttSiblings f I i
  if I.ter then digCount (mvFmt f) (x.getD 0 0) (x.getD 1 0) (x.getD 2 0) else (mvFmt f).p

def execStt (f : MV) (s : State) : Host.Outcome State Fault Refusal :=
  tripleFrame (.stt f) f s true fun I kinds =>
    memIssue s I true false
      (kinds.flatMap fun x : Nat × Option Nat =>
        let all := (sttSiblings f I x.1).flatMap (leBytes (mvEs f))
        elemReqs f I x.1 x.2 (.wr (leBytes (mvEs f) (sttMean f I x.1))) (fun o k => .wr ((all.drop o).take k))
          (.wr (leBytes 1 (sttDigit f I x.1)))) .none 0 id

/-! ## LDS, STS and ATOMS (R165, R166) -/

/-- What an F.MS access does per thread: the offset of its first byte, or the offending map element. -/
def msOffset (f : MS) (m : DWord) (va : Nat) : Option Nat :=
  if f.map == 0 then some va
  else if tmRows m ≤ va / 65536 || tmCols m ≤ va % 65536 then none else some (tmOffset m (va / 65536) (va % 65536))

/-- BOUNDS with the offending value of the lowest faulter (R362). -/
def boundsTrap (I : Issuer) (kind : Nat) (l : List (Nat × Nat)) : Option Trap :=
  match l with
  | [] => none
  | x :: t => some { cause := .bounds, info := BitVec.ofNat 64 (x.2 % 2 ^ 32 + kind <<< 32)
                     mask := some (maskOfThreads I.ter ((x :: t).map (·.1))) }

/-- The scratchpad accesses of one instruction, thread by thread in ascending order. -/
def scratchRun (s : State) (I : Issuer) (l : List (Nat × Nat)) (act : Nat → LaneAct) : State × Answer :=
  let r := l.foldl (fun acc x => sramLane acc x.1 (I.blk.scratchBase + x.2) (act x.1)) (s.coreOf I.blk.core, ({} : Answer), false)
  let s := s.updCore I.blk.core fun _ => r.1
  (if r.2.2 then s.tell (.storeDropped I.blk.ctx I.blk.scratchBase) else s, r.2.1)

/-- The frame of LDS, STS and ATOMS at b bytes with n data registers. -/
def scratchFrame (i : Instr) (f : MS) (s : State) (b n : Nat) (rdData wrData : Bool) (act : Issuer → Nat → LaneAct)
    (dest : Dest) : Host.Outcome State Fault Refusal :=
  onQuire i s fun I =>
    let d := f.data.toNat
    let m := Tab.get 0 (s.coreOf I.blk.core).t f.t.toNat
    let va := fun l : Nat => ((I.vreg f.va.toNat).at l).toNat
    let mapOk := f.map == 0 || (tmNibbles m == 2 * b && mapFormed m I.blk.scratchLen 1)
    if !(I.vOk f.va.toNat 1 && I.groupOk d n && mapOk) then I.bad .illegalOperand
    else withSrcs I (I.srcV f.va.toNat (f.ea == 1) :: (if rdData then I.srcGroup d n else []))
        (if wrData then I.srcGroup d n else []) fun _ =>
      match I.split (va :: (if rdData then [I.group d n] else [])) with
      | x :: t => I.badThreads (x :: t)
      | [] =>
        let at_ := I.threads.map fun i => (i, I.maj va i, msOffset f m (I.maj va i))
        let good := at_.filterMap fun x : Nat × Nat × Option Nat => x.2.2.map fun o => (x.1, o)
        match alignTrap I false (misaligned good b) with
        | some t => .trap t
        | none =>
          match boundsTrap I (if f.map == 1 then 2 else 1) ((at_.filter fun x : Nat × Nat × Option Nat =>
              match x.2.2 with
              | some o => f.map == 0 && I.blk.scratchLen < o + b
              | none => true).map fun x : Nat × Nat × Option Nat => (x.1, x.2.1)) with
          | some t => .trap t
          | none =>
            if heldBack s I.u I.mask s.nextId || slowLocal s I.u s.nextId || (outstanding s I.u I.mask).any (·.2.acq != 0) ||
               matWrites s I.u s.nextId then .stall
            else
              let id := s.nextId
              let r := scratchRun (if wrData then { emptyGroup s I d n with nextId := id + 1 } else s) I good (act I)
              let op : PendOp :=
                { unit := I.u, dest := dest, ter := I.ter, keys := I.threads, waiting := 0
                  got := r.2.got, errs := r.2.errs, lanes := I.mask }
              if wrData then .done { r.1 with ops := Tab.set r.1.ops id op } else .done r.1

def execLds (f : MS) (s : State) : Host.Outcome State Fault Refusal :=
  let b := 2 ^ f.width
  let n := regsOfWidth f.width
  scratchFrame (.lds f) f s b n false true (fun _ _ => .rd b) (.vreg f.data.toNat n b (f.sx == 1))

def execSts (f : MS) (s : State) : Host.Outcome State Fault Refusal :=
  let b := 2 ^ f.width
  let n := regsOfWidth f.width
  scratchFrame (.sts f) f s b n true false (fun I i => .wr (leBytes b (I.maj (I.group f.data.toNat n) i))) .none

def execAtoms (f : MS) (s : State) : Host.Outcome State Fault Refusal :=
  scratchFrame (.atoms f) f s 4 1 true true
    (fun I i => .amo { kind := .atom, op := f.hi.toNat, w64 := false
                       v := BitVec.ofNat 64 (I.maj (I.group f.data.toNat 1) i) })
    (.vreg f.data.toNat 1 4 false)

/-! ## LDU and STU (R167) -/

def muAddr (f : MU) (I : Issuer) : Nat := (I.s2 f.sb.toNat + f.imm.signExtend 64).toNat

/-- An access made once for the slot, at a virtual address aligned to b. -/
def onceForSlot (s : State) (I : Issuer) (write : Bool) (b a : Nat) (act : LaneAct) (dest : Dest) (mark : State → State) : Act :=
  match alignTrap I true (misaligned [(0, a)] b) with
  | some t => .trap t
  | none => memIssue s I write true [{ key := 0, thread := I.threads.headD 0, va := a, act := act }] dest 0 mark

def execLdu (f : MU) (s : State) : Host.Outcome State Fault Refusal :=
  onQuire (.ldu f) s fun I =>
    let b := 2 ^ f.width.toNat
    let wide := f.width == 3
    let d := f.sd.toNat
    if f.sb.toNat % 2 != 0 || (wide && d % 2 != 0) then I.bad .illegalOperand
    else withSrcs I (I.srcS2 f.sb.toNat) (if wide then I.srcS2 d else [I.srcS d]) fun _ =>
      onceForSlot s I false b (muAddr f I) (.rd b) (.sreg d b (f.sx == 1) (I.sbank d))
        (fun s => if wide then emptyS (emptyS s I d) I (d + 1) else emptyS s I d)

def execStu (f : MU) (s : State) : Host.Outcome State Fault Refusal :=
  onQuire (.stu f) s fun I =>
    let b := 2 ^ f.width.toNat
    let wide := f.width == 3
    let d := f.sd.toNat
    if f.sb.toNat % 2 != 0 || (wide && d % 2 != 0) then I.bad .illegalOperand
    else withSrcs I (I.srcS2 f.sb.toNat ++ (if wide then I.srcS2 d else [I.srcS d])) [] fun _ =>
      onceForSlot s I true b (muAddr f I) (.wr (leBytes b (I.sval wide d))) .none id

/-! ## ATOM, ACAS and FATOM (R168 to R170, R182) -/

/-- The frame of the global atomics: extra is the number of data registers beyond one value (ACAS has two values). -/
def atomFrame (i : Instr) (f : MA) (s : State) (kind : AtomKind) (two : Bool) : Host.Outcome State Fault Refusal :=
  onQuire i s fun I =>
    let w := f.w64 == 1
    let n := if w then 2 else 1
    let d := f.data.toNat
    let n2 := if two then 2 * n else n
    let dataOk := d % (if w then n2 else 1) == 0 && I.vOk d n2
    let ret := f.nr == 0
    let addr := I.vval true f.va.toNat
    let cmp := I.group d n
    let new := I.group (d + n) n
    let sc := I.scope f.scope.toNat
    if !(I.vWide true f.va.toNat && dataOk) then I.bad .illegalOperand
    else withSrcs I (I.srcV2 true f.va.toNat (f.ea == 1) ++ I.srcGroup d n2) [] fun _ =>
      if unperformed s I.u I.mask s.nextId sc && (I.split (addr :: cmp :: (if two then [new] else []))).isEmpty then .stall
      else
        let act := perThread s I true (4 * n) addr (cmp :: (if two then [new] else [])) (kind == .fatom && I.blk.node.det)
          (fun i => .amo
            { kind := kind, op := f.op.toNat, w64 := w, v := BitVec.ofNat 64 (I.maj (if two then new else cmp) i)
              cmp := BitVec.ofNat 64 (I.maj cmp i), ret := ret })
          (if ret then .vreg d n (4 * n) false else .none) (acqOf sc)
          (fun s => if ret then emptyGroup s I d n else s)
        match act with
        | .done s' => .done (countClamp s' I f.scope.toNat)
        | a => a

def execAtom (f : MA) (s : State) := atomFrame (.atom f) f s .atom false
def execAcas (f : MA) (s : State) := atomFrame (.acas f) f s .acas true
def execFatom (f : MA) (s : State) := atomFrame (.fatom f) f s .fatom false

/-! ## PREF and CLEAN (R171) -/

/-- The lines of the threads' addresses that every check lets through, and whether their pages are counted. -/
def prefLines (s : State) (I : Issuer) (l : List (Nat × Nat)) : State × List (Nat × Bool) :=
  l.foldl (fun acc x =>
    match translate acc.1 (I.who x.1) x.2 false with
    | (s', .ok gpa _ cnt) => (s', if acc.2.any (·.1 == gpa / 64) then acc.2 else acc.2 ++ [(gpa / 64, cnt)])
    | _ => acc) (s, [])

/-- Brings a line into its home bank, or is dropped. -/
def prefLine (s : State) (I : Issuer) (line : Nat) : State :=
  match locate s I.blk.pkg I.blk.part (line * 64) false with
  | some (.dev d) => if d >>> 44 == I.blk.pkg then l2Fill s I.blk.pkg I.blk.part line (d / 64) else s
  | _ => s

def execPref (f : MV) (s : State) : Host.Outcome State Fault Refusal :=
  onQuire (.pref f) s fun I =>
    if !(f.sb.toNat % 2 == 0 && I.vOk f.va.toNat 1) then I.bad .illegalOperand
    else match checkSrcs I (mvSrcs f I) with
      | .stall => .stall
      | .trap _ => .done s
      | .ok =>
        let r := prefLines s I (I.threads.filterMap fun i => (majority I.ter i (mvAddr f I)).map fun a => (i, a))
        if r.2.any fun x => bankScrubbed r.1 I.blk.pkg I.blk.part x.1 then .stall
        else .done (r.2.foldl (fun s x => prefLine s I x.1) (countLines r.1 I r.2))

/-- Writes a line back where its home package holds it: the copy is no longer dirty. A pinned line is never written back
(R149). -/
def cleanLine (s : State) (I : Issuer) (x : Located) : State :=
  match x.xl with
  | .ok gpa _ _ =>
    (match locate s I.blk.pkg I.blk.part gpa false with
     | some (.dev d) => l2Update s (d >>> 44) I.blk.part (gpa / 64) fun l => { l with dirty := l.dirty && pinned l }
     | _ => s)
  | _ => s

def execClean (f : MV) (s : State) : Host.Outcome State Fault Refusal :=
  onQuire (.clean f) s fun I =>
    if !(f.sb.toNat % 2 == 0 && I.vOk f.va.toNat 1) then I.bad .illegalOperand
    else withSrcs I (mvSrcs f I) [] fun _ =>
      match I.split [mvAddr f I] with
      | x :: t => I.badThreads (x :: t)
      | [] =>
        let t := translateAll s I false
          (I.threads.map fun i => { key := i, thread := i, va := I.maj (mvAddr f I) i, act := .rd 1 })
        match verdict t.1 I false false t.2 with
        | .go => .done (t.2.foldl (fun s x => cleanLine s I x)
            (countLines t.1 I ((groupLines t.2).map fun l => (l.line, l.cnt))))
        | v => v.meets t.1 I false

/-! ## Fences and seals (R185 to R190) -/

def execFence (f : MF) (s : State) : Host.Outcome State Fault Refusal :=
  onQuire (.fence f) s fun _ => .wait s (.fence f.scope.toNat false 0 0)

def execPfence (s : State) : Host.Outcome State Fault Refusal :=
  onQuire .pfence s fun _ => .wait s (.fence 5 false 0 0)

/-- The frame of the instructions that name a region: even pairs, full. -/
def regionFrame (i : Instr) (f : MF) (s : State) (k : Issuer → Nat → Nat → Act) : Host.Outcome State Fault Refusal :=
  onQuire i s fun I =>
    if f.sb.toNat % 2 != 0 || f.sl.toNat % 2 != 0 then I.bad .illegalOperand
    else withSrcs I (I.srcS2 f.sb.toNat ++ I.srcS2 f.sl.toNat) [] fun _ =>
      k I (I.s2 f.sb.toNat).toNat (I.s2 f.sl.toNat).toNat

def execAfence (f : MF) (s : State) : Host.Outcome State Fault Refusal :=
  regionFrame (.afence f) f s fun I base len =>
    if 2 ^ 52 ≤ base || 2 ^ 52 < base + len then I.bad .illegalOperand else .wait s (.fence 5 true base len)

/-- The accesses that translate every page of a region. -/
def sealReqs (I : Issuer) (base len : Nat) : List MemReq :=
  (List.range (len / 65536)).map fun k =>
    { key := k, thread := I.threads.headD 0, va := base + 65536 * k, act := .rd 1 }

def sealFrames (xs : List Located) : List Nat :=
  xs.filterMap fun x => match x.xl with
    | .ok g _ _ => some (g >>> 16)
    | _ => none

/-- Whether a region may be sealed now: none, or what the instruction meets (R189). -/
def sealCheck (s : State) (I : Issuer) (base len : Nat) : Act ⊕ (State × List Nat) :=
  if base % 65536 != 0 || len % 65536 != 0 || len == 0 || 2 ^ 34 < len then .inl (I.bad .illegalOperand)
  else
    let t := translateAll s I false (sealReqs I base len)
    match verdict t.1 I false true t.2 with
    | .go =>
      let fs := sealFrames t.2
      let old := (s.partOf I.blk.part).seals
      if 64 ≤ old.length || old.any (fun r => r.frames.any fs.contains) then .inl (I.bad .illegalOperand)
      else .inr (t.1, fs)
    | v => .inl (v.meets t.1 I false)

def execSeal (f : MF) (s : State) : Host.Outcome State Fault Refusal :=
  regionFrame (.seal f) f s fun I base len =>
    match sealCheck s I base len with
    | .inl a => a
    | .inr x => .wait x.1 (.seal base len)

def sealNamed (s : State) (part base len : Nat) : Option Seal :=
  (s.partOf part).seals.find? fun r => r.base == base && r.len == len

def execUnseal (f : MF) (s : State) : Host.Outcome State Fault Refusal :=
  regionFrame (.unseal f) f s fun I base len =>
    if (sealNamed s I.blk.part base len).isNone then I.bad .illegalOperand else .wait s (.unseal base len)

/-! ## The steps that end them -/

/-- What a fence of a scope waits for (R186, R187): the accesses that the scope carries, among them those to the quire's
scratchpad, and loads whose data has not been returned. Below PART there is nothing to wait for: CLEAN completes when it
issues. -/
def fencePending (s : State) (I : Issuer) (scope : Nat) : Bool :=
  5 ≤ scope && (unperformed s I.u I.mask s.nextId scope ||
    (outstanding s I.u I.mask).any fun e => e.2.dest != .none && e.2.waiting == 0)

/-- FENCE_COMPLETE (R186 to R188): the unit named by the subject waits at a fence, and what it waits for is complete. -/
def execFenceComplete (s : State) : Host.Outcome State Fault Refusal :=
  match issuerOf s s.subject.unit 0 with
  | none => .next s
  | some I =>
    match I.st.wait with
    | .fence sc af base len =>
      if fencePending s I (I.scope sc) then .next s
      else (Act.done (if af then fenceAlias s I.aliasThreads base len else countClamp s I sc)).finish s I
    | _ => .next s

/-- Writes of the partition to the frames that are still on their way (R189). An HGTAKE whose message has been taken owes
its store; one that still waits finds the seal when it is answered. -/
def writesInFlight (s : State) (part : Nat) (fs : List Nat) : Bool :=
  (s.msgs.any fun m => m.2.req.part == part && m.2.req.write && fs.contains (m.2.req.gpa >>> 16) && (match m.2.state with
    | .answered _ => false
    | _ => true)) ||
  (s.held.any fun h => match h.what with
    | .line r => r.part == part && r.write && fs.contains (r.gpa >>> 16)
    | .behind r => r.part == part && r.write && fs.contains (r.gpa >>> 16)
    | .slow r => r.part == part && r.write && fs.contains (r.gpa >>> 16)
    | _ => false) ||
  s.gates.any fun g => g.2.kind == .take && g.2.part == part && fs.contains (g.2.gpa >>> 16) && (match g.2.state with
    | .answered rs => (rs.headD 0).getLsbD 63
    | _ => false)

/-- SEAL_EFFECT (R189): the unit named by the subject waits at SEAL, and its earlier accesses and every store to the
region are performed; the region is sealed at once on every package. -/
def execSealEffect (s : State) : Host.Outcome State Fault Refusal :=
  match issuerOf s s.subject.unit 0 with
  | none => .next s
  | some I =>
    match I.st.wait with
    | .seal base len =>
      if fencePending s I 7 then .next s
      else match sealCheck s I base len with
        | .inl a => a.finish s I
        | .inr x =>
          if writesInFlight s I.blk.part x.2 then .next s
          else (Act.done (x.1.updPart I.blk.part fun P =>
            { P with seals := P.seals ++ [{ base := base, len := len, frames := x.2, ctx := I.blk.ctx }] })).finish s I
    | _ => .next s

/-- UNSEAL_EFFECT (R185, R190): the unit named by the subject waits at UNSEAL, and its earlier accesses are performed; the
region ceases to be sealed. -/
def execUnsealEffect (s : State) : Host.Outcome State Fault Refusal :=
  match issuerOf s s.subject.unit 0 with
  | none => .next s
  | some I =>
    match I.st.wait with
    | .unseal base len =>
      if fencePending s I 7 then .next s
      else (match sealNamed s I.blk.part base len with
       | none => I.bad .illegalOperand
       | some r => Act.done (s.updPart I.blk.part fun P => { P with seals := P.seals.erase r })).finish s I
    | _ => .next s

/-! ## LOAD_RETURN (R160, R61, R78) -/

/-- Writes a v register of quire q of block b wherever it stands. -/
def setVreg (s : State) (b q r : Nat) (f : VReg → VReg) : State :=
  if r < 64 then s.updQuire (quireKey b q) fun Q => { Q with v := Tab.set Q.v r (f (Tab.get {} Q.v r)) }
  else s.updBlock b fun B =>
    { B with ext := Tab.set B.ext (q / 2) (Tab.set (Tab.get [] B.ext (q / 2)) r (f (Tab.get {} (Tab.get [] B.ext (q / 2)) r))) }

/-- The note of a group of failing keys: the kind and the address of the lowest, the lanes of all (R198). -/
def noteOf (ter : Bool) (div : Nat) (errs : List (Nat × Note)) : Option Note :=
  (errs.foldl (fun (best : Option (Nat × Note)) e => match best with
    | some b => if e.1 < b.1 then some e else best
    | none => some e) none).map fun e => { e.2 with lanes := maskOfThreads ter (errs.map fun x => x.1 / div).eraseDups }

/-- Delivers a group of v registers: val gives word j of a lane of the threads that succeeded. -/
def deliverV (s : State) (op : PendOp) (b q r n div : Nat) (val : Nat → Nat → Word) : State :=
  let failed := (op.errs.map fun e => e.1 / div)
  let good := maskOfThreads op.ter ((op.keys.map (· / div)).eraseDups.filter fun i => !failed.contains i)
  let note := noteOf op.ter div op.errs
  (List.range n).foldl (fun s j => setVreg s b q (r + j) fun v =>
    { lanes := mergeLanes v.lanes good (val j), full := note.isNone, note := note }) s

/-- The values that LDT gives the siblings of a thread (R64). -/
def ldtValues (F : Fmt) (ter : Bool) (kind : Nat) (bytes : Nat → List Byte) (es : Nat) : List Nat :=
  let m := ofLe (bytes 0)
  match kind with
  | 1 =>
    let all := bytes 0 ++ bytes 1
    let x := (List.range 3).map fun j => ofLe ((all.drop (j * es)).take es)
    if ter then x else let t := tmean F (x.getD 0 0) (x.getD 1 0) (x.getD 2 0); [t, t, t]
  | 2 => if ter then let x := spread F m (min (ofLe (bytes 2)) F.p); [x.1, x.2.1, x.2.2] else [m, m, m]
  | _ => [m, m, m]

def keyBytes (g : List (Nat × List Byte)) (k : Nat) : List Byte := ((g.find? (·.1 == k)).map (·.2)).getD []

/-- Delivers to an s register, in the slot's bank where it was named at S. -/
def deliverS (s : State) (u : UnitId) (bank : Bool) (r : Nat) (v : Reg Word) : State :=
  match u with
  | .slot b q _ =>
    if bank then updStrand s u fun c => { c with bank := Tab.set c.bank r { val := v.val.setWidth 64, full := v.full, note := v.note } }
    else s.updQuire (quireKey b q) fun Q => { Q with s := Tab.set Q.s r v }
  | .front _ => s

def deliverX (s : State) (u : UnitId) (bank : Bool) (r : Nat) (v : Reg DWord) : State :=
  if r == 0 then s
  else if bank then updStrand s u fun c => { c with bank := Tab.set c.bank r v }
  else s.updBlock (unitBlock u) fun B => { B with front := { B.front with x := Tab.set B.front.x r v } }

/-- TSTAT.SIGMIS and the notification of reason 2 of a signature mismatch, its FRAME that of the compared address
(R306). -/
def sigMismatch (s : State) (u : UnitId) (addr : DWord) : State :=
  match u, Tab.find s.blocks (unitBlock u) with
  | .slot b q _, some B =>
    let s := s.updQuire (quireKey b q) fun Q => { Q with tstat := Q.tstat ||| (1#32 <<< 30) }
    let frame := match (translate s { pkg := B.pkg, part := B.part, ctx := B.ctx, lvl := .s } addr.toNat false).2 with
      | .ok g _ _ => g >>> 16
      | _ => 0
    let entry := leBytes 8 (frame <<< 16 + 2) ++
      leBytes 4 (dieOfCore B.core + (B.pkg % 256) <<< 8 + (B.pkg / 256) <<< 16) ++ leBytes 4 s.now ++
      leBytes 8 addr.toNat ++ leBytes 4 B.ctx.toNat ++ leBytes 4 B.idx
    (notify s B.pkg B.part entry).1
  | _, _ => s

/-- What an operation whose requests have all been answered does. -/
def deliver (s : State) (op : PendOp) : State :=
  match op.unit with
  | .front _ =>
    (match op.dest with
     | .xreg r w64 bank =>
       let note := noteOf false 1 op.errs
       let v := gotBytes op.got 0
       let old : DWord := match Tab.find s.blocks (unitBlock op.unit) with
         | some B => (Tab.get { val := 0 } B.front.x r).val
         | none => 0
       deliverX s op.unit bank r
         { val := if note.isSome then old else BitVec.ofNat 64 (if w64 then v else v % 2 ^ 32), full := note.isNone, note := note }
     | _ => s)
  | .slot b q _ =>
    match op.dest with
    | .vreg r n bytes sx =>
      deliverV s op b q r n 1 fun j l =>
        let v := gotBytes op.got (threadOf op.ter l)
        BitVec.ofNat 32 ((if n == 1 then extendLoad bytes sx v else v) >>> (32 * j))
    | .ldt r f64 kinds =>
      let F := if f64 then fp64 else fp32
      let es := if f64 then 8 else 4
      deliverV s op b q r (if f64 then 2 else 1) 8 fun j l =>
        let i := threadOf op.ter l
        let kind := Tab.get 0 kinds i
        let x := ldtValues F op.ter kind (fun p => keyBytes op.got (i * 8 + p)) es
        BitVec.ofNat 32 (x.getD (if op.ter then l % 3 else 0) 0 >>> (32 * j))
    | .sreg r bytes sx bank =>
      let note := (noteOf false 1 op.errs).map fun n => { n with lanes := 1 }
      let v := gotBytes op.got 0
      let old : Word := match Tab.find s.quires (quireKey b q) with
        | some Q => (Tab.get { val := 0 } Q.s r).val
        | none => 0
      let lo : Reg Word :=
        { val := if note.isSome then old else BitVec.ofNat 32 (if bytes == 8 then v else extendLoad bytes sx v)
          full := note.isNone, note := note }
      let s := deliverS s op.unit bank r lo
      if bytes == 8 then deliverS s op.unit (bank) (r + 1) { val := BitVec.ofNat 32 (v >>> 32), full := note.isNone, note := note } else s
    | _ => s

/-- LOAD_RETURN: the operation numbered idx of the subject has all its data (R160). -/
def execLoadReturn (s : State) : Host.Outcome State Fault Refusal :=
  match Tab.find s.ops s.subject.idx with
  | some op =>
    if op.waiting != 0 || op.dest == .none then .next s
    else match op.dest with
      | .msigx _ _ => .next s
      | _ => .next { deliver s op with ops := Tab.del s.ops s.subject.idx }
  | none => .next s

end Sys2Proof.Machine
end

