-- ==== Sys2Proof/Machine/Control.lean ====
section
/-! DEFINITION. The control instructions of quires: branches, join records and the divergence stack, waits, barriers,
queues, the pair lock and exit (14_control.md R329 to R342, R249 of 11_ternion.md, R199 to R201 of 09_registers.md,
R353, R358, R359 of 15_scheduling.md), and the steps that end their waits. -/

namespace Sys2Proof.Machine

/-! ## Branches (R330, R31) -/

/-- The address that a word offset names, from the address of the branching word. -/
def branchTo (pc : DWord) (off : DWord) : DWord := pc + 4 * off

/-- The header that follows the clause of a control transfer, which is its last word. -/
def Issuer.next (I : Issuer) : DWord := I.st.pc + 4

/-- B and BC: taken when the bit equals the sense. -/
def branchIf (I : Issuer) (f : CB) (s : State) : Act :=
  withSrcs I [I.srcC f.c.toNat] [] fun _ =>
    if (I.creg f.c.toNat).val == (f.sense == 1) then .jump s (branchTo I.st.pc (f.off.signExtend 64)) else .done s

def execB (f : CB) (s : State) : Host.Outcome State Fault Refusal :=
  onQuire (.b f) s fun I => branchIf I f s

def execBra (f : CO) (s : State) : Host.Outcome State Fault Refusal :=
  onQuire (.bra f) s fun I => .jump s (branchTo I.st.pc (f.off.signExtend 64))

/-! ## Join records and slots (R331 to R335) -/

def Quire.joinRec (Q : Quire) (id : Nat) : Option JoinRec := if id == 0 then none else Q.recs.find? (·.id == id)
def Quire.updRec (Q : Quire) (id : Nat) (f : JoinRec → JoinRec) : Quire :=
  { Q with recs := Q.recs.map fun r => if r.id == id then f r else r }
def Quire.delRec (Q : Quire) (id : Nat) : Quire := { Q with recs := Q.recs.filter fun r => r.id != id }

/-- The next id: the counter, past 0 and the ids in use; with fuel. -/
def freshId : Nat → List JoinRec → Nat → Nat
  | 0, _, c => c
  | f + 1, rs, c => if c % 2 ^ 32 == 0 || rs.any (·.id == c % 2 ^ 32) then freshId f rs (c + 1) else c % 2 ^ 32

/-- Creates a record for a slot and makes it the slot's innermost (R331). -/
def Quire.newRec (Q : Quire) (sl kind : Nat) (jpc : DWord) (expect : Mask) : Quire × Nat :=
  let id := freshId 66 Q.recs Q.recCtr
  let r : JoinRec := { id := id, kind := kind, jpc := jpc, expect := expect, parent := (Q.slot sl).innermost }
  let Q := { Q with recs := Q.recs ++ [r], recCtr := (id + 1) % 2 ^ 32 }
  (Q.setSlot sl { Q.slot sl with innermost := id }, id)

/-- A slot runs lanes at a header. -/
def Quire.run (Q : Quire) (sl : Nat) (mask : Mask) (pc : DWord) (inner : Nat) (lvl : Level) : Quire :=
  let x := Q.slot sl
  Q.setSlot sl { x with mask := mask, innermost := inner, ctl := { x.ctl with pc := pc, left := 0, level := lvl, wait := .none } }

/-- A slot becomes free. -/
def Quire.freeSlot (Q : Quire) (sl : Nat) : Quire :=
  let x := Q.slot sl
  Q.setSlot sl { x with mask := 0, innermost := 0, ctl := { x.ctl with left := 0, wait := .none, yielded := none } }

def dsCap (d : DWord) : Nat := bits d.toNat 0 12
def dsBase (d : DWord) : Nat := bits d.toNat 12 40 <<< 12
def dsTop (d : DWord) : Nat := bits d.toNat 52 12
def dsSetTop (d : DWord) (t : Nat) : DWord := BitVec.ofNat 64 (d.toNat % 2 ^ 52 + t <<< 52)

/-- The issuer's view of a slot whether or not it is free. -/
def slotIssuer (s : State) (b q sl : Nat) : Option Issuer :=
  (Tab.find s.blocks b).bind fun B => (Tab.find s.quires (quireKey b q)).map fun Q =>
    { u := .slot b q sl, b := b, q := q, sl := sl, fe := false, blk := B, qr := Q, st := (Q.slot sl).ctl
      mask := (Q.slot sl).mask, word := 0 }

def setLock (s : State) (b pair : Nat) (L : XLock) : State := s.updBlock b fun B => { B with locks := Tab.set B.locks pair L }

/-- Whether quire q of a block waits at XACQ. -/
def seeksLock (s : State) (b q : Nat) : Bool :=
  (Tab.find s.quires (quireKey b q)).any fun Q => Q.s0.ctl.wait == .xacq || Q.s1.ctl.wait == .xacq

/-- The other quire of a pair. -/
def partnerQuire (q : Nat) : Nat := q ^^^ 1

/-- The lock of a pair is free. The partner takes it next when it waits (R199). -/
def freeLock (s : State) (b q : Nat) : State :=
  setLock s b (q / 2) { next := if seeksLock s b (partnerQuire q) then some (partnerQuire q) else none }

/-- The lock of a pair goes, when quire q holds it (R199). -/
def dropLock (s : State) (b q : Nat) : State :=
  match Tab.find s.blocks b with
  | some B => if (Tab.get {} B.locks (q / 2)).holder == some q then freeLock s b q else s
  | none => s

/-- A quire without live lanes has exited: a record or stack entry that remains kills the context, and its lock is free
(R342). -/
def quireEnd (s : State) (b q : Nat) : State :=
  match Tab.find s.quires (quireKey b q), Tab.find s.blocks b with
  | some Q, some B =>
    if Q.live != 0 then s
    else if !Q.recs.isEmpty || dsTop Q.dstack != 0 then killContext s B.part B.ctx
    else dropLock s b q
  | _, _ => s

/-- The top entry, of index n, leaves the stack and names the lanes m: those of its lanes that it does not name any more
stand nowhere, and live no more (R332, R333). -/
def Quire.popped (Q : Quire) (n : Nat) (m : Mask) : Quire :=
  let was := Tab.get 0 Q.stackLanes n
  { Q with
    dstack := dsSetTop Q.dstack n
    live := Q.live &&& ~~~(was &&& ~~~m)
    stackLanes := (Tab.del Q.stackLanes n).map fun e : Nat × Mask => (e.1, e.2 &&& ~~~m)
    stackLvl := Tab.del Q.stackLvl n }

/-- A pop of the slot meets a trap: its handler at S runs in the slot, which holds no lanes; TRAPINFO is the entry's
address (R333). -/
def popFault (s : State) (I : Issuer) (t : Trap) : State :=
  let a := dsBase I.qr.dstack + 32 * (dsTop I.qr.dstack - 1)
  takeTrap (s.updQuire I.key fun Q => Q.setSlot I.sl { Q.slot I.sl with popTrap := true }) I.u
    { t with mask := some 0, info := BitVec.ofNat 64 a }

/-- A free slot pops the top entry of the stack (R333, R335). A fault is taken at S in the popping slot, the entry
staying; an entry that names lanes not on the stack, or no record in use, kills the context. In ternion mode the lanes
are whole triples (R19; log 77). -/
def popStack (s : State) (b q sl : Nat) : State :=
  match slotIssuer s b q sl with
  | none => s
  | some I =>
    let top := dsTop I.qr.dstack
    if top == 0 || !(I.qr.slot sl).free then s
    else
      let a := dsBase I.qr.dstack + 32 * (top - 1)
      match syncRead s { I with st := { I.st with level := Tab.get .u I.qr.stackLvl (top - 1) } } a 32 with
      | .ok s' l =>
        let m := fitTriples I.ter (BitVec.ofNat 96 (fld l 8 12))
        let r := fld l 0x14 4
        if m &&& ~~~I.qr.onStack != 0 || (I.qr.joinRec r).isNone then killContext s I.blk.part I.blk.ctx
        else quireEnd (s'.updQuire I.key fun Q => (Q.popped (top - 1) m).run sl m (BitVec.ofNat 64 (fld l 0 8)) r
          (Tab.get .u I.qr.stackLvl (top - 1))) b q
      | .no (.trap t) => popFault s I t
      | .no (.wait s' w) => updStrand s' I.u fun c => { c with wait := w }
      | .no _ => s

/-- A slot of the quire waits at WAITJ on the record. -/
def Quire.waitsOn (Q : Quire) (sl : Nat) (r : JoinRec) : Bool :=
  match (Q.slot sl).ctl.wait with
  | .waitj id _ => id == r.id
  | _ => false

/-- The effect on lanes and records of a record that is complete: a slot waiting at WAITJ on it takes its lanes, and
its own lanes' WAITJ completes; otherwise slot sl does (R334). -/
def takeRecord (s : State) (b q sl : Nat) (r : JoinRec) : State :=
  let key := quireKey b q
  match Tab.find s.quires key with
  | none => s
  | some Q =>
    let other := 1 - sl
    if Q.waitsOn other r then
      let s := match slotIssuer s b q other with
        | some J => countIcnt s J
        | none => s
      s.updQuire key fun Q => ((Q.run other r.expect r.jpc r.parent (Q.slot other).ctl.level).freeSlot sl).delRec r.id
    else s.updQuire key fun Q => (Q.run sl r.expect r.jpc r.parent (Q.slot sl).ctl.level).delRec r.id

/-- Slot sl may take a record that an exit has completed: the slot that exited does, while it is free (R334). -/
def JoinRec.fits (r : JoinRec) (Q : Quire) (sl : Nat) : Bool :=
  match r.exitBy with
  | some n => n == sl || !(Q.slot n).free
  | none => true

/-- A free slot takes work (R335): a record that an exit has completed, or else the top of the stack. A SPLIT or JTAB
of the other slot that issues before takes the slot first. -/
def takeWork (s : State) (b q sl : Nat) : State :=
  match slotIssuer s b q sl with
  | none => s
  | some I =>
    if !(I.qr.slot sl).free || I.st.stop != .run then s
    else match I.qr.recs.find? fun r => r.expect != 0 && r.arrived == r.expect && r.fits I.qr sl with
      | some r => takeRecord s b q sl r
      | none => popStack s b q sl

/-- Every free slot of the pod takes work: the core cycle after it became free has come. -/
def takeAllWork (s : State) : State :=
  (s.quires.map (·.1)).foldl (fun s k => takeWork (takeWork s (k / 16) (k % 16) 0) (k / 16) (k % 16) 1) s

/-- A WAITJ of the unit's quire has outlived its timeout: its lanes go on alone before anything else of the quire
arrives (R338). -/
def expiryDue (s : State) (u : UnitId) : Bool :=
  match u with
  | .front _ => false
  | .slot b q _ => (Tab.find s.blocks b).any fun B => (Tab.find s.quires (quireKey b q)).any fun Q =>
      [Q.s0, Q.s1].any fun x => match x.ctl.wait with
        | .waitj _ dl => decide (dl < coreCycles s B.core)
        | _ => false

/-- A slot's lanes arrive at its innermost record; the other lanes still to come keep them parked (R337). -/
def arrive (s : State) (I : Issuer) (r : JoinRec) : State :=
  let arrived := r.arrived ||| I.mask
  if arrived == r.expect then takeRecord s I.b I.q I.sl { r with arrived := arrived }
  else s.updQuire I.key fun Q => (Q.updRec r.id fun r => { r with arrived := arrived }).freeSlot I.sl

/-- JOIN and RET: the kind of the innermost record decides (R337). -/
def joinAct (I : Issuer) (call : Bool) (k : JoinRec → Act) : Act :=
  match I.qr.joinRec (I.qr.slot I.sl).innermost with
  | none => I.bad .illegalConvergence
  | some r => if (r.kind == 3) == call then k r else I.bad .illegalConvergence

def execJoin (s : State) : Host.Outcome State Fault Refusal :=
  onQuire .join s fun I => joinAct I false fun r => .fixed (arrive (countIcnt s I) I r)

def execRet (s : State) : Host.Outcome State Fault Refusal :=
  onQuire .ret s fun I => joinAct I true fun r => .fixed (arrive (countIcnt s I) I r)

/-- WAITJ (R338): in a deterministic node it is JOIN; elsewhere the lanes arrive and the slot waits. -/
def execWaitj (f : CO) (s : State) : Host.Outcome State Fault Refusal :=
  onQuire (.waitj f) s fun I => joinAct I false fun r =>
    if I.blk.node.det || (r.arrived ||| I.mask) == r.expect then .fixed (arrive (countIcnt s I) I r)
    else .wait (s.updQuire I.key fun Q => Q.updRec r.id fun r => { r with arrived := r.arrived ||| I.mask })
      (.waitj r.id (coreCycles s I.blk.core + f.off.toNat))

/-- BOUNDS of the record table or the stack. -/
def tableFull : Act := .trap { cause := .bounds, info := 0 }

/-- A stack entry's bytes (R333). -/
def entryBytes (pc : DWord) (m : Mask) (r : Nat) : List Byte :=
  leBytes 8 pc.toNat ++ leBytes 12 m.toNat ++ leBytes 4 r ++ leBytes 8 0

/-- Pushes entries, the first lowest, or what the push meets. -/
def pushStack (s : State) (I : Issuer) (es : List (DWord × Mask × Nat)) : Sync Unit :=
  let top := dsTop I.qr.dstack
  if es.isEmpty then .ok s ()
  else if dsCap I.qr.dstack < top + es.length then .no tableFull
  else match syncWrite s I (dsBase I.qr.dstack + 32 * top) (es.flatMap fun e => entryBytes e.1 e.2.1 e.2.2) with
    | .no a => .no a
    | .ok s' _ => .ok (s'.updQuire I.key fun Q =>
        { Q with
          dstack := dsSetTop Q.dstack (top + es.length)
          stackLanes := (es.zipIdx).foldl (fun t e => Tab.set t (top + e.2) e.1.2.1) Q.stackLanes
          stackLvl := if I.st.level == .u then Q.stackLvl
            else (List.range es.length).foldl (fun t i => Tab.set t (top + i) I.st.level) Q.stackLvl }) ()

/-- SPLIT (R336). -/
def execSplit (f : CS) (s : State) : Host.Outcome State Fault Refusal :=
  onQuire (.split f) s fun I =>
    withSrcs I [I.srcK f.k.toNat] [] fun _ =>
      let k := (I.kreg f.k.toNat).val
      let T := I.mask &&& k
      let F := I.mask &&& ~~~k
      let target := branchTo I.st.pc (f.target.signExtend 64)
      let jpc := branchTo I.st.pc (f.join.signExtend 64)
      let lvl := I.st.level
      if 64 ≤ I.qr.recs.length then tableFull
      else
        let id := (I.qr.newRec I.sl 1 jpc I.mask).2
        let mk := fun s : State => s.updQuire I.key fun Q => (Q.newRec I.sl 1 jpc I.mask).1
        let go := fun (s : State) (m : Mask) (pc : DWord) => (countIcnt s I).updQuire I.key fun Q => Q.run I.sl m pc id lvl
        if F == 0 then .fixed (go (mk s) T target)
        else if T == 0 then .fixed (go (mk s) F I.next)
        else if (I.qr.slot (1 - I.sl)).free then
          .fixed (((countIcnt (mk s) I).updQuire I.key fun Q => (Q.run (1 - I.sl) T target id lvl).run I.sl F I.next id lvl))
        else (pushStack s I [(I.next, F, id)]).andThen fun s _ => .fixed (go (mk s) T target)

/-- CALL (R340). -/
def execCall (f : CO) (s : State) : Host.Outcome State Fault Refusal :=
  onQuire (.call f) s fun I =>
    if 64 ≤ I.qr.recs.length then tableFull
    else .jump (s.updQuire I.key fun Q => (Q.newRec I.sl 3 I.next I.mask).1) (branchTo I.st.pc (f.off.signExtend 64))

/-! ## JTAB (R339) -/

/-- Reads the table's entries of the given indices. A read that faults traps with the whole slot as its lanes, also when
the entry is that of some lanes' index alone (R80 names no lanes for a table read: log 121). -/
def jtabRead (s : State) (I : Issuer) (base : Nat) (idx : List Nat) : Sync (Tab Nat) :=
  idx.foldl (fun r i =>
    match r with
    | .no a => .no a
    | .ok s t =>
      match syncRead s I ((base + 4 * i) % 2 ^ 64) 4 with
      | .no a => .no a
      | .ok s' l => .ok s' (Tab.set t i (ofLe l))) (.ok s [])

/-- The lanes grouped by target, in the order of the lowest entry that names each (R339). -/
def jtabGroups (I : Issuer) (x : Nat → Nat) (t : Tab Nat) (n : Nat) : List (DWord × Mask) :=
  let text := I.blk.node.text
  (List.range n).foldl (fun acc i =>
    let ls := I.threads.filter fun j => x j == i
    if ls.isEmpty then acc
    else
      let a := text + 4 * BitVec.ofNat 64 (Tab.get 0 t (i + 1))
      let m := maskOfThreads I.ter ls
      if acc.any (·.1 == a) then acc.map fun e => if e.1 == a then (e.1, e.2 ||| m) else e else acc ++ [(a, m)]) []

/-- Runs the groups: the first here, the second in the other slot when it is free, the rest from the stack. -/
def jtabRun (s : State) (I : Issuer) (jpc : DWord) (gs : List (DWord × Mask)) : Act :=
  let lvl := I.st.level
  let id := (I.qr.newRec I.sl 2 jpc I.mask).2
  let two := (I.qr.slot (1 - I.sl)).free
  let rest := if two then gs.drop 2 else gs.drop 1
  (pushStack s I (rest.reverse.map fun g => (g.1, g.2, id))).andThen fun s _ =>
    let s := (countIcnt s I).updQuire I.key fun Q => (Q.newRec I.sl 2 jpc I.mask).1
    .fixed (s.updQuire I.key fun Q =>
      let Q := match gs with
        | g :: _ => Q.run I.sl g.2 g.1 id lvl
        | [] => Q
      match gs with
      | _ :: g :: _ => if two then Q.run (1 - I.sl) g.2 g.1 id lvl else Q
      | _ => Q)

def execJtab (f : CJ) (s : State) : Host.Outcome State Fault Refusal :=
  onQuire (.jtab f) s fun I =>
    let n := f.n1.toNat + 1
    let va := fun l : Nat => ((I.vreg f.va.toNat).at l).toNat
    if f.sb.toNat % 2 != 0 || !I.vOk f.va.toNat 1 then I.bad .illegalOperand
    else withSrcs I (I.srcV f.va.toNat (f.ea == 1) :: I.srcS2 f.sb.toNat) [] fun _ =>
      match I.split [va] with
      | x :: t => I.badThreads (x :: t)
      | [] =>
        match boundsTrap I 3 ((I.threads.filter fun i => n ≤ I.maj va i).map fun i => (i, I.maj va i)) with
        | some t => .trap t
        | none =>
          let base := (I.s2 f.sb.toNat).toNat
          if 64 ≤ I.qr.recs.length then tableFull
          else match alignTrap I true (misaligned [(0, base)] 4) with
          | some t => .trap t
          | none =>
            (jtabRead s I base (0 :: ((List.range n).filter fun i => I.threads.any fun j => I.maj va j == i).map (· + 1))).andThen
              fun s t => jtabRun s I (I.blk.node.text + 4 * BitVec.ofNat 64 (Tab.get 0 t 0)) (jtabGroups I (I.maj va) t n)

/-! ## YIELD and EXIT (R341, R342) -/

def execYield (s : State) : Host.Outcome State Fault Refusal :=
  onQuire .yield s fun I => .done (updStrand s I.u fun c => { c with yielded := some [] })

/-- The lanes of a slot end: they leave the live mask and every record (R342). A record that thereby completes runs on in
the slot that waits on it at WAITJ, or in a free slot when that takes work (R334, R335). A record or stack entry that
remains when no lane lives kills the context. -/
def exitLanes (s : State) (b q sl : Nat) : State :=
  match slotIssuer s b q sl with
  | none => s
  | some I =>
    let m := I.mask
    let recs := I.qr.recs.map fun r =>
      let r' : JoinRec := { r with expect := r.expect &&& ~~~m, arrived := r.arrived &&& ~~~m }
      if r'.arrived == r'.expect && r.arrived != r.expect then { r' with exitBy := some sl } else r'
    let s := s.updQuire I.key fun Q =>
      { Q with live := Q.live &&& ~~~m, recs := recs.filter fun r => r.expect != 0 }.freeSlot sl
    match Tab.find s.quires I.key with
    | none => s
    | some Q =>
      if Q.live == 0 then quireEnd s b q
      else match Q.recs.find? fun r => r.arrived == r.expect && Q.waitsOn (1 - sl) r with
        | some r => takeRecord s b q sl r
        | none => s

def execExit (s : State) : Host.Outcome State Fault Refusal :=
  onQuire .exit s fun I => .fixed (exitLanes (countIcnt s I) I.b I.q I.sl)

/-! ## TMODE (R249) -/

/-- ICNT of the threads that live in the new mode. -/
def tmodeIcnt (I : Issuer) (toTer : Bool) (one : Nat) : Tab Word :=
  let old := fun i : Nat => I.icnt i
  if toTer then (threadsOf true I.qr.live).foldl (fun t i =>
    Tab.set t i (BitVec.ofNat 32 (max (old (3 * i)).toNat (max (old (3 * i + 1)).toNat (old (3 * i + 2)).toNat) + one))) I.qr.icnt
  else (threadsOf false I.qr.live).foldl (fun t l => Tab.set t l (old (l / 3) + BitVec.ofNat 32 one)) I.qr.icnt

def execTmode (f : CM) (s : State) : Host.Outcome State Fault Refusal :=
  onQuire (.tmode f) s fun I =>
    let toTer := f.mode == 1
    if I.mask != I.qr.live || !(I.qr.slot (1 - I.sl)).free || !I.qr.recs.isEmpty || dsTop I.qr.dstack != 0 ||
       (toTer && !wholeTriples I.qr.live) then I.bad .illegalConvergence
    else if toTer == I.ter then .done s
    else .fixed (nextWord (s.updQuire I.key fun Q =>
      { Q with
        ter := toTer
        icnt := tmodeIcnt I toTer (if I.atU then 1 else 0)
        k := if toTer then Q.k.map fun e => (e.1, { e.2 with val := majTriples e.2.val }) else Q.k }) I.u)

/-! ## Control tokens and queues (R324, R359) -/

/-- The fixed size of a block's FIFO (R193). -/
def fifoSize : Nat := 16

/-- Pushes to a queue: 0 the decision queue of a quire, 1 the control tokens, 2 to 7 the role queues. -/
def pushQueue (s : State) (b q n : Nat) (v : DWord) : State :=
  if n == 0 then s.updQuire (quireKey b q) fun Q => { Q with q0 := Q.q0 ++ [v] }
  else if n == 1 then s.updBlock b fun B => { B with q1 := B.q1 ++ [v] }
  else s.updBlock b fun B => { B with roleQ := Tab.set B.roleQ n (Tab.get [] B.roleQ n ++ [v]) }

def queueOf (s : State) (b q n : Nat) : List DWord :=
  if n == 0 then (Tab.get {} s.quires (quireKey b q)).q0
  else match Tab.find s.blocks b with
    | some B => if n == 1 then B.q1 else Tab.get [] B.roleQ n
    | none => []

/-- The quire that a queue's uncorrectable entries are listed under: q0 is one queue to a quire. -/
def queueQuire (n q : Nat) : Nat := if n == 0 then q else 0

/-- The head of a queue is uncorrectable (03_memory.md R59). -/
def headBad (s : State) (b q n : Nat) : Bool :=
  match Tab.find s.blocks b with
  | some B => B.badQ.contains (n, queueQuire n q, 0)
  | none => false

/-- The places of uncorrectable entries after the head of a queue has gone. -/
def shiftBad (l : List (Nat × Nat × Nat)) (n q : Nat) : List (Nat × Nat × Nat) :=
  l.filterMap fun x => if x.1 == n && x.2.1 == q then (if x.2.2 == 0 then none else some (n, q, x.2.2 - 1)) else some x

def dropHead (s : State) (b q n : Nat) : State :=
  let s := s.updBlock b fun B => if B.badQ.isEmpty then B else { B with badQ := shiftBad B.badQ n (queueQuire n q) }
  if n == 0 then s.updQuire (quireKey b q) fun Q => { Q with q0 := Q.q0.drop 1 }
  else if n == 1 then s.updBlock b fun B => { B with q1 := B.q1.drop 1 }
  else s.updBlock b fun B => { B with roleQ := Tab.set B.roleQ n ((Tab.get [] B.roleQ n).drop 1) }

/-- Whether a unit of the block already waits to push to the queue, so that pushes keep their order. -/
def pushWaiting (s : State) (b q n : Nat) : Bool :=
  let of := fun (qq : Nat) (st : Strand) => match st.wait with
    | .qpush m _ => n != 0 && m == n
    | .token _ => n == 1
    | .dqpush t _ => n == 0 && t == q && qq == 16
    | _ => false
  (s.quires.any fun e => e.1 / 16 == b && (of (e.1 % 16) e.2.s0.ctl || of (e.1 % 16) e.2.s1.ctl)) ||
    (s.blocks.any fun e => e.1 == b && of 16 e.2.front.ctl)

/-- A push: at once when there is room, else the unit waits. It is a release at BLOCK scope (08_ordering.md R181). -/
def pushOr (s : State) (I : Issuer) (q n : Nat) (v : DWord) (w : Wait) : Act :=
  if unperformed s I.u I.mask s.nextId 1 then .stall
  else if (queueOf s I.b q n).length < fifoSize && !pushWaiting s I.b q n then .done (pushQueue s I.b q n v) else .wait s w

def execToken (f : CO) (s : State) : Host.Outcome State Fault Refusal :=
  onQuire (.token f) s fun I =>
    if I.blk.front.done then I.bad .illegalOperand
    else
      let v : DWord := BitVec.ofNat 64 (f.off.toNat + I.q <<< 20 + I.sl <<< 24)
      pushOr s I I.q 1 v (.token v)

/-- The two ends of a role queue, when it is configured. -/
def roleOf (n : NodeRec) (q : Nat) : Option (Nat × Nat) :=
  if 2 ≤ q && q ≤ 7 && n.queues.getLsbD (q - 2) then n.roleq[q - 2]? else none

def execQpush (f : CQ) (s : State) : Host.Outcome State Fault Refusal :=
  onQuire (.qpush f) s fun I =>
    let n := f.q.toNat
    let mine := n == 1 || (match roleOf I.blk.node n with
      | some r => r.1 == I.q
      | none => false)
    if !mine || f.s.toNat % 2 != 0 then I.bad .illegalOperand
    else withSrcs I (I.srcS2 f.s.toNat) [] fun _ => pushOr s I I.q n (I.s2 f.s.toNat) (.qpush n (I.s2 f.s.toNat))

/-- Whether a QPOP of the quire waits on the queue already. -/
def popWaiting (Q : Quire) (n : Nat) : Bool :=
  let of := fun st : Strand => match st.wait with
    | .qpop m _ _ _ => m == n
    | _ => false
  of Q.s0.ctl || of Q.s1.ctl

/-- Whether the other slot of the quire issued a QPOP of the queue earlier that still waits (R323, R359). -/
def popEarlier (I : Issuer) (n ord : Nat) : Bool :=
  match (I.qr.slot (1 - I.sl)).ctl.wait with
  | .qpop m _ o _ => m == n && decide (o < ord)
  | _ => false

/-- Delivers the oldest entry of a queue to an s pair; an uncorrectable one is MEMERR. -/
def popTo (s : State) (I : Issuer) (n rd : Nat) : Act :=
  if headBad s I.b I.q n then .trap (memTrap 0 3)
  else .done (writeS2 (dropHead s I.b I.q n) I rd ((queueOf s I.b I.q n).headD 0))

def execQpop (f : CQ) (s : State) : Host.Outcome State Fault Refusal :=
  onQuire (.qpop f) s fun I =>
    let n := f.q.toNat
    let r := roleOf I.blk.node n
    let mine := n == 0 || (match r with
      | some r => r.2 == I.q
      | none => false)
    let fromPartner := match r with
      | some r => r.1 == (I.q ^^^ 1) && r.1 != I.q
      | none => false
    let holds := (Tab.get {} I.blk.locks (I.q / 2)).holder == some I.q
    if !mine || f.s.toNat % 2 != 0 then I.bad .illegalOperand
    else if n != 0 && fromPartner && holds then I.bad .xlockViol
    else if n == 0 && I.blk.front.done && (queueOf s I.b I.q 0).isEmpty then I.bad .illegalOperand
    else withSrcs I [] (I.srcS2 f.s.toNat) fun _ =>
      if !(queueOf s I.b I.q n).isEmpty && !popWaiting I.qr n then popTo s I n f.s.toNat
      else .wait { empty64 s I f.s.toNat with nextId := s.nextId + 1 } (.qpop n f.s.toNat s.nextId (I.notes64 f.s.toNat))

/-! ## WAITB (R353) -/

/-- The node that a WAITB names. -/
def waitbNode (s : State) (I : Issuer) (self : Bool) (p : Nat) : Option (Nat × Node) :=
  if self then (nodeOf s I.blk.part I.blk.seq).map fun n => (I.blk.seq, n)
  else (((nodeOf s I.blk.part I.blk.seq).bind fun n => n.from_.getD p none).bind fun q =>
    (nodeOf s I.blk.part q).map fun n => (q, n))

/-- Blocks of a predecessor that had ended before this node was accepted, by its record. It is DONE, since its edge is
satisfied, so every bit of it is set (R347). -/
def pastBlocks (s : State) (I : Issuer) (p : Nat) : State × Nat :=
  match ctxReadAt s I.blk.part I.blk.ctx .u ((I.blk.node.preds.getD p 0).toNat % 2 ^ 52 + 0x18) 12 with
  | (s', some l) => (s', fld l 0 4 * fld l 4 4 * fld l 8 4)
  | (s', none) => (s', 2 ^ 32)

def execWaitb (f : CW) (s : State) : Host.Outcome State Fault Refusal :=
  onQuire (.waitb f) s fun I =>
    let r := f.s.toNat
    if r == 31 then I.bad .illegalOperand
    else withSrcs I (if r % 2 == 0 then I.srcS2 r else [I.srcS (r + 1)]) [] fun _ =>
      let c := (I.sreg (r + 1)).val
      let b := (I.sreg r).val.toNat
      let self := c.getLsbD 3
      let p := bits c.toNat 0 3
      if c.toNat >>> 4 != 0 then I.bad .illegalOp
      else if r % 2 != 0 then I.bad .illegalOperand
      else if !self && I.blk.node.npred ≤ p then I.bad .illegalOperand
      else match waitbNode s I self p with
        | none =>
          let x := pastBlocks s I p
          if x.2 ≤ b then I.bad .illegalOperand else .done x.1
        | some n =>
          if n.2.nrec.total ≤ b then I.bad .illegalOperand
          else if I.blk.node.det && self && I.blk.idx ≤ b then I.bad .detviol
          else if n.2.bits.contains b then .done s
          else .wait s (.waitb self n.1 b)

/-! ## BAR (R358, R200) -/

/-- The scope of an arrival: SYS, which only H can name, has the participants of POD (01_machine.md R17). -/
def barScope (scope : Nat) : Nat := min 6 scope

/-- Records an arrival, and which operations were issued before it. -/
def Quire.arriveAt (Q : Quire) (scope id : Nat) : Quire := { Q with arrival := some scope, arrivalAt := id }

def execBar (f : CR) (s : State) : Host.Outcome State Fault Refusal :=
  onQuire (.bar f) s fun I =>
    let sc := I.scope f.scope.toNat
    if sc == 0 || (1 < sc && !I.blk.node.gang) then I.bad .illegalOperand
    else if I.mask != I.qr.live then I.bad .illegalConvergence
    else if (Tab.get {} I.blk.locks (I.q / 2)).holder == some I.q then I.bad .xlockViol
    else if I.qr.arrival.isSome then .wait s (.bar f.scope.toNat)
    else .done (countClamp (s.updQuire I.key fun Q => Q.arriveAt (barScope sc) s.nextId) I f.scope.toNat)

/-! ## XACQ and XREL (R199, R200) -/

/-- XACQ (R199). A free lock that the partner waits for is the partner's in the next core cycle. -/
def execXacq (s : State) : Host.Outcome State Fault Refusal :=
  onQuire .xacq s fun I =>
    let L := Tab.get {} I.blk.locks (I.q / 2)
    if !I.blk.node.ext then I.bad .illegalOperand
    else if L.holder == some I.q then I.bad .xlockViol
    else if L.holder.isNone && !seeksLock s I.b (partnerQuire I.q) then .done (setLock s I.b (I.q / 2) { holder := some I.q })
    else .wait s .xacq

/-- XREL (R199), a release at BLOCK scope. -/
def execXrel (s : State) : Host.Outcome State Fault Refusal :=
  onQuire .xrel s fun I =>
    let L := Tab.get {} I.blk.locks (I.q / 2)
    if L.holder != some I.q then I.bad .illegalOperand
    else if unperformed s I.u I.mask s.nextId 1 then .stall
    else .done (freeLock s I.b I.q)

/-! ## The steps that end these waits -/

/-- A gate operation is withdrawn (17_partitions.md R405): its destinations are as they were before it. -/
def withdrawGate (s : State) (I : Issuer) (id : Nat) : State :=
  match Tab.find s.gates id with
  | none => s
  | some g => recount s { (g.dests.zip g.olds).foldl (fun s r => unempty64 s I r.1 r.2) s with gates := Tab.del s.gates id }

/-- Whether the home has performed the gate operation that a unit waits for. -/
def gatePerformed (s : State) (w : Wait) : Bool :=
  match w with
  | .gate id => (Tab.find s.gates id).any fun g => match g.state with
      | .answered _ => true
      | .trapped _ => true
      | _ => false
  | _ => false

/-- A waiting instruction of a unit is taken back as not executed (R378): its lanes leave a WAITJ's record, and the
registers it emptied are as they were before. -/
def cancelWait (s : State) (u : UnitId) : State :=
  match unitStrand s u, u with
  | some st, .slot b q sl =>
    let s := match st.wait, slotIssuer s b q sl with
      | .qpop _ rd _ old, some I => unempty64 s I rd old
      | .gate id, some I => withdrawGate s I id
      | .waitj id _, some I => s.updQuire I.key fun Q => Q.updRec id fun r => { r with arrived := r.arrived &&& ~~~I.mask }
      | _, _ => s
    updStrand s u fun c => { c with wait := .none }
  | some st, .front b =>
    let s := match st.wait, issuerOf s (.front b) 0 with
      | .btok old, some I => unempty64 s I 30 old
      | .gate id, some I => withdrawGate s I id
      | _, _ => s
    updStrand s u fun c => { c with wait := .none }
  | none, _ => s

/-- The unit that the subject names, and what it waits for. -/
def waiter (s : State) : Option (Issuer × Wait) := (issuerOf s s.subject.unit 0).map fun I => (I, I.st.wait)

/-- QUEUE_PUSH_ACCEPT (R359, R323, R324): the subject's unit waits to push and its queue has room. -/
def execQueuePushAccept (s : State) : Host.Outcome State Fault Refusal :=
  match waiter s with
  | some (I, .qpush n v) =>
    if (queueOf s I.b I.q n).length < fifoSize then (Act.done (pushQueue s I.b I.q n v)).finish s I else .next s
  | some (I, .token v) =>
    if I.blk.front.done then
      ({ I with word := wordOf (.token { off := v.extractLsb' 0 20 }) }.bad .illegalOperand).finish s I
    else if (queueOf s I.b I.q 1).length < fifoSize then (Act.done (pushQueue s I.b I.q 1 v)).finish s I else .next s
  | some (I, .dqpush t v) =>
    if (queueOf s I.b t 0).length < fifoSize then (Act.done (pushQueue s I.b t 0 v)).finish s I else .next s
  | _ => .next s

/-- QPOP_DELIVER (R359): the subject's unit waits at QPOP, its queue holds an entry, and the other slot's QPOP of that
queue did not issue earlier. A QPOP of an empty q0 whose front-end has ended is refused (R320). -/
def execQpopDeliver (s : State) : Host.Outcome State Fault Refusal :=
  match waiter s with
  | some (I, .qpop n rd ord _) =>
    if popEarlier I n ord then .next s
    else if !(queueOf s I.b I.q n).isEmpty then (popTo s I n rd).finish s I
    else if n == 0 && I.blk.front.done then
      let s := cancelWait s I.u
      ({ I with word := wordOf (.qpop { q := 0, s := BitVec.ofNat 5 rd }) }.bad .illegalOperand).finish s I
    else .next s
  | _ => .next s

/-- Whether the other quire of the pair goes before quire q, which waits for the free lock: it waited when the lock was
released, or else it is the even one and waits as well (R199). -/
def lockGoesElsewhere (s : State) (b q : Nat) (L : XLock) : Bool :=
  L.next != some q && seeksLock s b (partnerQuire q) && (L.next == some (partnerQuire q) || q % 2 == 1)

/-- XACQ_GRANT (R199): the subject's unit waits at XACQ, the lock is free, and its quire is the one to take it. -/
def execXacqGrant (s : State) : Host.Outcome State Fault Refusal :=
  match waiter s with
  | some (I, .xacq) =>
    let L := Tab.get {} I.blk.locks (I.q / 2)
    if L.holder.isNone && !lockGoesElsewhere s I.b I.q L then
      (Act.done (setLock s I.b (I.q / 2) { holder := some I.q })).finish s I
    else .next s
  | _ => .next s

/-- A trap stands in the unit already: one taken at H, one that a halt has saved, or a report due at its next header
(R364). -/
def Strand.trapStands (c : Strand) : Bool :=
  !c.pend.isEmpty || (!c.due.isEmpty && c.left == 0) || (match c.wait with
    | .heldAtH _ _ => true
    | _ => false)

/-- XLOCK_STALL (R201): the subject names a block and, in sub, a pair whose stall counter has reached 65,536: the lock
is released and the holder's slot 0, or slot 1 if slot 0 is free, takes the trap, after one that already stands in it (R364). -/
def execXlockStall (s : State) : Host.Outcome State Fault Refusal :=
  match Tab.find s.blocks s.subject.idx with
  | none => .next s
  | some B =>
    let L := Tab.get {} B.locks s.subject.sub
    match L.holder, Tab.find s.quires (quireKey s.subject.idx (L.holder.getD 0)) with
    | some q, some Q =>
      if L.stall < 65536 then .next s
      else
        let u : UnitId := .slot s.subject.idx q (if Q.s0.free then 1 else 0)
        if (unitStrand s u).any fun st => gatePerformed s st.wait then .next s else
        let s := freeLock s s.subject.idx q
        let t : Trap := { cause := .xlockStall }
        if (unitStrand s u).any Strand.trapStands then .next (updStrand s u fun c => { c with pend := c.pend ++ [t] })
        else .next (takeTrap (cancelWait s u) u t)
    | _, _ => .next s

/-- The quires that take part in a barrier of a scope with quire q of block b: the keys of those with live lanes. -/
def barrierParts (s : State) (b : Nat) (scope : Nat) : List Nat :=
  match Tab.find s.blocks b with
  | none => []
  | some B =>
    let inScope := fun C : Block =>
      match scope with
      | 2 => C.core / 4 == B.core / 4
      | 3 => C.pkg == B.pkg && dieOfCore C.core == dieOfCore B.core
      | 4 => C.pkg == B.pkg
      | _ => true
    let bs := if scope == 1 then [b]
      else (s.blocks.filter fun e => e.2.part == B.part && e.2.seq == B.seq && inScope e.2).map (·.1)
    (s.quires.filter fun e => bs.contains (e.1 / 16) && e.2.live != 0).map (·.1)

/-- Whether blocks of the node stand outside the cores: a barrier of PART waits for them (R358). -/
def nodeSwitchedOut (s : State) (b : Nat) : Bool :=
  match Tab.find s.blocks b with
  | none => false
  | some B => (s.partOf B.part).saved.any (·.seq == B.seq)

/-- A BAR that waited for the earlier arrival of its quire now arrives itself. -/
def barNext (s : State) (key : Nat) : State :=
  (List.range 2).foldl (fun s sl =>
    match slotIssuer s (key / 16) (key % 16) sl with
    | some I =>
      (match I.st.wait with
       | .bar f => complete (countClamp (s.updQuire key fun Q => Q.arriveAt (barScope (I.scope f)) s.nextId) I f) I
       | _ => s)
    | none => s) s

/-- Whether an access that a quire made before its arrival, and that the barrier's scope carries, is still to be
performed. -/
def arrivalPending (s : State) (k scope : Nat) : Bool :=
  unperformed s (.slot (k / 16) (k % 16) 0) (BitVec.allOnes 96) (Tab.get {} s.quires k).arrivalAt scope

/-- BARRIER_RELEASE (R358): the subject names a block and, in sub, a scope at which every participant has arrived, with
its earlier accesses performed (08_ordering.md R180, R181). -/
def execBarrierRelease (s : State) : Host.Outcome State Fault Refusal :=
  let ks := barrierParts s s.subject.idx s.subject.sub
  if ks.isEmpty || (4 < s.subject.sub && nodeSwitchedOut s s.subject.idx) ||
     !ks.all (fun k => (Tab.get {} s.quires k).arrival == some s.subject.sub && !arrivalPending s k s.subject.sub) then .next s
  else
    let s := ks.foldl (fun s k => s.updQuire k fun Q => { Q with arrival := none }) s
    .next (ks.foldl barNext s)

/-- WAITB_COMPLETE (R353): the bit that the subject's unit waits for is set. -/
def execWaitbComplete (s : State) : Host.Outcome State Fault Refusal :=
  match waiter s with
  | some (I, .waitb _ seq b) =>
    (match nodeOf s I.blk.part seq with
     | some n => if n.bits.contains b then (Act.done s).finish s I else .next s
     | none => .next s)
  | _ => .next s

/-- Whether block b of a node can no longer retire. -/
def bitLost (s : State) (part seq : Nat) (n : Node) (b : Nat) : Bool :=
  !n.bits.contains b &&
    (n.failed.contains b || 3 ≤ n.state ||
     ((n.withdrawn || n.owed.isSome) && n.next ≤ b) ||
     ((n.withdrawn || n.owed.isSome) && !(s.blocks.any fun e => e.2.part == part && e.2.seq == seq && e.2.idx == b) &&
        !((s.partOf part).saved.any fun v => v.seq == seq && v.idx == b) && !n.redo.any (·.idx == b)))

/-- Every lane of a block exits, and its front-end ends; its bit stays clear. -/
def stopBlock (s : State) (b : Nat) : State :=
  let stop := fun Q : Quire =>
    { Q with live := 0, stackLanes := [], recs := [], dstack := dsSetTop Q.dstack 0
             s0 := (Q.freeSlot 0).s0, s1 := (Q.freeSlot 1).s1 }
  let s := { s with quires := s.quires.map fun e : Nat × Quire => if e.1 / 16 == b then (e.1, stop e.2) else e }
  s.updBlock b fun B => { B with locks := [], front := { B.front with done := true }, ending := .stopped }

/-- WAITB_UNSATISFIABLE (R353): the bit that the subject's unit waits for can no longer be set: every lane of the block
exits, its bit stays clear, and its node ends as the named node's end says. -/
def execWaitbUnsatisfiable (s : State) : Host.Outcome State Fault Refusal :=
  match waiter s with
  | some (I, .waitb _ seq b) =>
    (match nodeOf s I.blk.part seq with
     | none => .next s
     | some n =>
       if !bitLost s I.blk.part seq n b then .next s
       else
         let s := updNode s I.blk.part I.blk.seq fun m =>
           if seq == I.blk.seq then m
           else { m with owed := match m.owed with
                    | none => some (if n.withdrawn || n.state == 4 then 4 else 6)
                    | o => o }
         .next (stopBlock s I.b))
  | _ => .next s

/-- WAITJ_EXPIRY (R338): the deadline of the subject's WAITJ has passed; its lanes leave the record and go on at JPC. -/
def execWaitjExpiry (s : State) : Host.Outcome State Fault Refusal :=
  match waiter s with
  | some (I, .waitj id dl) =>
    if coreCycles s I.blk.core ≤ dl then .next s
    else match I.qr.joinRec id with
      | none => .next s
      | some r =>
        .next ((countIcnt s I).updQuire I.key fun Q =>
          let Q := Q.updRec id fun r => { r with expect := r.expect &&& ~~~I.mask, arrived := r.arrived &&& ~~~I.mask }
          let Q := { Q with recs := Q.recs.filter fun r => r.expect != 0 }
          Q.run I.sl I.mask r.jpc r.parent I.st.level)
  | _ => .next s

end Sys2Proof.Machine
end

