-- ==== Sys2Proof/Machine/Front.lean ====
section
/-! DEFINITION. The front-end's instructions: 64-bit arithmetic, compares, FP32, memory access, branches, tile maps,
decision queues, overflow flags and the loss scale (14_control.md R311 to R328). -/

namespace Sys2Proof.Machine

/-! ## Integer arithmetic (R314, R315) -/

/-- An F.XR instruction of two sources. -/
def xrInt (i : Instr) (f : XR) (s : State) (g : DWord → DWord → DWord) : Host.Outcome State Fault Refusal :=
  onFront i s fun I => withSrcs I [I.srcX f.xa.toNat, I.srcX f.xb.toNat] [I.srcX f.xd.toNat] fun _ =>
    .done (writeX s I f.xd.toNat (g (I.xreg f.xa.toNat).val (I.xreg f.xb.toNat).val))

/-- An F.XI instruction: the immediate, sign-extended, takes the place of xb. -/
def xiInt (i : Instr) (f : XI) (s : State) (g : DWord → DWord → DWord) : Host.Outcome State Fault Refusal :=
  onFront i s fun I => withSrcs I [I.srcX f.xa.toNat] [I.srcX f.xd.toNat] fun _ =>
    .done (writeX s I f.xd.toNat (g (I.xreg f.xa.toNat).val (f.imm.signExtend 64)))

def mulh64 (a b : DWord) : DWord := (a.signExtend 128 * b.signExtend 128).extractLsb' 64 64
def divu64 (a b : DWord) : DWord := if b == 0 then BitVec.allOnes 64 else a / b
def remu64 (a b : DWord) : DWord := if b == 0 then a else a % b

/-- A shift amount: bits [7:0]. -/
def amt64 (b : DWord) : Nat := bits b.toNat 0 8

def execAdd (f : XR) (s : State) := xrInt (.add f) f s fun a b => a + b
def execSub (f : XR) (s : State) := xrInt (.sub f) f s fun a b => a - b
def execMul (f : XR) (s : State) := xrInt (.mul f) f s fun a b => a * b
def execMulh (f : XR) (s : State) := xrInt (.mulh f) f s mulh64
def execDivu (f : XR) (s : State) := xrInt (.divu f) f s divu64
def execRemu (f : XR) (s : State) := xrInt (.remu f) f s remu64
def execFrontAnd (f : XR) (s : State) := xrInt (.frontAnd f) f s fun a b => a &&& b
def execFrontOr (f : XR) (s : State) := xrInt (.frontOr f) f s fun a b => a ||| b
def execFrontXor (f : XR) (s : State) := xrInt (.frontXor f) f s fun a b => a ^^^ b
def execFrontShl (f : XR) (s : State) := xrInt (.frontShl f) f s fun a b => a <<< amt64 b
def execFrontShr (f : XR) (s : State) := xrInt (.frontShr f) f s fun a b => a >>> amt64 b
def execFrontSar (f : XR) (s : State) := xrInt (.frontSar f) f s fun a b => a.sshiftRight (amt64 b)
def execMin (f : XR) (s : State) := xrInt (.min f) f s fun a b => if a.slt b then a else b
def execMax (f : XR) (s : State) := xrInt (.max f) f s fun a b => if a.slt b then b else a
def execAddi (f : XI) (s : State) := xiInt (.addi f) f s fun a b => a + b
def execFrontAndi (f : XI) (s : State) := xiInt (.frontAndi f) f s fun a b => a &&& b
def execFrontOri (f : XI) (s : State) := xiInt (.frontOri f) f s fun a b => a ||| b
def execFrontShli (f : XI) (s : State) := xiInt (.frontShli f) f s fun a b => a <<< b.toNat
def execFrontShri (f : XI) (s : State) := xiInt (.frontShri f) f s fun a b => a >>> b.toNat

def execLi (f : XL) (s : State) : Host.Outcome State Fault Refusal :=
  onFront (.li f) s fun I => withSrcs I [] [I.srcX f.xd.toNat] fun _ => .done (writeX s I f.xd.toNat (f.imm.setWidth 64))

/-- LIH's result: 16 bits of the old value replaced. -/
def lih64 (old : DWord) (imm : BitVec 16) (hw : Nat) : DWord :=
  (old &&& ~~~(0xFFFF#64 <<< (16 * hw))) ||| (imm.setWidth 64 <<< (16 * hw))

def execLih (f : XL) (s : State) : Host.Outcome State Fault Refusal :=
  onFront (.lih f) s fun I => withSrcs I [I.srcX f.xd.toNat] [] fun _ =>
    .done (writeX s I f.xd.toNat (lih64 (I.xreg f.xd.toNat).val f.imm f.hw.toNat))

/-! ## Compares (R316) -/

/-- Conditions 2 to 5 are signed here. -/
def execCmp (f : XC) (s : State) : Host.Outcome State Fault Refusal :=
  onFront (.cmp f) s fun I => withSrcs I [I.srcX f.xa.toNat, I.srcX f.xb.toNat] [] fun _ =>
    .done (writeC s I f.cd.toNat (condInt f.cond.toNat true 64 (I.xreg f.xa.toNat).val.toNat (I.xreg f.xb.toNat).val.toNat))

def execCmpi (f : XCI) (s : State) : Host.Outcome State Fault Refusal :=
  onFront (.cmpi f) s fun I => withSrcs I [I.srcX f.xa.toNat] [] fun _ =>
    .done (writeC s I f.cd.toNat (condInt f.cond.toNat true 64 (I.xreg f.xa.toNat).val.toNat (f.imm.signExtend 64).toNat))

/-! ## FP32 arithmetic (R317) -/

/-- The front-end rounds by its own FPCTL.RM in every launch (R215, R317), where R234 names RNE (log 118). -/
def Issuer.frontRound (I : Issuer) : Rm :=
  match bits I.fpctl.toNat 0 3 with
  | 1 => .rtz
  | 2 => .rup
  | 3 => .rdn
  | _ => .rne

/-- The events of one front-end result (R230, R326). -/
def countFront (s : State) (I : Issuer) (r : LaneRes) : State :=
  let one := fun b : Bool => if b then 1 else 0
  let s := addStat s I.b I.tensor 0 (one r.sat)
  let s := addStat s I.b I.tensor 1 (one r.flush)
  let s := addStat s I.b I.tensor 2 (one r.nan)
  if r.nonfin then setOvf s I.b (1#32 <<< (I.tensor % 32)) else s

/-- The low 32 bits of an x register. -/
def Issuer.x32 (I : Issuer) (r : Nat) : Nat := (I.xreg r).val.toNat % 2 ^ 32

/-- An FP32 instruction; three reads xd too. -/
def xrFp (i : Instr) (f : XR) (three : Bool) (s : State) (op : List FV → Exact) : Host.Outcome State Fault Refusal :=
  onFront i s fun I =>
    let srcs := [I.srcX f.xa.toNat, I.srcX f.xb.toNat] ++ (if three then [I.srcX f.xd.toNat] else [])
    withSrcs I srcs [I.srcX f.xd.toNat] fun _ =>
      let ins := [I.x32 f.xa.toNat, I.x32 f.xb.toNat] ++ (if three then [I.x32 f.xd.toNat] else [])
      let r := fpLane fp32 I.ftz I.frontRound ins op
      .done (countFront (writeX s I f.xd.toNat (BitVec.ofNat 64 r.out)) I r)

def frontOp2 (g : FV → FV → Exact) : List FV → Exact
  | [a, b] => g a b
  | _ => .nan

def frontOp3 (g : FV → FV → FV → Exact) : List FV → Exact
  | [a, b, c] => g a b c
  | _ => .nan

def execFadds (f : XR) (s : State) := xrFp (.fadds f) f false s (frontOp2 fvAdd)
def execFmuls (f : XR) (s : State) := xrFp (.fmuls f) f false s (frontOp2 fvMul)
def execFfmas (f : XR) (s : State) := xrFp (.ffmas f) f true s (frontOp3 fvFma)
def execFdivs (f : XR) (s : State) := xrFp (.fdivs f) f false s (frontOp2 fvDiv)

def execFcmps (f : XC) (s : State) : Host.Outcome State Fault Refusal :=
  onFront (.fcmps f) s fun I => withSrcs I [I.srcX f.xa.toNat, I.srcX f.xb.toNat] [] fun _ =>
    let a := flushIn fp32 I.ftz (I.x32 f.xa.toNat)
    let b := flushIn fp32 I.ftz (I.x32 f.xb.toNat)
    let s := writeC s I f.cd.toNat (condFp f.cond.toNat a.1 b.1)
    .done (addStat s I.b I.tensor 1 ((if a.2 then 1 else 0) + (if b.2 then 1 else 0)))

/-- The formats of FCVTS in bits [23:20] and [19:16] of the word. -/
def xrDst (f : XR) : Nat := bits f.f9.toNat 5 4
def xrSrc (f : XR) : Nat := bits f.f9.toNat 1 4

/-- The register image of a converted value: S32 is sign-extended, FP32 and UI32 zero-extended (R317). -/
def frontImage (dst out : Nat) : DWord :=
  if dst == 7 then (BitVec.ofNat 32 out).signExtend 64 else if dst == 2 || dst == 8 then BitVec.ofNat 64 (out % 2 ^ 32) else BitVec.ofNat 64 out

def execFcvts (f : XR) (s : State) : Host.Outcome State Fault Refusal :=
  onFront (.fcvts f) s fun I => withSrcs I [I.srcX f.xa.toNat] [I.srcX f.xd.toNat] fun _ =>
    let toIntFmt := xrDst f == 7 || xrDst f == 8 || xrDst f == 13
    let c := convert (xrDst f) (xrSrc f) toIntFmt I.ftz I.frontRound (I.xreg f.xa.toNat).val.toNat
    let F := if xrDst f == 6 then fp64 else fp32
    let nonfin := !toIntFmt && ((unpack F c.out).isNan || (unpack F c.out).isInf)
    .done (countFront (writeX s I f.xd.toNat (frontImage (xrDst f) c.out)) I
      { out := c.out, sat := c.sat, flush := c.flush, nan := c.nan, nonfin := nonfin })

/-! ## Memory access (R318) -/

/-- One access of the context at an 8-byte-aligned address. -/
def frontAccess (s : State) (I : Issuer) (write : Bool) (a : Nat) (act : LaneAct) (dest : Dest) (acq : Nat)
    (mark : State → State) : Act :=
  match alignTrap I true (misaligned [(0, a)] 8) with
  | some t => .trap t
  | none => memIssue s I write true [{ key := 0, thread := 0, va := a, act := act }] dest acq mark

def execLdx (f : XI) (s : State) : Host.Outcome State Fault Refusal :=
  onFront (.ldx f) s fun I => withSrcs I [I.srcX f.xa.toNat] [I.srcX f.xd.toNat] fun _ =>
    frontAccess s I false ((I.xreg f.xa.toNat).val + f.imm.signExtend 64).toNat (.rd 8)
      (.xreg f.xd.toNat true (I.xbank f.xd.toNat)) 0 (fun s => emptyX s I f.xd.toNat)

def execStx (f : XI) (s : State) : Host.Outcome State Fault Refusal :=
  onFront (.stx f) s fun I => withSrcs I [I.srcX f.xa.toNat, I.srcX f.xd.toNat] [] fun _ =>
    frontAccess s I true ((I.xreg f.xa.toNat).val + f.imm.signExtend 64).toNat (.wr (leBytes 8 (I.xreg f.xd.toNat).val.toNat))
      .none 0 id

def execAtmx (f : XR) (s : State) : Host.Outcome State Fault Refusal :=
  onFront (.atmx f) s fun I => withSrcs I [I.srcX f.xa.toNat, I.srcX f.xb.toNat] [I.srcX f.xd.toNat] fun _ =>
    let op := bits f.f9.toNat 5 4
    let raw := bits f.f9.toNat 2 3
    let sc := I.scope raw
    if unperformed s I.u I.mask s.nextId sc && (I.xreg f.xa.toNat).val.toNat % 8 == 0 then .stall
    else
      match frontAccess s I true (I.xreg f.xa.toNat).val.toNat
          (.amo { kind := .atom, op := op, w64 := true, v := (I.xreg f.xb.toNat).val })
          (.xreg f.xd.toNat true (I.xbank f.xd.toNat)) (acqOf sc) (fun s => emptyX s I f.xd.toNat) with
      | .done s' => .done (countClamp s' I raw)
      | a => a

/-! ## Branches and exit (R319, R320, R325) -/

def execBc (f : CB) (s : State) : Host.Outcome State Fault Refusal :=
  onFront (.bc f) s fun I => branchIf I f s

def execJ (f : XJ) (s : State) : Host.Outcome State Fault Refusal :=
  onFront (.j f) s fun I => .jump s (branchTo I.st.pc (f.off.signExtend 64))

def execJal (f : XJ) (s : State) : Host.Outcome State Fault Refusal :=
  onFront (.jal f) s fun I => withSrcs I [] [I.srcX 31] fun _ =>
    .jump (writeX s I 31 I.next) (branchTo I.st.pc (f.off.signExtend 64))

def execJr (f : XR) (s : State) : Host.Outcome State Fault Refusal :=
  onFront (.jr f) s fun I => withSrcs I [I.srcX f.xa.toNat] [] fun _ => .jump s (I.xreg f.xa.toNat).val

/-- A popped token: x30, and the header that its OFFSET names (R325). -/
def takeToken (s : State) (I : Issuer) (v : DWord) : Act :=
  if headBad s I.b 0 1 then .trap (memTrap 0 3)
  else .jump (writeX (dropHead s I.b 0 1) I 30 v) (I.blk.node.text + 4 * (v &&& 0xFFFFF#64))

def execBtok (s : State) : Host.Outcome State Fault Refusal :=
  onFront .btok s fun I => withSrcs I [] [I.srcX 30] fun _ =>
    match I.blk.q1 with
    | v :: _ => takeToken s I v
    | [] => .wait (emptyX s I 30) (.btok (I.notes64 30))

/-- BTOK_POP (R325): the subject's context waits at BTOK and q1 holds a token. -/
def execBtokPop (s : State) : Host.Outcome State Fault Refusal :=
  match waiter s with
  | some (I, .btok _) =>
    (match I.blk.q1 with
     | v :: _ => (takeToken s I v).finish s I
     | [] => .next s)
  | _ => .next s

/-- Loads and returning atomics of the unit that have not returned. -/
def loadsOut (s : State) (u : UnitId) : Bool := s.ops.any fun e => sameUnit e.2.unit u && e.2.dest != .none

def execFexit (s : State) : Host.Outcome State Fault Refusal :=
  onFront .fexit s fun I =>
    if loadsOut s I.u then .stall
    else .fixed (s.updBlock I.b fun B => { B with q1 := [], front := { B.front with done := true } })

/-! ## Tile maps (R321) -/

def setMap (s : State) (I : Issuer) (n : Nat) (v : DWord) : State :=
  s.updCore I.blk.core fun c => { c with t := Tab.set c.t n v }

def execTmset (f : XR) (s : State) : Host.Outcome State Fault Refusal :=
  onFront (.tmset f) s fun I =>
    let n := f.xd.toNat % 16
    if !I.blk.node.tmaps.getLsbD n then I.bad .illegalOperand
    else withSrcs I [I.srcX f.xa.toNat] [] fun _ => .done (setMap s I n (I.xreg f.xa.toNat).val)

def execTmadv (f : XR) (s : State) : Host.Outcome State Fault Refusal :=
  onFront (.tmadv f) s fun I =>
    let n := f.xd.toNat % 16
    if !I.blk.node.tmaps.getLsbD n then I.bad .illegalOperand
    else withSrcs I [I.srcX f.xa.toNat] [] fun _ =>
      let a := (I.xreg f.xa.toNat).val
      let m := Tab.get 0 (s.coreOf I.blk.core).t n
      let b := (tmBase m : Int) + a.toInt
      if a.toNat % 32 != 0 || b < 0 || 2 ^ 19 ≤ b then I.bad .illegalOperand
      else .done (setMap s I n ((m &&& ~~~0x7FFFF#64) ||| BitVec.ofNat 64 b.toNat))

def execTmget (f : XR) (s : State) : Host.Outcome State Fault Refusal :=
  onFront (.tmget f) s fun I =>
    let n := f.xa.toNat % 16
    if !I.blk.node.tmaps.getLsbD n then I.bad .illegalOperand
    else withSrcs I [] [I.srcX f.xd.toNat] fun _ =>
      .done (writeX s I f.xd.toNat (Tab.get 0 (s.coreOf I.blk.core).t n))

/-! ## Decision queues (R323) -/

def execDqpush (f : XR) (s : State) : Host.Outcome State Fault Refusal :=
  onFront (.dqpush f) s fun I =>
    let q := bits f.f9.toNat 5 4
    if I.blk.nq ≤ q then I.bad .illegalOperand
    else withSrcs I [I.srcX f.xa.toNat] [] fun _ => pushOr s I q 0 (I.xreg f.xa.toNat).val (.dqpush q (I.xreg f.xa.toNat).val)

/-! ## Overflow flags and the loss scale (R327, R328) -/

/-- A slot has issued an instruction that has not completed: it waits, and not to issue a word again. -/
def Strand.issued (st : Strand) : Bool :=
  match st.wait with
  | .none => false
  | .heldWalk _ _ _ => false
  | .ats _ _ _ => false
  | .heldAtH _ _ => false
  | _ => true

/-- Whether instructions that the block's quires have issued are still to complete: memory, matrix and engine-pop
instructions, and words at which a slot waits (log 17). -/
def quiresBusy (s : State) (I : Issuer) : Bool :=
  (s.coreOf I.blk.core).matQ.any (fun m => m.b == I.b) ||
  (s.ops.any fun e => match e.2.unit with
    | .slot b _ _ => b == I.b
    | .front _ => false) ||
  (I.blk.pops.any fun p => match p.unit with
    | .slot _ _ _ => true
    | .front _ => false) ||
  s.quires.any fun e => e.1 / 16 == I.b && (e.2.s0.ctl.issued || e.2.s1.ctl.issued)

def execOvfget (f : XR) (s : State) : Host.Outcome State Fault Refusal :=
  onFront (.ovfget f) s fun I => withSrcs I [] [I.srcX f.xd.toNat] fun _ =>
    if quiresBusy s I then .stall else .done (writeX s I f.xd.toNat (I.blk.ovf.setWidth 64))

/-- The loss-scale word after an update with flags f (R328); none for a SCALE that is no positive normal. -/
def lossScale (w : DWord) (f : Word) : Option DWord :=
  let scale := bits w.toNat 0 32
  let e := scale >>> 23
  let run := bits w.toNat 32 16
  let interval := bits w.toNat 48 16
  if e == 0 || 255 ≤ e then none
  else
    let mk := fun (sc r : Nat) => BitVec.ofNat 64 (sc + r <<< 32 + interval <<< 48)
    if f != 0 then some (mk (if 2 ≤ e then scale - 2 ^ 23 else scale) 0)
    else
      let run := (run + 1) % 65536
      if interval != 0 && interval ≤ run then some (mk (if e < 254 then scale + 2 ^ 23 else scale) 0)
      else some (mk scale run)

def execLsupd (f : XR) (s : State) : Host.Outcome State Fault Refusal :=
  onFront (.lsupd f) s fun I => withSrcs I [I.srcX f.xa.toNat] [] fun _ =>
    match lossScale (I.xreg f.xa.toNat).val I.blk.ovf with
    | none => I.bad .illegalOperand
    | some v =>
      if quiresBusy s I then .stall
      else .done (writeX (s.updBlock I.b fun B => { B with ovf := 0 }) I f.xa.toNat v)

end Sys2Proof.Machine
end

