-- ==== Sys2Proof/Machine/System.lean ====
section
/-! DEFINITION. The SYS instructions: traps and their return, system registers, page mapping and sweeps, accumulator
spill and fill, saving and loading registers, and event waits (16_traps.md R368 to R375, 09_registers.md R198, R202,
R203, R441, 04_translation.md R82 to R84). -/

namespace Sys2Proof.Machine

/-! ## NOP, TRAP and ERET (R369 to R371) -/

def execNop (s : State) : Host.Outcome State Fault Refusal := onUnit .nop s fun _ => .done s

def execTrap (f : YT) (s : State) : Host.Outcome State Fault Refusal :=
  onUnit (.trap f) s fun _ => .after s { cause := .trap, detail := f.imm }

/-- A register that an outstanding producer is still to deliver: the unit that issued it, the register's class (0 v, 1 s, 2 x)
and number, and whether it is in that unit's bank. -/
structure OwedReg where
  unit : UnitId
  cls : Nat
  reg : Nat
  bank : Bool
  deriving DecidableEq, Repr

/-- The registers of a 64-bit operand of a unit. -/
def owed64 (u : UnitId) (bank : Bool) (r : Nat) : List OwedReg :=
  match u with
  | .front _ => [{ unit := u, cls := 2, reg := r, bank := bank && 26 ≤ r && r ≤ 30 }]
  | .slot _ _ _ => [r, r + 1].map fun k => { unit := u, cls := 1, reg := k, bank := bank && 24 ≤ k }

/-- The registers that a memory operation, or a late MFSR, is to deliver. -/
def PendOp.owes (o : PendOp) : List OwedReg :=
  match o.dest with
  | .vreg r n _ _ => (List.range n).map fun j => { unit := o.unit, cls := 0, reg := r + j, bank := false }
  | .ldt r f64 _ => (List.range (if f64 then 2 else 1)).map fun j => { unit := o.unit, cls := 0, reg := r + j, bank := false }
  | .sreg r n _ bank => (List.range (if n == 8 then 2 else 1)).map fun j => { unit := o.unit, cls := 1, reg := r + j, bank := bank }
  | .xreg r _ bank => [{ unit := o.unit, cls := 2, reg := r, bank := bank }]
  | _ => []

/-- The registers that a unit's word is to deliver when its wait ends. -/
def waitOwes (s : State) (u : UnitId) : List OwedReg :=
  match unitStrand s u with
  | none => []
  | some st =>
    let bank := st.level != .u
    match st.wait with
    | .qpop _ rd _ _ => owed64 u bank rd
    | .btok _ => owed64 u bank 30
    | .gate id => (match Tab.find s.gates id with
      | some g => g.dests.flatMap (owed64 u bank)
      | none => [])
    | _ => []

/-- Every register that a producer of the issuer's quire or context is still to deliver (09_registers.md R195). -/
def owedRegs (s : State) (I : Issuer) : List OwedReg :=
  let units : List UnitId := if I.fe then [I.u] else [.slot I.b I.q 0, .slot I.b I.q 1]
  (s.ops.filter fun e => sameUnit e.2.unit I.u).flatMap (fun e => e.2.owes) ++
    (I.blk.pops.filter fun p => sameUnit p.unit I.u).flatMap (fun p => p.dests.flatMap (owed64 p.unit p.bank)) ++
    ((s.coreOf I.blk.core).matQ.filter fun m => !I.fe && m.b == I.b && m.q == I.q).flatMap (fun m =>
      m.vregs.map fun v => { unit := I.u, cls := 0, reg := v.1, bank := false }) ++
    units.flatMap (waitOwes s)

/-- A producer is still to write a register of the unit's bank: ERET from S waits for it, so that the bank is full at the
next entry (R366; log 108). -/
def bankOwed (s : State) (I : Issuer) : Bool := (owedRegs s I).any fun x => x.bank && x.unit == I.u

def execEret (s : State) : Host.Outcome State Fault Refusal :=
  onUnit .eret s fun I =>
    let L := I.st.trapOf
    if I.st.level == .h || !L.inHandler then I.bad .illegalOp
    else if !I.fe && I.mask != L.entryMask then I.bad .illegalConvergence
    else if I.st.level == .s && bankOwed s I then .stall
    else .fixed (takeReturn (countIcnt s I) I.u)

/-! ## Partition-logical numbers (01_machine.md R14, 09_registers.md R203) -/

/-- The partition's quads: package and package-logical quad. -/
def partQuads (s : State) (part : Nat) : List (Nat × Nat) :=
  s.pkgs.flatMap fun e : Nat × Pkg =>
    match layoutOf s e.1 part with
    | some L => (bitList 96 L.quads.toNat).map fun q => (e.1, q)
    | none => []

/-- The partition's cores, as pod numbers, in partition-logical order. -/
def partCores (s : State) (part : Nat) : List Nat :=
  (partQuads s part).flatMap fun q : Nat × Nat => (List.range 4).map fun i => coreGid q.1 (4 * q.2 + i)

/-- The partition's dies: those that own a quad, a copy engine or a collective engine. -/
def partDies (s : State) (part : Nat) : List (Nat × Nat) :=
  s.pkgs.flatMap fun e : Nat × Pkg =>
    match layoutOf s e.1 part with
    | some L => ((List.range 8).filter fun d =>
        (bitList 96 L.quads.toNat).any (· / 12 == d) || (bitList 32 L.copyEng.toNat).any (· / 4 == d) ||
          L.collEng.getLsbD d).map fun d => (e.1, d)
    | none => []

def indexOf (l : List Nat) (x : Nat) : Nat := (l.takeWhile (· != x)).length

/-- The partition-logical number of a core. -/
def logicalCore (s : State) (part g : Nat) : Nat := indexOf (partCores s part) g

def placeWord (s : State) (I : Issuer) : DWord :=
  let n := logicalCore s I.blk.part I.blk.core
  let die := ((partDies s I.blk.part).takeWhile fun d : Nat × Nat => d != (I.blk.pkg, dieOfCore I.blk.core)).length
  BitVec.ofNat 64 (n % 2 ^ 17 + (n / 4 % 2 ^ 16) <<< 17 + (die % 2 ^ 13) <<< 33 + (I.blk.pkg % 512) <<< 46 +
    (if I.fe then 2 ^ 59 else I.q <<< 55 + I.sl <<< 60))

/-! ## System registers (R202) -/

inductive Right where
  | no | ro | rw
  deriving DecidableEq, Repr

/-- A row of R202: width, executors, rights at U, S and H. -/
structure SysReg where
  width : Nat
  quire : Bool := true
  front : Bool := true
  u : Right := .ro
  s : Right := .ro
  h : Right := .ro
  deriving DecidableEq, Repr

def sysReg (n : Nat) : Option SysReg :=
  match n with
  | 0x000 => some { width := 32, front := false, h := .rw }
  | 0x001 => some { width := 1, front := false }
  | 0x002 => some { width := 32, front := false }
  | 0x008 => some { width := 32, front := false, u := .rw, s := .rw, h := .rw }
  | 0x009 => some { width := 32, front := false, u := .rw, s := .rw, h := .rw }
  | 0x00A => some { width := 32, u := .rw, s := .rw, h := .rw }
  | 0x00B => some { width := 32, h := .rw }
  | 0x010 => some { width := 64, front := false, s := .rw, h := .rw }
  | 0x011 => some { width := 64, front := false, u := .rw, s := .rw, h := .rw }
  | 0x012 => some { width := 32, quire := false, u := .rw, s := .rw, h := .rw }
  | 0x013 => some { width := 64 }
  | 0x018 => some { width := 64, u := .rw, s := .rw, h := .rw }
  | 0x019 => some { width := 32 }
  | 0x01A => some { width := 64, front := false }
  | 0x01B => some { width := 32, front := false }
  | 0x01C => some { width := 64 }
  | 0x020 => some { width := 32, u := .no, s := .rw, h := .rw }
  | 0x021 => some { width := 16, s := .rw, h := .rw }
  | 0x028 => some { width := 32, h := .rw }
  | 0x029 => some { width := 32 }
  | 0x030 => some { width := 64, u := .no, h := .rw }
  | 0x031 => some { width := 64 }
  | 0x032 => some { width := 64 }
  | 0x033 => some { width := 64, h := .rw }
  | 0x034 => some { width := 64, h := .rw }
  | n => if 0x040 ≤ n && n ≤ 0x04F then some { width := 32, s := .rw, h := .rw } else none

def SysReg.right (r : SysReg) (l : Level) : Right :=
  match l with
  | .u => r.u
  | .s => r.s
  | .h => r.h

/-- A physical tile; a clear USED bit means +0 in every plane with ACNT 0 (13_matrix.md R292). -/
def Core.tileOf (c : Core) (p : Nat) : Tile :=
  let t := Tab.get {} c.tiles p
  if c.accUsed.getLsbD p then t else if t.keep then { count := t.count, keep := true } else {}

/-- The state word of a tile (R291). -/
def Tile.acnt (t : Tile) : Word :=
  BitVec.ofNat 32 (t.count.toNat + (if t.trip then 2 ^ 24 else 0) + (if t.resOpen then 2 ^ 25 else 0))

def Tile.setAcnt (t : Tile) (v : Word) : Tile :=
  { t with count := v.extractLsb' 0 24, trip := v.getLsbD 24, resOpen := v.getLsbD 25 }

/-- FEATURES[63:0] (17_partitions.md R407). -/
def features : DWord := 0x3FFF

/-- The value of a system register as the issuer reads it. -/
def srRead (s : State) (I : Issuer) (n : Nat) : DWord :=
  let i := I.threads.headD 0
  let c := s.coreOf I.blk.core
  let t := I.st.trapOf.regs
  match n with
  | 0x000 => (I.icnt i).setWidth 64
  | 0x001 => if I.ter then 1 else 0
  | 0x002 => BitVec.ofNat 64 (I.global i % 2 ^ 32)
  | 0x008 => I.qr.tctl.setWidth 64
  | 0x009 => I.qr.tstat.setWidth 64
  | 0x00A => I.fpctl.setWidth 64
  | 0x00B => I.blk.seed.setWidth 64
  | 0x010 => I.qr.dstack
  | 0x011 => I.qr.sigv
  | 0x012 => I.blk.ovf.setWidth 64
  | 0x013 => placeWord s I
  | 0x018 => t.pc
  | 0x019 => t.cause.setWidth 64
  | 0x01A => t.mask.setWidth 64
  | 0x01B => (t.mask.extractLsb' 64 32).setWidth 64
  | 0x01C => t.info
  | 0x020 => c.accOwn.setWidth 64
  | 0x021 => c.accUsed.setWidth 64
  | 0x028 => I.blk.ctx.setWidth 64
  | 0x029 => BitVec.ofNat 64 I.blk.part
  | 0x030 => (s.partOf I.blk.part).gateDir
  | 0x031 => features
  | 0x033 => (s.pkgOf I.blk.pkg).enabled
  | n => if 0x040 ≤ n && n ≤ 0x04F then (c.tileOf (I.blk.abase + (n - 0x040))).acnt.setWidth 64 else 0

/-- A MAT instruction in flight that writes ACNT of tile n of the block (R291). -/
def acntOwed (B : Block) (n : Nat) (m : MatOp) : Bool :=
  (m.tile.any fun t => t.1 == B.abase + n) || m.used.any fun t => t.1 == B.abase + n

/-- Whether what a read of TSTAT, SIGV or ACNT, or a write of them, waits for is in flight: operations of the unit
numbered below lim, and for ACNT those of the core (R240, R304, R291). -/
def srWaits (s : State) (u : UnitId) (n lim : Nat) : Bool :=
  (Tab.find s.blocks (unitBlock u)).any fun B =>
    let ms := (s.coreOf B.core).matQ.filter fun m => decide (m.id < lim)
    if 0x040 ≤ n && n ≤ 0x04F then ms.any (acntOwed B (n - 0x040))
    else match u with
      | .front _ => false
      | .slot b q _ =>
        let mine := fun m : MatOp => m.b == b && m.q == q
        let compare := fun e : Nat × PendOp => decide (e.1 < lim) && sameUnit e.2.unit u && (match e.2.dest with
          | .msigx _ _ => true
          | _ => false)
        if n == 0x009 then s.ops.any compare || ms.any fun m => mine m && m.msigx.isSome
        else if n == 0x011 then ms.any fun m => mine m && (m.fold.isSome || m.msigx.isSome)
        else false

/-- What a late MFSR of TSTAT, SIGV or ACNT returns when what it waited for has ended. at_ is what TSTAT held at its issue:
the instructions before it had counted by then, but for the matrix ones, which set SIGMIS alone (R240). -/
def lateValue (s : State) (u : UnitId) (n : Nat) (at_ : DWord) : DWord :=
  let Q : Quire := match u with
    | .slot b q _ => Tab.get {} s.quires (quireKey b q)
    | .front _ => {}
  let B := Tab.get {} s.blocks (unitBlock u)
  if n == 0x009 then (at_ &&& 0x3FFFFFFF#64) ||| (Q.tstat.setWidth 64 &&& 0x40000000#64)
  else if n == 0x011 then Q.sigv
  else ((s.coreOf B.core).tileOf (B.abase + (n - 0x040))).acnt.setWidth 64

/-- An MFSR whose value is there takes it: what was in flight before it has ended (R195, R372). -/
def captureOne (s : State) (e : Nat × PendOp) : Nat × PendOp :=
  match e.2.sr with
  | some n =>
    if e.2.waiting == 0 || srWaits s e.2.unit n e.1 then e
    else (e.1, { e.2 with waiting := 0, got := [(0, leBytes 8 (lateValue s e.2.unit n e.2.srAt).toNat)] })
  | none => e

/-- Every MFSR whose value is there takes it, before a later instruction changes the register. -/
def captureSr (s : State) : State :=
  if s.ops.any fun e => e.2.sr.isSome then { s with ops := s.ops.map (captureOne s) } else s

/-- TCTL as stored: an action of 3 is 0, reserved bits are ignored (R237, R7). -/
def tctlStored (v : Nat) : Word :=
  let act := fun lo : Nat => if bits v lo 2 == 3 then 0 else bits v lo 2 <<< lo
  BitVec.ofNat 32 (act 0 + act 2 + act 4 + bits v 8 6 <<< 8)

/-- FPCTL as stored (R211). -/
def fpctlStored (I : Issuer) (v : Nat) : Word :=
  let rm := bits v 0 3
  let rm := if 4 < rm || (rm == 4 && (I.fe || !I.blk.node.srvec)) then 0 else rm
  BitVec.ofNat 32 (rm + bits v 3 1 <<< 3 + bits v 16 12 <<< 16)

/-- Drops the cached translations that a sweep names; the entries of a large page go together (R84). -/
def sweepHits (w : Sweep) (e : TlbEnt) : Bool :=
  let k := e.size - 16
  e.part == w.part && (match w.kind with
  | .page c v => e.ctx == c && e.vpage >>> k == v >>> k
  | .pageAll v => e.vpage >>> k == v >>> k
  | .pages c first n => e.ctx == c && decide (e.vpage >>> k <<< k < first + n) && decide (first < (e.vpage >>> k <<< k) + 2 ^ k)
  | .ctx c => e.ctx == c
  | .rename c _ => e.ctx == c
  | .part => true
  | .gpage f => decide (e.frame ≤ f) && decide (f < e.frame + 2 ^ k)
  | .s2 _ => false
  | .s2all => false)

/-- A sweep's removals: translations, a swept frame's counters, and the function's address translations (R84, R85). -/
def sweepApply (s : State) (w : Sweep) : State :=
  let keep := fun e : TlbEnt => !sweepHits w e
  let s := { s with
    cores := s.cores.map fun e : Nat × Core => (e.1, { e.2 with tlb := e.2.tlb.filter keep })
    pkgs := s.pkgs.map fun e : Nat × Pkg => if e.2.engTlbs.isEmpty then e
      else (e.1, { e.2 with engTlbs := e.2.engTlbs.map fun t : Nat × List TlbEnt => (t.1, t.2.filter keep) })
    quires := s.quires.map fun e : Nat × Quire => (e.1, { e.2 with lastPage := e.2.lastPage.filter fun x => keep x.2 }) }
  let noAtc := fun f : AtcEnt → Bool => { s with pkgs := s.pkgs.map fun e : Nat × Pkg =>
    (e.1, { e.2 with funcs := Tab.modify e.2.funcs w.part fun F => { F with atc := F.atc.filter f } }) }
  match w.kind with
  | .gpage f => { s with pkgs := s.pkgs.map fun e : Nat × Pkg =>
      (e.1, { e.2 with counters := e.2.counters.map fun d : Nat × List Counter =>
        (d.1, d.2.filter fun c => !(c.part == w.part && c.frame == f)) }) }
  | .s2 g => noAtc fun a => a.granule != g
  | .s2all => noAtc fun _ => false
  | _ => s

/-- A held request under the context's new name. -/
def renameHeld (part : Nat) (r : Word → Word) (h : Held) : Held :=
  if h.part != part then h
  else match h.what with
    | .line q => { h with what := .line { q with ctx := r q.ctx } }
    | .behind q => { h with what := .behind { q with ctx := r q.ctx } }
    | .slow q => { h with what := .slow { q with ctx := r q.ctx } }
    | _ => h

/-- Renames a context as a whole; its engine operations complete under the old name (R441). -/
def renameCtx (s : State) (part : Nat) (old new : Word) : State :=
  let r := fun c : Word => if c == old then new else c
  let mine := partCores s part
  let ports := fun p : Nat × Pkg => match layoutOf s p.1 part with
    | some L => p.2.eth.map fun d : Nat × EthPort => if !L.eth.getLsbD d.1 then d
      else (d.1, { d.2 with qps := d.2.qps.map fun q : Nat × QPair => (q.1, { q.2 with ctx := r q.2.ctx }) })
    | none => p.2.eth
  let s := { s with pkgs := s.pkgs.map fun p : Nat × Pkg => if p.2.eth.isEmpty then p else (p.1, { p.2 with eth := ports p }) }
  let s := s.updPart part fun P =>
    { P with
      queues := P.queues.map fun q : Nat × LaunchQ => (q.1, { q.2 with ctx := r q.2.ctx })
      seals := P.seals.map fun x : Seal => { x with ctx := r x.ctx }
      nodes := P.nodes.map fun n : Nat × Node => (n.1, { n.2 with ctx := r n.2.ctx })
      saved := P.saved.map fun v : Saved => { v with ctx := r v.ctx, block := { v.block with ctx := r v.block.ctx } }
      past := P.past.map fun x : Word × DWord => (r x.1, x.2)
      texts := P.texts.map fun t : Text => { t with ctx := r t.ctx }
      events := P.events.map fun e : EventQ => { e with ctx := r e.ctx } }
  { s with
    views := s.views.map fun v : View => if v.part == part then { v with ctx := r v.ctx } else v
    blocks := s.blocks.map fun e : Nat × Block => if e.2.part == part then (e.1, { e.2 with ctx := r e.2.ctx }) else e
    held := s.held.map (renameHeld part r)
    gates := s.gates.map fun e : Nat × GateOp => if e.2.part == part then (e.1, { e.2 with ctx := r e.2.ctx }) else e
    msgs := s.msgs.map fun e : Nat × Msg =>
      if e.2.req.part == part && !e.2.req.eng then (e.1, { e.2 with req := { e.2.req with ctx := r e.2.req.ctx } }) else e
    preempts := s.preempts.map fun e : Nat × Preempt => if e.2.part == part then (e.1, { e.2 with ctx := r e.2.ctx }) else e
    cores := s.cores.map fun e : Nat × Core =>
      if mine.contains e.1 then
        (e.1, { e.2 with
          accOwn := r e.2.accOwn
          running := e.2.running.map fun x : Nat × Word => (x.1, if x.1 == part then r x.2 else x.2)
          turns := e.2.turns.map r
          steps := e.2.steps.map fun t : Nat × SramStep =>
            (t.1, { t.2 with user := t.2.user.map fun x : Nat × Word => (x.1, if x.1 == part then r x.2 else x.2) }) })
      else e }

/-- Whether another context of the partition goes by a CTXID (R441). -/
def ctxTaken (s : State) (part : Nat) (c : Word) : Bool :=
  let P := s.partOf part
  P.nodes.any (fun n => n.2.ctx == c && n.2.state < 3) || P.saved.any (·.ctx == c) || P.queues.any (·.2.ctx == c) ||
    (s.sweeps.any fun w => w.2.part == part && (match w.2.kind with
      | .rename _ n => n == c
      | _ => false)) ||
    (partCores s part).any fun g => (s.coreOf g).accOwn == c

/-- ENABLED of a package is written: while no block is resident there, and with the bits that FEATURES has (17_partitions.md
R407). -/
def writeEnabled (s : State) (pkg : Nat) (v : DWord) : State :=
  if s.blocks.any fun e => e.2.pkg == pkg then s.tell (.enabledIgnored pkg)
  else s.updPkg pkg fun p => { p with enabled := (v &&& features) ||| 1 }

/-- GATEDIR of a partition is written (17_partitions.md R399). -/
def writeGateDir (s : State) (part : Nat) (v : DWord) : State :=
  s.updPart part fun P => { P with gateDir := v &&& 0x001FFFFFFFFFF001#64 }

/-- What MTSR writes: none where the value is refused. CTXID is written at the end of its sweep (renameAct). -/
def srWrite (s : State) (I : Issuer) (n : Nat) (v : Nat) : Option State :=
  let w := BitVec.ofNat 32 v
  let trapRegs := fun c : Strand =>
    let put := fun L : LevelTrap => { L with regs := { L.regs with pc := BitVec.ofNat 64 v } }
    if c.level == .u then { c with trapU := put c.trapU } else { c with trapS := put c.trapS }
  match n with
  | 0x000 => some (s.updQuire I.key fun Q => { Q with icnt := I.threads.foldl (fun t i => Tab.set t i w) Q.icnt })
  | 0x008 => some (s.updQuire I.key fun Q => { Q with tctl := tctlStored v })
  | 0x009 => some (s.updQuire I.key fun Q =>
      { Q with tstat := (w &&& 0x3FFFFFFF#32) ||| (Q.tstat &&& 0x40000000#32 &&& ~~~w) })
  | 0x00A =>
    if I.fe then some (s.updBlock I.b fun B => { B with front := { B.front with fpctl := fpctlStored I v } })
    else some (s.updQuire I.key fun Q => { Q with fpctl := fpctlStored I v })
  | 0x00B =>
    let s := updNode s I.blk.part I.blk.seq fun n => { n with nrec := { n.nrec with seed := w } }
    let s := s.updPart I.blk.part fun P => { P with saved := P.saved.map fun v : Saved =>
      if v.seq == I.blk.seq then { v with block := { v.block with seed := w } } else v }
    some { s with blocks := s.blocks.map fun e : Nat × Block =>
      if e.2.part == I.blk.part && e.2.seq == I.blk.seq then (e.1, { e.2 with seed := w }) else e }
  | 0x010 => some (s.updQuire I.key fun Q => { Q with dstack := BitVec.ofNat 64 v })
  | 0x011 => some (s.updQuire I.key fun Q => { Q with sigv := BitVec.ofNat 64 v })
  | 0x012 => some (s.updBlock I.b fun B => { B with ovf := w })
  | 0x018 => some (updStrand s I.u trapRegs)
  | 0x020 => some (s.updCore I.blk.core fun c => { c with accOwn := w })
  | 0x021 => some (s.updCore I.blk.core fun c =>
      { c with accUsed := BitVec.ofNat 16 v, tiles := c.tiles.map fun t : Nat × Tile => (t.1, { t.2 with keep := false }) })
  | 0x028 => some s
  | 0x030 => some (writeGateDir s I.blk.part (BitVec.ofNat 64 v))
  | 0x033 => some (writeEnabled s I.blk.pkg (BitVec.ofNat 64 v))
  | 0x034 => some (s.tell (.enabledIgnored I.blk.pkg))
  | n =>
    if bitAt v 24 && bitAt v 25 then none
    else some (s.updCore I.blk.core fun c =>
      let p := I.blk.abase + (n - 0x040)
      { c with tiles := Tab.set c.tiles p ((Tab.get {} c.tiles p).setAcnt w) })

/-- The checks that MFSR and MTSR share, in the order of R368: the index, executor and rights, then the register and
the tile. -/
def srFrame (i : Instr) (f : YY) (s : State) (write : Bool) (r : BitVec 5) (k : Issuer → SysReg → Act) :
    Host.Outcome State Fault Refusal :=
  onUnit i s fun I =>
    let n := f.f10.toNat
    match sysReg n with
    | none => I.bad .illegalOp
    | some R =>
      let right := R.right I.st.level
      if !(if I.fe then R.front else R.quire) || right == .no || (write && right != .rw) then I.bad .illegalOp
      else if (!I.fe && R.width == 64 && r.toNat % 2 != 0) || (0x040 ≤ n && I.blk.node.acctiles ≤ n - 0x040) then
        I.bad .illegalOperand
      else k I R

/-- The registers that hold a value of a width: an x register, an s register or an s pair. -/
def Issuer.srcWidth (I : Issuer) (width r : Nat) : List SrcSt :=
  if I.fe then [I.srcX r] else if width == 64 then I.srcS2 r else [I.srcS r]

/-- Starts a sweep on behalf of the unit, which waits for it (R84). -/
def startSweep (s : State) (I : Issuer) (part : Nat) (kind : SweepKind) : Act :=
  let id := s.nextId
  .wait { s with nextId := id + 1, sweeps := Tab.set s.sweeps id { part := part, kind := kind, unit := some I.u } } (.sweep id)

/-- MTSR CTXID (R441): the context's stores are swept as TLBINV.CTX sweeps them (04_translation.md R84), and then it takes
the new name. -/
def renameAct (s : State) (I : Issuer) (new : Word) : Act :=
  if new != I.blk.ctx && ctxTaken s I.blk.part new then I.bad .illegalOperand
  else if !(outstanding s I.u I.mask).isEmpty then .stall
  else startSweep s I I.blk.part (.rename I.blk.ctx new)

/-- Where the value of a late MFSR goes. -/
def Issuer.srDest (I : Issuer) (wide : Bool) (r : Nat) : Dest :=
  if I.fe then .xreg r true (I.xbank r) else .sreg r (if wide then 8 else 4) false (I.sbank r)

def execMfsr (f : YY) (s : State) : Host.Outcome State Fault Refusal :=
  srFrame (.mfsr f) f s false f.rd fun I R =>
    let r := f.rd.toNat
    withSrcs I [] (I.srcWidth R.width r) fun _ =>
      let wide := I.fe || R.width == 64
      if srWaits s I.u f.f10.toNat s.nextId then
        let op : PendOp := { unit := I.u, dest := I.srDest wide r, ter := I.ter, keys := [0], waiting := 1, lanes := I.mask
                             sr := some f.f10.toNat, srAt := srRead s I f.f10.toNat }
        let s := if wide then empty64 s I r else emptyS s I r
        .done { s with nextId := s.nextId + 1, ops := Tab.set s.ops s.nextId op }
      else
        let v := srRead s I f.f10.toNat
        .done (if wide then write64 s I r v else writeS s I r (v.setWidth 32))

def execMtsr (f : YY) (s : State) : Host.Outcome State Fault Refusal :=
  srFrame (.mtsr f) f s true f.ra fun I R =>
    let r := f.ra.toNat
    withSrcs I (I.srcWidth R.width r) [] fun _ =>
      let v := if I.fe || R.width == 64 then (I.r64 r).toNat else (I.sreg r).val.toNat
      if v >>> R.width != 0 then I.bad .illegalOperand
      else if srWaits s I.u f.f10.toNat s.nextId || s.ops.any (fun e => sameUnit e.2.unit I.u && e.2.sr == some f.f10.toNat && e.2.waiting != 0) then .stall
      else if f.f10.toNat == 0x028 then renameAct s I (BitVec.ofNat 32 v)
      else match srWrite s I f.f10.toNat v with
        | some s => .done s
        | none => I.bad .illegalOperand

/-! ## PGMAP and PGUNMAP (04_translation.md R82, R83) -/

/-- Register fields that name 64-bit values: even pairs in quire code. -/
def Issuer.pairOk (I : Issuer) (r : Nat) : Bool := I.fe || r % 2 == 0

/-- A read of the partition's own records: held for H as a walk when the second stage fails. The level reported for
the paging record and the pool array is 3, that of the entry that PGMAP writes (log 84). -/
def walkRead (s : State) (I : Issuer) (va gpa n : Nat) : Sync Nat :=
  match gpaRead s I.blk.pkg I.blk.part gpa n with
  | .ok l => .ok (readTrips s I.blk.pkg I.blk.part gpa l) (ofLe l)
  | .s2 g => .no (holdWalk s I g 3 va false none)
  | .mem g k => .no (.trap (memTrap g k))
  | .win g k => .no (.trap (windowTrap g k))
  | .wait w => .no (barredAct s I w)

/-- What an instruction meets when a store of its own to a guest-physical place fails: it is held for H, or a precise trap
(R82). Stores made before keep their values. -/
def storeFails (s : State) (I : Issuer) (va : Nat) (r : Dev State) : Act :=
  match r with
  | .ok _ => .stall
  | .s2 g => holdSync s I g va true
  | .mem g k => .trapIn s (memTrap g k)
  | .win g k => .trapIn s (windowTrap g k)
  | .wait w => barredAct s I w

/-- Makes stores to guest-physical places in their order, up to the first that fails. -/
def storeAll (s : State) (I : Issuer) (ws : List (Nat × List Byte)) : State × Option (Dev State) :=
  ws.foldl (fun acc w => match acc.2 with
    | some _ => acc
    | none => match gpaWriteAll acc.1 I.blk.pkg I.blk.part w.1 w.2 I.blk.ctx with
      | .ok t => (t, none)
      | r => (acc.1, some r)) (s, none)

/-- The zeroing stores, and then the entry and POOLHEAD, of which both are written or none (R82). A store of POOLHEAD that
the second stage refuses is held as one of the entry (log 113). -/
def placeStores (s : State) (I : Issuer) (va : Nat) (zero put : List (Nat × List Byte)) : Sync Unit :=
  match storeAll s I zero with
  | (s, some r) => .no (storeFails s I va r)
  | (s, none) =>
    match storeAll s I put with
    | (_, some r) => .no (storeFails s I va r)
    | (t, none) => .ok t ()

/-- How the walk of PGMAP ends: at a leaf, at an invalid entry of a level, or in what the word meets. -/
inductive PgWalk where
  | leaf (e place level : Nat)
  | invalid (level place : Nat)
  | stop (a : Act)

def pgWalk (s : State) (I : Issuer) (va : Nat) : State × PgWalk :=
  match walk s I.blk.pkg I.blk.part I.blk.ctx va with
  | (s, .leaf e place level) => (s, .leaf e place level)
  | (s, .fault 0 level place) => (s, .invalid level place)
  | (s, .fault r level _) => (s, .stop (.trap { cause := .pageFault, info := faultInfo va r level false 0 }))
  | (s, .held g level) => (s, .stop (holdWalk s I g level va false none))
  | (s, .mem g k) => (s, .stop (.trap (memTrap g k)))
  | (s, .win g k) => (s, .stop (.trap (windowTrap g k)))
  | (s, .wait w) => (s, .stop (barredAct s I w))

/-- Takes a frame of the pool for the empty entry of va, which stands at a place, and gives what rd receives. -/
def pgTake (s : State) (I : Issuer) (ra va place : Nat) (k : State → DWord → Act) : Act :=
  match layoutOf s I.blk.pkg I.blk.part with
  | none => k s 2
  | some L =>
    let rec_ := L.paging.toNat
    (walkRead s I va (rec_ + 0x14) 4).andThen fun s head => (walkRead s I va (rec_ + 0x10) 4).andThen fun s count =>
      if count ≤ head then k s 2
      else (walkRead s I va (rec_ + 0x08) 8).andThen fun s pool => (walkRead s I va (pool + 8 * head) 8).andThen fun s f =>
        let frame := bits f 16 36 <<< 16
        let zero := if bitAt f 0 then [] else (List.range 1024).map fun j => (frame + 64 * j, List.replicate 64 (0 : Byte))
        let e := frame + 512 + (ra &&& 0x1FE) + 1
        (placeStores s I va zero [(place, leBytes 8 e), (rec_ + 0x14, leBytes 4 (head + 1))]).andThen fun s _ =>
          k s (BitVec.ofNat 64 frame)

def execPgmap (f : YY) (s : State) : Host.Outcome State Fault Refusal :=
  onUnit (.pgmap f) s fun I =>
    let ra := f.ra.toNat
    let rd := f.rd.toNat
    if I.atU then I.bad .illegalOp
    else if !(I.pairOk ra && I.pairOk rd) then I.bad .illegalOperand
    else withSrcs I (I.src64 ra) (I.src64 rd) fun _ =>
      let v := (I.r64 ra).toNat
      let va := bits v 16 36 <<< 16
      if v &&& (0xFFF000000000FEE1 : Nat) != 0 then I.bad .illegalOperand
      else match pgWalk s I va with
        | (_, .stop a) => a
        | (s, .leaf e _ _) => .done (write64 s I rd (BitVec.ofNat 64 (bits e 16 36 <<< 16 + 1)))
        | (s, .invalid level place) =>
          if level < 3 then .done (write64 s I rd 3) else pgTake s I v va place fun s r => .done (write64 s I rd r)

/-- PGUNMAP (R83): where no valid leaf covers the page, it does nothing. -/
def execPgunmap (f : YY) (s : State) : Host.Outcome State Fault Refusal :=
  onUnit (.pgunmap f) s fun I =>
    let ra := f.ra.toNat
    if I.atU then I.bad .illegalOp
    else if !I.pairOk ra then I.bad .illegalOperand
    else withSrcs I (I.src64 ra) [] fun _ =>
      let v := (I.r64 ra).toNat
      if v % 65536 != 0 || 2 ^ 52 ≤ v then I.bad .illegalOperand
      else if !(outstanding s I.u I.mask).isEmpty then .stall
      else match walk s I.blk.pkg I.blk.part I.blk.ctx v with
        | (s, .fault _ _ _) => .done s
        | (s, .held g level) => holdWalk s I g level v false none
        | (_, .mem g k) => .trap (memTrap g k)
        | (_, .win g k) => .trap (windowTrap g k)
        | (s, .wait w) => barredAct s I w
        | (s, .leaf e place level) =>
          let k := 9 * (3 - level)
          (placeStores s I v [] [(place, leBytes 8 (e - 1))]).andThen fun s _ =>
            startSweep s I I.blk.part (.pages I.blk.ctx (v >>> 16 >>> k <<< k) (2 ^ k))

/-! ## TLBINV (R84) -/

/-- The frame of the kinds with an operand: its level, the bits that must be 0, and the sweep it names. -/
def tlbinvFrame (i : Instr) (f : YY) (s : State) (h : Bool) (mz : Nat) (k : Issuer → Nat → Nat × SweepKind) :
    Host.Outcome State Fault Refusal :=
  onUnit i s fun I =>
    let ra := f.ra.toNat
    if I.atU || (h && I.st.level != .h) then I.bad .illegalOp
    else if !I.pairOk ra then I.bad .illegalOperand
    else withSrcs I (I.src64 ra) [] fun _ =>
      let v := (I.r64 ra).toNat
      if v &&& mz != 0 then I.bad .illegalOperand
      else if !(outstanding s I.u I.mask).isEmpty then .stall
      else startSweep s I (k I v).1 (k I v).2

def execTlbinvPage (f : YY) (s : State) :=
  tlbinvFrame (.tlbinvPage f) f s false 0xFFFF fun I v => (I.blk.part, .page I.blk.ctx (v >>> 16))
def execTlbinvGpage (f : YY) (s : State) :=
  tlbinvFrame (.tlbinvGpage f) f s false 0xFFFF fun I v => (I.blk.part, .gpage (v >>> 16))
/-- The pod partition id of a package-local partition; none is named 16384, which is no partition's id. -/
def localPart (s : State) (pkg i : Nat) : Nat :=
  match Tab.find (s.pkgOf pkg).layout i with
  | some L => if L.valid then L.podPart.toNat else 16384
  | none => 16384

def execTlbinvS2 (f : YY) (s : State) :=
  tlbinvFrame (.tlbinvS2 f) f s true 0xFFF0000001FFFFE0 fun I v => (localPart s I.blk.pkg (v % 32), .s2 (bits v 25 27))
def execTlbinvS2all (f : YY) (s : State) :=
  tlbinvFrame (.tlbinvS2all f) f s true 0xFFFFFFFFFFFFFFE0 fun I v => (localPart s I.blk.pkg (v % 32), .s2all)

/-- The kinds without an operand. -/
def tlbinvBare (i : Instr) (s : State) (k : Issuer → SweepKind) : Host.Outcome State Fault Refusal :=
  onUnit i s fun I =>
    if I.atU then I.bad .illegalOp
    else if !(outstanding s I.u I.mask).isEmpty then .stall
    else startSweep s I I.blk.part (k I)

def execTlbinvCtx (s : State) := tlbinvBare .tlbinvCtx s fun I => .ctx I.blk.ctx
def execTlbinvPart (s : State) := tlbinvBare .tlbinvPart s fun _ => .part

/-- Whether every access that passed translation before a sweep began has completed (R76). An access that passes after
that, through an entry that the sweep has yet to remove, is not waited for (log 39). -/
def sweepDue (s : State) (id : Nat) (w : Sweep) : Bool :=
  !(s.msgs.any fun m => decide ((if m.2.req.eng then m.1 else m.2.req.op) < id) && m.2.req.part == w.part && (match m.2.state with
      | .answered _ => false
      | _ => true)) &&
  !(s.held.any fun h => match h.what with
      | .line r => r.part == w.part && r.op < id
      | .behind r => r.part == w.part && r.op < id
      | .slow r => r.part == w.part && r.op < id
      | _ => false)

/-! ## SPILLA and FILLA (16_traps.md R375, R385) -/

/-- The bytes of a plane of a tile. -/
def Tile.planeBytes (t : Tile) (p : Nat) : List Byte :=
  (List.range 256).flatMap fun e => leBytes 4 (Tab.get 0 t.elems (256 * p + e)).toNat

/-- The planes that a state word says are written. -/
def tilePlanes (trip resOpen : Bool) : Nat := if trip then 3 else if resOpen then 2 else 1

/-- An accumulator slot's image: header, then the planes. -/
def tileImage (t : Tile) (owner : Word) : List (Nat × List Byte) :=
  (0, leBytes 4 1 ++ leBytes 4 t.acnt.toNat ++ leBytes 4 owner.toNat ++ leBytes 52 0) ::
    (List.range (tilePlanes t.trip t.resOpen)).map fun p => (0x40 + 0x400 * p, t.planeBytes p)

/-- Stores of several pieces as accesses of the slot: all are translated before any is performed (R162). -/
def syncWrites (s : State) (I : Issuer) (ws : List (Nat × List Byte)) : Sync Unit :=
  let x := ws.foldl (fun (r : Sync (List (Nat × List SyncPiece × List Byte))) w =>
    match r with
    | .no a => .no a
    | .ok s acc =>
      match syncXlate s I true w.1 w.2.length with
      | .no a => .no a
      | .ok s ps => .ok s (acc ++ [(w.1, ps, w.2)])) (.ok s [])
  match x with
  | .no a => .no a
  | .ok s l =>
    match (l.flatMap fun y => y.2.1).find? fun p => (locate s I.blk.pkg I.blk.part p.gpa true).isNone with
    | some p => .no (holdSync s I p.gpa p.va true)
    | none => l.foldl (fun r y =>
        match r with
        | .no a => .no a
        | .ok s _ => syncScatter s I y.1 y.2.1 y.2.2) (.ok s ())

def syncReads (s : State) (I : Issuer) (rs : List (Nat × Nat)) : Sync (List (List Byte)) :=
  rs.foldl (fun (r : Sync (List (List Byte))) x =>
    match r with
    | .no a => .no a
    | .ok s acc =>
      match syncRead s I x.1 x.2 with
      | .no a => .no a
      | .ok s b => .ok s (acc ++ [b])) (.ok s [])

/-- The frame of SPILLA and FILLA: level, register, source, alignment, and every earlier MAT instruction retired. -/
def tileFrame (i : Instr) (f : YY) (s : State) (k : Issuer → Nat → Act) : Host.Outcome State Fault Refusal :=
  onUnit i s fun I =>
    let ra := f.ra.toNat
    if I.atU then I.bad .illegalOp
    else if !I.pairOk ra then I.bad .illegalOperand
    else withSrcs I (I.src64 ra) [] fun _ =>
      let a := (I.r64 ra).toNat
      match alignTrap I true (misaligned [(0, a)] 64) with
      | some t => .trap t
      | none => if (s.coreOf I.blk.core).matQ.isEmpty then k I a else .stall

def execSpilla (f : YY) (s : State) : Host.Outcome State Fault Refusal :=
  tileFrame (.spilla f) f s fun I a =>
    let c := s.coreOf I.blk.core
    let t := c.tileOf f.a.toNat
    if (List.range (tilePlanes t.trip t.resOpen)).any t.bad.contains then .trap (memTrap 0 3)
    else (syncWrites s I ((tileImage t c.accOwn).map fun w => (a + w.1, w.2))).andThen fun s _ => .done s

/-- The words of bytes, four at a time. -/
def wordsOf (l : List Byte) : List Word :=
  (List.range (l.length / 4)).map fun i => BitVec.ofNat 32 (fld l (4 * i) 4)

/-- A header whose reserved bytes, flags and VALID byte are as R385 gives them. -/
def tileHeaderOk (h : List Byte) : Bool :=
  fld h 0 1 ≤ 1 && fld h 1 3 == 0 && bits (fld h 4 4) 26 6 == 0 && fld h 0x0C 52 == 0 &&
    !(bitAt (fld h 4 4) 24 && bitAt (fld h 4 4) 25)

/-- Tile p becomes t, with its USED bit as given. -/
def setTile (s : State) (core p : Nat) (t : Tile) (used : Bool) : State :=
  s.updCore core fun c =>
    { c with
      tiles := Tab.set c.tiles p t
      accUsed := if used then c.accUsed ||| (1#16 <<< p) else c.accUsed &&& ~~~(1#16 <<< p) }

/-- FILLA loads the planes bit for bit (R375), a word of plane 1 that is no canonical residue word among them (log 119). -/
def execFilla (f : YY) (s : State) : Host.Outcome State Fault Refusal :=
  tileFrame (.filla f) f s fun I a =>
    (syncRead s I a 64).andThen fun s h =>
      if !tileHeaderOk h then I.bad .illegalOperand
      else if fld h 0 1 == 0 then .done (setTile s I.blk.core f.a.toNat {} false)
      else
        let w := BitVec.ofNat 32 (fld h 4 4)
        (syncRead s I (a + 0x40) (0x400 * tilePlanes (w.getLsbD 24) (w.getLsbD 25))).andThen fun s l =>
          let t : Tile := { elems := (wordsOf l).zipIdx.map fun x => (x.2, x.1) }
          .done (setTile s I.blk.core f.a.toNat (t.setAcnt w) true)

/-! ## Live maps and register images (02_instruction_words.md R46, 09_registers.md R198) -/

structure LiveEnt where
  v : Nat
  s : Nat
  k : Nat
  c : Nat
  kind : Nat
  x : Nat
  deriving DecidableEq, Repr

/-- A live-map entry; none where it breaks R46. -/
def parseLive (l : List Byte) : Option LiveEnt :=
  let e : LiveEnt := { v := fld l 0 16, s := fld l 16 4, k := fld l 20 2, c := fld l 22 1, kind := fld l 23 1, x := fld l 24 4 }
  if bitAt e.k 0 || bitAt e.x 0 || 1 < e.kind || fld l 28 4 != 0 || (e.kind == 0 && e.x != 0) ||
     (e.kind == 1 && (e.v != 0 || e.s != 0 || e.k != 0)) then none else some e

def noteKindCode : NoteKind → Nat
  | .memerr => 1 | .gpaRefused => 2 | .align => 3 | .protection => 4

/-- A pending-error record. -/
def noteBytes (cls reg : Nat) (n : Note) : List Byte :=
  leBytes 1 cls ++ leBytes 1 reg ++ leBytes 1 (noteKindCode n.kind) ++ leBytes 1 (if n.kind == .memerr then n.memkind else 0) ++
    leBytes 12 (if cls == 0 then n.lanes.toNat else n.lanes.toNat % 2) ++ leBytes 8 n.addr.toNat ++ leBytes 8 0

structure NoteRec where
  cls : Nat
  reg : Nat
  note : Note
  deriving DecidableEq, Repr

/-- A pending-error record of an image; none where it breaks R198. -/
def parseNote (l : List Byte) : Option NoteRec :=
  let kind := match fld l 2 1 with
    | 1 => some NoteKind.memerr
    | 2 => some NoteKind.gpaRefused
    | 3 => some NoteKind.align
    | 4 => some NoteKind.protection
    | _ => none
  match kind with
  | none => none
  | some k =>
    if fld l 24 8 != 0 || 2 < fld l 0 1 || (k != .memerr && fld l 3 1 != 0) || (fld l 0 1 != 0 && 1 < fld l 4 12) then none
    else some
      { cls := fld l 0 1
        reg := fld l 1 1
        note := { kind := k, memkind := fld l 3 1, lanes := BitVec.ofNat 96 (fld l 4 12), addr := BitVec.ofNat 64 (fld l 16 8) } }

/-- The records of n bytes; none where one breaks R198 or names a register that ok refuses. -/
def parseNotes (l : List Byte) (n : Nat) (ok : NoteRec → Bool) : Option (List NoteRec) :=
  ((List.range n).map fun i => (parseNote ((l.drop (32 * i)).take 32)).filter ok).foldr
    (fun x acc => match x, acc with
      | some r, some t => some (r :: t)
      | _, _ => none) (some [])

def noteFor (l : List NoteRec) (cls r : Nat) (full : Bool) : Option Note :=
  if full then none else (l.find? fun x => x.cls == cls && x.reg == r).map (·.note)

/-- The bits of a list of flags. -/
def bitsOf (n : Nat) (p : Nat → Bool) : Nat := ((List.range n).filter p).foldl (fun a i => a + 2 ^ i) 0

/-- Names of the registers that an entry makes live, for a quire with n base registers. -/
structure Named where
  v : List Nat
  s : List Nat
  k : List Nat
  c : List Nat
  x : List Nat
  deriving DecidableEq, Repr

def LiveEnt.named (e : LiveEnt) : Named :=
  { v := bitList 128 e.v, s := bitList 32 e.s, k := bitList 16 e.k, c := bitList 8 e.c, x := bitList 32 e.x }

/-- A register that a producer owes is one of those named (R374). -/
def Named.has (n : Named) (I : Issuer) (x : OwedReg) : Bool :=
  match x.cls with
  | 0 => n.v.contains x.reg
  | 1 => n.s.contains x.reg && x.bank == I.sbank x.reg && (!x.bank || x.unit == I.u)
  | _ => n.x.contains x.reg && x.bank == I.xbank x.reg

def Issuer.baseCount (I : Issuer) : Nat := 8 * I.blk.node.baseregs

/-- The offset of the notes of the issuer's image. -/
def Issuer.notesAt (I : Issuer) : Nat := if I.fe then 0x140 else 0x200 + 384 * I.baseCount

/-- The header area of an image after its c byte: full/empty bits and the count of notes. -/
def headerBytes (I : Issuer) (notes : Nat) : List Byte :=
  let cfe := bitsOf 8 fun r => (I.creg r).full
  if I.fe then leBytes 3 cfe ++ leBytes 4 (bitsOf 32 fun r => (I.xreg r).full) ++ leBytes 4 notes ++ leBytes 52 0
  else leBytes 1 cfe ++ leBytes 2 (bitsOf 16 fun r => (I.kreg r).full) ++ leBytes 4 (bitsOf 32 fun r => (I.sreg r).full) ++
    leBytes 8 (bitsOf 64 fun r => (Tab.get {} I.qr.v r).full) ++ leBytes 4 notes ++ leBytes 108 0

def Issuer.cAt (I : Issuer) : Nat := if I.fe then 0x100 else 0x180

/-- The pending-error records of the named registers. -/
def notesOf (I : Issuer) (n : Named) : List (List Byte) :=
  (n.v.filterMap fun r => (I.vreg r).note.map (noteBytes 0 r)) ++
    (n.s.filterMap fun r => (I.sreg r).note.map (noteBytes 1 r)) ++
    (n.x.filterMap fun r => (I.xreg r).note.map (noteBytes 2 r))

/-- What SAVEL stores, by offset: the named registers, the header area, the records. oldC is the c byte in memory. -/
def saveParts (I : Issuer) (n : Named) (oldC : Nat) : List (Nat × List Byte) :=
  let notes := notesOf I n
  let cm := bitsOf 8 fun r => if n.c.contains r then (I.creg r).val else bitAt oldC r
  n.s.map (fun r => (4 * r, leBytes 4 (I.sreg r).val.toNat)) ++
    n.k.map (fun r => (0x80 + 16 * r, leBytes 16 (I.kreg r).val.toNat)) ++
    n.x.map (fun r => (8 * r, leBytes 8 (I.xreg r).val.toNat)) ++
    (if n.c.isEmpty then [] else [(I.cAt, leBytes 1 cm)]) ++
    [(I.cAt + 1, headerBytes I notes.length)] ++
    n.v.map (fun r => (0x200 + 384 * r, (List.range 96).flatMap fun l => leBytes 4 ((I.vreg r).at l).toNat)) ++
    (if notes.isEmpty then [] else [(I.notesAt, notes.flatMap id)])

/-- The frame of SAVEL and LOADL: register, address, and the live-map entry (R374). -/
def saveFrame (i : Instr) (f : YY) (s : State) (k : State → Issuer → Named → Nat → Act) : Host.Outcome State Fault Refusal :=
  onUnit i s fun I =>
    let ra := f.ra.toNat
    let idx := f.f10.toNat % 256
    if !I.pairOk ra || I.blk.node.livecount ≤ idx then I.bad .illegalOperand
    else withSrcs I (I.src64 ra) [] fun _ =>
      let a := (I.r64 ra).toNat
      let r := ctxReadAt s I.blk.part I.blk.ctx .u (I.blk.node.live.toNat + 32 * idx) 32
      match r.2.bind parseLive with
      | none => I.bad .illegalOperand
      | some e =>
        if (e.kind == 1) != I.fe || e.v >>> min 64 I.baseCount != 0 then I.bad .illegalOperand
        else match alignTrap I true (misaligned [(0, a)] 64) with
          | some t => .trap t
          | none => if (owedRegs s I).any (e.named.has I) then .stall else k r.1 I e.named a

def execSavel (f : YY) (s : State) : Host.Outcome State Fault Refusal :=
  saveFrame (.savel f) f s fun s I n a =>
    (if n.c.isEmpty then Sync.ok s [] else syncRead s I (a + I.cAt) 1).andThen fun s c =>
      (syncWrites s I ((saveParts I n (ofLe c)).map fun w => (a + w.1, w.2))).andThen fun s _ => .done s

/-- Whether a record may stand in the issuer's image. -/
def noteFits (I : Issuer) (r : NoteRec) : Bool :=
  if I.fe then r.cls == 2 && 1 ≤ r.reg && r.reg ≤ 31
  else (r.cls == 0 && r.reg < min 64 I.baseCount) || (r.cls == 1 && r.reg ≤ 31)

/-- The issuer as it stands in a state: registers are written one after another. -/
def loadRegs (s : State) (I : Issuer) (n : Named) (h : List Byte) (notes : List NoteRec)
    (data : Nat → List Byte) : State :=
  let fe := I.fe
  let s := n.c.foldl (fun s r =>
    let v : Reg Bool := { val := bitAt (fld h 0 1) r, full := bitAt (fld h 1 1) r }
    if fe then s.updBlock I.b fun B => { B with front := { B.front with c := Tab.set B.front.c r v } }
    else s.updQuire I.key fun Q => { Q with c := Tab.set Q.c r v }) s
  let s := n.x.foldl (fun s r =>
    let full := bitAt (fld h 4 4) r
    putX s I r { val := BitVec.ofNat 64 (fld (data r) 0 8), full := full, note := noteFor notes 2 r full }) s
  let s := n.k.foldl (fun s r =>
    let v : Reg Mask := { val := fitTriples I.ter (BitVec.ofNat 96 (fld (data (32 + r)) 0 12)), full := bitAt (fld h 2 2) r }
    s.updQuire I.key fun Q => { Q with k := Tab.set Q.k r v }) s
  let s := n.s.foldl (fun s r =>
    let full := bitAt (fld h 4 4) r
    putS s I r { val := BitVec.ofNat 32 (fld (data r) 0 4), full := full, note := noteFor notes 1 r full }) s
  n.v.foldl (fun s r =>
    let full := bitAt (fld h 8 8) r
    putV s I r { lanes := wordsOf (data (48 + r)), full := full, note := noteFor notes 0 r full }) s

/-- The reads of the named registers, with the number by which loadRegs asks for each. -/
def loadReads (n : Named) : List (Nat × Nat × Nat) :=
  n.x.map (fun r => (r, 8 * r, 8)) ++ n.s.map (fun r => (r, 4 * r, 4)) ++ n.k.map (fun r => (32 + r, 0x80 + 16 * r, 16)) ++
    n.v.map (fun r => (48 + r, 0x200 + 384 * r, 384))

/-- The reserved bytes of an image's header area are 0 (R198). -/
def headerOk (fe : Bool) (h : List Byte) : Bool :=
  if fe then fld h 2 2 == 0 && fld h 12 52 == 0 else fld h 0x14 108 == 0

/-- Bytes 12 to 15 of a predicate's place are 0 (R198). -/
def predPadOk (n : Named) (data : Nat → List Byte) : Bool := n.k.all fun r => fld (data (32 + r)) 12 4 == 0

def execLoadl (f : YY) (s : State) : Host.Outcome State Fault Refusal :=
  saveFrame (.loadl f) f s fun s I n a =>
    (syncRead s I (a + I.cAt) (if I.fe then 64 else 128)).andThen fun s h =>
      let count := if I.fe then fld h 8 4 else fld h 0x10 4
      if (if I.fe then 31 else 96) < count || !headerOk I.fe h then I.bad .illegalOperand
      else (syncRead s I (a + I.notesAt) (32 * count)).andThen fun s l =>
        match parseNotes l count (noteFits I) with
        | none => I.bad .illegalOperand
        | some notes =>
          let rs := loadReads n
          (syncReads s I (rs.map fun x => (a + x.2.1, x.2.2))).andThen fun s ds =>
            let t : Tab (List Byte) := (rs.zip ds).map fun x => (x.1.1, x.2)
            if predPadOk n (Tab.get [] t) then .done (loadRegs s I n h notes (Tab.get [] t)) else I.bad .illegalOperand

/-! ## WAITEV (R373) -/

/-- The classes that a level may wait for. -/
def evAllowed (l : Level) (m : Nat) : Bool := l != .u || m &&& 0xD == 0

def execWaitev (f : YY) (s : State) : Host.Outcome State Fault Refusal :=
  onUnit (.waitev f) s fun I =>
    let m := f.f10.toNat
    let r := f.rd.toNat
    if !evAllowed I.st.level (m % 16) then I.bad .illegalOp
    else if 16 ≤ m || !isPow2 m || !I.pairOk r then I.bad .illegalOperand
    else withSrcs I [] (I.src64 r) fun _ => .wait s (.waitev (Nat.log2 m) r)

/-- The event that a unit of a context may take, and the queue without it. -/
def takeEvent (es : List EventQ) (ctx : Word) (cls : Nat) (u : UnitId) : Option (DWord × List EventQ) :=
  match es.find? fun e => e.ctx == ctx && e.cls == cls with
  | none => none
  | some e =>
    match e.vals.find? fun x => x.1.isNone || x.1 == some u with
    | none => none
    | some x =>
      some (if e.lost then x.2 ||| (1#64 <<< 63) else x.2, es.map fun y => if y.ctx == ctx && y.cls == cls then
        { y with vals := y.vals.erase x, lost := false } else y)

/-- WAITEV_DELIVER (R373): the subject's unit is parked at WAITEV and its context holds an event of the class. -/
def execWaitevDeliver (s : State) : Host.Outcome State Fault Refusal :=
  match waiter s with
  | some (I, .waitev cls rd) =>
    (match takeEvent (s.partOf I.blk.part).events I.blk.ctx cls I.u with
     | none => .next s
     | some r =>
       (Act.done (write64 (s.updPart I.blk.part fun P => { P with events := r.2 }) I rd r.1)).finish s I)
  | _ => .next s

end Sys2Proof.Machine
end

