-- ==== Sys2Proof/Machine/Vector.lean ====
section
/-! DEFINITION. Integer, immediate, move, lane, predicate and uniform instructions of the VEC class (12_vector.md R260
to R268, R282 to R285). -/

namespace Sys2Proof.Machine

/-! ## Word arithmetic (R260 to R262) -/

def mulHigh (sg : Bool) (a b : Word) : Word :=
  let p : DWord := if sg then a.signExtend 64 * b.signExtend 64 else a.setWidth 64 * b.setWidth 64
  p.extractLsb' 32 32

def clz32 (a : Word) : Word := if a == 0 then 32 else BitVec.ofNat 32 (31 - Nat.log2 a.toNat)

def popCount (n v : Nat) : Nat := ((List.range n).filter (bitAt v)).length

def brev32 (a : Word) : Word := (List.range 32).foldl (fun r i => if a.getLsbD i then r ||| (1#32 <<< (31 - i)) else r) 0

/-- Position and length of a bit field (R261). -/
def fieldOf (c : Word) : Nat × Nat := let p := bits c.toNat 0 5; (p, min (bits c.toNat 8 6) (32 - p))

def bfxu32 (a c : Word) : Word := BitVec.ofNat 32 (bits a.toNat (fieldOf c).1 (fieldOf c).2)

def bfx32 (a c : Word) : Word :=
  if (fieldOf c).2 == 0 then 0 else BitVec.ofNat 32 (sext (fieldOf c).2 32 (bits a.toNat (fieldOf c).1 (fieldOf c).2))

def bfi32 (a c d : Word) : Word :=
  let m : Word := BitVec.ofNat 32 (2 ^ (fieldOf c).2 - 1) <<< (fieldOf c).1
  (d &&& ~~~m) ||| ((a <<< (fieldOf c).1) &&& m)

def idiv32 (a b : Word) : Word := if b == 0 then 0xFFFFFFFF else a.sdiv b
def irem32 (a b : Word) : Word := if b == 0 then a else a.srem b
def udiv32 (a b : Word) : Word := if b == 0 then 0xFFFFFFFF else a / b
def urem32 (a b : Word) : Word := if b == 0 then a else a % b

/-- The shift amount: bits [7:0] of the control value. -/
def amt (c : Word) : Nat := bits c.toNat 0 8

def smin32 (a b : Word) : Word := if a.slt b then a else b
def smax32 (a b : Word) : Word := if a.slt b then b else a
def umin32 (a b : Word) : Word := if a.ult b then a else b
def umax32 (a b : Word) : Word := if a.ult b then b else a

/-! ## Integer instructions -/

def binary : Shape := {}
def unary : Shape := { b := false }
def ternary : Shape := { d := true }

def execIadd (f : VV) (s : State) := vvInt (.iadd f) binary f s fun a b _ => a + b
def execIsub (f : VV) (s : State) := vvInt (.isub f) binary f s fun a b _ => a - b
def execImul (f : VV) (s : State) := vvInt (.imul f) binary f s fun a b _ => a * b
def execImulh (f : VV) (s : State) := vvInt (.imulh f) binary f s fun a b _ => mulHigh true a b
def execUmulh (f : VV) (s : State) := vvInt (.umulh f) binary f s fun a b _ => mulHigh false a b
def execImad (f : VV) (s : State) := vvInt (.imad f) ternary f s fun a b d => a * b + d
def execIabs (f : VV) (s : State) := vvInt (.iabs f) unary f s fun a _ _ => if a.slt 0 then -a else a
def execIneg (f : VV) (s : State) := vvInt (.ineg f) unary f s fun a _ _ => -a
def execImin (f : VV) (s : State) := vvInt (.imin f) binary f s fun a b _ => smin32 a b
def execImax (f : VV) (s : State) := vvInt (.imax f) binary f s fun a b _ => smax32 a b
def execUmin (f : VV) (s : State) := vvInt (.umin f) binary f s fun a b _ => umin32 a b
def execUmax (f : VV) (s : State) := vvInt (.umax f) binary f s fun a b _ => umax32 a b
def execAnd (f : VV) (s : State) := vvInt (.and f) binary f s fun a b _ => a &&& b
def execOr (f : VV) (s : State) := vvInt (.or f) binary f s fun a b _ => a ||| b
def execXor (f : VV) (s : State) := vvInt (.xor f) binary f s fun a b _ => a ^^^ b
def execAndn (f : VV) (s : State) := vvInt (.andn f) binary f s fun a b _ => a &&& ~~~b
def execShl (f : VV) (s : State) := vvInt (.shl f) binary f s fun a b _ => a <<< amt b
def execShr (f : VV) (s : State) := vvInt (.shr f) binary f s fun a b _ => a >>> amt b
def execSar (f : VV) (s : State) := vvInt (.sar f) binary f s fun a b _ => a.sshiftRight (amt b)
def execClz (f : VV) (s : State) := vvInt (.clz f) unary f s fun a _ _ => clz32 a
def execPopc (f : VV) (s : State) := vvInt (.popc f) unary f s fun a _ _ => BitVec.ofNat 32 (popCount 32 a.toNat)
def execBrev (f : VV) (s : State) := vvInt (.brev f) unary f s fun a _ _ => brev32 a
def execBfx (f : VV) (s : State) := vvInt (.bfx f) binary f s fun a b _ => bfx32 a b
def execBfxu (f : VV) (s : State) := vvInt (.bfxu f) binary f s fun a b _ => bfxu32 a b
def execBfi (f : VV) (s : State) := vvInt (.bfi f) ternary f s fun a b d => bfi32 a b d
def execIdiv (f : VV) (s : State) := vvInt (.idiv f) binary f s fun a b _ => idiv32 a b
def execUdiv (f : VV) (s : State) := vvInt (.udiv f) binary f s fun a b _ => udiv32 a b
def execIrem (f : VV) (s : State) := vvInt (.irem f) binary f s fun a b _ => irem32 a b
def execUrem (f : VV) (s : State) := vvInt (.urem f) binary f s fun a b _ => urem32 a b

/-! ## Immediate instructions (R263, R264) -/

def execIaddi (f : VI) (s : State) := viInt (.iaddi f) f s fun a b => a + b
def execAndi (f : VI) (s : State) := viInt (.andi f) f s fun a b => a &&& b
def execOri (f : VI) (s : State) := viInt (.ori f) f s fun a b => a ||| b
def execXori (f : VI) (s : State) := viInt (.xori f) f s fun a b => a ^^^ b
def execShli (f : VI) (s : State) := viInt (.shli f) f s fun a b => a <<< amt b
def execShri (f : VI) (s : State) := viInt (.shri f) f s fun a b => a >>> amt b
def execSari (f : VI) (s : State) := viInt (.sari f) f s fun a b => a.sshiftRight (amt b)

def execMovi (f : VM) (s : State) : Host.Outcome State Fault Refusal :=
  onQuire (.movi f) s fun I =>
    if !I.vOk f.vd.toNat 1 then I.bad .illegalOperand
    else withSrcs I [] [I.srcV f.vd.toNat] fun _ => .done (writeV s I f.vd.toNat I.mask fun _ => f.imm.setWidth 32)

def execMovhi (f : VM) (s : State) : Host.Outcome State Fault Refusal :=
  onQuire (.movhi f) s fun I =>
    if !I.vOk f.vd.toNat 1 then I.bad .illegalOperand
    else withSrcs I [I.srcV f.vd.toNat] [] fun _ =>
      .done (writeV s I f.vd.toNat I.mask fun l => f.imm ++ ((I.vreg f.vd.toNat).at l).extractLsb' 0 16)

/-! ## Moves and selects (R265) -/

def execMov (f : VV) (s : State) := vvInt (.mov f) unary f s fun a _ _ => a

def execSel (f : VK) (s : State) : Host.Outcome State Fault Refusal :=
  onQuire (.sel f) s fun I =>
    if !(I.vOk f.va.toNat 1 && I.vOk f.vd.toNat 1) then I.bad .illegalOperand
    else withSrcs I [I.srcV f.va.toNat (f.ea == 1), I.srcK f.k.toNat, I.srcV f.vd.toNat] [] fun _ =>
      .done (writeV s I f.vd.toNat (I.mask &&& (I.kreg f.k.toNat).val) fun l => (I.vreg f.va.toNat).at l)

/-! ## Lane permutations (R266, R267) -/

/-- δ of thread i; in ternion mode its majority. -/
def delta (I : Issuer) (f : VV) (i : Nat) : Nat :=
  if (opndB f.m f.vb).uni then I.sval false (f.vb.toNat % 32)
  else (majority I.ter i fun l => I.vval false f.vb.toNat l).getD 0

/-- The lane that a lane's value comes from: sibling j from sibling j, its own outside the quire's threads. -/
def permLane (I : Issuer) (src : Nat → Int) (l : Nat) : Nat :=
  let t := src (threadOf I.ter l)
  if 0 ≤ t && t < (I.w : Int) then (if I.ter then 3 * t.toNat + l % 3 else t.toNat) else l

/-- A permutation: needed names the threads whose δ is read. -/
def permute (i : Instr) (f : VV) (s : State) (needed : Issuer → List Nat) (src : Issuer → Nat → Int) :
    Host.Outcome State Fault Refusal :=
  onQuire i s fun I => vvFrame {} I f fun _ =>
    let bad := if f.m == 1 then [] else
      (needed I).filter fun t => (majority I.ter t fun l => I.vval false f.vb.toNat l).isNone
    if !bad.isEmpty then I.badThreads bad
    else .done (writeV s I f.vd.toNat I.mask fun l => (I.vreg f.va.toNat).at (permLane I (src I) l))

def firstThread (I : Issuer) : Nat := I.threads.headD 0

def execShfl (f : VV) (s : State) := permute (.shfl f) f s (·.threads) fun I i => (delta I f i : Int)
def execShflup (f : VV) (s : State) := permute (.shflup f) f s (·.threads) fun I i => (i : Int) - toSigned 32 (delta I f i)
def execShfldn (f : VV) (s : State) := permute (.shfldn f) f s (·.threads) fun I i => (i : Int) + toSigned 32 (delta I f i)
def execShflx (f : VV) (s : State) := permute (.shflx f) f s (·.threads) fun I i => ((i ^^^ delta I f i : Nat) : Int)
def execBcast (f : VV) (s : State) :=
  permute (.bcast f) f s (fun I => [firstThread I]) fun I _ => (delta I f (firstThread I) : Int)

def execLaneid (f : VV) (s : State) : Host.Outcome State Fault Refusal :=
  onQuire (.laneid f) s fun I =>
    if !I.vOk f.vd.toNat 1 then I.bad .illegalOperand
    else withSrcs I [] [I.srcV f.vd.toNat] fun _ =>
      .done (writeV s I f.vd.toNat I.mask fun l => BitVec.ofNat 32 (threadOf I.ter l))

/-! ## Uniform to vector and back (R268) -/

def execS2v (f : VV) (s : State) : Host.Outcome State Fault Refusal :=
  onQuire (.s2v f) s fun I =>
    if !I.vOk f.vd.toNat 1 then I.bad .illegalOperand
    else withSrcs I [I.srcS (f.vb.toNat % 32)] [I.srcV f.vd.toNat] fun _ =>
      .done (writeV s I f.vd.toNat I.mask fun _ => (I.sreg (f.vb.toNat % 32)).val)

def execS2vSib (f : VV) (s : State) : Host.Outcome State Fault Refusal :=
  onQuire (.s2vSib f) s fun I =>
    let r := f.vb.toNat % 32
    if !I.ter || 29 < r || !I.vOk f.vd.toNat 1 then I.bad .illegalOperand
    else withSrcs I [I.srcS r, I.srcS (r + 1), I.srcS (r + 2)] [I.srcV f.vd.toNat] fun _ =>
      .done (writeV s I f.vd.toNat I.mask fun l => (I.sreg (r + l % 3)).val)

def execV2s (f : VV) (s : State) : Host.Outcome State Fault Refusal :=
  onQuire (.v2s f) s fun I =>
    let sd := f.vd.toNat % 32
    if !I.vOk f.va.toNat 1 then I.bad .illegalOperand
    else withSrcs I [I.srcV f.va.toNat (f.ea == 1)] [I.srcS sd] fun _ =>
      match majority I.ter (firstThread I) fun l => I.vval false f.va.toNat l with
      | none => I.badThreads [firstThread I]
      | some v => .done (writeS s I sd (BitVec.ofNat 32 v))

/-! ## Predicate operations (R283, R284) -/

/-- The logical threads set in a predicate. -/
def kThreads (I : Issuer) (m : Mask) : List Nat := threadsOf I.ter m

def kBinary (i : Instr) (f : KF) (s : State) (g : Mask → Mask → Mask) : Host.Outcome State Fault Refusal :=
  onQuire i s fun I =>
    if f.kd == 0 then I.bad .illegalOperand
    else withSrcs I [I.srcK f.ka.toNat, I.srcK f.kb.toNat] [I.srcK f.kd.toNat] fun _ =>
      .done (writeK s I f.kd.toNat (g (I.kreg f.ka.toNat).val (I.kreg f.kb.toNat).val))

/-- The instructions that read one predicate name k0 as kb, which is always full. -/
def execKand (f : KF) (s : State) := kBinary (.kand f) f s (· &&& ·)
def execKor (f : KF) (s : State) := kBinary (.kor f) f s (· ||| ·)
def execKxor (f : KF) (s : State) := kBinary (.kxor f) f s (· ^^^ ·)
def execKnot (f : KF) (s : State) := kBinary (.knot f) f s fun a _ => ~~~a
def execKmov (f : KF) (s : State) := kBinary (.kmov f) f s fun a _ => a

def execKpop (f : KF) (s : State) : Host.Outcome State Fault Refusal :=
  onQuire (.kpop f) s fun I => withSrcs I [I.srcK f.ka.toNat, I.srcK f.kb.toNat] [I.srcS f.sd.toNat] fun _ =>
    .done (writeS s I f.sd.toNat
      (BitVec.ofNat 32 (kThreads I ((I.kreg f.ka.toNat).val &&& (I.kreg f.kb.toNat).val)).length))

def execKany (f : KF) (s : State) : Host.Outcome State Fault Refusal :=
  onQuire (.kany f) s fun I => withSrcs I [I.srcK f.ka.toNat, I.srcK f.kb.toNat] [I.srcC (f.sd.toNat % 8)] fun _ =>
    .done (writeC s I (f.sd.toNat % 8) (!(kThreads I ((I.kreg f.ka.toNat).val &&& (I.kreg f.kb.toNat).val)).isEmpty))

def execKall (f : KF) (s : State) : Host.Outcome State Fault Refusal :=
  onQuire (.kall f) s fun I => withSrcs I [I.srcK f.ka.toNat, I.srcK f.kb.toNat] [I.srcC (f.sd.toNat % 8)] fun _ =>
    .done (writeC s I (f.sd.toNat % 8) (kThreads I ((I.kreg f.kb.toNat).val &&& ~~~(I.kreg f.ka.toNat).val)).isEmpty)

def execKfirst (f : KF) (s : State) : Host.Outcome State Fault Refusal :=
  onQuire (.kfirst f) s fun I =>
    if f.kd == 0 then I.bad .illegalOperand
    else withSrcs I [I.srcK f.ka.toNat, I.srcK f.kb.toNat] [I.srcK f.kd.toNat, I.srcS f.sd.toNat] fun _ =>
      match kThreads I ((I.kreg f.ka.toNat).val &&& (I.kreg f.kb.toNat).val) with
      | t :: _ => .done (writeS (writeK s I f.kd.toNat (maskOfThreads I.ter [t])) I f.sd.toNat (BitVec.ofNat 32 t))
      | [] => .done (writeS (writeK s I f.kd.toNat 0) I f.sd.toNat 0xFFFFFFFF)

/-! ## Uniform operations (R285) -/

def sBinary (i : Instr) (f : SF) (s : State) (g : Word → Word → Word) : Host.Outcome State Fault Refusal :=
  onQuire i s fun I => withSrcs I [I.srcS f.sa.toNat, I.srcS f.sb.toNat] [I.srcS f.sd.toNat] fun _ =>
    .done (writeS s I f.sd.toNat (g (I.sreg f.sa.toNat).val (I.sreg f.sb.toNat).val))

def execSadd (f : SF) (s : State) := sBinary (.sadd f) f s (· + ·)
def execSsub (f : SF) (s : State) := sBinary (.ssub f) f s (· - ·)
def execSmul (f : SF) (s : State) := sBinary (.smul f) f s (· * ·)
def execSand (f : SF) (s : State) := sBinary (.sand f) f s (· &&& ·)
def execSor (f : SF) (s : State) := sBinary (.sor f) f s (· ||| ·)
def execSxor (f : SF) (s : State) := sBinary (.sxor f) f s (· ^^^ ·)
def execSshl (f : SF) (s : State) := sBinary (.sshl f) f s fun a b => a <<< amt b
def execSshr (f : SF) (s : State) := sBinary (.sshr f) f s fun a b => a >>> amt b

/-- SMOV reads sa alone. -/
def execSmov (f : SF) (s : State) : Host.Outcome State Fault Refusal :=
  onQuire (.smov f) s fun I => withSrcs I [I.srcS f.sa.toNat] [I.srcS f.sd.toNat] fun _ =>
    .done (writeS s I f.sd.toNat (I.sreg f.sa.toNat).val)

def execSmovi (f : SI) (s : State) : Host.Outcome State Fault Refusal :=
  onQuire (.smovi f) s fun I => withSrcs I [] [I.srcS f.sd.toNat] fun _ =>
    .done (writeS s I f.sd.toNat (f.imm.setWidth 32))

def execScmp (f : SF) (s : State) : Host.Outcome State Fault Refusal :=
  onQuire (.scmp f) s fun I => withSrcs I [I.srcS f.sa.toNat, I.srcS f.sb.toNat] [I.srcC (f.sd.toNat % 8)] fun _ =>
    .done (writeC s I (f.sd.toNat % 8)
      (condInt f.cond.toNat true 32 (I.sreg f.sa.toNat).val.toNat (I.sreg f.sb.toNat).val.toNat))

/-! ## Prefix sums (R282) -/

/-- The sum over the contributing threads up to t, with t or before it. -/
def scanSum (terms : List Nat) (excl : Bool) (val : Nat → Word) (t : Nat) : Word :=
  (terms.filter fun x => x < t || (!excl && x == t)).foldl (fun a x => a + val x) 0

def execScani (f : VK) (s : State) : Host.Outcome State Fault Refusal :=
  onQuire (.scani f) s fun I =>
    if !(I.vOk f.va.toNat 1 && I.vOk f.vd.toNat 1) then I.bad .illegalOperand
    else withSrcs I [I.srcV f.va.toNat (f.ea == 1), I.srcK f.k.toNat] [I.srcV f.vd.toNat] fun _ =>
      let m := I.mask &&& (I.kreg f.k.toNat).val
      let terms := threadsOf I.ter m
      .done (writeV s I f.vd.toNat m fun l =>
        scanSum terms (f.x == 1) (fun t => (I.vreg f.va.toNat).at (if I.ter then 3 * t + l % 3 else t)) (threadOf I.ter l))

end Sys2Proof.Machine
end

