-- ==== Sys2Proof/Machine/Select.lean ====
section
/-! DEFINITION. The selection of a clause at an issue port: fetching, the header's checks, safe points, the wait set,
the room of engine pairs, the ownership check, and the choice among candidates (02_instruction_words.md R27 to R31,
15_scheduling.md R360, 14_control.md R341, 16_traps.md R364, R376). -/

namespace Sys2Proof.Machine

/-! ## Fetching -/

/-- One word of text at a virtual address, fetched for a unit. -/
def fetchWord (s : State) (I : Issuer) (va : Nat) : Sync Word :=
  let t := translate s { pkg := I.blk.pkg, part := I.blk.part, ctx := I.blk.ctx, lvl := I.st.level, core := some I.blk.core } va false
  match t.2 with
  | .ok gpa _ _ =>
    (match gpaRead t.1 I.blk.pkg I.blk.part gpa 4 I.st.level with
     | .ok l => .ok (readTrips t.1 I.blk.pkg I.blk.part gpa l) (BitVec.ofNat 32 (ofLe l))
     | .s2 g => .no (holdSync t.1 I g va false)
     | .mem g k => .no (.trap (memTrap g k))
     | .win g k => .no (.trap (windowTrap g k))
     | .wait w => .no (barredAct t.1 I w))
  | .fault c r l => .no (.trap { cause := c, info := faultInfo va r l false 0 })
  | .mem g k => .no (.trap (memTrap g k))
  | .win g k => .no (.trap (windowTrap g k))
  | .held g l => .no (holdWalk s I g l va false none)
  | .blocked => .no .stall
  | .ats g ha => .no (wantAts s I g ha)

/-- What the checks of a clause see in place of an uncorrectable word: an opcode that no class assigns, so that it is
no control transfer and has no sources. -/
def unreadWord : Word := 0xD0000000

/-- A word of a clause as its checks see it: an uncorrectable one raises MEMERR only when it is reached (R61). -/
def peekWord (s : State) (I : Issuer) (va : Nat) : Sync Word :=
  match fetchWord s I va with
  | .no (.trap t) => if t.cause == .memerr then .ok s unreadWord else .no (.trap t)
  | r => r

/-- n words from va on. -/
def fetchWords (s : State) (I : Issuer) (va n : Nat) : Sync (List Word) :=
  (List.range n).foldl (fun (r : Sync (List Word)) i =>
    match r with
    | .no a => .no a
    | .ok s acc =>
      match peekWord s I (va + 4 * i) with
      | .no a => .no a
      | .ok s w => .ok s (acc ++ [w])) (.ok s [])

/-! ## The header (R27) -/

def hdrN (h : Word) : Nat := bits h.toNat 0 4
def hdrSp (h : Word) : Bool := h.getLsbD 7
def hdrLive (h : Word) : Nat := bits h.toNat 8 8

def clsOf (n : Nat) : Option Cls :=
  match n with
  | 0 => some .sys | 1 => some .front | 2 => some .vec | 3 => some .mem | 4 => some .mat | 5 => some .eng | 6 => some .ctl
  | _ => none

def clsCode : Cls → Nat
  | .sys => 0 | .front => 1 | .vec => 2 | .mem => 3 | .mat => 4 | .eng => 5 | .ctl => 6

def hdrCls (h : Word) : Option Cls := clsOf (bits h.toNat 4 3)

/-- Check 1 of R28. -/
def hdrFormed (h : Word) : Bool :=
  bits h.toNat 28 4 == 0xD && !h.getLsbD 23 && bits h.toNat 26 2 == 0 && hdrN h != 0 && (hdrCls h).isSome &&
    (hdrSp h || hdrLive h == 0) && (!h.getLsbD 22 || hdrCls h == some .mat)

/-- Check 2: the class is permitted to the executor. -/
def clsAllowed (fe : Bool) (c : Cls) : Bool :=
  match c with
  | .sys => true
  | .eng => true
  | .front => fe
  | _ => !fe

/-- The control-transfer opcodes of a class (R31). The opcode alone decides: a word of such an opcode that breaks its
format counts for check 5 of R28 too (DESIGN CHOICE, log 76: the spec does not say). -/
def isTransfer (c : Cls) (w : Word) : Bool :=
  let op := opcodeOf w
  match c with
  | .ctl => [0x00, 0x01, 0x02, 0x03, 0x04, 0x05, 0x06, 0x07, 0x0E, 0x0F, 0x11].contains op
  | .front => [0x40, 0x41, 0x42, 0x43, 0x44, 0x70].contains op
  | .sys => op == 0x01 || op == 0x02
  | _ => false

/-- Check 4: the header and its words lie in the text section of the running kernel. -/
def inText (s : State) (I : Issuer) (n : Nat) : Bool :=
  let pc := I.st.pc.toNat
  (s.partOf I.blk.part).texts.any fun t =>
    t.ctx == I.blk.ctx && t.base == I.blk.node.text.toNat && decide (t.base ≤ pc) && decide (pc + 4 * (n + 1) ≤ t.base + t.size)

def illegalClause (h : Word) (check : Nat) : Trap :=
  { cause := .illegalClause, info := BitVec.ofNat 64 (h.toNat + check <<< 32) }

def modeMismatch (h : Word) (I : Issuer) : Trap :=
  { cause := .modeMismatch, info := BitVec.ofNat 64 (h.toNat + (if I.ter && !I.fe then 2 ^ 32 else 0) + (if I.blk.node.det then 2 ^ 33 else 0)) }

/-- The checks of R28 on a header whose words are given: the first that fails. -/
def hdrChecks (s : State) (I : Issuer) (h : Word) (c : Cls) (ws : List Word) : Option Trap :=
  let sup := I.st.level != .u
  if !sup && !inText s I (hdrN h) then some (illegalClause h 4)
  else if (ws.dropLast).any (isTransfer c) then some (illegalClause h 5)
  else if hdrSp h && I.blk.node.livecount ≤ hdrLive h then some (illegalClause h 6)
  else if !sup && !I.fe && h.getLsbD 24 != I.ter then some (modeMismatch h I)
  else if !sup && h.getLsbD 25 != I.blk.node.det then some (modeMismatch h I)
  else none

/-! ## What a unit's next selection meets -/

inductive Sel where
  /-- it is no candidate -/
  | idle
  /-- a trap or a wait, without a clause -/
  | meets (I : Issuer) (a : Act)
  /-- a safe point at which it stops -/
  | stops (I : Issuer) (s : State) (live : Nat)
  /-- a safe point of a withdrawn STOP node -/
  | exits (I : Issuer) (s : State)
  | clause (I : Issuer) (s : State) (c : Cls) (h : Word) (ws : List Word)

/-- Whether a pre-emption request names the block (R376). -/
def preempted (s : State) (B : Block) : Bool :=
  s.preempts.any fun p => p.2.part == B.part && p.2.ctx == B.ctx && p.2.cores.contains B.core

/-- Whether the block's node is withdrawn under STOP (R355). -/
def stopNode (s : State) (B : Block) : Bool :=
  match nodeOf s B.part B.seq with
  | some n => n.withdrawn && n.nrec.stop
  | none => false

/-- What a unit meets when a port selects its next clause: due reports, a saved trap, the fetch, the checks (R364). -/
def selection (s : State) (u : UnitId) : Sel :=
  match issuerOf s u 0 with
  | none => .idle
  | some I =>
    if I.st.wait != .none || I.st.stop != .run || I.st.left != 0 || (s.pkgOf I.blk.pkg).stopped || expiryDue s u then .idle
    else match I.st.due, I.st.pend with
    | t :: rest, _ => .meets I (.fixed (takeTrap (updStrand s u fun c => { c with due := rest }) u t))
    | [], t :: rest => .meets I (.fixed (takeTrap (updStrand s u fun c => { c with pend := rest }) u t))
    | [], [] =>
      match fetchWord s I (I.st.pc.toNat / 4 * 4) with
      | .no .stall => .idle
      | .no a => .meets I a
      | .ok s1 h =>
        if I.st.pc.toNat % 4 != 0 || !hdrFormed h then .meets I (.trap (illegalClause h 1))
        else match hdrCls h with
        | none => .meets I (.trap (illegalClause h 1))
        | some c =>
          if !clsAllowed I.fe c then .meets I (.trap (illegalClause h 2))
          else if I.fe && h.getLsbD 24 then .meets I (.trap (illegalClause h 3))
          else if I.atU && !inText s I (hdrN h) then .meets I (.trap (illegalClause h 4))
          else match fetchWords s1 I (I.st.pc.toNat + 4) (hdrN h) with
          | .no .stall => .idle
          | .no a => .meets I a
          | .ok s2 ws =>
            match hdrChecks s I h c ws with
            | some t => .meets I (.trap t)
            | none =>
              if hdrSp h && I.atU && stopNode s I.blk then .exits I s2
              else if hdrSp h && I.atU && preempted s I.blk then .stops I s2 (hdrLive h)
              else .clause I s2 c h ws

/-! ## Register sources of a word (R29, WSRC) -/

/-- The register sources of an instruction, as its meaning reads them. -/
def wordSrcs (I : Issuer) (i : Instr) : List SrcSt :=
  match i with
  | .iadd f | .isub f | .imul f | .imulh f | .umulh f | .imin f | .imax f | .umin f | .umax f | .and f | .or f | .xor f
  | .andn f | .shl f | .shr f | .sar f | .bfx f | .bfxu f | .idiv f | .udiv f | .irem f | .urem f | .shfl f | .shflup f
  | .shfldn f | .shflx f | .bcast f | .fadd f | .fsub f | .fmul f | .fmin f | .fmax f | .fdiv f => ({} : Shape).srcs I f
  | .imad f | .bfi f | .ffma f => ({ d := true } : Shape).srcs I f
  | .iabs f | .ineg f | .clz f | .popc f | .brev f | .mov f | .fabs f | .fneg f | .fsqrt f | .frcp f | .frsq f | .fexp2 f
  | .flog2 f | .ftanh f | .frnd f | .fclass f => ({ b := false } : Shape).srcs I f
  | .dadd f | .dsub f | .dmul f | .dmin f | .dmax f | .ddiv f => ({ wide := true } : Shape).srcs I f
  | .dfma f => ({ d := true, wide := true } : Shape).srcs I f
  | .dsqrt f => ({ b := false, wide := true } : Shape).srcs I f
  | .iaddi f | .andi f | .ori f | .xori f | .shli f | .shri f | .sari f => [I.srcV f.va.toNat (f.ea == 1)]
  | .movhi f => [I.srcV f.vd.toNat]
  | .sel f => [I.srcV f.va.toNat (f.ea == 1), I.srcK f.k.toNat, I.srcV f.vd.toNat]
  | .scani f => [I.srcV f.va.toNat (f.ea == 1), I.srcK f.k.toNat]
  | .s2v f => [I.srcS (f.vb.toNat % 32)]
  | .s2vSib f => [I.srcS (f.vb.toNat % 32), I.srcS (f.vb.toNat % 32 + 1), I.srcS (f.vb.toNat % 32 + 2)]
  | .v2s f => [I.srcV f.va.toNat (f.ea == 1)]
  | .icmp f | .ucmp f | .fcmp f => I.srcV2 false f.va.toNat (f.e == 1) ++ (opndB f.m f.vb).srcs I false (f.e == 1)
  | .dcmp f => I.srcV2 true f.va.toNat (f.e == 1) ++ (opndB f.m f.vb).srcs I true (f.e == 1)
  | .cvt f => I.srcV2 (codeWide f.src.toNat) f.va.toNat (f.ea == 1)
  | .pack2 f => I.srcV2 true f.va.toNat (f.ea == 1)
  | .unpack2 f => [I.srcV f.va.toNat (f.ea == 1)]
  | .redf f | .redfmin f | .redfmax f | .redi f => I.srcV2 (f.d == 1) f.va.toNat (f.ea == 1) ++ [I.srcK f.k.toNat]
  | .kand f | .kor f | .kxor f | .knot f | .kmov f | .kpop f | .kany f | .kall f | .kfirst f => [I.srcK f.ka.toNat, I.srcK f.kb.toNat]
  | .sadd f | .ssub f | .smul f | .sand f | .sor f | .sxor f | .sshl f | .sshr f | .scmp f => [I.srcS f.sa.toNat, I.srcS f.sb.toNat]
  | .smov f => [I.srcS f.sa.toNat]
  | .dig f | .tmean f | .sibsel f => I.srcV2 (f.eb == 1) f.va.toNat (f.ea == 1)
  | .tspread f | .tchk f => I.srcV2 (f.eb == 1) f.va.toNat (f.ea == 1) ++ (opndB f.m f.vb).srcs I false false
  | .ld f | .pref f | .clean f => mvSrcs f I
  | .st f => mvSrcs f I ++ I.srcGroup f.data.toNat (regsOfWidth f.width.toNat)
  | .ldt f => mvSrcs f I ++ [I.srcS (f.sb.toNat + 2)]
  | .stt f => mvSrcs f I ++ [I.srcS (f.sb.toNat + 2)] ++ I.srcGroup f.data.toNat (if mvF64 f then 2 else 1)
  | .lds f => [I.srcV f.va.toNat (f.ea == 1)]
  | .sts f => I.srcV f.va.toNat (f.ea == 1) :: I.srcGroup f.data.toNat (regsOfWidth f.width)
  | .atoms f => [I.srcV f.va.toNat (f.ea == 1), I.srcV f.data.toNat]
  | .ldu f => I.srcS2 f.sb.toNat
  | .stu f => I.srcS2 f.sb.toNat ++ (if f.width == 3 then I.srcS2 f.sd.toNat else [I.srcS f.sd.toNat])
  | .atom f | .fatom f => I.srcV2 true f.va.toNat (f.ea == 1) ++ I.srcGroup f.data.toNat (if f.w64 == 1 then 2 else 1)
  | .acas f => I.srcV2 true f.va.toNat (f.ea == 1) ++ I.srcGroup f.data.toNat (if f.w64 == 1 then 4 else 2)
  | .afence f | .seal f | .unseal f => I.srcS2 f.sb.toNat ++ I.srcS2 f.sl.toNat
  | .mmas8 f | .mmas4 f | .mcvt f => if f.sel == 31 then [] else [I.srcV f.vs.toNat]
  | .msigxSt f | .msigxCmp f => I.srcS2 (f.vs.toNat % 32)
  | .cpy f | .fill f | .cpyt f => I.src64 f.ra.toNat ++ I.src64 f.rb.toNat ++ I.src64 f.rc.toNat ++ I.src64 f.rd.toNat
  | .cpy2 f | .cpyr f | .cpym f | .gthr f | .sctr f => I.src64 f.ra.toNat ++ I.src64 f.rc.toNat ++ I.src64 f.rd.toNat
  | .coll f => I.src64 f.ra.toNat ++ I.src64 f.rd.toNat
  | .carb f => I.src64 f.ra.toNat
  | .migr f => I.src64 f.ra.toNat ++ I.src64 f.rb.toNat ++ I.src64 f.rc.toNat
  | .hgsend f => I.src64 f.ra.toNat ++ I.src64 f.rb.toNat ++ I.src64 f.rc.toNat
  | .hgsig f => I.src64 f.ra.toNat ++ I.src64 f.rb.toNat
  | .hgwait f => I.src64 f.ra.toNat ++ I.src64 f.rb.toNat ++ I.src64 f.rc.toNat
  | .hgtake f => I.src64 f.ra.toNat ++ I.src64 f.rb.toNat ++ I.src64 f.rc.toNat
  | .hgqry f => I.src64 f.ra.toNat
  | .b f | .bc f => [I.srcC f.c.toNat]
  | .split f => [I.srcK f.k.toNat]
  | .jtab f => I.srcV f.va.toNat (f.ea == 1) :: I.srcS2 f.sb.toNat
  | .qpush f => I.srcS2 f.s.toNat
  | .waitb f => I.srcS2 f.s.toNat
  | .add f | .sub f | .mul f | .mulh f | .divu f | .remu f | .frontAnd f | .frontOr f | .frontXor f | .frontShl f | .frontShr f
  | .frontSar f | .min f | .max f | .fadds f | .fmuls f | .fdivs f | .atmx f => [I.srcX f.xa.toNat, I.srcX f.xb.toNat]
  | .ffmas f => [I.srcX f.xa.toNat, I.srcX f.xb.toNat, I.srcX f.xd.toNat]
  | .addi f | .frontAndi f | .frontOri f | .frontShli f | .frontShri f | .ldx f => [I.srcX f.xa.toNat]
  | .stx f => [I.srcX f.xa.toNat, I.srcX f.xd.toNat]
  | .lih f => [I.srcX f.xd.toNat]
  | .cmp f | .fcmps f => [I.srcX f.xa.toNat, I.srcX f.xb.toNat]
  | .cmpi f => [I.srcX f.xa.toNat]
  | .fcvts f | .jr f | .tmset f | .tmadv f | .dqpush f | .lsupd f | .nadd f | .nstat f => [I.srcX f.xa.toNat]
  | .nwdraw f => [I.srcX f.xa.toNat, I.srcX f.xb.toNat]
  | .mtsr f => match sysReg f.f10.toNat with
    | some R => I.srcWidth R.width f.ra.toNat
    | none => []
  | .pgmap f | .pgunmap f | .tlbinvPage f | .tlbinvGpage f | .tlbinvS2 f | .tlbinvS2all f | .spilla f | .filla f | .savel f
  | .loadl f => I.src64 f.ra.toNat
  | _ => []

/-! ## The wait set and the room of pairs (R29, 06_engines.md R112, R122) -/

/-- Full, excluded by its e bit, or left empty with a note that its reader takes (log 18). -/
def SrcSt.ready (x : SrcSt) : Bool := x.full || x.e || x.note.isSome

def srcsReady (I : Issuer) (c : Cls) (ws : List Word) : Bool :=
  ws.all fun w => match decode c w with
    | .instr i => (wordSrcs I i).all SrcSt.ready
    | .reject _ => true

/-- A slot of the quire, or the context, waits to push to a queue. -/
def pushingUnit (st : Strand) : Bool :=
  match st.wait with
  | .qpush _ _ => true
  | .token _ => true
  | .dqpush _ _ => true
  | _ => false

/-- The physical tile that a MAT word or SPILLA reads. -/
def readsTile (I : Issuer) (i : Instr) : Option Nat :=
  match i with
  | .spilla f => some f.a.toNat
  | .mmab f | .mmah f | .mmas8 f | .mmas4 f | .mcvt f | .mdrv f | .mdrs f | .msta f | .msig f => some (I.blk.abase + f.ad.toNat)
  | _ => none

/-- The tiles that a clause's words read are full (13_matrix.md R293, 16_traps.md R375). -/
def tilesReady (s : State) (I : Issuer) (c : Cls) (ws : List Word) : Bool :=
  !(c == .mat || c == .sys) || ws.all fun w => match decode c w with
    | .instr i => (readsTile I i).all fun p => !(s.coreOf I.blk.core).tileOwed p
    | .reject _ => true

def waitsHold (s : State) (I : Issuer) (c : Cls) (h : Word) (ws : List Word) : Bool :=
  let q := (s.coreOf I.blk.core).matQ
  (!h.getLsbD 16 || (srcsReady I c ws && tilesReady s I c ws)) &&
  (!h.getLsbD 17 || !s.ops.any fun e => sameUnit e.2.unit I.u && e.2.dest != .none && e.2.sr.isNone) &&
  (!h.getLsbD 18 || !s.engs.any fun e => sameUnit e.2.unit I.u) &&
  (!h.getLsbD 19 || !q.any fun m => m.b == I.b && (I.fe || m.q == I.q)) &&
  (!h.getLsbD 20 || I.fe || !(pushingUnit I.qr.s0.ctl || pushingUnit I.qr.s1.ctl)) &&
  (!h.getLsbD 21 || I.fe || I.qr.arrival.isNone)

/-- Commands of a clause to command queue q. -/
def clausePushes (c : Cls) (ws : List Word) (q : Nat) : Nat :=
  if c != .eng then 0
  else (ws.filter fun w => (opcodeOf w ≤ 0x08 || opcodeOf w == 0x0C) && bits w.toNat 20 4 == q).length

/-- Every pair that the clause pushes to has room for its commands. -/
def roomHolds (I : Issuer) (c : Cls) (ws : List Word) : Bool :=
  [8, 9, 10, 11].all fun q =>
    let n := clausePushes c ws q
    n == 0 || (Tab.get [] I.blk.pairs q).length + n ≤ 16

/-- A CWAIT or CPOLL of the issuer that has not popped holds back its clauses of these classes (R122). -/
def popHolds (I : Issuer) (c : Cls) : Bool :=
  c == .vec || c == .ctl || !I.blk.pops.any fun p => p.unit == I.u

/-- Whether a clause of the port's class could be selected now, YIELD apart. -/
def runnableAt (s : State) (c : Cls) (u : UnitId) : Bool :=
  match selection s u with
  | .clause I _ c' h ws => c' == c && waitsHold s I c h ws && roomHolds I c ws && popHolds I c
  | _ => false

/-! ## The choice at a port (R360, R341) -/

/-- The candidates of a core. -/
def coreUnits (s : State) (core : Nat) : List UnitId :=
  (s.blocks.filter fun e => e.2.core == core).flatMap fun e =>
    .front e.1 :: (s.quires.filter fun x => x.1 / 16 == e.1).flatMap fun x =>
      [.slot e.1 (x.1 % 16) 0, .slot e.1 (x.1 % 16) 1]

def unitYield (s : State) (u : UnitId) : Option (List (UnitId × Cls)) := (unitStrand s u).bind (·.yielded)

/-- The runnable candidates of a port, without the slots that YIELD excludes. -/
def portCandidates (s : State) (core : Nat) (c : Cls) : List UnitId :=
  let all := (coreUnits s core).filter (runnableAt s c)
  let others := all.filter fun u => (unitYield s u).isNone
  all.filter fun u => match unitYield s u with
    | none => true
    | some seen => others.all fun v => seen.contains (v, c)

def portAt (s : State) (core : Nat) (c : Cls) : PortState := Tab.get {} (s.coreOf core).ports (clsCode c)

/-- A wait that holds the port: TOKEN and DQPUSH stall in place while their queue is full (14_control.md R323, R324). -/
def Wait.holdsPort : Wait → Bool
  | .none => true
  | .token _ => true
  | .dqpush _ _ => true
  | _ => false

/-- A unit of the core issues the words of a clause of the port's class: it has some left and gives the port to none. -/
def midClause (s : State) (core : Nat) (c : Cls) (u : UnitId) : Bool :=
  match issuerOf s u 0 with
  | some I => I.blk.core == core && I.st.left != 0 && I.st.cls == c && I.st.wait.holdsPort && I.st.stop == .run
  | none => false

/-- A unit holds the port while it issues the words of a clause. -/
def portBusy (s : State) (core : Nat) (c : Cls) : Bool := (coreUnits s core).any (midClause s core c)

/-- The unit that issues a word is the last to have issued at its port. -/
def takePort (s : State) (I : Issuer) : State :=
  let p := portAt s I.blk.core I.st.cls
  if p.order.getLast? == some I.u then s
  else s.updCore I.blk.core fun C =>
    { C with ports := Tab.set C.ports (clsCode I.st.cls) { p with order := p.order.filter (· != I.u) ++ [I.u] } }

def unitPrio (s : State) (u : UnitId) : Nat :=
  match Tab.find s.blocks (unitBlock u) with
  | some B => B.node.prio
  | none => 0

/-- Position in the order of last issue at the port: 0 for a candidate that has not issued there. -/
def lastIssue (p : PortState) (u : UnitId) : Nat :=
  match p.order.findIdx? (· == u) with
  | some i => i + 1
  | none => 0

def passedCount (p : PortState) (u : UnitId) : Nat := ((p.passed.find? (·.1 == u)).map (·.2)).getD 0

/-- u may be taken for the least recently issued of a list. A candidate that has never issued at the port stands, until it
does, before or after those that had issued when it became runnable, and before those that have issued since (log 31). -/
def mayLead (p : PortState) (l : List UnitId) (u : UnitId) : Bool :=
  l.contains u && l.all fun v => v == u || lastIssue p u == 0 ||
    (if lastIssue p v == 0 then passedCount p v ≤ p.order.length - lastIssue p u else lastIssue p u < lastIssue p v)

/-- R360: candidates passed over 16 times, then priority, then the least recently issued; the FRONT port is
round-robin. -/
def portMay (s : State) (core : Nat) (c : Cls) (u : UnitId) : Bool :=
  let p := portAt s core c
  let cs := portCandidates s core c
  let old := cs.filter fun u => 16 ≤ passedCount p u
  if !old.isEmpty then mayLead p old u
  else if c == .front then mayLead p cs u
  else
    let top := cs.foldl (fun m u => max m (unitPrio s u)) 0
    mayLead p (cs.filter fun u => unitPrio s u == top) u

/-- The port's state after it has chosen u among cs. -/
def portAfter (p : PortState) (cs : List UnitId) (u : UnitId) : PortState :=
  { passed := (cs.filter (· != u)).map fun v => (v, passedCount p v + 1)
    order := p.order.filter (· != u) ++ [u] }

/-- Records that u has issued at a port for the slots that YIELD excludes on the core. -/
def noteIssue (s : State) (core : Nat) (c : Cls) (u : UnitId) : State :=
  (coreUnits s core).foldl (fun s v => match unitYield s v with
    | some seen => updStrand s v fun st => { st with yielded := some (seen ++ [(u, c)]) }
    | none => s) s

/-- A selected clause: its words issue next. -/
def enterClause (s : State) (I : Issuer) (c : Cls) (h : Word) (cs : List UnitId) : State :=
  let s := noteIssue s I.blk.core c I.u
  let s := if h.getLsbD 18 then joinEngines s I.aliasThreads fun _ n => (Tab.find s.engs n).isNone else s
  let s := s.updCore I.blk.core fun C =>
    { C with ports := Tab.set C.ports (clsCode c) (portAfter (Tab.get {} C.ports (clsCode c)) cs I.u) }
  updStrand s I.u fun st => { st with hdr := st.pc, pc := st.pc + 4, left := hdrN h, cls := c, yielded := none }

def accOwner (c : Core) : Trap :=
  { cause := .accOwner, info := BitVec.ofNat 64 (c.accOwn.toNat + c.accUsed.toNat <<< 32) }

/-- A unit of a withdrawn STOP node exits at a safe point (R355). -/
def stopExit (s : State) (I : Issuer) : State :=
  let s := s.updBlock I.b fun B => { B with ending := .stopped }
  if I.fe then s.updBlock I.b fun B => { B with q1 := [], front := { B.front with done := true } }
  else exitLanes s I.b I.q I.sl

/-- The unit has reached a safe point whose live-map entry is of the other kind of executor. -/
def kindClash (s : State) (I : Issuer) (h : Word) : State × Bool :=
  if !(hdrSp h && I.atU) then (s, false)
  else
    let r := ctxReadAt s I.blk.part I.blk.ctx .u (I.blk.node.live.toNat + 32 * hdrLive h) 32
    (toldOnce s r.1, match r.2.bind parseLive with
      | some e => (e.kind == 1) != I.fe
      | none => false)

/-- Such a clause is refused as an entry that breaks R46 is (02_instruction_words.md R46; log 85): the node ends
BAD_IMAGE, and the unit stops here. -/
def refuseKind (s : State) (I : Issuer) : State :=
  stopExit (updNode s I.blk.part I.blk.seq fun n => { n with owed := match n.owed with
    | none => some 8
    | o => o }) I

/-- CLAUSE_SELECT: the port of its next clause's class selects the unit that the subject names. It is due when that
unit meets a trap, a wait or a safe point at its next header, or when R360 chooses it. -/
def execClauseSelect (s : State) : Host.Outcome State Fault Refusal :=
  match selection s s.subject.unit with
  | .idle => .next s
  | .meets I a => a.finish s I
  | .stops I s1 live => .next (updStrand s1 I.u fun st => { st with stop := .safePoint live })
  | .exits I s1 => .next (stopExit s1 I)
  | .clause I s1 c h _ =>
    let k := kindClash s1 I h
    if k.2 then .next (refuseKind k.1 I)
    else if portBusy s I.blk.core c || !portMay s I.blk.core c I.u then .next s
    else
      let C := s.coreOf I.blk.core
      if c == .mat && C.accOwn != I.blk.ctx then .next (takeTrap k.1 I.u (accOwner C))
      else .next (enterClause k.1 I c h (portCandidates s I.blk.core c))

end Sys2Proof.Machine
end

