-- ==== Sys2Proof/Machine/Scheduler.lean ====
section
/-! DEFINITION. Launch queues, the acceptance of graphs, the ready pool, placing and retiring blocks, and the
front-end's node instructions (15_scheduling.md R344 to R357, 14_control.md R312, R320, 11_ternion.md R250 to R252,
09_registers.md R194, 07_local_memory.md R150, R151, 13_matrix.md R290). -/

namespace Sys2Proof.Machine

/-! ## Acceptance (R345, R346, R440) -/

def nodeBytes : Nat := 0x180

/-- Every package on which the partition has an entry has the feature enabled. -/
def partFeature (s : State) (part n : Nat) : Bool :=
  s.pkgs.all fun e : Nat × Pkg => (layoutOf s e.1 part).isNone || featureOn s e.1 n

/-- The partition's copy engines in partition-logical order: package and engine (01_machine.md R14). -/
def partCopyEngines (s : State) (part : Nat) : List (Nat × Nat) :=
  s.pkgs.flatMap fun e : Nat × Pkg =>
    match layoutOf s e.1 part with
    | some L => (bitList 32 L.copyEng.toNat).map fun n => (e.1, n)
    | none => []

def zeroFields (l : List Byte) (o n : Nat) : Bool := fld l o n == 0

/-- Reserved fields are zero and the fields lie in their ranges. -/
def nodeFieldsOk (l : List Byte) (n : NodeRec) : Bool :=
  let ext := fun g : Nat => 1 ≤ g && g ≤ 2097151
  ext n.gx && ext n.gy && ext n.gz && decide (n.total < 2 ^ 32) && 1 ≤ n.t && n.t ≤ 16 * n.w &&
    n.flags.toNat < 128 && n.prio < 8 && n.npred ≤ 8 && n.ntile ≤ 8 && 1 ≤ n.baseregs && n.baseregs ≤ 8 &&
    n.bitmap.toNat % 8 == 0 && (n.stattab == 0 || (1 ≤ n.statn && n.statn ≤ 4096)) && n.scratch ≤ 8 && n.acctiles ≤ 16 &&
    n.dsbase.toNat % 4096 == 0 && n.dscap ≤ 4095 && n.livecount ≤ 256 && n.queues.toNat < 64 &&
    zeroFields l 0x6F 1 && zeroFields l 0x7C 4 && zeroFields l 0x88 8 && zeroFields l 0x150 48

def predsOk (n : NodeRec) : Bool :=
  (n.preds.zipIdx.all fun p => if p.2 < n.npred then bits p.1.toNat 52 11 == 0 else p.1 == 0) &&
  n.tiles.zipIdx.all fun t =>
    if t.2 < n.ntile then bits t.1.1.toNat 52 10 == 0 && 1 ≤ t.1.2.toNat && t.1.2.toNat ≤ 2 ^ 40
    else t.1.1 == 0 && t.1.2 == 0

def rolesOk (n : NodeRec) : Bool :=
  n.roleq.zipIdx.all fun r => !n.queues.getLsbD r.2 || (r.1.1 < n.quires && r.1.2 < n.quires)

/-- A WRITE region overlaps a READ region of the record. -/
def tilesClash (n : NodeRec) : Bool :=
  let ts := n.tiles.take n.ntile
  let lo := fun t : DWord × DWord => t.1.toNat % 2 ^ 52
  (ts.filter fun t => t.1.getLsbD 63).any fun w => (ts.filter fun t => t.1.getLsbD 62).any fun r =>
    decide (lo w < lo r + r.2.toNat) && decide (lo r < lo w + w.2.toNat)

/-- The BAD_NODE checks; earlier are the addresses of the graph's earlier records. -/
def nodeOk (s : State) (part : Nat) (byH : Bool) (earlier : List Nat) (l : List Byte) (n : NodeRec) : Bool :=
  nodeFieldsOk l n && predsOk n && rolesOk n && (!n.ter || partFeature s part 1) && (!n.ext || partFeature s part 6) &&
    n.engq.all (fun e => e < (partCopyEngines s part).length) && (n.prio != 7 || byH) && !(n.idem && tilesClash n) &&
    (n.preds.take n.npred).all fun p =>
      earlier.contains (p.toNat % 2 ^ 52) ||
        (s.partOf part).past.any fun x => x.2.toNat == p.toNat % 2 ^ 52

/-- The image check: every live-map entry is readable and keeps R46. -/
def imageOk (s : State) (part : Nat) (ctx : Word) (n : NodeRec) : State × Bool :=
  match ctxReadAt s part ctx .u n.live.toNat (32 * n.livecount) with
  | (s', some l) => (s', (List.range n.livecount).all fun i => (parseLive ((l.drop (32 * i)).take 32)).isSome)
  | (s', none) => (s', false)

/-- What acceptance finds in one record: 0 good, 1 BAD_NODE, 2 BAD_IMAGE, 4 unreadable. -/
structure RecCheck where
  va : Nat
  code : Nat
  nrec : NodeRec
  deriving DecidableEq, Repr

def checkRecord (s : State) (part : Nat) (ctx : Word) (byH : Bool) (earlier : List Nat) (va : Nat) : State × RecCheck :=
  match ctxReadAt s part ctx .u va nodeBytes with
  | (s1, none) => (s1, { va := va, code := 4, nrec := {} })
  | (s1, some l) =>
    let n := parseNode l
    if !nodeOk s1 part byH earlier l n then (s1, { va := va, code := 1, nrec := n })
    else
      let r := imageOk s1 part ctx n
      (r.1, { va := va, code := if r.2 then 0 else 2, nrec := n })

def checkRecords (s : State) (part : Nat) (ctx : Word) (byH : Bool) (vas : List Nat) : State × List RecCheck :=
  vas.foldl (fun acc va =>
    let r := checkRecord acc.1 part ctx byH (acc.2.map fun c : RecCheck => c.va) va
    (r.1, acc.2 ++ [r.2])) (s, [])

/-- Writes a record's STATUS word. -/
def writeStatus (s : State) (part : Nat) (ctx : Word) (va v : Nat) : State := (ctxWriteAt s part ctx .u (va + 0x40) (leBytes 8 v)).1

/-- A refused graph: every record that can be written receives BAD_NODE, or BAD_IMAGE if its image failed. -/
def refuseGraph (s : State) (part : Nat) (ctx : Word) (cs : List RecCheck) : State :=
  cs.foldl (fun s c => writeStatus s part ctx c.va (if c.code == 2 then 8 else 7)) s

/-- The writes of acceptance for one record: SEQ, the bitmap, STATUS. -/
def acceptWrites (s : State) (part : Nat) (ctx : Word) (seq : Nat) (c : RecCheck) : State × Bool :=
  let w1 := ctxWriteAt s part ctx .u (c.va + 0x48) (leBytes 8 seq)
  let w2 := if w1.2 then ctxWriteAt w1.1 part ctx .u c.nrec.bitmap.toNat (List.replicate ((c.nrec.total + 7) / 8) 0) else w1
  if w2.2 then ctxWriteAt w2.1 part ctx .u (c.va + 0x40) (leBytes 8 0) else w2

/-- SRVEC stands only where the policy grants it and the feature is enabled. -/
def grantSrvec (s : State) (part : Nat) (n : NodeRec) : NodeRec :=
  let ok := partFeature s part 5 && s.pkgs.all fun e : Nat × Pkg => match layoutOf s e.1 part with
    | some L => L.policy.getLsbD 0
    | none => true
  if n.srvec && !ok then { n with flags := n.flags &&& ~~~0x20#16 } else n

/-! ## Room on a core (R350, R194) -/

/-- What a core's resident blocks hold. -/
def coreBlocks (s : State) (g : Nat) : List (Nat × Block) := s.blocks.filter fun e => e.2.core == g

def regNeed (n : NodeRec) : Nat := n.quires * (8 * n.baseregs) + (if n.ext then (n.quires + 1) / 2 * 64 else 0)

/-- The first start of len consecutive free places among n. -/
def firstRun (n len : Nat) (free : Nat → Bool) : Option Nat :=
  (List.range (n + 1 - len)).find? fun a => (List.range len).all fun i => free (a + i)

def freeSteps (bs : List (Nat × Block)) (len : Nat) : Option Nat :=
  if 8 < len then none
  else firstRun 8 len fun i => !bs.any fun e => decide (e.2.step0 ≤ i) && decide (i < e.2.step0 + e.2.node.scratch)

def freeTiles (bs : List Block) (len : Nat) : Option Nat :=
  if 16 < len then none
  else firstRun 16 len fun i => !bs.any fun e => decide (e.abase ≤ i) && decide (i < e.abase + e.node.acctiles)

/-- The blocks of a context that were switched out of a core: they hold their tiles there until they retire
(13_matrix.md R290, 16_traps.md R385). -/
def switchedOut (s : State) (part : Nat) (ctx : Word) (g : Nat) : List Block :=
  ((s.partOf part).saved.filter fun v => v.core == g && v.ctx == ctx && !v.moved).map (·.block)

/-- Step and tile bases for a block of the node beside the resident blocks bs, and beside blocks that are switched out
with their tiles, when everything it needs is free. -/
def roomBeside (bs : List (Nat × Block)) (out : List Block) (n : NodeRec) : Option (Nat × Nat) :=
  let used := (bs.map fun e => regNeed e.2.node).foldl (· + ·) 0
  let quires := (bs.map fun e => e.2.nq).foldl (· + ·) 0
  let maps := bs.foldl (fun m e => m ||| e.2.node.tmaps) (0#16)
  if 4 ≤ bs.length || 16 < quires + n.quires || 1536 < used + regNeed n || n.tmaps &&& maps != 0 then none
  else match freeSteps bs n.scratch, freeTiles (bs.map (·.2) ++ out) n.acctiles with
    | some a, some t => some (a, t)
    | _, _ => none

/-- The cores that admit a context, in partition-logical order (R381). -/
def admitCores (s : State) (part : Nat) (ctx : Word) : List Nat :=
  match (ctxRecord s part ctx).2 with
  | none => []
  | some R => (partCores s part).zipIdx.filterMap fun x =>
      if !R.limited || (R.first ≤ x.2 && x.2 ≤ R.last) then some x.1 else none

/-- A scrub holds back the launch of blocks on a core. -/
def coreScrubbed (s : State) (g : Nat) : Bool :=
  (s.pkgOf (g / 384)).scrubs.any fun w => match w with
    | .quad n => n == g % 384 / 4
    | .coreOf _ _ c => c == g
    | _ => false

/-- A context that a test names has work for the core (R361): a block that was switched out of it, or a node whose block
fits there after a switch. -/
def workFor (s : State) (part : Nat) (g : Nat) (f : Word → Bool) : Bool :=
  let P := s.partOf part
  P.saved.any (fun v => v.core == g && f v.ctx) ||
    P.nodes.any fun n => f n.2.ctx && inPool n.2 && !(n.2.redo.head?.any fun r => r.failed.has s g) &&
      (roomBeside [] (switchedOut s part n.2.ctx g) n.2.nrec).isSome && (admitCores s part n.2.ctx).contains g

/-- Another context of the partition has work for the core. -/
def otherWork (s : State) (part : Nat) (g : Nat) (ctx : Word) : Bool := workFor s part g (· != ctx)

/-- Another context with work for the core takes it before this one, whose slice has expired there: round-robin (R361). -/
def turnElsewhere (s : State) (part : Nat) (g : Nat) (ctx : Word) : Bool :=
  let ts := (s.coreOf g).turns
  ts.contains ctx && workFor s part g fun c => c != ctx && (!ts.contains c || decide (ts.idxOf c < ts.idxOf ctx))

/-- The core may take a block of the context now. -/
def coreOpen (s : State) (part : Nat) (ctx : Word) (g : Nat) : Bool :=
  let c := s.coreOf g
  (c.running.isNone || c.running == some (part, ctx)) && !coreScrubbed s g && !(s.pkgOf (g / 384)).stopped &&
    !quadLeaves (s.pkgOf (g / 384)) (g % 384 / 4) &&
    !(s.preempts.any fun p => p.2.part == part && p.2.ctx == ctx && p.2.cores.contains g) &&
    !turnElsewhere s part g ctx

/-- The lowest-numbered core with room that is not barred, with the block's bases. -/
def findRoom (s : State) (part : Nat) (ctx : Word) (n : NodeRec) (barred : Nat → Bool) : Option (Nat × Nat × Nat) :=
  (admitCores s part ctx).findSome? fun g =>
    if !coreOpen s part ctx g || barred g then none
    else (roomBeside (coreBlocks s g) (switchedOut s part ctx g) n).map fun r => (g, r.1, r.2)

/-- Cores that the node's blocks need at once, all cores empty: GANG places every block or none. -/
def fitsEver (s : State) (part : Nat) (ctx : Word) (n : NodeRec) : Bool :=
  let cores := (admitCores s part ctx).length
  let perCore := fun k : Nat =>
    let b : Block := { nq := n.quires, node := n }
    ((List.range k).foldl (fun (acc : Option (List (Nat × Block))) _ => acc.bind fun bs =>
      (roomBeside bs [] n).map fun r => bs ++ [(bs.length, { b with step0 := r.1, abase := r.2 })]) (some [])).isSome
  if !perCore 1 || cores == 0 then false
  else if !n.gang then true
  else
    let each := ((List.range 4).filter fun k => perCore (k + 1)).length
    n.total ≤ cores * each

/-- Adds an accepted node with a sequence number to the pool. Each of its edges is to the node that the pool holds now
under the predecessor's address (R347). -/
def addNode (s : State) (part : Nat) (ctx : Word) (seq : Nat) (c : RecCheck) (cap : Nat) : State :=
  let n := grantSrvec s part c.nrec
  let N : Node := { va := BitVec.ofNat 64 c.va, ctx := ctx, nrec := n, prio := min n.prio cap
                    owed := if fitsEver s part ctx n then none else some 10
                    from_ := (n.preds.take n.npred).map fun p => (predAt s part ctx (p.toNat % 2 ^ 52)).map (·.1) }
  s.updPart part fun P =>
    { P with
      nodes := Tab.set P.nodes seq N
      nextSeq := max P.nextSeq (seq + 1)
      past := if P.past.contains (ctx, N.va) then P.past else P.past ++ [(ctx, N.va)] }

/-- Accepts a graph whole or refuses it whole; the code is that of NADD (R356). -/
def acceptGraph (s : State) (part : Nat) (ctx : Word) (byH : Bool) (cap : Nat) (vas : List Nat) : State × Nat :=
  if 65536 < poolSize s part + vas.length then (s, 3)
  else
    let r := checkRecords s part ctx byH vas
    let bad := fun code : Nat => r.2.any fun c => c.code == code
    if bad 4 then (refuseGraph r.1 part ctx (r.2.map fun c => { c with code := 4 }), 4)
    else if bad 1 || bad 2 then (refuseGraph r.1 part ctx r.2, if bad 1 then 1 else 2)
    else
      let first := (r.1.partOf part).nextSeq
      let w := r.2.zipIdx.foldl (fun (acc : State × Bool) c =>
        if acc.2 then acceptWrites acc.1 part ctx (first + c.2) c.1 else acc) (r.1, true)
      if !w.2 then (refuseGraph w.1 part ctx r.2, 4)
      else
        let s := r.2.zipIdx.foldl (fun s c => addNode s part ctx (first + c.2) c.1 cap) w.1
        (settleNodes s part, 0)

/-! ## Launch queues (R344) -/

def updQueue (s : State) (part n : Nat) (f : LaunchQ → LaunchQ) : State :=
  s.updPart part fun P => { P with queues := Tab.set P.queues n (f (Tab.get {} P.queues n)) }

/-- LAUNCH_QUEUE_TAIL: val, written by the host to TAIL of queue idx of the subject's partition, arrives over the host
link of its package, through a virtual function that H has bound to the partition, or (flag) the physical function
(05_fabric.md R108, R110). -/
def execLaunchQueueTail (s : State) : Host.Outcome State Fault Refusal :=
  let j := s.subject
  let p := s.pkgOf j.pkg
  if (layoutOf s j.pkg j.part).isNone || 16 ≤ j.idx || !p.linkUp || !(j.flag || p.bound j.part) then .next s
  else .next (updQueue s j.part j.idx fun q => tailWrite q (j.val.setWidth 32) j.flag)

/-- The level of the write that made the entry at HEAD available. -/
def entryByH (q : LaunchQ) : Bool :=
  match q.levels.find? fun l => (q.head - l.1).toNat ≥ 2 ^ 31 with
  | some l => l.2
  | none => false

/-- The queue past its entry. -/
def consumeEntry (q : LaunchQ) (err : Bool) : LaunchQ :=
  { q with head := q.head + 1, err := q.err || err, levels := q.levels.filter fun l => l.1 != q.head + 1 }

/-- GRAPH_ACCEPT: the entry at HEAD of queue idx of the subject's partition is consumed. It is due while the queue is
enabled and holds an entry, and the pool has room for its graph. -/
def execGraphAccept (s : State) : Host.Outcome State Fault Refusal :=
  let part := s.subject.part
  let q := Tab.get {} (s.partOf part).queues s.subject.idx
  if !q.en || q.head == q.tail then .next s
  else
    match ctxReadAt s part q.ctx .u (q.base.toNat + 16 * (q.head.toNat % max 1 q.size.toNat)) 16 with
    | (s1, none) => .next (updQueue s1 part s.subject.idx fun q => consumeEntry q true)
    | (s1, some l) =>
      let va := fld l 0 8
      let count := fld l 8 4
      if va % 64 != 0 || va >>> 52 != 0 || count == 0 || 4096 < count || fld l 12 4 != 0 then
        .next (updQueue s1 part s.subject.idx fun q => consumeEntry q true)
      else
        let r := acceptGraph s1 part q.ctx (entryByH q) 7 ((List.range count).map fun i => va + nodeBytes * i)
        if r.2 == 3 then .next s
        else .next (updQueue r.1 part s.subject.idx fun q => consumeEntry q (r.2 == 4))

/-! ## Rank and placement (R348 to R351) -/

/-- Effective priority: a millisecond is 100,000 reference ticks. -/
def effPrio (s : State) (n : Node) : Nat :=
  if n.prio == 7 then 7 else max n.prio (min 6 (n.prio + (s.now - n.entered) / 100000))

/-- Rank: the better of two nodes first. -/
def ranksAbove (s : State) (a b : Nat × Node) : Bool :=
  decide (effPrio s b.2 < effPrio s a.2) || (effPrio s a.2 == effPrio s b.2 && decide (a.1 < b.1))

def insertRanked (s : State) (x : Nat × Node) : List (Nat × Node) → List (Nat × Node)
  | [] => [x]
  | y :: t => if ranksAbove s x y then x :: y :: t else y :: insertRanked s x t

/-- The pool in rank order. -/
def ranked (s : State) (part : Nat) : List (Nat × Node) :=
  ((s.partOf part).nodes.filter fun n => inPool n.2).foldr (insertRanked s) []

/-- Cores that a reserving node ranked above keeps clear: it would fit there once the resident blocks have retired, beside
what was switched out with its tiles (R349). -/
def reservedCores (s : State) (part : Nat) (above : List (Nat × Node)) (g : Nat) : Bool :=
  above.any fun n => n.2.reserving && (roomBeside [] (switchedOut s part n.2.ctx g) n.2.nrec).isSome &&
    (admitCores s part n.2.ctx).contains g

/-- The lanes of quire q of a block that its launch makes live (01_machine.md R22). -/
def launchMask (n : NodeRec) (q : Nat) : Mask :=
  maskOfThreads n.ter ((List.range n.w).filter fun i => q * n.w + i < n.t)

/-- Grid position of a block index, x fastest (01_machine.md R20). -/
def gridWord (n : NodeRec) (idx : Nat) : DWord :=
  BitVec.ofNat 64 (idx % n.gx + (idx / n.gx % n.gy) <<< 21 + (idx / (n.gx * n.gy)) <<< 42)

/-- DSTACK of quire q of block idx (R346). -/
def stackWord (n : NodeRec) (idx q : Nat) : DWord :=
  let size := (32 * n.dscap + 4095) / 4096 * 4096
  let base := n.dsbase.toNat + (idx * n.quires + q) * size
  BitVec.ofNat 64 (n.dscap + bits base 12 40 <<< 12)

/-- A quire as its launch leaves it (14_control.md R312). -/
def launchQuire (n : NodeRec) (idx q : Nat) : Quire :=
  let m := launchMask n q
  let reg := fun v : Word => ({ val := v } : Reg Word)
  { s0 := { ctl := { pc := n.text + BitVec.ofNat 64 n.quireent }, mask := m }
    live := m
    ter := n.ter
    dstack := stackWord n idx q
    s := [(0, reg (n.args.setWidth 32)), (1, reg (n.args.extractLsb' 32 32)), (2, reg (BitVec.ofNat 32 idx)), (3, reg (BitVec.ofNat 32 q))] }

/-- The front-end context as its launch leaves it (14_control.md R312). -/
def launchFront (n : NodeRec) (idx : Nat) : Front :=
  { ctl := { pc := n.text + BitVec.ofNat 64 n.frontent }
    x := [(1, { val := BitVec.ofNat 64 idx }), (2, { val := gridWord n idx }), (3, { val := n.args })] }

/-- The allocation's steps: a step keeps the bytes that the same context left there unless the L1 has used it since,
which no program can tell (07_local_memory.md R151); every other step is zero. -/
def takeSteps (s : State) (g part : Nat) (ctx : Word) (b step0 n : Nat) : State :=
  (List.range n).foldl (fun s i =>
    let k := step0 + i
    let mine := (Tab.get {} (s.coreOf g).steps k).user == some (part, ctx)
    let d := drawBool s
    let s := if mine then d.2 else s
    s.updCore g fun c =>
      { c with
        steps := Tab.set c.steps k { block := some b, user := some (part, ctx) }
        sram := if mine && !d.1 then c.sram else Memory.zeroRange c.sram (k * 65536) 65536
        badSram := if mine && !d.1 then c.badSram else c.badSram.filter fun w => !(decide (k * 16384 ≤ w) && decide (w < (k + 1) * 16384)) }) s

/-- The block's tiles read +0 with ACNT 0 (13_matrix.md R290): in the store when its context owns it, else in the
context's accumulator image. -/
def takeTiles (s : State) (g part : Nat) (ctx : Word) (abase n : Nat) : State :=
  if (s.coreOf g).accOwn == ctx then s.updCore g fun c => c.clearTiles abase n
  else match ctxRecord s part ctx with
    | (s, none) => s
    | (s, some R) => (List.range n).foldl (fun s i =>
        (ctxWriteAt s part ctx .h (R.accarea + 0x10000 * logicalCore s part g + 0x1000 * (abase + i)) [0]).1) s

/-- Takes a core's resources for a block and makes it resident. -/
def residentBlock (s : State) (b : Nat) (B : Block) (qs : List Quire) : State :=
  let s := takeSteps s B.core B.part B.ctx b B.step0 B.node.scratch
  let s := s.updCore B.core fun c =>
    { c with
      running := some (B.part, B.ctx)
      slice := if c.running.isSome then c.slice else 0
      turns := if c.running.isSome then c.turns else c.turns.filter (· != B.ctx) }
  let s := journalPut s B
  { s with
    blocks := Tab.set s.blocks b B
    quires := qs.zipIdx.foldl (fun t q => Tab.set t (quireKey b q.2) q.1) s.quires }

/-- Places block idx of a node on core g. -/
def placeBlock (s : State) (part seq : Nat) (N : Node) (idx attempt g step0 abase : Nat) : State :=
  let b := s.nextId
  let B : Block :=
    { part := part, ctx := N.ctx, pkg := g / 384, core := g, seq := seq, nodeVa := N.va, idx := idx, nq := N.nrec.quires
      node := N.nrec, seed := N.nrec.seed, step0 := step0, abase := abase, attempt := attempt, front := launchFront N.nrec idx }
  let s := takeTiles { s with nextId := b + 1 } g part N.ctx abase N.nrec.acctiles
  residentBlock s b B ((List.range N.nrec.quires).map (launchQuire N.nrec idx))

/-- The node's next block: one to dispatch again first, then the next index. -/
def nextBlock (N : Node) : Nat × Nat × Option FailedUnit :=
  match N.redo with
  | r :: _ => (r.idx, r.attempt, some r.failed)
  | [] => (N.next, 1, none)

/-- The node after its next block has been placed. -/
def afterPlace (N : Node) : Node :=
  { N with
    state := 2
    running := N.running + 1
    next := if N.redo.isEmpty then N.next + 1 else N.next
    redo := N.redo.drop 1
    passedAt := none
    reserving := false }

/-- Places the next block of a node, or none when no core has room. -/
def placeNext (s : State) (part seq : Nat) (barred : Nat → Bool) : Option State :=
  (nodeOf s part seq).bind fun N =>
    let k := nextBlock N
    (findRoom s part N.ctx N.nrec fun g => barred g || k.2.2.any (·.has s g)).map fun r =>
      let s := placeBlock s part seq N k.1 k.2.1 r.1 r.2.1 r.2.2
      updNode s part seq afterPlace

/-- A GANG node's blocks are placed all or none; another node's next block is placed. -/
def placeNode (s : State) (part : Nat) (n : Nat × Node) (barred : Nat → Bool) : Option State :=
  if n.2.nrec.gang && n.2.redo.isEmpty then
    (List.range (n.2.nrec.total - n.2.next)).foldl (fun (acc : Option State) _ => acc.bind fun s => placeNext s part n.1 barred) (some s)
  else placeNext s part n.1 barred

/-- The first node in rank order that can be placed, with those above it that cannot. -/
def dispatchFirst (s : State) (part : Nat) : List (Nat × Node) → List (Nat × Node) → Option (State × Nat) × List Nat
  | [], above => (none, above.map (·.1))
  | n :: t, above =>
    match placeNode s part n (reservedCores s part above) with
    | some s' => (some (s', n.1), above.map (·.1))
    | none => dispatchFirst s part t (above ++ [n])

/-- A node that fits nowhere at a dispatch opportunity is passed over from then on. -/
def markPassed (s : State) (part : Nat) (seqs : List Nat) : State :=
  seqs.foldl (fun s q => updNode s part q fun n => if n.passedAt.isSome then n else { n with passedAt := some s.now }) s

/-- The context records of the nodes in the pool are read for a dispatch opportunity (16_traps.md R381). -/
def readRecords (s : State) (part : Nat) : State :=
  ((ranked s part).map fun n => n.2.ctx).eraseDups.foldl (fun s ctx => (ctxRecord s part ctx).1) s

/-- BLOCK_DISPATCH: a dispatch opportunity of the subject's partition. It is due when a block can be placed, or a node
is newly passed over, and waits while a context's record cannot be read yet. -/
def execBlockDispatch (s : State) : Host.Outcome State Fault Refusal :=
  let part := s.subject.part
  let t := readRecords s part
  let r := dispatchFirst t part (ranked t part) []
  if t.barred != s.barred then .next t
  else match r.1 with
    | some (s', seq) => .next (settleNodes (putStatus (markPassed s' part r.2) part seq) part)
    | none =>
      if r.2.any fun q => (nodeOf t part q).any fun n => n.passedAt.isNone then .next (markPassed t part r.2)
      else .next s

/-- NODE_RESERVE: node idx of the subject's partition has been passed over for 1 reference ms (R349). -/
def execNodeReserve (s : State) : Host.Outcome State Fault Refusal :=
  match nodeOf s s.subject.part s.subject.idx with
  | none => .next s
  | some n =>
    match n.passedAt with
    | none => .next s
    | some t =>
      if !inPool n || n.reserving || s.now < t + 100000 then .next s
      else .next (updNode s s.subject.part s.subject.idx fun n => { n with reserving := true })

/-! ## Retiring a block (14_control.md R320, R252, R352) -/

/-- A no-return atomic of a context at level U, as an access of no thread: whether it was performed. One that is not
aligned to its width, or whose target does not answer, is not (07_local_memory.md R168, R106, R109). -/
def ctxAtomic (s : State) (part : Nat) (ctx : Word) (va : Nat) (w64 : Bool) (op : Nat) (v : DWord) : State × Bool :=
  let n := if w64 then 8 else 4
  let pkg := homePkg s part
  let lane : LaneOp := { key := 0, off := va % 64, act := .amo { kind := .atom, op := op, w64 := w64, v := v, ret := true } }
  if va % n != 0 then (s, false)
  else match ctxGpa s part ctx .u va true with
  | (s', none) => (s', false)
  | (s', some g) =>
    match locate s' pkg part g true with
    | none => (noThread s' part g, false)
    | some (.host ha) =>
      let there := hostAddr s' pkg part ha true
      if !(s'.pkgOf pkg).linkUp || LaneOp.hostRefused lane.act then (s', false)
      else if atsMiss s' pkg part ha then (s'.bar pkg part (some (g, ha)), false)
      else
        let t := (performHost s' (there / 64 * 64) [lane]).1
        (noteStored t part g .dev none (Memory.readBytes t.hostMem there n), true)
    | some (.dev d) =>
      if remoteLost s' pkg (d >>> 44) then (s', false)
      else if lineBarred s' pkg part g d true then (s'.bar pkg part none, false)
      else
        let r := performAt s' (d >>> 44) part (g / 64) (d / 64) ctx .u none [lane]
        let t := trip r.1 pkg d {}
        if r.2.errs.isEmpty then (noteStored t part g .dev none (Memory.readBytes t.mem d n), true) else (t, false)

/-- The statistics adds of a block: the counts that a failure drops are lost. -/
def addStats (s : State) (B : Block) : State × Bool :=
  if B.node.stattab == 0 then (s, true)
  else B.stats.foldl (fun acc t =>
    let ent := B.node.stattab.toNat + 64 * (if t.1 < B.node.statn then t.1 else 0)
    t.2.zipIdx.foldl (fun (acc : State × Bool) c =>
      if c.1 == 0 || !acc.2 then acc else ctxAtomic acc.1 B.part B.ctx (ent + 8 * c.2) true 0 (BitVec.ofNat 64 c.1)) acc) (s, true)

/-- Every lane, the front-end, engine operation and access of the block has finished. -/
def blockDone (s : State) (b : Nat) (B : Block) : Bool :=
  B.front.done && (s.quires.all fun e => e.1 / 16 != b || (e.2.live == 0 && !e.2.s0.popTrap && !e.2.s1.popTrap)) &&
    !(s.engs.any fun e => e.2.b == b) && !(s.ops.any fun e => unitBlock e.2.unit == b) &&
    !(s.coreOf B.core).matQ.any fun m => m.b == b

/-- The 4-byte word and bit of a block's completion bit (R352). -/
def setBit (s : State) (B : Block) : State × Bool :=
  let a := B.node.bitmap.toNat + B.idx / 8
  ctxAtomic s B.part B.ctx (a / 4 * 4) false 2 (1#64 <<< (8 * (a % 4) + B.idx % 8))

/-- BLOCK_RETIRE: the subject's block idx has finished. -/
def execBlockRetire (s : State) : Host.Outcome State Fault Refusal :=
  let b := s.subject.idx
  match Tab.find s.blocks b with
  | none => .next s
  | some B =>
    if !blockDone s b B then .next s
    else
      let st := addStats s B
      let s := if st.2 then st.1 else updNode st.1 B.part B.seq fun n => { n with statsLost := true }
      let bit := if B.ending == .stopped then (s, true) else setBit s B
      let s := match B.saveSlot with
        | some i => saveBit bit.1 B.part B.ctx i.base i.idx false
        | none => bit.1
      let s := journalRetire (dropBlock s b true) B
      let s := updNode s B.part B.seq fun n =>
        let n := { n with running := n.running - 1 }
        if !bit.2 then { n with failed := B.idx :: n.failed, owed := match n.owed with
          | none => some 5
          | o => o }
        else
          { n with
            retired := n.retired + 1
            bits := if B.ending == .stopped then n.bits else B.idx :: n.bits
            failed := if B.ending == .stopped then B.idx :: n.failed else n.failed }
      .next (settleNodes s B.part)

/-! ## NADD, NWDRAW and NSTAT (R354 to R357) -/

/-- The priority that the issuer's node has in the pool: NADD writes a greater one down to it (R356; log 106). -/
def poolPrio (s : State) (I : Issuer) : Nat :=
  match nodeOf s I.blk.part I.blk.seq with
  | some n => n.prio
  | none => I.blk.node.prio

def execNadd (f : XR) (s : State) : Host.Outcome State Fault Refusal :=
  onFront (.nadd f) s fun I => withSrcs I [I.srcX f.xa.toNat] [I.srcX f.xd.toNat] fun _ =>
    let va := (I.xreg f.xa.toNat).val.toNat
    if va % 64 != 0 || va >>> 52 != 0 then I.bad .illegalOperand
    else if !(outstanding s I.u I.mask).isEmpty then .stall
    else
      let r := acceptGraph s I.blk.part I.blk.ctx (I.st.level == .h) (poolPrio s I) [va]
      .done (writeX r.1 I f.xd.toNat (BitVec.ofNat 64 r.2))

/-- A node that NWDRAW may withdraw: PENDING, READY or RUNNING. -/
def withdrawable (n : Node) : Bool := decide (n.state < 3) && !n.withdrawn

/-- Nodes of the context that have an edge from one of the given nodes. -/
def followers (s : State) (part : Nat) (ctx : Word) (seqs : List Nat) : List Nat :=
  ((s.partOf part).nodes.filter fun n => n.2.ctx == ctx && withdrawable n.2 && n.2.from_.any fun p => p.any (seqs.contains ·)).map (·.1)

def withdrawNode (s : State) (part seq : Nat) : State :=
  updNode s part seq fun n => { n with withdrawn := true, redo := [] }

/-- Withdraws nodes and, through any chain, their successors of the context. -/
def withdrawAll (s : State) (part : Nat) (ctx : Word) : Nat → List Nat → State
  | 0, _ => s
  | f + 1, seqs =>
    if seqs.isEmpty then s
    else
      let s := seqs.foldl (fun s q => withdrawNode s part q) s
      withdrawAll s part ctx f (followers s part ctx seqs)

def withdrawnCount (s : State) (part : Nat) : Nat := ((s.partOf part).nodes.filter fun n => n.2.withdrawn).length

def execNwdraw (f : XR) (s : State) : Host.Outcome State Fault Refusal :=
  onFront (.nwdraw f) s fun I => withSrcs I [I.srcX f.xa.toNat, I.srcX f.xb.toNat] [I.srcX f.xd.toNat] fun _ =>
    let part := I.blk.part
    let hit := ((s.partOf part).nodes.filter fun n => n.2.ctx == I.blk.ctx && withdrawable n.2 &&
      (n.2.nrec.tag ^^^ (I.xreg f.xa.toNat).val) &&& (I.xreg f.xb.toNat).val == 0).map (·.1)
    let s' := withdrawAll s part I.blk.ctx ((s.partOf part).nodes.length + 1) hit
    let n := withdrawnCount s' part - withdrawnCount s part
    .done (writeX (settleNodes s' part) I f.xd.toNat (BitVec.ofNat 64 n))

def execNstat (f : XR) (s : State) : Host.Outcome State Fault Refusal :=
  onFront (.nstat f) s fun I => withSrcs I [I.srcX f.xa.toNat] [I.srcX f.xd.toNat] fun _ =>
    let va := (I.xreg f.xa.toNat).val.toNat
    match nodeAt s I.blk.part I.blk.ctx va with
    | some n => .done (writeX s I f.xd.toNat (BitVec.ofNat 64 (statusWord n.2)))
    | none => frontAccess s I false (va + 0x40) (.rd 8) (.xreg f.xd.toNat true (I.xbank f.xd.toNat)) 0
        (fun s => emptyX s I f.xd.toNat)

end Sys2Proof.Machine
end

