-- ==== Sys2Proof/Machine/Engines.lean ====
section
/-! DEFINITION. Engine operations: the commands of the ENG class and their issue checks, how an engine reaches memory,
the copies, gathers, rotations and multicasts, the completion records and their pops, and MIGR (06_engines.md R111 to
R134, R141, 04_translation.md R91). -/

namespace Sys2Proof.Machine

/-! ## Issue (R112, R113, R115, R125) -/

/-- A tag with CW set names a completion word: bits 62 to 52 and 2 to 0 are zero. -/
def tagOk (t : DWord) : Bool := !t.getLsbD 63 || (bits t.toNat 52 11 == 0 && bits t.toNat 0 3 == 0)

/-- A class that a data command may name: bulk or latency. -/
def clsOk (n : Nat) : Bool := n == 0 || n == 2

def addrOk (a : DWord) : Bool := bits a.toNat 52 12 == 0

def descOk (a : DWord) : Bool := addrOk a && a.toNat % 64 == 0

/-- The package and engine that a command queue of the block names (R111). -/
def copyEngineOf (s : State) (B : Block) (q : Nat) : Nat × Nat :=
  (partCopyEngines s B.part).getD (B.node.engq.getD (q - 8) 0) (B.pkg, 0)

/-- Forks an operation and counts it against its pair. -/
def forkEngine (s : State) (I : Issuer) (q opc : Nat) (ra rb rc tag map : DWord) : State :=
  let id := s.nextId
  let e := copyEngineOf s I.blk q
  let op : EngOp :=
    { id := id, unit := I.u, b := I.b, part := I.blk.part, ctx := I.blk.ctx, level := I.st.level, pkg := e.1, eng := e.2
      q := q, opc := opc
      ra := ra, rb := rb, rc := rc, tag := tag, map := map }
  let s := { s with nextId := id + 1, engs := Tab.set s.engs id op }
  s.updBlock I.b fun B => { B with pairs := Tab.set B.pairs q (Tab.get [] B.pairs q ++ [{ op := id }]) }

/-- A command with operands in the named fields: its queue, registers, sources, operand checks and room; then the fork. -/
def engFrame (i : Instr) (f : EE) (s : State) (opc : Nat) (regs : List (BitVec 5)) (hOnly : Bool)
    (ok : Issuer → Bool) (cmd : Issuer → DWord × DWord × DWord × DWord × DWord) : Host.Outcome State Fault Refusal :=
  onUnit i s fun I =>
    let q := f.q.toNat
    if hOnly && I.atU then I.bad .illegalOp
    else if q < 8 || 11 < q || !regs.all (fun r => I.pairOk r.toNat) then I.bad .illegalOperand
    else withSrcs I (regs.flatMap fun r => I.src64 r.toNat) [] fun _ =>
      let c := cmd I
      if !(ok I && tagOk c.2.2.2.1) then I.bad .illegalOperand
      else if 16 ≤ (Tab.get [] I.blk.pairs q).length then .stall
      else .done (forkEngine s I q opc c.1 c.2.1 c.2.2.1 c.2.2.2.1 c.2.2.2.2)

/-- Operands of a command in ra, rb, rc and rd. -/
def engOps (I : Issuer) (f : EE) : DWord × DWord × DWord × DWord × DWord :=
  (I.r64 f.ra.toNat, I.r64 f.rb.toNat, I.r64 f.rc.toNat, I.r64 f.rd.toNat, 0)

/-- rc of CPY: length and class. -/
def execCpy (f : EE) (s : State) : Host.Outcome State Fault Refusal :=
  engFrame (.cpy f) f s 0 [f.ra, f.rb, f.rc, f.rd] false
    (fun I =>
      let c := (engOps I f).2.2.1.toNat
      addrOk (engOps I f).1 && addrOk (engOps I f).2.1 && clsOk (bits c 40 2) && bits c 42 22 == 0)
    fun I => engOps I f

/-- FILL's pattern width in bytes (R126). -/
def fillWidth (rc : DWord) : Nat := 2 ^ bits rc.toNat 42 2

def execFill (f : EE) (s : State) : Host.Outcome State Fault Refusal :=
  engFrame (.fill f) f s 7 [f.ra, f.rb, f.rc, f.rd] false
    (fun I =>
      let o := engOps I f
      let c := o.2.2.1.toNat
      let w := fillWidth o.2.2.1
      addrOk o.1 && clsOk (bits c 40 2) && bits c 44 20 == 0 && o.1.toNat % w == 0 && bits c 0 40 % w == 0 &&
        o.2.1.toNat < 2 ^ (8 * w))
    fun I => engOps I f

/-- The commands with a descriptor in ra, a class in rc and a tag in rd. -/
def descCommand (i : Instr) (f : EE) (s : State) (opc : Nat) : Host.Outcome State Fault Refusal :=
  engFrame i f s opc [f.ra, f.rc, f.rd] false
    (fun I => descOk (I.r64 f.ra.toNat) && clsOk (I.r64 f.rc.toNat).toNat)
    fun I => (I.r64 f.ra.toNat, 0, I.r64 f.rc.toNat, I.r64 f.rd.toNat, 0)

def execCpy2 (f : EE) (s : State) := descCommand (.cpy2 f) f s 1
def execCpyr (f : EE) (s : State) := descCommand (.cpyr f) f s 3
def execCpym (f : EE) (s : State) := descCommand (.cpym f) f s 4
def execGthr (f : EE) (s : State) := descCommand (.gthr f) f s 5
def execSctr (f : EE) (s : State) := descCommand (.sctr f) f s 6

/-- The tile map that CPYT's shape names, as it stands at issue (R130). -/
def cpytMap (s : State) (I : Issuer) (rb : DWord) : DWord := Tab.get 0 (s.coreOf I.blk.core).t (bits rb.toNat 32 4)

def cpytOk (B : Block) (m : DWord) (rb : Nat) : Bool :=
  let tr := bits rb 36 2
  bits rb 38 26 == 0 && tr != 3 && (tr == 0 || tmNibbles m != 1) && (tr != 1 || tmFmt m == 3) &&
    (tr != 2 || tmFmt m == 0 || tmFmt m == 1) && mapFormed m B.scratchLen 1

def execCpyt (f : EE) (s : State) : Host.Outcome State Fault Refusal :=
  engFrame (.cpyt f) f s 2 [f.ra, f.rb, f.rc, f.rd] false
    (fun I =>
      let o := engOps I f
      addrOk o.1 && clsOk o.2.2.1.toNat && cpytOk I.blk (cpytMap s I o.2.1) o.2.1.toNat)
    fun I =>
      let o := engOps I f
      (o.1, o.2.1, o.2.2.1, o.2.2.2.1, cpytMap s I o.2.1)

def execColl (f : EE) (s : State) : Host.Outcome State Fault Refusal :=
  engFrame (.coll f) f s 8 [f.ra, f.rd] false (fun I => descOk (I.r64 f.ra.toNat))
    fun I => (I.r64 f.ra.toNat, 0, 0, I.r64 f.rd.toNat, 0)

def execMigr (f : EE) (s : State) : Host.Outcome State Fault Refusal :=
  engFrame (.migr f) f s 12 [f.ra, f.rb, f.rc] true
    (fun I =>
      let a := I.r64 f.ra.toNat
      let b := I.r64 f.rb.toNat
      addrOk a && addrOk b && a.toNat % 65536 == 0 && b.toNat % 65536 == 0)
    fun I => (I.r64 f.ra.toNat, I.r64 f.rb.toNat, 0, I.r64 f.rc.toNat, 0)

/-- CARB (R141): the partition's weights; arbitration itself is timing. -/
def execCarb (f : EE) (s : State) : Host.Outcome State Fault Refusal :=
  onUnit (.carb f) s fun I =>
    if I.atU then I.bad .illegalOp
    else if f.q != 0 || !I.pairOk f.ra.toNat then I.bad .illegalOperand
    else withSrcs I (I.src64 f.ra.toNat) [] fun _ =>
      let v := I.r64 f.ra.toNat
      if 65536 ≤ v.toNat then I.bad .illegalOperand
      else .done (s.updPart I.blk.part fun P => { P with carb := v.setWidth 16 })

/-! ## How an engine reaches memory (R117, R129) -/

/-- What an access of an operation meets. -/
inductive EngStop where
  /-- the command ends with this cause, reason and address -/
  | fault (cause reason addr : Nat)
  /-- the second stage fails: the access is held for H (R78) -/
  | held (gpa addr : Nat) (write : Bool)
  /-- the second stage fails under the walk of the access, at this level (04_translation.md R79) -/
  | walk (gpa level addr : Nat) (write : Bool)
  /-- the host address must first be translated (R85) -/
  | ats (ha gpa : Nat)
  /-- it waits: for a MIGR of its page (R91), for its bank or its port (05_fabric.md R98, R156) -/
  | blocked
  deriving DecidableEq, Repr

inductive EngR (α : Type) where
  | ok (s : State) (a : α)
  | no (s : State) (x : EngStop)

def EngR.andThen {α β : Type} (r : EngR α) (k : State → α → EngR β) : EngR β :=
  match r with
  | .ok s a => k s a
  | .no s x => .no s x

/-- The die of an engine: collective engines stand one to a die, copy engines four (R442). -/
def EngOp.die (e : EngOp) : Nat := if e.onColl then e.eng else e.eng / 4

/-- The engine as a translating agent, with its own TLB (04_translation.md R74). -/
def EngOp.who (e : EngOp) : Who where
  pkg := e.pkg
  part := e.part
  ctx := e.ctx
  lvl := e.level
  eng := some (if e.onColl then 32 + e.eng else e.eng)

/-- The fault of a register window that refuses (03_memory.md R439). -/
def windowStop (k : NoteKind) (va : Nat) : EngStop := .fault (if k == .align then 14 else 2) 0 va

/-- Translates one piece within a line: its guest-physical address, and whether its page is counted. -/
def engXlate (s : State) (e : EngOp) (va : Nat) (write : Bool) : EngR (Nat × Bool) :=
  match translate s e.who va write with
  | (s', .ok g _ cnt) => if write && isSealed s' e.part g then .no s' (.fault 2 0 va) else .ok s' (g, cnt)
  | (_, .fault c r _) => .no s (.fault (if c == .protection then 2 else 1) r va)
  | (_, .mem _ _) => .no s (.fault 4 0 va)
  | (_, .win _ k) => .no s (windowStop k va)
  | (_, .held g l) => .no s (.walk g l va write)
  | (_, .ats g ha) => .no s (.ats ha g)
  | (_, .blocked) => .no s .blocked

/-- A commit is to give an engine of a package to another owner: its operations are to end first (R145). -/
def engineLeaves (p : Pkg) (coll : Bool) (n : Nat) : Bool :=
  let has := fun L : LayoutEnt => if coll then L.collEng.getLsbD n else L.copyEng.getLsbD n
  p.committing && ownerBy p.layout has != ownerBy p.shadow has

/-- A store of the operation that travels to another package is not answered yet. -/
def engPending (s : State) (id : Nat) : Bool := s.msgs.any fun m => m.2.req.eng && m.2.req.op == id

/-- Such a store is to the line. -/
def engOwns (s : State) (id g : Nat) : Bool :=
  s.msgs.any fun m => m.2.req.eng && m.2.req.op == id && decide (m.2.req.gpa / 64 = g / 64)

/-- What stands in the way of an access of n bytes at guest-physical g now. A store to another package is a message, which
waits for its port itself (05_fabric.md R98, R100). -/
def engReach (s : State) (e : EngOp) (va g n : Nat) (write : Bool) : Option EngStop :=
  match locate s e.pkg e.part g write with
  | none => some (.held g va write)
  | some (.host ha) =>
    if !(s.pkgOf e.pkg).linkUp then some (.fault 4 0 va)
    else if atsMiss s e.pkg e.part ha then some (.ats ha g) else none
  | some (.dev d) =>
    let home := d >>> 44
    if remoteLost s e.pkg home then some (.fault 4 0 va)
    else match (if isWindow d then windowBreach (d % 2 ^ 44) n false e.level else none) with
      | some k => some (windowStop k va)
      | none =>
        if engOwns s e.id g || (banksLeave (s.pkgOf home) e.part && !engineLeaves (s.pkgOf e.pkg) e.onColl e.eng) ||
           (!(write && home != e.pkg) && lineBarred s e.pkg e.part g d write) then some .blocked
        else none

/-- An access has been made: the count of a line of a counted page (R89). -/
def engMade (s : State) (e : EngOp) (g : Nat) (cnt : Bool) : State := if cnt then countAccess s e.pkg e.die e.part g else s

/-- What a device access of the operation that failed leads to. -/
def devStop {α : Type} (r : Dev α) (va : Nat) (write : Bool) : EngStop :=
  match r with
  | .ok _ => .blocked
  | .s2 g => .held g va write
  | .mem _ _ => .fault 4 0 va
  | .win _ k => windowStop k va
  | .wait none => .blocked
  | .wait (some x) => .ats x.2 x.1

/-- Reads a piece within a line. -/
def engLineRead (s : State) (e : EngOp) (va n : Nat) : EngR (List Byte) :=
  (engXlate s e va false).andThen fun s x =>
    match engReach s e va x.1 n false with
    | some y => .no s y
    | none =>
      match lineRead s e.pkg e.part x.1 n e.level with
      | .ok l => .ok (engMade (lineTrip s e.pkg e.part x.1 l) e x.1 x.2) (overlay s (.eng e.id) e.part e.ctx va x.1 l)
      | r => .no s (devStop r va false)

/-- A store of the operation to another package, as a WRITE of the fabric: it is answered later (05_fabric.md R95 to R101). -/
def engSend (s : State) (e : EngOp) (va g d : Nat) (bs : List Byte) : State :=
  let id := s.nextId
  let r : LineReq :=
    { unit := e.unit, pkg := e.pkg, part := e.part, ctx := e.ctx, gpa := g / 64 * 64, lvl := e.level, op := e.id, write := true
      ops := [{ key := 0, off := g % 64, act := .wr bs, va := va, thread := 0 }], eng := true }
  inject { s with nextId := id + 1, msgs := Tab.set s.msgs id { req := r, tgt := .dev d, sent := s.now } } id

/-- Writes a piece within a line, and counts its line where counted says so. The result says that it was dropped (R62). -/
def engLinePut (s : State) (e : EngOp) (va : Nat) (bs : List Byte) (counted : Bool) : EngR Bool :=
  (engXlate s e va true).andThen fun s x =>
    match engReach s e va x.1 bs.length true with
    | some y => .no s y
    | none =>
      let remote := match locate s e.pkg e.part x.1 true with
        | some (.dev d) => if d >>> 44 == e.pkg then none else some d
        | _ => none
      match remote with
      | some d => .ok (engMade (engSend s e va x.1 d bs) e x.1 (x.2 && counted)) false
      | none =>
        match linePut s e.pkg e.part x.1 bs e.ctx e.level (some e.unit) with
        | .ok t =>
          let t' := engMade t.1 e x.1 (x.2 && counted)
          .ok (if t.2 then t' else noteStore t' e.part (x.1 / 64) (.eng e.id) (some (e.ctx, va)) (x.1 % 64) bs) t.2
        | r => .no s (devStop r va true)

/-- Translates a piece that is to be written, and finds what stands in its way. -/
def engTry (s : State) (e : EngOp) (p : Nat × Nat) : EngR Unit :=
  (engXlate s e p.1 true).andThen fun s x =>
    match engReach s e p.1 x.1 p.2 true with
    | some y => .no s y
    | none => .ok s ()

/-- A store to the register window that the register itself refuses (R87). -/
def engRefused (s : State) (e : EngOp) (va : Nat) (bs : List Byte) : Option EngStop :=
  match engXlate s e va true with
  | .no _ _ => none
  | .ok s x =>
    match locate s e.pkg e.part x.1 true with
    | some (.dev d) =>
      if isWindow d then
        (match windowWrite s (d >>> 44) (d % 2 ^ 44) bs e.level (some e.unit) with
         | .bad k => some (windowStop k va)
         | .ok _ => none)
      else none
    | _ => none

/-- The pieces of a range, within lines. -/
def linePieces (p : Nat × Nat) : List (Nat × Nat) := pieces (p.2 / 64 + 2) p.1 p.2

/-- The pieces of a range of at most eight bytes that cross no aligned eight (R117). -/
def eights (p : Nat × Nat) : List (Nat × Nat) :=
  if p.2 == 0 then [] else (List.range ((p.1 % 8 + p.2 + 7) / 8)).map fun i =>
    let lo := if i == 0 then 0 else 8 * i - p.1 % 8
    (p.1 + lo, min p.2 (8 * (i + 1) - p.1 % 8) - lo)

/-- Whether a 32-byte unit of the line that the address lies in is uncorrectable. -/
def engLineBad (s : State) (e : EngOp) (va : Nat) : Bool :=
  match engXlate s e va true with
  | .no _ _ => false
  | .ok s x =>
    match locate s e.pkg e.part x.1 true with
    | some (.dev d) => [0, 1].any fun u => (unitFault s (d >>> 44) e.part (x.1 / 64) (d / 64) u).isSome
    | _ => false

/-- Reads n bytes. -/
def engRead (s : State) (e : EngOp) (va n : Nat) : EngR (List Byte) :=
  (linePieces (va, n)).foldl (fun r p => r.andThen fun s acc =>
    (engLineRead s e p.1 p.2).andThen fun s l => .ok s (acc ++ l)) (.ok s [])

/-- Of what several accesses meet, what decides: the fault of the lowest address (R120), or else the first wait. -/
def decides (xs : List EngStop) : Option EngStop :=
  match xs.foldl (fun (best : Option (Nat × EngStop)) x => match x, best with
      | .fault _ _ a, some b => if a < b.1 then some (a, x) else best
      | .fault _ _ a, none => some (a, x)
      | _, _ => best) none with
  | some b => some b.2
  | none => xs.head?

/-- Finds what stands in the way of writes to the pieces. -/
def engTryAll (s : State) (e : EngOp) (ps : List (Nat × Nat)) : State × List EngStop :=
  ps.foldl (fun acc p => match engTry acc.1 e p with
    | .ok s _ => (s, acc.2)
    | .no s x => (s, acc.2 ++ [x])) (s, [])

/-! ## The scratchpads that an operation writes (R130, R133, R142) -/

/-- The node of the issuing block, by its sequence number. -/
def issuerSeq (s : State) (e : EngOp) : Nat :=
  match Tab.find s.blocks e.b with
  | some B => B.seq
  | none => (((s.partOf e.part).saved.find? (·.b == e.b)).map (·.seq)).getD 0

/-- A block, resident or switched out, that a test names. -/
def findBlock (s : State) (part : Nat) (f : Nat → Block → Bool) : Option (Nat × Block) :=
  match s.blocks.find? fun x => x.2.part == part && f x.1 x.2 with
  | some x => some x
  | none => ((s.partOf part).saved.find? fun v => f v.b v.block).map fun v => (v.b, v.block)

/-- Bytes in the scratchpad of a block, as far as its allocation reaches. -/
def putScratch (s : State) (part : Nat) (x : Nat × Block) (off : Nat) (bs : List Byte) : State :=
  let bs := bs.take (x.2.scratchLen - off)
  match Tab.find s.blocks x.1 with
  | some _ => s.updCore x.2.core fun c => (c.sramStore (x.2.scratchBase + off) bs).1
  | none => s.updPart part fun P => { P with saved := P.saved.map fun v =>
      if v.b == x.1 then { v with scratch := Memory.writeBytes v.scratch off bs } else v }

/-- Adds 1 to a word of a block's scratchpad, atomically. -/
def bumpScratch (s : State) (part : Nat) (x : Nat × Block) (off : Nat) : State :=
  match Tab.find s.blocks x.1 with
  | some _ => s.updCore x.2.core fun c =>
      (sramLane (c, {}, false) 0 (x.2.scratchBase + off) (.amo { kind := .atom, op := 0, w64 := false, v := 1, ret := false })).1
  | none => s.updPart part fun P => { P with saved := P.saved.map fun v =>
      if v.b == x.1 then
        { v with scratch := Memory.writeBytes v.scratch off (leBytes 4 (ofLe (Memory.readBytes v.scratch off 4) + 1)) }
      else v }

/-! ## What an operation moves -/

/-- How an operation ends: status, cause, reason, address, detail. -/
structure EngEnd where
  status : Nat := 0
  cause : Nat := 0
  reason : Nat := 0
  addr : Nat := 0
  detail : Nat := 0
  deriving DecidableEq, Repr

/-- A part of an operation's data: n bytes at src, for an address or an offset of a scratchpad. -/
structure EngSeg where
  pad : Option Nat := none
  dst : Nat
  src : Nat
  n : Nat
  deriving DecidableEq, Repr

/-- A signed offset from an address, modulo 2^64. -/
def vaPlus (a : Nat) (d : Int) : Nat := ofSigned 64 ((a : Int) + d)

/-- Lowest and one past the highest byte of rows at a signed pitch. -/
def rowSpan (base : Nat) (rows : Nat) (pitch : Int) (len : Nat) : Int × Int :=
  let last := ((rows : Int) - 1) * pitch
  ((base : Int) + min 0 last, (base : Int) + max 0 last + len)

def spansMeet (a b : Int × Int) : Bool := decide (a.1 < b.2) && decide (b.1 < a.2)

/-- The cause with which CPY2's descriptor ends the command; 0 for none (R127). -/
def cpy2Cause (d : List Byte) : Nat :=
  let len := fld d 0x10 4
  let rows := fld d 0x14 4
  if len == 0 || 16777216 < len || rows == 0 || 16777216 < rows then 5
  else if spansMeet (rowSpan (fld d 0 8) rows (toSigned 32 (fld d 0x18 4)) len)
      (rowSpan (fld d 8 8) rows (toSigned 32 (fld d 0x1C 4)) len) then 6
  else 0

def cpy2Segs (d : List Byte) : List EngSeg :=
  (List.range (fld d 0x14 4)).map fun i : Nat =>
    { dst := vaPlus (fld d 0 8) (i * toSigned 32 (fld d 0x18 4)), src := vaPlus (fld d 8 8) (i * toSigned 32 (fld d 0x1C 4))
      n := fld d 0x10 4 }

/-- The cause with which GTHR's or SCTR's descriptor ends the command; 0 for none (R128). -/
def indexedCause (d : List Byte) : Nat :=
  let base := fld d 0 8
  let dense := fld d 8 8
  let count := fld d 0x18 4
  let es := fld d 0x1C 2
  let limit := fld d 0x20 4
  if count == 0 || 16777216 < count || es == 0 || 4096 < es || fld d 0x1E 2 != 0 || fld d 0x24 28 != 0 || fld d 0x10 8 % 4 != 0 then 5
  else if 0 < limit && spansMeet ((base : Int), (base : Int) + limit * es) ((dense : Int), (dense : Int) + count * es) then 6
  else 0

/-- Whether the elements that GTHR or SCTR writes meet the index list: then the loop runs element by element (R128). -/
def serialIndexed (gather : Bool) (d : List Byte) : Bool :=
  let n := fld d 0x18 4
  let es := fld d 0x1C 2
  let dst : Int × Int := if gather then (fld d 8 8, fld d 8 8 + n * es) else (fld d 0 8, fld d 0 8 + fld d 0x20 4 * es)
  spansMeet dst (fld d 0x10 8, fld d 0x10 8 + 4 * n)

/-- The element numbers with their indices. -/
def indexList (d il : List Byte) : List (Nat × Nat) := (List.range (fld d 0x18 4)).map fun i => (i, fld il (4 * i) 4)

def indexedSegs (gather : Bool) (d il : List Byte) : List EngSeg :=
  let es := fld d 0x1C 2
  ((indexList d il).filter fun x => x.2 < fld d 0x20 4).map fun x =>
    let b := fld d 0 8 + x.2 * es
    let c := fld d 8 8 + x.1 * es
    if gather then { dst := c, src := b, n := es } else { dst := b, src := c, n := es }

/-- Of several parts for one place, the last (R128). -/
def lastOnly : List EngSeg → List EngSeg
  | [] => []
  | g :: t => if t.any (·.dst == g.dst) then lastOnly t else g :: lastOnly t

/-- How GTHR and SCTR end when nothing fails. -/
def indexedEnd (d il : List Byte) : EngEnd :=
  let skipped := (indexList d il).filter fun x => fld d 0x20 4 ≤ x.2
  { status := if skipped.isEmpty then 0 else 3, addr := (skipped.map (·.1)).headD 0, detail := skipped.length }

/-! ### CPYT (R130) -/

/-- The elements of the tile: offset in the scratchpad, source address, bytes. Elements of half a byte go in pairs. -/
def cpytElems (m : DWord) (src rb : Nat) : List (Nat × Nat × Nat) :=
  let es := max 1 (tmNibbles m / 2)
  let cols := if tmNibbles m == 1 then (List.range (tmCols m / 2)).map (2 * ·) else List.range (tmCols m)
  let pitch := bits rb 0 32
  (List.range (tmRows m)).flatMap fun r => cols.map fun c =>
    (tmOffset m r c, if bits rb 36 2 == 0 then src + r * pitch + c * tmNibbles m / 2 else src + c * pitch + r * es, es)

/-- The rows of the source: one to a row of the tile, or to a column where it is transposed. -/
def cpytRows (m : DWord) (src rb : Nat) : List (Nat × Nat) :=
  let pitch := bits rb 0 32
  if bits rb 36 2 == 0 then (List.range (tmRows m)).map fun r => (src + r * pitch, tmCols m * tmNibbles m / 2)
  else (List.range (tmCols m)).map fun c => (src + c * pitch, tmRows m * max 1 (tmNibbles m / 2))

/-! ### CPYR (R131, R132) -/

/-- a times b plus c times d, the products exact, rounded once. -/
def rotSum (F : Fmt) (a b c d : FV) : Nat :=
  match fvProd a b, fvProd c d with
  | some p, some q => (roundExact F .rne (fvAdd p q)).bits
  | _, _ => F.nan

/-- One vector rotated by a table row of FP32 (cos, sin) pairs. -/
def rotVec (F : Fmt) (halves : Bool) (h : Nat) (row src : List Byte) : List Byte :=
  let x := fun i : Nat => unpack F (fld src (2 * i) 2)
  let pair := fun j : Nat =>
    let i0 := if halves then j else 2 * j
    let i1 := if halves then j + h / 2 else 2 * j + 1
    let c := unpack fp32 (fld row (8 * j) 4)
    let n := unpack fp32 (fld row (8 * j + 4) 4)
    [(i0, rotSum F (x i0) c (x i1) n.flip), (i1, rotSum F (x i0) n (x i1) c)]
  let out : Tab Nat := (List.range (h / 2)).flatMap pair
  (List.range h).flatMap fun i => leBytes 2 (Tab.get 0 out i)

def cpyrRow (d : List Byte) : Int := toSigned 32 (fld d 0x28 4) + fld d 0x2C 4

def cpyrCause (d : List Byte) : Nat :=
  let vecs := fld d 0x18 4
  let h := fld d 0x1C 2
  if vecs == 0 || 1048576 < vecs || h % 2 != 0 || h < 2 || 1024 < h || 4 ≤ fld d 0x1E 2 || fld d 0x34 12 != 0 ||
     fld d 0x10 8 % 8 != 0 || fld d 0 8 % 2 != 0 || fld d 8 8 % 2 != 0 || toSigned 32 (fld d 0x20 4) % 2 != 0 ||
     toSigned 32 (fld d 0x24 4) % 2 != 0 || cpyrRow d < 0 || (fld d 0x30 4 : Int) ≤ cpyrRow d then 5
  else 0

/-- Place of the table row that CPYR uses. -/
def cpyrTable (d : List Byte) : Nat := fld d 0x10 8 + 8 * (fld d 0x1C 2 / 2) * (cpyrRow d).toNat

def cpyrSegs (d : List Byte) : List EngSeg :=
  (List.range (fld d 0x18 4)).map fun v : Nat =>
    { dst := vaPlus (fld d 0 8) (v * toSigned 32 (fld d 0x24 4)), src := vaPlus (fld d 8 8) (v * toSigned 32 (fld d 0x20 4))
      n := 2 * fld d 0x1C 2 }

/-- The vector that CPYR writes for one that it has read. -/
def cpyrOut (d row src : List Byte) : List Byte :=
  rotVec (if bitAt (fld d 0x1E 2) 0 then fp16 else bf16) (bitAt (fld d 0x1E 2) 1) (fld d 0x1C 2) row src

/-! ### CPYM (R133, R134) -/

def cpymLen (d : List Byte) : Nat := bits (fld d 8 8) 0 32
def cpymCount (d : List Byte) : Nat := bits (fld d 8 8) 32 5
def cpymAen (d : List Byte) : Bool := bitAt (fld d 8 8) 37
def cpymAoff (d : List Byte) : Nat := bits (fld d 0x10 8) 0 19

def cpymCause (d : List Byte) : Nat :=
  let len := cpymLen d
  let n := cpymCount d
  if len % 32 != 0 || len < 32 || 262144 < len || n == 0 || 16 < n || bits (fld d 8 8) 38 26 != 0 || cpymAoff d % 4 != 0 ||
     bits (fld d 0x10 8) 19 45 != 0 || fld d 0x18 40 != 0 then 5
  else 0

/-- Destination entry i. -/
def cpymEntry (el : List Byte) (i : Nat) : Nat := fld el (8 * i) 8

def cpymSegs (d el : List Byte) : List EngSeg :=
  (List.range (cpymCount d)).map fun i =>
    { pad := some i, dst := bits (cpymEntry el i) 32 19, src := fld d 0 8, n := cpymLen d }

/-- The block of destination entry v: of the issuer's own node, resident or switched out. -/
def cpymBlock (s : State) (e : EngOp) (v : Nat) : Option (Nat × Block) :=
  findBlock s e.part fun _ B => B.seq == issuerSeq s e && B.idx == bits v 0 32

/-- The cause with which a destination fails by itself; 0 for none. Of several that hold the first of this order is taken
(log 86). -/
def cpymFails (s : State) (e : EngOp) (d : List Byte) (v : Nat) : Nat :=
  if bits v 51 13 != 0 || bits v 32 19 % 32 != 0 then 5
  else match cpymBlock s e v with
    | none => 7
    | some x => if x.2.scratchLen < bits v 32 19 + cpymLen d || (cpymAen d && x.2.scratchLen < cpymAoff d + 4) then 8 else 0

/-! ### The parts of every operation -/

/-- The bytes from va on that the operation has read; none when one is missing. -/
def EngOp.got (e : EngOp) (va n : Nat) : Option (List Byte) :=
  let bs := (List.range n).filterMap fun i =>
    (e.fetched.find? fun x => decide (x.1 ≤ va + i) && decide (va + i < x.1 + x.2.length)).bind fun x => x.2[va + i - x.1]?
  if bs.length == n then some bs else none

def EngOp.descBytes (e : EngOp) : List Byte := (e.desc.getD ([], [])).1
def EngOp.auxBytes (e : EngOp) : List Byte := (e.desc.getD ([], [])).2

def engSegs (e : EngOp) : List EngSeg :=
  match e.opc with
  | 0 => [{ dst := e.ra.toNat, src := e.rb.toNat, n := bits e.rc.toNat 0 40 }]
  | 1 => cpy2Segs e.descBytes
  | 2 => (cpytElems e.map e.ra.toNat e.rb.toNat).map fun x => { pad := some 0, dst := x.1, src := x.2.1, n := x.2.2 }
  | 3 => cpyrSegs e.descBytes
  | 4 => cpymSegs e.descBytes e.auxBytes
  | 5 => indexedSegs true e.descBytes e.auxBytes
  | 6 => indexedSegs false e.descBytes e.auxBytes
  | _ => []

/-- The pieces that the operation reads. -/
def engSrcs (e : EngOp) : List (Nat × Nat) :=
  (match e.opc with
   | 2 => cpytRows e.map e.ra.toNat e.rb.toNat
   | 4 => [(fld e.descBytes 0 8, cpymLen e.descBytes)]
   | _ => (engSegs e).map fun g : EngSeg => (g.src, g.n)).flatMap linePieces

/-- A write of an operation: at most eight bytes that cross no aligned eight, of a part of its data (R117). -/
structure EngPart where
  seg : EngSeg
  at_ : Nat
  n : Nat
  deriving DecidableEq, Repr

def segParts (g : EngSeg) : List EngPart := (eights (g.dst, g.n)).map fun p => { seg := g, at_ := p.1, n := p.2 }

/-- Everything that a data command writes (R126 to R134). -/
def engParts (e : EngOp) : List EngPart :=
  if e.opc == 7 then segParts { dst := e.ra.toNat, src := 0, n := bits e.rc.toNat 0 40 }
  else (if e.opc == 6 then lastOnly (engSegs e) else engSegs e).flatMap segParts

/-- Byte o of a pattern of w bytes that is repeated (R126). -/
def fillByte (w pat o : Nat) : Byte := (leBytes w pat).getD (o % max 1 w) 0

/-- The bytes of a write, once what they come from has been read. -/
def partBytes (e : EngOp) (p : EngPart) : Option (List Byte) :=
  let o := p.at_ - p.seg.dst
  match e.opc with
  | 7 => some ((List.range p.n).map fun i => fillByte (fillWidth e.rc) e.rb.toNat (o + i))
  | 3 => (e.got p.seg.src p.seg.n).map fun bs => ((cpyrOut e.descBytes e.auxBytes bs).drop o).take p.n
  | _ => e.got (p.seg.src + o) p.n

/-- Write k of the operation: of the chunk that a COLL receives, or of a data command, once its bytes are known. -/
def EngOp.put (e : EngOp) (k : Nat) : Option EngPut :=
  match e.plan with
  | some ps => ps[k]?
  | none => (engParts e)[k]?.bind fun p => (partBytes e p).map fun bs => { pad := p.seg.pad, at_ := p.at_, bytes := bs }

/-- How many writes it makes. -/
def EngOp.puts (e : EngOp) : Nat :=
  match e.plan with
  | some ps => ps.length
  | none => (engParts e).length

/-- The writes that have not been made. -/
def EngOp.left_ (e : EngOp) : List Nat := (List.range e.puts).filter fun k => !e.early.contains k

/-- The ranges of memory that it writes. -/
def engDsts (e : EngOp) : List (Nat × Nat) :=
  (if e.opc == 7 then [(e.ra.toNat, bits e.rc.toNat 0 40)]
   else ((engSegs e).filter (·.pad.isNone)).map fun g => (g.dst, g.n)).flatMap linePieces

/-! ## Running an operation -/

def setEng (s : State) (id : Nat) (e : EngOp) : State := { s with engs := Tab.set s.engs id e }

/-- Reads the descriptor and what it names, and checks it, unless that has been done. -/
def engDesc (s : State) (e : EngOp) : EngR EngOp :=
  let keep := fun (s : State) (d aux : List Byte) => EngR.ok s { e with desc := some (d, aux) }
  let checked := fun (n : Nat) (cause : List Byte → Nat) (k : State → List Byte → EngR EngOp) =>
    (engRead s e e.ra.toNat n).andThen fun s d => if cause d != 0 then .no s (.fault (cause d) 0 0) else k s d
  if e.desc.isSome then .ok s e
  else match e.opc with
    | 1 => checked 32 cpy2Cause fun s d => keep s d []
    | 3 => checked 64 cpyrCause fun s d => (engRead s e (cpyrTable d) (4 * fld d 0x1C 2)).andThen fun s t => keep s d t
    | 4 => checked 64 cpymCause fun s d => (engRead s e (e.ra.toNat + 64) (8 * cpymCount d)).andThen fun s l => keep s d l
    | 5 => checked 64 indexedCause fun s d => if serialIndexed true d then keep s d []
        else (engRead s e (fld d 0x10 8) (4 * fld d 0x18 4)).andThen fun s l => keep s d l
    | 6 => checked 64 indexedCause fun s d => if serialIndexed false d then keep s d []
        else (engRead s e (fld d 0x10 8) (4 * fld d 0x18 4)).andThen fun s l => keep s d l
    | _ => keep s [] []

/-- Reads one piece, unless its bytes have been read. -/
def engFetchOne (s : State) (e : EngOp) (p : Nat × Nat) : EngR EngOp :=
  if (e.got p.1 p.2).isSome then .ok s e
  else (engLineRead s e p.1 p.2).andThen fun s l => .ok s { e with fetched := e.fetched ++ [(p.1, l)] }

/-- Reads every piece that can be read. -/
def engFetch (s : State) (e : EngOp) : State × EngOp × List EngStop :=
  (engSrcs e).foldl (fun acc p => match engFetchOne acc.1 acc.2.1 p with
    | .ok s e => (s, e, acc.2.2)
    | .no s x => (s, acc.2.1, acc.2.2 ++ [x])) (s, e, [])

/-- Whether the operation writes memory that it reads: its first write then waits until it has read all of it (R126,
R132). -/
def EngOp.overlaps (e : EngOp) : Bool :=
  (engSrcs e).any fun a => (engDsts e).any fun b => decide (a.1 < b.1 + b.2) && decide (b.1 < a.1 + a.2)

/-- Every source byte has been read. -/
def EngOp.allRead (e : EngOp) : Bool := (engSrcs e).all fun p => (e.got p.1 p.2).isSome

/-- Whether a write is the first of its line that the operation makes. -/
def firstOfLine (e : EngOp) (p : EngPut) : Bool :=
  !(e.early.any fun k => (e.put k).any fun x => x.pad.isNone && x.at_ / 64 == p.at_ / 64)

/-- Makes write k. -/
def engPutOne (s : State) (e : EngOp) (k : Nat) : EngR EngOp :=
  let e' := { e with early := e.early ++ [k] }
  match e.put k with
  | none => .ok s e
  | some p =>
    match p.pad with
    | none => (engLinePut s e p.at_ p.bytes (firstOfLine e p)).andThen fun s _ => .ok s e'
    | some i =>
      match (if e.opc == 4 then cpymBlock s e (cpymEntry e.auxBytes i) else findBlock s e.part fun b _ => b == e.b) with
      | some x => .ok (putScratch s e.part x p.at_ p.bytes) e'
      | none => .ok s e'

/-- Write j goes on where write k ends, in its line of memory. -/
def putFollows (e : EngOp) (k j : Nat) : Bool :=
  match e.put k, e.put j with
  | some a, some b => a.pad.isNone && b.pad.isNone && a.at_ + a.bytes.length == b.at_ && a.at_ / 64 == b.at_ / 64
  | _, _ => false

/-- The writes in line accesses (R117): each takes the writes of its line that follow one another. -/
def lineRuns (e : EngOp) : List Nat → List (List Nat)
  | [] => []
  | k :: t =>
    match lineRuns e t with
    | (j :: js) :: rest => if putFollows e k j then (k :: j :: js) :: rest else [k] :: (j :: js) :: rest
    | rest => [k] :: rest

/-- Makes the writes of one line access. -/
def engPutRun (s : State) (e : EngOp) (ks : List Nat) : EngR EngOp :=
  match ks with
  | [] => .ok s e
  | [k] => engPutOne s e k
  | k :: _ =>
    match e.put k with
    | none => .ok s e
    | some p => (engLinePut s e p.at_ (ks.flatMap fun j => ((e.put j).map (·.bytes)).getD []) (firstOfLine e p)).andThen
        fun s _ => .ok s { e with early := e.early ++ ks }

/-- Makes writes up to the first line access that cannot be made. -/
def engPutAll (s : State) (e : EngOp) (ks : List Nat) : State × EngOp × Option EngStop :=
  (lineRuns e ks).foldl (fun acc r => match acc.2.2 with
    | some _ => acc
    | none => match engPutRun acc.1 acc.2.1 r with
      | .ok s e => (s, e, none)
      | .no s x => (s, acc.2.1, some x)) (s, e, none)

/-- After a failure each destination element that has not been written holds its old or its new value (R129): a free
choice for each. -/
def engMixOf (s : State) (e : EngOp) (ks : List Nat) : State :=
  (ks.foldl (fun (acc : State × EngOp) k =>
    let d := drawBool acc.1
    if !d.1 then (d.2, acc.2)
    else match engPutOne d.2 acc.2 k with
      | .ok s e => (s, e)
      | .no s _ => (s, acc.2)) (s, e)).1

def engMix (s : State) (e : EngOp) : State := engMixOf s e e.left_

/-- The lines of a destination that are still to be written. -/
def EngOp.dstsLeft (e : EngOp) : List (Nat × Nat) :=
  let ps := (engParts e).zipIdx.filter fun x => !e.early.contains x.2 && x.1.seg.pad.isNone
  (engDsts e).filter fun d => ps.any fun x => decide (d.1 ≤ x.1.at_) && decide (x.1.at_ < d.1 + d.2)

inductive EngOut where
  | ends (x : EngEnd)
  | stops (x : EngStop)

/-- Makes the writes of an operation whose sources are read; nothing is written while one of them is refused. It ends when
those to other packages are answered. -/
def engWriteOut (s : State) (e : EngOp) (x : EngEnd) : State × EngOp × EngOut :=
  let ps := (e.left_.filterMap e.put).filter (·.pad.isNone)
  match decides (ps.filterMap fun p => engRefused s e p.at_ p.bytes) with
  | some y => (s, e, .stops y)
  | none =>
    let r := engPutAll s e e.left_
    (r.1, r.2.1, match r.2.2 with
      | some y => .stops y
      | none => if engPending r.1 e.id then .stops .blocked else .ends x)

/-- Writes bytes, line by line; nothing is written where something is in the way of one of the lines. -/
def engWrite (s : State) (e : EngOp) (ws : List (Nat × List Byte)) : EngR Unit :=
  let ps := ws.flatMap fun w => (linePieces (w.1, w.2.length)).map fun p => (p.1, (w.2.drop (p.1 - w.1)).take p.2)
  let t := engTryAll s e (ps.map fun p => (p.1, p.2.length))
  match decides t.2 with
  | some x => .no t.1 x
  | none => ps.foldl (fun r p => r.andThen fun s _ => (engLinePut s e p.1 p.2 true).andThen fun s _ => .ok s ()) (.ok t.1 ())

/-- Element e.sent of GTHR's or SCTR's loop, its index read when its turn comes (R128). -/
def serialOne (s : State) (e : EngOp) : EngR EngOp :=
  let d := e.descBytes
  let es := fld d 0x1C 2
  (engRead s e (fld d 0x10 8 + 4 * e.sent) 4).andThen fun s il =>
    let e' := { e with sent := e.sent + 1, desc := some (d, e.auxBytes ++ il) }
    let b := fld d 0 8 + ofLe il * es
    let c := fld d 8 8 + e.sent * es
    if fld d 0x20 4 ≤ ofLe il then .ok s e'
    else (engRead s e (if e.opc == 5 then b else c) es).andThen fun s bs =>
      (engWrite s e [(if e.opc == 5 then c else b, bs)]).andThen fun s _ => .ok s e'

/-- The rest of such a loop, as far as it comes. -/
def engSerial (s : State) (e : EngOp) : State × EngOp × EngOut :=
  let r : State × EngOp × Option EngStop := (List.range (fld e.descBytes 0x18 4 - e.sent)).foldl (fun acc _ => match acc.2.2 with
    | some _ => acc
    | none => match serialOne acc.1 acc.2.1 with
      | .ok s e => (s, e, none)
      | .no s x => (s, acc.2.1, some x)) (s, e, none)
  (r.1, r.2.1, match r.2.2 with
    | some y => .stops y
    | none => if engPending r.1 e.id then .stops .blocked else .ends (indexedEnd r.2.1.descBytes r.2.1.auxBytes))

/-- The command is GTHR or SCTR, and runs element by element. -/
def EngOp.isSerial (e : EngOp) : Bool := (e.opc == 5 || e.opc == 6) && serialIndexed (e.opc == 5) e.descBytes

/-- The writes for destination i that have not been made. -/
def EngOp.leftTo (e : EngOp) (i : Nat) : List Nat := e.left_.filter fun k => (engParts e)[k]?.any fun p => p.seg.pad == some i

/-- CPYM ends (R134): each destination is delivered, and its arrival word raised, or it has failed and holds old or new
bytes. src is the cause, reason and address of a failed source read. CAUSE is 0 when some destination is delivered, and
else the cause of the lowest-numbered failing one (log 86). -/
def cpymEnds (s : State) (e : EngOp) (src : Option (Nat × Nat × Nat)) : State × EngEnd :=
  let d := e.descBytes
  let cs := (List.range (cpymCount d)).map fun i =>
    let own := cpymFails s e d (cpymEntry e.auxBytes i)
    (i, if own == 0 then (src.map (·.1)).getD 0 else own)
  let s := cs.foldl (fun s x =>
    if x.2 != 0 then engMixOf s e (e.leftTo x.1)
    else
      let s := (engPutAll s e (e.leftTo x.1)).1
      match cpymAen d, cpymBlock s e (cpymEntry e.auxBytes x.1) with
      | true, some b => bumpScratch s e.part b (cpymAoff d)
      | _, _ => s) s
  let okMap := bitsOf (cpymCount d) fun i => Tab.get 1 cs i == 0
  let failed := cs.filter fun x => x.2 != 0
  let first := failed.headD (0, 0)
  let cause := if okMap == 0 then first.2 else 0
  (s,
    { status := if failed.isEmpty then 0 else if okMap == 0 then 1 else 2
      cause := cause
      reason := match src with
        | some r => if cause == r.1 && (cause == 1 || cause == 2) then r.2.1 else 0
        | none => 0
      addr := (src.map (·.2.2)).getD 0
      detail := okMap + (if failed.isEmpty then 0 else first.1 <<< 16 + first.2 <<< 20) })

/-- Runs a data command to its end, or to what it meets; what has been read and written stays so. -/
def engRun (s : State) (e : EngOp) : State × EngOp × EngOut :=
  match engDesc s e with
  | .no s x => (s, e, .stops x)
  | .ok s e =>
    if e.isSerial then engSerial s e else
    let f := engFetch s e
    if e.opc == 4 then
      match decides f.2.2 with
      | some (.fault c r a) => let x := cpymEnds f.1 f.2.1 (some (c, r, a)); (x.1, f.2.1, .ends x.2)
      | some y => (f.1, f.2.1, .stops y)
      | none => let x := cpymEnds f.1 f.2.1 none; (x.1, f.2.1, .ends x.2)
    else
      let t := engTryAll f.1 f.2.1 f.2.1.dstsLeft
      match decides (f.2.2 ++ t.2) with
      | some y => (t.1, f.2.1, .stops y)
      | none => engWriteOut t.1 f.2.1 (if e.opc == 5 || e.opc == 6 then indexedEnd e.descBytes e.auxBytes else {})

/-- The operation with its end decided. -/
def EngOp.ends (e : EngOp) (x : EngEnd) : EngOp :=
  { e with phase := .ended, status := x.status, cause := x.cause, reason := x.reason, addr := BitVec.ofNat 64 x.addr
           detail := BitVec.ofNat 64 x.detail, desc := none, fetched := [], plan := none, early := [] }

/-! ## Waits for H and for the host (R78, R79, R85) -/

/-- Holds an access of the operation at a package's controller for H (R78). -/
def engHold (s : State) (id : Nat) (e : EngOp) (gpa addr : Nat) (write : Bool) : State :=
  let h : Held := { pkg := e.pkg, part := e.part, granule := gpa >>> 25, what := .eng id gpa write }
  ({ setEng s id { e with addr := BitVec.ofNat 64 addr } with held := s.held ++ [h] }).tell (.secondStage e.part gpa e.ctx write)

/-- Holds the walk of an access of the operation (R79). -/
def engHoldWalk (s : State) (id : Nat) (e : EngOp) (gpa level addr : Nat) (write : Bool) : State :=
  let h : Held := { pkg := e.pkg, part := e.part, granule := gpa >>> 25, what := .engWalk id gpa addr level write }
  ({ setEng s id { e with addr := BitVec.ofNat 64 addr } with held := s.held ++ [h] }).tell (.walkHeld e.part gpa addr level)

/-- A Translation Request of the operation goes to the host (R85). -/
def engWant (s : State) (id : Nat) (e : EngOp) (ha gpa : Nat) : State :=
  let w : AtsWant := { part := e.part, page := ha >>> 12, gpa := gpa, eng := id, sent := s.now }
  (setEng s id e).updPkg e.pkg fun p => { p with atsWant := p.atsWant ++ [w] }

/-- The operation waits for what a stop says; none where nothing but time ends it. -/
def engWaits (s : State) (id : Nat) (e : EngOp) (x : EngStop) : Option State :=
  match x with
  | .held g a w => some (engHold s id e g a w)
  | .walk g l a w => some (engHoldWalk s id e g l a w)
  | .ats ha g => some (engWant s id e ha g)
  | .blocked => if Tab.find s.engs id == some e then none else some (setEng s id e)
  | .fault _ _ _ => none

/-- Whether H or the host has not yet answered an access of the operation. -/
def engHeld (s : State) (id : Nat) : Bool :=
  (s.held.any fun h => match h.what with
    | .eng i _ _ => i == id
    | .engWalk i _ _ _ _ => i == id
    | _ => false) ||
  s.pkgs.any fun p => p.2.atsWant.any fun w => w.eng == id && w.unit.isNone

/-! ## Starting, completing and popping (R114, R115, R119 to R123) -/

def Block.setRecord (B : Block) (q op : Nat) (r : EngRec) : Block :=
  { B with pairs := Tab.set B.pairs q ((Tab.get [] B.pairs q).map fun p => if p.op == op then { p with record := some r } else p) }

/-- The completion record (R120). -/
def EngOp.record (e : EngOp) (cwFail : Bool) : EngRec :=
  { w0 := e.tag
    w1 := BitVec.ofNat 64 (e.status + e.cause <<< 8 + e.reason <<< 16 + e.opc <<< 24 + e.q <<< 32 + (if cwFail then 2 ^ 62 else 0) + 2 ^ 63)
    w2 := e.addr
    w3 := e.detail }

/-- The records of a pair that its queue holds: those before the first command that has not completed. -/
def pairRecords (l : List PairEnt) : List EngRec := (l.takeWhile (·.record.isSome)).filterMap (·.record)

def recBytes (r : EngRec) : List Byte := leBytes 8 r.w0.toNat ++ leBytes 8 r.w1.toNat ++ leBytes 8 r.w2.toNat ++ leBytes 8 r.w3.toNat

/-- Offset of the image of completion queue q in a block slot (16_traps.md R383). -/
def pairImageAt (q : Nat) : Nat := 0x800 + 7 * (8 + 16 * 8) + (q - 8) * (8 + 16 * 32)

def pairImage (l : List PairEnt) : List Byte :=
  leBytes 8 (pairRecords l).length ++ (pairRecords l).flatMap recBytes

def SaveSlot.at (v : SaveSlot) : Nat := v.base + 0x10000 + v.size * v.idx

/-- Queues a record in its pair, in the block or, when it is switched out, in its image (R142). -/
def queueRecord (s : State) (e : EngOp) (id : Nat) (r : EngRec) : State :=
  match Tab.find s.blocks e.b with
  | some _ => s.updBlock e.b fun B => B.setRecord e.q id r
  | none =>
    match (s.partOf e.part).saved.find? (·.b == e.b) with
    | none => s
    | some v =>
      let v' := { v with block := v.block.setRecord e.q id r }
      let s := s.updPart e.part fun P => { P with saved := P.saved.map fun x => if x.b == e.b then v' else x }
      (ctxWriteAt s e.part v.ctx .h (v.slot.at + pairImageAt e.q) (pairImage (Tab.get [] v'.block.pairs e.q))).1

/-- The completion word at guest-physical g names the operation that stored it, in the views of its partition: an acquire
load of it is a join (R118). -/
def nameWord (s : State) (e : EngOp) (id g : Nat) : State :=
  if s.views.isEmpty then s
  else { s with views := s.views.map fun v => if v.part == e.part then { v with cw := v.cw ++ [(g, id)] } else v }

/-- The end of an operation, once its stores are answered: its completion word, then its record. A completion word that the
second stage refuses is held for H like any access. -/
def engFinish (s : State) (id : Nat) (e : EngOp) : State :=
  let va := e.tag.toNat % 2 ^ 52
  let word := leBytes 8 (e.record false).w1.toNat
  let fin := fun (s : State) (cwFail : Bool) => { queueRecord s e id (e.record cwFail) with engs := Tab.del s.engs id }
  let named := fun (s : State) => match engXlate s e va true with
    | .ok _ x => fin (nameWord s e id x.1) false
    | .no _ _ => fin s false
  if engPending s id then setEng s id e
  else if !e.tag.getLsbD 63 then fin s false
  else if e.cwFail || (!e.cwSent && (engRefused s e va word).isSome) then fin s true
  else if e.cwSent then named s
  else match engLinePut s e va word true with
    | .ok t true => fin t true
    | .ok t false => if engPending t id then setEng t id { e with cwSent := true } else named t
    | .no _ (.fault _ _ _) => fin s true
    | .no t y => (engWaits t id { e with phase := .ended } y).getD (setEng s id { e with phase := .ended })

/-- The COLL fails, and every rank that waits on it is aborted (R140). -/
def collFail (s : State) (id : Nat) (e : EngOp) (cause reason addr : Nat) : State :=
  let s := setEng s id (e.ends { status := 1, cause := cause, reason := reason, addr := addr, detail := min e.sent e.recvd })
  abortPeers s s.engs.length [(id, e)]

def migrEnds (s : State) (id : Nat) (e : EngOp) (cause : Nat) (addr : Nat := e.ra.toNat) : State :=
  setEng s id (e.ends { status := if cause == 0 then 0 else 1, cause := cause, addr := if cause == 0 then 0 else addr })

/-- A failure after WB was set: WB is cleared, the leaf keeps its frame. -/
def migrFails (s : State) (id : Nat) (e : EngOp) (cause : Nat) : State := migrEnds (clearWb s e) id e cause

/-- An access of the operation fails for good: H has refused it, or the host has not answered (R78, R79, R109, R129). -/
def engBreak (s : State) (id : Nat) (e : EngOp) (cause reason addr : Nat) : State :=
  if e.phase == .ended then setEng s id { e with cwFail := true }
  else if e.migrating then migrFails s id e cause
  else if e.opc == 8 then collFail s id e cause reason addr
  else if e.opc == 4 && e.desc.isSome then
    let x := cpymEnds s e (some (cause, reason, addr))
    setEng x.1 id (e.ends x.2)
  else setEng (engMix s e) id (e.ends { status := 1, cause := cause, reason := reason, addr := addr })

/-- ENGINE_COMPLETION: operation idx of the subject has run and completes. -/
def execEngineCompletion (s : State) : Host.Outcome State Fault Refusal :=
  let id := s.subject.idx
  match Tab.find s.engs id with
  | none => .next s
  | some e =>
    if engHeld s id then .next s
    else match e.phase with
      | .ended =>
        let s' := engFinish s id e
        if Tab.find s'.engs id == some e && !engHeld s' id then .next s else .next s'
      | .running =>
        let r := engRun s e
        (match r.2.2 with
         | .ends x => .next (engFinish r.1 id (r.2.1.ends x))
         | .stops (.fault c k a) =>
           .next (engFinish (engMix r.1 r.2.1) id (r.2.1.ends { status := 1, cause := c, reason := k, addr := a }))
         | .stops y =>
           (match engWaits r.1 id r.2.1 y with
            | some s' => .next s'
            | none => .next s))
      | _ => .next s

/-- The home's answer to a store of the operation: one that was refused ends it, or fails its completion word. -/
def engAnswered (s : State) (id : Nat) (e : EngOp) (a : Answer) : State :=
  if e.phase == .ended then (if a.errs.isEmpty && a.unwritten.isEmpty then s else setEng s id { e with cwFail := e.cwFail || e.cwSent })
  else match a.errs with
    | x :: _ => engBreak s id e (match x.2.kind with
        | .align => 14
        | .protection => 2
        | _ => 4) 0 x.2.load.toNat
    | [] => s

/-- A running data command moves piece k before it completes: it reads its descriptor, and then its source pieces and its
writes have no order but that a write comes after what it copies, and, where the destination meets the source, after all of
it (R117; log 55). Nothing moves where something is in the way. -/
def movePiece (s : State) (id k : Nat) (e : EngOp) : State :=
  let set := fun (r : EngR EngOp) => match r with
    | .ok s e => setEng s id e
    | .no _ _ => s
  if e.desc.isNone then set (engDesc s e)
  else if e.isSerial then set (if fld e.descBytes 0x18 4 ≤ e.sent then .ok s e else serialOne s e)
  else match (engSrcs e)[k]? with
  | some p => set (engFetchOne s e p)
  | none =>
    let n := k - (engSrcs e).length
    match e.put n with
    | none => s
    | some p =>
      if e.early.contains n || (e.overlaps && !e.allRead) || (p.pad.isNone && ((engRefused s e p.at_ p.bytes).isSome || engLineBad s e p.at_)) ||
         (e.opc == 4 && p.pad.any fun i => cpymFails s e e.descBytes (cpymEntry e.auxBytes i) != 0) then s
      else set (engPutOne s e n)

/-- The registers of a CWAIT's or CPOLL's destinations receive the words; with a note, they stay empty and hold it. -/
def popWrite (s : State) (p : PopWait) (ws : List DWord) (note : Option Note) : State :=
  (p.dests.zip ws).foldl (fun s x =>
    match p.unit with
    | .front _ => deliverX s p.unit (p.bank && 26 ≤ x.1 && x.1 ≤ 30) x.1 { val := x.2, full := note.isNone, note := note }
    | .slot _ _ _ =>
      let bank := p.bank && 24 ≤ x.1
      let put := fun (s : State) (r : Nat) (v : Word) => deliverS s p.unit bank r { val := v, full := note.isNone, note := note }
      put (put s x.1 (x.2.setWidth 32)) (x.1 + 1) (x.2.extractLsb' 32 32)) s

/-- The result of a CPOLL that finds no record (R123). -/
def emptyRecord : EngRec := { w1 := 0xFF }

/-- The pop of an operation's record is a join edge for the threads that wait (R118, R184). -/
def joinPop (s : State) (p : PopWait) (op : Nat) : State :=
  joinEngines s (((issuerOf s p.unit 0).map Issuer.aliasThreads).getD []) (fun _ n => n == op)

/-- The oldest CWAIT or CPOLL of completion queue q of a block pops, or examines; none while it must wait. A record whose
entry is uncorrectable leaves its destinations empty, with a note (03_memory.md R59; log 87). -/
def popRecord (s : State) (b q : Nat) : Option State :=
  (Tab.find s.blocks b).bind fun B =>
    (B.pops.find? fun p => p.q == q).bind fun p =>
      let l := Tab.get [] B.pairs (q - 4)
      let drop := fun (s : State) (pairs : List PairEnt) (bad : List (Nat × Nat × Nat)) =>
        s.updBlock b fun B => { B with pops := B.pops.erase p, pairs := Tab.set B.pairs (q - 4) pairs, badQ := bad }
      match (l.head?.bind (·.record)) with
      | some r =>
        let note := if B.badQ.contains (q, 0, 0) then some { memNote 3 0 with lanes := 1 } else none
        let bad := if B.badQ.isEmpty then [] else shiftBad (shiftBad B.badQ q 0) (q - 4) 0
        some (popWrite (drop (joinPop s p ((l.head?.map (·.op)).getD 0)) l.tail bad) p [r.w0, r.w1, r.w2, r.w3] note)
      | none => if p.poll then some (popWrite (drop s l B.badQ) p [0, emptyRecord.w1, 0, 0] none) else none

/-- CWAIT_POP: completion queue sub of the subject's block idx. -/
def execCwaitPop (s : State) : Host.Outcome State Fault Refusal :=
  match popRecord s s.subject.idx s.subject.sub with
  | some s' => .next s'
  | none => .next s

/-- CWAIT and CPOLL (R122, R123). -/
def popFrame (i : Instr) (f : EE) (s : State) (poll : Bool) : Host.Outcome State Fault Refusal :=
  onUnit i s fun I =>
    let ds := [f.ra.toNat, f.rb.toNat, f.rc.toNat, f.rd.toNat]
    let named := if I.fe then ds.filter (· != 0) else ds
    if f.q.toNat < 12 || !ds.all I.pairOk || named.eraseDups.length != named.length then I.bad .illegalOperand
    else withSrcs I [] (ds.flatMap I.src64) fun _ =>
      let s := ds.foldl (fun s r => empty64 s I r) s
      .done (s.updBlock I.b fun B => { B with pops := B.pops ++ [{ unit := I.u, q := f.q.toNat, dests := ds, poll := poll, bank := !I.atU }] })

def execCwait (f : EE) (s : State) := popFrame (.cwait f) f s false
def execCpoll (f : EE) (s : State) := popFrame (.cpoll f) f s true

/-! ## MIGR (04_translation.md R91) -/

/-- The cause with which a device access of a MIGR that failed ends it. -/
def devCause {α : Type} (r : Dev α) : Nat :=
  match r with
  | .ok _ => 0
  | .s2 _ => 3
  | .mem _ _ => 4
  | .win _ k => if k == .align then 14 else 2
  | .wait _ => 0

/-- What an access of a MIGR meets. -/
inductive CopyStop where
  | held (gpa : Nat) (write : Bool)
  | fails (cause : Nat)
  | waits
  | ats (gpa ha : Nat)
  deriving DecidableEq, Repr

/-- A device access of a MIGR's own that failed: it ends the command (04_translation.md R91), or waits. -/
def devCopy {α : Type} (r : Dev α) : CopyStop :=
  match r with
  | .wait none => .waits
  | .wait (some x) => .ats x.1 x.2
  | r => .fails (devCause r)

/-- Rewrites the leaf by a function of its bits: the state, or the cause of the failure. -/
def migrLeaf (s : State) (e : EngOp) (f : Nat → Nat) : State ⊕ CopyStop :=
  match gpaRead s e.pkg e.part e.leaf 8 with
  | .ok l =>
    (match gpaWriteAll (readTrips s e.pkg e.part e.leaf l) e.pkg e.part e.leaf (leBytes 8 (f (ofLe l))) e.ctx with
     | .ok s' => .inl s'
     | r => .inr (devCopy r))
  | r => .inr (devCopy r)

/-- Starts a sweep of the page in every context of the partition. -/
def migrSweep (s : State) (id : Nat) (e : EngOp) : State :=
  { s with nextId := s.nextId + 1
           sweeps := Tab.set s.sweeps s.nextId { part := e.part, kind := .pageAll (e.ra.toNat >>> 16), eng := some id } }

/-- What an access of a MIGR that cannot be made now leads to; none where only time ends it. -/
def migrStops (s : State) (id : Nat) (e : EngOp) (x : CopyStop) : Option State :=
  match x with
  | .held g w => some (engHold s id e g e.ra.toNat w)
  | .fails _ => none
  | .waits => none
  | .ats g ha => some (engWant s id e ha g)

/-- Step 1: the leaf is found and write-blocked, and the first sweep begins. A walk that the second stage stops is held for
H (R79). -/
def migrStart (s : State) (id : Nat) (e : EngOp) : State :=
  match walk s e.pkg e.part e.ctx e.ra.toNat with
  | (s, .held g l) => engHoldWalk s id e g l e.ra.toNat false
  | (s, .mem _ _) => migrEnds s id e 4
  | (s, .win _ k) => migrEnds s id e (if k == .align then 14 else 2)
  | (s, .fault _ _ _) => migrEnds s id e 9
  | (s, .wait none) => s
  | (s, .wait (some x)) => engWant s id e x.2 x.1
  | (s, .leaf v place level) =>
    if level != 3 then migrEnds s id e 9
    else
      let e := { e with leaf := place, oldFrame := bits v 16 36 }
      match markLeaf s e.pkg e.part e.ctx v place false with
      | .ok s =>
        if bitAt v 5 then migrEnds s id e 10 0
        else
          (match secondStage s e.pkg e.part e.rb.toNat true with
           | some (.dev _) =>
             (match migrLeaf s e (fun v => v ||| 0x20) with
              | .inr (.fails c) => migrEnds s id e c
              | .inr x => (migrStops s id e x).getD s
              | .inl s => migrSweep (setEng s id { e with phase := .migrSweep1 }) id e)
           | _ => migrEnds s id e 3 0)
      | .wait none => s
      | .wait (some x) => engWant s id e x.2 x.1
      | r => migrEnds s id e (devCause r)

/-- Removes the access counters of a frame. -/
def dropCounters (s : State) (part frame : Nat) : State :=
  { s with pkgs := s.pkgs.map fun p : Nat × Pkg => (p.1, { p.2 with counters := p.2.counters.map fun d : Nat × List Counter =>
      (d.1, d.2.filter fun c => !(c.part == part && c.frame == frame)) }) }

/-- Copies the line at an offset of the page to the new frame. -/
def migrLine (s : State) (e : EngOp) (off : Nat) : State ⊕ CopyStop :=
  let a := e.oldFrame <<< 16 + off
  let b := e.rb.toNat + off
  match lineRead s e.pkg e.part a 64 e.level with
  | .ok l =>
    (match linePut (lineTrip s e.pkg e.part a l) e.pkg e.part b l e.ctx e.level none with
     | .ok t => .inl (noteStored t.1 e.part b .dev none l)
     | .s2 g => .inr (.held g true)
     | r => .inr (devCopy r))
  | .s2 g => .inr (.held g false)
  | r => .inr (devCopy r)

/-- Copies the lines of the page from line k on, in ascending order, to the first that cannot be copied: the next line. -/
def migrLines (s : State) (e : EngOp) : State × Nat × Option CopyStop :=
  ((List.range 1024).filter fun k => e.sent ≤ k).foldl (fun acc k => match acc.2.2 with
    | some _ => acc
    | none => match migrLine acc.1 e (64 * k) with
      | .inl s => (s, k + 1, none)
      | .inr x => (acc.1, k, some x)) (s, e.sent, none)

/-- Steps 2 and 3: the page is copied, sent counting its lines, the leaf takes the new frame, and the second sweep begins.
None while a line waits. -/
def migrCopy (s : State) (id : Nat) (e : EngOp) : Option State :=
  if isSealed s e.part e.rb.toNat then some (migrFails s id e 2)
  else
    let r := migrLines s e
    let e' := { e with sent := r.2.1 }
    match r.2.2 with
    | some (.fails c) => some (migrFails r.1 id e' c)
    | some x =>
      (match migrStops r.1 id e' x with
       | some t => some t
       | none => if e' == e then none else some (setEng r.1 id e'))
    | none =>
      match migrLeaf r.1 e (fun v => v - bits v 16 36 <<< 16 + e.rb.toNat) with
      | .inr (.fails c) => some (migrFails r.1 id e' c)
      | .inr x =>
        (match migrStops r.1 id e' x with
         | some t => some t
         | none => if e' == e then none else some (setEng r.1 id e'))
      | .inl s => some (migrSweep (setEng s id { e' with phase := .migrSweep2 }) id e)

/-- Step 4: WB is cleared, now or when that can be done, and the command ends. -/
def migrClear (s : State) (id : Nat) (e : EngOp) : State :=
  match migrLeaf s e (fun v => v &&& (2 ^ 64 - 1 - 0x20)) with
  | .inl s => migrEnds s id e 0
  | .inr (.fails c) => migrFails s id e c
  | .inr x => (migrStops s id e x).getD (setEng s id e)

/-- MIGR_DRAIN_DONE: operation idx of the subject waits for the writes to its old frame, and none is on its way; or its last
store of the leaf could not be made before. -/
def execMigrDrainDone (s : State) : Host.Outcome State Fault Refusal :=
  let id := s.subject.idx
  match Tab.find s.engs id with
  | none => .next s
  | some e =>
    if e.phase == .migrDone && !engHeld s id then .next (migrClear s id e)
    else if e.phase != .migrDrain || engHeld s id || writesInFlight s e.part [e.oldFrame] then .next s
    else match migrCopy s id e with
      | some s' => .next s'
      | none => .next s

/-- What a completed sweep lets go on: the unit that waits for it, or its MIGR. The second sweep of a MIGR removes the
counters of its two frames, and step 4 clears WB. -/
def sweepThen (s : State) (id : Nat) (w : Sweep) : State :=
  let s := match w.unit.bind fun u => issuerOf s u 0 with
    | some I =>
      if I.st.wait == .sweep id then complete (match w.kind with
        | .rename _ new => renameCtx s w.part I.blk.ctx new
        | _ => s) I
      else s
    | none => s
  match w.eng.bind fun n => (Tab.find s.engs n).map fun e => (n, e) with
  | none => s
  | some (n, e) =>
    match e.phase with
    | .migrSweep1 => setEng s n { e with phase := .migrDrain }
    | .migrSweep2 =>
      migrClear (dropCounters (dropCounters s e.part e.oldFrame) e.part (e.rb.toNat >>> 16)) n { e with phase := .migrDone }
    | _ => s

/-- SWEEP_COMPLETE: sweep idx of the subject has reached every translation, and every access that passed translation
before it began has completed (R76). -/
def execSweepComplete (s : State) : Host.Outcome State Fault Refusal :=
  let id := s.subject.idx
  match Tab.find s.sweeps id with
  | none => .next s
  | some w =>
    if !sweepDue s id w then .next s
    else .next (sweepThen { sweepApply s w with sweeps := Tab.del s.sweeps id } id w)

end Sys2Proof.Machine
end

