-- ==== Sys2Proof/Machine/Collectives.lean ====
section
/-! DEFINITION. The collective engines: the start of a COLL, its exchange with its ring neighbours, its steps over the
fabric or Ethernet, and its failures (06_engines.md R114, R135 to R140, R442, 05_fabric.md R107). -/

namespace Sys2Proof.Machine

/-! ## Reading and checking a COLL (R135, R136, R442) -/

def parseColl (d : List Byte) : CollDesc where
  op := bits (fld d 0 8) 0 2
  fmt := bits (fld d 0 8) 2 2
  n := bits (fld d 0 8) 16 16
  rank := bits (fld d 0 8) 32 16
  e := bits (fld d 8 8) 0 40
  ring := fld d 0x10 8
  ready := fld d 0x18 8
  thresh := BitVec.ofNat 64 (fld d 0x20 8)
  cid := BitVec.ofNat 32 (fld d 0x28 4)
  timeout := fld d 0x2C 4

def collOk (d : List Byte) (c : CollDesc) : Bool :=
  c.op != 3 && c.fmt < 2 && 2 ≤ c.n && c.n ≤ 320 && c.rank < c.n && c.e % c.n == 0 && c.ready % 8 == 0 && c.ring % 32 == 0 &&
    bits (fld d 0 8) 4 12 == 0 && bits (fld d 0 8) 48 16 == 0 && bits (fld d 8 8) 40 24 == 0 && fld d 0x30 16 == 0

def parseRing (l : List Byte) : RingEnt where
  bucket := fld l 0 8
  stage := fld l 8 8
  engine := bits (fld l 0x10 8) 0 16
  path := bits (fld l 0x10 8) 16 1
  qp := bits (fld l 0x10 8) 32 12

/-- The package and die that a ring entry's ENGINE names, when the partition owns its collective engine. -/
def ringEngine (s : State) (part : Nat) (r : RingEnt) : Option (Nat × Nat) :=
  ((partDies s part)[r.engine]?).filter fun d => (layoutOf s d.1 part).any fun L => L.collEng.getLsbD d.2

def ringOk (s : State) (part : Nat) (l : List Byte) : Bool :=
  bits (fld l 0x10 8) 17 15 == 0 && bits (fld l 0x10 8) 44 20 == 0 && fld l 0x18 8 == 0 && (parseRing l).stage % 64 == 0 &&
    (ringEngine s part (parseRing l)).any fun g => (parseRing l).path == 0 || featureOn s g.1 10

/-- What an access of a COLL that does not succeed leads to. -/
def collStops (s : State) (id : Nat) (e : EngOp) (x : EngStop) : Option State :=
  match x with
  | .fault c k a => some (collFail (engMix s e) id e c k a)
  | x => engWaits s id e x

/-- What an access of a COLL leads to. -/
def collAccess {α : Type} (s : State) (id : Nat) (e : EngOp) (r : EngR α) (k : State → α → Option State) : Option State :=
  match r with
  | .ok s a => k s a
  | .no _ x => collStops s id e x

/-- Bytes of one half of a staging area. -/
def halfBytes (c : CollDesc) : Nat := (4 * c.e / c.n + 63) / 64 * 64

/-- The COLL enters its exchange: SENT and READ of its own header are zeroed first (R139). -/
def collEnter (s : State) (id : Nat) (e : EngOp) : Option State :=
  let own := (e.ring.getD e.coll.rank {}).stage
  collAccess s id e (engWrite s e [(own, leBytes 16 0)]) fun s _ => some (setEng s id { e with phase := .collExch, since := s.now })

/-- The ring of a COLL, each entry with the engine that serves it. -/
def ringOf (s : State) (part : Nat) (ents : List (List Byte)) : List RingEnt :=
  ents.map fun l => { parseRing l with serves := ringEngine s part (parseRing l) }

/-- Stage 2: the collective engine reads the whole ring. -/
def collStage2 (s : State) (id : Nat) (e : EngOp) : Option State :=
  let go := fun (s : State) (e : EngOp) =>
    if e.coll.ready != 0 then some (setEng s id { e with phase := .collReady, since := s.now }) else collEnter s id e
  if !e.ring.isEmpty then go s e
  else collAccess s id e (engRead s e e.coll.ring (32 * e.coll.n)) fun s l =>
    let ents := (List.range e.coll.n).map fun i => (l.drop (32 * i)).take 32
    if !ents.all (ringOk s e.part) then some (collFail s id e 5 0 0)
    else go s { e with ring := ringOf s e.part ents }

/-- A scrub holds the engine, its package's clock has stopped, or its die is lost. -/
def engineBarred (s : State) (pkg eng : Nat) (coll : Bool) : Bool :=
  (s.pkgOf pkg).stopped || (s.pkgOf pkg).lostDies.contains (if coll then eng else eng / 4) || (s.pkgOf pkg).scrubs.any fun w => match w with
    | .copyEng n => !coll && n == eng
    | .collEng n => coll && n == eng
    | _ => false

/-- The collective engine takes the command, as the last that it has started, and reads the ring. -/
def collHand (s : State) (id : Nat) (e : EngOp) (g : Nat × Nat) : Option State :=
  if engineBarred s g.1 g.2 true then none
  else
    let e := { e with pkg := g.1, eng := g.2, onColl := true, phase := .collRing, started := s.nextId }
    let s := setEng { s with nextId := s.nextId + 1 } id e
    some ((collStage2 s id e).getD s)

/-- Stage 1: the copy engine reads the descriptor and the rank's own ring entry, and hands the command over. -/
def collStage1 (s : State) (id : Nat) (e : EngOp) : Option State :=
  collAccess s id e (engRead s e e.ra.toNat 64) fun s d =>
    let c := parseColl d
    let e := { e with coll := c }
    if !collOk d c then some (collFail s id e 5 0 0)
    else collAccess s id e (engRead s e (c.ring + 32 * c.rank) 32) fun s l =>
      match ringEngine s e.part (parseRing l) with
      | none => some (collFail s id e 5 0 0)
      | some g => if !ringOk s e.part l then some (collFail s id e 5 0 0) else collHand s id e g

/-- Commands that run on a copy engine. -/
def engineLoad (s : State) (pkg eng : Nat) : Nat :=
  (s.engs.filter fun x => x.2.pkg == pkg && x.2.eng == eng && !x.2.onColl && x.2.phase != .queued && x.2.phase != .ended).length

/-- The command's own place in its queue is uncorrectable (03_memory.md R59). -/
def commandBad (s : State) (id : Nat) (e : EngOp) : Bool :=
  (Tab.find s.blocks e.b).any fun B =>
    B.badQ.contains (e.q, 0, ((Tab.get [] B.pairs e.q).takeWhile fun p => p.op != id).length)

/-- The command starts. -/
def engBegin (s : State) (id : Nat) (e : EngOp) : State :=
  let e := { e with phase := .running, started := s.nextId, since := s.now }
  let s := setEng { s with nextId := s.nextId + 1 } id e
  if commandBad s id e then setEng s id (e.ends { status := 1, cause := 4 })
  else if e.opc == 12 then migrStart s id e
  else if e.opc == 8 then (collStage1 s id e).getD s
  else s

/-- ENGINE_COMMAND_START: command idx of the subject is the first of its queue that has not started, its engine runs fewer
than eight, and what its issuer accessed before the fork is performed (R116). A COLL whose reading waited goes on, and a MIGR
whose walk waited. -/
def execEngineCommandStart (s : State) : Host.Outcome State Fault Refusal :=
  let id := s.subject.idx
  let due := fun (r : Option State) => match r with
    | some s' => Host.Outcome.next s'
    | none => .next s
  match Tab.find s.engs id with
  | none => .next s
  | some e =>
    if engHeld s id then .next s
    else match e.phase with
      | .queued =>
        let earlier := s.engs.any fun x => x.1 < id && x.2.b == e.b && x.2.q == e.q && x.2.phase == .queued
        if earlier || 8 ≤ engineLoad s e.pkg e.eng || engineBarred s e.pkg e.eng false || unperformed s e.unit (BitVec.allOnes 96) id 7
        then .next s
        else .next (engBegin s id e)
      | .running =>
        if e.opc == 8 then due (collStage1 s id e)
        else if e.opc == 12 then .next (migrStart s id e)
        else .next s
      | .collRing => due (collStage2 s id e)
      | _ => .next s

/-- COLL_READY_START: the READY word of COLL idx, an acquire load (R118), is at or above THRESH. -/
def execCollReadyStart (s : State) : Host.Outcome State Fault Refusal :=
  let id := s.subject.idx
  match Tab.find s.engs id with
  | none => .next s
  | some e =>
    if e.phase != .collReady || engHeld s id then .next s
    else
      let r := collAccess s id e (engRead s e e.coll.ready 8) fun s l =>
        if ofLe l < e.coll.thresh.toNat then none
        else
          let s := match engXlate s e e.coll.ready false with
            | .ok t x => joinAt t (.eng id) x.1 8
            | .no _ _ => s
          collEnter s id e
      match r with
      | some s' => .next s'
      | none => .next s

/-! ## The exchange (R137) -/

/-- The oldest of some operations, in the order in which their engine started them. -/
def oldestOf (l : List (Nat × EngOp)) : Option (Nat × EngOp) :=
  l.foldl (fun best x => match best with
    | some b => if x.2.started < b.2.started then some x else best
    | none => some x) none

/-- The oldest unmatched COLL that answers on one side, if it has reached its exchange. -/
def partnerOf (s : State) (id : Nat) (e : EngOp) (toLeft : Bool) : Option (Nat × EngOp) :=
  (oldestOf (s.engs.filter fun x => x.1 != id && e.answeredBy x.2 toLeft)).filter fun x => x.2.phase == .collExch

/-- An older COLL of e's rank, at its engine, that the same neighbour is to answer first. -/
def elderWaits (s : State) (e : EngOp) (toLeft : Bool) : Bool :=
  let r := if toLeft then leftRank e.coll else rightRank e.coll
  s.engs.any fun x => x.2.onColl && x.2.collWaits && x.2.part == e.part && x.2.pkg == e.pkg && x.2.eng == e.eng &&
    x.2.coll.rank == e.coll.rank && decide (x.2.started < e.started) && (if toLeft then x.2.left.isNone else x.2.right.isNone) &&
    (x.2.phase == .collRing || (x.2.ring.getD r {}).serves == (e.ring.getD r {}).serves)

/-- The exchanged fields are equal. -/
def sameColl (a b : CollDesc) : Bool := a.cid == b.cid && a.op == b.op && a.fmt == b.fmt && a.n == b.n && a.e == b.e

/-- A COLL that has met both neighbours starts its steps. -/
def collSettle (s : State) (id : Nat) : State :=
  match Tab.find s.engs id with
  | none => s
  | some e => if e.phase == .collExch && e.left.isSome && e.right.isSome then
      setEng s id { e with phase := .collStep 0, since := s.now } else s

/-- Matches one side of a COLL; equal fields settle both, unequal ones end both. -/
def exchangeSide (s : State) (id : Nat) (toLeft : Bool) : Option State :=
  (Tab.find s.engs id).bind fun e =>
    if e.phase != .collExch || (if toLeft then e.left.isSome else e.right.isSome) || elderWaits s e toLeft then none
    else (partnerOf s id e toLeft).bind fun c =>
      if elderWaits s c.2 (!toLeft) then none
      else
        let e' := if toLeft then { e with left := some c.1 } else { e with right := some c.1 }
        let c' := if toLeft then { c.2 with right := some id } else { c.2 with left := some id }
        let s := setEng (setEng s id e') c.1 c'
        if sameColl e.coll c.2.coll then some (collSettle (collSettle s id) c.1)
        else
          let bad := fun x : EngOp => x.ends { status := 1, cause := 5 }
          let s := setEng (setEng s id (bad e')) c.1 (bad c')
          some (abortPeers s s.engs.length [(id, e), c])

/-- COLL_EXCHANGE: COLL idx meets its left neighbour, or with the subject's flag its right one. -/
def execCollExchange (s : State) : Host.Outcome State Fault Refusal :=
  match exchangeSide s s.subject.idx (!s.subject.flag) with
  | some s' => .next s'
  | none => .next s

/-! ## The steps (R138, R139) -/

/-- Steps of the operation; they count from 0 in each operation (log 21). -/
def collSteps (c : CollDesc) : Nat := if c.op == 2 then 2 * (c.n - 1) else c.n - 1

/-- Whether step k moves partials of the reduce-scatter. -/
def reducing (c : CollDesc) (k : Nat) : Bool := c.op == 0 || (c.op == 2 && k < c.n - 1)

/-- The step within its phase. -/
def phaseStep (c : CollDesc) (k : Nat) : Nat := if c.op == 2 && c.n - 1 ≤ k then k - (c.n - 1) else k

def elemBytes (c : CollDesc) : Nat := if c.fmt == 0 then 4 else 2

def chunkLen (c : CollDesc) : Nat := c.e / c.n

/-- Address of a chunk of the rank's own bucket. -/
def chunkAt (e : EngOp) (k : Nat) : Nat :=
  (e.ring.getD e.coll.rank {}).bucket + k * chunkLen e.coll * elemBytes e.coll

/-- A chunk's elements widened to FP32. -/
def widen (c : CollDesc) (l : List Byte) : List Word :=
  (List.range (chunkLen c)).map fun i =>
    if c.fmt == 0 then BitVec.ofNat 32 (fld l (4 * i) 4) else BitVec.ofNat 32 (fld l (2 * i) 2 <<< 16)

def wordBytes (l : List Word) : List Byte := l.flatMap fun w => leBytes 4 w.toNat

/-- A sum rounded once to FP32, the partial on the left. -/
def ringAdd (p own : Word) : Word := BitVec.ofNat 32 (roundExact fp32 .rne (fvAdd (unpack fp32 p.toNat) (unpack fp32 own.toNat))).bits

/-- The final partial in the bucket's format. -/
def narrow (c : CollDesc) (l : List Word) : List Byte :=
  if c.fmt == 0 then wordBytes l
  else l.flatMap fun w => leBytes 2 (roundExact bf16 .rne (exactOf (unpack fp32 w.toNat))).bits

/-- The chunk that the rank sends at step k. -/
def sendChunk (c : CollDesc) (k : Nat) : Nat :=
  if reducing c k then (c.rank + 2 * c.n - phaseStep c k - 1) % c.n else (c.rank + 2 * c.n - phaseStep c k) % c.n

/-- The chunk that it receives. -/
def recvChunk (c : CollDesc) (k : Nat) : Nat :=
  if reducing c k then (c.rank + 2 * c.n - phaseStep c k - 2) % c.n else (c.rank + 2 * c.n - phaseStep c k - 1) % c.n

/-- The end of a COLL whose steps are done, and whose chunks and returns have arrived. -/
def collDone (s : State) (id : Nat) (e : EngOp) : State :=
  let T := collSteps e.coll
  if e.sent == T && e.recvd == T && e.outW.isEmpty && e.outR.isEmpty then setEng s id (e.ends { detail := T })
  else setEng s id { e with phase := .collStep (min e.sent e.recvd), since := s.now }

/-- The partition that owns the port of a die. -/
def portOwner (s : State) (pkg die : Nat) : Option Nat :=
  ((s.pkgOf pkg).layout.find? fun e => e.2.valid && e.2.eth.getLsbD die).map fun e => e.2.podPart.toNat

/-- The Ethernet port and queue pair of a link whose sender is rank r: package, die, queue pair. -/
def linkOf (e : EngOp) (r : Nat) : Option (Nat × Nat × Nat) :=
  let x := e.ring.getD r {}
  if x.path == 0 then none else x.serves.map fun g => (g.1, g.2, x.qp)

/-- A link that may send now: the partition owns its port, which is up, and its queue pair has been made and is not
paused. -/
def linkOpen (s : State) (part : Nat) (l : Nat × Nat × Nat) : Bool :=
  let p := Tab.get {} (s.pkgOf l.1).eth l.2.1
  p.up && portOwner s l.1 l.2.1 == some part && (Tab.find p.qps l.2.2).any fun q => !p.paused.getLsbD q.prio

def updQp (s : State) (l : Nat × Nat × Nat) (f : QPair → QPair) : State :=
  s.updPkg l.1 fun p =>
    let port := Tab.get {} p.eth l.2.1
    { p with eth := Tab.set p.eth l.2.1 { port with qps := Tab.set port.qps l.2.2 (f (Tab.get {} port.qps l.2.2)) } }

/-- Packets that a message takes on a queue pair (R107). -/
def packets (q : QPair) (n : Nat) : Nat := max 1 ((n + q.mtu - 1) / max 1 q.mtu)

/-- Whether the sender of step e.sent waits for the return of step e.sent - 2. -/
def readOwed (e : EngOp) (read : Nat) : Bool := 2 ≤ e.sent && decide (read < e.sent - 1)

/-- Sends step e.sent: the bytes, and once they are performed, SENT; over Ethernet, one write with immediate. What stands in
the staging areas after the COLL, which R136 calls undefined, is what its steps have stored (log 114). -/
def collSend (s : State) (id : Nat) (e : EngOp) : Option State :=
  let c := e.coll
  let k := e.sent
  let next := e.ring.getD (rightRank c) {}
  let own := (e.ring.getD c.rank {}).stage
  let half := halfBytes c
  if collSteps c ≤ k || e.recvd < k then none
  else
    let payload := fun s : State =>
      if reducing c k && phaseStep c k != 0 then EngR.ok s (wordBytes e.partial_)
      else (engRead s e (chunkAt e (sendChunk c k)) (chunkLen c * elemBytes c)).andThen fun s l =>
        .ok s (if reducing c k then wordBytes (widen c l) else l)
    match linkOf e c.rank with
    | some l =>
      if !linkOpen s e.part l || readOwed e e.returned then none
      else collAccess s id e (payload s) fun s bs =>
        let e := { e with sent := k + 1, outW := e.outW ++ [(k, bs)] }
        some (collDone (updQp s l fun q =>
          { q with unacked := q.unacked + packets q bs.length, since := if q.unacked == 0 then s.now else q.since }) id e)
    | none =>
      if e.mid then
        if engPending s id then none
        else collAccess s id e (engWrite s e [(next.stage, leBytes 8 (k + 1))]) fun s _ =>
          some (collDone s id { e with sent := k + 1, mid := false })
      else collAccess s id e (if k < 2 then .ok s (leBytes 8 0) else engRead s e (own + 8) 8) fun s r =>
        if readOwed e (ofLe r) then none
        else collAccess s id e ((payload s).andThen fun s bs => engWrite s e [(next.stage + 64 + (k % 2) * half, bs)])
          fun s _ => some (setEng s id { e with mid := true })

/-- What SENT of the rank's own header says of step e.recvd: over Ethernet, the chunks that have arrived. -/
def sentWord (s : State) (e : EngOp) : EngR Nat :=
  if (linkOf e (leftRank e.coll)).isSome then .ok s e.arrived
  else (engRead s e (e.ring.getD e.coll.rank {}).stage 8).andThen fun s l => .ok s (ofLe l)

/-- Reads the data of step e.recvd, once it stands in the staging half, and fixes what goes into the bucket. -/
def collTake (s : State) (id : Nat) (e : EngOp) (go : State → EngOp → Option State) : Option State :=
  let c := e.coll
  let k := e.recvd
  let own := (e.ring.getD c.rank {}).stage
  if e.plan.isSome then go s e
  else if collSteps c ≤ k || e.sent < k + 1 then none
  else collAccess s id e (sentWord s e) fun s sent =>
    if sent < k + 1 then none
    else
      let n := chunkLen c * (if reducing c k then 4 else elemBytes c)
      collAccess s id e (engRead s e (own + 64 + (k % 2) * halfBytes c) n) fun s d =>
        let cc := recvChunk c k
        let old : EngR (List Byte) := if reducing c k then engRead s e (chunkAt e cc) (chunkLen c * elemBytes c) else .ok s []
        collAccess s id e old fun s o =>
          let part := if reducing c k then ((wordsOf d).zip (widen c o)).map fun x => ringAdd x.1 x.2 else []
          let bs : List Byte := if !reducing c k then d else if phaseStep c k + 2 == c.n then narrow c part else []
          let at_ := chunkAt e cc
          let ps := (eights (at_, bs.length)).map fun p : Nat × Nat =>
            ({ at_ := p.1, bytes := (bs.drop (p.1 - at_)).take p.2 } : EngPut)
          go s { e with plan := some ps, early := [], partial_ := part }

/-- Receives step e.recvd, after its own send of that step: the data, and once its bucket's stores are performed, the
return. -/
def collRecv (s : State) (id : Nat) (e : EngOp) : Option State :=
  collTake s id e fun s e =>
    let k := e.recvd
    let link := (linkOf e (leftRank e.coll)).isSome
    let t := engTryAll s e ((e.left_.filterMap e.put).map fun p => (p.at_, p.bytes.length))
    match decides t.2 with
    | some x => collStops t.1 id e x
    | none =>
      let r := engPutAll t.1 e e.left_
      match r.2.2 with
      | some x => collStops r.1 id r.2.1 x
      | none =>
        let e := r.2.1
        if engPending r.1 id then (if Tab.find s.engs id == some e then none else some (setEng r.1 id e))
        else collAccess r.1 id e (if link then .ok r.1 () else engWrite r.1 e [((e.ring.getD (leftRank e.coll) {}).stage + 8, leBytes 8 (k + 1))])
          fun s _ => some (collDone s id
            { e with recvd := k + 1, plan := none, early := [], outR := if link then e.outR ++ [k + 1] else e.outR })

/-- A running operation moves piece k of its data, if that meets nothing (R117): a data command's, or of the chunk that a
COLL receives. -/
def engPiece (s : State) (id k : Nat) : State :=
  match Tab.find s.engs id with
  | none => s
  | some e =>
    if engHeld s id || (s.pkgOf e.pkg).stopped then s
    else match e.phase with
      | .running => if e.opc < 8 then movePiece s id k e else s
      | .collStep _ =>
        (match e.plan with
         | none =>
           (match collTake s id e fun s e => some (setEng s id e) with
            | some t => if (Tab.find t.engs id).any fun x => x.plan.isSome then t else s
            | none => s)
         | some _ =>
           if e.early.contains k then s
           else (match engPutOne s e k with
             | .ok t e' => setEng t id e'
             | .no _ _ => s))
      | _ => s

/-- COLL_STEP: COLL idx sends its next step, or with the subject's flag receives it, once the peer's header allows. -/
def execCollStep (s : State) : Host.Outcome State Fault Refusal :=
  let id := s.subject.idx
  match Tab.find s.engs id with
  | none => .next s
  | some e =>
    match e.phase with
    | .collStep _ =>
      if engHeld s id then .next s
      else (match (if s.subject.flag then collRecv s id e else collSend s id e) with
        | some s' => .next s'
        | none => .next s)
    | _ => .next s

/-- Whether the COLL waits on a neighbour: for its COLL, for the return of a step that it has sent, or for a step that it
is to receive. -/
def peerOwes (s : State) (id : Nat) (e : EngOp) : Bool :=
  match e.phase with
  | .collExch => (exchangeSide s id true).isNone && (exchangeSide s id false).isNone
  | .collStep _ =>
    let k := e.sent
    let sendWaits := k < collSteps e.coll && k ≤ e.recvd && readOwed e (match linkOf e e.coll.rank with
      | some _ => e.returned
      | none => match engRead s e ((e.ring.getD e.coll.rank {}).stage + 8) 8 with
        | .ok _ r => ofLe r
        | .no _ _ => k)
    let recvWaits := e.recvd < e.sent && e.plan.isNone && (match sentWord s e with
      | .ok _ n => decide (n < e.recvd + 1)
      | .no _ _ => false)
    (sendWaits || recvWaits) && (collSend s id e).isNone && (collRecv s id e).isNone
  | _ => false

/-- PEER_TIMEOUT: COLL idx has waited on a neighbour for longer than its TIMEOUT. -/
def execPeerTimeout (s : State) : Host.Outcome State Fault Refusal :=
  let id := s.subject.idx
  match Tab.find s.engs id with
  | none => .next s
  | some e =>
    if !e.collBusy || e.coll.timeout == 0 || s.now ≤ e.since + 100 * e.coll.timeout || !peerOwes s id e then .next s
    else .next (collFail s id e 12 0 0)

/-! ## Ethernet (05_fabric.md R107, R139) -/

/-- COLL id when something of it is no longer on its way: it may have been the last. -/
def leftWay (s : State) (id : Nat) (e : EngOp) : State :=
  match e.phase with
  | .collStep _ => collDone s id e
  | _ => setEng s id e

/-- ROCE_RDMA_WRITE_IMM: the oldest chunk on the way from COLL idx arrives: its bytes stand in the receiver's staging
half, and its immediate tells the receiver. It stays on its way while the receiver's write of it is held. -/
def execRoceRdmaWriteImm (s : State) : Host.Outcome State Fault Refusal :=
  match Tab.find s.engs s.subject.idx with
  | none => .next s
  | some e =>
    match e.outW, linkOf e e.coll.rank, e.right.bind fun r => (Tab.find s.engs r).map fun c => (r, c) with
    | (k, bs) :: rest, some l, some (r, c) =>
      if !(Tab.get {} (s.pkgOf l.1).eth l.2.1).up || engHeld s r then .next s
      else
        let stage := (c.ring.getD c.coll.rank {}).stage + 64 + (k % 2) * halfBytes c.coll
        let took := fun s : State =>
          let s := leftWay s s.subject.idx { e with outW := rest }
          updQp s l fun q => { q with unacked := q.unacked - packets q bs.length, tries := 0, since := s.now }
        (match collAccess s r c (engWrite s c [(stage, bs)]) fun s _ =>
            some (took { s with engs := Tab.modify s.engs r fun c => { c with arrived := k + 1 } }) with
         | some s' => .next s'
         | none => .next s)
    | _, _, _ => .next s

/-- ROCE_SEND: the oldest return on the way from COLL idx arrives at its left neighbour. -/
def execRoceSend (s : State) : Host.Outcome State Fault Refusal :=
  match Tab.find s.engs s.subject.idx with
  | none => .next s
  | some e =>
    match e.outR, linkOf e (leftRank e.coll), e.left with
    | k :: rest, some l, some n =>
      if !(Tab.get {} (s.pkgOf l.1).eth l.2.1).up then .next s
      else
        let s := leftWay s s.subject.idx { e with outR := rest }
        .next { s with engs := Tab.modify s.engs n fun c => { c with returned := k } }
    | _, _, _ => .next s

/-- A packet on a reliable connection of the port: subject pkg, idx the die, sub the queue pair. -/
def rocePacket (s : State) (k : Nat → QPair → Option State) : Host.Outcome State Fault Refusal :=
  let j := s.subject
  let port := Tab.get {} (s.pkgOf j.pkg).eth j.idx
  match portOwner s j.pkg j.idx, Tab.find port.qps j.sub with
  | some part, some q =>
    if !port.up then .next s
    else (match k part q with
      | some s' => .next s'
      | none => .next s)
  | _, _ => .next s

/-- ROCE_RDMA_WRITE: the packet's bytes are written at its address, through the context of the queue pair; an address
that fails leaves memory as it is (log 22). -/
def execRoceRdmaWrite (s : State) : Host.Outcome State Fault Refusal :=
  rocePacket s fun part q =>
    some (ctxWriteAt s part q.ctx .s s.subject.off s.subject.bytes).1

/-- ROCE_RDMA_READ: the bytes at its address are answered. -/
def execRoceRdmaRead (s : State) : Host.Outcome State Fault Refusal :=
  rocePacket s fun part q =>
    let j := s.subject
    match ctxReadAt s part q.ctx .s j.off j.val.toNat with
    | (s', some l) => some (updQp s' (j.pkg, j.idx, j.sub) fun q => { q with reads := q.reads ++ [l] })
    | (s', none) => some s'

def updPort (s : State) (f : EthPort → EthPort) : State :=
  s.updPkg s.subject.pkg fun p => { p with eth := Tab.set p.eth s.subject.idx (f (Tab.get {} p.eth s.subject.idx)) }

/-- ROCE_UNSUPPORTED: the packet is dropped and counted. -/
def execRoceUnsupported (s : State) : Host.Outcome State Fault Refusal :=
  if 8 ≤ s.subject.idx || (Tab.find s.pkgs s.subject.pkg).isNone then .next s
  else .next (updPort s fun p => { p with dropped := p.dropped + 1 })

/-- PFC_PAUSE: the frame pauses (flag) or resumes priority sub of the port. -/
def execPfcPause (s : State) : Host.Outcome State Fault Refusal :=
  let j := s.subject
  if 8 ≤ j.idx || 8 ≤ j.sub || (Tab.find s.pkgs j.pkg).isNone then .next s
  else .next (updPort s fun p =>
    { p with paused := if j.flag then p.paused ||| (1#8 <<< j.sub) else p.paused &&& ~~~(1#8 <<< j.sub) })

/-- ECN_MARK: the sender reduces the queue pair's rate by one step. -/
def execEcnMark (s : State) : Host.Outcome State Fault Refusal :=
  rocePacket s fun _ _ =>
    some (updQp s (s.subject.pkg, s.subject.idx, s.subject.sub) fun q => { q with rate := q.rate + 1 })

/-- Whether a COLL uses the port of a die. -/
def usesPort (e : EngOp) (pkg die : Nat) : Bool :=
  e.collBusy && ([e.coll.rank, leftRank e.coll].any fun r => match linkOf e r with
    | some l => (l.1 == pkg && l.2.1 == die) || (e.pkg == pkg && e.eng == die)
    | none => false)

/-- The collectives that a test names end with NETWORK (R107, R140). -/
def failNetwork (s : State) (f : EngOp → Bool) : State :=
  let hit := s.engs.filter fun x => f x.2
  let s := { s with engs := s.engs.map fun x : Nat × EngOp => if hit.any (·.1 == x.1) then
    (x.1, x.2.ends { status := 1, cause := 11, detail := min x.2.sent x.2.recvd }) else x }
  abortPeers s s.engs.length hit

/-- ETHERNET_LINK_FAIL: the port of die idx of the subject's package goes down; the collectives that use it end. -/
def execEthernetLinkFail (s : State) : Host.Outcome State Fault Refusal :=
  let j := s.subject
  if 8 ≤ j.idx || (Tab.find s.pkgs j.pkg).isNone || !(Tab.get {} (s.pkgOf j.pkg).eth j.idx).up then .next s
  else .next (updPort (failNetwork s fun e => usesPort e j.pkg j.idx) fun p => { p with up := false })

/-- ROCE_RETRANSMIT_TIMEOUT: the oldest packet has not been acknowledged for the queue pair's timeout: every packet from
it on is sent again. When its retries are used up the connection has failed, and the collective that sends on it ends with
NETWORK (log 88). -/
def execRoceRetransmitTimeout (s : State) : Host.Outcome State Fault Refusal :=
  rocePacket s fun _ q =>
    let j := s.subject
    if q.unacked == 0 || s.now < q.since + q.timeout then none
    else if q.retries ≤ q.tries then
      some (failNetwork (updQp s (j.pkg, j.idx, j.sub) fun q => { q with unacked := 0, tries := 0 }) fun e =>
        e.collBusy && linkOf e e.coll.rank == some (j.pkg, j.idx, j.sub))
    else some (updQp s (j.pkg, j.idx, j.sub) fun q =>
      { q with resent := q.resent + q.unacked, tries := q.tries + 1, since := s.now })

/-- A supervisor makes a queue pair of a port that its partition owns, one of 4,096, with a path MTU of R107. -/
def makeQp (s : State) (pkg die qp : Nat) (q : QPair) : State :=
  if (portOwner s pkg die).isNone || 4096 ≤ qp || !(q.mtu == 1024 || q.mtu == 2048 || q.mtu == 4096) || 8 ≤ q.prio then s
  else s.updPkg pkg fun P =>
    { P with eth := Tab.set P.eth die { Tab.get {} P.eth die with qps := Tab.set (Tab.get {} P.eth die).qps qp q } }

end Sys2Proof.Machine
end

