-- ==== Sys2Proof/Machine/Gates.lean ====
section
/-! DEFINITION. Headgates: the five gate instructions, the gate record, what the home does with an operation, and its
answer, timeout, retry, redirect and closing (17_partitions.md R399 to R406). -/

namespace Sys2Proof.Machine

/-! ## The gate object (R399, R400) -/

/-- A gate: its object's device-physical address and the first 256 bytes. -/
structure Gate where
  at_ : Nat
  raw : List Byte
  deriving DecidableEq, Repr

namespace Gate

def state (g : Gate) : Nat := fld g.raw 0 1 % 4
def mcount (g : Gate) : Nat := fld g.raw 1 1
def mhead (g : Gate) : Nat := fld g.raw 2 1
def counter (g : Gate) : Nat := fld g.raw 8 8
def seq (g : Gate) : Nat := fld g.raw 0x10 8
def acl (g : Gate) (e : Nat) : Nat := fld g.raw (0x20 + 8 * e) 8
def mmeta (g : Gate) (s : Nat) : Nat := fld g.raw (0xA0 + 8 * s) 8

/-- HANDLE is the handle, and every reserved field is 0. -/
def formed (g : Gate) (handle : Nat) : Bool :=
  fld g.raw 4 2 == handle && fld g.raw 0 1 < 3 && g.mcount ≤ 8 && g.mhead < 8 && fld g.raw 3 1 == 0 && fld g.raw 0xE0 32 == 0 &&
    ((List.range 16).all fun e => bits (g.acl e) 56 8 == 0) && (List.range 8).all fun k => bits (g.mmeta k) 14 2 == 0

/-- The access entry of a partition: the lowest valid one that names it. -/
def entryOf (g : Gate) (part : Nat) : Option Nat :=
  (List.range 16).find? fun e => bitAt (g.acl e) 14 && bits (g.acl e) 0 14 == part

end Gate

/-- The object's address that a handle names through a partition's GATEDIR; none where a check of the directory fails. -/
def gateAt (s : State) (part handle : Nat) : Option Nat :=
  let d := (s.partOf part).gateDir.toNat
  if !bitAt d 0 || bits d 1 11 != 0 || bits d 53 11 != 0 then none
  else
    let e := ofLe (Memory.readBytes s.mem (bits d 12 41 <<< 12 + 8 * handle) 8)
    if !bitAt e 0 || bits e 1 8 != 0 || bits e 53 11 != 0 then none else some (bits e 9 44 <<< 9)

def gateOf (s : State) (a : Nat) : Gate := { at_ := a, raw := Memory.readBytes s.mem a 256 }

def putGate (s : State) (g : Gate) (o : Nat) (bs : List Byte) : State := { s with mem := Memory.writeBytes s.mem (g.at_ + o) bs }

/-- The package that homes an object. -/
def gateHome (a : Nat) : Nat := a >>> 44

/-! ## The instructions (R402, R403) -/

def rightBit : GateKind → Nat
  | .sig => 1 | .wait => 2 | .send => 4 | .take => 8 | .qry => 15

def setGateOp (s : State) (id : Nat) (g : GateOp) : State := { s with gates := Tab.set s.gates id g }

/-- Sends an operation to the object at a: at once where the unit's own package homes it, and otherwise as a GATE message
of the plane's port, when that takes it (05_fabric.md R95, R98, R100). -/
def injectGate (s : State) (id : Nat) (g : GateOp) (a : Nat) : State :=
  let pkg := gatePkg s g
  let plane := planeOf s pkg a
  if gateHome a == pkg || remoteLost s pkg (gateHome a) then setGateOp s id { g with state := .sent, home := a, stamp := 0 }
  else if !portOpen s pkg a then setGateOp s id { g with state := .queued, home := a, stamp := 0 }
  else
    let q := takeSeq s pkg plane
    setGateOp { q.2 with nextId := s.nextId + 1 } id
      { g with state := .sent, home := a, plane := plane, origin := plane, seq := q.1, ver := (s.pkgOf pkg).ver.toNat
               replay := false, recorded := none, stamp := s.nextId }

/-- An operation sent to its gate; its unit waits. -/
def sendGate (s : State) (I : Issuer) (g : GateOp) : Act :=
  let id := s.nextId
  let g := { g with olds := g.dests.map I.notes64 }
  let s := g.dests.foldl (fun s r => empty64 s I r) s
  let s := setGateOp { s with nextId := id + 1 } id g
  .wait (match gateAt s g.part g.handle with
    | some a => injectGate s id g a
    | none => s) (.gate id)

def gateOp (I : Issuer) (kind : GateKind) (handle : DWord) : GateOp :=
  { unit := I.u, kind := kind, part := I.blk.part, ctx := I.blk.ctx, atH := I.st.level == .h, handle := handle.toNat }

/-- The frame: registers, sources, and the handle's limit. -/
def gateFrame (i : Instr) (s : State) (srcs dsts : List (BitVec 5)) (k : Issuer → List DWord → Act) :
    Host.Outcome State Fault Refusal :=
  onUnit i s fun I =>
    if !(srcs ++ dsts).all (fun r => I.pairOk r.toNat) then I.bad .illegalOperand
    else withSrcs I (srcs.flatMap fun r => I.src64 r.toNat) (dsts.flatMap fun r => I.src64 r.toNat) fun _ =>
      let vs := srcs.map fun r => I.r64 r.toNat
      if 65536 ≤ (vs.headD 0).toNat then I.bad .illegalOperand else k I vs

/-- An address operand: 32-byte aligned, bits 63 to 52 zero. -/
def gateAddrOk (a : DWord) : Bool := a.toNat % 32 == 0 && bits a.toNat 52 12 == 0

/-- HGSEND, a release at PART (08_ordering.md R181), reads its message and sends it. -/
def execHgsend (f : EE) (s : State) : Host.Outcome State Fault Refusal :=
  gateFrame (.hgsend f) s [f.ra, f.rb, f.rc] [f.rd] fun I vs =>
    let va := vs.getD 1 0
    let nb := vs.getD 2 0
    if !gateAddrOk va || 2 ≤ nb.toNat then I.bad .illegalOperand
    else if unperformed s I.u I.mask s.nextId 5 then .stall
    else (syncRead s I va.toNat 32).andThen fun s m =>
      sendGate s I { gateOp I .send (vs.headD 0) with nb := nb == 1, msg := m, dests := [f.rd.toNat] }

/-- HGSIG, a release at PART. -/
def execHgsig (f : EE) (s : State) : Host.Outcome State Fault Refusal :=
  gateFrame (.hgsig f) s [f.ra, f.rb] [] fun I vs =>
    let n := vs.getD 1 0
    if n == 0 || 2 ^ 32 ≤ n.toNat then I.bad .illegalOperand
    else if unperformed s I.u I.mask s.nextId 5 then .stall
    else sendGate s I { gateOp I .sig (vs.headD 0) with opnd := n }

def execHgwait (f : EE) (s : State) : Host.Outcome State Fault Refusal :=
  gateFrame (.hgwait f) s [f.ra, f.rb, f.rc] [f.rd] fun I vs =>
    let t := vs.getD 2 0
    if 2 ^ 32 ≤ t.toNat then I.bad .illegalOperand
    else sendGate s I { gateOp I .wait (vs.headD 0) with
      opnd := vs.getD 1 0, timeout := if I.blk.node.det then 0 else t.toNat, dests := [f.rd.toNat] }

def execHgtake (f : EE) (s : State) : Host.Outcome State Fault Refusal :=
  gateFrame (.hgtake f) s [f.ra, f.rb, f.rc] [f.rd] fun I vs =>
    let va := vs.getD 1 0
    let nb := vs.getD 2 0
    if !gateAddrOk va || 2 ≤ nb.toNat then I.bad .illegalOperand
    else (syncXlate s I true va.toNat 32).andThen fun s ps =>
      sendGate s I { gateOp I .take (vs.headD 0) with
        nb := nb == 1, gpa := (ps.map fun p => p.gpa).headD 0, va := va.toNat, cnt := ps.any fun p => p.cnt, dests := [f.rd.toNat] }

def execHgqry (f : EE) (s : State) : Host.Outcome State Fault Refusal :=
  gateFrame (.hgqry f) s [f.ra] [f.rb, f.rd] fun I vs =>
    sendGate s I { gateOp I .qry (vs.headD 0) with dests := [f.rb.toNat, f.rd.toNat] }

/-! ## At the home (R403, R404) -/

/-- TRAPINFO of a gate cause. -/
def gateTrap (g : GateOp) (state : Nat) (c : Cause) (refill : Nat) : Trap :=
  { cause := c, info := BitVec.ofNat 64 (g.handle + rightBit g.kind <<< 16 + state <<< 20 + (refill % 2 ^ 32) <<< 32) }

/-- SEQ advances by one; the number taken is the old one. -/
def takeNumber (s : State) (G : Gate) : State := putGate s G 0x10 (leBytes 8 (G.seq + 1))

/-- The operation has been performed: its answer starts back, and its number goes into the home's window (R102). -/
def answer (s : State) (id : Nat) (g : GateOp) (rs : List DWord) : State :=
  let s := if g.stamp == 0 then s
    else s.updPkg (gateHome g.home) fun p => windowPut p (gatePkg s g) g.origin g.seq {}
  setGateOp s id { g with state := .answered rs }

/-- Deposits a message. -/
def deposit (s : State) (G : Gate) (g : GateOp) : State :=
  let k := (G.mhead + G.mcount) % 8
  let s := putGate s G (0x100 + 32 * k) g.msg
  let s := putGate s G (0xA0 + 8 * k) (leBytes 8 (g.part + (G.seq % 2 ^ 48) <<< 16))
  putGate (takeNumber s G) G 1 [BitVec.ofNat 8 (G.mcount + 1)]

/-- Removes the oldest message: the state, the message and the result word. -/
def withdraw (s : State) (G : Gate) : State × List Byte × DWord :=
  let m := Memory.readBytes s.mem (G.at_ + 0x100 + 32 * G.mhead) 32
  let t := G.mmeta G.mhead
  let s := putGate (takeNumber s G) G 2 [BitVec.ofNat 8 ((G.mhead + 1) % 8)]
  (putGate s G 1 [BitVec.ofNat 8 (G.mcount - 1)], m, BitVec.ofNat 64 (2 ^ 63 + bits t 16 32 <<< 16 + bits t 0 14))

/-- Performs an admitted operation, or holds it. An HGTAKE whose destination has been sealed since it was translated takes
no message (08_ordering.md R189; log 89). -/
def performGate (s : State) (id : Nat) (g : GateOp) (a : Nat) : State :=
  let G := gateOf s a
  match g.kind with
  | .send =>
    if G.mcount < 8 then answer (deposit s G g) id g [0]
    else if g.nb then answer (takeNumber s G) id g [1]
    else setGateOp s id { g with state := .heldSlot, home := a, since := s.now }
  | .sig => answer (putGate (takeNumber s G) G 8 (leBytes 8 (G.counter + g.opnd.toNat))) id g []
  | .wait =>
    if g.opnd.toNat ≤ G.counter then answer (takeNumber s G) id g [BitVec.ofNat 64 G.counter]
    else setGateOp s id { g with state := .waiting, home := a, since := s.now }
  | .take =>
    if G.mcount == 0 then
      (if g.nb then answer (takeNumber s G) id g [0] else setGateOp s id { g with state := .heldSlot, home := a, since := s.now })
    else if isSealed s g.part (g.gpa) then
      setGateOp s id { g with state := .trapped { cause := .protection, info := faultInfo g.va 0 3 true 1 } }
    else
      let r := withdraw s G
      answer r.1 id { g with msg := r.2.1 } [r.2.2]
  | .qry =>
    let rights := match G.entryOf g.part with
      | some e => bits (G.acl e) 16 4
      | none => 0
    answer s id g [BitVec.ofNat 64 G.counter,
      BitVec.ofNat 64 (G.state + G.mcount <<< 8 + rights <<< 16 + (G.seq % 2 ^ 32) <<< 32)]

/-- The tick of the next refill. -/
def nextRefill (s : State) : Nat := (s.now / 10000 + 1) * 10000

/-- Admits an operation whose other checks have passed: spends its token, waits for one, or traps. -/
def admitGate (s : State) (id : Nat) (g : GateOp) (a : Nat) : State :=
  let G := gateOf s a
  match if g.atH || g.kind == .qry then none else G.entryOf g.part with
  | none => performGate s id g a
  | some e =>
    let w := G.acl e
    if bits w 20 12 == 0 then performGate s id g a
    else if bits w 44 12 == 0 then
      (if bitAt w 15 then setGateOp s id { g with state := .trapped (gateTrap g G.state .gateRate (nextRefill s)) }
       else setGateOp s id { g with state := .heldToken, home := a, since := s.now })
    else performGate (putGate s G (0x20 + 8 * e) (leBytes 8 (w - 2 ^ 44))) id g a

/-- Operations of a gate that its unit holds, in arrival order. -/
def heldAtGate (s : State) (a : Nat) (p : GateOp → Bool) : List (Nat × GateOp) :=
  let l := s.gates.filter fun x => x.2.home == a && p x.2
  l.foldr (fun x acc => (acc.takeWhile fun y => y.2.order < x.2.order) ++ [x] ++ acc.dropWhile fun y => y.2.order < x.2.order) []

def GateOp.isHeld (g : GateOp) : Bool := g.state == .heldSlot || g.state == .waiting
def GateOp.inTable (g : GateOp) : Bool := g.isHeld || g.state == .heldToken

/-- Serves what can now be served at a gate: waits whose threshold is reached, takes that find a message, sends that
find a slot; each in arrival order. -/
def serveGate (s : State) (a : Nat) : Nat → State
  | 0 => s
  | f + 1 =>
    let G := gateOf s a
    let due := fun g : GateOp =>
      match g.kind with
      | .wait => g.state == .waiting && g.opnd.toNat ≤ G.counter
      | .take => g.state == .heldSlot && G.mcount != 0
      | .send => g.state == .heldSlot && G.mcount < 8
      | _ => false
    match heldAtGate s a due with
    | [] => s
    | x :: _ => serveGate (performGate s x.1 x.2 a) a f

/-- Whether the object's memory can be read. -/
def gateBadUnit (s : State) (a : Nat) : Option Nat :=
  if (List.range 16).any fun u => s.bad.contains (a / 32 + u) then some (memKind a) else none

/-- The operations that wait for a token are admitted while their entry has one, in arrival order (R401). -/
def admitWaiting (s : State) (a : Nat) : State :=
  (heldAtGate s a fun g => g.state == .heldToken).foldl (fun s x =>
    let G := gateOf s a
    match G.entryOf x.2.part with
    | some e =>
      let w := G.acl e
      if G.state == 0 && (bits w 20 12 == 0 || bits w 44 12 != 0) then serveGate (admitGate s x.1 x.2 a) a (s.gates.length + 1) else s
    | none => s) s

/-- Admission of an operation, behind those that wait for a token. With 1,024 operations held in the unit, one that would
have to wait is turned away, without effect (R404). -/
def admitNew (s : State) (id : Nat) (g : GateOp) (a : Nat) : State :=
  let s := admitWaiting s a
  let t := admitGate s id g a
  let full := 1024 ≤ (s.gates.filter fun x => x.1 != id && x.2.inTable && gateHome x.2.home == gateHome a).length
  if full && (Tab.find t.gates id).any (·.inTable) then setGateOp s id { g with state := .tableFull, since := s.now, order := 0 }
  else serveGate t a (s.gates.length + 1)

/-- The home takes an operation: the checks of R403 from the record on, then admission. -/
def arriveGate (s : State) (id : Nat) (g : GateOp) (a : Nat) : State :=
  let G := gateOf s a
  let g := { g with home := a, order := if g.order == 0 then s.nextId else g.order }
  let s := { s with nextId := s.nextId + 1 }
  let fail := fun c : Cause => setGateOp s id { g with state := .trapped (gateTrap g G.state c 0) }
  match gateBadUnit s a with
  | some k => setGateOp s id { g with state := .trapped { cause := .memerr, detail := BitVec.ofNat 16 k } }
  | none =>
    if !G.formed g.handle then fail .gateBad
    else if G.state == 2 then setGateOp s id { g with state := .heldMigr, home := a }
    else if G.state == 1 && g.kind != .qry then fail .gateClosed
    else if !g.atH && !((G.entryOf g.part).any fun e => bits (G.acl e) 16 4 &&& rightBit g.kind != 0) then fail .gateDenied
    else admitNew s id g a

/-! ## GATE messages among the others (05_fabric.md R97 to R99, R102) -/

def msgPerformed (m : Msg) : Bool :=
  match m.state with
  | .answered _ => true
  | _ => false

/-- An earlier request of the same package to the same line has not been performed (R101). -/
def lineBusy (s : State) (id : Nat) (m : Msg) (d : Nat) : Bool :=
  s.msgs.any fun x => x.1 < id && x.2.req.pkg == m.req.pkg && !msgPerformed x.2 &&
    match x.2.tgt with
    | .dev e => e / 64 == d / 64
    | .host _ => false

/-- A message that a package sent to the home earlier, on the same plane, is on its way, and does not wait for its line
(R97; log 69). -/
def sentBefore (s : State) (pkg plane home stamp : Nat) : Bool :=
  (s.msgs.any fun x => x.2.req.pkg == pkg && x.2.plane == plane && x.2.state == MsgState.flying && decide (x.2.stamp < stamp) &&
    match x.2.tgt with
    | .dev e => e >>> 44 == home && !lineBusy s x.1 x.2 e
    | .host _ => false) ||
  s.gates.any fun x => x.2.stamp != 0 && decide (x.2.stamp < stamp) && x.2.state == GateState.sent && x.2.plane == plane &&
    gateHome x.2.home == home && gatePkg s x.2 == pkg

def insertId (n : Nat) : List Nat → List Nat
  | [] => [n]
  | x :: t => if n ≤ x then n :: x :: t else x :: insertId n t

/-- Every request of a package that waits for its bucket or its port is injected if it can be, in issue order. -/
def injectQueued (s : State) (pkg : Nat) : State :=
  let ms := (s.msgs.filter fun m => m.2.req.pkg == pkg && decide (m.2.state = MsgState.queued)).map (·.1)
  let gs := (s.gates.filter fun g => gatePkg s g.2 == pkg && decide (g.2.state = GateState.queued)).map (·.1)
  let one := fun (s : State) (id : Nat) => match Tab.find s.gates id with
    | some g => if ms.contains id then inject s id else injectGate s id g g.home
    | none => inject s id
  ((ms ++ gs).foldr insertId []).foldl one s

/-- Whether version a is ahead of version b (R99). -/
def verAhead (a b : Nat) : Bool :=
  let d := (a + 65536 - b) % 65536
  1 ≤ d && d ≤ 32767

/-- A GATE message at its home: a replay of what was performed has its recorded result; else its plane is checked against
the home's map. -/
def gateMapped (s : State) (id : Nat) (g : GateOp) (a : Nat) : State :=
  let p := s.pkgOf (gateHome a)
  match g.replay, g.recorded with
  | true, some r => setGateOp s id { g with state := r }
  | _, _ =>
    if g.stamp == 0 || g.replay || Tab.get 0 p.map (bucketOf a) == g.plane then countWaiters (arriveGate s id g a) a
    else if verAhead g.ver p.ver.toNat then setGateOp s id { g with state := .heldMap }
    else setGateOp s id { g with state := .retryBack p.ver.toNat }

/-- An operation that arrived at its gate before, and is to come before this one: both met MIGRATING (R406). -/
def redirectBefore (s : State) (g : GateOp) (a : Nat) : Bool :=
  g.order != 0 && s.gates.any fun x => x.2.home == a && x.2.order != 0 && decide (x.2.order < g.order) && !x.2.inTable &&
    (match x.2.state with
     | .answered _ => false
     | .trapped _ => false
     | _ => true)

/-- MEMERR of kind REMOTE at an operation whose home the package has lost (R106; log 90). -/
def gateLost : Trap := { cause := .memerr, detail := 4 }

/-- GATE: operation idx of the subject reaches its gate's home, or, while its port did not take it, is sent there. One that
finds its gate moved is sent to the new home. -/
def execGate (s : State) : Host.Outcome State Fault Refusal :=
  let id := s.subject.idx
  match Tab.find s.gates id with
  | none => .next s
  | some g =>
    match issuerOf s g.unit 0 with
    | none => .next s
    | some I =>
      match gateAt s g.part g.handle with
      | none => if g.state != .sent then .next s else
          .next (setGateOp s id { g with state := .trapped (gateTrap g 0 .gateBad 0) })
      | some a =>
        let again := g.state == .heldMigr && g.home == a && (gateOf s a).state != 2
        if g.state == .queued && (portOpen s I.blk.pkg a || remoteLost s I.blk.pkg (gateHome a)) then .next (injectGate s id g a)
        else if !(g.state == .sent || again) then .next s
        else if remoteLost s I.blk.pkg (gateHome a) then .next (setGateOp s id { g with state := .trapped gateLost })
        else if g.stamp != 0 && g.home != a then .next (injectGate s id g a)
        else if redirectBefore s g a || (g.stamp != 0 && sentBefore s I.blk.pkg g.plane (gateHome a) g.stamp) then .next s
        else .next (gateMapped s id g a)

/-! ## The answer and the other steps -/

/-- Stores a taken message as a store of the issuer. -/
def storeTaken (s : State) (I : Issuer) (g : GateOp) : State :=
  let id := s.nextId
  let lane : LaneOp := { key := 0, off := g.gpa % 64, act := .wr g.msg, va := g.va, thread := I.threads.headD 0 }
  let r := sendLines { s with nextId := id + 1 } I true id [{ line := g.gpa / 64, cnt := g.cnt, ops := [lane] }]
  if r.waiting == 0 then addDue r.s I.u (r.ans.errs.map (·.2))
  else
    let op : PendOp := { unit := I.u, dest := .none, ter := I.ter, keys := [0], waiting := r.waiting, lanes := I.mask }
    { r.s with ops := Tab.set r.s.ops id op }

/-- GATE_ANSWER: the answer to operation idx reaches its unit. -/
def execGateAnswer (s : State) : Host.Outcome State Fault Refusal :=
  let id := s.subject.idx
  match Tab.find s.gates id with
  | none => .next s
  | some g =>
    match issuerOf s g.unit 0 with
    | none => .next s
    | some I =>
      if I.st.wait != .gate id then .next s
      else match g.state with
        | .answered rs =>
          let s := injectQueued { s with gates := Tab.del s.gates id } I.blk.pkg
          let s := if g.kind == .take && (rs.headD 0).getLsbD 63 then storeTaken s I g else s
          .next (complete ((g.dests.zip rs).foldl (fun s x => write64 s I x.1 x.2) s) I)
        | .trapped t =>
          let s := injectQueued (withdrawGate s I id) I.blk.pkg
          .next (takeTrap (updStrand s I.u fun c => { c with wait := .none }) I.u t)
        | _ => .next s

/-- Every handle whose object a package homes. -/
def homedGates (s : State) (pkg : Nat) : List Nat :=
  match (s.parts.find? fun p => p.2.gateDir.getLsbD 0) with
  | none => []
  | some p => (List.range 65536).filterMap fun h => (gateAt s p.1 h).filter fun a => gateHome a == pkg

/-- One refill of every access entry of a gate, then the operations that waited for a token. -/
def refillGate (s : State) (a : Nat) : State :=
  let s := (List.range 16).foldl (fun s e =>
    let G := gateOf s a
    let w := G.acl e
    let rate := bits w 20 12
    if rate == 0 then s
    else
      let t := min (bits w 32 12) (bits w 44 12 + rate)
      putGate s G (0x20 + 8 * e) (leBytes 8 (w - bits w 44 12 <<< 44 + t <<< 44))) s
  countWaiters (admitWaiting s a) a

/-- GATE_TOKEN_REFILL: the gates that the subject's package homes pass a multiple of 10,000 ticks. -/
def execGateTokenRefill (s : State) : Host.Outcome State Fault Refusal :=
  let pkg := s.subject.pkg
  match Tab.find s.pkgs pkg with
  | none => .next s
  | some p =>
    if s.now / 10000 ≤ p.refills then .next s
    else .next ((homedGates s pkg).foldl refillGate (s.updPkg pkg fun p => { p with refills := p.refills + 1 }))

/-- The gate at which an operation is held is being moved, or has been: the operation goes with it (R406). -/
def gateMoves (s : State) (g : GateOp) : Bool := (gateOf s g.home).state == 2 || gateAt s g.part g.handle != some g.home

/-- HGWAIT_TIMEOUT: operation idx has waited for its timeout. It takes its number at the object that the gate has moved to. -/
def execHgwaitTimeout (s : State) : Host.Outcome State Fault Refusal :=
  let id := s.subject.idx
  match Tab.find s.gates id with
  | none => .next s
  | some g =>
    if g.state != .waiting || g.timeout == 0 || gateMoves s g || s.now < g.since + 100 * g.timeout then .next s
    else
      let G := gateOf s g.home
      .next (countWaiters (answer (takeNumber s G) id g [BitVec.ofNat 64 G.counter]) g.home)

/-- GATE_TABLE_RETRY: operation idx found the table full a reference microsecond ago. -/
def execGateTableRetry (s : State) : Host.Outcome State Fault Refusal :=
  let id := s.subject.idx
  match Tab.find s.gates id with
  | none => .next s
  | some g => if g.state != .tableFull || s.now < g.since + 100 then .next s else .next (setGateOp s id { g with state := .sent })

/-- The gate at an object has moved to a: what is held there has been copied with its order, and what met MIGRATING is sent
again, in the order of its arrival. -/
def moveGate (s : State) (old a : Nat) : State :=
  let copied := heldAtGate s old GateOp.inTable
  let later := heldAtGate s old fun g => g.state == .heldMigr
  let s := copied.foldl (fun s x => setGateOp s x.1 { x.2 with home := a }) s
  let s := serveGate s a (s.gates.length + 1)
  countWaiters (later.foldl (fun s x => injectGate s x.1 x.2 a) s) a

/-- GATE_REDIRECT: the directory names another object than the one at which operation idx is held. -/
def execGateRedirect (s : State) : Host.Outcome State Fault Refusal :=
  match Tab.find s.gates s.subject.idx with
  | none => .next s
  | some g =>
    match gateAt s g.part g.handle with
    | none => .next s
    | some a => if a == g.home || !(g.state == .heldMigr || g.inTable) then .next s else .next (moveGate s g.home a)

/-- GATE_CLOSE: H closes the gate of handle idx, named through the subject's partition; every held or waiting operation
on it ends with GATE_CLOSED. -/
def execGateClose (s : State) : Host.Outcome State Fault Refusal :=
  match gateAt s s.subject.part s.subject.idx with
  | none => .next s
  | some a =>
    let s := putGate s (gateOf s a) 0 [1]
    let s := { s with gates := s.gates.map fun x : Nat × GateOp =>
      if x.2.home == a && (x.2.inTable || x.2.state == .tableFull) then
        (x.1, { x.2 with state := .trapped (gateTrap x.2 1 .gateClosed 0) }) else x }
    .next (countWaiters s a)

end Sys2Proof.Machine
end

