-- ==== Sys2Proof/Machine/Preempt.lean ====
section
/-! DEFINITION. Pre-emption: requests and their save slots, the grace halt, the kill, the images of a saved block, its
save and its resume, and H's answer to a held slot (15_scheduling.md R351, R361, 16_traps.md R367, R376 to R385,
09_registers.md R197, R198). -/

namespace Sys2Proof.Machine

/-! ## Requests (R376, R380, R382) -/

/-- The resident blocks of a context on a set of cores. -/
def blocksOn (s : State) (part : Nat) (ctx : Word) (cores : List Nat) : List (Nat × Block) :=
  s.blocks.filter fun e => e.2.part == part && e.2.ctx == ctx && cores.contains e.2.core

/-- The cores of a list, and those of the other blocks of the GANG nodes that have a block there. -/
def gangStep (s : State) (part : Nat) (ctx : Word) (cores : List Nat) : List Nat :=
  let seqs := ((blocksOn s part ctx cores).filter fun e => e.2.node.gang).map fun e => e.2.seq
  (cores ++ (s.blocks.filter fun e => e.2.part == part && seqs.contains e.2.seq).map fun e => e.2.core).eraseDups

/-- The cores of a request: every GANG node's blocks go together, and so do those of the GANG nodes on the cores that this
adds (R351). -/
def gangCores (s : State) (part : Nat) (ctx : Word) (cores : List Nat) : List Nat :=
  (List.range (s.blocks.length + 1)).foldl (fun cs _ => gangStep s part ctx cs) cores

/-- The lowest n free slots of a save area. -/
def freeSlots (s : State) (part : Nat) (ctx : Word) (R : CtxRec) (n : Nat) : State × Option (List Nat) :=
  match ctxReadAt s part ctx .h R.savebase ((R.nslot + 7) / 8) with
  | (s', some l) =>
    let free := (List.range R.nslot).filter fun i => !bitAt (ofLe l) i
    (s', if n ≤ free.length then some (free.take n) else none)
  | (s', none) => (s', none)

/-- Gives each block its slot and sets the slot's bit. -/
def giveSlots (s : State) (part : Nat) (ctx : Word) (R : CtxRec) (bs : List (Nat × Nat)) : State :=
  bs.foldl (fun s x =>
    let s := saveBit s part ctx R.savebase x.2 true
    s.updBlock x.1 fun B => { B with saveSlot := some { base := R.savebase, size := R.slotsize * 65536, acc := R.accarea, idx := x.2 } }) s

/-- The request of a context stands: a new one, or the one it joins, whose timers hold. -/
def standRequest (s : State) (part : Nat) (ctx : Word) (cores : List Nat) (layout : Bool) : State :=
  match s.preempts.find? fun p => p.2.part == part && p.2.ctx == ctx with
  | some p =>
    let q : Preempt := { p.2 with cores := (p.2.cores ++ cores).eraseDups, layout := p.2.layout || layout }
    { s with preempts := Tab.set s.preempts p.1 q }
  | none =>
    let q : Preempt := { part := part, ctx := ctx, cores := cores, start := s.now, layout := layout }
    { s with nextId := s.nextId + 1, preempts := Tab.set s.preempts s.nextId q }

/-- A pre-emption request: the soft stage reads the context record and takes a slot for every block; without one for
each the request is withdrawn and H is told. -/
def requestPreempt (s : State) (part : Nat) (ctx : Word) (cores : List Nat) (layout : Bool) : State :=
  let cores := gangCores s part ctx cores
  let all := blocksOn s part ctx cores
  let bs := (all.filter fun e => e.2.saveSlot.isNone).map (·.1)
  if all.isEmpty then s
  else match ctxRecord s part ctx with
  | (s, none) => s.tell (.noSaveSlot part ctx)
  | (s, some R) =>
    match freeSlots s part ctx R bs.length with
    | (s, none) => s.tell (.noSaveSlot part ctx)
    | (s, some is) => standRequest (giveSlots s part ctx R (bs.zip is)) part ctx cores layout

/-- A request names the context on the core. -/
def coreRequested (s : State) (part : Nat) (ctx : Word) (g : Nat) : Bool :=
  s.preempts.any fun p => p.2.part == part && p.2.ctx == ctx && p.2.cores.contains g

/-- A context's slice has expired on the core: it goes to the end of the round. -/
def Core.expire (c : Core) (ctx : Word) : Core := { c with turns := c.turns.filter (· != ctx) ++ [ctx] }

/-- SLICE_EXPIRY: the slice of the context that runs on core idx of the subject has expired. -/
def execSliceExpiry (s : State) : Host.Outcome State Fault Refusal :=
  let g := s.subject.idx
  match (s.coreOf g).running with
  | none => .next s
  | some (part, ctx) =>
    match layoutOf s (g / 384) part with
    | none => .next s
    | some L =>
      if (s.coreOf g).slice < L.slice.toNat || coreRequested s part ctx g then .next s
      else if otherWork s part g ctx then .next (requestPreempt (s.updCore g (·.expire ctx)) part ctx [g] false)
      else .next (s.updCore g fun c => { c with slice := 0 })

/-- H_PREEMPTION_REQUEST: H asks for the subject's context on the cores it lists. -/
def execHPreemptionRequest (s : State) : Host.Outcome State Fault Refusal :=
  let j := s.subject
  if (blocksOn s j.part j.ctx j.nums).isEmpty then .next s else .next (requestPreempt s j.part j.ctx j.nums false)

/-! ## The grace halt and the kill (R376, R378, R379) -/

def blockUnits (s : State) (b : Nat) : List UnitId :=
  .front b :: (s.quires.filter fun x => x.1 / 16 == b).flatMap fun x => [.slot b (x.1 % 16) 0, .slot b (x.1 % 16) 1]

/-- A unit that has stopped: a free slot and an ended context count as stopped. -/
def unitStopped (s : State) (u : UnitId) : Bool :=
  match issuerOf s u 0 with
  | none => true
  | some I => I.st.stop != .run

/-- Whether a halt must let the unit's instruction complete first: its effect has begun outside the unit. -/
def haltWaits (s : State) (w : Wait) : Bool :=
  match w with
  | .sweep _ => true
  | w => gatePerformed s w

/-- What the controller holds for a unit's walk goes. -/
def dropHeld (s : State) (u : UnitId) : State :=
  { s with
    held := s.held.filter fun h => match h.what with
      | .walk v _ _ _ _ => v != u
      | .sync v _ _ => v != u
      | _ => true
    pkgs := s.pkgs.map fun p : Nat × Pkg => if p.2.atsWant.isEmpty then p
      else (p.1, { p.2 with atsWant := p.2.atsWant.filter fun w => w.unit != some u }) }

/-- A cause that is raised after its instruction has completed, or for an earlier one: it is not raised by issuing the word
again. -/
def Trap.owed (t : Trap) : Bool :=
  match t.cause with
  | .instabCancel => true
  | .instabCompare => true
  | .instabZdiv => true
  | .sigMismatch => true
  | .xlockStall => true
  | .trap => true
  | _ => false

/-- A report of an earlier access (R78). -/
def Trap.imprecise (t : Trap) : Bool :=
  match t.cause with
  | .memerr => t.info.getLsbD 58
  | .align => t.info.getLsbD 58
  | .protection => t.info.getLsbD 58
  | .pageFault => t.info.getLsbD 58
  | _ => false

/-- A slot whose pop has trapped is free again: the pop is tried anew (14_control.md R333). -/
def clearPopTrap (s : State) (u : UnitId) : State :=
  match u with
  | .slot b q sl => s.updQuire (quireKey b q) fun Q => Q.setSlot sl { Q.slot sl with popTrap := false }
  | .front _ => s

/-- A halt of a unit that is held at H keeps what the position does not raise again (R367, 11_ternion.md R239). -/
def keepHeld (s : State) (u : UnitId) (w : Wait) : State :=
  match w with
  | .heldAtH t _ =>
    let s := updStrand s u fun c =>
      if t.imprecise then { c with due := t :: c.due } else if t.owed then { c with pend := t :: c.pend } else c
    clearPopTrap s u
  | _ => s

/-- A unit halts between words; a waiting instruction is taken back as not executed. -/
def haltUnit (s : State) (u : UnitId) : State :=
  match issuerOf s u 0 with
  | none => s
  | some I =>
    if I.st.stop != .run || haltWaits s I.st.wait then s
    else
      let parked := match I.st.wait with
        | .waitev _ _ => true
        | _ => false
      updStrand (keepHeld (cancelWait (dropHeld s u) u) u I.st.wait) u fun c => { c with stop := .halted parked, atXacq := I.st.wait == .xacq }

/-- The grace and kill timers of a partition on a package, in reference ticks. -/
def graceTicks (s : State) (part : Nat) : Nat := ((layoutOf s (homePkg s part) part).map fun L => L.grace.toNat * 100).getD 0
def killTicks (s : State) (part : Nat) : Nat := ((layoutOf s (homePkg s part) part).map fun L => L.kill.toNat * 100).getD 0

/-- GRACE_HALT: the grace timer of request idx has passed; every unit that has not stopped halts at its next word
boundary. It is due again while a unit that had to complete its instruction has not halted. -/
def execGraceHalt (s : State) : Host.Outcome State Fault Refusal :=
  match Tab.find s.preempts s.subject.idx with
  | none => .next s
  | some p =>
    if s.now < p.start + graceTicks s p.part then .next s
    else
      let us := (blocksOn s p.part p.ctx p.cores).flatMap fun e => blockUnits s e.1
      let s' := us.foldl haltUnit { s with preempts := Tab.set s.preempts s.subject.idx { p with grace := true } }
      if s' == s then .next s else .next s'

/-- KILL: the kill timer of request idx has passed and a block's save is incomplete; or, with the subject's flag, H
kills the subject's context. -/
def execKill (s : State) : Host.Outcome State Fault Refusal :=
  let j := s.subject
  if j.flag then
    (if (partContexts s j.part).contains j.ctx then .next (killContext s j.part j.ctx) else .next s)
  else match Tab.find s.preempts j.idx with
    | none => .next s
    | some p =>
      if s.now < p.start + killTicks s p.part || (blocksOn s p.part p.ctx p.cores).isEmpty then .next s
      else .next (killContext s p.part p.ctx)

/-! ## The images of a block (R383, R384, R198) -/

def le8 (v : DWord) : List Byte := leBytes 8 v.toNat
def le4 (v : Word) : List Byte := leBytes 4 v.toNat
def pad (n : Nat) : List Byte := leBytes n 0

/-- The header address of a strand, which at a header is the pc. -/
def Strand.hdrAt (c : Strand) : DWord := if c.left == 0 then c.pc else c.hdr

def handlerBits (c : Strand) : Nat := (if c.trapU.inHandler then 1 else 0) + (if c.trapS.inHandler then 2 else 0)

def slotFlags (x : Slot) : Nat :=
  (if x.free then 1 else 0) + (if x.ctl.due.isEmpty && x.ctl.pend.isEmpty then 0 else 2) +
    (match x.ctl.stop with
     | .halted true => 4
     | _ => 0)

def slotImage (x : Slot) : List Byte :=
  le8 x.ctl.pc ++ le8 x.ctl.hdrAt ++ leBytes 12 x.mask.toNat ++ leBytes 4 x.innermost ++ leBytes 1 x.ctl.level.num ++
    leBytes 1 (handlerBits x.ctl) ++ leBytes 2 (slotFlags x) ++ pad 12

def trapImage (L : LevelTrap) : List Byte :=
  le8 L.regs.pc ++ le4 L.regs.cause ++ pad 4 ++ leBytes 12 L.regs.mask.toNat ++ pad 4 ++ le8 L.regs.info ++
    leBytes 12 L.savedK15.toNat ++ pad 12

def bankImage (c : Strand) (first n width : Nat) : List Byte :=
  (List.range n).flatMap fun i => leBytes width (Tab.get { val := 0 } c.bank (first + i)).val.toNat

def recImage (r : JoinRec) : List Byte :=
  leBytes 4 r.id ++ leBytes 1 r.kind ++ pad 3 ++ le8 r.jpc ++ leBytes 12 r.expect.toNat ++ leBytes 4 r.parent ++
    leBytes 12 r.arrived.toNat ++ pad 4

/-- A count and entries of a queue of 16. -/
def queueImage (l : List DWord) : List Byte := leBytes 8 l.length ++ l.flatMap le8 ++ pad (8 * (16 - l.length))

/-- A quire's control image. -/
def quireImage (Q : Quire) : List Byte :=
  slotImage Q.s0 ++ slotImage Q.s1 ++
    (leBytes 1 (if Q.ter then 1 else 0) ++ leBytes 1 Q.mtrip ++ pad 2 ++ le4 Q.tctl ++ le4 Q.tstat ++ le4 Q.fpctl ++
      le8 Q.sigv ++ le8 Q.dstack ++ leBytes 4 Q.recCtr ++ pad 60) ++
    trapImage Q.s0.ctl.trapU ++ trapImage Q.s0.ctl.trapS ++ trapImage Q.s1.ctl.trapU ++ trapImage Q.s1.ctl.trapS ++
    bankImage Q.s0.ctl 24 8 4 ++ bankImage Q.s1.ctl 24 8 4 ++ queueImage Q.q0 ++ pad 0x38 ++
    ((List.range 96).flatMap fun i => le4 (Tab.get 0 Q.icnt i)) ++ pad 0x40 ++
    Q.recs.flatMap recImage ++ pad (48 * (64 - Q.recs.length)) ++ pad 0xF80

/-- The trap registers of a front-end context, 32 bytes. -/
def frontTrapImage (L : LevelTrap) : List Byte := le8 L.regs.pc ++ le4 L.regs.cause ++ pad 4 ++ le8 L.regs.info ++ pad 8

def frontControl (B : Block) : List Byte :=
  let c := B.front.ctl
  le8 c.pc ++ le8 c.hdrAt ++ leBytes 1 c.level.num ++ leBytes 1 (handlerBits c) ++ le4 B.front.fpctl ++ le4 B.ovf ++
    frontTrapImage c.trapU ++ frontTrapImage c.trapS ++ bankImage c 26 5 8 ++ pad 0x7E

/-- A unit's issuer at level U, for its register image. -/
def imageIssuer (b : Nat) (B : Block) (Q : Quire) (q : Nat) (fe : Bool) : Issuer :=
  { u := if fe then .front b else .slot b q 0, b := b, q := q, sl := 0, fe := fe, blk := B, qr := Q, st := {}, mask := 0, word := 0 }

/-- Every register of an image; k0 and x0 hold nothing. -/
def imageRegs (I : Issuer) : Named :=
  if I.fe then { v := [], s := [], k := [], c := List.range 8, x := List.range 32 }
  else { v := List.range (min 64 I.baseCount), s := List.range 32, k := (List.range 16).drop 1, c := List.range 8, x := [] }

def regImage (I : Issuer) : List (Nat × List Byte) :=
  saveParts I (imageRegs I) 0 ++ if I.fe then [] else [(0x80, pad 16)]

/-- The image of pair n's extended set. -/
def extImage (B : Block) (qs : List (Nat × Quire)) (n : Nat) : List (Nat × List Byte) :=
  let E := Tab.get [] B.ext n
  let v := fun r : Nat => Tab.get ({} : VReg) E (64 + r)
  let notes := (List.range 64).filterMap fun r => (v r).note.map (noteBytes 0 (64 + r))
  let lock := match (Tab.get {} B.locks n).holder with
    | some q => 1 + q % 2
    | none => 0
  let waits := bitsOf 2 fun i => (Tab.find qs (2 * n + i)).any fun Q => Q.s0.ctl.atXacq || Q.s1.ctl.atXacq
  ((List.range 64).map fun r => (384 * r, (List.range 96).flatMap fun l => le4 ((v r).at l))) ++
    [(0x6000, leBytes 8 (bitsOf 64 fun r => (v r).full) ++ leBytes 1 lock ++ leBytes 1 waits ++ leBytes 2 notes.length ++ pad 52 ++ notes.flatten)]

def statImage (t : Nat × List Nat) : List Byte := leBytes 4 t.1 ++ pad 4 ++ ((List.range 6).flatMap fun k => leBytes 8 (t.2.getD k 0)) ++ pad 8

/-- Pairs of quires of a block that has extended sets. -/
def extPairs (B : Block) : List Nat := if B.node.ext then List.range ((B.nq + 1) / 2) else []

def blockHeader (s : State) (B : Block) (qs : List (Nat × Quire)) (halted : Bool) : List Byte :=
  le8 B.nodeVa ++ leBytes 4 B.idx ++ leBytes 1 B.nq ++ leBytes 1 (if halted then 1 else 0) ++
    leBytes 2 (bitsOf 16 fun q => (Tab.get {} qs q).arrival.isSome) ++ leBytes 4 (logicalCore s B.part B.core) ++
    leBytes 4 B.stats.length ++ pad 0xE8

/-- Everything that a block slot holds, by offset. -/
def blockImage (s : State) (b : Nat) (B : Block) (qs : List (Nat × Quire)) (halted : Bool) : List (Nat × List Byte) :=
  let at_ := fun (o : Nat) (l : List (Nat × List Byte)) => l.map fun w => (o + w.1, w.2)
  [(0, blockHeader s B qs halted), (0x100, frontControl B)] ++ at_ 0x200 (regImage (imageIssuer b B {} 0 true)) ++
    [(0x720, ((List.range 16).flatMap fun n => le8 (if B.node.tmaps.getLsbD n then Tab.get 0 (s.coreOf B.core).t n else 0))),
     (0x800, queueImage B.q1 ++ ((List.range 6).flatMap fun j => queueImage (Tab.get [] B.roleQ (j + 2))))] ++
    ([8, 9, 10, 11].map fun q => (pairImageAt q, pairImage (Tab.get [] B.pairs q))) ++
    (qs.flatMap fun q => (0x2000 + 0x2000 * q.1, quireImage q.2) ::
      at_ (0x22000 + 0x8000 * q.1) (regImage (imageIssuer b B q.2 q.1 false))) ++
    ((extPairs B).flatMap fun n => at_ (0xA2000 + 0x8000 * n) (extImage B qs n)) ++
    B.stats.zipIdx.map fun t => (0xE2000 + 64 * t.2, statImage t.1)

/-! ## Live maps at a safe point (R377, R47) -/

/-- What a unit keeps: every register, or those that a live-map entry names; none for a free slot. -/
inductive Keep where
  | every
  | named (n : Named)
  deriving DecidableEq, Repr

def noNamed : Named := { v := [], s := [], k := [], c := [], x := [] }

def Keep.join (a b : Keep) : Keep :=
  match a, b with
  | .named x, .named y => .named { v := x.v ++ y.v, s := x.s ++ y.s, k := x.k ++ y.k, c := x.c ++ y.c, x := x.x ++ y.x }
  | _, _ => .every

/-- What a stopped unit keeps; none where its live map cannot be read, or breaks R46. -/
def keepOf (s : State) (B : Block) (u : UnitId) : State × Option Keep :=
  match issuerOf s u 0 with
  | none => (s, some (.named noNamed))
  | some I =>
    match I.st.stop with
    | .safePoint live =>
      let r := ctxReadAt s B.part B.ctx .u (B.node.live.toNat + 32 * live) 32
      (r.1, (r.2.bind parseLive).map fun e => .named e.named)
    | _ => (s, some .every)

/-- What every unit of a block keeps: none where one's live map fails. -/
def keepsOf (s : State) (B : Block) (us : List UnitId) : State × Option (List (UnitId × Keep)) :=
  us.foldl (fun r u =>
    let x := keepOf r.1 B u
    (x.1, match r.2, x.2 with
      | some l, some k => some (l ++ [(u, k)])
      | _, _ => none)) (s, some [])

def keepQuire (k : Keep) (Q : Quire) : Quire :=
  match k with
  | .every => Q
  | .named n =>
    { Q with
      v := Q.v.filter fun e => n.v.contains e.1
      s := Q.s.filter fun e => n.s.contains e.1
      k := Q.k.filter fun e => n.k.contains e.1
      c := Q.c.filter fun e => n.c.contains e.1 }

def keepFront (k : Keep) (F : Front) : Front :=
  match k with
  | .every => F
  | .named n => { F with x := F.x.filter fun e => n.x.contains e.1, c := F.c.filter fun e => n.c.contains e.1 }

def keepExt (k : Keep) (E : Tab VReg) : Tab VReg :=
  match k with
  | .every => E
  | .named n => E.filter fun e => n.v.contains e.1

/-- The block and its quires as they are saved, given what its units keep. -/
def keptBlock (s : State) (b : Nat) (B : Block) (ks : List (UnitId × Keep)) : Block × List (Nat × Quire) :=
  let qs := (s.quires.filter fun e => e.1 / 16 == b).map fun e => (e.1 % 16, e.2)
  let of := fun u : UnitId => ((ks.find? fun x => x.1 == u).map (·.2)).getD (.named noNamed)
  let kq := fun q : Nat => (of (.slot b q 0)).join (of (.slot b q 1))
  let F := match issuerOf s (.front b) 0 with
    | some _ => keepFront (of (.front b)) B.front
    | none => B.front
  ({ B with
     front := F
     ext := B.ext.map fun e : Nat × Tab VReg => (e.1, keepExt ((kq (2 * e.1)).join (kq (2 * e.1 + 1))) e.2) },
   qs.map fun e => (e.1, keepQuire (kq e.1) e.2))

/-! ## Saving (R376, R378, R383 to R385) -/

/-- Every unit of the block has stopped, and what was in flight has completed. -/
def blockQuiet (s : State) (b : Nat) (B : Block) : Bool :=
  (blockUnits s b).all (unitStopped s) && !(s.ops.any fun e => unitBlock e.2.unit == b) &&
    !((s.coreOf B.core).matQ.any fun m => m.b == b) && !(s.gates.any fun e => unitBlock e.2.unit == b)

def anyHalted (s : State) (b : Nat) : Bool :=
  (blockUnits s b).any fun u => match (unitStrand s u).map (fun c : Strand => c.stop) with
    | some (Stop.halted _) => true
    | _ => false

/-- Writes pieces from a base address at level H, while each write succeeds. -/
def writeParts (s : State) (part : Nat) (ctx : Word) (base : Nat) (ps : List (Nat × List Byte)) : State × Bool :=
  ps.foldl (fun r p => if r.2 then ctxWriteAt r.1 part ctx .h (base + p.1) p.2 else r) (s, true)

/-- Address of a tile's slot in a context's accumulator image on a partition-logical core. -/
def tileSlot (acc n p : Nat) : Nat := acc + 0x10000 * n + 0x1000 * p

/-- A save that moves the block: its tiles in the core's store are copied to the core's image, and their USED bits clear
once every one has been written. -/
def spillTiles (s : State) (B : Block) (v : SaveSlot) : State × Bool :=
  if (s.coreOf B.core).accOwn != B.ctx then (s, true)
  else
    let n := logicalCore s B.part B.core
    let r := (List.range B.node.acctiles).foldl (fun (r : State × Bool) i =>
      let p := B.abase + i
      let c := r.1.coreOf B.core
      if !r.2 then r
      else if c.accUsed.getLsbD p then writeParts r.1 B.part B.ctx (tileSlot v.acc n p) (tileImage (c.tileOf p) B.ctx)
      else writeParts r.1 B.part B.ctx (tileSlot v.acc n p) [(0, [0])]) (s, true)
    (if r.2 then r.1.updCore B.core fun c => c.clearTiles B.abase B.node.acctiles else r.1, r.2)

/-- The cells of a range of a core's SRAM, from its start. -/
def cellsOf (m : List Host.Cell) (a n : Nat) : List Host.Cell :=
  (m.filter fun c => a ≤ c.1 && c.1 < a + n).map fun c => (c.1 - a, c.2)

/-- The request that stops a block. -/
def requestOf (s : State) (B : Block) : Option Preempt :=
  (s.preempts.find? fun p => p.2.part == B.part && p.2.ctx == B.ctx && p.2.cores.contains B.core).map (·.2)

/-- A block whose live map fails at its save: its node ends BAD_IMAGE, and the block stops (15_scheduling.md R440,
02_instruction_words.md R46; log 85). -/
def badLiveMap (s : State) (b : Nat) (B : Block) : State :=
  stopBlock (updNode s B.part B.seq fun n => { n with owed := match n.owed with
    | none => some 8
    | o => o }) b

/-- BLOCK_SAVE: block idx of the subject is stopped; its images are written to its slot and its core's resources are
released. A write that fails is told to H, and the block stays. -/
def execBlockSave (s : State) : Host.Outcome State Fault Refusal :=
  let b := s.subject.idx
  match Tab.find s.blocks b with
  | none => .next s
  | some B =>
    match requestOf s B, B.saveSlot with
    | some p, some v =>
      if !blockQuiet s b B || blockDone s b B then .next s
      else match keepsOf s B (blockUnits s b) with
      | (s, none) => .next (badLiveMap s b B)
      | (s, some ks) =>
        let k := keptBlock s b B ks
        let w := writeParts s B.part B.ctx v.at (blockImage s b k.1 k.2 (anyHalted s b))
        let t := if w.2 && p.layout then spillTiles w.1 B v else w
        if !t.2 then .next t.1
        else
          let sv : Saved :=
            { b := b, ctx := B.ctx, slot := v, core := B.core, seq := B.seq, idx := B.idx, attempt := B.attempt
              moved := p.layout, block := { k.1 with saveSlot := none }, quires := k.2
              scratch := cellsOf (s.coreOf B.core).sram B.scratchBase B.scratchLen }
          .next ((dropBlock t.1 b true).updPart B.part fun P => { P with saved := P.saved ++ [sv] })
    | _, _ => .next s

/-! ## Resuming: reading the images back (R384, R198) -/

def zeros (l : List Byte) (o n : Nat) : Bool := fld l o n == 0

def readStrand (c : Strand) (l : List Byte) (o lvlAt : Nat) : Strand :=
  let pc := BitVec.ofNat 64 (fld l o 8)
  let hdr := BitVec.ofNat 64 (fld l (o + 8) 8)
  { c with
    pc := pc
    hdr := hdr
    left := if pc == c.pc && hdr == c.hdrAt then c.left else 0
    level := if fld l lvlAt 1 == 0 then .u else .s
    trapU := { c.trapU with inHandler := bitAt (fld l (lvlAt + 1) 1) 0 }
    trapS := { c.trapS with inHandler := bitAt (fld l (lvlAt + 1) 1) 1 }
    wait := .none
    stop := .run
    atXacq := false
    yielded := none }

def readSlot (ter : Bool) (x : Slot) (l : List Byte) (o : Nat) : Slot :=
  { x with
    ctl := readStrand x.ctl l o (o + 0x20)
    mask := fitTriples ter (BitVec.ofNat 96 (fld l (o + 0x10) 12))
    innermost := fld l (o + 0x1C) 4 }

def slotFormed (live : Mask) (l : List Byte) (o : Nat) : Bool :=
  zeros l (o + 0x24) 12 && fld l (o + 0x22) 2 < 8 && fld l (o + 0x20) 1 ≤ 1 && fld l (o + 0x21) 1 < 4 &&
    BitVec.ofNat 96 (fld l (o + 0x10) 12) &&& ~~~live == 0

def readTrap (ter : Bool) (L : LevelTrap) (l : List Byte) (o : Nat) : LevelTrap :=
  { L with
    regs := { pc := BitVec.ofNat 64 (fld l o 8), cause := BitVec.ofNat 32 (fld l (o + 8) 4)
              mask := fitTriples ter (BitVec.ofNat 96 (fld l (o + 16) 12)), info := BitVec.ofNat 64 (fld l (o + 32) 8) }
    savedK15 := fitTriples ter (BitVec.ofNat 96 (fld l (o + 40) 12)) }

/-- The reserved bits of TRAPCAUSE (R363) are 0. -/
def causeFormed (l : List Byte) (o : Nat) : Bool := bits (fld l o 4) 12 4 == 0

/-- A level's trap registers: the reserved fields, and, while the handler runs with the lanes of its entry, TRAPMASK within the
live lanes (log 109: outside the handler it names lanes of the past). -/
def trapFormed (live : Mask) (x : Slot) (L : LevelTrap) (l : List Byte) (o : Nat) : Bool :=
  zeros l (o + 12) 4 && zeros l (o + 28) 4 && zeros l (o + 52) 12 && causeFormed l (o + 8) &&
    (!L.inHandler || L.entryMask != x.mask || BitVec.ofNat 96 (fld l (o + 16) 12) &&& ~~~live == 0)

/-- The reserved bits of TCTL, TSTAT and FPCTL are 0 (11_ternion.md R237, R240, 10_numbers.md R210). -/
def ctlFormed (tctl tstat fpctl : Nat) : Bool :=
  tctl &&& 0xFFFFC0C0 == 0 && tstat < 2 ^ 31 && fpctl &&& 0xF000FFF0 == 0

/-- A bank's values; its full/empty bits and notes have no place in the image. -/
def readBank (t : Tab (Reg DWord)) (l : List Byte) (o first n width : Nat) : Tab (Reg DWord) :=
  (List.range n).foldl (fun t i =>
    Tab.set t (first + i) { Tab.get { val := 0 } t (first + i) with val := BitVec.ofNat 64 (fld l (o + width * i) width) }) t

def readSlotTraps (ter : Bool) (x : Slot) (l : List Byte) (sl : Nat) : Slot :=
  let o := 0xC0 + 0x80 * sl
  { x with ctl := { x.ctl with
      trapU := readTrap ter x.ctl.trapU l o
      trapS := readTrap ter x.ctl.trapS l (o + 0x40)
      bank := readBank x.ctl.bank l (0x1C0 + 0x20 * sl) 24 8 4 } }

def readRec (ter : Bool) (l : List Byte) (o : Nat) : JoinRec :=
  { id := fld l o 4, kind := fld l (o + 4) 1, jpc := BitVec.ofNat 64 (fld l (o + 8) 8), expect := fitTriples ter (BitVec.ofNat 96 (fld l (o + 16) 12))
    parent := fld l (o + 28) 4, arrived := fitTriples ter (BitVec.ofNat 96 (fld l (o + 32) 12)) }

def recFormed (live : Mask) (l : List Byte) (o : Nat) : Bool :=
  fld l (o + 4) 1 ≤ 3 && zeros l (o + 5) 3 && zeros l (o + 44) 4 &&
    (readRec false l o).expect &&& ~~~live == 0 && (readRec false l o).arrived &&& ~~~live == 0

/-- The entries of a queue image; none when its count is beyond the queue. -/
def readQueue (l : List Byte) (o : Nat) : Option (List DWord) :=
  if 16 < fld l o 8 then none
  else some ((List.range (fld l o 8)).map fun i => BitVec.ofNat 64 (fld l (o + 8 + 8 * i) 8))

def recOffsets : List Nat := (List.range 64).map fun i => 0x480 + 48 * i

/-- A quire from its control image, over what the image has no place for; none when the image is malformed. -/
def readQuire (I : Issuer) (Q : Quire) (arrived : Bool) (l : List Byte) : Option Quire :=
  let ter := fld l 0x60 1 == 1
  let ok := slotFormed Q.live l 0 && slotFormed Q.live l 0x30 && fld l 0x60 1 ≤ 1 && fld l 0x61 1 ≤ 2 && zeros l 0x62 2 &&
    zeros l 0x84 60 && ctlFormed (fld l 0x64 4) (fld l 0x68 4) (fld l 0x6C 4) &&
    [(Q.s0, Q.s0.ctl.trapU), (Q.s0, Q.s0.ctl.trapS), (Q.s1, Q.s1.ctl.trapU), (Q.s1, Q.s1.ctl.trapS)].zipIdx.all
      (fun x => trapFormed Q.live x.1.1 x.1.2 l (0xC0 + 0x40 * x.2)) && zeros l 0x288 0x38 &&
    zeros l 0x440 0x40 && recOffsets.all (recFormed Q.live l) && zeros l 0x1080 0xF80
  (readQueue l 0x200).bind fun q0 =>
    if !ok then none
    else some
      { Q with
        s0 := readSlotTraps ter (readSlot ter Q.s0 l 0) l 0
        s1 := readSlotTraps ter (readSlot ter Q.s1 l 0x30) l 1
        ter := ter
        mtrip := fld l 0x61 1
        tctl := tctlStored (fld l 0x64 4)
        tstat := BitVec.ofNat 32 (fld l 0x68 4)
        fpctl := fpctlStored I (fld l 0x6C 4)
        sigv := BitVec.ofNat 64 (fld l 0x70 8)
        dstack := BitVec.ofNat 64 (fld l 0x78 8)
        recCtr := fld l 0x80 4
        q0 := q0
        icnt := (List.range 96).map fun i => (i, BitVec.ofNat 32 (fld l (0x2C0 + 4 * i) 4))
        recs := ((recOffsets.map (readRec ter l)).filter fun r => r.kind != 0).map fun r =>
          { r with exitBy := (Q.recs.find? fun o => o.id == r.id).bind (·.exitBy) }
        arrival := if arrived then some (Q.arrival.getD 1) else none
        lastPage := [] }

/-- The registers of an image: its header area, its notes and its data; none when it is malformed. -/
structure RegIn where
  head : List Byte
  notes : List NoteRec
  data : Tab (List Byte)

def readRegs (I : Issuer) (l : List Byte) : Option RegIn :=
  let h := (l.drop I.cAt).take (if I.fe then 64 else 128)
  let count := if I.fe then fld h 8 4 else fld h 0x10 4
  let clean := if I.fe then zeros h 2 2 && zeros h 12 52
    else zeros h 0x14 108 && (List.range 16).all fun k => zeros l (0x8C + 16 * k) 4
  if !clean || (if I.fe then 31 else 96) < count then none
  else (parseNotes (l.drop I.notesAt) count (noteFits I)).map fun ns =>
    { head := h, notes := ns, data := (loadReads (imageRegs I)).map fun x => (x.1, (l.drop x.2.1).take x.2.2) }

/-- Bytes of a unit's register image. -/
def regImageLen (I : Issuer) : Nat := if I.fe then 0x520 else 0x200 + 384 * I.baseCount + 32 * 96

/-- A pair's extended set and its lock; none when the image is malformed. -/
def readExt (l : List Byte) (n : Nat) : Option (Tab VReg × XLock) :=
  let count := fld l 0x600A 2
  if 2 < fld l 0x6008 1 || 3 < fld l 0x6009 1 || 64 < count || !zeros l 0x600C 52 then none
  else (parseNotes (l.drop 0x6040) count fun r => r.cls == 0 && 64 ≤ r.reg && r.reg < 128).map fun ns =>
    ((List.range 64).map fun r =>
        let full := bitAt (fld l 0x6000 8) r
        (64 + r, { lanes := wordsOf ((l.drop (384 * r)).take 384), full := full, note := noteFor ns 0 (64 + r) full }),
      { holder := match fld l 0x6008 1 with
          | 1 => some (2 * n)
          | 2 => some (2 * n + 1)
          | _ => none })

def readStat (l : List Byte) : Option (Nat × List Nat) :=
  if fld l 0 4 < 4096 && zeros l 4 4 && zeros l 0x38 8 then some (fld l 0 4, (List.range 6).map fun k => fld l (8 + 8 * k) 8) else none

/-- A completion queue's records in front of the commands that have not completed. -/
def readPair (old : List PairEnt) (l : List Byte) (o : Nat) : Option (List PairEnt) :=
  let n := fld l o 8
  if 16 < n then none
  else
    let done := old.takeWhile (·.record.isSome)
    let recs := (List.range n).map fun i =>
      let a := o + 8 + 32 * i
      let w := fun j : Nat => BitVec.ofNat 64 (fld l (a + 8 * j) 8)
      ({ op := ((done[i]?).map (·.op)).getD 0, record := some { w0 := w 0, w1 := w 1, w2 := w 2, w3 := w 3 } } : PairEnt)
    some (recs ++ old.drop done.length)

/-- All or none. -/
def allSome {α : Type} (l : List (Option α)) : Option (List α) :=
  l.foldr (fun x acc => match x, acc with
    | some a, some t => some (a :: t)
    | _, _ => none) (some [])

/-- The block from its slot's first 0x2000 bytes and its statistics. -/
def readBlock (B : Block) (l : List Byte) (stats : List (List Byte)) (exts : List (Nat × Tab VReg × XLock)) : Option Block :=
  let ok := zeros l 0x18 0xE8 && fld l 0x0D 1 ≤ 1 && fld l 0x110 1 ≤ 1 && fld l 0x111 1 < 4 && zeros l 0x126 4 && zeros l 0x132 8 &&
    zeros l 0x146 4 && zeros l 0x152 8 && zeros l 0x182 0x7E && ctlFormed 0 0 (fld l 0x112 4) && causeFormed l 0x122 && causeFormed l 0x142
  let ctl := readStrand B.front.ctl l 0x100 0x110
  let ftrap := fun (L : LevelTrap) (o : Nat) =>
    { L with regs := { pc := BitVec.ofNat 64 (fld l o 8), cause := BitVec.ofNat 32 (fld l (o + 8) 4), mask := 0
                       info := BitVec.ofNat 64 (fld l (o + 16) 8) } }
  match readQueue l 0x800, allSome ((List.range 6).map fun j => (readQueue l (0x888 + 0x88 * j)).map fun q => (j + 2, q)),
      allSome ([8, 9, 10, 11].map fun q => (readPair (Tab.get [] B.pairs q) l (pairImageAt q)).map fun p => (q, p)),
      allSome (stats.map readStat) with
  | some q1, some roles, some pairs, some st =>
    if !ok then none
    else some
      { B with
        q1 := q1
        roleQ := roles
        pairs := pairs
        stats := st
        ovf := BitVec.ofNat 32 (fld l 0x116 4)
        ext := exts.map fun e => (e.1, e.2.1)
        locks := exts.map fun e => (e.1, e.2.2)
        front := { B.front with
          fpctl := fpctlStored (imageIssuer 0 B {} 0 true) (fld l 0x112 4)
          ctl := { ctl with
            trapU := ftrap ctl.trapU 0x11A
            trapS := ftrap ctl.trapS 0x13A
            bank := readBank ctl.bank l 0x15A 26 5 8 } } }
  | _, _, _, _ => none

/-! ## Resuming: the core (R309, R351, R385) -/

/-- Room for a saved block beside others: a block whose tiles stay needs its own tiles. -/
def roomFor (s : State) (v : Saved) (g : Nat) : Option (Nat × Nat) :=
  let bs := coreBlocks s g
  let out := ((s.partOf v.block.part).saved.filter fun x => x.core == g && x.ctx == v.ctx && !x.moved && x.b != v.b).map (·.block)
  (roomBeside bs out v.block.node).bind fun r =>
    if v.moved || v.block.node.acctiles == 0 then some r
    else
      let lo := v.block.abase
      let hi := lo + v.block.node.acctiles
      if bs.any fun e => decide (e.2.abase < hi) && decide (lo < e.2.abase + e.2.node.acctiles) then none
      else some (r.1, lo)

/-- Its own core when that has room, else the lowest-numbered with room; a block whose tiles stay has its own alone. -/
def resumeCore (s : State) (part : Nat) (v : Saved) : Option (Nat × Nat × Nat) :=
  let cores := (admitCores s part v.ctx).filter (coreOpen s part v.ctx)
  let at_ := fun g : Nat => (roomFor s v g).map fun r => (g, r.1, r.2)
  let own := if cores.contains v.core then at_ v.core else none
  match own with
  | some r => some r
  | none => if !v.moved && 0 < v.block.node.acctiles then none else cores.findSome? at_

/-- Copies a moved block's tiles to the new core: to its image, or to its store when the context owns that. The second
result says that every tile was read and written. -/
def moveTiles (s : State) (v : Saved) (oldLogical g abase : Nat) : State × Bool :=
  let B := v.block
  (List.range B.node.acctiles).foldl (fun r i =>
    if !r.2 then r else
    match ctxReadAt r.1 B.part v.ctx .h (tileSlot v.slot.acc oldLogical (B.abase + i)) 0xC40 with
    | (s', none) => (s', false)
    | (s', some l) =>
      if (s'.coreOf g).accOwn == v.ctx then
        let w := BitVec.ofNat 32 (fld l 4 4)
        let t : Tile := { elems := (wordsOf ((l.drop 0x40).take (0x400 * tilePlanes (w.getLsbD 24) (w.getLsbD 25)))).zipIdx.map fun x => (x.2, x.1) }
        (if fld l 0 1 == 1 then setTile s' g (abase + i) (t.setAcnt w) true else setTile s' g (abase + i) {} false, true)
      else ctxWriteAt s' B.part v.ctx .h (tileSlot v.slot.acc (logicalCore s' B.part g) (abase + i)) l) (s, true)

/-- Reads n bytes of the slot. -/
def slotRead (s : State) (v : Saved) (o n : Nat) : State × Option (List Byte) := ctxReadAt s v.block.part v.ctx .h (v.slot.at + o) n

def slotReads (s : State) (v : Saved) (rs : List (Nat × Nat)) : State × Option (List (List Byte)) :=
  rs.foldl (fun r x => match r.2 with
    | none => r
    | some acc =>
      let y := slotRead r.1 v x.1 x.2
      (y.1, y.2.map fun l => acc ++ [l])) (s, some [])

/-- A saved block read back from its slot. -/
structure Restored where
  block : Block
  quires : List Quire
  front : RegIn
  regs : List (Nat × RegIn)
  maps : List DWord
  oldCore : Nat

/-- The images of a saved block: what they hold, none inside when they are malformed; none outside when they cannot be
read. -/
def readImages (s : State) (v : Saved) : State × Option (Option Restored) :=
  let B := v.block
  let ids := v.quires.map (·.1)
  let IQ := fun q : Nat => imageIssuer v.b B {} q false
  let IF := imageIssuer v.b B {} 0 true
  let first := slotRead s v 0 0x2000
  match first.2 with
  | none => (first.1, none)
  | some l =>
    let n := fld l 0x14 4
    let r1 := slotReads first.1 v (ids.map fun q => (0x2000 + 0x2000 * q, 0x2000))
    let r2 := slotReads r1.1 v (ids.map fun q => (0x22000 + 0x8000 * q, regImageLen (IQ q)))
    let r3 := slotReads r2.1 v ((extPairs B).map fun p => (0xA2000 + 0x8000 * p, 0x6040 + 32 * 64))
    let r4 := slotReads r3.1 v (if 4096 < n then [] else (List.range n).map fun i => (0xE2000 + 64 * i, 64))
    match r1.2, r2.2, r3.2, r4.2 with
    | some cs, some gs, some es, some st =>
      let qs := allSome ((v.quires.zip cs).map fun x => readQuire (IQ x.1.1) x.1.2 (bitAt (fld l 0x0E 2) x.1.1) x.2)
      let rs := allSome ((ids.zip gs).map fun x => (readRegs (IQ x.1) x.2).map fun r => (x.1, r))
      let xs := allSome (((extPairs B).zip es).map fun x => (readExt x.2 x.1).map fun e => (x.1, e))
      let fr := readRegs IF (l.drop 0x200)
      (r4.1, match qs, rs, xs.bind (readBlock B l st), fr with
        | some qs, some rs, some blk, some fr =>
          if 4096 < n then some none
          else some (some
            { block := blk, quires := qs, front := fr, regs := rs
              maps := (List.range 16).map fun i => BitVec.ofNat 64 (fld l (0x720 + 8 * i) 8), oldCore := fld l 0x10 4 })
        | _, _, _, _ => some none)
    | _, _, _, _ => (r4.1, none)

/-- The block stands on its new core as its images give it. -/
def putRestored (s : State) (v : Saved) (R : Restored) (g step0 abase : Nat) : State :=
  let B : Block := { R.block with core := g, pkg := g / 384, step0 := step0, abase := abase }
  let s := residentBlock s v.b B []
  let s := { s with quires := (v.quires.zip R.quires).foldl (fun (t : Tab Quire) (x : (Nat × Quire) × Quire) => Tab.set t (quireKey v.b x.1.1) x.2) s.quires }
  let s := s.updCore g fun c =>
    { c with
      sram := v.scratch.foldl (fun (m : List Host.Cell) (x : Nat × Byte) => Memory.write m (B.scratchBase + x.1) x.2) (Memory.zeroRange c.sram B.scratchBase B.scratchLen)
      t := R.maps.zipIdx.foldl (fun (t : Tab DWord) (x : DWord × Nat) => if B.node.tmaps.getLsbD x.2 then Tab.set t x.2 x.1 else t) c.t }
  let load := fun (s : State) (I : Issuer) (r : RegIn) => loadRegs s I (imageRegs I) r.head r.notes (Tab.get [] r.data)
  let quire := fun q : Nat => (((v.quires.zip R.quires).find? fun x => x.1.1 == q).map (·.2)).getD {}
  let s := R.regs.foldl (fun s x => load s (imageIssuer v.b B (quire x.1) x.1 false) x.2) s
  load s (imageIssuer v.b B {} 0 true) R.front

/-- Pops that can now take place, in each completion queue's pop order (R197). -/
def resumePops (s : State) (b : Nat) : State :=
  [12, 13, 14, 15].foldl (fun s q =>
    (List.range 64).foldl (fun s _ => match popRecord s b q with
      | some s' => s'
      | none => s) s) s

/-- How a resume goes: the block resumes, or its context fails; no core takes it now; or its slot, or a tile of it, cannot
be read or written, which H is told, and it stays saved. -/
inductive Resume where
  | took (s : State)
  | later
  | unread (s : State)

/-- One saved block resumes on a core. A malformed image fails its context: its nodes end BAD_IMAGE, and its blocks KILLED
(R384). -/
def resumeOne (s : State) (part : Nat) (v : Saved) : Resume :=
  match resumeCore s part v with
  | none => .later
  | some r =>
    match readImages s v with
    | (s1, none) => .unread s1
    | (s1, some none) => .took (killContext s1 part v.ctx 8)
    | (s1, some (some R)) =>
      let m := if v.moved then moveTiles s1 v R.oldCore r.1 r.2.2 else (s1, true)
      if !m.2 then .unread m.1
      else
        let s := saveBit m.1 part v.ctx v.slot.base v.slot.idx false
        let s := s.updPart part fun P => { P with saved := P.saved.filter fun x => x.b != v.b }
        .took (resumePops (putRestored s v R r.1 r.2.1 r.2.2) v.b)

/-- BLOCK_RESUME: saved block idx of the subject's partition resumes; the saved blocks of a GANG node resume together. -/
def execBlockResume (s : State) : Host.Outcome State Fault Refusal :=
  let part := s.subject.part
  match (s.partOf part).saved.find? fun v => v.b == s.subject.idx with
  | none => .next s
  | some v =>
    let group := if v.block.node.gang then (s.partOf part).saved.filter fun x => x.seq == v.seq else [v]
    let leaving := v.block.node.gang && s.blocks.any fun e => e.2.part == part && e.2.seq == v.seq && preempted s e.2
    let r := group.foldl (fun (acc : Resume) x => match acc with
      | .took s => if (s.partOf part).saved.any (fun y => y.b == x.b) then resumeOne s part x else .took s
      | a => a) (Resume.took s)
    match if leaving then .later else r with
    | .took s' => .next s'
    | .later => .next s
    | .unread s' => .next { s with told := s'.told }

/-! ## H's answer to a held slot (R367) -/

/-- TRAPINFO of the injected PAGE_FAULT: reason TABLE_INACCESSIBLE. The address of a page cause stays; of another cause
the spec states none, and it is a free value (log 2). -/
def injectedInfo (s : State) (t : Trap) : DWord × State :=
  if t.cause == .pageFault || t.cause == .protection then ((t.info &&& ~~~(7#64 <<< 52)) ||| (4#64 <<< 52), s)
  else
    let lo := drawWord s
    let hi := drawWord lo.2
    (((hi.1.setWidth 20).setWidth 64 <<< 32) ||| lo.1.setWidth 64 ||| (4#64 <<< 52), hi.2)

/-- HELD_SLOT_ANSWER: H answers the cause that holds the subject's unit: sub 0 resumes it, 1 injects PAGE_FAULT, 2 kills
its context. -/
def execHeldSlotAnswer (s : State) : Host.Outcome State Fault Refusal :=
  match waiter s with
  | some (I, .heldAtH t _) =>
    let free := fun s : State => updStrand s I.u fun c => { c with wait := .none }
    (match s.subject.sub with
     | 0 => .next (clearPopTrap (dropPages (free s) I.u I.mask) I.u)
     | 1 =>
       let x := injectedInfo s t
       .next (takeTrap (free x.2) I.u { cause := .pageFault, info := x.1 })
     | 2 => .next (killContext s I.blk.part I.blk.ctx)
     | _ => .next s)
  | _ => .next s

end Sys2Proof.Machine
end

