-- ==== Sys2Proof/Machine/Layout.lean ====
section
/-! DEFINITION. The layout of a package: commits, ticks, scrubs, the release of frames, H's answers at the second stage,
place entries, and the retirement of quads (17_partitions.md R388 to R398, 07_local_memory.md R156, 06_engines.md R145,
04_translation.md R78, R79, 03_memory.md R56). -/

namespace Sys2Proof.Machine

/-! ## Ownership -/

def changedQuads (p : Pkg) : List Nat := changedUnits p.layout p.shadow 96 fun e i => e.quads.getLsbD i
def changedBanks (p : Pkg) : List Nat := changedUnits p.layout p.shadow 128 fun e i => e.banks.getLsbD i
def changedCopy (p : Pkg) : List Nat := changedUnits p.layout p.shadow 32 fun e i => e.copyEng.getLsbD i
def changedColl (p : Pkg) : List Nat := changedUnits p.layout p.shadow 8 fun e i => e.collEng.getLsbD i

/-- The cores of the quads of a package. -/
def quadCores (pkg : Nat) (qs : List Nat) : List Nat := qs.flatMap fun q => (List.range 4).map fun i => coreGid pkg (4 * q + i)

/-! ## Answers to requests (R78, R79, R388) -/

/-- Part of an operation's answer: n of its lines are no longer waited for. A store whose lines are all answered ends,
with a report for what failed. An engine's store goes to its operation. -/
def mergeOne (s : State) (op done more : Nat) (a : Answer) : State :=
  match Tab.find s.ops op with
  | none =>
    (match Tab.find s.engs op with
     | some e => engAnswered s op e a
     | none => s)
  | some o =>
    let o' : PendOp := { o with waiting := o.waiting - done + more, got := o.got ++ a.got, errs := o.errs ++ a.errs }
    let o' := if o'.waiting == 0 then { o' with acq := 0 } else o'
    if o'.dest == .none && o'.waiting == 0 then addDue { s with ops := Tab.del s.ops op } o.unit (o'.errs.map (·.2))
    else { s with ops := Tab.set s.ops op o' }

/-- The bank of a line request's home stops it. -/
def lineStops (s : State) (r : LineReq) : Bool :=
  match locate s r.pkg r.part r.gpa r.write with
  | some (.dev d) => bankStops s (d >>> 44) r.part r.ctx (r.gpa / 64)
  | _ => false

/-- A request that stands behind others is sent once none of them is left (log 14). -/
def sendBehind (s : State) (h : Held) : State :=
  match h.what with
  | .behind r =>
    (match Tab.find s.ops r.op with
     | none => s
     | some o =>
       if heldBack s r.unit o.lanes r.op || pieceBefore s r (s.held.idxOf h) || lineStops s r then s
       else
         let x := postLine { s := { s with held := s.held.filter (· != h) } } r
         mergeOne x.s r.op 1 x.waiting x.ans)
  | _ => s

/-- Every request that stands behind others is sent if it can be, in their order. -/
def wakeBehind (s : State) : State := s.held.foldl sendBehind s

/-- An answer, and what it sets free. -/
def mergeAnswer (s : State) (op done more : Nat) (a : Answer) : State := wakeBehind (mergeOne s op done more a)

/-- The late access at place n of the held ones is let go, if nothing that must precede it is still to go (log 111). -/
def letGo (s : State) (n : Nat) : State :=
  match s.held[n]? with
  | some h =>
    (match h.what with
     | .slow r =>
       if slowBefore s r || pieceBefore s r n || lineStops s r ||
          (Tab.find s.ops r.op).any (fun o => heldBack s r.unit o.lanes r.op) then s
       else
         let x := sendLine { s := { s with held := s.held.take n ++ s.held.drop (n + 1) } } r
         mergeAnswer x.s r.op 1 x.waiting x.ans
     | _ => s)
  | none => s

/-- Every lane of a refused line. -/
def refusedAnswer (r : LineReq) : Answer :=
  { errs := r.ops.map fun o => (o.key, ({ kind := .gpaRefused, memkind := 0, lanes := 0, addr := BitVec.ofNat 64 o.va } : Note)) }

/-- A unit whose walk or one-step access was held issues its word again. -/
def unhold (s : State) (u : UnitId) : State :=
  match unitStrand s u with
  | some st => (match st.wait with
      | .heldWalk _ _ _ => updStrand s u fun c => { c with wait := .none }
      | .ats _ _ _ => updStrand s u fun c => { c with wait := .none }
      | _ => s)
  | none => s

/-- One held request is released: it is tried again. -/
def releaseOne (s : State) (h : Held) : State :=
  match h.what with
  | .line r =>
    let x := if slowBefore s r then queueSlow { s := s } r else sendLine { s := s } r
    mergeOne x.s r.op 1 x.waiting x.ans
  | .behind _ => s
  | .slow _ => s
  | .walk u _ _ _ _ => unhold s u
  | .sync u _ _ => unhold s u
  | .eng _ _ _ => s
  | .engWalk _ _ _ _ _ => s

/-- PAGE_FAULT at an instruction whose own walk or access H refuses, or at a slot's pop of its stack. -/
def refuseUnit (s : State) (u : UnitId) (t : Trap) : State :=
  let s := unhold s u
  match issuerOf s u 0, u with
  | none, .slot b q sl =>
    (match slotIssuer s b q sl with
     | some I => popFault s I t
     | none => s)
  | _, _ => takeTrap s u t

/-- One held request is refused: a walk gives TABLE_INACCESSIBLE, another access GPA_REFUSED, or SECOND_STAGE at an
engine. -/
def refuseOne (s : State) (h : Held) : State :=
  match h.what with
  | .line r => mergeOne s r.op 1 0 (refusedAnswer r)
  | .behind _ => s
  | .slow _ => s
  | .walk u va level w m => refuseUnit s u { cause := .pageFault, info := faultInfo va 4 level w 0, mask := m }
  | .sync u va w => refuseUnit s u { cause := .pageFault, info := faultInfo va 5 3 w 0 }
  | .eng id _ _ =>
    (match Tab.find s.engs id with
     | some e => engBreak s id e 3 0 e.addr.toNat
     | none => s)
  | .engWalk id _ va _ _ =>
    (match Tab.find s.engs id with
     | some e => engBreak s id e 1 4 va
     | none => s)

/-- S2RESP is written: the requests of a partition that a package holds on a granule are answered in the order held. -/
def answerHeld (s : State) (pkg part granule : Nat) (refuse : Bool) : State :=
  let mine := fun h : Held => h.pkg == pkg && h.part == part && h.granule == granule && (match h.what with
    | .behind _ => false
    | .slow _ => false
    | _ => true)
  let hs := s.held.filter mine
  let s := { s with held := s.held.filter fun h => !mine h }
  let v := BitVec.ofNat 64 (part + granule <<< 25 + (if refuse then 2 else 1) <<< 52)
  wakeBehind (hs.foldl (if refuse then refuseOne else releaseOne) (s.updPkg pkg fun p => { p with s2resp := v }))

/-- S2RESP_RELEASE and S2RESP_REFUSE: of granule idx of the subject's partition, at the subject's package. -/
def execS2respRelease (s : State) : Host.Outcome State Fault Refusal :=
  if (Tab.find s.pkgs s.subject.pkg).isNone then .next s
  else .next (answerHeld s s.subject.pkg s.subject.part s.subject.idx false)

def execS2respRefuse (s : State) : Host.Outcome State Fault Refusal :=
  if (Tab.find s.pkgs s.subject.pkg).isNone then .next s
  else .next (answerHeld s s.subject.pkg s.subject.part s.subject.idx true)

/-! ## The checks of a commit (R390) -/

/-- The sets that a layout defines: the partition (none: H), base, and groups. -/
def layoutSets (t : Tab LayoutEnt) (hbase : DWord) : List (Option Nat × Nat × List Nat) :=
  let own := (validEnts t).foldl (fun a e => a ||| e.groups) (0 : BitVec 128)
  (((validEnts t).filter fun e => e.groups != 0).map fun e => (some e.podPart.toNat, e.hbmBase.toNat, bitList 128 e.groups.toNat)) ++
    [(none, hbase.toNat, (List.range 128).filter fun g => !own.getLsbD g)]

/-- Any two of a list stand in the relation. -/
def anyPair {α : Type} (f : α → α → Bool) : List α → Bool
  | [] => false
  | x :: t => t.any (f x) || anyPair f t

def entsShare (a b : LayoutEnt) : Bool :=
  a.quads &&& b.quads != 0 || a.banks &&& b.banks != 0 || a.groups &&& b.groups != 0 || a.copyEng &&& b.copyEng != 0 ||
    a.collEng &&& b.collEng != 0 || a.eth &&& b.eth != 0 || a.podPart == b.podPart

def gib8 : Nat := 2 ^ 33

/-- Every field lies in its range; the reserved fields are 0 as they stand. -/
def entFormed (e : LayoutEnt) : Bool :=
  e.s2Table.toNat < 2 ^ 53 && e.paging.toNat < 2 ^ 52 && 1 ≤ e.s2Limit.toNat && e.s2Limit.toNat ≤ 1048576 &&
    e.s2Table.toNat % 4096 == 0 && e.hbmBase.toNat % gib8 == 0 && 1 ≤ e.grace.toNat && e.grace.toNat ≤ 10000 &&
    e.grace.toNat ≤ e.kill.toNat && e.kill.toNat ≤ 1000000

/-- Two sets share an address; a set without a group has none. -/
def setsMeet (a b : Option Nat × Nat × List Nat) : Bool :=
  !a.2.2.isEmpty && !b.2.2.isEmpty && decide (a.2.1 < b.2.1 + gib8 * b.2.2.length) && decide (b.2.1 < a.2.1 + gib8 * a.2.2.length)

def setsFormed (l : List (Option Nat × Nat × List Nat)) : Bool :=
  (l.all fun S => S.2.1 % gib8 == 0 && (S.2.2.isEmpty || S.2.1 + gib8 * S.2.2.length ≤ 2 ^ 40)) && !anyPair setsMeet l

/-- The sets whose group list changes. -/
def changedSets (p : Pkg) : List (Nat × List Nat) :=
  let new := layoutSets p.shadow p.hshadow
  ((layoutSets p.layout p.hsetbase).filter fun S =>
    !S.2.2.isEmpty && !new.any fun T => T.1 == S.1 && T.2.2 == S.2.2).map (·.2)

/-- Some partition's second-stage entry maps a frame in one of the sets of a package. -/
def mapsInto (s : State) (pkg : Nat) (sets : List (Nat × List Nat)) : Bool :=
  s.pkgs.any fun e : Nat × Pkg => (validEnts e.2.layout).any fun L => (List.range L.s2Limit.toNat).any fun g =>
    let v := ofLe (Memory.readBytes s.mem (L.s2Table.toNat + 8 * g) 8)
    let t := bits v 25 31 <<< 25
    bitAt v 0 && !bitAt v 2 && t >>> 44 == pkg &&
      sets.any fun S => decide (S.1 ≤ t % 2 ^ 44) && decide (t % 2 ^ 44 < S.1 + gib8 * S.2.length)

def placeValid (p : Pkg) (n : Nat) : Bool := (Tab.get 0 p.place n).getLsbD 7

/-- The ERR code of the commit of a package's SHADOW; 0 when it passes. -/
def commitErr (s : State) (pkg : Nat) : Nat :=
  let p := s.pkgOf pkg
  let es := validEnts p.shadow
  if anyPair entsShare es then 1
  else if es.any fun e => (e.quads != 0 || e.groups != 0) && e.banks == 0 then 2
  else if !es.all entFormed || !setsFormed (layoutSets p.shadow p.hshadow) then 3
  else if !(changedSets p).isEmpty && mapsInto s pkg (changedSets p) then 4
  else if es.any fun e => (bitList 96 e.quads.toNat).any fun n => !placeValid p n then 5
  else 0

/-! ## Starting a commit (R391) -/

/-- Pre-emption requests to every context with a block on the cores. -/
def preemptCores (s : State) (cores : List Nat) : State :=
  let who := ((s.blocks.filter fun e => cores.contains e.2.core).map fun e => (e.2.part, e.2.ctx)).eraseDups
  who.foldl (fun s w => requestPreempt s w.1 w.2 cores true) s

/-- COMMIT is written with 1. -/
def startCommit (s : State) (pkg : Nat) : State :=
  if (s.pkgOf pkg).committing || (s.pkgOf pkg).recovery then s
  else
    let e := commitErr s pkg
    if e != 0 then s.updPkg pkg fun p => { p with err := BitVec.ofNat 4 e }
    else preemptCores (s.updPkg pkg fun p => { p with committing := true }) (quadCores pkg (changedQuads (s.pkgOf pkg)))

/-- LAYOUT_COMMIT: H writes COMMIT of the subject's package. -/
def execLayoutCommit (s : State) : Host.Outcome State Fault Refusal :=
  if (Tab.find s.pkgs s.subject.pkg).isNone then .next s else .next (startCommit s s.subject.pkg)

/-! ## The tick (R391, R156, R56) -/

/-- The offset at which a set holds a byte of a group. -/
def setOffset (sets : List (Nat × List Nat)) (g byte : Nat) : Option Nat :=
  (sets.find? fun S => S.2.contains g).map fun S =>
    S.1 + (((byte >>> 12) * S.2.length + indexOf S.2 g) <<< 12) + byte % 4096

/-- Where a byte of a package's HBM lies after its sets have changed: it stays in its group. -/
def movedDpa (pkg : Nat) (old new : Pkg) (d : Nat) : Nat :=
  if d >>> 44 != pkg || 2 ^ 40 ≤ d % 2 ^ 44 then d
  else match (hbmGroup old (d % 2 ^ 44)).bind fun x => setOffset (memSets new) x.1 x.2 with
    | some o => pkg <<< 44 + o
    | none => d

/-- Memory, its failing units and the tags of the lines, under the new sets. -/
def moveMemory (s : State) (pkg : Nat) (old new : Pkg) : State :=
  if memSets old == memSets new then s
  else
    let f := movedDpa pkg old new
    { s with
      mem := s.mem.foldl (fun m c => Memory.write m (f c.1) c.2) []
      bad := (s.bad.map fun u => f (u * 32) / 32).eraseDups
      pkgs := s.pkgs.map fun e : Nat × Pkg => (e.1, { e.2 with l2 := e.2.l2.map fun l => { l with dpaLine := f (l.dpaLine * 64) / 64 } }) }

/-- A failing unit that leaves an L2: memory beneath it holds a value that the spec does not give (log 2). -/
def loseUnit (s : State) (a : Nat) : State :=
  (List.range 8).foldl (fun s i =>
    let d := drawWord s
    { d.2 with mem := Memory.writeBytes d.2.mem (a + 4 * i) (leBytes 4 d.1.toNat) }) s

/-- Lines leave a package's L2: dirty ones are written back, failing units are lost. -/
def dropLines (s : State) (pkg : Nat) (f : L2Line → Bool) : State :=
  let gone := (s.pkgOf pkg).l2.filter f
  let s := s.updPkg pkg fun p => { p with l2 := p.l2.filter fun l => !f l }
  gone.foldl (fun s l =>
    let s := if l.bad0 then loseUnit s (l.dpaLine * 64) else s
    if l.bad1 then loseUnit s (l.dpaLine * 64 + 32) else s) s

/-- Sets a bit of DEVSTAT from 16 to 19; the first such bit requests a replacement (R397). -/
def raiseDevstat (s : State) (pkg bit : Nat) : State :=
  let p := s.pkgOf pkg
  let s' := s.updPkg pkg fun p => { p with devstat := p.devstat ||| (1#64 <<< bit) ||| 1 }
  if p.devstat.getLsbD 0 then s' else s'.tell (.replaceRequested pkg)

/-- The copy engine of a queued command under the layout as it now stands. -/
def rerouted (s : State) (e : EngOp) : EngOp :=
  let n := match Tab.find s.blocks e.b with
    | some B => some B
    | none => ((s.partOf e.part).saved.find? fun v => v.b == e.b).map (·.block)
  match n with
  | none => e
  | some B => { e with pkg := (copyEngineOf s B e.q).1, eng := (copyEngineOf s B e.q).2 }

/-- A running operation stands on an engine whose owner changes (R145). -/
def onChangedEngine (p : Pkg) (pkg : Nat) (e : EngOp) : Bool :=
  e.phase != .queued && e.pkg == pkg && (if e.onColl then changedColl p else changedCopy p).contains e.eng

/-- A request that was made under the present layout and is not performed: it completes under it (03_memory.md R56). -/
def oldRequest (p : Pkg) (pkg : Nat) (m : Msg) : Bool :=
  !msgPerformed m && match m.tgt with
    | .dev d => d >>> 44 == pkg &&
        (banksLeave p m.req.part || movedDpa pkg p { p with layout := p.shadow, hsetbase := p.hshadow } d != d)
    | .host _ => false

/-- Partitions that have an entry in the new layout and none in the old. -/
def newParts (p : Pkg) : List Nat :=
  ((validEnts p.shadow).filter fun e => !(validEnts p.layout).any fun o => o.podPart == e.podPart).map fun e => e.podPart.toNat

/-- Units declared lost that no entry owns. -/
def lossRetired (p : Pkg) : Bool :=
  (p.lostBanks.any fun n => (ownerBy p.layout fun e => e.banks.getLsbD n).isNone) ||
    p.lostGroups.any fun n => (ownerBy p.layout fun e => e.groups.getLsbD n).isNone

/-- The banks of partitions that stay on the package with another bank list: their dirty lines are written back, and
accesses to them stall until the commit ends (R391). -/
def relistedBanks (p : Pkg) : List Nat :=
  (validEnts p.shadow).flatMap fun e =>
    if (validEnts p.layout).any fun o => o.podPart == e.podPart && o.banks != e.banks then bitList 128 e.banks.toNat else []

/-- The last step of a commit: the event of class 3 for every partition with an entry; COMMIT reads 0. Where units were
lost meanwhile (R398), the next commit starts. -/
def endCommit (s : State) (pkg : Nat) : State :=
  let s := s.updPkg pkg fun p => { p with committing := false, commitScrubs := [] }
  let p := s.pkgOf pkg
  let s := (validEnts p.layout).foldl (fun s e => postEvent s e.podPart.toNat 3 (p.version.setWidth 64)) s
  if p.shadow == p.layout then s else startCommit s pkg

/-- The step in which SHADOW becomes LIVE. COMMIT reads 1 until the scrubs that follow have ended (R6, R391). -/
def layoutTick (s : State) (pkg : Nat) : State :=
  let p := s.pkgOf pkg
  let scrubs := (changedQuads p).map ScrubWhat.quad ++ (changedBanks p ++ relistedBanks p).eraseDups.map ScrubWhat.bank ++
    (changedCopy p).map ScrubWhat.copyEng ++ (changedColl p).map ScrubWhat.collEng
  let fresh := newParts p
  let relist := fun part : Nat => banksOf p.layout part != banksOf p.shadow part
  let s := dropLines s pkg fun l => relist l.part
  let old := s.pkgOf pkg
  let new : Pkg :=
    { old with
      layout := old.shadow, version := old.version + 1, hsetbase := old.hshadow, commitScrubs := scrubs
      scrubs := old.scrubs ++ scrubs.filter fun w => !old.scrubs.contains w
      measured := (old.shadow, old.map) }
  let s := moveMemory (s.updPkg pkg fun _ => new) pkg old new
  let s := fresh.foldl (fun s n => s.updCounts pkg n fun _ => {}) s
  let s := { s with engs := s.engs.map fun e : Nat × EngOp => if e.2.phase == .queued then (e.1, rerouted s e.2) else e }
  let s := if lossRetired new && !new.devstat.getLsbD 18 then raiseDevstat s pkg 18 else s
  if scrubs.isEmpty then endCommit s pkg else s

/-- The tiles of the blocks that a time slice switched out of cores that leave their owner go to those cores' images, and the
blocks resume elsewhere (R391, 16_traps.md R385). The second result says that every tile was written. -/
def moveSaved (s : State) (cores : List Nat) : State × Bool :=
  s.parts.foldl (fun r P => P.2.saved.foldl (fun (r : State × Bool) v =>
    if !r.2 || v.moved || !cores.contains v.core then r
    else
      let t := spillTiles r.1 { v.block with part := P.1, ctx := v.ctx, core := v.core } v.slot
      if !t.2 then t
      else (t.1.updPart P.1 fun Q => { Q with saved := Q.saved.map fun x => if x.b == v.b then { x with moved := true } else x }, true)) r) (s, true)

/-- LAYOUT_TICK: the subject's package is committing, every affected quad, bank and engine is quiescent, and what was asked
for under the present layout is performed. -/
def execLayoutTick (s : State) : Host.Outcome State Fault Refusal :=
  let pkg := s.subject.pkg
  let p := s.pkgOf pkg
  let cores := quadCores pkg (changedQuads p)
  if !p.committing || !p.commitScrubs.isEmpty || (s.msgs.any fun m => oldRequest p pkg m.2) || (s.blocks.any fun e => cores.contains e.2.core) || (s.engs.any fun e => onChangedEngine p pkg e.2) then .next s
  else match moveSaved s cores with
    | (s, true) => .next (layoutTick s pkg)
    | (s, false) => .next s

/-- An engine's TLB is emptied: copy engines 0 to 31, collective engines from 32 on. -/
def dropEngTlb (s : State) (pkg n : Nat) : State := s.updPkg pkg fun p => { p with engTlbs := Tab.del p.engTlbs n }

/-- SCRUB_COMPLETE: scrub idx of the subject's package ends: a quad's cores are as R156 leaves them. -/
def execScrubComplete (s : State) : Host.Outcome State Fault Refusal :=
  let pkg := s.subject.pkg
  match (s.pkgOf pkg).scrubs[s.subject.idx]? with
  | none => .next s
  | some w =>
    let p := s.pkgOf pkg
    let s' := s.updPkg pkg fun p => { p with scrubs := p.scrubs.erase w, commitScrubs := p.commitScrubs.erase w }
    let last := p.commitScrubs == [w]
    let fin := fun s : State => wakeBehind (if last then endCommit s pkg else s)
    match w with
    | .quad n =>
      if s.blocks.any fun e => (quadCores pkg [n]).contains e.2.core then .next s
      else .next (fin ((quadCores pkg [n]).foldl (fun s g => s.updCore g fun c => { ports := c.ports }) s'))
    | .bank _ => .next (fin s')
    | .copyEng n => .next (fin (dropEngTlb s' pkg n))
    | .collEng n => .next (fin (dropEngTlb s' pkg (32 + n)))
    | .coreOf _ _ _ => .next (fin s')

/-- ERRCLR is written with 1. -/
def clearErr (s : State) (pkg : Nat) : State := s.updPkg pkg fun p => { p with err := 0 }

/-- ERRCLR: of the subject's package. -/
def execErrclr (s : State) : Host.Outcome State Fault Refusal :=
  if (Tab.find s.pkgs s.subject.pkg).isNone then .next s else .next (clearErr s s.subject.pkg)

/-! ## Releasing a frame (R394, R395) -/

/-- FRGO is written: with GO a release of the frame starts, unless it is pending or 16 are. -/
def writeFrgo (s : State) (pkg : Nat) (v : DWord) : State :=
  let v := v &&& 0x001FFFFFFE000001#64
  let s := s.updPkg pkg fun p => { p with frgo := v }
  let p := s.pkgOf pkg
  let frame := bits v.toNat 25 28
  if !v.getLsbD 0 || frame >>> 19 != pkg || p.releases.any fun r => r.1 == frame then s
  else if 16 ≤ p.releases.length then s.updPkg pkg fun p => { p with err := 6 }
  else s.updPkg pkg fun p => { p with releases := p.releases ++ [(frame, bits p.frgpa.toNat 0 14, bits p.frgpa.toNat 25 27)] }

/-- FRAME_RELEASE: H writes the subject's value to FRGO of the subject's package. -/
def execFrameRelease (s : State) : Host.Outcome State Fault Refusal :=
  if (Tab.find s.pkgs s.subject.pkg).isNone then .next s else .next (writeFrgo s s.subject.pkg s.subject.val)

/-- A request to the frame is on its way. -/
def frameBusy (s : State) (frame : Nat) : Bool :=
  s.msgs.any fun m => match m.2.tgt, m.2.state with
    | .dev _, .answered _ => false
    | .dev d, _ => d >>> 25 == frame
    | .host _, _ => false

/-- The frame's lines, seals and counters go, and its bytes become zero. -/
def scrubFrame (s : State) (pkg : Nat) (r : Nat × Nat × Nat) : State :=
  let s := { s with
    pkgs := s.pkgs.map fun e : Nat × Pkg => (e.1, { e.2 with
      l2 := e.2.l2.filter fun l => !(l.part == r.2.1 && l.gpaLine >>> 19 == r.2.2)
      counters := e.2.counters.map fun d : Nat × List Counter =>
        (d.1, d.2.filter fun c => !(c.part == r.2.1 && c.frame >>> 9 == r.2.2)) })
    views := s.views.filter fun v => !(v.part == r.2.1 && v.line >>> 19 == r.2.2)
    mem := Memory.zeroRange s.mem (r.1 <<< 25) (2 ^ 25)
    bad := s.bad.filter fun u => u >>> 20 != r.1 }
  let s := s.updPart r.2.1 fun P => { P with seals := P.seals.filter fun q => !q.frames.any fun f => f >>> 9 == r.2.2 }
  (s.updPkg pkg fun p => { p with releases := p.releases.erase r }).tell (.frameReleased pkg r.1)

/-- FRAME_RELEASE_DONE: release idx of the subject's package; every access issued before it has completed. -/
def execFrameReleaseDone (s : State) : Host.Outcome State Fault Refusal :=
  match (s.pkgOf s.subject.pkg).releases[s.subject.idx]? with
  | none => .next s
  | some r => if frameBusy s r.1 then .next s else .next (scrubFrame s s.subject.pkg r)

/-! ## Place entries (R396) -/

/-- Whether a new byte of PLACE[n] may take effect. -/
def placeAllowed (s : State) (pkg n : Nat) (b : Byte) : Bool :=
  let p := s.pkgOf pkg
  let phys := b.toNat % 128
  !(s.blocks.any fun e => (quadCores pkg [n]).contains e.2.core) && !(p.committing && (changedQuads p).contains n) &&
    !(p.scrubs.any fun w => match w with
      | .quad m => m == n
      | .coreOf _ _ g => (quadCores pkg [n]).contains g
      | _ => false) && phys < 104 && phys / 13 == n / 12 &&
    !(List.range 96).any fun m => m != n && placeValid p m && (Tab.get 0 p.place m).toNat % 128 == phys

/-- An entry takes a byte. A spare quad that a valid entry names for the first time has been used: SPARES falls (R397). -/
def Pkg.setPlace (p : Pkg) (n : Nat) (b : Byte) : Pkg :=
  let phys := b.toNat % 128
  let d := phys / 13
  let p := { p with place := Tab.set p.place n b }
  if b.getLsbD 7 && phys % 13 == 12 && !p.usedSpares.contains d then
    { p with
      usedSpares := p.usedSpares ++ [d]
      devstat := (p.devstat &&& ~~~0xFF0#64) ||| BitVec.ofNat 64 ((bits p.devstat.toNat 4 8 - 1) <<< 4) }
  else p

/-- One entry of a write. -/
def placeOne (s : State) (pkg n : Nat) (b : Byte) : State :=
  if 96 ≤ n || Tab.get 0 (s.pkgOf pkg).place n == b then s
  else if placeAllowed s pkg n b then s.updPkg pkg fun p => (p.setPlace n b)
  else s.tell (.placeIgnored pkg n)

/-- Entries from n on, one for each byte. -/
def writePlace (s : State) (pkg n : Nat) (bs : List Byte) : State :=
  bs.zipIdx.foldl (fun s x => placeOne s pkg (n + x.2) x.1) s

/-- PLACE_WRITE: entry idx on of the subject's package, sub bytes (4 or 8) of the subject's value. -/
def execPlaceWrite (s : State) : Host.Outcome State Fault Refusal :=
  let j := s.subject
  if (Tab.find s.pkgs j.pkg).isNone || !(j.sub == 4 || j.sub == 8) || j.idx % j.sub != 0 || 96 ≤ j.idx then .next s
  else .next (writePlace s j.pkg j.idx (leBytes j.sub j.val.toNat))

/-! ## The loss of units (R386, R398) -/

/-- The blocks on the cores fail with their unit. -/
def failCores (s : State) (cores : List Nat) (u : FailedUnit) : State :=
  ((s.blocks.filter fun e => cores.contains e.2.core).map (·.1)).foldl (fun s b => failBlock s b (some u)) s

/-- Takes a quad from a layout. -/
def withoutQuad (t : Tab LayoutEnt) (q : Nat) : Tab LayoutEnt :=
  t.map fun e : Nat × LayoutEnt => (e.1, { e.2 with quads := e.2.quads &&& ~~~(1#96 <<< q) })

def spareOf (q : Nat) : Nat := 13 * (q / 12) + 12

/-- The spare of the quad's die has not been used. -/
def spareLeft (p : Pkg) (q : Nat) : Bool := !p.usedSpares.contains (q / 12)

def addScrub (s : State) (pkg : Nat) (w : ScrubWhat) : State :=
  s.updPkg pkg fun p => { p with scrubs := if p.scrubs.contains w then p.scrubs else p.scrubs ++ [w] }

/-- The quad goes to its die's spare. -/
def useSpare (s : State) (pkg q : Nat) : State :=
  addScrub (s.updPkg pkg fun p => p.setPlace q (BitVec.ofNat 8 (128 + spareOf q))) pkg (.quad q)

/-- The quads are retired: their PLACE entries become invalid, and a commit takes them from their owners. -/
def retireQuads (s : State) (pkg : Nat) (qs : List Nat) (f : Tab LayoutEnt → Tab LayoutEnt) : State :=
  let busy := (s.pkgOf pkg).committing
  let s := s.updPkg pkg fun p =>
    { p with
      place := qs.foldl (fun t q => Tab.set t q (Tab.get 0 t q &&& 0x7F#8)) p.place
      shadow := f (qs.foldl withoutQuad (if busy then p.shadow else p.layout))
      hshadow := if busy then p.hshadow else p.hsetbase }
  let s := if (s.pkgOf pkg).devstat.getLsbD 16 then s else raiseDevstat s pkg 16
  if busy then s else startCommit s pkg

/-- A core or quad is lost: its blocks fail, the rest of the quad is saved, and the quad is remapped or retired. -/
def loseQuad (s : State) (pkg q : Nat) (cores : List Nat) (u : FailedUnit) : State :=
  let s := failCores s cores u
  let s := preemptCores s (quadCores pkg [q])
  if spareLeft (s.pkgOf pkg) q then useSpare s pkg q else retireQuads s pkg [q] id

/-- A die's engines and port leave the layout. -/
def withoutDie (d : Nat) (t : Tab LayoutEnt) : Tab LayoutEnt :=
  t.map fun e : Nat × LayoutEnt => (e.1, { e.2 with
    copyEng := e.2.copyEng &&& ~~~(0xF#32 <<< (4 * d))
    collEng := e.2.collEng &&& ~~~(1#8 <<< d)
    eth := e.2.eth &&& ~~~(1#8 <<< d) })

def addLost (l : List Nat) (ns : List Nat) : List Nat := (l ++ ns).eraseDups

end Sys2Proof.Machine
end

