-- ==== Sys2Proof/Machine/Fabric.lean ====
section
/-! DEFINITION. The Trenath fabric: requests at their home, answers, the plane map and its registers, the loss of a
plane and the quiesce, lanes and flits, the loss of units, the background scrub, and writes of H to device registers (05_fabric.md
R93 to R106, 01_machine.md R12, 17_partitions.md R386, R398, 03_memory.md R58, R60, R439). -/

namespace Sys2Proof.Machine

/-! ## Messages (R95, R99 to R102) -/

def setMsgState (s : State) (id : Nat) (m : Msg) (st : MsgState) : State := putMsg s id { m with state := st }

/-- The kinds of request: 0 READ, 1 WRITE, 2 ATOMIC. -/
def msgKind (m : Msg) : Nat :=
  if m.req.ops.any fun o => match o.act with
    | .amo _ => true
    | _ => false then 2
  else if m.req.ops.any LaneOp.writes then 1 else 0

/-- The request returns data. -/
def msgReturns (m : Msg) : Bool :=
  m.req.ops.any fun o => match o.act with
    | .rd _ => true
    | .amo a => a.ret
    | .wr _ => false

/-- The recorded result of a request in its window at the home. -/
def windowHit (p : Pkg) (m : Msg) : Option Answer :=
  (p.windows.find? fun w => w.src == m.req.pkg && w.origin == m.origin).bind fun w =>
    (w.results.find? fun r => r.1 == m.seq).map (·.2)

/-- The request is performed at its home, and its answer starts back. -/
def serveMsg (s : State) (id : Nat) (m : Msg) (d : Nat) : State :=
  let home := d >>> 44
  match if m.replay then windowHit (s.pkgOf home) m else none with
  | some a => setMsgState s id m (.answered a)
  | none =>
    let r := performLine s m.req d
    setMsgState (r.1.updPkg home fun p => windowPut p m.req.pkg m.origin m.seq r.2) id m (.answered r.2)

/-- A request reaches its home and is checked against the home's map. -/
def arriveMsg (s : State) (id : Nat) (m : Msg) (d : Nat) : State :=
  let p := s.pkgOf (d >>> 44)
  if m.replay || Tab.get 0 p.map (bucketOf d) == m.plane then serveMsg s id m d
  else if verAhead m.ver p.ver.toNat then setMsgState s id m .heldHome
  else setMsgState s id m (.retryBack p.ver.toNat)

/-- The home cannot perform the request now: its bank is being scrubbed, or a doorbell that it stores to is full
(07_local_memory.md R156, 04_translation.md R87). -/
def homeStops (s : State) (m : Msg) (d : Nat) : Bool :=
  bankScrubbed s (d >>> 44) m.req.part (m.req.gpa / 64) || m.req.ops.any fun o => o.writes && doorbellFull s (d / 64 * 64 + o.off)

/-- READ, WRITE and ATOMIC: request idx of the subject reaches its home. -/
def homeStep (s : State) (kind : Nat) : Host.Outcome State Fault Refusal :=
  let id := s.subject.idx
  match Tab.find s.msgs id with
  | none => .next s
  | some m =>
    match m.tgt, m.state with
    | .dev d, .flying => 
      if msgKind m != kind || lineBusy s id m d || sentBefore s m.req.pkg m.plane (d >>> 44) m.stamp || homeStops s m d then .next s
      else .next (arriveMsg s id m d)
    | _, _ => .next s

def execRead (s : State) : Host.Outcome State Fault Refusal := homeStep s 0
def execWrite (s : State) : Host.Outcome State Fault Refusal := homeStep s 1
def execAtomic (s : State) : Host.Outcome State Fault Refusal := homeStep s 2

/-- A request is settled with an answer: its retry-buffer entry retires. -/
def settleMsg (s : State) (id : Nat) (m : Msg) (a : Answer) : State :=
  mergeAnswer (injectQueued { s with msgs := Tab.del s.msgs id } m.req.pkg) m.req.op 1 0 a

def answerStep (s : State) (data : Bool) : Host.Outcome State Fault Refusal :=
  let id := s.subject.idx
  match Tab.find s.msgs id with
  | none => .next s
  | some m =>
    match m.tgt, m.state with
    | .dev _, .answered a => if msgReturns m == data then .next (settleMsg s id m a) else .next s
    | _, _ => .next s

/-- RESP and ACK: the answer to request idx of the subject reaches its package. -/
def execResp (s : State) : Host.Outcome State Fault Refusal := answerStep s true
def execAck (s : State) : Host.Outcome State Fault Refusal := answerStep s false

/-- Whether a package's version has reached one that a refusal carried. -/
def verReached (own ver : Nat) : Bool := own == ver || verAhead own ver

/-- RETRY_MAP: the refusal of request idx reaches its package, which waits for the home's version. -/
def execRetryMap (s : State) : Host.Outcome State Fault Refusal :=
  let id := s.subject.idx
  match Tab.find s.msgs id, Tab.find s.gates id with
  | some m, _ =>
    (match m.state with
     | .retryBack v =>
       let s := setMsgState s id m (.retryWait v)
       let s := if verReached (s.pkgOf m.req.pkg).ver.toNat v then inject s id else s
       .next (injectQueued s m.req.pkg)
     | _ => .next s)
  | none, some g =>
    (match g.state with
     | .retryBack v =>
       let pkg := gatePkg s g
       let s := setGateOp s id { g with state := .retryWait v }
       let s := if verReached (s.pkgOf pkg).ver.toNat v then injectGate s id g g.home else s
       .next (injectQueued s pkg)
     | _ => .next s)
  | none, none => .next s

/-! ## Links (R93, R94) -/

/-- FLIT_CRC_REPLAY: on a plane link of the subject's package. -/
def execFlitCrcReplay (s : State) : Host.Outcome State Fault Refusal :=
  if (Tab.find s.pkgs s.subject.pkg).isNone then .next s
  else .next (s.updPkg s.subject.pkg fun p => { p with crcReplays := p.crcReplays + 1 })

/-- DIE_LANE_REPLACE: a lane fails in direction idx of the subject's package's 20 boundary directions. -/
def execDieLaneReplace (s : State) : Host.Outcome State Fault Refusal :=
  let pkg := s.subject.pkg
  let n := s.subject.idx
  match Tab.find s.pkgs pkg with
  | none => .next s
  | some p =>
    let used := Tab.get 0 p.spareLanes n
    if 20 ≤ n || p.half.contains n then .next s
    else if used < 4 then .next ((s.updPkg pkg fun p => { p with spareLanes := Tab.set p.spareLanes n (used + 1) }).tell (.boundaryLane pkg n))
    else .next ((raiseDevstat (s.updPkg pkg fun p => { p with half := p.half ++ [n] }) pkg 17).tell (.boundaryHalf pkg n))

/-! ## The plane map (R98) -/

/-- A write of 16 SHADOW entries from bucket b on: an entry with its reserved bit set is refused. -/
def writeShadow (s : State) (pkg b : Nat) (v : DWord) (mask : Nat) : State :=
  let js := (List.range 16).filter fun j => bitAt mask (j / 8)
  let nib := fun j : Nat => bits v.toNat (4 * j) 4
  let s := s.updPkg pkg fun p => { p with shadowMap := js.foldl (fun t j => if nib j < 8 then Tab.set t (b + j) (nib j) else t) p.shadowMap }
  if js.any fun j => 8 ≤ nib j then s.tell (.registerError pkg) else s

/-- PLANE_SHADOW_WRITE: word idx (0 to 15) of SHADOW of the subject's package takes the subject's value; sub names the
halves written, 1 low, 2 high, 3 both. -/
def execPlaneShadowWrite (s : State) : Host.Outcome State Fault Refusal :=
  let j := s.subject
  if (Tab.find s.pkgs j.pkg).isNone || 16 ≤ j.idx || j.sub == 0 || 4 ≤ j.sub then .next s
  else .next (writeShadow s j.pkg (16 * j.idx) j.val j.sub)

/-- The buckets that the freeze of a plane latches. -/
def latchSet (p : Pkg) (plane : Nat) : List Nat :=
  (List.range 256).filter fun b => Tab.get 0 p.map b == plane || Tab.get 0 p.shadowMap b != Tab.get 0 p.map b

/-- The packages that have ticked in a quiesce that they are in. -/
def ticked (s : State) (pkg : Nat) : List Nat :=
  (s.pkgs.filter fun e => e.1 != pkg && !e.2.left && e.2.quiesce.any (·.ticked)).map (·.1)

/-- The freeze of planes that are usable: they return, and the package goes through the steps of a quiesce for them (R106;
log 115). When no plane is frozen any more, such a quiesce has ended. -/
def startReturn (s : State) (pkg : Nat) (f : BitVec 8) : Option Quiesce :=
  let p := s.pkgOf pkg
  let rise := (List.range 8).filter fun i => f.getLsbD i && !p.frozen.getLsbD i && p.live.getLsbD i
  match p.quiesce with
  | none => if rise.isEmpty then none else some { dead := [], start := s.now, back := rise, coming := ticked s pkg }
  | some q => if f == 0 && q.dead.isEmpty then none else some { q with back := q.back ++ rise }

/-- FROZEN takes a value: bits that become 1 latch their buckets; when none is left the sets are emptied and what was
held is injected. -/
def setFrozen (s : State) (pkg : Nat) (f : BitVec 8) : State :=
  let q := startReturn s pkg f
  let s := s.updPkg pkg fun p =>
    let rise := (List.range 8).filter fun i => f.getLsbD i && !p.frozen.getLsbD i
    { p with
      frozen := f
      quiesce := q
      quiesceOn := f != 0
      frozenSet := if f == 0 then [] else rise.foldl (fun t i => Tab.set t i ((Tab.get [] t i ++ latchSet p i).eraseDups)) p.frozenSet }
  if f == 0 then injectQueued s pkg else s

/-- A write of the LIVE and FROZEN word. -/
def writeLive (s : State) (pkg : Nat) (v : DWord) : State :=
  setFrozen (s.updPkg pkg fun p => { p with live := v.extractLsb' 0 8 }) pkg (v.extractLsb' 8 8)

/-- PLANE_FREEZE: H writes the LIVE and FROZEN word of the subject's package, and a FROZEN bit becomes 1. -/
def execPlaneFreeze (s : State) : Host.Outcome State Fault Refusal :=
  let j := s.subject
  match Tab.find s.pkgs j.pkg with
  | none => .next s
  | some p => if j.val.extractLsb' 8 8 &&& ~~~p.frozen == 0 then .next s else .next (writeLive s j.pkg j.val)

/-! ## Failed remote requests (R106) -/

/-- Requests that a test names complete as uncorrectable of a memory kind. -/
def failMsgs (s : State) (kind : Nat) (f : Msg → Bool) : State :=
  let gone := s.msgs.filter fun m => f m.2
  gone.foldl (fun s m => mergeAnswer { s with msgs := Tab.del s.msgs m.1 } m.2.req.op 1 0 (failKind m.2.req kind)) s

/-- The headgate operations of a package end whose homes it has lost, wherever they stand (log 90). -/
def failGates (s : State) (pkg : Nat) : State :=
  let ends := fun g : Nat × GateOp =>
      if gatePkg s g.2 == pkg && g.2.home != 0 && remoteLost s pkg (gateHome g.2.home) then (g.1, { g.2 with state := GateState.trapped gateLost }) else g
  recount s { s with gates := s.gates.map ends }

def remoteMsg (m : Msg) : Option Nat :=
  match m.tgt with
  | .dev d => if d >>> 44 == m.req.pkg then none else some (d >>> 44)
  | .host _ => none

/-- A package leaves the pod. No request is held for a plane any more: FROZEN, QUIESCE and the frozen set are cleared (log
92). -/
def leavePod (s : State) (pkg : Nat) : State :=
  let s := s.updPkg pkg fun p => { p with left := true, quiesce := none, quiesceOn := false, frozen := 0, frozenSet := [] }
  (failGates (failMsgs s 4 fun m => m.req.pkg == pkg && (remoteMsg m).isSome) pkg).tell (.leftPod pkg)

/-! ## The quiesce (R103 to R106) -/

/-- The default rehash: the buckets of dead planes go to the live ones in turn. -/
def rehash (p : Pkg) (dead live : List Nat) : Tab Nat :=
  let moved := (List.range 256).filter fun b => dead.contains (Tab.get 0 p.map b)
  (List.range 256).map fun b =>
    (b, if moved.contains b then live.getD (indexOf moved b % max 1 live.length) 0 else Tab.get 0 p.map b)

/-- The place in the order of sending of a request that holds an entry of a port of a dead plane. -/
def replayStamp (m : Msg) (dead : List Nat) : Option Nat :=
  match m.tgt, m.state with
  | .host _, _ => none
  | .dev _, .queued => none
  | .dev _, .retryWait _ => none
  | .dev _, _ => if dead.contains m.plane then some m.stamp else none

/-- A headgate operation travels again unless its home holds it (log 69); what the home has answered is recorded there. -/
def gateReplays (g : GateOp) (dead : List Nat) : Option Nat :=
  if g.stamp == 0 || !dead.contains g.plane then none
  else match g.state with
    | .sent => some g.stamp
    | .heldMap => some g.stamp
    | .retryBack _ => some g.stamp
    | .answered _ => some g.stamp
    | .trapped _ => some g.stamp
    | _ => none

def insertStamp (x : Nat × Nat) : List (Nat × Nat) → List (Nat × Nat)
  | [] => [x]
  | y :: t => if x.1 ≤ y.1 then x :: y :: t else y :: insertStamp x t

/-- The entry of a request, sent again: it keeps SEQ and ORIGIN and takes the staged plane of its bucket. -/
def replayOne (s : State) (pkg id : Nat) : State :=
  let plane := fun d : Nat => Tab.get 0 (s.pkgOf pkg).shadowMap (bucketOf d)
  let next := { s with nextId := s.nextId + 1 }
  match Tab.find s.msgs id, Tab.find s.gates id with
  | some m, _ =>
    (match m.tgt with
     | .dev d => putMsg next id { m with state := .flying, replay := true, plane := plane d, stamp := s.nextId }
     | .host _ => s)
  | none, some g =>
    let done := match g.state with
      | .answered _ => some g.state
      | .trapped _ => some g.state
      | _ => g.recorded
    setGateOp next id { g with state := .sent, replay := true, recorded := done, plane := plane g.home, stamp := s.nextId }
  | none, none => s

/-- Step 2 for one package: unanswered requests of a dead plane travel again, in SEQ order. -/
def replayMsgs (s : State) (pkg : Nat) (dead : List Nat) : State :=
  let ms := (s.msgs.filter fun m => m.2.req.pkg == pkg).filterMap fun m => (replayStamp m.2 dead).map fun n => (n, m.1)
  let gs := (s.gates.filter fun g => gatePkg s g.2 == pkg).filterMap fun g => (gateReplays g.2 dead).map fun n => (n, g.1)
  ((ms ++ gs).foldr insertStamp []).foldl (fun s x => replayOne s pkg x.2) s

/-- Steps 1 and 2 on one package. -/
def startQuiesce (s : State) (plane : Nat) (loaded : Bool) (pkg : Nat) : State :=
  let p := s.pkgOf pkg
  let dead := match p.quiesce with
    | some q => (q.dead ++ [plane]).eraseDups
    | none => [plane]
  let start := match p.quiesce with
    | some q => q.start
    | none => s.now
  let posted := match p.quiesce with
    | some q => q.posted
    | none => []
  let back := match p.quiesce with
    | some q => q.back.filter (· != plane)
    | none => []
  let live := (List.range 8).filter fun i => p.live.getLsbD i && !dead.contains i
  let s := if p.devstat.getLsbD 19 then s else raiseDevstat s pkg 19
  let s := s.updPkg pkg fun p =>
    { p with
      shadowMap := if loaded then p.shadowMap else rehash p dead live
      live := p.live &&& ~~~(1#8 <<< plane)
      quiesce := some { dead := dead, start := start, posted := posted, back := back } }
  if live.isEmpty then leavePod s pkg
  else
    let s := setFrozen s pkg ((s.pkgOf pkg).frozen ||| (1#8 <<< plane))
    replayMsgs s pkg dead

/-- Packages whose report a package waits for. -/
def awaited (s : State) (pkg : Nat) : List Nat :=
  let p := s.pkgOf pkg
  (s.pkgs.filter fun e => e.1 != pkg && !e.2.left && !p.fenced.contains e.1).map (·.1)

/-- Step 5: a package that has ticked and has every report clears FROZEN of the dead and the returned planes. -/
def tryResume (s : State) (pkg : Nat) : State :=
  match (s.pkgOf pkg).quiesce with
  | none => s
  | some q =>
    if q.ticked && (awaited s pkg).all q.reports.contains then
      let f := (q.dead ++ q.back).foldl (fun (f : BitVec 8) i => f &&& ~~~(1#8 <<< i)) (s.pkgOf pkg).frozen
      setFrozen (s.updPkg pkg fun p => { p with quiesce := none }) pkg f
    else s

/-- The status event of each dead plane, to every partition that spans packages. -/
def fabricEvent (s : State) (dead : List Nat) (ver : Nat) : State :=
  let parts := (s.pkgs.flatMap fun e : Nat × Pkg => (validEnts e.2.layout).map fun L => L.podPart.toNat)
  let wide := (parts.filter fun n => 1 < (parts.filter (· == n)).length).eraseDups
  dead.foldl (fun s d => wide.foldl (fun s n => postEvent s n 1 (BitVec.ofNat 64 (d + ver <<< 16))) s) s

/-- Requests that waited for this package's version: those held here are checked again, its own refused ones reinject. -/
def recheckHeld (s : State) (pkg : Nat) : State :=
  let ver := (s.pkgOf pkg).ver.toNat
  let s := { s with
    msgs := s.msgs.map fun m : Nat × Msg =>
      match m.2.state, m.2.tgt with
      | .heldHome, .dev d => if d >>> 44 == pkg && !verAhead m.2.ver ver then (m.1, { m.2 with state := .flying }) else m
      | _, _ => m
    gates := s.gates.map fun g : Nat × GateOp =>
      if g.2.state == GateState.heldMap && gateHome g.2.home == pkg && !verAhead g.2.ver ver then (g.1, { g.2 with state := .sent }) else g }
  let s := ((s.msgs.filter fun m => m.2.req.pkg == pkg && (match m.2.state with
    | .retryWait v => verReached ver v
    | _ => false)).map (·.1)).foldl inject s
  (s.gates.filter fun g => gatePkg s g.2 == pkg && (match g.2.state with
    | .retryWait v => verReached ver v
    | _ => false)).foldl (fun s g => injectGate s g.1 g.2 g.2.home) s

/-- SHADOW becomes MAP, and VER advances. -/
def copyMap (s : State) (pkg : Nat) : State :=
  recheckHeld (s.updPkg pkg fun p => { p with map := p.shadowMap, ver := p.ver + 1, measured := (p.layout, p.shadowMap) }) pkg

/-- Before a quiesce starts again after a package has ticked, the packages that have not ticked tick, so that all hold one
map (log 93). -/
def tickRest (s : State) (ps : List Nat) : State :=
  let late := ps.filter fun k => (s.pkgOf k).quiesce.any fun q => !q.ticked
  if ps.all fun k => (s.pkgOf k).quiesce.all fun q => !q.ticked then s
  else late.foldl copyMap s

/-- A plane is found dead: each package that belongs to the pod starts, or starts again, its quiesce. -/
def planeDead (s : State) (plane : Nat) (loaded : Bool) : State :=
  let ps := (s.pkgs.filter fun e => !e.2.left).map (·.1)
  let known := ps.all fun k => !(s.pkgOf k).live.getLsbD plane
  if 8 ≤ plane || ps.isEmpty || known then s
  else (ps.foldl (fun s k => startQuiesce s plane loaded k) (tickRest s ps)).tell (.planeLost plane)

/-- PLANE_DEAD: plane sub of the subject is found dead; flag: H has loaded SHADOW on every package. -/
def execPlaneDead (s : State) : Host.Outcome State Fault Refusal := .next (planeDead s s.subject.sub s.subject.flag)

/-- COMMIT of the plane map. -/
def commitMap (s : State) (pkg : Nat) : State :=
  let p := s.pkgOf pkg
  if (List.range 256).any fun b => !p.live.getLsbD (Tab.get 0 p.shadowMap b) then s.tell (.registerError pkg)
  else
    let s := copyMap s pkg
    match p.quiesce with
    | none => s
    | some q =>
      if q.ticked then s
      else
        let s := s.updPkg pkg fun p => { p with quiesce := some { q with ticked := true } }
        let others := (s.pkgs.filter fun e => e.1 != pkg && !e.2.left).map (·.1)
        let s := others.foldl (fun s k => s.updPkg k fun o =>
          { o with quiesce := o.quiesce.map fun r => { r with coming := r.coming ++ [pkg] } }) s
        let first := !(s.pkgs.any fun e => e.1 != pkg && !e.2.left && e.2.ver == (s.pkgOf pkg).ver)
        let s := if first then fabricEvent s (q.dead.filter fun d => !q.posted.contains d) (s.pkgOf pkg).ver.toNat else s
        let s := if first then { s with pkgs := s.pkgs.map fun e : Nat × Pkg =>
            (e.1, { e.2 with quiesce := e.2.quiesce.map fun r => { r with posted := r.dead } }) } else s
        tryResume s pkg

/-- Step 3: a replay of the package is not answered. -/
def replaysOut (s : State) (pkg : Nat) : Bool :=
  (s.msgs.any fun m => m.2.req.pkg == pkg && m.2.replay) || s.gates.any fun g => g.2.replay && g.2.state == .sent && gatePkg s g.2 == pkg

/-- A request of the package that a freeze holds back has been injected and is not answered (R106). One that its home has
refused waits for the tick itself (R99). -/
def frozenOut (s : State) (pkg : Nat) : Bool :=
  (s.msgs.any fun m => m.2.req.pkg == pkg &&
    (match m.2.tgt, m.2.state with
    | _, .queued => false
    | _, .retryWait _ => false
    | .dev d, _ => bucketFrozen (s.pkgOf pkg) (bucketOf d)
    | .host _, _ => false)) || s.gates.any fun g => gatePkg s g.2 == pkg && g.2.buffered && bucketFrozen (s.pkgOf pkg) (bucketOf g.2.home) &&
      !g.2.inTable

/-- PLANE_MAP_COMMIT: COMMIT of the subject's package is written; in a quiesce, after its replays are answered; for a
plane that returns, after the answers of the moved buckets. -/
def execPlaneMapCommit (s : State) : Host.Outcome State Fault Refusal :=
  let pkg := s.subject.pkg
  match Tab.find s.pkgs pkg with
  | none => .next s
  | some p =>
    let returns := p.quiesce.any fun q => !q.back.isEmpty
    if (p.quiesce.isSome && replaysOut s pkg) || (returns && frozenOut s pkg) then .next s else .next (commitMap s pkg)

/-- QUIESCE_REPORT: the report of package idx reaches the subject's package. -/
def execQuiesceReport (s : State) : Host.Outcome State Fault Refusal :=
  let pkg := s.subject.pkg
  let k := s.subject.idx
  match (s.pkgOf pkg).quiesce with
  | none => .next s
  | some q =>
    if !q.coming.contains k then .next s
    else .next (tryResume (s.updPkg pkg fun p =>
      { p with quiesce := some { q with coming := q.coming.erase k, reports := q.reports ++ [k] } }) pkg)

/-- PACKAGE_FENCE_OUT: the bound has passed without the report of package idx; the subject's package fences it out. -/
def execPackageFenceOut (s : State) : Host.Outcome State Fault Refusal :=
  let pkg := s.subject.pkg
  let k := s.subject.idx
  match (s.pkgOf pkg).quiesce with
  | none => .next s
  | some q =>
    if q.reports.contains k || !(awaited s pkg).contains k || s.now < q.start + 200000 * (q.dead ++ q.back).length then .next s
    else
      let s := s.updPkg pkg fun p => { p with fenced := p.fenced ++ [k] }
      let s := failGates (failMsgs s 4 fun m => m.req.pkg == pkg && remoteMsg m == some k) pkg
      .next (tryResume (s.tell (.fencedOut k)) pkg)

/-! ## The loss of units (R12, R386, R398) -/

/-- The operations that run on the engines of a lost die end as an access of theirs that gets no answer, and so do the
collectives that use its port (01_machine.md R12; log 116). -/
def loseEngines (s : State) (pkg d : Nat) : State :=
  let hit := s.engs.filter fun e => e.2.pkg == pkg && e.2.die == d && e.2.phase != .queued && e.2.phase != .ended
  let s := hit.foldl (fun s e => (Tab.find s.engs e.1).elim s fun x => if x.phase == .ended then s else engBreak s e.1 x 4 0 0) s
  let s := failNetwork s fun e => usesPort e pkg d
  s.updPkg pkg fun p => { p with eth := Tab.set p.eth d { Tab.get {} p.eth d with up := false } }

/-- A die is lost: every block on it fails, its operations end, its quads are retired, and its banks and groups with it.
Its plane is dead (01_machine.md R12, 05_fabric.md R103). -/
def loseDie (s : State) (pkg d : Nat) : State :=
  let qs := (List.range 12).map fun i => 12 * d + i
  let s := failCores s (quadCores pkg qs) (.die pkg d)
  let s := s.updPkg pkg fun p =>
    { p with
      lostDies := addLost p.lostDies [d]
      lostBanks := addLost p.lostBanks ((List.range 16).map fun i => 16 * d + i)
      lostGroups := addLost p.lostGroups ((List.range 16).map fun i => 16 * d + i) }
  planeDead (retireQuads (loseEngines s pkg d) pkg qs (withoutDie d)) d false

/-- UNIT_LOSS: unit idx of the subject's kind, on the subject's package, is lost. -/
def execUnitLoss (s : State) : Host.Outcome State Fault Refusal :=
  let j := s.subject
  let pkg := j.pkg
  if (Tab.find s.pkgs pkg).isNone then .next s
  else
    let told := fun s : State => s.tell (.unitLost pkg j.loss j.idx)
    match j.loss with
    | .core => if 384 ≤ j.idx then .next s else .next (told (loseQuad s pkg (j.idx / 4) [coreGid pkg j.idx]
      (.core pkg (physQuad s (coreGid pkg j.idx)) (j.idx % 4))))
    | .quad => if 96 ≤ j.idx then .next s else .next (told (loseQuad s pkg j.idx (quadCores pkg [j.idx])
      (.quad pkg (physQuad s (coreGid pkg (4 * j.idx))))))
    | .die => if 8 ≤ j.idx then .next s else .next (told (loseDie s pkg j.idx))
    | .bank => if 128 ≤ j.idx then .next s
      else .next (told (s.updPkg pkg fun p => { p with lostBanks := addLost p.lostBanks [j.idx] }))
    | .group => if 128 ≤ j.idx then .next s
      else .next (told (s.updPkg pkg fun p => { p with lostGroups := addLost p.lostGroups [j.idx] }))

/-! ## The background scrub (R60) -/

/-- The count that a line's corrected errors belong to: a channel group, or 128 and a second-tier channel. -/
def scrubUnit (p : Pkg) (off : Nat) : Nat :=
  if off < 2 ^ 40 then ((hbmGroup p off).map (·.1)).getD 0 else 128 + (tier2Channel off).1

/-- An error of a unit is corrected: its count rises, and H is told when it reaches the threshold. -/
def countCorrected (s : State) (pkg n : Nat) : State :=
  let c := Tab.get 0 (s.pkgOf pkg).corrected n + 1
  let s := s.updPkg pkg fun p => { p with corrected := Tab.set p.corrected n c }
  if c == (s.pkgOf pkg).corrThreshold then s.tell (.corrected pkg n) else s

/-- The scrub period that a package is in, from 1 on; an hour is 360 thousand million ticks. -/
def scrubPeriod (s : State) (p : Pkg) : Nat := s.now / (p.scrubHours * 360000000000) + 1

/-- BACKGROUND_SCRUB: the scrub of the subject's package reaches the line at offset off, which it has not reached in this
period; flag: it corrects an error. -/
def execBackgroundScrub (s : State) : Host.Outcome State Fault Refusal :=
  let pkg := s.subject.pkg
  let line := s.subject.off / 64
  match Tab.find s.pkgs pkg with
  | none => .next s
  | some p =>
    if 2 ^ 35 ≤ line || scrubPeriod s p ≤ Tab.get 0 p.scrubbed line then .next s
    else
      let s := s.updPkg pkg fun p => { p with scrubbed := Tab.set p.scrubbed line (scrubPeriod s p) }
      let s := if s.subject.flag then countCorrected s pkg (scrubUnit p (line * 64)) else s
      let u := (pkg <<< 44 + line * 64) / 32
      .next ([u, u + 1].foldl (fun s x => if s.bad.contains x then s.tell (.scrubFound pkg (x * 32)) else s) s)

/-! ## Writes of H to device registers (R58, R388, R98, R393) -/

/-- A write to the layout block. -/
def writeLayout (s : State) (pkg o : Nat) (v : DWord) (mask : Nat) : State :=
  let p := s.pkgOf pkg
  let all := mergeHalf (layoutRead p o) v mask
  if o < 0x1000 then
    if p.committing then s
    else s.updPkg pkg fun p =>
      let e := Tab.get {} p.shadow (o / 0x80)
      { p with shadow := Tab.set p.shadow (o / 0x80) (e.setWord (o % 0x80) (mergeHalf (e.word (o % 0x80)) v mask)) }
  else if 0x3000 ≤ o && o < 0x3060 then
    writePlace s pkg (o - 0x3000 + if mask == 2 then 4 else 0)
      (if mask == 3 then leBytes 8 v.toNat else if mask == 1 then leBytes 4 v.toNat else leBytes 4 (v.toNat >>> 32))
  else if 0x2050 ≤ o && o < 0x2078 then
    let sh := 8 * (o - 0x2050)
    s.updPkg pkg fun p => { p with podmask := (p.podmask &&& ~~~((BitVec.allOnes 64).setWidth 320 <<< sh)) ||| (all.setWidth 320 <<< sh) }
  else match o with
    | 0x2008 => if bitAt mask 0 && v.getLsbD 0 then startCommit s pkg else s
    | 0x2010 => if bitAt mask 0 && v.getLsbD 4 then clearErr s pkg else s
    | 0x2020 => s.updPkg pkg fun p => { p with frgpa := all &&& 0x000FFFFFFE003FFF#64 }
    | 0x2028 => writeFrgo s pkg all
    | 0x2038 => s.updPkg pkg fun p => { p with hshadow := all }
    | 0x2048 =>
      let a := bits all.toNat 52 2
      if bits all.toNat 14 11 != 0 || bits all.toNat 54 10 != 0 || a == 0 || a == 3 then s
      else answerHeld s pkg (bits all.toNat 0 14) (bits all.toNat 25 27) (a == 2)
    | _ => s

/-- A write to the plane-map registers. -/
def writePlane (s : State) (pkg o : Nat) (v : DWord) (mask : Nat) : State :=
  if 0x80 ≤ o && o < 0x100 then writeShadow s pkg (2 * (o - 0x80)) v mask
  else match o with
    | 0x108 => if bitAt mask 0 && v.getLsbD 0 then commitMap s pkg else s
    | 0x110 => writeLive s pkg (mergeHalf (planeRead (s.pkgOf pkg) 0x110) v mask)
    | _ => s

/-- A write of H at an 8-byte offset of the register window. -/
def writeRegister (s : State) (pkg off : Nat) (v : DWord) (mask : Nat) : State :=
  if winBase + 0x100000 ≤ off && off < winBase + 0x104000 then writeLayout s pkg (off - (winBase + 0x100000)) v mask
  else if winBase + 0x200000 ≤ off && off < winBase + 0x201000 then writePlane s pkg (off - (winBase + 0x200000)) v mask
  else if inPage off then
    match pageWrite s pkg (pageIndex off) ((off - (winBase + 0x2000000)) % 0x2000000) v mask .h none with
    | .ok s' => s'
    | .bad _ => s.tell (.registerError pkg)
  else s

/-- REGISTER_WRITE: H writes sub bytes (4 or 8) of the subject's value at offset off of the subject's package; with flag,
the oldest store of level H that has reached a register only H may reach takes its effect. -/
def execRegisterWrite (s : State) : Host.Outcome State Fault Refusal :=
  let j := s.subject
  match Tab.find s.pkgs j.pkg with
  | none => .next s
  | some p =>
    if j.flag then
      match p.hwrites with
      | [] => .next s
      | w :: t => .next (writeRegister (s.updPkg j.pkg fun p => { p with hwrites := t }) j.pkg w.1 w.2.2 w.2.1)
    else if j.off < winBase || 2 ^ 44 ≤ j.off then .next s
    else if !(j.sub == 4 || j.sub == 8) || j.off % j.sub != 0 then .next (s.tell (.registerError j.pkg))
    else if j.sub == 8 then .next (writeRegister s j.pkg j.off j.val 3)
    else if j.off % 8 == 0 then .next (writeRegister s j.pkg j.off j.val 1)
    else .next (writeRegister s j.pkg (j.off - 4) (j.val <<< 32) 2)

end Sys2Proof.Machine
end

