-- ==== Sys2Proof/Machine/HostLink.lean ====
section
/-! DEFINITION. The host link and the package's management: page requests, address translation, invalidations, host
writes, completions, link and function resets, power-on, attestation, throttling (04_translation.md R85 to R88,
05_fabric.md R108 to R110, 00_scope.md R6, 17_partitions.md R408, R409). -/

namespace Sys2Proof.Machine

def funcOf (p : Pkg) (part : Nat) : Func := Tab.get {} p.funcs part

def updFunc (s : State) (pkg part : Nat) (f : Func → Func) : State :=
  s.updPkg pkg fun p => { p with funcs := Tab.set p.funcs part (f (funcOf p part)) }

/-! ## Page requests (R87, R88) -/

/-- PRI_DOORBELL: the store at place idx of the subject's package's doorbells takes the lowest free request slot of the
virtual function that H has bound to its partition (05_fabric.md R108). -/
def execPriDoorbell (s : State) : Host.Outcome State Fault Refusal :=
  let pkg := s.subject.pkg
  match ((s.pkgOf pkg).doorbells[s.subject.idx]?).filter fun d => (s.pkgOf pkg).bound d.1 with
  | none => .next s
  | some d =>
    match (List.range 32).find? fun i => (Tab.find (funcOf (s.pkgOf pkg) d.1).pri i).isNone with
    | none => .next s
    | some i =>
      let s := s.updPkg pkg fun p => { p with doorbells := p.doorbells.erase d }
      .next (updFunc s pkg d.1 fun f => { f with pri := Tab.set f.pri i { unit := d.2.1, page := bits d.2.2.toNat 16 36, write := d.2.2.getLsbD 0 } })

/-- The context of a unit, resident or saved. -/
def unitCtx (s : State) (part : Nat) (u : UnitId) : Option Word :=
  match Tab.find s.blocks (unitBlock u) with
  | some B => some B.ctx
  | none => ((s.partOf part).saved.find? fun v => v.b == unitBlock u).map (·.ctx)

/-- PAGE_REQUEST_RESPONSE: the host answers a page request group of the subject's partition on the subject's package: the
group index is the subject's value, the response code sub. -/
def execPageRequestResponse (s : State) : Host.Outcome State Fault Refusal :=
  let j := s.subject
  match (Tab.find s.pkgs j.pkg).filter fun p => p.bound j.part with
  | none => .next s
  | some p =>
    let f := funcOf p j.part
    let slot := bits j.val.toNat 0 5
    match if bits j.val.toNat 5 4 == f.gen then Tab.find f.pri slot else none with
    | none => .next (s.updCounts j.pkg j.part fun c => { c with latePri := c.latePri + 1 })
    | some r =>
      let s := updFunc s j.pkg j.part fun f => { f with pri := Tab.del f.pri slot }
      match unitCtx s j.part r.unit with
      | none => .next s
      | some c => .next (s.updPart j.part fun P =>
          { P with events := latchEvent P.events c 0 (some r.unit) (BitVec.ofNat 64 (slot + (j.sub % 16) <<< 8)) })

/-! ## Requests to host memory (R85, R109) -/

/-- The Translation Requests of a function for accesses that are made in one step, oldest first. -/
def wantsOf (s : State) (pkg part : Nat) : List AtsWant := ((s.pkgOf pkg).atsWant).filter (·.part == part)

/-- Translation Requests that may be outstanding for a function: 64, those of one-step accesses among them. -/
def atsOut (s : State) (pkg part : Nat) : List Nat :=
  ((s.msgs.filter fun m => m.2.ats && m.2.req.pkg == pkg && m.2.req.part == part).map (·.1)).take (64 - (wantsOf s pkg part).length)

/-- A host request completes as uncorrectable of kind HOST. -/
def failHost (s : State) (id : Nat) (m : Msg) : State :=
  mergeAnswer { s with msgs := Tab.del s.msgs id } m.req.op 1 0 (failKind m.req 5)

/-- An entry takes its place among the 1,024 of a function's ATC. -/
def putAtc (s : State) (pkg part : Nat) (e : AtcEnt) : State :=
  updFunc s pkg part fun f =>
    let old := f.atc.filter fun x => x.page != e.page
    { f with atc := (if old.length < 1024 then old else old.drop 1) ++ [e] }

/-- A one-step access whose Translation Request has been answered is made again. -/
def wantMet (s : State) (pkg : Nat) (w : AtsWant) : State :=
  let s := s.updPkg pkg fun p => { p with atsWant := p.atsWant.erase w }
  match w.unit with
  | some u => unhold s u
  | none => s

/-- One that is refused or not answered fails with MEMERR of kind HOST: at its instruction (log 94), or at its engine. -/
def wantFails (s : State) (pkg : Nat) (w : AtsWant) : State :=
  let s := s.updPkg pkg fun p => { p with atsWant := p.atsWant.erase w }
  match w.unit, Tab.find s.engs w.eng with
  | some u, _ => refuseUnit s u (memTrap w.gpa 5)
  | none, some e => engBreak s w.eng e 4 0 e.addr.toNat
  | none, none => s

/-- ATS_TRANSLATION_COMPLETION: to the virtual function bound to the subject's partition on its package, of request idx, or,
with idx 0, of the oldest one-step access: the page's translated address is the subject's off, flag and flag2 grant reads and writes; sub other than 0:
Unsupported Request or Completer Abort. -/
def execAtsTranslationCompletion (s : State) : Host.Outcome State Fault Refusal :=
  let j := s.subject
  if !(s.pkgOf j.pkg).bound j.part then .next s
  else match Tab.find s.msgs j.idx, (wantsOf s j.pkg j.part).head? with
  | some m, _ =>
    (match m.tgt with
     | .dev _ => .next s
     | .host ha =>
       if !m.ats || m.req.pkg != j.pkg || m.req.part != j.part || !(atsOut s j.pkg j.part).contains j.idx then .next s
       else if j.sub != 0 then .next (failHost s j.idx m)
       else
         let e : AtcEnt := { page := ha >>> 12, dst := j.off >>> 12, r := j.flag, w := j.flag2, granule := m.req.gpa >>> 25 }
         let granted := if (if m.req.write then e.w else e.r) then some ((e.dst <<< 12) + ha % 4096) else none
         .next (putMsg (putAtc s m.req.pkg m.req.part e) j.idx { m with ats := false, sentAs := granted, sent := s.now }))
  | none, some w =>
    if j.idx != 0 then .next s
    else if j.sub != 0 then .next (wantFails s j.pkg w)
    else .next (wantMet (putAtc s j.pkg j.part { page := w.page, dst := j.off >>> 12, r := j.flag, w := j.flag2, granule := w.gpa >>> 25 }) j.pkg w)
  | none, none => .next s

/-- An earlier request of the package to the same host line has not completed. -/
def hostLineBusy (s : State) (id : Nat) (m : Msg) (ha : Nat) : Bool :=
  s.msgs.any fun x => x.1 < id && x.2.req.pkg == m.req.pkg &&
    match x.2.tgt with
    | .host h => h / 64 == ha / 64
    | .dev _ => false

/-- The accesses that an operation has still to make: virtual address, and whether it writes. -/
def engNext (e : EngOp) : List (Nat × Bool) :=
  if e.phase == .ended then [(e.tag.toNat % 2 ^ 52, true)]
  else if e.opc == 8 then
    let own := e.ring.getD e.coll.rank {}
    match e.phase with
    | .running => [(e.ra.toNat, false), (e.coll.ring + 32 * e.coll.rank, false)]
    | .collRing => [(e.coll.ring, false)]
    | .collReady => [(e.coll.ready, false)]
    | _ => [(own.bucket, true), (own.stage, true), ((e.ring.getD (rightRank e.coll) {}).stage, true), ((e.ring.getD (leftRank e.coll) {}).stage, true)]
  else if e.desc.isNone then [(e.ra.toNat, false)]
  else if e.isSerial then [(fld e.descBytes 0x10 8 + 4 * e.sent, false), (fld e.descBytes 8 8 + e.sent * fld e.descBytes 0x1C 2, e.opc == 5)]
  else (((engSrcs e).filter fun p => (e.got p.1 p.2).isNone).map fun p => (p.1, false)) ++ e.dstsLeft.map fun p => (p.1, true)

/-- The first of them that goes to host memory. -/
def engHostVa (s : State) (e : EngOp) : Option Nat :=
  (engNext e).findSome? fun p =>
    match engXlate s e p.1 p.2 with
    | .no _ _ => none
    | .ok t x =>
      match locate t e.pkg e.part x.1 p.2 with
      | some (.host _) => some p.1
      | _ => none

/-- The request of an operation's access to host memory is sent as soon as it can be. -/
def askHost (s : State) (e : EngOp) : EngOp :=
  if e.phase == .queued then e
  else match engHostVa s e with
    | some va => if e.asked.any (·.1 == va) then e else { e with asked := some (va, s.now) }
    | none => { e with asked := none }

/-- The host does not complete an access of operation id: it ends with ENGINE_FAULT, cause MEMERR (R109). -/
def engHostFails (s : State) (id : Nat) (e : EngOp) : Host.Outcome State Fault Refusal :=
  if e.phase == .queued then .next s
  else match engHostVa s e with
    | some va => .next (engBreak s id e 4 0 va)
    | none => .next s

/-- HOST_COMPLETION: request idx of the subject completes; flag: with Completer Abort or Unsupported Request, also for an
access of engine operation idx. -/
def execHostCompletion (s : State) : Host.Outcome State Fault Refusal :=
  let id := s.subject.idx
  match Tab.find s.msgs id, Tab.find s.engs id with
  | some m, _ =>
    (match m.tgt with
     | .dev _ => .next s
     | .host ha =>
       if m.ats || !(s.pkgOf m.req.pkg).linkUp then .next s
       else if s.subject.flag then .next (failHost s id m)
       else if hostLineBusy s id m ha then .next s
       else
         let r := performHostLine { s with msgs := Tab.del s.msgs id } m.req (m.sentAs.getD ha)
         .next (mergeAnswer r.1 m.req.op 1 0 r.2))
  | none, some e => if s.subject.flag then engHostFails s id e else .next s
  | none, none => .next s

/-- COMPLETION_TIMEOUT: host request idx, or its Translation Request, has no completion after 50 reference ms; with idx 0,
the oldest Translation Request of a one-step access of the subject's partition; or an access of engine operation idx. -/
def execCompletionTimeout (s : State) : Host.Outcome State Fault Refusal :=
  let j := s.subject
  match Tab.find s.msgs j.idx, Tab.find s.engs j.idx, (wantsOf s j.pkg j.part).head? with
  | some m, _, _ =>
    (match m.tgt with
     | .dev _ => .next s
     | .host _ => if s.now < m.sent + 5000000 then .next s else .next (failHost s j.idx m))
  | none, some e, _ =>
    if e.asked.any fun a => decide (a.2 + 5000000 ≤ s.now) && engHostVa s e == some a.1 then engHostFails s j.idx e else .next s
  | none, none, some w => if j.idx != 0 || s.now < w.sent + 5000000 then .next s else .next (wantFails s j.pkg w)
  | none, none, none => .next s

/-! ## Invalidations (R86) -/

/-- The work of an invalidation begins: without a PASID the ATC's entries go, and it waits for what was sent Translated
through them; with one, the pages of the context are swept. -/
def beginInval (s : State) (pkg part : Nat) (v : Inval) : State × Inval :=
  let inRange := fun page : Nat => decide (v.first ≤ page) && decide (page < v.first + v.n)
  if !v.pasid then
    let sent := s.msgs.filter fun m => m.2.req.pkg == pkg && m.2.req.part == part && m.2.sentAs.isSome && (match m.2.tgt with
      | .host ha => inRange (ha >>> 12)
      | .dev _ => false)
    (updFunc s pkg part fun f => { f with atc := f.atc.filter fun e => !inRange e.page }, { v with begun := true, waits := sent.map (·.1) })
  else
    match (partContexts s part).find? fun c => c.extractLsb' 0 12 == v.ctx.extractLsb' 0 12 with
    | none => (s, { v with begun := true })
    | some c =>
      let lo := v.first / 16
      ({ s with
         nextId := s.nextId + 1
         sweeps := Tab.set s.sweeps s.nextId { part := part, kind := .pages c lo ((v.first + v.n + 15) / 16 - lo) } },
       { v with begun := true, sweep := some s.nextId })

/-- The oldest invalidation of a function begins if it has not. -/
def nextInval (s : State) (pkg part : Nat) : State :=
  match (funcOf (s.pkgOf pkg) part).invals with
  | [] => s
  | v :: t =>
    if v.begun then s
    else
      let r := beginInval s pkg part v
      updFunc r.1 pkg part fun f => { f with invals := r.2 :: t }

/-- ATS_INVALIDATION_REQUEST: the host names idx pages of 4 KiB from address off of the subject's function; with flag,
under a PASID, in the virtual space of the context that ctx's low 12 bits name. At most 32 are outstanding; they are
processed in the order of their arrival. -/
def execAtsInvalidationRequest (s : State) : Host.Outcome State Fault Refusal :=
  let j := s.subject
  if !(s.pkgOf j.pkg).bound j.part || j.idx == 0 || 32 ≤ (funcOf (s.pkgOf j.pkg) j.part).invals.length then .next s
  else
    let v : Inval := { first := j.off >>> 12, n := j.idx, pasid := j.flag, ctx := j.ctx }
    .next (nextInval (updFunc s j.pkg j.part fun f => { f with invals := f.invals ++ [v] }) j.pkg j.part)

/-- The oldest invalidation of a function whose work has completed is answered by its Invalidation Completion, and the next
one begins. -/
def invalDone (s : State) (pkg part : Nat) : State :=
  match (funcOf (s.pkgOf pkg) part).invals with
  | [] => s
  | v :: t =>
    if !v.begun || (v.waits.any fun id => (Tab.find s.msgs id).isSome) || (v.sweep.any fun id => (Tab.find s.sweeps id).isSome) then s
    else nextInval (updFunc s pkg part fun f => { f with invals := t, invDone := f.invDone + 1 }) pkg part

/-! ## Inbound requests (R108, R109) -/

/-- The host writes a register of a function's page through its BAR, below level S. -/
def barWrite (s : State) (pkg part off : Nat) (v : DWord) (halves : Nat) : State :=
  let p := s.pkgOf pkg
  if !p.linkUp || !p.bound part || halves == 0 || 4 ≤ halves || off % 8 != 0 then s
  else match p.layout.find? fun e => e.2.valid && e.2.podPart.toNat == part with
    | none => s
    | some L =>
      match pageWrite s pkg L.1 off v halves .u none with
      | .ok s' => s'
      | .bad _ => s

/-- The partition of the package in a sealed region of which a byte of device memory lies (03_memory.md R66). -/
def sealOwner (s : State) (pkg d : Nat) : Option Nat :=
  (s.parts.find? fun P => P.2.seals.any fun q => q.frames.any fun f =>
    locate s pkg P.1 (f <<< 16) false == some (.dev (d >>> 16 <<< 16))).map (·.1)

/-- The host writes bytes through a CXL.mem window: a write to a sealed region is refused and counted; else they are stored in device memory unless they meet an uncorrectable unit
that they do not rewrite whole (03_memory.md R62). -/
def cxlWrite (s : State) (pkg addr : Nat) (bs : List Byte) : State :=
  match (s.pkgOf pkg).cxl.find? fun w => decide (w.base ≤ addr) && decide (addr + bs.length ≤ w.base + w.len) with
  | none => s
  | some w =>
    if !(s.pkgOf pkg).linkUp then s
    else match (pieces (bs.length / 64 + 2) (w.dpa + (addr - w.base)) bs.length).findSome? fun p => sealOwner s pkg p.1 with
    | some n => s.updCounts pkg n fun c => { c with hostRef := c.hostRef + 1 }
    | none => (pieces (bs.length / 64 + 2) (w.dpa + (addr - w.base)) bs.length).foldl (fun s p =>
      let b := (bs.drop (p.1 - (w.dpa + (addr - w.base)))).take p.2
      let ops : List LaneOp := [{ key := 0, off := p.1 % 64, act := .wr b }]
      let bad := (List.range 2).filter fun u => s.bad.contains (p.1 / 64 * 2 + u)
      if (storesOk bad ops).isEmpty then s.tell (.storeDropped 0 p.1)
      else { s with
        mem := Memory.writeBytes s.mem p.1 b
        bad := s.bad.filter fun u => !(curedUnits bad ops).any fun c => u == p.1 / 64 * 2 + c }) s

/-- INBOUND_WRITE: the host writes the subject's bytes at guest-physical address off of the subject's partition, through the
virtual function that H has bound to it (R108). A write to a sealed region is refused and counted; one that the second stage refuses is told to H. -/
def execInboundWrite (s : State) : Host.Outcome State Fault Refusal :=
  let j := s.subject
  if j.bytes.isEmpty || !(s.pkgOf j.pkg).linkUp || (layoutOf s j.pkg j.part).isNone || !(s.pkgOf j.pkg).bound j.part then .next s
  else if (pieces (j.bytes.length / 64 + 2) j.off j.bytes.length).any fun p => isSealed s j.part p.1 then
    .next (s.updCounts j.pkg j.part fun c => { c with hostRef := c.hostRef + 1 })
  else match gpaWrite s j.pkg j.part j.off j.bytes 0 with
    | .ok s' => .next s'
    | .s2 g => .next (noThread s j.part g)
    | .mem g _ => .next (noThread s j.part g)
    | .win g _ => .next (noThread s j.part g)
    | .wait w => .next (s.bar j.pkg j.part w)

/-- PEER_TO_PEER_REQUEST: refused as Unsupported Request. -/
def execPeerToPeerRequest (s : State) : Host.Outcome State Fault Refusal :=
  if (Tab.find s.pkgs s.subject.pkg).isNone then .next s
  else .next (s.updPkg s.subject.pkg fun p => { p with refusedP2p := p.refusedP2p + 1 })

/-! ## Link and function resets (R110) -/

/-- A function starts a new generation: its slots are free and its ATC is empty. -/
def Func.restart (f : Func) : Func := { f with gen := (f.gen + 1) % 16, pri := [], atc := [] }

/-- Host requests that a test names fail, as R109 states. -/
def failHosts (s : State) (f : Msg → Bool) : State :=
  (s.msgs.filter fun m => f m.2 && match m.2.tgt with
    | .host _ => true
    | .dev _ => false).foldl (fun s m => failHost s m.1 m.2) s

/-- The function of a partition starts anew, and what it has asked of the host fails. -/
def restartFunc (s : State) (pkg part : Nat) : State :=
  let s := failHosts (updFunc s pkg part Func.restart) fun m => m.req.pkg == pkg && m.req.part == part
  (wantsOf s pkg part).foldl (fun s w => wantFails s pkg w) s

/-- LINK_DOWN: the host link of the subject's package goes down. -/
def execLinkDown (s : State) : Host.Outcome State Fault Refusal :=
  let pkg := s.subject.pkg
  match Tab.find s.pkgs pkg with
  | none => .next s
  | some p =>
    if !p.linkUp then .next s
    else
      let parts := ((validEnts p.layout).map fun e => e.podPart.toNat) ++ p.funcs.map (·.1)
      .next (parts.eraseDups.foldl (fun s n => restartFunc s pkg n) (s.updPkg pkg fun p => { p with linkUp := false }))

/-- FUNCTION_RESET: the function of the subject's partition on the subject's package is reset or reassigned. -/
def execFunctionReset (s : State) : Host.Outcome State Fault Refusal :=
  let j := s.subject
  if (Tab.find s.pkgs j.pkg).isNone then .next s
  else .next (restartFunc s j.pkg j.part)

/-- A function passes from a partition to another: it starts anew, with the generation that follows, and what it has asked
of the host for the first fails (R110). -/
def moveFunc (s : State) (pkg old part : Nat) : State :=
  (restartFunc s pkg old).updPkg pkg fun p =>
    { p with funcs := Tab.set (Tab.set p.funcs part { funcOf p old with invals := [] }) old {} }

/-- H binds one of the 32 virtual functions to a partition, one to each (R108); a function that is reassigned starts anew. -/
def bindVf (s : State) (pkg vf part : Nat) : State :=
  if 32 ≤ vf || (s.pkgOf pkg).vfs.any fun v => v.1 != vf && v.2 == part then s
  else
    let s := match Tab.find (s.pkgOf pkg).vfs vf with
      | some old => if old == part then s else moveFunc s pkg old part
      | none => s
    s.updPkg pkg fun p => { p with vfs := Tab.set p.vfs vf part }

/-- The host writes ATS Enable of the virtual function bound to a partition (04_translation.md R85). -/
def setAts (s : State) (pkg part : Nat) (on : Bool) : State :=
  if (s.pkgOf pkg).bound part then updFunc s pkg part fun f => { f with atsOn := on } else s

/-! ## Reset and power-on (R6, R408) -/

/-- What stands on a package goes: blocks, cores, operations, and what is on its way from it. -/
def clearPackage (s : State) (pkg : Nat) : State :=
  let bs := (s.blocks.filter fun e => e.2.pkg == pkg).map (·.1)
  let s := bs.foldl (fun s b => dropBlock (stopEngines s fun e => e.b == b) b false) s
  let s := stopEngines s fun e => e.pkg == pkg
  { s with
    cores := s.cores.filter fun c => c.1 / 384 != pkg
    msgs := s.msgs.filter fun m => m.2.req.pkg != pkg
    held := s.held.filter fun h => h.pkg != pkg }

/-- The registers and views of partitions that have no entry left go. -/
def clearParts (s : State) : State :=
  let live := fun n : Nat => s.pkgs.any fun p : Nat × Pkg => (layoutOf s p.1 n).isSome
  { s with parts := s.parts.filter (fun e => live e.1), views := s.views.filter fun v => live v.part }

/-- COLD_RESET: every register of the subject's package takes its reset value. Refills that have fallen due are past. -/
def execColdReset (s : State) : Host.Outcome State Fault Refusal :=
  let pkg := s.subject.pkg
  if (Tab.find s.pkgs pkg).isNone then .next s
  else
    let s := clearPackage s pkg
    let p := { Pkg.reset with refills := s.now / 10000 }
    .next (clearParts (moveMemory (s.updPkg pkg fun _ => p) pkg (s.pkgOf pkg) p))

/-- POWER_ON: the subject's package powers on; flag: both images carry valid signatures. -/
def execPowerOn (s : State) : Host.Outcome State Fault Refusal :=
  let pkg := s.subject.pkg
  match Tab.find s.pkgs pkg with
  | none => .next s
  | some p =>
    if !(validEnts p.layout).isEmpty then .next s
    else if s.subject.flag then .next (s.updPkg pkg fun _ => { Pkg.reset with refills := s.now / 10000 })
    else .next ((s.updPkg pkg fun _ => { Pkg.reset with refills := s.now / 10000, halmetUp := false, recovery := true }).tell (.recovery pkg))

/-! ## Attestation (R408) -/

/-- The device answers over SPDM, when its firmware runs and the link is up. -/
def answerSpdm (s : State) (f : Pkg → SpdmAnswer) : Host.Outcome State Fault Refusal :=
  let pkg := s.subject.pkg
  match Tab.find s.pkgs pkg with
  | none => .next s
  | some p => if !p.halmetUp || !p.linkUp then .next s else .next (s.updPkg pkg fun p => { p with spdm := p.spdm ++ [f p] })

def execGetVersion (s : State) : Host.Outcome State Fault Refusal := answerSpdm s fun _ => .version
def execGetCapabilities (s : State) : Host.Outcome State Fault Refusal := answerSpdm s fun _ => .capabilities
def execNegotiateAlgorithms (s : State) : Host.Outcome State Fault Refusal := answerSpdm s fun _ => .algorithms
def execGetDigests (s : State) : Host.Outcome State Fault Refusal := answerSpdm s fun _ => .digests
def execGetCertificate (s : State) : Host.Outcome State Fault Refusal := answerSpdm s fun _ => .certificate
def execChallenge (s : State) : Host.Outcome State Fault Refusal := answerSpdm s fun _ => .challengeAuth
def execGetMeasurements (s : State) : Host.Outcome State Fault Refusal :=
  answerSpdm s fun p => .measurements (Config.firmwareDigest 0) (Config.firmwareDigest 1) p.measured.1 p.measured.2

/-! ## Power and cooling (R409) -/

/-- THROTTLE: Halmet lowers the clock of die idx of the subject's package by one step of 135 MHz. -/
def execThrottle (s : State) : Host.Outcome State Fault Refusal :=
  let pkg := s.subject.pkg
  let d := s.subject.idx
  match Tab.find s.pkgs pkg with
  | none => .next s
  | some p =>
    let c := Tab.get 2700 p.clocks d
    if 8 ≤ d || c ≤ 135 then .next s else .next (s.updPkg pkg fun p => { p with clocks := Tab.set p.clocks d (c - 135) })

/-- CRITICAL_TEMPERATURE: every context of the subject's package is killed and its clocks stop. -/
def execCriticalTemperature (s : State) : Host.Outcome State Fault Refusal :=
  let pkg := s.subject.pkg
  match Tab.find s.pkgs pkg with
  | none => .next s
  | some p =>
    let who := (validEnts p.layout).flatMap fun e => (partContexts s e.podPart.toNat).map fun c => (e.podPart.toNat, c)
    let s := who.foldl (fun s w => killContext s w.1 w.2) s
    .next ((s.updPkg pkg fun p => { p with stopped := true }).tell (.critical pkg))

end Sys2Proof.Machine
end

