-- ==== Sys2Proof/Machine/Cycle.lean ====
section
/-! DEFINITION. What a step does around an instruction: issuing the next word of a selected clause, the passing of
time, errors of the stores, and the bench on which one bare word runs (02_instruction_words.md R30, 00_scope.md R5,
03_memory.md R59, R61, 09_registers.md R201). -/

namespace Sys2Proof.Machine

/-! ## Issuing a word -/

/-- What the issue of a unit's next word meets. -/
inductive Issue where
  /-- the unit issues nothing now -/
  | idle
  /-- an exception or a wait before the word -/
  | meets (r : Host.Outcome State Fault Refusal)
  /-- the word's instruction, in the state in which it executes -/
  | runs (s : State) (i : Instr)

def encodedWord (i : Instr) : Bool := (encode i).isSome

/-- The subject of the step becomes the unit that issues. -/
def aim (s : State) (u : UnitId) : State := { s with subject := { s.subject with unit := u } }

/-- The port that issues the words of the unit's clause is issuing those of another candidate's: the words of one
clause stand between no two of another's (01_machine.md R26). -/
def portElsewhere (s : State) (I : Issuer) : Bool :=
  match (portAt s I.blk.core I.st.cls).order.getLast? with
  | some v => v != I.u && midClause s I.blk.core I.st.cls v
  | none => false

/-- The next word of the unit's clause: a saved trap is taken first; the word is fetched at pc and decoded under the
class of the header in force (R30, R378). A unit whose wait has ended, or that has returned from a handler, takes its
port again when that issues no other clause. -/
def issueWord (s : State) (u : UnitId) : Issue :=
  match issuerOf s u 0 with
  | none => .idle
  | some I =>
    if I.st.left == 0 || I.st.wait != .none || I.st.stop != .run || (s.pkgOf I.blk.pkg).stopped || portElsewhere s I ||
       expiryDue s u then .idle
    else match I.st.pend with
    | t :: rest => .meets (.next (takeTrap (updStrand s u fun c => { c with pend := rest }) u t))
    | [] =>
      match fetchWord s I I.st.pc.toNat with
      | .no a => .meets (a.finish s I)
      | .ok s' w =>
        match decode I.st.cls w with
        | .instr i => .runs (aim (takePort s' I) u) i
        | .reject _ => .meets (.next (takeTrap s u { cause := .illegalOp, info := w.setWidth 64 }))

/-- A word that did not stall has issued: the stall counter of a lock that its quire holds returns to 0 (R201). -/
def afterIssue (s s' : State) (u : UnitId) : State := if unitStrand s u == unitStrand s' u then s' else touchLock s' u

/-! ## Time (R5, R201, R361) -/

/-- A quire of the pair waits for the lock. -/
def lockWanted (s : State) (b pair : Nat) : Bool :=
  s.quires.any fun e => e.1 / 16 == b && e.1 % 16 / 2 == pair && (e.2.s0.ctl.wait == .xacq || e.2.s1.ctl.wait == .xacq)

/-- The dies' cycle counts of a package after some picoseconds: a clock of f MHz runs f millionths of a cycle in each;
the clocks of a package that is stopped do not run (17_partitions.md R409). -/
def Pkg.run (p : Pkg) (ps : Nat) : Pkg :=
  if p.stopped then p
  else { p with cyc := (List.range 8).map fun d => (d, Tab.get 0 p.cyc d + ps * Tab.get 2700 p.clocks d) }

/-- Time passes in which no word issues: free slots take their work, and engines have sent their requests to the host; a tick is 10 ns; slices and lock stalls count the
core cycles of their own core's die. -/
def passTime (s : State) (ps : Nat) : State :=
  let s := takeAllWork s
  let s := { s with engs := s.engs.map fun e : Nat × EngOp => (e.1, askHost s e.2) }
  let t : State :=
    { s with
      now := s.now + (s.frac + ps) / 10000
      frac := (s.frac + ps) % 10000
      pkgs := s.pkgs.map fun e : Nat × Pkg => (e.1, e.2.run ps) }
  let ran := fun g : Nat => coreCycles t g - coreCycles s g
  { t with
    cores := t.cores.map fun e : Nat × Core => (e.1, if e.2.running.isSome then { e.2 with slice := e.2.slice + ran e.1 } else e.2)
    blocks := t.blocks.map fun e : Nat × Block => (e.1, { e.2 with locks := e.2.locks.map fun l : Nat × XLock =>
      (l.1, if l.2.holder.isSome && lockWanted s e.1 l.1 then { l.2 with stall := l.2.stall + ran e.2.core } else l.2) }) }

/-! ## Errors and evictions of the stores (R59, R61, R74, R146, R149) -/

/-- A v, s, x, k or c register of a unit becomes uncorrectable: its next reader meets MEMERR of core SRAM. -/
def spoilReg (s : State) (u : UnitId) (cls r : Nat) : State :=
  match issuerOf s u 0 with
  | none => s
  | some I =>
    let n : Note := { kind := .memerr, memkind := 3, lanes := BitVec.allOnes 96, addr := 0 }
    match cls with
    | 0 => putV s I r { I.vreg r with full := false, note := some n }
    | 1 => putS s I r { I.sreg r with full := false, note := some n }
    | 2 => putX s I r { I.xreg r with full := false, note := some n }
    | 3 => if I.fe || r == 0 || 16 ≤ r then s else s.updQuire I.key fun Q =>
        { Q with k := Tab.set Q.k r { Tab.get { val := 0 } Q.k r with full := false, note := some n } }
    | 4 => if 8 ≤ r then s
      else if I.fe then s.updBlock I.b fun B => { B with front := { B.front with
        c := Tab.set B.front.c r { Tab.get { val := false } B.front.c r with full := false, note := some n } } }
      else s.updQuire I.key fun Q => { Q with c := Tab.set Q.c r { Tab.get { val := false } Q.c r with full := false, note := some n } }
    | _ => s

/-- A unit of an L2 line becomes uncorrectable: a clean line is dropped, a dirty one pinned. -/
def spoilL2 (s : State) (pkg n : Nat) (second : Bool) : State :=
  match (s.pkgOf pkg).l2[n]? with
  | none => s
  | some l =>
    if l.dirty then
      l2Update s pkg l.part l.gpaLine fun l => if second then { l with bad1 := true } else { l with bad0 := true }
    else s.updPkg pkg fun p => { p with l2 := p.l2.filter (· != l) }

/-- An L2 evicts a line that is not pinned. -/
def evictL2 (s : State) (pkg n : Nat) : State :=
  match (s.pkgOf pkg).l2[n]? with
  | none => s
  | some l => if pinned l then s else s.updPkg pkg fun p => { p with l2 := p.l2.filter (· != l) }

/-- An entry of a queue becomes uncorrectable (R59): its reader meets it. -/
def spoilQueue (s : State) (b q quire place : Nat) : State :=
  s.updBlock b fun B => if B.badQ.contains (q, quire, place) then B else { B with badQ := B.badQ ++ [(q, quire, place)] }

/-- The pool lets go of a node that has ended (15_scheduling.md R440). -/
def forgetNode (s : State) (part seq : Nat) : State :=
  s.updPart part fun P => { P with nodes := P.nodes.map fun n => if n.1 == seq && 3 ≤ n.2.state then (n.1, { n.2 with gone := true }) else n }

/-- H sets the threshold and the scrub period, 1 to 168 hours (R60). -/
def setScrub (s : State) (pkg threshold hours : Nat) : State :=
  if hours == 0 || 168 < hours then s else s.updPkg pkg fun p => { p with corrThreshold := threshold, scrubHours := hours }

/-- A move that is no instruction. -/
def otherMove (s : State) (m : Move) : State :=
  match m with
  | .pass ps => passTime s ps
  | .evict core n => s.updCore core fun c => { c with tlb := c.tlb.take n ++ c.tlb.drop (n + 1) }
  | .badUnit u => if s.bad.contains u then s else { s with bad := s.bad ++ [u] }
  | .badL2 p n second => spoilL2 s p n second
  | .badSram core w => s.updCore core fun c => if c.badSram.contains w then c else { c with badSram := c.badSram ++ [w] }
  | .badTile core p n => s.updCore core fun c =>
      let t := Tab.get {} c.tiles p
      { c with tiles := Tab.set c.tiles p { t with bad := if t.bad.contains n then t.bad else t.bad ++ [n] } }
  | .badReg u cls r => spoilReg s u cls r
  | .dropLine p n => evictL2 s p n
  | .keepView t k p c v l lo n => keepView s t k p c v l lo n
  | .lag u side on => { s with lag := if on then (if s.lag.contains (u, side) then s.lag else s.lag ++ [(u, side)]) else s.lag.filter (· != (u, side)) }
  | .go n => letGo s n
  | .takeWork b q sl => if (s.pkgOf (Tab.get {} s.blocks b).pkg).stopped then s else takeWork s b q sl
  | .dropView n => { s with views := s.views.take n ++ s.views.drop (n + 1) }
  | .evictEng p e n => s.updPkg p fun P =>
      { P with engTlbs := Tab.modify P.engTlbs e fun l => l.take n ++ l.drop (n + 1) }
  | .badQueue b q quire place => spoilQueue s b q quire place
  | .correctedErr p n => countCorrected s p n
  | .setScrub p t h => setScrub s p t h
  | .setEnabled p v => if (Tab.find s.pkgs p).isSome then writeEnabled s p v else s
  | .setGateDir n v => writeGateDir s n v
  | .forgetNode n q => forgetNode s n q
  | .invalDone p n => invalDone s p n
  | .bindVf p v n => bindVf s p v n
  | .setCxl p w => s.updPkg p fun P => { P with cxl := P.cxl ++ [w] }
  | .barWrite p n off v h => barWrite s p n off v h
  | .cxlWrite p a bs => cxlWrite s p a bs
  | .engPiece id k => engPiece s id k
  | .loadText n t => s.updPart n fun P => { P with texts := P.texts ++ [t] }
  | .setAts p n on => setAts s p n on
  | .makeQp p d n q => makeQp s p d n q
  | .word _ => s
  | .event _ _ => s

/-- The next move: the oldest of the agenda; with an empty agenda the subject's unit goes on with its clause, or a tick
passes (log 1). -/
def nextMove (s : State) : State × Move :=
  match s.agenda with
  | m :: rest => ({ s with agenda := rest }, m)
  | [] =>
    match unitStrand s s.subject.unit with
    | some st => (s, if st.left != 0 && st.wait == .none && st.stop == .run then .word s.subject.unit else .pass 10000)
    | none => (s, .pass 10000)

/-! ## The bench: one bare word, ready to issue (log 8) -/

/-- The package, and where its tables and text stand: guest-physical addresses of one 32 MiB granule that the second
stage maps to the second granule of the package's memory. -/
def benchPkg : Nat := Config.podIds.headD 0
def benchRegion : Nat := 0x10000
def benchRoots : Nat := 0x20000
def benchTop : Nat := 0x30000
def benchMid : Nat := 0x40000
def benchText : Nat := 0x50000

/-- The device-physical address of a guest-physical one. -/
def benchDpa (gpa : Nat) : Nat := benchPkg <<< 44 + 0x2000000 + gpa

/-- Memory with the bench's tables and the word: the second-stage entry, the roots, one table, one large leaf. -/
def benchMem (m : List Host.Cell) (w : Word) : List Host.Cell :=
  let put := fun (m : List Host.Cell) (a v : Nat) => Memory.writeBytes m a (leBytes 8 v)
  let m := put m (benchPkg <<< 44) (benchPkg <<< 44 + 0x2000003)
  let m := put m (benchDpa benchRegion) benchRoots
  let m := put m (benchDpa benchRoots) (benchTop + 1)
  let m := put m (benchDpa benchTop) (benchMid + 1)
  let m := put m (benchDpa benchMid) 0x2C7
  Memory.writeBytes m (benchDpa (benchText + 4)) (leBytes 4 w.toNat)

def benchLayout : LayoutEnt where
  quads := 1
  banks := 1
  groups := 1
  valid := true
  s2Table := BitVec.ofNat 64 (benchPkg <<< 44)
  s2Limit := 1
  paging := BitVec.ofNat 64 benchRegion

/-- A unit whose selected clause has one word left. -/
def benchStrand (c : Cls) : Strand where
  pc := BitVec.ofNat 64 (benchText + 4)
  hdr := BitVec.ofNat 64 benchText
  left := 1
  cls := c

def benchNode : NodeRec where
  text := BitVec.ofNat 64 benchText
  t := 96
  baseregs := 8
  scratch := 1
  acctiles := 16
  tmaps := BitVec.allOnes 16
  livecount := 1

/-- The clause class under which a bare word is read, and whether a front-end context issues it. -/
def benchClass (w : Word) : Cls :=
  match bareRead w with
  | some (c, _) => c
  | none => .sys

/-- The state in which one bare word is the next to issue. -/
def bench (s : State) (w : Word) : State :=
  let c := benchClass w
  let fe := c == .front
  let u : UnitId := if fe then .front 0 else .slot 0 0 0
  let B : Block :=
    { nq := 1, node := benchNode, pkg := benchPkg, core := coreGid benchPkg 0
      front := { ctl := if fe then benchStrand c else {} } }
  let Q : Quire := { s0 := { ctl := if fe then {} else benchStrand c, mask := BitVec.allOnes 96 }, live := BitVec.allOnes 96 }
  let N : Node := { va := 0, ctx := 0, nrec := benchNode, prio := 0, state := 2, next := 1, running := 1 }
  let s := s.updPkg benchPkg fun p => { p with layout := Tab.set p.layout 0 benchLayout, stopped := false }
  let s := s.updPart 0 fun P => { P with nodes := Tab.set P.nodes 0 N, nextSeq := max 1 P.nextSeq }
  { s with
    mem := benchMem s.mem w
    blocks := Tab.set s.blocks 0 B
    quires := Tab.set s.quires 0 Q
    subject := { s.subject with unit := u }
    agenda := .word u :: s.agenda }

/-- The word of the table's numbering: bit 0 is the least significant bit of the only 32-bit word. -/
def tableWord (nbits w : Nat) : Word := if nbits ≤ 32 then BitVec.ofNat 32 w else 0

end Sys2Proof.Machine
end

