-- ==== Sys2Proof/Machine/Matrix.lean ====
section
/-! DEFINITION. The MAT instructions and their retirement: operands through tile maps, accumulator tiles, triple modes,
residue blocks, drains and the signature (13_matrix.md R286 to R310). Operands are read and results computed when an
instruction issues; its writes wait in the core's queue and are applied, in issue order, when it retires. -/

namespace Sys2Proof.Machine

/-! ## Elements of a map (R287, R288) -/

/-- Core SRAM offset of the byte that holds element (r, c) of plane j. -/
def mapByte (B : Block) (m : DWord) (j r c : Nat) : Nat := B.scratchBase + tmOffset m r c + j * tmPstr m

/-- Bytes of an element: S4 is addressed by its byte. -/
def mapWidth (m : DWord) : Nat := max 1 (tmNibbles m / 2)

/-- The bits of element (r, c) of plane j. -/
def mapElem (c : Core) (B : Block) (m : DWord) (j r k : Nat) : Nat :=
  let v := ofLe (Memory.readBytes c.sram (mapByte B m j r k) (mapWidth m))
  if tmFmt m == 4 then bits v (4 * (k % 2)) 4 else v

/-- A rectangle from element (0, 0) of the first planes of a map. -/
structure Region where
  m : DWord
  planes : Nat := 1
  rows : Nat := 16
  cols : Nat := 16
  deriving DecidableEq, Repr

/-- R287's refusals for a region read or written through a map of one of the formats. -/
def Region.ok (g : Region) (alloc : Nat) (fmts : List Nat) : Bool :=
  mapValid g.m alloc g.planes && fmts.contains (tmFmt g.m) && decide (g.rows ≤ tmRows g.m) && decide (g.cols ≤ tmCols g.m) &&
    (g.planes == 1 || tmPstrCode g.m != 0)

/-- An element of the region meets an uncorrectable word (R295). -/
def Region.bad (g : Region) (c : Core) (B : Block) : Bool :=
  !c.badSram.isEmpty && (List.range g.planes).any fun j => (List.range g.rows).any fun r => (List.range g.cols).any fun k =>
    c.sramBad (mapByte B g.m j r k) (mapWidth g.m)

/-- A multiply's operand: rows and columns are exchanged when the map is read by columns. -/
def operandRegion (m : DWord) (planes rows cols : Nat) : Region :=
  if tmTr m then { m := m, planes := planes, rows := cols, cols := rows } else { m := m, planes := planes, rows := rows, cols := cols }

def operandElem (c : Core) (B : Block) (m : DWord) (j r k : Nat) : Nat :=
  if tmTr m then mapElem c B m j k r else mapElem c B m j r k

/-! ## Tiles (R291) -/

/-- Element e of plane j: planes 1 and 2 read as plane 0 when TRIP is 0. -/
def Tile.at (t : Tile) (j e : Nat) : Word := Tab.get 0 t.elems (256 * (if t.trip then j else 0) + e)

/-- The residue word of element e. -/
def Tile.res (t : Tile) (e : Nat) : Word := Tab.get 0 t.elems (256 + e)

/-- A plane of several has an uncorrectable word (R295). -/
def Tile.badIn (t : Tile) (ps : List Nat) : Bool := ps.any t.bad.contains

/-- The stored planes that a read of n planes of values meets. -/
def Tile.reads (t : Tile) (n : Nat) : List Nat := if t.trip then List.range n else [0]

/-- Elements of n planes. -/
def planeElems (n : Nat) (f : Nat → Nat → Word) : Tab Word :=
  (List.range n).flatMap fun j => (List.range 256).map fun e => (256 * j + e, f j e)

/-- One more multiply or close has been applied. -/
def Tile.bump (t : Tile) : BitVec 24 := t.count + 1

/-! ## The frame of a MAT instruction (R293, R294) -/

def Issuer.tmap (I : Issuer) (s : State) (n : Nat) : DWord := Tab.get 0 (s.coreOf I.blk.core).t n

/-- The physical tile of a name. -/
def Issuer.phys (I : Issuer) (ad : BitVec 4) : Nat := I.blk.abase + ad.toNat

def Issuer.named (I : Issuer) (ad : BitVec 4) : Bool := ad.toNat < I.blk.node.acctiles

/-- Scratchpad writes of the quire's earlier MAT instructions have not retired. -/
def drainOwed (s : State) (I : Issuer) : Bool :=
  (s.coreOf I.blk.core).matQ.any fun m => m.b == I.b && m.q == I.q && !m.scratch.isEmpty

/-- Appends an instruction to the core's queue. -/
def issueMat (s : State) (I : Issuer) (m : MatOp) : Act :=
  let s' := { s with nextId := s.nextId + 1 }
  .done (s'.updCore I.blk.core fun c =>
    { c with matQ := c.matQ ++ [{ m with id := s.nextId, b := I.b, q := I.q, sl := I.sl, pc := I.st.pc }] })

/-- MAT instructions that read or write the scratchpad. -/
def usesScratch (i : Instr) : Bool :=
  match i with
  | .mmab _ | .mmah _ | .mmas8 _ | .mmas4 _ | .mlda _ | .msta _ | .mdrs _ => true
  | _ => false

/-- Scratchpad accesses take their place in the quire's program order (R289): they wait for an atomic whose acquire holds
back later accesses, and for accesses that are held (08_ordering.md R182). -/
def scratchHeld (s : State) (I : Issuer) (i : Instr) : Bool :=
  usesScratch i && ((outstanding s I.u I.mask).any (·.2.acq != 0) || heldBack s I.u I.mask s.nextId || slowLocal s I.u s.nextId)

/-- The checks in their order: the mask; names, maps, registers and mode, and, when the tile is full, the tile's state;
and then the sources (R294, R196). The instruction then issues. -/
def matFrame (i : Instr) (s : State) (ad : BitVec 4) (ok : Issuer → Bool) (srcs dsts : Issuer → List SrcSt)
    (tileOk : Issuer → Tile → Bool) (k : Issuer → Core → Tile → Act) : Host.Outcome State Fault Refusal :=
  onQuire i s fun I =>
    if I.mask != I.qr.live then I.bad .illegalConvergence
    else if !(I.named ad && ok I) then I.bad .illegalOperand
    else
      let c := s.coreOf I.blk.core
      let t := c.tileOf (I.phys ad)
      if c.tileOwed (I.phys ad) || drainOwed s I || scratchHeld s I i then .stall
      else if !tileOk I t then I.bad .illegalOperand
      else withSrcs I (srcs I) (dsts I) fun _ => k I c t

def noRegs (_ : Issuer) : List SrcSt := []

/-! ## MMAB and MMAH (R297) -/

/-- A node's rounding of the sum of two FP32 values. -/
def nodeSum (rm : Rm) (a b : FV) : FV := unpack fp32 (roundExact fp32 rm (fvAdd a b)).bits

/-- acc plus the tree of products, every node rounded by its own mode. -/
def mmElem (modes : Nat → Rm) (xs : List FV) (acc : Word) : Word :=
  let sum := (tree (fun a b i => nodeSum (modes i) a b) 5 xs 0).getD (.zero false)
  BitVec.ofNat 32 (roundExact fp32 (modes 15) (fvAdd (unpack fp32 acc.toNat) sum)).bits

/-- The stream-1 words of the sixteen nodes of a block's tile (R218). -/
def streamOne (I : Issuer) (ad : BitVec 4) (count : BitVec 24) : List Word :=
  (List.range 16).map fun i =>
    gherowa I.blk.seed 1 (BitVec.ofNat 32 (I.blk.idx * 16 + ad.toNat)) (BitVec.ofNat 32 (count.toNat * 64 + i))

def nodeMode (ws : List Word) (trip : Bool) (j i : Nat) : Rm :=
  if !trip then .rne else if (ws.getD i 0).getLsbD j then .rup else .rdn

/-- The accumulated tile. -/
def mmTile (I : Issuer) (c : Core) (t : Tile) (ad : BitVec 4) (F : Fmt) (ma mb : DWord) : Tile :=
  let trip := I.qr.mtrip != 0
  let full := I.qr.mtrip == 2
  let ws := if trip then streamOne I ad t.count else []
  let prod := fun (j m n k : Nat) =>
    (fvProd (unpack F (operandElem c I.blk ma j m k)) (unpack F (operandElem c I.blk mb j k n))).getD .nan
  { elems := planeElems (if trip then 3 else 1) fun j e =>
      mmElem (nodeMode ws trip j) ((List.range 16).map (prod (if full then j else 0) (e / 16) (e % 16))) (t.at j e)
    count := t.bump
    trip := trip }

def mmFloat (i : Instr) (f : MM) (s : State) (F : Fmt) (code : Nat) : Host.Outcome State Fault Refusal :=
  let ga := fun I : Issuer => operandRegion (I.tmap s f.ta.toNat) (if I.qr.mtrip == 2 then 3 else 1) 16 16
  let gb := fun I : Issuer => operandRegion (I.tmap s f.tb.toNat) (if I.qr.mtrip == 2 then 3 else 1) 16 16
  matFrame i s f.ad (fun I => (ga I).ok I.blk.scratchLen [code] && (gb I).ok I.blk.scratchLen [code]) noRegs noRegs
    (fun _ t => !t.resOpen) fun I c t =>
      issueMat s I
        { b := 0, q := 0, sl := 0
          tile := some (I.phys f.ad, mmTile I c t f.ad F (I.tmap s f.ta.toNat) (I.tmap s f.tb.toNat))
          used := some (I.phys f.ad, true)
          failed := t.badIn (t.reads (if I.qr.mtrip != 0 then 3 else 1)) || (ga I).bad c I.blk || (gb I).bad c I.blk }

def execMmab (f : MM) (s : State) := mmFloat (.mmab f) f s bf16 0
def execMmah (f : MM) (s : State) := mmFloat (.mmah f) f s fp16 1

/-! ## Residue blocks and scales (R298 to R300) -/

/-- A residue word with an integer added to each channel, canonical (R208). -/
def resAdd (w : Word) (d : Int) : Word :=
  let ch := fun (v : Nat) (m : Nat) => (((v % m : Nat) : Int) + d) % (m : Int)
  BitVec.ofNat 32 ((ch (bits w.toNat 0 8) 256).toNat + (ch (bits w.toNat 8 8) 255).toNat * 256 +
    (ch (bits w.toNat 16 8) 253).toNat * 65536)

/-- The SC8 value at scale position p: byte b of lane p, or of sibling 0 of thread p. -/
def scaleAt (I : Issuer) (f : MM) (p : Nat) : FV :=
  unpack sc8 (bits ((I.vreg f.vs.toNat).at (if I.ter then 3 * p else p)).toNat (8 * bits f.sel.toNat 2 2) 8)

/-- An integer as a value. -/
def fvOfInt (i : Int) : FV := if i == 0 then .zero false else .fin (decide (i < 0)) i.natAbs 0

/-- Plane 0 of a closed element: plane 0 plus the block's integer times the product of its scales, rounded once. -/
def closeElem (acc : Word) (r : Word) (sa sb : FV) : Word :=
  let e := match fvProd sa sb with
    | none => Exact.nan
    | some p => fvFma (fvOfInt (crt r.toNat)) p (unpack fp32 acc.toNat)
  BitVec.ofNat 32 (roundExact fp32 .rne e).bits

/-- The tile with its block closed; res gives its residue words. -/
def closeTile (I : Issuer) (f : MM) (t : Tile) (res : Nat → Word) : Tile :=
  let g := bits f.sel.toNat 0 2
  { elems := planeElems 1 fun _ e =>
      closeElem (t.at 0 e) (res e) (scaleAt I f (32 * g + e / 16)) (scaleAt I f (32 * g + 16 + e % 16))
    count := t.bump }

/-- The residue words after one K-slice of exact products. -/
def sliceRes (I : Issuer) (c : Core) (t : Tile) (ma mb : DWord) (w K e : Nat) : Word :=
  let d := (List.range K).foldl (fun (a : Int) k =>
    a + toSigned w (operandElem c I.blk ma 0 (e / 16) k) * toSigned w (operandElem c I.blk mb 0 k (e % 16))) 0
  resAdd (if t.resOpen then t.res e else 0) d

/-- The scale register and select of an instruction that closes a block. -/
def scaleOk (I : Issuer) (f : MM) : Bool := f.sel == 31 || (I.vOk f.vs.toNat 1 && !(I.ter && bits f.sel.toNat 0 2 != 0))

def scaleSrcs (f : MM) (I : Issuer) : List SrcSt := if f.sel == 31 then [] else [I.srcV f.vs.toNat]

def mmInt (i : Instr) (f : MM) (s : State) (w K code : Nat) : Host.Outcome State Fault Refusal :=
  let ga := fun I : Issuer => operandRegion (I.tmap s f.ta.toNat) 1 16 K
  let gb := fun I : Issuer => operandRegion (I.tmap s f.tb.toNat) 1 K 16
  let s4tr := fun I : Issuer => code == 4 && (tmTr (I.tmap s f.ta.toNat) || tmTr (I.tmap s f.tb.toNat))
  matFrame i s f.ad
    (fun I => (ga I).ok I.blk.scratchLen [code] && (gb I).ok I.blk.scratchLen [code] && !s4tr I && scaleOk I f && I.qr.mtrip == 0)
    (scaleSrcs f) noRegs (fun _ t => !t.trip) fun I c t =>
      let res := sliceRes I c t (I.tmap s f.ta.toNat) (I.tmap s f.tb.toNat) w K
      let t' : Tile := if f.sel == 31 then
          { elems := planeElems 2 fun j e => if j == 0 then t.at 0 e else res e, count := t.bump, resOpen := true
            bad := t.bad.filter (· == 0) }
        else closeTile I f t res
      let reads := (if f.sel == 31 then [] else [0]) ++ if t.resOpen then [1] else []
      issueMat s I
        { b := 0, q := 0, sl := 0, tile := some (I.phys f.ad, t'), used := some (I.phys f.ad, true)
          failed := t.badIn reads || (ga I).bad c I.blk || (gb I).bad c I.blk }

def execMmas8 (f : MM) (s : State) := mmInt (.mmas8 f) f s 8 32 3
def execMmas4 (f : MM) (s : State) := mmInt (.mmas4 f) f s 4 64 4

def execMcvt (f : MM) (s : State) : Host.Outcome State Fault Refusal :=
  matFrame (.mcvt f) s f.ad (fun I => f.sel != 31 && scaleOk I f && I.qr.mtrip == 0) (scaleSrcs f) noRegs
    (fun _ t => t.resOpen) fun I _ t =>
      issueMat s I
        { b := 0, q := 0, sl := 0, tile := some (I.phys f.ad, closeTile I f t t.res), used := some (I.phys f.ad, true)
          failed := t.badIn [0, 1] }

/-! ## MZERO, MLDA and MSTA (R303) -/

def execMzero (f : MM) (s : State) : Host.Outcome State Fault Refusal :=
  matFrame (.mzero f) s f.ad (fun _ => true) noRegs noRegs (fun _ _ => true) fun I _ t =>
    issueMat s I
      { b := 0, q := 0, sl := 0, tile := some (I.phys f.ad, { count := t.count, keep := true })
        used := some (I.phys f.ad, false) }

/-- Planes that a map of FP32 values moves. -/
def fpPlanes (m : DWord) : Nat := if tmPstrCode m != 0 then 3 else 1

/-- The region of MLDA and MSTA: a RES map moves plane 1 of the tile. -/
def moveRegion (m : DWord) : Region := { m := m, planes := if tmFmt m == 2 then fpPlanes m else 1 }

def execMlda (f : MM) (s : State) : Host.Outcome State Fault Refusal :=
  let g := fun I : Issuer => moveRegion (I.tmap s f.ta.toNat)
  matFrame (.mlda f) s f.ad (fun I => (g I).ok I.blk.scratchLen [2, 5]) noRegs noRegs
    (fun I t => if tmFmt (g I).m == 2 then !t.resOpen else !t.trip) fun I c t =>
      let ld := fun (j e : Nat) => BitVec.ofNat 32 (mapElem c I.blk (g I).m j (e / 16) (e % 16))
      let t' : Tile := if tmFmt (g I).m == 2 then
          { elems := planeElems (g I).planes ld, count := t.count, trip := (g I).planes == 3 }
        else
          { elems := planeElems 2 (fun j e => if j == 0 then t.at 0 e else resAdd (ld 0 e) 0), count := t.count
            resOpen := true, bad := t.bad.filter (· == 0) }
      issueMat s I
        { b := 0, q := 0, sl := 0, tile := some (I.phys f.ad, t'), used := some (I.phys f.ad, true)
          failed := (g I).bad c I.blk }

/-- The bytes that a region of whole-byte elements becomes. -/
def regionBytes (B : Block) (g : Region) (f : Nat → Nat → Nat) : List (Nat × Byte) :=
  (List.range g.planes).flatMap fun j => (List.range 256).flatMap fun e =>
    ((leBytes (mapWidth g.m) (f j e)).zipIdx.map fun x => (mapByte B g.m j (e / 16) (e % 16) + x.2, x.1))

def execMsta (f : MM) (s : State) : Host.Outcome State Fault Refusal :=
  let g := fun I : Issuer => moveRegion (I.tmap s f.ta.toNat)
  matFrame (.msta f) s f.ad (fun I => (g I).ok I.blk.scratchLen [2, 5]) noRegs noRegs
    (fun I t => tmFmt (g I).m == 2 || t.resOpen) fun I _ t =>
      let val := fun (j e : Nat) => if tmFmt (g I).m == 5 then (t.res e).toNat else (t.at j e).toNat
      issueMat s I { b := 0, q := 0, sl := 0, scratch := regionBytes I.blk (g I) val,
                      failed := t.badIn (if tmFmt (g I).m == 5 then [1] else t.reads (g I).planes) }

/-! ## Drains (R301, R302) -/

/-- Plane 0 in row-major order. -/
def Tile.plane0 (t : Tile) : List Word := (List.range 256).map (t.at 0)

def execMdrv (f : MM) (s : State) : Host.Outcome State Fault Refusal :=
  let vd := f.vs.toNat
  matFrame (.mdrv f) s f.ad (fun I => I.vOk vd 8) noRegs (fun I => (List.range 8).map fun i => I.srcV (vd + i))
    (fun _ _ => true) fun I _ t =>
      let word := fun (i l : Nat) => t.at (if t.resOpen then 0 else l % 3) (32 * i + l / 3)
      issueMat ((List.range 8).foldl (fun s i => emptyV s I (vd + i)) s) I
        { b := 0, q := 0, sl := 0
          vregs := (List.range 8).map fun i => (vd + i, (List.range 96).map (word i))
          fold := some t.plane0
          failed := t.badIn (if t.resOpen then [0] else t.reads 3) }

/-- The rounding of a drained element (R302). -/
def drainRound (I : Issuer) (m : DWord) (t : Tile) (j e : Nat) : Rm :=
  if tmSr m then
    .sr ((gherowa I.blk.seed 2 (BitVec.ofNat 32 ((I.blk.idx * 4 + j) * 16384 + e))
      (BitVec.ofNat 32 (tmSrKey m * 65536 + t.count.toNat % 65536))).toNat % 65536)
  else match tmDrm m with
    | 0 => .rne
    | 1 => .rtz
    | 2 => .rup
    | _ => .rdn

/-- One element as the map's format holds it, with its events. An FP32 or RES drain copies it bit for bit (R301, R302), a
NaN or a residue word that is not canonical among them (log 119). -/
def drainElem (I : Issuer) (m : DWord) (t : Tile) (j e : Nat) : Conv :=
  match tmFmt m with
  | 2 => { out := (t.at j e).toNat }
  | 5 => { out := (t.res e).toNat }
  | fmt => convert fmt 2 (fmt == 3 || fmt == 4) false (drainRound I m t j e) (t.at j e).toNat

/-- A non-finite result of a floating-point format (14_control.md R326). -/
def drainNonfin (m : DWord) (c : Conv) : Bool :=
  match fkind (tmFmt m) with
  | some (.fp F) => (unpack F c.out).isNan || (unpack F c.out).isInf
  | _ => false

/-- S4 elements pack in pairs, the even column low (10_numbers.md R206). -/
def drainBytes (B : Block) (g : Region) (f : Nat → Nat → Nat) : List (Nat × Byte) :=
  if tmFmt g.m == 4 then
    (List.range g.planes).flatMap fun j => (List.range 128).map fun h =>
      (mapByte B g.m j (h / 8) (2 * (h % 8)), BitVec.ofNat 8 (f j (2 * h) % 16 + f j (2 * h + 1) % 16 * 16))
  else regionBytes B g f

def execMdrs (f : MM) (s : State) : Host.Outcome State Fault Refusal :=
  let g := fun (I : Issuer) (t : Tile) =>
    ({ m := I.tmap s f.ta.toNat, planes := if t.trip && tmPstrCode (I.tmap s f.ta.toNat) != 0 then 3 else 1 } : Region)
  matFrame (.mdrs f) s f.ad (fun I => (g I {}).ok I.blk.scratchLen [0, 1, 2, 3, 4, 5, 6]) noRegs noRegs
    (fun I t => (g I t).ok I.blk.scratchLen [0, 1, 2, 3, 4, 5, 6] && (tmFmt (g I t).m != 5 || t.resOpen)) fun I _ t =>
      let m := (g I t).m
      let r : Tab Conv := (List.range (g I t).planes).flatMap fun j => (List.range 256).map fun e => (256 * j + e, drainElem I m t j e)
      issueMat s I
        { b := 0, q := 0, sl := 0
          scratch := drainBytes I.blk (g I t) fun j e => (Tab.get { out := 0 } r (256 * j + e)).out
          fold := some t.plane0
          stat := some (tmTensor m, (r.filter fun x => x.2.sat).length, (r.filter fun x => x.2.nan).length)
          ovf := if r.any fun x => drainNonfin m x.2 then 1#32 <<< (tmTensor m % 32) else 0
          failed := t.badIn (if tmFmt m == 5 then [0, 1] else t.reads (g I t).planes) }

/-! ## The signature and the matrix mode (R296, R304 to R306) -/

/-- One byte folded into a signature. -/
def sigByte (v : DWord) (b : Byte) : DWord :=
  (List.range 8).foldl (fun v _ => if v.msb then (v <<< 1) ^^^ 0x42F0E1EBA9EA3693#64 else v <<< 1)
    (v ^^^ (b.setWidth 64 <<< 56))

/-- A plane folded into a signature, each element's low byte first. -/
def sigFold (v : DWord) (ws : List Word) : DWord :=
  ws.foldl (fun v w => (leBytes 4 w.toNat).foldl sigByte v) v

def execMsig (f : MM) (s : State) : Host.Outcome State Fault Refusal :=
  matFrame (.msig f) s f.ad (fun _ => true) noRegs noRegs (fun _ _ => true) fun I _ t =>
    issueMat s I { b := 0, q := 0, sl := 0, fold := some t.plane0, failed := t.badIn [0] }

def execMtrip (f : MM) (s : State) : Host.Outcome State Fault Refusal :=
  onQuire (.mtrip f) s fun I =>
    if I.mask != I.qr.live then I.bad .illegalConvergence
    else .done (s.updQuire I.key fun Q => { Q with mtrip := f.vs.toNat % 4 })

/-- Both forms of MSIGX: the folds issued before have retired, then one LDU.64 or STU.64. -/
def msigx (i : Instr) (f : MM) (s : State) (cmp : Bool) : Host.Outcome State Fault Refusal :=
  onQuire i s fun I =>
    let r := f.vs.toNat % 32
    if I.mask != I.qr.live then I.bad .illegalConvergence
    else if r % 2 != 0 then I.bad .illegalOperand
    else withSrcs I (I.srcS2 r) [] fun _ =>
      let a := (I.s2 r).toNat
      match alignTrap I true (misaligned [(0, a)] 8) with
      | some t => .trap t
      | none =>
        if (s.coreOf I.blk.core).matQ.any fun m => m.b == I.b && m.q == I.q && m.fold.isSome then .stall
        else
          let act : LaneAct := if cmp then .rd 8 else .wr (leBytes 8 I.qr.sigv.toNat)
          let dest : Dest := if cmp then .msigx (I.s2 r) I.qr.sigv else .none
          let id := s.nextId
          let trapOn := bits I.qr.tctl.toNat 2 2 == 2
          memIssue s I (!cmp) true [{ key := 0, thread := I.threads.headD 0, va := a, act := act }] dest 0
            fun s => s.updCore I.blk.core fun c =>
              { c with matQ := c.matQ ++ [{ id := id, b := I.b, q := I.q, sl := I.sl, pc := I.st.pc, msigx := some (id, I.s2 r, trapOn) }] }

def execMsigxSt (f : MM) (s : State) := msigx (.msigxSt f) f s false
def execMsigxCmp (f : MM) (s : State) := msigx (.msigxCmp f) f s true

/-! ## Retirement -/

/-- The effects of a MAT instruction that has read its operands without error. -/
def matEffects (s : State) (core : Nat) (m : MatOp) : State :=
  let s := s.updCore core fun c =>
    let c := match m.tile with
      | some t => { c with tiles := Tab.set c.tiles t.1 t.2 }
      | none => c
    match m.used with
    | some u => { c with accUsed := if u.2 then c.accUsed ||| (1#16 <<< u.1) else c.accUsed &&& ~~~(1#16 <<< u.1) }
    | none => c
  let r := sramScatter (s.coreOf core) m.scratch
  let s := s.updCore core fun _ => r.1
  let s := match r.2, Tab.find s.blocks m.b with
    | some a, some B => s.tell (.storeDropped B.ctx a)
    | _, _ => s
  let s := m.vregs.foldl (fun s v => setVreg s m.b m.q v.1 fun _ => { lanes := v.2 }) s
  let s := match m.fold with
    | some ws => s.updQuire (quireKey m.b m.q) fun Q => { Q with sigv := sigFold Q.sigv ws }
    | none => s
  let s := match m.stat with
    | some (t, sat, nan) => addStat (addStat s m.b t 0 sat) m.b t 2 nan
    | none => s
  setOvf s m.b m.ovf

/-- MEMERR of a failed MAT instruction, for its slot's next clause selection (R295). -/
def matErr (m : MatOp) : Trap :=
  { cause := .memerr, info := (m.pc &&& 0xFFFFFFFFFFFFF#64) ||| (1#64 <<< 58), detail := 3 }

/-- A failed instruction: its registers are full again with their old values, and its slot owes MEMERR. -/
def matFails (s : State) (m : MatOp) : State :=
  let s := m.vregs.foldl (fun s v => setVreg s m.b m.q v.1 fun r => { r with full := true, note := none }) s
  updStrand s (.slot m.b m.q m.sl) fun c => { c with due := c.due ++ [matErr m] }

/-- What the compared data of an MSIGX does when it has returned: data that failed is consumed there, with the trap of an
LDU.64's reader (R306; log 120). -/
def msigxReturn (s : State) (m : MatOp) (trapOn : Bool) (op : PendOp) : State :=
  let u : UnitId := .slot m.b m.q m.sl
  match op.dest, op.errs with
  | .msigx _ _, e :: _ => updStrand s u fun c => { c with pend := c.pend ++ [{ noteTrap 0 e.2 with mask := none }] }
  | .msigx addr v, [] =>
    if gotBytes op.got 0 == v.toNat then s
    else
      let s := sigMismatch s u addr
      if trapOn then
        updStrand s u fun c => { c with pend := c.pend ++ [{ cause := .sigMismatch, info := addr &&& 0xFFFFFFFFFFFFF#64 }] }
      else s
  | _, _ => s

/-- The queue without its entry at a position. -/
def popMat (s : State) (core n : Nat) : State :=
  s.updCore core fun c => { c with matQ := c.matQ.take n ++ c.matQ.drop (n + 1) }

/-- MAT_RETIRE: the instruction at position sub of the queue of core idx retires. Instructions retire in issue order;
an MSIGX retires when its access has completed. -/
def execMatRetire (s : State) : Host.Outcome State Fault Refusal :=
  let core := s.subject.idx
  let q := (s.coreOf core).matQ
  match q[s.subject.sub]? with
  | none => .next s
  | some m =>
    match m.msigx with
    | some (id, _, trapOn) =>
      (match Tab.find s.ops id with
       | none => .next (captureSr (popMat s core s.subject.sub))
       | some op =>
         if op.waiting != 0 then .next s
         else .next (captureSr (popMat (msigxReturn { s with ops := Tab.del s.ops id } m trapOn op) core s.subject.sub)))
    | none =>
      if (q.take s.subject.sub).any fun x => x.msigx.isNone then .next s
      else
        let s' := popMat s core s.subject.sub
        .next (captureSr (if m.failed then matFails s' m else matEffects s' core m))

end Sys2Proof.Machine
end

