-- ==== Sys2Proof/Machine/Dispatch.lean ====
section
/-! DEFINITION. One arm per constructor of Instr: each is one direct call of its meaning. -/

namespace Sys2Proof.Machine

def exec (i : Instr) (s : State) : Host.Outcome State Fault Refusal :=
  match i with
  | .iadd f => Sys2Proof.Machine.execIadd f s
  | .isub f => Sys2Proof.Machine.execIsub f s
  | .imul f => Sys2Proof.Machine.execImul f s
  | .imulh f => Sys2Proof.Machine.execImulh f s
  | .umulh f => Sys2Proof.Machine.execUmulh f s
  | .imad f => Sys2Proof.Machine.execImad f s
  | .iabs f => Sys2Proof.Machine.execIabs f s
  | .ineg f => Sys2Proof.Machine.execIneg f s
  | .imin f => Sys2Proof.Machine.execImin f s
  | .imax f => Sys2Proof.Machine.execImax f s
  | .umin f => Sys2Proof.Machine.execUmin f s
  | .umax f => Sys2Proof.Machine.execUmax f s
  | .and f => Sys2Proof.Machine.execAnd f s
  | .or f => Sys2Proof.Machine.execOr f s
  | .xor f => Sys2Proof.Machine.execXor f s
  | .andn f => Sys2Proof.Machine.execAndn f s
  | .shl f => Sys2Proof.Machine.execShl f s
  | .shr f => Sys2Proof.Machine.execShr f s
  | .sar f => Sys2Proof.Machine.execSar f s
  | .clz f => Sys2Proof.Machine.execClz f s
  | .popc f => Sys2Proof.Machine.execPopc f s
  | .brev f => Sys2Proof.Machine.execBrev f s
  | .bfx f => Sys2Proof.Machine.execBfx f s
  | .bfxu f => Sys2Proof.Machine.execBfxu f s
  | .bfi f => Sys2Proof.Machine.execBfi f s
  | .idiv f => Sys2Proof.Machine.execIdiv f s
  | .udiv f => Sys2Proof.Machine.execUdiv f s
  | .irem f => Sys2Proof.Machine.execIrem f s
  | .urem f => Sys2Proof.Machine.execUrem f s
  | .iaddi f => Sys2Proof.Machine.execIaddi f s
  | .andi f => Sys2Proof.Machine.execAndi f s
  | .ori f => Sys2Proof.Machine.execOri f s
  | .xori f => Sys2Proof.Machine.execXori f s
  | .shli f => Sys2Proof.Machine.execShli f s
  | .shri f => Sys2Proof.Machine.execShri f s
  | .sari f => Sys2Proof.Machine.execSari f s
  | .movi f => Sys2Proof.Machine.execMovi f s
  | .movhi f => Sys2Proof.Machine.execMovhi f s
  | .mov f => Sys2Proof.Machine.execMov f s
  | .sel f => Sys2Proof.Machine.execSel f s
  | .shfl f => Sys2Proof.Machine.execShfl f s
  | .shflup f => Sys2Proof.Machine.execShflup f s
  | .shfldn f => Sys2Proof.Machine.execShfldn f s
  | .shflx f => Sys2Proof.Machine.execShflx f s
  | .bcast f => Sys2Proof.Machine.execBcast f s
  | .laneid f => Sys2Proof.Machine.execLaneid f s
  | .s2v f => Sys2Proof.Machine.execS2v f s
  | .s2vSib f => Sys2Proof.Machine.execS2vSib f s
  | .v2s f => Sys2Proof.Machine.execV2s f s
  | .icmp f => Sys2Proof.Machine.execIcmp f s
  | .ucmp f => Sys2Proof.Machine.execUcmp f s
  | .fcmp f => Sys2Proof.Machine.execFcmp f s
  | .dcmp f => Sys2Proof.Machine.execDcmp f s
  | .fadd f => Sys2Proof.Machine.execFadd f s
  | .fsub f => Sys2Proof.Machine.execFsub f s
  | .fmul f => Sys2Proof.Machine.execFmul f s
  | .ffma f => Sys2Proof.Machine.execFfma f s
  | .fmin f => Sys2Proof.Machine.execFmin f s
  | .fmax f => Sys2Proof.Machine.execFmax f s
  | .fabs f => Sys2Proof.Machine.execFabs f s
  | .fneg f => Sys2Proof.Machine.execFneg f s
  | .fdiv f => Sys2Proof.Machine.execFdiv f s
  | .fsqrt f => Sys2Proof.Machine.execFsqrt f s
  | .frcp f => Sys2Proof.Machine.execFrcp f s
  | .frsq f => Sys2Proof.Machine.execFrsq f s
  | .fexp2 f => Sys2Proof.Machine.execFexp2 f s
  | .flog2 f => Sys2Proof.Machine.execFlog2 f s
  | .ftanh f => Sys2Proof.Machine.execFtanh f s
  | .frnd f => Sys2Proof.Machine.execFrnd f s
  | .fclass f => Sys2Proof.Machine.execFclass f s
  | .dadd f => Sys2Proof.Machine.execDadd f s
  | .dsub f => Sys2Proof.Machine.execDsub f s
  | .dmul f => Sys2Proof.Machine.execDmul f s
  | .dfma f => Sys2Proof.Machine.execDfma f s
  | .dmin f => Sys2Proof.Machine.execDmin f s
  | .dmax f => Sys2Proof.Machine.execDmax f s
  | .ddiv f => Sys2Proof.Machine.execDdiv f s
  | .dsqrt f => Sys2Proof.Machine.execDsqrt f s
  | .cvt f => Sys2Proof.Machine.execCvt f s
  | .pack2 f => Sys2Proof.Machine.execPack2 f s
  | .unpack2 f => Sys2Proof.Machine.execUnpack2 f s
  | .redf f => Sys2Proof.Machine.execRedf f s
  | .redfmin f => Sys2Proof.Machine.execRedfmin f s
  | .redfmax f => Sys2Proof.Machine.execRedfmax f s
  | .redi f => Sys2Proof.Machine.execRedi f s
  | .scani f => Sys2Proof.Machine.execScani f s
  | .kand f => Sys2Proof.Machine.execKand f s
  | .kor f => Sys2Proof.Machine.execKor f s
  | .kxor f => Sys2Proof.Machine.execKxor f s
  | .knot f => Sys2Proof.Machine.execKnot f s
  | .kmov f => Sys2Proof.Machine.execKmov f s
  | .kpop f => Sys2Proof.Machine.execKpop f s
  | .kany f => Sys2Proof.Machine.execKany f s
  | .kall f => Sys2Proof.Machine.execKall f s
  | .kfirst f => Sys2Proof.Machine.execKfirst f s
  | .sadd f => Sys2Proof.Machine.execSadd f s
  | .ssub f => Sys2Proof.Machine.execSsub f s
  | .smul f => Sys2Proof.Machine.execSmul f s
  | .sand f => Sys2Proof.Machine.execSand f s
  | .sor f => Sys2Proof.Machine.execSor f s
  | .sxor f => Sys2Proof.Machine.execSxor f s
  | .sshl f => Sys2Proof.Machine.execSshl f s
  | .sshr f => Sys2Proof.Machine.execSshr f s
  | .smov f => Sys2Proof.Machine.execSmov f s
  | .smovi f => Sys2Proof.Machine.execSmovi f s
  | .scmp f => Sys2Proof.Machine.execScmp f s
  | .dig f => Sys2Proof.Machine.execDig f s
  | .tmean f => Sys2Proof.Machine.execTmean f s
  | .tspread f => Sys2Proof.Machine.execTspread f s
  | .sibsel f => Sys2Proof.Machine.execSibsel f s
  | .tchk f => Sys2Proof.Machine.execTchk f s
  | .ld f => Sys2Proof.Machine.execLd f s
  | .st f => Sys2Proof.Machine.execSt f s
  | .ldt f => Sys2Proof.Machine.execLdt f s
  | .stt f => Sys2Proof.Machine.execStt f s
  | .lds f => Sys2Proof.Machine.execLds f s
  | .sts f => Sys2Proof.Machine.execSts f s
  | .ldu f => Sys2Proof.Machine.execLdu f s
  | .stu f => Sys2Proof.Machine.execStu f s
  | .atom f => Sys2Proof.Machine.execAtom f s
  | .acas f => Sys2Proof.Machine.execAcas f s
  | .fatom f => Sys2Proof.Machine.execFatom f s
  | .atoms f => Sys2Proof.Machine.execAtoms f s
  | .pref f => Sys2Proof.Machine.execPref f s
  | .clean f => Sys2Proof.Machine.execClean f s
  | .fence f => Sys2Proof.Machine.execFence f s
  | .afence f => Sys2Proof.Machine.execAfence f s
  | .seal f => Sys2Proof.Machine.execSeal f s
  | .unseal f => Sys2Proof.Machine.execUnseal f s
  | .mmab f => Sys2Proof.Machine.execMmab f s
  | .mmah f => Sys2Proof.Machine.execMmah f s
  | .mmas8 f => Sys2Proof.Machine.execMmas8 f s
  | .mmas4 f => Sys2Proof.Machine.execMmas4 f s
  | .mzero f => Sys2Proof.Machine.execMzero f s
  | .mlda f => Sys2Proof.Machine.execMlda f s
  | .msta f => Sys2Proof.Machine.execMsta f s
  | .mdrv f => Sys2Proof.Machine.execMdrv f s
  | .mdrs f => Sys2Proof.Machine.execMdrs f s
  | .mcvt f => Sys2Proof.Machine.execMcvt f s
  | .msig f => Sys2Proof.Machine.execMsig f s
  | .msigxSt f => Sys2Proof.Machine.execMsigxSt f s
  | .msigxCmp f => Sys2Proof.Machine.execMsigxCmp f s
  | .mtrip f => Sys2Proof.Machine.execMtrip f s
  | .cpy f => Sys2Proof.Machine.execCpy f s
  | .cpy2 f => Sys2Proof.Machine.execCpy2 f s
  | .cpyt f => Sys2Proof.Machine.execCpyt f s
  | .cpyr f => Sys2Proof.Machine.execCpyr f s
  | .cpym f => Sys2Proof.Machine.execCpym f s
  | .gthr f => Sys2Proof.Machine.execGthr f s
  | .sctr f => Sys2Proof.Machine.execSctr f s
  | .fill f => Sys2Proof.Machine.execFill f s
  | .coll f => Sys2Proof.Machine.execColl f s
  | .carb f => Sys2Proof.Machine.execCarb f s
  | .cwait f => Sys2Proof.Machine.execCwait f s
  | .cpoll f => Sys2Proof.Machine.execCpoll f s
  | .migr f => Sys2Proof.Machine.execMigr f s
  | .hgsend f => Sys2Proof.Machine.execHgsend f s
  | .hgsig f => Sys2Proof.Machine.execHgsig f s
  | .hgwait f => Sys2Proof.Machine.execHgwait f s
  | .hgtake f => Sys2Proof.Machine.execHgtake f s
  | .hgqry f => Sys2Proof.Machine.execHgqry f s
  | .b f => Sys2Proof.Machine.execB f s
  | .bra f => Sys2Proof.Machine.execBra f s
  | .call f => Sys2Proof.Machine.execCall f s
  | .split f => Sys2Proof.Machine.execSplit f s
  | .waitj f => Sys2Proof.Machine.execWaitj f s
  | .jtab f => Sys2Proof.Machine.execJtab f s
  | .token f => Sys2Proof.Machine.execToken f s
  | .bar f => Sys2Proof.Machine.execBar f s
  | .qpush f => Sys2Proof.Machine.execQpush f s
  | .qpop f => Sys2Proof.Machine.execQpop f s
  | .waitb f => Sys2Proof.Machine.execWaitb f s
  | .tmode f => Sys2Proof.Machine.execTmode f s
  | .add f => Sys2Proof.Machine.execAdd f s
  | .sub f => Sys2Proof.Machine.execSub f s
  | .mul f => Sys2Proof.Machine.execMul f s
  | .mulh f => Sys2Proof.Machine.execMulh f s
  | .divu f => Sys2Proof.Machine.execDivu f s
  | .remu f => Sys2Proof.Machine.execRemu f s
  | .frontAnd f => Sys2Proof.Machine.execFrontAnd f s
  | .frontOr f => Sys2Proof.Machine.execFrontOr f s
  | .frontXor f => Sys2Proof.Machine.execFrontXor f s
  | .frontShl f => Sys2Proof.Machine.execFrontShl f s
  | .frontShr f => Sys2Proof.Machine.execFrontShr f s
  | .frontSar f => Sys2Proof.Machine.execFrontSar f s
  | .min f => Sys2Proof.Machine.execMin f s
  | .max f => Sys2Proof.Machine.execMax f s
  | .addi f => Sys2Proof.Machine.execAddi f s
  | .frontAndi f => Sys2Proof.Machine.execFrontAndi f s
  | .frontOri f => Sys2Proof.Machine.execFrontOri f s
  | .frontShli f => Sys2Proof.Machine.execFrontShli f s
  | .frontShri f => Sys2Proof.Machine.execFrontShri f s
  | .li f => Sys2Proof.Machine.execLi f s
  | .lih f => Sys2Proof.Machine.execLih f s
  | .cmp f => Sys2Proof.Machine.execCmp f s
  | .cmpi f => Sys2Proof.Machine.execCmpi f s
  | .fadds f => Sys2Proof.Machine.execFadds f s
  | .fmuls f => Sys2Proof.Machine.execFmuls f s
  | .ffmas f => Sys2Proof.Machine.execFfmas f s
  | .fdivs f => Sys2Proof.Machine.execFdivs f s
  | .fcmps f => Sys2Proof.Machine.execFcmps f s
  | .fcvts f => Sys2Proof.Machine.execFcvts f s
  | .ldx f => Sys2Proof.Machine.execLdx f s
  | .stx f => Sys2Proof.Machine.execStx f s
  | .atmx f => Sys2Proof.Machine.execAtmx f s
  | .bc f => Sys2Proof.Machine.execBc f s
  | .j f => Sys2Proof.Machine.execJ f s
  | .jal f => Sys2Proof.Machine.execJal f s
  | .jr f => Sys2Proof.Machine.execJr f s
  | .tmset f => Sys2Proof.Machine.execTmset f s
  | .tmadv f => Sys2Proof.Machine.execTmadv f s
  | .tmget f => Sys2Proof.Machine.execTmget f s
  | .dqpush f => Sys2Proof.Machine.execDqpush f s
  | .ovfget f => Sys2Proof.Machine.execOvfget f s
  | .lsupd f => Sys2Proof.Machine.execLsupd f s
  | .nadd f => Sys2Proof.Machine.execNadd f s
  | .nwdraw f => Sys2Proof.Machine.execNwdraw f s
  | .nstat f => Sys2Proof.Machine.execNstat f s
  | .trap f => Sys2Proof.Machine.execTrap f s
  | .mfsr f => Sys2Proof.Machine.execMfsr f s
  | .mtsr f => Sys2Proof.Machine.execMtsr f s
  | .pgmap f => Sys2Proof.Machine.execPgmap f s
  | .pgunmap f => Sys2Proof.Machine.execPgunmap f s
  | .tlbinvPage f => Sys2Proof.Machine.execTlbinvPage f s
  | .tlbinvGpage f => Sys2Proof.Machine.execTlbinvGpage f s
  | .tlbinvS2 f => Sys2Proof.Machine.execTlbinvS2 f s
  | .tlbinvS2all f => Sys2Proof.Machine.execTlbinvS2all f s
  | .spilla f => Sys2Proof.Machine.execSpilla f s
  | .filla f => Sys2Proof.Machine.execFilla f s
  | .savel f => Sys2Proof.Machine.execSavel f s
  | .loadl f => Sys2Proof.Machine.execLoadl f s
  | .waitev f => Sys2Proof.Machine.execWaitev f s
  | .pfence => Sys2Proof.Machine.execPfence s
  | .ret => Sys2Proof.Machine.execRet s
  | .join => Sys2Proof.Machine.execJoin s
  | .xacq => Sys2Proof.Machine.execXacq s
  | .xrel => Sys2Proof.Machine.execXrel s
  | .yield => Sys2Proof.Machine.execYield s
  | .exit => Sys2Proof.Machine.execExit s
  | .btok => Sys2Proof.Machine.execBtok s
  | .fexit => Sys2Proof.Machine.execFexit s
  | .nop => Sys2Proof.Machine.execNop s
  | .eret => Sys2Proof.Machine.execEret s
  | .tlbinvCtx => Sys2Proof.Machine.execTlbinvCtx s
  | .tlbinvPart => Sys2Proof.Machine.execTlbinvPart s
  | .clauseSelect => Sys2Proof.Machine.execClauseSelect s
  | .loadReturn => Sys2Proof.Machine.execLoadReturn s
  | .matRetire => Sys2Proof.Machine.execMatRetire s
  | .engineCommandStart => Sys2Proof.Machine.execEngineCommandStart s
  | .collReadyStart => Sys2Proof.Machine.execCollReadyStart s
  | .collExchange => Sys2Proof.Machine.execCollExchange s
  | .collStep => Sys2Proof.Machine.execCollStep s
  | .peerTimeout => Sys2Proof.Machine.execPeerTimeout s
  | .migrDrainDone => Sys2Proof.Machine.execMigrDrainDone s
  | .engineCompletion => Sys2Proof.Machine.execEngineCompletion s
  | .cwaitPop => Sys2Proof.Machine.execCwaitPop s
  | .qpopDeliver => Sys2Proof.Machine.execQpopDeliver s
  | .queuePushAccept => Sys2Proof.Machine.execQueuePushAccept s
  | .btokPop => Sys2Proof.Machine.execBtokPop s
  | .xacqGrant => Sys2Proof.Machine.execXacqGrant s
  | .xlockStall => Sys2Proof.Machine.execXlockStall s
  | .barrierRelease => Sys2Proof.Machine.execBarrierRelease s
  | .waitbComplete => Sys2Proof.Machine.execWaitbComplete s
  | .waitbUnsatisfiable => Sys2Proof.Machine.execWaitbUnsatisfiable s
  | .waitjExpiry => Sys2Proof.Machine.execWaitjExpiry s
  | .waitevDeliver => Sys2Proof.Machine.execWaitevDeliver s
  | .fenceComplete => Sys2Proof.Machine.execFenceComplete s
  | .sealEffect => Sys2Proof.Machine.execSealEffect s
  | .unsealEffect => Sys2Proof.Machine.execUnsealEffect s
  | .sweepComplete => Sys2Proof.Machine.execSweepComplete s
  | .gateAnswer => Sys2Proof.Machine.execGateAnswer s
  | .gateTokenRefill => Sys2Proof.Machine.execGateTokenRefill s
  | .hgwaitTimeout => Sys2Proof.Machine.execHgwaitTimeout s
  | .gateTableRetry => Sys2Proof.Machine.execGateTableRetry s
  | .gateRedirect => Sys2Proof.Machine.execGateRedirect s
  | .read => Sys2Proof.Machine.execRead s
  | .write => Sys2Proof.Machine.execWrite s
  | .atomic => Sys2Proof.Machine.execAtomic s
  | .gate => Sys2Proof.Machine.execGate s
  | .resp => Sys2Proof.Machine.execResp s
  | .ack => Sys2Proof.Machine.execAck s
  | .retryMap => Sys2Proof.Machine.execRetryMap s
  | .flitCrcReplay => Sys2Proof.Machine.execFlitCrcReplay s
  | .dieLaneReplace => Sys2Proof.Machine.execDieLaneReplace s
  | .planeDead => Sys2Proof.Machine.execPlaneDead s
  | .quiesceReport => Sys2Proof.Machine.execQuiesceReport s
  | .packageFenceOut => Sys2Proof.Machine.execPackageFenceOut s
  | .planeMapCommit => Sys2Proof.Machine.execPlaneMapCommit s
  | .planeFreeze => Sys2Proof.Machine.execPlaneFreeze s
  | .planeShadowWrite => Sys2Proof.Machine.execPlaneShadowWrite s
  | .backgroundScrub => Sys2Proof.Machine.execBackgroundScrub s
  | .launchQueueTail => Sys2Proof.Machine.execLaunchQueueTail s
  | .graphAccept => Sys2Proof.Machine.execGraphAccept s
  | .nodeReserve => Sys2Proof.Machine.execNodeReserve s
  | .blockDispatch => Sys2Proof.Machine.execBlockDispatch s
  | .blockRetire => Sys2Proof.Machine.execBlockRetire s
  | .sliceExpiry => Sys2Proof.Machine.execSliceExpiry s
  | .graceHalt => Sys2Proof.Machine.execGraceHalt s
  | .kill => Sys2Proof.Machine.execKill s
  | .blockSave => Sys2Proof.Machine.execBlockSave s
  | .blockResume => Sys2Proof.Machine.execBlockResume s
  | .unitLoss => Sys2Proof.Machine.execUnitLoss s
  | .layoutCommit => Sys2Proof.Machine.execLayoutCommit s
  | .layoutTick => Sys2Proof.Machine.execLayoutTick s
  | .scrubComplete => Sys2Proof.Machine.execScrubComplete s
  | .errclr => Sys2Proof.Machine.execErrclr s
  | .frameRelease => Sys2Proof.Machine.execFrameRelease s
  | .frameReleaseDone => Sys2Proof.Machine.execFrameReleaseDone s
  | .s2respRelease => Sys2Proof.Machine.execS2respRelease s
  | .s2respRefuse => Sys2Proof.Machine.execS2respRefuse s
  | .placeWrite => Sys2Proof.Machine.execPlaceWrite s
  | .registerWrite => Sys2Proof.Machine.execRegisterWrite s
  | .priDoorbell => Sys2Proof.Machine.execPriDoorbell s
  | .pageRequestResponse => Sys2Proof.Machine.execPageRequestResponse s
  | .atsTranslationCompletion => Sys2Proof.Machine.execAtsTranslationCompletion s
  | .atsInvalidationRequest => Sys2Proof.Machine.execAtsInvalidationRequest s
  | .inboundWrite => Sys2Proof.Machine.execInboundWrite s
  | .hostCompletion => Sys2Proof.Machine.execHostCompletion s
  | .completionTimeout => Sys2Proof.Machine.execCompletionTimeout s
  | .linkDown => Sys2Proof.Machine.execLinkDown s
  | .functionReset => Sys2Proof.Machine.execFunctionReset s
  | .coldReset => Sys2Proof.Machine.execColdReset s
  | .powerOn => Sys2Proof.Machine.execPowerOn s
  | .getVersion => Sys2Proof.Machine.execGetVersion s
  | .getCapabilities => Sys2Proof.Machine.execGetCapabilities s
  | .negotiateAlgorithms => Sys2Proof.Machine.execNegotiateAlgorithms s
  | .getDigests => Sys2Proof.Machine.execGetDigests s
  | .getCertificate => Sys2Proof.Machine.execGetCertificate s
  | .challenge => Sys2Proof.Machine.execChallenge s
  | .getMeasurements => Sys2Proof.Machine.execGetMeasurements s
  | .throttle => Sys2Proof.Machine.execThrottle s
  | .criticalTemperature => Sys2Proof.Machine.execCriticalTemperature s
  | .roceSend => Sys2Proof.Machine.execRoceSend s
  | .roceRdmaWrite => Sys2Proof.Machine.execRoceRdmaWrite s
  | .roceRdmaWriteImm => Sys2Proof.Machine.execRoceRdmaWriteImm s
  | .roceRdmaRead => Sys2Proof.Machine.execRoceRdmaRead s
  | .roceUnsupported => Sys2Proof.Machine.execRoceUnsupported s
  | .roceRetransmitTimeout => Sys2Proof.Machine.execRoceRetransmitTimeout s
  | .pfcPause => Sys2Proof.Machine.execPfcPause s
  | .ecnMark => Sys2Proof.Machine.execEcnMark s
  | .ethernetLinkFail => Sys2Proof.Machine.execEthernetLinkFail s
  | .heldSlotAnswer => Sys2Proof.Machine.execHeldSlotAnswer s
  | .gateClose => Sys2Proof.Machine.execGateClose s
  | .hPreemptionRequest => Sys2Proof.Machine.execHPreemptionRequest s
  | .peerToPeerRequest => Sys2Proof.Machine.execPeerToPeerRequest s

end Sys2Proof.Machine
end

