-- ==== Sys2Proof/Machine/Step.lean ====
section
/-! DEFINITION. One step of the pod: the next move of the agenda. -/

namespace Sys2Proof.Machine

/-- A word issues: what it meets, or its instruction. -/
def stepWord (s : State) (u : UnitId) : Host.Outcome State Fault Refusal :=
  match issueWord s u with
  | .idle => .next s
  | .meets r => r
  | .runs s' i =>
    match exec i s' with
    | .next t => .next (afterIssue s' t u)
    | r => r

/-- Another agent's step: its row of the table, about the subject given. -/
def stepEvent (s : State) (i : Instr) (sub : Subject) : Host.Outcome State Fault Refusal :=
  if encodedWord i then .next s else exec i { s with subject := sub }

/-- An outcome in which the step took place, or did not (log 110). -/
def settle (s : State) (r : Host.Outcome State Fault Refusal) : Host.Outcome State Fault Refusal :=
  match r with
  | .next t => .next (settled s t)
  | r => r

def step (s : State) : Host.Outcome State Fault Refusal :=
  match nextMove s with
  | (s, .word u) => settle s (stepWord s u)
  | (s, .event i sub) => settle s (stepEvent s i sub)
  | (s, m) => .next (settled s (otherMove s m))

/-- s with a bare word where the next step fetches it (log 8, log 20). -/
def State.withFetchWord (s : State) (nbits w : Nat) : State := bench s (tableWord nbits w)

end Sys2Proof.Machine
end

