-- ==== Sys2Proof/Safety.lean ====
section
/-! DEFINITION. The terms in which statements about the machine are made: what a state must keep, when a word of a unit
runs, how it completes, and what it leaves alone. -/

namespace Sys2Proof.Safety

open Sys2Proof.Machine

/-! ## What every state keeps -/

/-- Device memory, host memory and every core's SRAM are listed in the one canonical form. -/
def MemoryCanonical (s : State) : Prop :=
  Memory.wf s.mem = true ∧ Memory.wf s.hostMem = true ∧ ∀ e ∈ s.cores, Memory.wf e.2.sram = true

/-! ## When a word runs -/

/-- The unit of the step is resident, and the features of instruction i are enabled in its package. -/
def Issues (s : State) (i : Instr) (I : Issuer) : Prop :=
  issuerOf s s.subject.unit (wordOf i) = some I ∧ enabledAt s I.blk.pkg i = true

/-- It is a slot of a quire. -/
def QuireIssues (s : State) (i : Instr) (I : Issuer) : Prop := Issues s i I ∧ I.fe = false

/-- It is a front-end context. -/
def FrontIssues (s : State) (i : Instr) (I : Issuer) : Prop := Issues s i I ∧ I.fe = true

/-- Every source is full (02_instruction_words.md R34). -/
def Full (l : List SrcSt) : Prop := ∀ x ∈ l, x.full = true

/-- No destination is owed by an outstanding producer (09_registers.md R196). -/
def Free (l : List SrcSt) : Prop := owed l = false

/-! ## How a word completes -/

/-- exec answers the state that act leaves, with the unit at its next word. -/
def Completes (i : Instr) (s : State) (I : Issuer) (t : State) : Prop :=
  exec i s = .next (complete t I)

/-- A trap is taken: nothing else of the word has happened. -/
def Traps (i : Instr) (s : State) (t : Trap) : Prop :=
  exec i s = .next (takeTrap s s.subject.unit t)

/-- The two traps whose TRAPINFO is the word (16_traps.md R362). -/
def wordTrap (c : Cause) (i : Instr) : Trap := { cause := c, info := (wordOf i).setWidth 64 }

/-! ## What a word leaves alone -/

/-- Memory of the device and of the host, byte by byte, and every core. -/
def SameStores (s t : State) : Prop :=
  (∀ a, Memory.read t.mem a = Memory.read s.mem a) ∧ (∀ a, Memory.read t.hostMem a = Memory.read s.hostMem a) ∧
  t.bad = s.bad ∧ t.cores = s.cores

/-- All of the state but the tables of blocks and quires, and in those every entry but block b and quire key. -/
def SameElsewhere (s t : State) (b key : Nat) : Prop :=
  { t with blocks := s.blocks, quires := s.quires } = s ∧
  (∀ n, n ≠ b → Tab.find t.blocks n = Tab.find s.blocks n) ∧
  (∀ n, n ≠ key → Tab.find t.quires n = Tab.find s.quires n)

/-- The unit's control state after a word that does not transfer control: the pc is four further, one word of the
clause fewer is left, and the unit waits for nothing. -/
def advanced (c : Strand) : Strand := { c with pc := c.pc + 4, left := c.left - 1, wait := .none }

/-- Quire Q after a word of its slot sl: that slot has advanced, the other is as it was. -/
def SlotsAfter (Q Q' : Quire) (sl : Nat) : Prop :=
  if sl == 0 then Q'.s0 = { Q.s0 with ctl := advanced Q.s0.ctl } ∧ Q'.s1 = Q.s1
  else Q'.s1 = { Q.s1 with ctl := advanced Q.s1.ctl } ∧ Q'.s0 = Q.s0

/-- ICNT after a word of the mask's threads: at U each has counted one (11_ternion.md R232). -/
def icntAfter (I : Issuer) (i : Nat) : Word :=
  if I.atU && I.threads.contains i then I.icnt i + 1 else I.icnt i

/-- The instructions of l have consecutive opcodes from o in class c, and the given bits [23:0]. -/
def OpcodesFrom (l : List Instr) (c : Cls) (o : Nat) (fields : BitVec 24) : Prop :=
  ∀ (k : Nat) (i : Instr), l[k]? = some i → encode i = some (c, BitVec.ofNat 8 (o + k) ++ fields)

/-! ## The vector and uniform instructions by shape -/

/-- The 32-bit instructions of format F.VV whose result is a word operation: the constructor, the operands it reads, and
what each lane computes from va, the second operand and vd (12_vector.md R260, R265, R272). -/
def wordOps (f : VV) : List (Instr × Shape × (Word → Word → Word → Word)) := [
  (.iadd f, binary, fun a b _ => a + b),
  (.isub f, binary, fun a b _ => a - b),
  (.imul f, binary, fun a b _ => a * b),
  (.imulh f, binary, fun a b _ => BitVec.ofInt 32 (a.toInt * b.toInt / 2 ^ 32)),
  (.umulh f, binary, fun a b _ => BitVec.ofNat 32 (a.toNat * b.toNat / 2 ^ 32)),
  (.imad f, ternary, fun a b d => a * b + d),
  (.iabs f, unary, fun a _ _ => if a.toInt < 0 then -a else a),
  (.ineg f, unary, fun a _ _ => -a),
  (.imin f, binary, fun a b _ => if a.toInt < b.toInt then a else b),
  (.imax f, binary, fun a b _ => if a.toInt < b.toInt then b else a),
  (.umin f, binary, fun a b _ => if a.toNat < b.toNat then a else b),
  (.umax f, binary, fun a b _ => if a.toNat < b.toNat then b else a),
  (.and f, binary, fun a b _ => a &&& b),
  (.or f, binary, fun a b _ => a ||| b),
  (.xor f, binary, fun a b _ => a ^^^ b),
  (.andn f, binary, fun a b _ => a &&& ~~~b),
  (.mov f, unary, fun a _ _ => a),
  (.fabs f, fpUnary, fun a _ _ => a &&& 0x7FFFFFFF),
  (.fneg f, fpUnary, fun a _ _ => a ^^^ 0x80000000)]

/-- Where a bit field starts, and its length, by the control value c (R261). -/
def fieldPos (c : Word) : Nat := c.toNat % 32
def fieldLen (c : Word) : Nat := min (c.toNat / 256 % 64) (32 - c.toNat % 32)

/-- The class of an FP32 value, as R275 numbers the classes, from its sign, exponent field and fraction field. -/
def fpClass (neg : Bool) (e m : Nat) : Nat :=
  if e = 255 then (if m = 0 then (if neg then 0 else 7) else if m < 2 ^ 22 then 8 else 9)
  else if e = 0 then (if m = 0 then (if neg then 3 else 4) else if neg then 2 else 5)
  else if neg then 1 else 6

/-- The shifts, counts, bit fields, divisions and FCLASS: the constructor, the operands it reads, and how a lane's result r
stands to va, the second operand c and the old vd, bit by bit or as numbers (R260 to R262, R275). -/
def laneOps (f : VV) : List (Instr × Shape × (Word → Word → Word → Word → Prop)) := [
  (.shl f, binary, fun a c _ r => ∀ n, n < 32 → r.getLsbD n = (decide (c.toNat % 256 ≤ n) && a.getLsbD (n - c.toNat % 256))),
  (.shr f, binary, fun a c _ r => ∀ n, n < 32 → r.getLsbD n = a.getLsbD (n + c.toNat % 256)),
  (.sar f, binary, fun a c _ r => ∀ n, n < 32 → r.getLsbD n = a.getLsbD (min (n + c.toNat % 256) 31)),
  (.clz f, unary, fun a _ _ r => (a = 0 → r.toNat = 32) ∧
    ∀ n, n < 32 → a.getLsbD n = true → (∀ m, n < m → a.getLsbD m = false) → r.toNat = 31 - n),
  (.popc f, unary, fun a _ _ r => r.toNat = ((List.range 32).filter fun n => a.getLsbD n).length),
  (.brev f, unary, fun a _ _ r => ∀ n, n < 32 → r.getLsbD n = a.getLsbD (31 - n)),
  (.bfxu f, binary, fun a c _ r => ∀ n, n < 32 →
    r.getLsbD n = (decide (n < fieldLen c) && a.getLsbD (fieldPos c + n))),
  (.bfx f, binary, fun a c _ r => ∀ n, n < 32 →
    r.getLsbD n = (decide (fieldLen c ≠ 0) && a.getLsbD (fieldPos c + min n (fieldLen c - 1)))),
  (.bfi f, ternary, fun a c d r => ∀ n, n < 32 →
    r.getLsbD n = if fieldPos c ≤ n ∧ n < fieldPos c + fieldLen c then a.getLsbD (n - fieldPos c) else d.getLsbD n),
  (.idiv f, binary, fun a b _ r => (b = 0 → r = 0xFFFFFFFF#32) ∧
    (a = 0x80000000#32 → b = 0xFFFFFFFF#32 → r = 0x80000000#32) ∧
    (b ≠ 0 → ¬ (a = 0x80000000#32 ∧ b = 0xFFFFFFFF#32) → r.toInt = a.toInt.tdiv b.toInt)),
  (.irem f, binary, fun a b _ r => (b = 0 → r = a) ∧ (a = 0x80000000#32 → b = 0xFFFFFFFF#32 → r = 0) ∧
    (b ≠ 0 → r.toInt = a.toInt.tmod b.toInt)),
  (.udiv f, binary, fun a b _ r => (b = 0 → r = 0xFFFFFFFF#32) ∧ (b ≠ 0 → r.toNat = a.toNat / b.toNat)),
  (.urem f, binary, fun a b _ r => (b = 0 → r = a) ∧ (b ≠ 0 → r.toNat = a.toNat % b.toNat)),
  (.fclass f, fpUnary, fun a _ _ r => r.toNat = 2 ^ fpClass (a.getLsbD 31) (a.toNat / 2 ^ 23 % 2 ^ 8) (a.toNat % 2 ^ 23))]

/-- The instructions of format F.VI (R263, R264): what each lane computes from va and the sign-extended immediate. -/
def immOps (f : VI) : List (Instr × (Word → Word → Word)) := [
  (.iaddi f, fun a b => a + b),
  (.andi f, fun a b => a &&& b),
  (.ori f, fun a b => a ||| b),
  (.xori f, fun a b => a ^^^ b),
  (.shli f, fun a b => if b.toNat % 256 < 32 then a <<< (b.toNat % 256) else 0),
  (.shri f, fun a b => if b.toNat % 256 < 32 then a >>> (b.toNat % 256) else 0),
  (.sari f, fun a b => a.sshiftRight (min (b.toNat % 256) 31))]

/-- The floating-point instructions with one rounding: the constructor, operands, format, instability condition and the
exact operation (R270, R273, R274). -/
def roundedOps (f : VV) : List (Instr × Shape × Fmt × Watch × (List FV → Exact)) := [
  (.fadd f, fpBinary, fp32, .cancel, op2 fvAdd),
  (.fsub f, fpBinary, fp32, .cancel, op2 fun a b => fvAdd a b.flip),
  (.fmul f, fpBinary, fp32, .none, op2 fvMul),
  (.ffma f, fpTernary, fp32, .cancel, op3 fvFma),
  (.fdiv f, fpBinary, fp32, .zdivB, op2 fvDiv),
  (.fsqrt f, fpUnary, fp32, .none, op1 fvSqrt),
  (.frcp f, fpUnary, fp32, .zdivA, op1 fvRcp),
  (.frsq f, fpUnary, fp32, .zdivA, op1 fvRsq),
  (.fexp2 f, fpUnary, fp32, .none, op1 fvExp2),
  (.flog2 f, fpUnary, fp32, .none, op1 fvLog2),
  (.ftanh f, fpUnary, fp32, .none, op1 fvTanh),
  (.dadd f, dpBinary, fp64, .cancel, op2 fvAdd),
  (.dsub f, dpBinary, fp64, .cancel, op2 fun a b => fvAdd a b.flip),
  (.dmul f, dpBinary, fp64, .none, op2 fvMul),
  (.dfma f, dpTernary, fp64, .cancel, op3 fvFma),
  (.ddiv f, dpBinary, fp64, .zdivB, op2 fvDiv),
  (.dsqrt f, dpUnary, fp64, .none, op1 fvSqrt)]

/-- The minimum and maximum instructions: wide or not, the format, and whether it is the maximum (R272). -/
def minMaxOps (f : VV) : List (Instr × Bool × Fmt × Bool) := [
  (.fmin f, false, fp32, false), (.fmax f, false, fp32, true), (.dmin f, true, fp64, false), (.dmax f, true, fp64, true)]

/-- Words with permitted operands or not, and the sources that they read (12_vector.md R255). -/
def sourceWords (I : Issuer) (f : VV) : List (Instr × Bool × List SrcSt) :=
  ((wordOps f).map fun x => (x.1, x.2.1.ok I f, x.2.1.srcs I f)) ++
  ((laneOps f).map fun x => (x.1, x.2.1.ok I f, x.2.1.srcs I f)) ++
  ((roundedOps f).map fun x => (x.1, x.2.1.ok I f, x.2.1.srcs I f)) ++
  (minMaxOps f).map fun x => (x.1, ({ wide := x.2.1 } : Shape).ok I f, ({ wide := x.2.1 } : Shape).srcs I f)

/-- Two-operand predicate operations (R283). -/
def predOps (f : KF) : List (Instr × (Mask → Mask → Mask)) := [
  (.kand f, fun a b => a &&& b), (.kor f, fun a b => a ||| b), (.kxor f, fun a b => a ^^^ b), (.knot f, fun a _ => ~~~a),
  (.kmov f, fun a _ => a)]

/-- Two-operand uniform operations (R285). -/
def uniformOps (f : SF) : List (Instr × (Word → Word → Word)) := [
  (.sadd f, fun a b => a + b), (.ssub f, fun a b => a - b), (.smul f, fun a b => a * b), (.sand f, fun a b => a &&& b),
  (.sor f, fun a b => a ||| b), (.sxor f, fun a b => a ^^^ b),
  (.sshl f, fun a b => if b.toNat % 256 < 32 then a <<< (b.toNat % 256) else 0),
  (.sshr f, fun a b => if b.toNat % 256 < 32 then a >>> (b.toNat % 256) else 0)]

/-- An instability condition does not trap: no thread meets it, the quire is not in ternion mode, the condition's action
is not TRAP, or the slot is inside an instability handler (11_ternion.md R237 to R239). -/
def NoInstabTrap (I : Issuer) (n : Nat) (met : List Nat) : Prop :=
  met = [] ∨ I.ter = false ∨ bits I.qr.tctl.toNat (2 * n) 2 ≠ 2 ∨ inInstabHandler I.st = true

/-- Otherwise the word completes with the state t that its result leaves, the threads are counted for the tensor, and then
the condition's trap is taken: TRAPMASK holds the triples of the threads that met it, TRAPINFO the word's address and DIGITS
in bits 57 to 52 (R239). -/
def TrapsInstab (i : Instr) (s : State) (I : Issuer) (t : State) (n : Nat) (met : List Nat) (digits : Nat) : Prop :=
  exec i s = .next (takeTrap (complete (addStat t I.b I.tensor (3 + n) met.length) I) I.u
    { cause := [Cause.instabCancel, .instabCompare, .instabZdiv].getD n .trap, mask := some (maskOfThreads true met)
      info := (I.st.pc &&& 0xFFFFFFFFFFFFF#64) ||| (BitVec.ofNat 64 digits <<< 52) })

/-- A finite FP32 or FP64 value in units of the least FP64 subnormal, 2^-1074; both zeros are 0. -/
def units : FV → Int
  | .fin n m e => if n then -((m * 2 ^ (e + 1074).toNat : Nat) : Int) else ((m * 2 ^ (e + 1074).toNat : Nat) : Int)
  | _ => 0

/-- The order of the values that are not NaN (02_instruction_words.md R45). -/
def fpLess : FV → FV → Prop
  | .inf true, .inf true => False
  | .inf true, _ => True
  | _, .inf true => False
  | .inf false, _ => False
  | _, .inf false => True
  | x, y => units x < units y

/-- What a condition that does not trap leaves: with COUNT, or inside a handler, the threads are added to the tensor's
statistics and to TSTAT; otherwise nothing (R239, R240). -/
def counted (s : State) (I : Issuer) (n : Nat) (met : List Nat) : State :=
  if !met.isEmpty && I.ter && (bits I.qr.tctl.toNat (2 * n) 2 == 1 || inInstabHandler I.st) then
    (addStat s I.b I.tensor (3 + n) met.length).updQuire I.key fun Q =>
      { Q with tstat := bumpTstat Q.tstat (10 * n) met.length }
  else s

/-! ## Results of other shapes -/

/-- The unit stands at a header that its port may select next: it runs, owes no word and no trap, and no WAITJ of its quire
has run out. -/
def AtHeader (s : State) (I : Issuer) : Prop :=
  I.st.wait = .none ∧ I.st.stop = .run ∧ I.st.left = 0 ∧ I.st.due = [] ∧ I.st.pend = [] ∧
  (s.pkgOf I.blk.pkg).stopped = false ∧ expiryDue s s.subject.unit = false

/-- exec answers exactly t. -/
def Answers (i : Instr) (s t : State) : Prop := exec i s = .next t

/-- The word completes and control goes to the header at pc. -/
def JumpsTo (i : Instr) (s : State) (I : Issuer) (t : State) (pc : DWord) : Prop :=
  exec i s = .next (updStrand (countIcnt t I) I.u fun c => { c with pc := pc, left := 0, wait := .none })

/-- The word has issued and its unit waits; the row that ends the wait completes it. -/
def WaitsAs (i : Instr) (s : State) (I : Issuer) (t : State) (w : Wait) : Prop :=
  exec i s = .next (updStrand t I.u fun c => { c with wait := w })

/-- The quire's slot is as after a word without a transfer, its bank of level S apart; the other slot is as it was. -/
def SlotAdvanced (Q Q' : Quire) (sl : Nat) : Prop :=
  let x := Q'.slot sl
  { x with ctl := { x.ctl with bank := (Q.slot sl).ctl.bank } } = { Q.slot sl with ctl := advanced (Q.slot sl).ctl } ∧
  (if sl == 0 then Q'.s1 = Q.s1 else Q'.s0 = Q.s0)

/-- Of the slot's bank of level S, entry r alone may have changed. -/
def BankKept (c c' : Strand) (r : Nat) : Prop := ∀ n, n ≠ r → Tab.find c'.bank n = Tab.find c.bank n

/-- A unit's control state c' after a trap was taken in c at the level and vector of T: the level's registers are regs and
keep the ones they replace, k15 and the entry; the bank of level S is full at an entry from U (16_traps.md R363 to R367). -/
def EntersAt (T : Level × DWord × Bool) (regs : TrapRegs) (k15 : Mask) (c c' : Strand) : Prop :=
  let L := if T.1 = .u then c'.trapU else c'.trapS
  let L0 := if T.1 = .u then c.trapU else c.trapS
  c'.pc = T.2.1 ∧ c'.left = 0 ∧ c'.level = T.1 ∧ c'.wait = .none ∧ L.regs = regs ∧ L.saved = L0.regs ∧ L.inHandler = true ∧
  L.savedK15 = k15 ∧ (if T.1 = .u then c'.trapS = c.trapS else c'.trapU = c.trapU) ∧ c'.trapH = c.trapH ∧ c'.pend = c.pend ∧
  c'.bank = if T.1 = .s ∧ c.level = .u then c.bank.map (fun e => (e.1, { val := e.2.val })) else c.bank

/-- The unit is held where it trapped: H's copy of the trap registers is written, all else stands (R363, R367). -/
def heldStrand (c : Strand) (t : Trap) (regs : TrapRegs) : Strand :=
  { c with wait := .heldAtH { t with mask := some regs.mask } c.pc, trapH := regs }

/-- The issuer's view of a later state of its block and quire. -/
def later (I : Issuer) (B : Block) (Q : Quire) : Issuer :=
  { I with blk := B, qr := Q, st := if I.fe then B.front.ctl else (Q.slot I.sl).ctl }

/-- Whether the unit waits as w. -/
def WaitsFor (s : State) (I : Issuer) (w : Wait) : Prop := issuerOf s s.subject.unit 0 = some I ∧ I.st.wait = w

/-- The 64-bit instructions of the front-end, format F.XR (14_control.md R314). -/
def frontOps (f : XR) : List (Instr × (DWord → DWord → DWord)) := [
  (.add f, fun a b => a + b), (.sub f, fun a b => a - b), (.mul f, fun a b => a * b),
  (.mulh f, fun a b => BitVec.ofInt 64 (a.toInt * b.toInt / 2 ^ 64)),
  (.divu f, fun a b => if b = 0 then BitVec.allOnes 64 else BitVec.ofNat 64 (a.toNat / b.toNat)),
  (.remu f, fun a b => if b = 0 then a else BitVec.ofNat 64 (a.toNat % b.toNat)),
  (.frontAnd f, fun a b => a &&& b), (.frontOr f, fun a b => a ||| b), (.frontXor f, fun a b => a ^^^ b),
  (.frontShl f, fun a b => if b.toNat % 256 < 64 then a <<< (b.toNat % 256) else 0),
  (.frontShr f, fun a b => if b.toNat % 256 < 64 then a >>> (b.toNat % 256) else 0),
  (.frontSar f, fun a b => a.sshiftRight (min (b.toNat % 256) 63)),
  (.min f, fun a b => if a.toInt < b.toInt then a else b), (.max f, fun a b => if a.toInt < b.toInt then b else a)]

/-- Its immediate instructions, format F.XI (R314): the second operand is the sign-extended immediate. -/
def frontImmOps (f : XI) : List (Instr × (DWord → DWord → DWord)) := [
  (.addi f, fun a b => a + b), (.frontAndi f, fun a b => a &&& b), (.frontOri f, fun a b => a ||| b),
  (.frontShli f, fun a b => a <<< b.toNat), (.frontShri f, fun a b => a >>> b.toNat)]

/-- Its FP32 instructions: whether xd is an operand, and the exact operation (R317). -/
def frontFpOps (f : XR) : List (Instr × Bool × (List FV → Exact)) := [
  (.fadds f, false, frontOp2 fvAdd), (.fmuls f, false, frontOp2 fvMul), (.ffmas f, true, frontOp3 fvFma),
  (.fdivs f, false, frontOp2 fvDiv)]

/-! ## Accesses to memory -/

/-- Every access of rs is translated and permitted, host memory performs it, no earlier atomic or scratchpad write of a
matrix instruction holds it back, and no doorbell it stores to is full (the orders 6 to 9 of 07_local_memory.md R162;
08_ordering.md R175, R182; 04_translation.md R87). -/
def Reaches (s : State) (I : Issuer) (write whole : Bool) (rs : List MemReq) : Prop :=
  let t := translateAll s I write rs
  verdict t.1 I write whole t.2 = .go ∧ hostRefuses t.1 I t.2 = [] ∧ acquireHolds t.1 I (groupLines t.2) write = false ∧
  matWrites t.1 I.u t.1.nextId = false ∧ doorbellWaits t.1 I t.2 = false

/-- The siblings of every thread of the mask have a majority of each value (R159). -/
def Agree (I : Issuer) (fs : List (Nat → Nat)) : Prop :=
  ∀ i ∈ I.threads, ∀ f ∈ fs, (majority I.ter i f).isSome = true

/-- The address of every thread is a multiple of b (R158). -/
def Aligned (I : Issuer) (b : Nat) (addr : Nat → Nat) : Prop := ∀ i ∈ I.threads, I.maj addr i % b = 0

/-- One access of every thread. -/
def eachThread (I : Issuer) (addr : Nat → Nat) (act : Nat → LaneAct) : List MemReq :=
  I.threads.map fun i => { key := i, thread := i, va := I.maj addr i, act := act i }

/-- The word's accesses issue, and the word completes with the state that they leave. -/
def Performs (i : Instr) (s : State) (I : Issuer) (write whole : Bool) (rs : List MemReq) (dest : Dest) (acq : Nat)
    (mark : State → State) : Prop :=
  ∃ t, memIssue s I write whole rs dest acq mark = .done t ∧ Completes i s I t

/-- Orders 8 and 9 of R162 for the accesses rs of a word: PAGE_FAULT before what a completed walk gives, then PROTECTION of
the leaf, then of a sealed region, then of a digit byte on a page that is not PLAIN; TRAPINFO is that of the lowest access
that meets the cause, the mask that of all that meet it (R80). -/
def TranslationTraps (i : Instr) (s : State) (I : Issuer) (write whole : Bool) (rs : List MemReq) : Prop :=
  let x := translateAll s I write rs
  let meets := fun (c : Cause) (y : Located) => match y.xl with
    | .fault c' _ _ => c' == c
    | _ => false
  let isOk := fun (y : Located) => match y.xl with
    | .ok _ _ _ => true
    | _ => false
  let mask := fun l : List Located =>
    if I.fe || whole then none else some (maskOfThreads I.ter (l.map fun y => y.req.thread).eraseDups)
  (∀ y l r lv, x.2.filter (meets .pageFault) = y :: l → y.xl = .fault .pageFault r lv →
    Traps i s { cause := .pageFault, info := faultInfo y.req.va r lv write 0, mask := mask (y :: l) }) ∧
  (∀ y l r lv, (∀ z ∈ x.2, isOk z = true ∨ meets .protection z = true) → x.2.filter (meets .protection) = y :: l →
    y.xl = .fault .protection r lv →
    Traps i s { cause := .protection, info := faultInfo y.req.va r lv write 0, mask := mask (y :: l) }) ∧
  (∀ y l, (∀ z ∈ x.2, isOk z = true) → write = true → x.2.filter (fun z => z.sealedAt x.1 I.blk.part) = y :: l →
    Traps i s { cause := .protection, info := faultInfo y.req.va 0 3 write 1, mask := mask (y :: l) }) ∧
  (∀ y l, (∀ z ∈ x.2, isOk z = true) → (write = true → ∀ z ∈ x.2, z.sealedAt x.1 I.blk.part = false) →
    x.2.filter Located.notPlain = y :: l →
    Traps i s { cause := .protection, info := faultInfo y.req.va 0 3 write 2, mask := mask (y :: l) })

/-- The threads whose address is no multiple of b. -/
def offThreads (I : Issuer) (b : Nat) (addr : Nat → Nat) : List Nat := I.threads.filter fun t => I.maj addr t % b != 0

/-- Orders 4, 6, 8 and 9 of R162 for a word whose threads access addr, those of off at a misaligned place; the address and
vals take a majority. -/
def ThreadTraps (i : Instr) (s : State) (I : Issuer) (write : Bool) (off : List Nat) (addr : Nat → Nat) (vals : List (Nat → Nat))
    (rs : List MemReq) : Prop :=
  let split := I.threads.filter fun t => (addr :: vals).any fun f => (majority I.ter t f).isNone
  (split ≠ [] → Traps i s { (wordTrap .illegalOperand i) with mask := some (maskOfThreads I.ter split) }) ∧
  (split = [] → off ≠ [] → Traps i s
    { cause := .align, info := BitVec.ofNat 64 (I.maj addr (off.headD 0) % 2 ^ 52), mask := some (maskOfThreads I.ter off) }) ∧
  (split = [] → off = [] → TranslationTraps i s I write false rs)

/-- The same for an atomic, whose scope code is counted when it is clamped (01_machine.md R15). -/
def PerformsAtomic (i : Instr) (s : State) (I : Issuer) (whole : Bool) (rs : List MemReq) (dest : Dest) (scope : Nat)
    (mark : State → State) : Prop :=
  ∃ t, memIssue s I true whole rs dest (acqOf (I.scope scope)) mark = .done t ∧
    Completes i s I (countClamp t I scope)

/-- An atomic waits until the thread's earlier accesses that its scope carries are performed (R182). -/
def ReleaseDone (s : State) (I : Issuer) (scope : Nat) : Prop :=
  unperformed s I.u I.mask s.nextId (I.scope scope) = false

/-- The bytes of device memory, address and length, that a line request stores when it is sent: those of its stores and
atomics at the place of its line, if that is memory of the issuing package. -/
def storedLine (s : State) (r : LineReq) : List (Nat × Nat) :=
  match locate s r.pkg r.part r.gpa r.write with
  | some (.dev d) =>
    if d >>> 44 == r.pkg && !isWindow (d / 64 * 64) then
      (r.ops.filter fun o => o.writes).map fun o => (d / 64 * 64 + o.off, o.len)
    else []
  | _ => []

/-- The same of the lines of an operation of issuer I, sent in order: one that must wait for an earlier access, or that is
let go late, stores nothing yet. -/
def storedAll (I : Issuer) (id : Nat) (acc : Sending) : List LineReq → List (Nat × Nat)
  | [] => []
  | r :: rs =>
    if heldBack acc.s I.u I.mask id || pieceBefore acc.s r acc.s.held.length then storedAll I id (queueBehind acc r) rs
    else if isSlow acc.s r then storedAll I id (queueSlow acc r) rs
    else storedLine acc.s r ++ storedAll I id (sendLine acc r) rs

def outside (a : Nat) (l : List (Nat × Nat)) : Prop := ∀ x ∈ l, a < x.1 ∨ x.1 + x.2 ≤ a

/-- The line requests of translated accesses, for operation id. -/
def lineRequests (I : Issuer) (write : Bool) (id : Nat) (xs : List Located) : List LineReq :=
  (groupLines xs).map fun l =>
    { unit := I.u, pkg := I.blk.pkg, part := I.blk.part, ctx := I.blk.ctx, gpa := l.line * 64, ops := l.ops
      lvl := I.st.level, op := id, write := write, ter := I.ter
      cnt := if l.cnt then some (dieOfCore I.blk.core) else none }

/-- The state in which the lines of a word's accesses are sent: translated, the destination marked and the operation
numbered. -/
def sendFrom (s : State) (I : Issuer) (write : Bool) (rs : List MemReq) (mark : State → State) : State :=
  let x := translateAll s I write rs
  { (mark x.1) with nextId := x.1.nextId + 1 }

/-- A map element within its rows and columns, or a plain offset within the scratchpad, of every thread (R165). -/
def InScratch (I : Issuer) (f : MS) (m : DWord) (b : Nat) : Prop :=
  ∀ i ∈ I.threads, ∃ o, msOffset f m (I.maj (fun l => ((I.vreg f.va.toNat).at l).toNat) i) = some o ∧ o % b = 0 ∧
    (f.map = 0 → o + b ≤ I.blk.scratchLen)

/-- The scratchpad offset of a thread. -/
def scratchAt (I : Issuer) (f : MS) (m : DWord) (i : Nat) : Nat :=
  (msOffset f m (I.maj (fun l => ((I.vreg f.va.toNat).at l).toNat) i)).getD 0

/-- No earlier access of the threads, atomic or matrix instruction holds the scratchpad access back. -/
def ScratchFree (s : State) (I : Issuer) : Prop :=
  heldBack s I.u I.mask s.nextId = false ∧ slowLocal s I.u s.nextId = false ∧ (outstanding s I.u I.mask).all (fun e => e.2.acq == 0) = true ∧
  matWrites s I.u s.nextId = false

/-- What an F.MS word with operand form (b bytes, n registers) needs before it accesses the scratchpad. -/
def ScratchReady (s : State) (I : Issuer) (f : MS) (b n : Nat) (rdData wrData : Bool) : Prop :=
  let m := Tab.get 0 (s.coreOf I.blk.core).t f.t.toNat
  I.vOk f.va.toNat 1 = true ∧ I.groupOk f.data.toNat n = true ∧
  (f.map = 0 ∨ (tmNibbles m = 2 * b ∧ mapFormed m I.blk.scratchLen 1 = true)) ∧
  Full (I.srcV f.va.toNat (f.ea == 1) :: (if rdData then I.srcGroup f.data.toNat n else [])) ∧
  Free (if wrData then I.srcGroup f.data.toNat n else []) ∧
  Agree I ((fun l => ((I.vreg f.va.toNat).at l).toNat) :: (if rdData then [I.group f.data.toNat n] else [])) ∧
  InScratch I f m b ∧ ScratchFree s I

/-- A line that a PREF or CLEAN names, per thread with a majority. -/
def prefThreads (I : Issuer) (f : MV) : List (Nat × Nat) :=
  I.threads.filterMap fun i => (majority I.ter i (mvAddr f I)).map fun a => (i, a)

/-- A place for one line request to be performed at once: it is homed in memory of the issuing package, its bank neither
is being scrubbed nor is about to change owner, and the units of the line are correctable there. -/
def PerformsHere (s : State) (r : LineReq) (d : Nat) : Prop :=
  locate s r.pkg r.part r.gpa r.write = some (.dev d) ∧ d >>> 44 = r.pkg ∧ isWindow (d / 64 * 64) = false ∧
  bankStops s r.pkg r.part r.ctx (r.gpa / 64) = false ∧
  ∀ u, u < 2 → unitFault s r.pkg r.part (r.gpa / 64) (d / 64) u = none

/-! ## Matrix instructions -/

/-- A MAT word on tile ad issues: the slot's mask is all live lanes, the tile is the node's, no write to it and no
scratchpad write of the quire is owed, and one that uses the scratchpad waits for no earlier access (13_matrix.md R289,
R293, R294). -/
def MatReady (s : State) (i : Instr) (I : Issuer) (ad : BitVec 4) : Prop :=
  QuireIssues s i I ∧ I.mask = I.qr.live ∧ I.named ad = true ∧ (s.coreOf I.blk.core).tileOwed (I.phys ad) = false ∧
  drainOwed s I = false ∧ scratchHeld s I i = false

/-- The tile that ad names now. -/
def tileNow (s : State) (I : Issuer) (ad : BitVec 4) : Tile := (s.coreOf I.blk.core).tileOf (I.phys ad)

/-- The core's matrix queue with m, of this slot and pc and with number id, at its end. -/
def queueAs (s : State) (I : Issuer) (id : Nat) (m : MatOp) : State :=
  s.updCore I.blk.core fun c =>
    { c with matQ := c.matQ ++ [{ m with id := id, b := I.b, q := I.q, sl := I.sl, pc := I.st.pc }] }

/-- The same with the next number. -/
def queueMat (s : State) (I : Issuer) (m : MatOp) : State := queueAs { s with nextId := s.nextId + 1 } I s.nextId m

/-- Both operand maps of a multiply are valid for the format, and whether an operand meets an uncorrectable word. -/
def OperandsOk (s : State) (I : Issuer) (f : MM) (planes rowsA colsA rowsB colsB code : Nat) : Prop :=
  (operandRegion (I.tmap s f.ta.toNat) planes rowsA colsA).ok I.blk.scratchLen [code] = true ∧
  (operandRegion (I.tmap s f.tb.toNat) planes rowsB colsB).ok I.blk.scratchLen [code] = true

def operandsBad (s : State) (I : Issuer) (f : MM) (planes rowsA colsA rowsB colsB : Nat) : Bool :=
  (operandRegion (I.tmap s f.ta.toNat) planes rowsA colsA).bad (s.coreOf I.blk.core) I.blk ||
  (operandRegion (I.tmap s f.tb.toNat) planes rowsB colsB).bad (s.coreOf I.blk.core) I.blk

/-- The map of MDRS: its planes follow the tile's TRIP (R302). -/
def drainRegion (s : State) (I : Issuer) (f : MM) (t : Tile) : Region :=
  { m := I.tmap s f.ta.toNat, planes := if t.trip && tmPstrCode (I.tmap s f.ta.toNat) != 0 then 3 else 1 }

/-- The integer product of row m of A and column n of B. -/
def dotProduct (s : State) (I : Issuer) (f : MM) (w K m n : Nat) : Int :=
  ((List.range K).map fun k =>
    toSigned w (operandElem (s.coreOf I.blk.core) I.blk (I.tmap s f.ta.toNat) 0 m k) *
      toSigned w (operandElem (s.coreOf I.blk.core) I.blk (I.tmap s f.tb.toNat) 0 k n)).sum

/-! ## Engine commands -/

/-- The data commands of the ENG class: operation code, the registers named, the operands' rule, and the operands that
the command takes (06_engines.md R112, R125 to R135). -/
def engWords (s : State) (I : Issuer) (f : EE) :
    List (Instr × Nat × List (BitVec 5) × Bool × (DWord × DWord × DWord × DWord × DWord)) :=
  let a := I.r64 f.ra.toNat
  let b := I.r64 f.rb.toNat
  let c := I.r64 f.rc.toNat
  let d := I.r64 f.rd.toNat
  let desc := descOk a && clsOk c.toNat
  [(.cpy f, 0, [f.ra, f.rb, f.rc, f.rd], addrOk a && addrOk b && clsOk (bits c.toNat 40 2) && bits c.toNat 42 22 == 0, (a, b, c, d, 0)),
   (.cpy2 f, 1, [f.ra, f.rc, f.rd], desc, (a, 0, c, d, 0)),
   (.cpyt f, 2, [f.ra, f.rb, f.rc, f.rd], addrOk a && clsOk c.toNat && cpytOk I.blk (cpytMap s I b) b.toNat, (a, b, c, d, cpytMap s I b)),
   (.cpyr f, 3, [f.ra, f.rc, f.rd], desc, (a, 0, c, d, 0)),
   (.cpym f, 4, [f.ra, f.rc, f.rd], desc, (a, 0, c, d, 0)),
   (.gthr f, 5, [f.ra, f.rc, f.rd], desc, (a, 0, c, d, 0)),
   (.sctr f, 6, [f.ra, f.rc, f.rd], desc, (a, 0, c, d, 0)),
   (.fill f, 7, [f.ra, f.rb, f.rc, f.rd],
     addrOk a && clsOk (bits c.toNat 40 2) && bits c.toNat 44 20 == 0 && a.toNat % fillWidth c == 0 &&
       bits c.toNat 0 40 % fillWidth c == 0 && b.toNat < 2 ^ (8 * fillWidth c), (a, b, c, d, 0)),
   (.coll f, 8, [f.ra, f.rd], descOk a, (a, 0, 0, d, 0)),
   (.migr f, 12, [f.ra, f.rb, f.rc],
     addrOk a && addrOk b && a.toNat % 65536 == 0 && b.toNat % 65536 == 0, (a, b, 0, c, 0))]

/-- The state in which a started command runs. -/
def startedAs (s : State) (id : Nat) (e : EngOp) : State :=
  setEng { s with nextId := s.nextId + 1 } id { e with phase := .running, started := s.nextId, since := s.now }

/-! ## Gates and events -/

/-- A gate operation sent from s: its destinations are empty, with their notes kept, it has the next number, and it is
sent to the object that its handle names (injectGate says how). -/
def gateSent (s : State) (I : Issuer) (g : GateOp) : State :=
  let g := { g with olds := g.dests.map I.notes64 }
  let t := g.dests.foldl (fun s r => empty64 s I r) s
  let t := setGateOp { t with nextId := s.nextId + 1 } s.nextId g
  match gateAt t g.part g.handle with
  | some a => injectGate t s.nextId g a
  | none => t

/-- An operation that its home admits without a check left: it is on its way to object a in the issuer's package, which
is open, well formed and readable, its partition's entry has the right and no rate, the waiting table has room, none waits
there for a token, and none that met MIGRATING before it is still to come (R403, R404, R406). -/
def GateOpen (s : State) (I : Issuer) (g : GateOp) (a : Nat) : Prop :=
  Tab.find s.gates s.subject.idx = some g ∧ g.state = .sent ∧ g.stamp = 0 ∧ g.replay = false ∧ issuerOf s g.unit 0 = some I ∧
  gateAt s g.part g.handle = some a ∧ gateHome a = I.blk.pkg ∧ gateBadUnit s a = none ∧ (gateOf s a).formed g.handle = true ∧
  (gateOf s a).state = 0 ∧
  (∃ e, (gateOf s a).entryOf g.part = some e ∧ bits ((gateOf s a).acl e) 16 4 &&& rightBit g.kind ≠ 0 ∧
    bits ((gateOf s a).acl e) 20 12 = 0) ∧
  (s.gates.filter fun x => x.2.inTable && gateHome x.2.home == gateHome a).length < 1024 ∧
  (heldAtGate s a fun x => x.state == .heldToken) = [] ∧ redirectBefore s g a = false

/-- The operation at object a, numbered in its arrival there. -/
def arrived (s : State) (g : GateOp) (a : Nat) : GateOp :=
  { g with home := a, order := if g.order == 0 then s.nextId else g.order }

/-- After an operation is performed, the gate's other operations are served and its waiters counted. -/
def gateServed (s : State) (t : State) (a : Nat) : State := countWaiters (serveGate t a (s.gates.length + 1)) a

/-- Reading object a's eight bytes at an offset. -/
def gateWord (s : State) (a o : Nat) : Nat := ofLe (Memory.readBytes s.mem (a + o) 8)

/-! ## System registers and scheduling -/

/-- The rules of R202 for a system register and this issuer: it exists, its executor and level may read or write it,
and its register operand has its width. -/
def SysAllowed (I : Issuer) (n r : Nat) (R : SysReg) (write : Bool) : Prop :=
  sysReg n = some R ∧ (if I.fe then R.front else R.quire) = true ∧
  (if write then R.right I.st.level = .rw else R.right I.st.level ≠ .no) ∧
  (I.fe = false → R.width = 64 → r % 2 = 0) ∧ (0x040 ≤ n → n - 0x040 < I.blk.node.acctiles)

/-- A sweep started by the unit from s. -/
def sweepFrom (s : State) (I : Issuer) (part : Nat) (kind : SweepKind) : State :=
  { s with nextId := s.nextId + 1, sweeps := Tab.set s.sweeps s.nextId { part := part, kind := kind, unit := some I.u } }

/-- The TLBINV words with an operand: whether only H may issue them, the operand bits that must be zero, and the sweep
they name; the partition of the last two is a number of the package's layout (R84). -/
def tlbinvOps (s : State) (I : Issuer) (f : YY) : List (Instr × Bool × Nat × (Nat → Nat × SweepKind)) := [
  (.tlbinvPage f, false, 0xFFFF, fun v => (I.blk.part, .page I.blk.ctx (v >>> 16))),
  (.tlbinvGpage f, false, 0xFFFF, fun v => (I.blk.part, .gpage (v >>> 16))),
  (.tlbinvS2 f, true, 0xFFF0000001FFFFE0, fun v => (localPart s I.blk.pkg (v % 32), .s2 (bits v 25 27))),
  (.tlbinvS2all f, true, 0xFFFFFFFFFFFFFFE0, fun v => (localPart s I.blk.pkg (v % 32), .s2all))]

/-- What SPILLA, FILLA need before they access memory (R375). -/
def TileWordReady (s : State) (i : Instr) (I : Issuer) (ra : Nat) : Prop :=
  Issues s i I ∧ I.st.level ≠ .u ∧ I.pairOk ra = true ∧ Full (I.src64 ra) ∧ (I.r64 ra).toNat % 64 = 0 ∧
  (s.coreOf I.blk.core).matQ = []

/-- What SAVEL and LOADL need: an entry of the live map, of the issuer's kind, whose registers nothing owes (R374). -/
def SaveReady (s : State) (i : Instr) (I : Issuer) (f : YY) (s1 : State) (l : List Byte) (e : LiveEnt) : Prop :=
  Issues s i I ∧ I.pairOk f.ra.toNat = true ∧ f.f10.toNat % 256 < I.blk.node.livecount ∧ Full (I.src64 f.ra.toNat) ∧
  ctxReadAt s I.blk.part I.blk.ctx .u (I.blk.node.live.toNat + 32 * (f.f10.toNat % 256)) 32 = (s1, some l) ∧
  parseLive l = some e ∧ (e.kind == 1) = I.fe ∧ e.v >>> min 64 I.baseCount = 0 ∧ (I.r64 f.ra.toNat).toNat % 64 = 0 ∧
  (owedRegs s I).any (e.named.has I) = false

/-! ## Packages and links -/

/-- The package exists. -/
def HasPkg (s : State) (p : Pkg) : Prop := Tab.find s.pkgs s.subject.pkg = some p

/-- A packet on a reliable connection: the port of the subject's die is up, a partition owns it, and it has the queue
pair (05_fabric.md R107). -/
def RoceUp (s : State) (part : Nat) (q : QPair) : Prop :=
  portOwner s s.subject.pkg s.subject.idx = some part ∧
  Tab.find (Tab.get {} (s.pkgOf s.subject.pkg).eth s.subject.idx).qps s.subject.sub = some q ∧
  (Tab.get {} (s.pkgOf s.subject.pkg).eth s.subject.idx).up = true

/-- A request of the subject's number is on its way, in a state, to a place in device memory. -/
def MsgAt (s : State) (m : Msg) (d : Nat) (st : MsgState) : Prop :=
  Tab.find s.msgs s.subject.idx = some m ∧ m.tgt = .dev d ∧ m.state = st

/-- A request of the subject's number is on its way to host memory. -/
def HostMsg (s : State) (m : Msg) (ha : Nat) : Prop := Tab.find s.msgs s.subject.idx = some m ∧ m.tgt = .host ha

/-- The rows of SPDM and what the device answers (17_partitions.md R408). -/
def spdmRows (p : Pkg) : List (Instr × SpdmAnswer) := [
  (.getVersion, .version), (.getCapabilities, .capabilities), (.negotiateAlgorithms, .algorithms), (.getDigests, .digests),
  (.getCertificate, .certificate), (.challenge, .challengeAuth), (.getMeasurements, .measurements (Config.firmwareDigest 0) (Config.firmwareDigest 1) p.measured.1 p.measured.2)]

end Sys2Proof.Safety
end

