-- ==== Sys2Proof/Certificates/Slice0/Obligations.lean ====
section
/-! DEFINITION. The statements about the machine, for the provers. -/



section

open Sys2Proof Sys2Proof.Machine Sys2Proof.Safety

/-! ## The step and the encodings -/

/-- Decoding the word of a well-formed instruction, in the class the encoder gives it, is that instruction: no bit of an
encoding is dropped, for any operand value (02_instruction_words.md R32, R35 to R43). -/
def Obligations.DecodeEncode : Prop :=
  ∀ (i : Instr) (c : Cls) (w : Word), i.wellFormed = true → encode i = some (c, w) → decode c w = .instr i

/-- A word that decodes carries its own bits: encoding what a word of a class decodes to gives the class and the word. -/
def Obligations.EncodeDecode : Prop :=
  ∀ (i : Instr) (c : Cls) (w : Word), decode c w = .instr i → i.wellFormed = true ∧ encode i = some (c, w)

/-- Example words of the spec, each read as the instruction its rule gives (R41, R42, R39, R43, R343, R321, R331). -/
def Obligations.DecodeExampleWords : Prop :=
  decode .eng 0x009214C7#32 = .instr (.cpy { q := 9, ra := 4, rb := 5, rc := 6, rd := 7 }) ∧
  decode .eng 0x100214C7#32 = .instr (.hgsend { q := 0, ra := 4, rb := 5, rc := 6, rd := 7 }) ∧
  decode .ctl 0x09020000#32 = .instr (.bar { scope := 1 }) ∧
  decode .front 0x500000C3#32 = .instr (.tmset { f9 := 0, xb := 0, xa := 6, xd := 3 }) ∧
  decode .sys 0x05000086#32 = .instr (.pgmap { f10 := 0, a := 0, ra := 4, rd := 6 }) ∧
  decode .mat 0x04300000#32 = .instr (.mzero { ad := 3, ta := 0, tb := 0, sel := 0, vs := 0 }) ∧
  decode .mat 0x02345294#32 = .instr (.mmas8 { ad := 3, ta := 4, tb := 5, sel := 5, vs := 20 })

/-- A step whose next move is a word runs the instruction that the word at pc decodes to: exec of it, in the state in
which the unit has fetched, stands last in its port's order of issue and is the subject; the only thing added is the pair
lock's stall counter, which returns to 0 when the word has not stalled in place (02_instruction_words.md R30,
09_registers.md R201), and that a step with a device access that could not be made does not take place (the model's choice
of log 110). The unit has a word left, waits for nothing, its port issues no other candidate's clause (01_machine.md
R26) and no WAITJ of its quire has outlived its timeout. A word that no row of its class reads, or whose fields break its
row, takes ILLEGAL_OP with the word in TRAPINFO, and has no other effect (R32; 16_traps.md R362). A step whose next move is
another agent's row runs that row about its subject. -/
def Obligations.StepRunsDecodedWord : Prop :=
  (∀ (s s' : State) (u : UnitId) (rest : List Move) (I : Issuer) (w : Word),
    s.agenda = .word u :: rest →
    issuerOf { s with agenda := rest } u 0 = some I → I.st.left ≠ 0 → I.st.wait = .none → I.st.stop = .run →
    (s.pkgOf I.blk.pkg).stopped = false → portElsewhere { s with agenda := rest } I = false →
    expiryDue { s with agenda := rest } u = false → I.st.pend = [] →
    fetchWord { s with agenda := rest } I I.st.pc.toNat = .ok s' w →
    (∀ (i : Instr) (t : State), decode I.st.cls w = .instr i → exec i (aim (takePort s' I) u) = .next t →
      step s = .next (settled { s with agenda := rest } (afterIssue (aim (takePort s' I) u) t u))) ∧
    (∀ e : DecodeErr, decode I.st.cls w = .reject e →
      step s = .next (settled { s with agenda := rest }
        (takeTrap { s with agenda := rest } u { cause := .illegalOp, info := w.setWidth 64 })))) ∧
  (∀ (s : State) (i : Instr) (sub : Subject) (rest : List Move),
    s.agenda = .event i sub :: rest → encode i = none →
    (∀ t, exec i { s with agenda := rest, subject := sub } = .next t → step s = .next (settled { s with agenda := rest } t)) ∧
    (∀ r, exec i { s with agenda := rest, subject := sub } = .refused r → step s = .refused r)) ∧
  (∀ s t : State, (t.barred = s.barred → settled s t = t) ∧
    (t.barred ≠ s.barred → ∃ ps, settled s t = { s with pkgs := ps }))

/-! ## VEC: integer, immediate, move and lane instructions -/

/-- IADD, ISUB, IMUL, IMULH, UMULH, IMAD, IABS, INEG, IMIN, IMAX, UMIN, UMAX, AND, OR, XOR, ANDN, MOV, FABS and FNEG: with
permitted registers, full sources and a destination that nothing owes, the word completes, and each lane of the slot's mask
of vd holds the operation on va, the second operand and vd (R260, R265, R272). -/
def Obligations.WordOpsComplete : Prop :=
  ∀ (f : VV) (s : State) (I : Issuer) (i : Instr) (h : Shape) (g : Word → Word → Word → Word), (i, h, g) ∈ wordOps f →
    QuireIssues s i I → h.ok I f = true → Full (h.srcs I f) → Free [I.srcV f.vd.toNat] →
    Completes i s I (writeV s I f.vd.toNat I.mask fun l =>
      g ((I.vreg f.va.toNat).at l) (BitVec.ofNat 32 ((opndB f.m f.vb).val I false l)) ((I.vreg f.vd.toNat).at l))

/-- SHL, SHR, SAR, CLZ, POPC, BREV, BFX, BFXU, BFI, IDIV, UDIV, IREM, UREM and FCLASS: with permitted registers, full sources
and a destination that nothing owes, the word completes, for every operand value, and each lane of the slot's mask of vd
holds the result that its rule gives. A shift takes its amount from bits [7:0] of vb, or of the s register with m = 1, and
by 32 or more leaves zeros, SAR the sign. The field of BFX, BFXU and BFI starts at bits [4:0] of that control value, and is
min(bits [13:8], 32 − start) long; with length 0 the result is 0, of BFI vd. Division truncates toward zero; the remainder has
the dividend's sign; division by zero and the signed overflow give their values and do not trap. FCLASS gives the one-hot
class of va's raw bits (R260 to R262, R275). -/
def Obligations.BitAndDivisionOpsComplete : Prop :=
  ∀ (f : VV) (s : State) (I : Issuer) (i : Instr) (h : Shape) (P : Word → Word → Word → Word → Prop), (i, h, P) ∈ laneOps f →
    QuireIssues s i I → h.ok I f = true → Full (h.srcs I f) → Free [I.srcV f.vd.toNat] →
    ∃ r : Nat → Word, Completes i s I (writeV s I f.vd.toNat I.mask r) ∧
      ∀ l, P ((I.vreg f.va.toNat).at l) (BitVec.ofNat 32 ((opndB f.m f.vb).val I false l)) ((I.vreg f.vd.toNat).at l) (r l)

/-- IADDI, ANDI, ORI, XORI, SHLI, SHRI and SARI, at opcodes 0x20 to 0x26 in F.VI, complete: each lane of the mask holds the
operation of the register counterpart on va and the sign-extended immediate. A shift immediate outside 0 to 31 is rejected
in the decoder, whose rejections are ILLEGAL_OP (R263). -/
def Obligations.ImmediateOpsComplete : Prop :=
  (∀ (f : VI) (s : State) (I : Issuer) (i : Instr) (g : Word → Word → Word), (i, g) ∈ immOps f →
    QuireIssues s i I → I.vOk f.va.toNat 1 = true → I.vOk f.vd.toNat 1 = true →
    Full [I.srcV f.va.toNat (f.ea == 1)] → Free [I.srcV f.vd.toNat] →
    Completes i s I (writeV s I f.vd.toNat I.mask fun l => g ((I.vreg f.va.toNat).at l) (f.imm.signExtend 32))) ∧
  (∀ f : VI, OpcodesFrom ((immOps f).map (·.1)) .vec 0x20 (f.imm ++ f.ea ++ f.va ++ f.vd)) ∧
  (∀ (f : VI) (o : BitVec 8), o = 0x24 ∨ o = 0x25 ∨ o = 0x26 → 31 < f.imm.toNat →
    decode .vec (o ++ (f.imm ++ f.ea ++ f.va ++ f.vd)) = .reject (.badField o.toNat))

/-- MOVI, MOVHI, SEL, LANEID, S2V and its sibling form S2V.SIB complete: MOVI gives the zero-extended immediate, MOVHI
replaces the high half, SEL copies va where the predicate is set and keeps vd elsewhere, LANEID gives the logical
thread of the lane, S2V the s register, S2V.SIB in ternion mode s[r + j] in sibling j. MOVI and MOVHI are at 0x27 and 0x28
in F.VM with [7] equal to 0, LANEID at 0x37 with every field but vd equal to 0 (R264, R265, R267, R268). -/
def Obligations.MovesComplete : Prop :=
  (∀ (f : VM) (s : State) (I : Issuer), QuireIssues s (.movi f) I → I.vOk f.vd.toNat 1 = true → Free [I.srcV f.vd.toNat] →
    Completes (.movi f) s I (writeV s I f.vd.toNat I.mask fun _ => f.imm.setWidth 32)) ∧
  (∀ (f : VM) (s : State) (I : Issuer), QuireIssues s (.movhi f) I → I.vOk f.vd.toNat 1 = true → Full [I.srcV f.vd.toNat] →
    Completes (.movhi f) s I (writeV s I f.vd.toNat I.mask fun l => f.imm ++ ((I.vreg f.vd.toNat).at l).extractLsb' 0 16)) ∧
  (∀ (f : VK) (s : State) (I : Issuer), QuireIssues s (.sel f) I → I.vOk f.va.toNat 1 = true → I.vOk f.vd.toNat 1 = true →
    Full [I.srcV f.va.toNat (f.ea == 1), I.srcK f.k.toNat, I.srcV f.vd.toNat] →
    Completes (.sel f) s I (writeV s I f.vd.toNat (I.mask &&& (I.kreg f.k.toNat).val) fun l => (I.vreg f.va.toNat).at l)) ∧
  (∀ (f : VV) (s : State) (I : Issuer), QuireIssues s (.laneid f) I → I.vOk f.vd.toNat 1 = true → Free [I.srcV f.vd.toNat] →
    Completes (.laneid f) s I (writeV s I f.vd.toNat I.mask fun l => BitVec.ofNat 32 (if I.ter then l / 3 else l))) ∧
  (∀ (f : VV) (s : State) (I : Issuer), QuireIssues s (.s2v f) I → I.vOk f.vd.toNat 1 = true →
    Full [I.srcS (f.vb.toNat % 32)] → Free [I.srcV f.vd.toNat] →
    Completes (.s2v f) s I (writeV s I f.vd.toNat I.mask fun _ => (I.sreg (f.vb.toNat % 32)).val)) ∧
  (∀ (f : VV) (s : State) (I : Issuer), QuireIssues s (.s2vSib f) I → I.ter = true → f.vb.toNat % 32 ≤ 29 →
    I.vOk f.vd.toNat 1 = true →
    Full [I.srcS (f.vb.toNat % 32), I.srcS (f.vb.toNat % 32 + 1), I.srcS (f.vb.toNat % 32 + 2)] → Free [I.srcV f.vd.toNat] →
    Completes (.s2vSib f) s I (writeV s I f.vd.toNat I.mask fun l => (I.sreg (f.vb.toNat % 32 + l % 3)).val)) ∧
  (∀ f : VM, OpcodesFrom [.movi f, .movhi f] .vec 0x27 (f.imm ++ 0#1 ++ f.vd)) ∧
  (∀ f : VV, OpcodesFrom [.laneid f] .vec 0x37 (f.m ++ f.eb ++ f.vb ++ f.ea ++ f.va ++ f.vd) ∧
    ((Instr.laneid f).wellFormed = true ↔ f = { m := 0, eb := 0, vb := 0, ea := 0, va := 0, vd := f.vd }))

/-- SHFL, SHFLUP, SHFLDN, SHFLX and BCAST complete where the siblings of every thread whose δ is read (the threads of the
mask, of BCAST its lowest) have a majority:
thread i takes va of thread δ, i − δ, i + δ, i XOR δ, or of δ of the lowest thread of the mask, sibling from sibling; a
source outside the quire's threads gives the lane its own value; the source need not lie in the mask (R266, R267). V2S completes where the lowest thread's siblings have a majority: sd holds that thread's value (R268). -/
def Obligations.ShufflesComplete : Prop :=
  (∀ (f : VV) (s : State) (I : Issuer) (i : Instr) (need : List Nat) (src : Nat → Int),
     (i, need, src) ∈ [(Instr.shfl f, I.threads, fun t => ((delta I f t : Nat) : Int)),
                 (Instr.shflup f, I.threads, fun t => (t : Int) - toSigned 32 (delta I f t)),
                 (Instr.shfldn f, I.threads, fun t => (t : Int) + toSigned 32 (delta I f t)),
                 (Instr.shflx f, I.threads, fun t => ((t ^^^ delta I f t : Nat) : Int)),
                 (Instr.bcast f, [I.threads.headD 0], fun _ => ((delta I f (I.threads.headD 0) : Nat) : Int))] →
     QuireIssues s i I → binary.ok I f = true → Full (binary.srcs I f) → Free [I.srcV f.vd.toNat] →
     (f.m = 1 ∨ ∀ t ∈ need, (majority I.ter t fun l => I.vval false f.vb.toNat l).isSome = true) →
     Completes i s I (writeV s I f.vd.toNat I.mask fun l =>
       let t := src (if I.ter then l / 3 else l)
       (I.vreg f.va.toNat).at (if 0 ≤ t ∧ t < (I.w : Int) then (if I.ter then 3 * t.toNat + l % 3 else t.toNat) else l))) ∧
  (∀ (f : VV) (s : State) (I : Issuer) (v : Nat),
     QuireIssues s (.v2s f) I → I.vOk f.va.toNat 1 = true → Full [I.srcV f.va.toNat (f.ea == 1)] →
     Free [I.srcS (f.vd.toNat % 32)] →
     majority I.ter (I.threads.headD 0) (fun l => I.vval false f.va.toNat l) = some v →
     Completes (.v2s f) s I (writeS s I (f.vd.toNat % 32) (BitVec.ofNat 32 v)))

/-! ## VEC: predicates and uniform registers -/

/-- KAND, KOR, KXOR, KNOT and KMOV complete on whole 96-bit predicates, with k0 read as all-ones. KPOP counts the logical
threads set in ka AND kb; KANY tells whether there is one, KALL whether every thread set in kb is set in ka; KFIRST gives
the lowest alone in kd and its number in sd, or zero and all-ones where there is none. With kd = 0 the words that write a
predicate are ILLEGAL_OPERAND. The opcodes are 0xA0 to 0xA8 in F.K, and a field that a word does not use must be 0
(R283, R284). -/
def Obligations.PredicateOpsComplete : Prop :=
  (∀ (f : KF) (s : State) (I : Issuer) (i : Instr) (g : Mask → Mask → Mask), (i, g) ∈ predOps f →
     QuireIssues s i I → f.kd ≠ 0 → Full [I.srcK f.ka.toNat, I.srcK f.kb.toNat] → Free [I.srcK f.kd.toNat] →
     Completes i s I (writeK s I f.kd.toNat (g (I.kreg f.ka.toNat).val (I.kreg f.kb.toNat).val))) ∧
  ((∀ (f : KF) (s : State) (I : Issuer), QuireIssues s (.kpop f) I → Full [I.srcK f.ka.toNat, I.srcK f.kb.toNat] →
     Free [I.srcS f.sd.toNat] →
     Completes (.kpop f) s I (writeS s I f.sd.toNat
       (BitVec.ofNat 32 (threadsOf I.ter ((I.kreg f.ka.toNat).val &&& (I.kreg f.kb.toNat).val)).length))) ∧
   (∀ (f : KF) (s : State) (I : Issuer), QuireIssues s (.kany f) I → Full [I.srcK f.ka.toNat, I.srcK f.kb.toNat] →
     Free [I.srcC (f.sd.toNat % 8)] →
     Completes (.kany f) s I (writeC s I (f.sd.toNat % 8)
       (decide (threadsOf I.ter ((I.kreg f.ka.toNat).val &&& (I.kreg f.kb.toNat).val) ≠ [])))) ∧
   (∀ (f : KF) (s : State) (I : Issuer), QuireIssues s (.kall f) I → Full [I.srcK f.ka.toNat, I.srcK f.kb.toNat] →
     Free [I.srcC (f.sd.toNat % 8)] →
     Completes (.kall f) s I (writeC s I (f.sd.toNat % 8)
       (decide (∀ t ∈ threadsOf I.ter (I.kreg f.kb.toNat).val, t ∈ threadsOf I.ter (I.kreg f.ka.toNat).val)))) ∧
   (∀ (f : KF) (s : State) (I : Issuer) (t : Nat) (r : List Nat), QuireIssues s (.kfirst f) I → f.kd ≠ 0 →
     Full [I.srcK f.ka.toNat, I.srcK f.kb.toNat] → Free [I.srcK f.kd.toNat, I.srcS f.sd.toNat] →
     threadsOf I.ter ((I.kreg f.ka.toNat).val &&& (I.kreg f.kb.toNat).val) = t :: r →
     Completes (.kfirst f) s I (writeS (writeK s I f.kd.toNat (maskOfThreads I.ter [t])) I f.sd.toNat (BitVec.ofNat 32 t))) ∧
   (∀ (f : KF) (s : State) (I : Issuer), QuireIssues s (.kfirst f) I → f.kd ≠ 0 →
     Full [I.srcK f.ka.toNat, I.srcK f.kb.toNat] → Free [I.srcK f.kd.toNat, I.srcS f.sd.toNat] →
     threadsOf I.ter ((I.kreg f.ka.toNat).val &&& (I.kreg f.kb.toNat).val) = [] →
     Completes (.kfirst f) s I (writeS (writeK s I f.kd.toNat 0) I f.sd.toNat (BitVec.allOnes 32)))) ∧
  (∀ (f : KF) (s : State) (I : Issuer) (i : Instr), i ∈ Instr.kfirst f :: (predOps f).map (·.1) → QuireIssues s i I → f.kd = 0 →
     Traps i s (wordTrap .illegalOperand i)) ∧
  (∀ f : KF, OpcodesFrom ((predOps f).map (·.1) ++ [.kpop f, .kany f, .kall f, .kfirst f]) .vec 0xA0
      (f.ka ++ f.kb ++ f.kd ++ 0#7 ++ f.sd) ∧
    (∀ i ∈ [Instr.kand f, .kor f, .kxor f], i.wellFormed = true ↔ f.sd = 0) ∧
    (∀ i ∈ [Instr.knot f, .kmov f], i.wellFormed = true ↔ f.kb = 0 ∧ f.sd = 0) ∧
    ((Instr.kpop f).wellFormed = true ↔ f.kd = 0) ∧
    (∀ i ∈ [Instr.kany f, .kall f], i.wellFormed = true ↔ f.kd = 0 ∧ f.sd.toNat < 8))

/-- SADD, SSUB, SMUL, SAND, SOR, SXOR, SSHL, SSHR, SMOV, SMOVI and SCMP complete: the result stands in sd, or the
signed relation of sa and sb (conditions 6 to 9 unsigned) in cd (R285, R45). -/
def Obligations.UniformOpsComplete : Prop :=
  (∀ (f : SF) (s : State) (I : Issuer) (i : Instr) (g : Word → Word → Word), (i, g) ∈ uniformOps f →
    QuireIssues s i I → Full [I.srcS f.sa.toNat, I.srcS f.sb.toNat] → Free [I.srcS f.sd.toNat] →
    Completes i s I (writeS s I f.sd.toNat (g (I.sreg f.sa.toNat).val (I.sreg f.sb.toNat).val))) ∧
  (∀ (f : SF) (s : State) (I : Issuer), QuireIssues s (.smov f) I → Full [I.srcS f.sa.toNat] → Free [I.srcS f.sd.toNat] →
    Completes (.smov f) s I (writeS s I f.sd.toNat (I.sreg f.sa.toNat).val)) ∧
  (∀ (f : SI) (s : State) (I : Issuer), QuireIssues s (.smovi f) I → Free [I.srcS f.sd.toNat] →
    Completes (.smovi f) s I (writeS s I f.sd.toNat (f.imm.setWidth 32))) ∧
  (∀ (f : SF) (s : State) (I : Issuer), QuireIssues s (.scmp f) I → Full [I.srcS f.sa.toNat, I.srcS f.sb.toNat] →
    Free [I.srcC (f.sd.toNat % 8)] →
    Completes (.scmp f) s I (writeC s I (f.sd.toNat % 8)
      (condInt f.cond.toNat true 32 (I.sreg f.sa.toNat).val.toNat (I.sreg f.sb.toNat).val.toNat)))

/-! ## VEC: compares, floating point, conversions, reductions, ternion -/

/-- ICMP, UCMP, FCMP and DCMP complete: for every thread of the slot's mask, kd holds the relation of its lanes, in
ternion mode the majority of its three siblings' relations; bits outside the mask are kept; flushed FP inputs are
counted; threads whose siblings disagree meet INSTAB_COMPARE, which is counted, or after the word has completed trapped,
with the lower digit count of an FP compare's operands for its lowest thread (R269, R241, R238, R239). The integer conditions
of R45: EQ, NE, and LT, LE, GT, GE on the signed or unsigned values as the instruction compares, LTU, LEU, GTU, GEU on the
unsigned ones; the FP conditions: the order of the values, in which both zeros are equal, with a NaN NE and UN alone. -/
def Obligations.ComparesComplete : Prop :=
  (∀ (f : VC) (s : State) (I : Issuer) (i : Instr) (wide : Bool) (rel : Nat → Bool) (fl : Nat → Bool × Bool) (dg : Nat → Nat),
     (i, wide, rel, fl, dg) ∈ [
       (Instr.icmp f, false, (fun l => condInt f.cond.toNat true 32 (I.vval false f.va.toNat l) ((opndB f.m f.vb).val I false l)),
         (fun _ => (false, false)), fun _ => 0),
       (Instr.ucmp f, false, (fun l => condInt f.cond.toNat false 32 (I.vval false f.va.toNat l) ((opndB f.m f.vb).val I false l)),
         (fun _ => (false, false)), fun _ => 0),
       (Instr.fcmp f, false, (fun l => condFp f.cond.toNat (flushIn fp32 I.ftz (I.vval false f.va.toNat l)).1
           (flushIn fp32 I.ftz ((opndB f.m f.vb).val I false l)).1),
         (fun l => ((flushIn fp32 I.ftz (I.vval false f.va.toNat l)).2, (flushIn fp32 I.ftz ((opndB f.m f.vb).val I false l)).2)),
         fun t => min (I.digits fp32 false f.va.toNat t) ((opndB f.m f.vb).digits I fp32 false t)),
       (Instr.dcmp f, true, (fun l => condFp f.cond.toNat (flushIn fp64 I.ftz (I.vval true f.va.toNat l)).1
           (flushIn fp64 I.ftz ((opndB f.m f.vb).val I true l)).1),
         (fun l => ((flushIn fp64 I.ftz (I.vval true f.va.toNat l)).2, (flushIn fp64 I.ftz ((opndB f.m f.vb).val I true l)).2)),
         fun t => min (I.digits fp64 true f.va.toNat t) ((opndB f.m f.vb).digits I fp64 true t))] →
     QuireIssues s i I → f.kd ≠ 0 → I.vWide wide f.va.toNat = true → (opndB f.m f.vb).ok I wide = true →
     Full (I.srcV2 wide f.va.toNat (f.e == 1) ++ (opndB f.m f.vb).srcs I wide (f.e == 1)) → Free [I.srcK f.kd.toNat] →
     let rels := fun t => (lanesOf I.ter t).map rel
     let res := fun t => decide ((rels t).length < 2 * ((rels t).filter id).length)
     let flushed := (I.threads.filter fun t => (lanesOf I.ter t).any fun l => (fl l).1).length +
       (I.threads.filter fun t => (lanesOf I.ter t).any fun l => (fl l).2).length
     let met := I.threads.filter fun t => (rels t).any id && !(rels t).all id
     let t := addStat (writeK s I f.kd.toNat (((I.kreg f.kd.toNat).val &&& ~~~I.mask) ||| maskOfThreads I.ter (I.threads.filter res)))
       I.b I.tensor 1 flushed
     (NoInstabTrap I 1 met → Completes i s I (counted t I 1 met)) ∧
     (¬ NoInstabTrap I 1 met → TrapsInstab i s I t 1 met (dg (met.headD 0)))) ∧
  (∀ (sg : Bool) (a b : Word),
     let v := fun x : Word => if sg then x.toInt else (x.toNat : Int)
     condInt 0 sg 32 a.toNat b.toNat = decide (a = b) ∧ condInt 1 sg 32 a.toNat b.toNat = decide (a ≠ b) ∧
     condInt 2 sg 32 a.toNat b.toNat = decide (v a < v b) ∧ condInt 3 sg 32 a.toNat b.toNat = decide (v a ≤ v b) ∧
     condInt 4 sg 32 a.toNat b.toNat = decide (v b < v a) ∧ condInt 5 sg 32 a.toNat b.toNat = decide (v b ≤ v a) ∧
     condInt 6 sg 32 a.toNat b.toNat = decide (a.toNat < b.toNat) ∧ condInt 7 sg 32 a.toNat b.toNat = decide (a.toNat ≤ b.toNat) ∧
     condInt 8 sg 32 a.toNat b.toNat = decide (b.toNat < a.toNat) ∧ condInt 9 sg 32 a.toNat b.toNat = decide (b.toNat ≤ a.toNat)) ∧
  (∀ F ∈ [fp32, fp64], ∀ a b : Nat,
     let x := unpack F a
     let y := unpack F b
     let un := x.isNan = true ∨ y.isNan = true
     (condFp 0 x y = true ↔ ¬ un ∧ ¬ fpLess x y ∧ ¬ fpLess y x) ∧ (condFp 1 x y = true ↔ un ∨ fpLess x y ∨ fpLess y x) ∧
     (condFp 2 x y = true ↔ ¬ un ∧ fpLess x y) ∧ (condFp 3 x y = true ↔ ¬ un ∧ ¬ fpLess y x) ∧
     (condFp 4 x y = true ↔ ¬ un ∧ fpLess y x) ∧ (condFp 5 x y = true ↔ ¬ un ∧ ¬ fpLess x y) ∧
     (condFp 10 x y = true ↔ un) ∧ (condFp 11 x y = true ↔ ¬ un))

/-- FADD, FSUB, FMUL, FFMA, FDIV, FSQRT, FRCP, FRSQ, FEXP2, FLOG2, FTANH, DADD, DSUB, DMUL, DFMA, DDIV and DSQRT
complete: each lane of the mask holds the exact result of its operands, flushed where FTZ is set, rounded once by the
lane's rounding 0; the events are counted for the tensor; the instability condition that the threads meet is counted, or
trapped after the word has completed (R270, R273, R214, R230, R238, R239). FMIN, FMAX, DMIN and DMAX complete: no rounding; each lane of the mask holds the lesser or greater of its operands
after FTZ, with the events counted (R272). -/
def Obligations.RoundedAndMinMaxComplete : Prop :=
  (∀ (f : VV) (s : State) (I : Issuer) (i : Instr) (h : Shape) (F : Fmt) (w : Watch) (op : List FV → Exact),
     (i, h, F, w, op) ∈ roundedOps f →
     QuireIssues s i I → h.ok I f = true → Full (h.srcs I f) → Free (I.srcV2 h.wide f.vd.toNat) →
     let r := I.results fun l => fpLane F I.ftz (I.laneRound l 0) (h.vals I f l) op
     let t := countEvents (writeLanes s I h.wide f.vd.toNat I.mask fun l => (Tab.get {} r l).out) I r
     let m := watchMet w h F I f r
     (NoInstabTrap I (watchNum w) m.1 → Completes i s I (counted t I (watchNum w) m.1)) ∧
     (¬ NoInstabTrap I (watchNum w) m.1 → TrapsInstab i s I t (watchNum w) m.1 m.2)) ∧
  (∀ (f : VV) (s : State) (I : Issuer) (i : Instr) (wide : Bool) (F : Fmt) (mx : Bool), (i, wide, F, mx) ∈ minMaxOps f →
     QuireIssues s i I → ({ wide := wide } : Shape).ok I f = true → Full (({ wide := wide } : Shape).srcs I f) →
     Free (I.srcV2 wide f.vd.toNat) →
     let r := I.results fun l =>
       let a := flushBits F I.ftz (I.vval wide f.va.toNat l)
       let b := flushBits F I.ftz ((opndB f.m f.vb).val I wide l)
       let o := minMaxBits F mx a.1 b.1
       { out := o, flush := a.2 || b.2, nonfin := (unpack F o).isNan || (unpack F o).isInf }
     Completes i s I (countEvents (writeLanes s I wide f.vd.toNat I.mask fun l => (Tab.get {} r l).out) I r))

/-- FRND, CVT, PACK2 and UNPACK2 complete with defined format pairs and permitted registers: each lane holds the rounded
or converted value; PACK2 puts the two conversions side by side, the first with rounding 0 and the second with rounding
1; UNPACK2 writes the two elements to a pair, element k rounded with rounding k, where its result is inexact (the model's
choice of log 24); an infinity to an integer counts as a saturation, and FTZ on SC8, as log 23 says; SAT counts for an integer source only (R275 to R278, R223). -/
def Obligations.ConversionsComplete : Prop :=
  (∀ (f : VV) (s : State) (I : Issuer), QuireIssues s (.frnd f) I → fpUnary.ok I f = true → Full (fpUnary.srcs I f) →
    Free [I.srcV f.vd.toNat] →
    let r := I.results fun l =>
      let w := flushBits fp32 I.ftz (I.vval false f.va.toNat l)
      { out := fvRnd fp32 (I.laneRound l 0) (unpack fp32 w.1) w.1, flush := w.2
        nonfin := (unpack fp32 w.1).isNan || (unpack fp32 w.1).isInf }
    Completes (.frnd f) s I (countEvents (writeLanes s I false f.vd.toNat I.mask fun l => (Tab.get {} r l).out) I r)) ∧
  (∀ (f : VT) (s : State) (I : Issuer), QuireIssues s (.cvt f) I → convDefined f.dst.toNat f.src.toNat = true →
    I.vWide (codeWide f.src.toNat) f.va.toNat = true → I.vWide (codeWide f.dst.toNat) f.vd.toNat = true →
    Full (I.srcV2 (codeWide f.src.toNat) f.va.toNat (f.ea == 1)) → Free (I.srcV2 (codeWide f.dst.toNat) f.vd.toNat) →
    let r := I.results fun l => convLane f.dst.toNat f.src.toNat (f.sat == 1) I.ftz (I.laneRound l 0)
      (I.vval (codeWide f.src.toNat) f.va.toNat l)
    Completes (.cvt f) s I
      (countEvents (writeLanes s I (codeWide f.dst.toNat) f.vd.toNat I.mask fun l => (Tab.get {} r l).out) I r)) ∧
  (∀ (f : VT) (s : State) (I : Issuer), QuireIssues s (.pack2 f) I → packable f.src f.dst = true →
    I.vWide true f.va.toNat = true → I.vOk f.vd.toNat 1 = true →
    Full (I.srcV2 true f.va.toNat (f.ea == 1)) → Free [I.srcV f.vd.toNat] →
    let n := packWidth f.dst.toNat
    let half := fun k => I.results fun l => convLane f.dst.toNat f.src.toNat (f.sat == 1) I.ftz (I.laneRound l k)
      (I.vval false (f.va.toNat + k) l)
    Completes (.pack2 f) s I (countEvents (countEvents (writeLanes s I false f.vd.toNat I.mask fun l =>
      (Tab.get {} (half 0) l).out % 2 ^ n + (Tab.get {} (half 1) l).out % 2 ^ n * 2 ^ n) I (half 0)) I (half 1))) ∧
  (∀ (f : VT) (s : State) (I : Issuer), QuireIssues s (.unpack2 f) I → packable f.dst f.src = true →
    convDefined f.dst.toNat f.src.toNat = true → I.vOk f.va.toNat 1 = true → I.vWide true f.vd.toNat = true →
    Full [I.srcV f.va.toNat (f.ea == 1)] → Free (I.srcV2 true f.vd.toNat) →
    let n := packWidth f.src.toNat
    let half := fun k => I.results fun l =>
      { (convLane f.dst.toNat f.src.toNat (f.sat == 1 && intCode f.src.toNat) I.ftz (I.laneRound l k)
          (I.vval false f.va.toNat l / 2 ^ (n * k) % 2 ^ n)) with nonfin := false }
    Completes (.unpack2 f) s I
      (countEvents (countEvents
        (writeV (writeV s I f.vd.toNat I.mask fun l => BitVec.ofNat 32 (Tab.get {} (half 0) l).out)
          I (f.vd.toNat + 1) I.mask fun l => BitVec.ofNat 32 (Tab.get {} (half 1) l).out) I (half 0)) I (half 1)))

/-- REDF, REDFMIN, REDFMAX and REDI complete: the terms are the values of the mask's threads that the predicate selects;
each plane of siblings (one plane in single-lane mode) is reduced by itself, and its result stands in sd, sd + 1, sd + 2,
or with 64-bit elements in the pairs from sd (R279 to R281); the flushes counted at a node are the model's choice of log 23,
the count of none for one NaN term that of log 36. SCANI completes: thread t of the selected ones holds the
sum over the selected threads before it, and itself unless exclusive; other lanes are kept (R282). -/
def Obligations.ReductionsComplete : Prop :=
  (∀ (f : VR) (s : State) (I : Issuer) (i : Instr) (plane : Nat → List Nat → PlaneRes),
    (i, plane) ∈ [
      (Instr.redf f, fun j ts => planeFp (redFmt (f.d == 1)) I.ftz 0 (fun a b k => flushOut (redFmt (f.d == 1)) I.ftz
        (fvAdd (unpack (redFmt (f.d == 1)) a) (unpack (redFmt (f.d == 1)) b)) (I.round (I.threads.headD 0) j k)) ts),
      (Instr.redfmin f, fun _ ts => planeFp (redFmt (f.d == 1)) I.ftz ((redFmt (f.d == 1)).inf false)
        (fun a b _ => (minMaxBits (redFmt (f.d == 1)) false a b, false)) ts),
      (Instr.redfmax f, fun _ ts => planeFp (redFmt (f.d == 1)) I.ftz ((redFmt (f.d == 1)).inf true)
        (fun a b _ => (minMaxBits (redFmt (f.d == 1)) true a b, false)) ts),
      (Instr.redi f, fun _ ts => { out := ts.foldl (· + ·) 0 % 2 ^ (if f.d == 1 then 64 else 32) })] →
    QuireIssues s i I → I.vWide (f.d == 1) f.va.toNat = true → redOk I (f.d == 1) f.sd.toNat = true →
    Full (I.srcV2 (f.d == 1) f.va.toNat (f.ea == 1) ++ [I.srcK f.k.toNat]) → Free (redDsts I (f.d == 1) f.sd.toNat) →
    let ts := threadsOf I.ter (I.mask &&& (I.kreg f.k.toNat).val)
    let rs := (planesOf I).map fun j =>
      (j, plane j (ts.map fun t => I.vval (f.d == 1) f.va.toNat (if I.ter then 3 * t + j else t)))
    let w := rs.foldl (fun t r => if f.d == 1 then writeS2 t I (f.sd.toNat + 2 * r.1) (BitVec.ofNat 64 r.2.out)
      else writeS t I (f.sd.toNat + r.1) (BitVec.ofNat 32 r.2.out)) s
    let c := addStat (addStat w I.b I.tensor 1 (rs.foldl (fun n r => n + r.2.flushes) 0)) I.b I.tensor 2
      (rs.filter (·.2.newNan)).length
    Completes i s I (if rs.any (·.2.nonfin) then setOvf c I.b (1#32 <<< (I.tensor % 32)) else c)) ∧
  (∀ (f : VK) (s : State) (I : Issuer), QuireIssues s (.scani f) I → I.vOk f.va.toNat 1 = true → I.vOk f.vd.toNat 1 = true →
    Full [I.srcV f.va.toNat (f.ea == 1), I.srcK f.k.toNat] → Free [I.srcV f.vd.toNat] →
    let m := I.mask &&& (I.kreg f.k.toNat).val
    let lane := fun (t l : Nat) => if I.ter then 3 * t + l % 3 else t
    Completes (.scani f) s I (writeV s I f.vd.toNat m fun l =>
      (((threadsOf I.ter m).filter fun t => decide (t < (if I.ter then l / 3 else l)) ||
          (f.x != 1 && t == (if I.ter then l / 3 else l))).map fun t => (I.vreg f.va.toNat).at (lane t l)).foldl (· + ·) 0))

/-- DIG, TMEAN, TSPREAD, SIBSEL and TCHK complete: a thread's value is made of its three siblings (a single lane counts
three times); DIG gives their common digits, TMEAN their mean, TSPREAD siblings spread to a digit count, SIBSEL one
sibling, TCHK the digits, whether none is left, whether too few are left and whether the signs differ (R243 to R248). -/
def Obligations.TernionOpsComplete : Prop :=
  (∀ (f : VV) (s : State) (I : Issuer) (i : Instr) (pair : Bool) (res : Nat → LaneRes),
    (i, pair, res) ∈ [
      (Instr.dig f, false, fun l =>
        let x := sibs I (f.eb == 1) f.va.toNat l
        { out := digCount (terFmt f) x.1 x.2.1 x.2.2 }),
      (Instr.tmean f, true, fun l =>
        let x := sibs I (f.eb == 1) f.va.toNat l
        let v := unpack (terFmt f) (tmean (terFmt f) x.1 x.2.1 x.2.2)
        { out := tmean (terFmt f) x.1 x.2.1 x.2.2
          nan := v.isNan && !((unpack (terFmt f) x.1).isNan || (unpack (terFmt f) x.2.1).isNan || (unpack (terFmt f) x.2.2).isNan)
          nonfin := v.isNan || v.isInf }),
      (Instr.sibsel f, true, fun l =>
        let x := sibs I (f.eb == 1) f.va.toNat l
        { out := if f.vb.toNat % 4 = 0 then x.1 else if f.vb.toNat % 4 = 1 then x.2.1 else x.2.2 })] →
    QuireIssues s i I → I.vWide (f.eb == 1) f.va.toNat = true → I.vWide ((f.eb == 1) && pair) f.vd.toNat = true →
    Full (I.srcV2 (f.eb == 1) f.va.toNat (f.ea == 1)) → Free (I.srcV2 ((f.eb == 1) && pair) f.vd.toNat) →
    let r := I.results res
    Completes i s I (countEvents (writeLanes s I ((f.eb == 1) && pair) f.vd.toNat I.mask fun l => (Tab.get {} r l).out) I r)) ∧
  (∀ (f : VV) (s : State) (I : Issuer) (i : Instr) (pair : Bool) (res : Nat → Nat → LaneRes),
    (i, pair, res) ∈ [
      (Instr.tspread f, true, fun d l =>
        let y := spread (terFmt f) (sibs I (f.eb == 1) f.va.toNat l).1 d
        let m := if !I.ter || l % 3 == 0 then y.1 else if l % 3 == 1 then y.2.1 else y.2.2
        { out := m, nonfin := (unpack (terFmt f) m).isNan || (unpack (terFmt f) m).isInf }),
      (Instr.tchk f, false, fun need l =>
        let x := sibs I (f.eb == 1) f.va.toNat l
        let d := digCount (terFmt f) x.1 x.2.1 x.2.2
        let sg := signClass (terFmt f)
        { out := d + (if d = 0 then 256 else 0) + (if d + bits I.qr.tctl.toNat 8 6 < need then 512 else 0) +
            (if sg x.1 = sg x.2.1 ∧ sg x.1 = sg x.2.2 then 0 else 1024) })] →
    QuireIssues s i I → I.vWide (f.eb == 1) f.va.toNat = true → I.vWide ((f.eb == 1) && pair) f.vd.toNat = true →
    (opndB f.m f.vb).ok I false = true →
    Full (I.srcV2 (f.eb == 1) f.va.toNat (f.ea == 1) ++ (opndB f.m f.vb).srcs I false false) →
    Free (I.srcV2 ((f.eb == 1) && pair) f.vd.toNat) →
    let r := I.results fun l => res (min ((opndB f.m f.vb).val I false (if I.ter then 3 * (l / 3) else l)) (terFmt f).p) l
    Completes i s I (countEvents (writeLanes s I ((f.eb == 1) && pair) f.vd.toNat I.mask fun l => (Tab.get {} r l).out) I r))

/-! ## What a completing word changes, and its frame -/

/-- A word of a quire that writes vector register r in the lanes of m (the state of the completion statements of the
vector instructions): those lanes of r hold the result and its other lanes are kept, r is full without a note; every
other vector register of both sets, and every other pair's extended set, is as before; the slot's pc is four further and its clause one word shorter; ICNT of
the mask's threads has counted one at U; every other field of the quire and of the block, the other slot, every other
quire and block, every byte of memory and every core are as before. -/
def Obligations.VectorWriteFrame : Prop :=
  ∀ (s : State) (i : Instr) (I : Issuer) (r : Nat) (m : Mask) (F : Nat → Word), QuireIssues s i I →
    let t := complete (writeV s I r m F) I
    SameElsewhere s t I.b I.key ∧ SameStores s t ∧
    ∃ B Q, Tab.find t.blocks I.b = some B ∧ Tab.find t.quires I.key = some Q ∧
      SlotsAfter I.qr Q I.sl ∧ (∀ n, n ≠ I.q / 2 → Tab.find B.ext n = Tab.find I.blk.ext n) ∧ (∀ n, Tab.get 0 Q.icnt n = icntAfter I n) ∧
      { Q with v := I.qr.v, s0 := I.qr.s0, s1 := I.qr.s1, icnt := I.qr.icnt } = I.qr ∧ { B with ext := I.blk.ext } = I.blk ∧
      (let J := later I B Q
       (∀ l, l < 96 → (J.vreg r).at l = if m.getLsbD l then F l else (I.vreg r).at l) ∧
       (J.vreg r).full = true ∧ (J.vreg r).note = none ∧ ∀ n, n ≠ r → J.vreg n = I.vreg n)

/-- A word that writes s register r: r holds the value, full and without a note, in the bank of level S for s24 to s31
above U, where the quire's own registers keep their values, and in the quire's registers otherwise, where the bank keeps
its values; every other s register reads as before; the slot advances as any word does; every other field of the quire, the block, every other quire and block, memory and the cores are as before. -/
def Obligations.UniformWriteFrame : Prop :=
  ∀ (s : State) (i : Instr) (I : Issuer) (r : Nat) (v : Word), QuireIssues s i I →
    let t := complete (writeS s I r v) I
    SameElsewhere s t I.b I.key ∧ SameStores s t ∧ Tab.find t.blocks I.b = some I.blk ∧
    ∃ Q, Tab.find t.quires I.key = some Q ∧ SlotAdvanced I.qr Q I.sl ∧ (∀ n, Tab.get 0 Q.icnt n = icntAfter I n) ∧
      { Q with s := I.qr.s, s0 := I.qr.s0, s1 := I.qr.s1, icnt := I.qr.icnt } = I.qr ∧
      (I.sbank r = true → Q.s = I.qr.s ∧ BankKept I.st (Q.slot I.sl).ctl r) ∧ (I.sbank r = false → SlotsAfter I.qr Q I.sl) ∧
      (let J := later I I.blk Q
       J.sreg r = { val := v } ∧ ∀ n, n ≠ r → J.sreg n = I.sreg n)

/-- A word that writes predicate k, or condition bit c of the quire: that register holds the value, full; a write to k0
changes nothing and k0 reads all-ones; the other predicates, condition bits and everything else are as before. -/
def Obligations.PredicateWriteFrame : Prop :=
  (∀ (s : State) (i : Instr) (I : Issuer) (r : Nat) (v : Mask), QuireIssues s i I →
    let t := complete (writeK s I r v) I
    SameElsewhere s t I.b I.key ∧ SameStores s t ∧ Tab.find t.blocks I.b = some I.blk ∧
    ∃ Q, Tab.find t.quires I.key = some Q ∧ SlotsAfter I.qr Q I.sl ∧ (∀ n, Tab.get 0 Q.icnt n = icntAfter I n) ∧
      { Q with k := I.qr.k, s0 := I.qr.s0, s1 := I.qr.s1, icnt := I.qr.icnt } = I.qr ∧
      (let J := later I I.blk Q
       J.kreg 0 = { val := BitVec.allOnes 96 } ∧ (r ≠ 0 → J.kreg r = { val := v }) ∧ ∀ n, n ≠ r → J.kreg n = I.kreg n)) ∧
  (∀ (s : State) (i : Instr) (I : Issuer) (r : Nat) (v : Bool), QuireIssues s i I →
    let t := complete (writeC s I r v) I
    SameElsewhere s t I.b I.key ∧ SameStores s t ∧ Tab.find t.blocks I.b = some I.blk ∧
    ∃ Q, Tab.find t.quires I.key = some Q ∧ SlotsAfter I.qr Q I.sl ∧ (∀ n, Tab.get 0 Q.icnt n = icntAfter I n) ∧
      { Q with c := I.qr.c, s0 := I.qr.s0, s1 := I.qr.s1, icnt := I.qr.icnt } = I.qr ∧
      (let J := later I I.blk Q
       J.creg r = { val := v } ∧ ∀ n, n ≠ r → J.creg n = I.creg n))

/-- A word of a front-end context that writes x register r: r holds the value, in the bank of level S for x26 to x30
above U, where the context's own registers keep their values, and otherwise in those, where the bank keeps its values; a write to x0 is discarded and x0 reads zero; every other x register, condition bit and field of the block,
every quire and other block, memory and the cores are as before; pc and the clause advance; a front-end has no ICNT. A word that writes condition bit c of a front-end context: that bit alone changes, beside pc and the clause. -/
def Obligations.FrontWriteFrame : Prop :=
  (∀ (s : State) (i : Instr) (I : Issuer) (r : Nat) (v : DWord), FrontIssues s i I →
     let t := complete (writeX s I r v) I
     { t with blocks := s.blocks } = s ∧ SameStores s t ∧ (∀ n, n ≠ I.b → Tab.find t.blocks n = Tab.find s.blocks n) ∧
     ∃ B, Tab.find t.blocks I.b = some B ∧
       { B with front := { B.front with x := I.blk.front.x, ctl := I.blk.front.ctl } } = I.blk ∧
       { B.front.ctl with bank := I.st.bank } = advanced I.st ∧
       (I.xbank r = true → B.front.x = I.blk.front.x ∧ BankKept I.st B.front.ctl r) ∧
       (I.xbank r = false → B.front.ctl = advanced I.st) ∧ (∀ n, n ≠ r ∨ r = 0 → Tab.find B.front.x n = Tab.find I.blk.front.x n) ∧
       (let J := later I B I.qr
        J.xreg 0 = { val := 0 } ∧ (r ≠ 0 → J.xreg r = { val := v }) ∧ ∀ n, n ≠ r → J.xreg n = I.xreg n)) ∧
  (∀ (s : State) (i : Instr) (I : Issuer) (r : Nat) (v : Bool), FrontIssues s i I →
     let t := complete (writeC s I r v) I
     { t with blocks := s.blocks } = s ∧ SameStores s t ∧ (∀ n, n ≠ I.b → Tab.find t.blocks n = Tab.find s.blocks n) ∧
     ∃ B, Tab.find t.blocks I.b = some B ∧
       { B with front := { B.front with c := I.blk.front.c, ctl := I.blk.front.ctl } } = I.blk ∧
       B.front.ctl = advanced I.st ∧
       (let J := later I B I.qr
        J.creg r = { val := v } ∧ ∀ n, n ≠ r → J.creg n = I.creg n))

/-- Counting the events of a vector result changes the statistics of the issuer's tensor and OVF of its block, and
nothing else: the six counts of other tensors, OVF's other bits, every register, memory and other block are as before;
OVF only gains bits (R230, R326). -/
def Obligations.EventsFrame : Prop :=
  ∀ (s : State) (I : Issuer) (r : Results) (B : Block), Tab.find s.blocks I.b = some B →
    let t := countEvents s I r
    { t with blocks := s.blocks } = s ∧ SameStores s t ∧ (∀ n, n ≠ I.b → Tab.find t.blocks n = Tab.find s.blocks n) ∧
    ∃ C, Tab.find t.blocks I.b = some C ∧ { C with stats := B.stats, ovf := B.ovf } = B ∧
      (∀ n, n ≠ I.tensor → Tab.find C.stats n = Tab.find B.stats n) ∧
      (∀ n, n < 32 → C.ovf.getLsbD n =
        (B.ovf.getLsbD n || (r.any (fun e => e.2.nonfin) && decide (n = I.tensor % 32))))

/-! ## Traps and the return from them -/

/-- Taking a trap whose target is level S or U: the level's trap registers hold TRAPPC = the unit's pc, TRAPCAUSE with
the cause, the level before, the slot, ESC and DETAIL in the fields of R363, TRAPMASK = the faulters' mask, in ternion mode its
whole triples, or the slot's whole mask, of a front-end context 0, and TRAPINFO; the registers they replace and k15 are saved,
k15 takes TRAPMASK; the unit continues at the level's vector at a header, at that level, marked in-handler; an entry from U
finds the bank of level S full; the other slot and the rest of the state are as before, but for the replay journal, which is
told of an uncorrectable error, what the read of the context's record told, and the last-page registers. A cause of level H, or
one escalated to H, writes the copy of level H, leaves the unit's other registers as they were, holds it there, and tells H
the cause and whether it was escalated (R363 to R367). -/
def Obligations.TrapEntry : Prop :=
  (∀ (s : State) (I : Issuer) (w : Word) (t : Trap), issuerOf s I.u w = some I → ¬ (t.cause = .memerr ∧ t.detail = 3) →
    let R := ctxRecord s I.blk.part I.blk.ctx
    let T := trapTarget R.2 I.fe I.st t.cause
    let tm := if I.fe then 0 else growTriples I.qr.ter (t.mask.getD I.mask)
    let regs : TrapRegs := { pc := I.st.pc, cause := trapCauseWord t I.st.level I.sl T.2.2, mask := tm, info := t.info }
    let u := takeTrap s I.u t
    let s' := if t.cause == .memerr then journalErr R.1 I.blk t else R.1
    SameStores s' u ∧
    (I.fe = false → ∃ Q, Tab.find u.quires I.key = some Q ∧ Tab.find u.blocks I.b = some I.blk ∧
      (Q.slot I.sl).mask = I.mask ∧ (if I.sl == 0 then Q.s1 = I.qr.s1 else Q.s0 = I.qr.s0) ∧
      { Q with s0 := I.qr.s0, s1 := I.qr.s1, k := I.qr.k, lastPage := I.qr.lastPage } = I.qr ∧
      (T.1 ≠ .h → SameElsewhere s' u I.b I.key ∧
        EntersAt T regs (Tab.get { val := 0 } I.qr.k 15).val I.st (Q.slot I.sl).ctl ∧
        Tab.find Q.k 15 = some { val := tm } ∧ ∀ n, n ≠ 15 → Tab.find Q.k n = Tab.find I.qr.k n) ∧
      (T.1 = .h → SameElsewhere s' { u with told := s'.told } I.b I.key ∧ u.told = s'.told ++ [.trapAtH I.u t.cause T.2.2] ∧
        Q.slot I.sl = { I.qr.slot I.sl with ctl := heldStrand I.st t regs } ∧ Q.k = I.qr.k)) ∧
    (I.fe = true → ∃ c, Tab.find u.blocks I.b = some { I.blk with front := { I.blk.front with ctl := c } } ∧
      (∀ n, n ≠ I.b → Tab.find u.blocks n = Tab.find s'.blocks n) ∧
      (T.1 ≠ .h → { u with blocks := s'.blocks } = s' ∧ EntersAt T regs 0 I.st c) ∧
      (T.1 = .h → { u with blocks := s'.blocks, told := s'.told } = s' ∧ u.told = s'.told ++ [.trapAtH I.u t.cause T.2.2] ∧
        c = heldStrand I.st t regs))) ∧
  (∀ (t : Trap) (prev : Level) (sl : Nat) (esc : Bool), sl < 2 →
    let c := (trapCauseWord t prev sl esc).toNat
    bits c 0 8 = t.cause.code ∧ bits c 8 2 = (match prev with | .u => 0 | .s => 1 | .h => 2) ∧ bits c 10 1 = sl ∧
    bits c 11 1 = (if esc then 1 else 0) ∧ bits c 12 4 = 0 ∧ bits c 16 16 = t.detail.toNat)

/-- Where a trap goes: to its own level or the unit's, whichever is higher; from U to S when the context has no U vector
or the unit is already in a U handler; from S to H when there is no S vector or it is already in an S handler (R362,
R367; a cause of level U inside an S handler goes to H by the model's reading of log 33). Every trap cause has the code and
the level that the table of R362 gives it. A word of the VEC class with permitted registers takes EMPTY_SOURCE where a source
with e = 1 is empty without a note; otherwise the trap of the first source's note, whatever its e bit; otherwise it stalls in
place while a source is empty (R34, R196, R255). A note's trap is MEMERR with the unit's address and kind, PAGE_FAULT of a
refused access with reason 5 and level 3 for the lanes it names, ALIGN or PROTECTION (R61, R78, R439). -/
def Obligations.TrapTargetsAndCodes : Prop :=
  (∀ (R : CtxRec) (fe : Bool) (st : Strand) (c : Cause), st.level ≠ .h → c.level ≠ .h →
     let uvec := if fe then R.uvecf else R.uvecq
     let svec := if fe then R.svecf else R.svecq
     let toU := c.level = .u ∧ st.level = .u ∧ uvec ≠ 0 ∧ st.trapU.inHandler = false
     let toS := ¬ toU ∧ svec ≠ 0 ∧ st.trapS.inHandler = false
     (toU → trapTarget (some R) fe st c = (.u, uvec, false)) ∧
     (toS → (trapTarget (some R) fe st c).1 = .s ∧ (trapTarget (some R) fe st c).2.1 = svec) ∧
     (¬ toU ∧ ¬ toS → (trapTarget (some R) fe st c).1 = .h ∧ (trapTarget (some R) fe st c).2.2 = true)) ∧
  ((∀ (c : Cause) (n : Nat), (c, n) ∈ [(Cause.illegalClause, 0x01), (.illegalOp, 0x02), (.illegalOperand, 0x03),
       (.illegalConvergence, 0x04), (.modeMismatch, 0x05), (.emptySource, 0x06), (.pageFault, 0x07), (.protection, 0x08),
       (.secondStage, 0x09), (.memerr, 0x0A), (.align, 0x0B), (.bounds, 0x0C), (.instabCancel, 0x0D), (.instabCompare, 0x0E),
       (.instabZdiv, 0x0F), (.detviol, 0x10), (.sigMismatch, 0x11), (.accOwner, 0x12), (.xlockViol, 0x13), (.xlockStall, 0x14),
       (.gateDenied, 0x15), (.gateRate, 0x16), (.gateClosed, 0x17), (.gateBad, 0x18), (.trap, 0x19)] → c.code = n) ∧
   (∀ a b : Cause, a.code = b.code → a = b) ∧ (∀ a : Cause, a.level = .u ↔ a ∈ [Cause.instabCancel, .instabCompare, .instabZdiv, .sigMismatch, .trap]) ∧
   (∀ a : Cause, a.level = .h ↔ a = .secondStage)) ∧
  (∀ (f : VV) (s : State) (I : Issuer) (i : Instr) (ok : Bool) (srcs : List SrcSt), (i, ok, srcs) ∈ sourceWords I f →
     QuireIssues s i I → ok = true →
     let hit := ∃ x ∈ srcs, x.full = false ∧ x.note = none ∧ x.e = true
     let notes := srcs.filterMap fun x => if x.full then none else x.note
     (hit → Traps i s (wordTrap .emptySource i)) ∧
     (¬ hit → ∀ n l, notes = n :: l → Traps i s (noteTrap I.mask n)) ∧
     (¬ hit → notes = [] → (∃ x ∈ srcs, x.full = false) → exec i s = .next s)) ∧
  (∀ (m : Mask) (n : Note), let t := noteTrap m n
     (n.kind = .memerr → t.cause = .memerr ∧ t.info = n.addr &&& 0xFFFFFFFFFFFFF#64 ∧ t.detail = BitVec.ofNat 16 n.memkind) ∧
     (n.kind = .gpaRefused → t.cause = .pageFault ∧ t.info = (n.addr &&& 0xFFFFFFFFFFFFF#64) ||| (5#64 <<< 52) ||| (3#64 <<< 55) ∧
       (n.lanes &&& m ≠ 0 → t.mask = some (n.lanes &&& m))) ∧
     (n.kind = .align → t.cause = .align ∧ t.info = n.addr &&& 0xFFFFFFFFFFFFF#64) ∧
     (n.kind = .protection → t.cause = .protection ∧ t.info = n.addr))

/-- Returning from a handler undoes the entry: after a trap taken at U or S and an ERET with the level's registers
unchanged, the slot stands where it trapped, in the middle of its clause, at its level before, with the level's trap
registers as they were before the entry and k15 as it was, in ternion mode in whole triples (R365, R371, R241). -/
def Obligations.TrapReturnRestores : Prop :=
  ∀ (s : State) (I : Issuer) (w : Word) (t : Trap), issuerOf s I.u w = some I → I.fe = false →
    ¬ (t.cause = .memerr ∧ t.detail = 3) →
    let T := trapTarget (ctxRecord s I.blk.part I.blk.ctx).2 false I.st t.cause
    T.1 ≠ .h →
    ∃ Q, Tab.find (takeReturn (takeTrap s I.u t) I.u).quires I.key = some Q ∧
      (let c := (Q.slot I.sl).ctl
       c.pc = I.st.pc ∧ c.left = I.st.left ∧ c.hdr = I.st.hdr ∧ c.cls = I.st.cls ∧ c.level = I.st.level ∧
       (if T.1 = .u then c.trapU.regs = I.st.trapU.regs ∧ c.trapU.inHandler = false
        else c.trapS.regs = I.st.trapS.regs ∧ c.trapS.inHandler = false)) ∧
      (Tab.get { val := 0 } Q.k 15).val = fitTriples I.qr.ter (Tab.get { val := 0 } I.qr.k 15).val ∧ (Q.slot I.sl).mask = I.mask

/-- TRAP completes and then takes the cause TRAP with its immediate as DETAIL; ERET inside a handler of U or S, with the
mask of the entry, returns; outside a handler it is ILLEGAL_OP, with another mask ILLEGAL_CONVERGENCE (R370, R371). -/
def Obligations.TrapAndEret : Prop :=
  (∀ (f : YT) (s : State) (I : Issuer), Issues s (.trap f) I →
    exec (.trap f) s = .next (takeTrap (complete s I) I.u { cause := .trap, detail := f.imm })) ∧
  (∀ (s : State) (I : Issuer), Issues s .eret I → I.st.level ≠ .h → I.st.trapOf.inHandler = true →
    I.fe = true ∨ (I.mask = I.st.trapOf.entryMask ∧ I.mask ≠ 0) → (I.st.level = .s → bankOwed s I = false) →
    Answers .eret s (takeReturn (countIcnt s I) I.u)) ∧
  (∀ (s : State) (I : Issuer), Issues s .eret I → I.st.level = .h ∨ I.st.trapOf.inHandler = false →
    Traps .eret s (wordTrap .illegalOp .eret)) ∧
  (∀ (s : State) (I : Issuer), Issues s .eret I → I.st.level ≠ .h → I.st.trapOf.inHandler = true → I.fe = false →
    I.mask ≠ I.st.trapOf.entryMask → Traps .eret s (wordTrap .illegalConvergence .eret))

/-! ## CTL: branches, records, waits -/

/-- B and BRA in a quire, BC and J in a front-end: a conditional branch whose bit equals its sense, and any
unconditional one, goes to the header 4 × OFFSET bytes from its word; another conditional one goes on to the next word.
JAL also writes the address of the word after it to x31, JR goes to the address in xa (R330, R319). CALL makes a record of kind CALL that returns to the header after it and goes to its target. JTAB, with aligned base
and readable entries, makes a record of kind JTAB with the join address of entry 0 and runs the lanes grouped by the
target of their entry: one group here, one in a free slot, the rest from the stack (R339, R340). -/
def Obligations.TransfersComplete : Prop :=
  ((∀ (f : CB) (s : State) (I : Issuer), QuireIssues s (.b f) I → Full [I.srcC f.c.toNat] →
     ((I.creg f.c.toNat).val = (f.sense == 1) → JumpsTo (.b f) s I s (I.st.pc + 4 * f.off.signExtend 64)) ∧
     ((I.creg f.c.toNat).val ≠ (f.sense == 1) → Completes (.b f) s I s)) ∧
   (∀ (f : CB) (s : State) (I : Issuer), FrontIssues s (.bc f) I → Full [I.srcC f.c.toNat] →
     ((I.creg f.c.toNat).val = (f.sense == 1) → JumpsTo (.bc f) s I s (I.st.pc + 4 * f.off.signExtend 64)) ∧
     ((I.creg f.c.toNat).val ≠ (f.sense == 1) → Completes (.bc f) s I s)) ∧
   (∀ (f : CO) (s : State) (I : Issuer), QuireIssues s (.bra f) I →
     JumpsTo (.bra f) s I s (I.st.pc + 4 * f.off.signExtend 64)) ∧
   (∀ (f : XJ) (s : State) (I : Issuer), FrontIssues s (.j f) I →
     JumpsTo (.j f) s I s (I.st.pc + 4 * f.off.signExtend 64)) ∧
   (∀ (f : XJ) (s : State) (I : Issuer), FrontIssues s (.jal f) I → Free [I.srcX 31] →
     JumpsTo (.jal f) s I (writeX s I 31 (I.st.pc + 4)) (I.st.pc + 4 * f.off.signExtend 64)) ∧
   (∀ (f : XR) (s : State) (I : Issuer), FrontIssues s (.jr f) I → Full [I.srcX f.xa.toNat] →
     JumpsTo (.jr f) s I s (I.xreg f.xa.toNat).val)) ∧
  ((∀ (f : CO) (s : State) (I : Issuer), QuireIssues s (.call f) I → I.qr.recs.length < 64 →
     JumpsTo (.call f) s I (s.updQuire I.key fun Q => (Q.newRec I.sl 3 (I.st.pc + 4) I.mask).1)
       (I.st.pc + 4 * f.off.signExtend 64)) ∧
   (∀ (f : CJ) (s s1 s2 : State) (I : Issuer) (t : Tab Nat), QuireIssues s (.jtab f) I → f.sb.toNat % 2 = 0 →
     I.vOk f.va.toNat 1 = true → Full (I.srcV f.va.toNat (f.ea == 1) :: I.srcS2 f.sb.toNat) →
     let va := I.maj fun l => ((I.vreg f.va.toNat).at l).toNat
     let base := (I.s2 f.sb.toNat).toNat
     I.split [fun l => ((I.vreg f.va.toNat).at l).toNat] = [] → (∀ i ∈ I.threads, va i ≤ f.n1.toNat) → base % 4 = 0 →
     I.qr.recs.length < 64 →
     jtabRead s I base (0 :: ((List.range (f.n1.toNat + 1)).filter fun i => I.threads.any fun j => va j == i).map (· + 1)) =
       .ok s1 t →
     let jpc := I.blk.node.text + 4 * BitVec.ofNat 64 (Tab.get 0 t 0)
     let gs := jtabGroups I va t (f.n1.toNat + 1)
     let two := (I.qr.slot (1 - I.sl)).free
     let id := (I.qr.newRec I.sl 2 jpc I.mask).2
     pushStack s1 I (((gs.drop (if two then 2 else 1)).reverse).map fun g => (g.1, g.2, id)) = .ok s2 () →
     Answers (.jtab f) s (((countIcnt s2 I).updQuire I.key fun Q => (Q.newRec I.sl 2 jpc I.mask).1).updQuire I.key fun Q =>
       match gs with
       | [] => Q
       | g :: rest =>
         let Q := Q.run I.sl g.2 g.1 id I.st.level
         match rest with
         | h :: _ => if two then Q.run (1 - I.sl) h.2 h.1 id I.st.level else Q
         | [] => Q)))

/-- SPLIT with fewer than 64 records open makes a record of kind SPLIT with its join address, expecting the slot's
lanes: all lanes in k go to the target, none stay at the next header; where both exist and the other slot is free, that
slot runs those in k and this one the rest; otherwise the rest is pushed on the stack and this slot runs those in k.
With 64 records it is BOUNDS (R331, R336). A new record takes an id that is neither 0 nor in use, has the slot's innermost record as its parent, expects the
given lanes with none arrived, and becomes the slot's innermost; the records there were stay (R331). -/
def Obligations.SplitCompletes : Prop :=
  (∀ (f : CS) (s : State) (I : Issuer), QuireIssues s (.split f) I → Full [I.srcK f.k.toNat] →
     let T := I.mask &&& (I.kreg f.k.toNat).val
     let N := I.mask &&& ~~~(I.kreg f.k.toNat).val
     let target := I.st.pc + 4 * f.target.signExtend 64
     let jpc := I.st.pc + 4 * f.join.signExtend 64
     let id := (I.qr.newRec I.sl 1 jpc I.mask).2
     let opened := (countIcnt (s.updQuire I.key fun Q => (Q.newRec I.sl 1 jpc I.mask).1) I)
     (I.qr.recs.length < 64 →
       (N = 0 → Answers (.split f) s (opened.updQuire I.key fun Q => Q.run I.sl T target id I.st.level)) ∧
       (N ≠ 0 → T = 0 → Answers (.split f) s (opened.updQuire I.key fun Q => Q.run I.sl N (I.st.pc + 4) id I.st.level)) ∧
       (N ≠ 0 → T ≠ 0 → (I.qr.slot (1 - I.sl)).free = true →
         Answers (.split f) s (opened.updQuire I.key fun Q =>
           (Q.run (1 - I.sl) T target id I.st.level).run I.sl N (I.st.pc + 4) id I.st.level)) ∧
       (N ≠ 0 → T ≠ 0 → (I.qr.slot (1 - I.sl)).free = false → ∀ s', pushStack s I [(I.st.pc + 4, N, id)] = .ok s' () →
         Answers (.split f) s ((countIcnt (s'.updQuire I.key fun Q => (Q.newRec I.sl 1 jpc I.mask).1) I).updQuire I.key
           fun Q => Q.run I.sl T target id I.st.level))) ∧
     (64 ≤ I.qr.recs.length → Traps (.split f) s { cause := .bounds })) ∧
  (∀ f : CS, OpcodesFrom [.split f] .ctl 0x04 (f.k ++ f.target ++ f.join)) ∧
  (∀ (Q : Quire) (sl kind : Nat) (jpc : DWord) (m : Mask), Q.recs.length < 64 →
     let r := Q.newRec sl kind jpc m
     r.2 ≠ 0 ∧ (∀ x ∈ Q.recs, x.id ≠ r.2) ∧
     r.1.recs = Q.recs ++ [{ id := r.2, kind := kind, jpc := jpc, expect := m, parent := (Q.slot sl).innermost }] ∧
     (r.1.slot sl).innermost = r.2 ∧ (r.1.slot sl).mask = (Q.slot sl).mask ∧ r.1.v = Q.v ∧ r.1.s = Q.s ∧ r.1.k = Q.k)

/-- JOIN, with the slot's innermost record of kind SPLIT or JTAB, RET with one of kind CALL: while lanes are still to
come the slot's lanes park at the record and the slot is free; the last arrivals run on together at the join address. WAITJ with lanes still to come waits with its lanes arrived, until its timeout from the
cycle of issue; otherwise, and in a deterministic node, it is JOIN. Another record, or none, is ILLEGAL_CONVERGENCE
(R337, R338, R340). -/
def Obligations.JoinsComplete : Prop :=
  ∀ (s : State) (I : Issuer) (i : Instr) (call : Bool) (f : CO),
    (i, call) ∈ [(Instr.join, false), (Instr.ret, true), (Instr.waitj f, false)] → QuireIssues s i I →
    (∀ r, I.qr.joinRec (I.qr.slot I.sl).innermost = some r → (r.kind == 3) = call →
      (r.arrived ||| I.mask ≠ r.expect → (∀ g, i = .waitj g → I.blk.node.det = true) →
        Answers i s ((countIcnt s I).updQuire I.key fun Q =>
          (Q.updRec r.id fun x => { x with arrived := r.arrived ||| I.mask }).freeSlot I.sl)) ∧
      (r.arrived ||| I.mask = r.expect →
        Answers i s (takeRecord (countIcnt s I) I.b I.q I.sl { r with arrived := r.expect })) ∧
      (i = .waitj f → r.arrived ||| I.mask ≠ r.expect → I.blk.node.det = false →
        WaitsAs i s I (s.updQuire I.key fun Q => Q.updRec r.id fun r => { r with arrived := r.arrived ||| I.mask })
          (.waitj r.id (coreCycles s I.blk.core + f.off.toNat)))) ∧
    ((∀ r, I.qr.joinRec (I.qr.slot I.sl).innermost = some r → (r.kind == 3) ≠ call) →
      Traps i s (wordTrap .illegalConvergence i)) ∧
    encode .join = some (.ctl, 0x05000000#32) ∧ encode .ret = some (.ctl, 0x03000000#32)

/-- YIELD completes and excludes the slot from the ports until other candidates have issued. EXIT ends the slot's
lanes. XACQ of a lock that is free, and that the partner does not wait for, takes it, and otherwise waits; XREL of a held
one frees it once the unit's earlier accesses to its package are performed, for its partner next where that waits. TMODE with the whole quire converged completes: to the
mode it is in with no effect; to the other with the threads' ICNT joined or shared out and, to ternion mode, every
predicate made of whole triples (R341, R342, R199, R249). -/
def Obligations.LaneStateWordsComplete : Prop :=
  (∀ (s : State) (I : Issuer), QuireIssues s .yield I →
    Completes .yield s I (updStrand s I.u fun c => { c with yielded := some [] })) ∧
  (∀ (s : State) (I : Issuer), QuireIssues s .exit I → Answers .exit s (exitLanes (countIcnt s I) I.b I.q I.sl)) ∧
  (∀ (s : State) (I : Issuer), QuireIssues s .xacq I → I.blk.node.ext = true →
    let L := Tab.get {} I.blk.locks (I.q / 2)
    (L.holder = none → seeksLock s I.b (partnerQuire I.q) = false →
      Completes .xacq s I (setLock s I.b (I.q / 2) { holder := some I.q })) ∧
    (L.holder ≠ some I.q → L.holder ≠ none ∨ seeksLock s I.b (partnerQuire I.q) = true → WaitsAs .xacq s I s .xacq)) ∧
  (∀ (s : State) (I : Issuer), QuireIssues s .xrel I → (Tab.get {} I.blk.locks (I.q / 2)).holder = some I.q →
    unperformed s I.u I.mask s.nextId 1 = false →
    Completes .xrel s I (setLock s I.b (I.q / 2)
      { holder := none, stall := 0, next := if seeksLock s I.b (partnerQuire I.q) then some (partnerQuire I.q) else none })) ∧
  (∀ (f : CM) (s : State) (I : Issuer), QuireIssues s (.tmode f) I → I.mask = I.qr.live →
    (I.qr.slot (1 - I.sl)).free = true → I.qr.recs = [] → dsTop I.qr.dstack = 0 →
    (f.mode = 1 → wholeTriples I.qr.live = true) →
    ((f.mode == 1) = I.ter → Completes (.tmode f) s I s) ∧
    ((f.mode == 1) ≠ I.ter → Answers (.tmode f) s (nextWord (s.updQuire I.key fun Q =>
      { Q with
        ter := f.mode == 1
        icnt := tmodeIcnt I (f.mode == 1) (if I.atU then 1 else 0)
        k := if f.mode == 1 then Q.k.map fun e => (e.1, { e.2 with val := majTriples e.2.val }) else Q.k }) I.u)))

/-- Pushes, once the unit's earlier accesses to its package are performed (08_ordering.md R181): to a queue with room that
nothing waits to push to they complete at once, at its end: TOKEN to the control-token
queue q1 of a block whose front-end runs, QPUSH to q1 or to a role queue that the quire feeds, DQPUSH to the decision
queue of a quire. A full queue holds the word. QPOP of a queue the quire drains delivers the oldest entry, where it is
correctable, to an even s pair, at once where there is one; otherwise it empties the pair and waits. BTOK takes the oldest token to x30 and goes to
the header its OFFSET names, or waits with x30 empty (R324, R325, R323, R359). -/
def Obligations.QueueWordsComplete : Prop :=
  (∀ (f : CO) (s : State) (I : Issuer), QuireIssues s (.token f) I → I.blk.front.done = false →
    unperformed s I.u I.mask s.nextId 1 = false →
    let v := BitVec.ofNat 64 (f.off.toNat + I.q * 2 ^ 20 + I.sl * 2 ^ 24)
    (I.blk.q1.length < 16 → pushWaiting s I.b I.q 1 = false →
      Completes (.token f) s I (s.updBlock I.b fun B => { B with q1 := B.q1 ++ [v] })) ∧
    (16 ≤ I.blk.q1.length → WaitsAs (.token f) s I s (.token v))) ∧
  (∀ (f : CQ) (s : State) (I : Issuer), QuireIssues s (.qpush f) I → f.s.toNat % 2 = 0 → Full (I.srcS2 f.s.toNat) →
    unperformed s I.u I.mask s.nextId 1 = false →
    let n := f.q.toNat
    (n = 1 ∨ ∃ r, roleOf I.blk.node n = some r ∧ r.1 = I.q) →
    ((queueOf s I.b I.q n).length < 16 → pushWaiting s I.b I.q n = false →
      Completes (.qpush f) s I (pushQueue s I.b I.q n (I.s2 f.s.toNat))) ∧
    (16 ≤ (queueOf s I.b I.q n).length → WaitsAs (.qpush f) s I s (.qpush n (I.s2 f.s.toNat)))) ∧
  (∀ (f : XR) (s : State) (I : Issuer), FrontIssues s (.dqpush f) I → Full [I.srcX f.xa.toNat] →
    unperformed s I.u I.mask s.nextId 1 = false →
    let q := f.f9.toNat / 32 % 16
    q < I.blk.nq →
    ((queueOf s I.b q 0).length < 16 → pushWaiting s I.b q 0 = false →
      Completes (.dqpush f) s I (s.updQuire (quireKey I.b q) fun Q => { Q with q0 := Q.q0 ++ [(I.xreg f.xa.toNat).val] })) ∧
    (16 ≤ (queueOf s I.b q 0).length → WaitsAs (.dqpush f) s I s (.dqpush q (I.xreg f.xa.toNat).val))) ∧
  (∀ (f : CQ) (s : State) (I : Issuer), QuireIssues s (.qpop f) I → f.s.toNat % 2 = 0 → Free (I.srcS2 f.s.toNat) →
    let n := f.q.toNat
    (n = 0 ∨ ∃ r, roleOf I.blk.node n = some r ∧ r.2 = I.q) →
    (Tab.get {} I.blk.locks (I.q / 2)).holder ≠ some I.q →
    (∀ v l, queueOf s I.b I.q n = v :: l → popWaiting I.qr n = false → headBad s I.b I.q n = false →
      Completes (.qpop f) s I (writeS2 (dropHead s I.b I.q n) I f.s.toNat v)) ∧
    (queueOf s I.b I.q n = [] → (n = 0 → I.blk.front.done = false) →
      WaitsAs (.qpop f) s I { (emptyS (emptyS s I f.s.toNat) I (f.s.toNat + 1)) with nextId := s.nextId + 1 }
        (.qpop n f.s.toNat s.nextId (I.notes64 f.s.toNat)))) ∧
  (∀ (s : State) (I : Issuer), FrontIssues s .btok I → Free [I.srcX 30] →
    (∀ v l, I.blk.q1 = v :: l → headBad s I.b 0 1 = false →
      JumpsTo .btok s I (writeX (dropHead s I.b 0 1) I 30 v) (I.blk.node.text + 4 * (v &&& 0xFFFFF#64))) ∧
    (I.blk.q1 = [] → WaitsAs .btok s I (emptyX s I 30) (.btok (I.notes64 30))))

/-- BAR of a permitted scope, by a converged quire that holds no pair lock and has no unreleased arrival, records its
arrival, of scope POD where SYS is named, and completes; with one it waits. WAITB completes at once on a block whose completion bit is set, and otherwise
waits for it (R358, R353). -/
def Obligations.BarrierAndWaitbComplete : Prop :=
  (∀ (f : CR) (s : State) (I : Issuer), QuireIssues s (.bar f) I →
    let sc := I.scope f.scope.toNat
    sc ≠ 0 → (1 < sc → I.blk.node.gang = true) → I.mask = I.qr.live →
    (Tab.get {} I.blk.locks (I.q / 2)).holder ≠ some I.q →
    (I.qr.arrival = none →
      Completes (.bar f) s I (countClamp (s.updQuire I.key fun Q => { Q with arrival := some (min 6 sc), arrivalAt := s.nextId }) I f.scope.toNat)) ∧
    (I.qr.arrival ≠ none → WaitsAs (.bar f) s I s (.bar f.scope.toNat))) ∧
  (∀ (f : CW) (s : State) (I : Issuer) (n : Nat × Node), QuireIssues s (.waitb f) I → f.s.toNat % 2 = 0 →
    Full (I.srcS2 f.s.toNat) →
    let c := (I.sreg (f.s.toNat + 1)).val
    let b := (I.sreg f.s.toNat).val.toNat
    c.toNat < 16 → (c.getLsbD 3 = false → c.toNat % 8 < I.blk.node.npred) →
    waitbNode s I (c.getLsbD 3) (c.toNat % 8) = some n → b < n.2.nrec.total →
    (I.blk.node.det = true → c.getLsbD 3 = true → b < I.blk.idx) →
    (b ∈ n.2.bits → Completes (.waitb f) s I s) ∧
    (b ∉ n.2.bits → WaitsAs (.waitb f) s I s (.waitb (c.getLsbD 3) n.1 b)))

/-! ## FRONT -/

/-- ADD, SUB, MUL, MULH, DIVU, REMU, AND, OR, XOR, SHL, SHR, SAR, MIN, MAX and the immediate forms complete: xd holds the
64-bit result; LI gives its zero-extended immediate, LIH replaces 16 bits of xd; CMP and CMPI give the relation, signed
for conditions 2 to 5, to a condition bit; their opcodes, fields, and permitted shift amounts, LI halves and conditions
are those of R314 to R316. FADDS, FMULS, FFMAS, FDIVS, FCMPS and FCVTS complete: FP32 of the
low halves, rounded once by the front-end's mode (FPCTL.RM, the model's reading of log 118), zero-extended; the relation; the converted
value in its register image, integers saturating; with the events counted, as log 23 says (R317). -/
def Obligations.FrontOpsComplete : Prop :=
  ((∀ (f : XR) (s : State) (I : Issuer) (i : Instr) (g : DWord → DWord → DWord), (i, g) ∈ frontOps f →
     FrontIssues s i I → Full [I.srcX f.xa.toNat, I.srcX f.xb.toNat] → Free [I.srcX f.xd.toNat] →
     Completes i s I (writeX s I f.xd.toNat (g (I.xreg f.xa.toNat).val (I.xreg f.xb.toNat).val))) ∧
   (∀ (f : XI) (s : State) (I : Issuer) (i : Instr) (g : DWord → DWord → DWord), (i, g) ∈ frontImmOps f →
     FrontIssues s i I → Full [I.srcX f.xa.toNat] → Free [I.srcX f.xd.toNat] →
     Completes i s I (writeX s I f.xd.toNat (g (I.xreg f.xa.toNat).val (f.imm.signExtend 64)))) ∧
   (∀ (f : XL) (s : State) (I : Issuer), FrontIssues s (.li f) I → Free [I.srcX f.xd.toNat] →
     Completes (.li f) s I (writeX s I f.xd.toNat (f.imm.setWidth 64))) ∧
   (∀ (f : XL) (s : State) (I : Issuer), FrontIssues s (.lih f) I → Full [I.srcX f.xd.toNat] →
     ∃ v, Completes (.lih f) s I (writeX s I f.xd.toNat v) ∧ ∀ n, n < 64 →
       v.getLsbD n = if 16 * f.hw.toNat ≤ n ∧ n < 16 * f.hw.toNat + 16 then f.imm.getLsbD (n - 16 * f.hw.toNat)
         else (I.xreg f.xd.toNat).val.getLsbD n) ∧
   (∀ (f : XC) (s : State) (I : Issuer), FrontIssues s (.cmp f) I → Full [I.srcX f.xa.toNat, I.srcX f.xb.toNat] →
     Completes (.cmp f) s I (writeC s I f.cd.toNat
       (condInt f.cond.toNat true 64 (I.xreg f.xa.toNat).val.toNat (I.xreg f.xb.toNat).val.toNat))) ∧
   (∀ (f : XCI) (s : State) (I : Issuer), FrontIssues s (.cmpi f) I → Full [I.srcX f.xa.toNat] →
     Completes (.cmpi f) s I (writeC s I f.cd.toNat
       (condInt f.cond.toNat true 64 (I.xreg f.xa.toNat).val.toNat (f.imm.signExtend 64).toNat)))) ∧
  ((∀ (f : XR) (s : State) (I : Issuer) (i : Instr) (three : Bool) (op : List FV → Exact), (i, three, op) ∈ frontFpOps f →
     FrontIssues s i I →
     Full ([I.srcX f.xa.toNat, I.srcX f.xb.toNat] ++ if three then [I.srcX f.xd.toNat] else []) → Free [I.srcX f.xd.toNat] →
     let r := fpLane fp32 I.ftz I.frontRound
       ([I.x32 f.xa.toNat, I.x32 f.xb.toNat] ++ if three then [I.x32 f.xd.toNat] else []) op
     Completes i s I (countFront (writeX s I f.xd.toNat (BitVec.ofNat 64 r.out)) I r)) ∧
   (∀ (f : XC) (s : State) (I : Issuer), FrontIssues s (.fcmps f) I → Full [I.srcX f.xa.toNat, I.srcX f.xb.toNat] →
     let a := flushIn fp32 I.ftz (I.x32 f.xa.toNat)
     let b := flushIn fp32 I.ftz (I.x32 f.xb.toNat)
     Completes (.fcmps f) s I (addStat (writeC s I f.cd.toNat (condFp f.cond.toNat a.1 b.1)) I.b I.tensor 1
       ((if a.2 then 1 else 0) + (if b.2 then 1 else 0)))) ∧
   (∀ (f : XR) (s : State) (I : Issuer), FrontIssues s (.fcvts f) I → Full [I.srcX f.xa.toNat] → Free [I.srcX f.xd.toNat] →
     let toInt := xrDst f == 7 || xrDst f == 8 || xrDst f == 13
     let c := convert (xrDst f) (xrSrc f) toInt I.ftz I.frontRound (I.xreg f.xa.toNat).val.toNat
     let F := if xrDst f == 6 then fp64 else fp32
     Completes (.fcvts f) s I (countFront (writeX s I f.xd.toNat (frontImage (xrDst f) c.out)) I
       { out := c.out, sat := c.sat, flush := c.flush, nan := c.nan
         nonfin := !toInt && ((unpack F c.out).isNan || (unpack F c.out).isInf) }))) ∧
  ((∀ f : XR, OpcodesFrom ((frontOps f).map (·.1)) .front 0x00 (f.f9 ++ f.xb ++ f.xa ++ f.xd) ∧
     ∀ i ∈ (frontOps f).map (·.1), i.wellFormed = true ↔ f.f9 = 0) ∧
   (∀ f : XI, OpcodesFrom ((frontImmOps f).map (·.1)) .front 0x10 (f.imm ++ f.xa ++ f.xd) ∧
     (∀ i ∈ [Instr.addi f, .frontAndi f, .frontOri f], i.wellFormed = true) ∧
     ∀ i ∈ [Instr.frontShli f, .frontShri f], i.wellFormed = true ↔ f.imm.toNat < 64) ∧
   (∀ f : XL, OpcodesFrom [.li f, .lih f] .front 0x15 (0#1 ++ f.hw ++ f.imm ++ f.xd) ∧
     ((Instr.li f).wellFormed = true ↔ f.hw = 0) ∧ (Instr.lih f).wellFormed = true) ∧
   (∀ f : XC, OpcodesFrom [.cmp f] .front 0x18 (0#7 ++ f.xb ++ f.xa ++ f.cond ++ f.cd) ∧
     ((Instr.cmp f).wellFormed = true ↔ f.cond.toNat < 10)) ∧
   (∀ f : XCI, OpcodesFrom [.cmpi f] .front 0x19 (f.imm ++ f.xa ++ f.cond ++ f.cd) ∧
     ((Instr.cmpi f).wellFormed = true ↔ f.cond.toNat < 10)) ∧
   (∀ (c a b : Nat), a < 2 ^ 64 → b < 2 ^ 64 → c < 10 → condInt c true 64 a b =
     [decide (a = b), decide (a ≠ b),
      decide ((BitVec.ofNat 64 a).toInt < (BitVec.ofNat 64 b).toInt), decide ((BitVec.ofNat 64 a).toInt ≤ (BitVec.ofNat 64 b).toInt),
      decide ((BitVec.ofNat 64 b).toInt < (BitVec.ofNat 64 a).toInt), decide ((BitVec.ofNat 64 b).toInt ≤ (BitVec.ofNat 64 a).toInt),
      decide (a < b), decide (a ≤ b), decide (b < a), decide (b ≤ a)].getD c false))

/-- TMSET, TMADV and TMGET write, move the base of, and read a tile map that the node owns; TMADV's base moves by a
signed multiple of 32 bytes and stays within 19 bits. OVFGET gives the block's overflow flags to xd once the instructions
that the block's quires have issued have completed; LSUPD then updates the loss-scale word of xa by them and clears them.
FEXIT with no load outstanding ends the front-end and empties q1 (R321, R327, R328, R320). The loss-scale update of R328: with an overflow the scale is halved, unless its exponent would fall below 1, and the
run restarts; without one the run counts on, and when it reaches a nonzero interval the scale is doubled, unless its
exponent would pass 254, and the run restarts; the interval is kept. -/
def Obligations.FrontStateWordsComplete : Prop :=
  ((∀ (f : XR) (s : State) (I : Issuer), FrontIssues s (.tmset f) I → I.blk.node.tmaps.getLsbD (f.xd.toNat % 16) = true →
     Full [I.srcX f.xa.toNat] → Completes (.tmset f) s I (setMap s I (f.xd.toNat % 16) (I.xreg f.xa.toNat).val)) ∧
   (∀ (f : XR) (s : State) (I : Issuer), FrontIssues s (.tmadv f) I → I.blk.node.tmaps.getLsbD (f.xd.toNat % 16) = true →
     Full [I.srcX f.xa.toNat] →
     let m := Tab.get 0 (s.coreOf I.blk.core).t (f.xd.toNat % 16)
     let b := (tmBase m : Int) + (I.xreg f.xa.toNat).val.toInt
     (I.xreg f.xa.toNat).val.toNat % 32 = 0 → 0 ≤ b → b < 2 ^ 19 →
     Completes (.tmadv f) s I (setMap s I (f.xd.toNat % 16) ((m &&& ~~~0x7FFFF#64) ||| BitVec.ofNat 64 b.toNat))) ∧
   (∀ (f : XR) (s : State) (I : Issuer), FrontIssues s (.tmget f) I → I.blk.node.tmaps.getLsbD (f.xa.toNat % 16) = true →
     Free [I.srcX f.xd.toNat] →
     Completes (.tmget f) s I (writeX s I f.xd.toNat (Tab.get 0 (s.coreOf I.blk.core).t (f.xa.toNat % 16)))) ∧
   (∀ (f : XR) (s : State) (I : Issuer), FrontIssues s (.ovfget f) I → Free [I.srcX f.xd.toNat] → quiresBusy s I = false →
     Completes (.ovfget f) s I (writeX s I f.xd.toNat (I.blk.ovf.setWidth 64))) ∧
   (∀ (f : XR) (s : State) (I : Issuer) (v : DWord), FrontIssues s (.lsupd f) I → Full [I.srcX f.xa.toNat] →
     quiresBusy s I = false → lossScale (I.xreg f.xa.toNat).val I.blk.ovf = some v →
     Completes (.lsupd f) s I (writeX (s.updBlock I.b fun B => { B with ovf := 0 }) I f.xa.toNat v)) ∧
   (∀ (s : State) (I : Issuer), FrontIssues s .fexit I → loadsOut s I.u = false →
     Answers .fexit s (s.updBlock I.b fun B => { B with q1 := [], front := { B.front with done := true } }))) ∧
  (∀ (scale run interval : Nat) (f : Word), scale < 2 ^ 31 → run < 2 ^ 16 → interval < 2 ^ 16 →
     let e := scale / 2 ^ 23
     let w := fun (sc r : Nat) => BitVec.ofNat 64 (sc + r * 2 ^ 32 + interval * 2 ^ 48)
     1 ≤ e → e ≤ 254 →
     (f ≠ 0 → lossScale (w scale run) f = some (w (if 2 ≤ e then scale - 2 ^ 23 else scale) 0)) ∧
     (f = 0 → (interval = 0 ∨ (run + 1) % 2 ^ 16 < interval) →
       lossScale (w scale run) f = some (w scale ((run + 1) % 2 ^ 16))) ∧
     (f = 0 → interval ≠ 0 → interval ≤ (run + 1) % 2 ^ 16 →
       lossScale (w scale run) f = some (w (if e < 254 then scale + 2 ^ 23 else scale) 0)))


/-! ## MEM: accesses -/

/-- LD, ST, LDT, STT, LDU, STU, ATOM, ACAS and FATOM of a quire, LDX, STX and ATMX of a front-end complete, for every
form: registers permitted, sources full and destinations free, siblings with a majority, addresses aligned, translated
and permitted. The accesses that issue are those the rules give: one per thread at base + offset, LDU and STU one for
the slot, LDT and STT the element and its digit byte, which a single lane reads too (the model's choice of log 83); loads and returning atomics empty their destination (R157 to R159, R163, R164, R167 to R170; 14_control.md R318). LD, ST, LDT, STT, LDU, STU, ATOM, ACAS and FATOM trap in the
order of R162, with no effect: siblings without a majority ILLEGAL_OPERAND with their threads as faulters; then a misaligned
address ALIGN with the lowest one; then the translation's PAGE_FAULT, or the PROTECTION of a leaf, of a sealed region or of a
digit byte on a page that is not PLAIN, with the fields of R80 (R158, R159, R162). -/
def Obligations.MemoryWordsComplete : Prop :=
  (∀ (f : MV) (s : State) (I : Issuer), QuireIssues s (.ld f) I →
    let n := regsOfWidth f.width.toNat
    let b := 2 ^ f.width.toNat
    mvOk f I n = true → Full (mvSrcs f I) → Free (I.srcGroup f.data.toNat n) → Agree I [mvAddr f I] → Aligned I b (mvAddr f I) →
    Reaches s I false false (eachThread I (mvAddr f I) fun _ => .rd b) →
    Performs (.ld f) s I false false (eachThread I (mvAddr f I) fun _ => .rd b) (.vreg f.data.toNat n b (f.sx == 1)) 0
      (fun s => emptyGroup s I f.data.toNat n)) ∧
  (∀ (f : MV) (s : State) (I : Issuer), QuireIssues s (.st f) I →
    let n := regsOfWidth f.width.toNat
    let b := 2 ^ f.width.toNat
    let g := I.group f.data.toNat n
    let rs := eachThread I (mvAddr f I) fun i => .wr (leBytes b (I.maj g i))
    mvOk f I n = true → Full (mvSrcs f I ++ I.srcGroup f.data.toNat n) → Agree I [mvAddr f I, g] → Aligned I b (mvAddr f I) →
    Reaches s I true false rs → Performs (.st f) s I true false rs .none 0 id) ∧
  (∀ (f : MV) (s : State) (I : Issuer), QuireIssues s (.ldt f) I →
    let n := if mvF64 f then 2 else 1
    let ks := elemKinds s I f false
    let rs := ks.flatMap fun x => elemReqs f I x.1 x.2 (.rd (mvEs f)) (fun _ k => .rd k) (.rd 1)
    mvOk f I n = true → f.sb.toNat ≤ 28 → Full (mvSrcs f I ++ [I.srcS (f.sb.toNat + 2)]) → Free (I.srcGroup f.data.toNat n) →
    Agree I [mvAddr f I] →
    (∀ x ∈ ks, I.maj (mvAddr f I) x.1 % mvEs f = 0 ∧
      (x.2 = some 2 → I.maj (fun l => ((I.vreg f.va.toNat).at l).toNat) x.1 % mvEs f = 0)) →
    Reaches s I false false rs →
    Performs (.ldt f) s I false false rs (.ldt f.data.toNat (mvF64 f) (ks.map fun x => (x.1, x.2.getD 0))) 0
      (fun s => emptyGroup s I f.data.toNat n)) ∧
  (∀ (f : MV) (s : State) (I : Issuer), QuireIssues s (.stt f) I →
    let n := if mvF64 f then 2 else 1
    let ks := elemKinds s I f true
    let rs := ks.flatMap fun x =>
      elemReqs f I x.1 x.2 (.wr (leBytes (mvEs f) (sttMean f I x.1)))
        (fun o k => .wr ((((sttSiblings f I x.1).flatMap (leBytes (mvEs f))).drop o).take k)) (.wr (leBytes 1 (sttDigit f I x.1)))
    mvOk f I n = true → f.sb.toNat ≤ 28 → Full (mvSrcs f I ++ [I.srcS (f.sb.toNat + 2)] ++ I.srcGroup f.data.toNat n) →
    Agree I [mvAddr f I] →
    (∀ x ∈ ks, I.maj (mvAddr f I) x.1 % mvEs f = 0 ∧
      (x.2 = some 2 → I.maj (fun l => ((I.vreg f.va.toNat).at l).toNat) x.1 % mvEs f = 0)) →
    Reaches s I true false rs → Performs (.stt f) s I true false rs .none 0 id) ∧
  (∀ (f : MU) (s : State) (I : Issuer), QuireIssues s (.ldu f) I →
    let b := 2 ^ f.width.toNat
    let d := f.sd.toNat
    let rs : List MemReq := [{ key := 0, thread := I.threads.headD 0, va := muAddr f I, act := .rd b }]
    f.sb.toNat % 2 = 0 → (f.width = 3 → d % 2 = 0) → Full (I.srcS2 f.sb.toNat) →
    Free (if f.width = 3 then I.srcS2 d else [I.srcS d]) → muAddr f I % b = 0 → Reaches s I false true rs →
    Performs (.ldu f) s I false true rs (.sreg d b (f.sx == 1) (I.sbank d)) 0
      (fun s => if f.width == 3 then emptyS (emptyS s I d) I (d + 1) else emptyS s I d)) ∧
  (∀ (f : MU) (s : State) (I : Issuer), QuireIssues s (.stu f) I →
    let b := 2 ^ f.width.toNat
    let d := f.sd.toNat
    let rs : List MemReq :=
      [{ key := 0, thread := I.threads.headD 0, va := muAddr f I, act := .wr (leBytes b (I.sval (f.width == 3) d)) }]
    f.sb.toNat % 2 = 0 → (f.width = 3 → d % 2 = 0) →
    Full (I.srcS2 f.sb.toNat ++ if f.width = 3 then I.srcS2 d else [I.srcS d]) → muAddr f I % b = 0 → Reaches s I true true rs →
    Performs (.stu f) s I true true rs .none 0 id) ∧
  (∀ (f : MA) (s : State) (I : Issuer) (i : Instr) (kind : AtomKind) (two : Bool),
    (i, kind, two) ∈ [(Instr.atom f, AtomKind.atom, false), (Instr.acas f, AtomKind.acas, true),
      (Instr.fatom f, AtomKind.fatom, false)] →
    QuireIssues s i I →
    let w := f.w64 == 1
    let n := if w then 2 else 1
    let n2 := if two then 2 * n else n
    let d := f.data.toNat
    let addr := I.vval true f.va.toNat
    let cmp := I.group d n
    let new := I.group (d + n) n
    let rs := eachThread I addr fun i => .amo
      { kind := kind, op := f.op.toNat, w64 := w, v := BitVec.ofNat 64 (I.maj (if two then new else cmp) i)
        cmp := BitVec.ofNat 64 (I.maj cmp i), ret := f.nr == 0 }
    I.vWide true f.va.toNat = true → d % (if w then n2 else 1) = 0 → I.vOk d n2 = true →
    Full (I.srcV2 true f.va.toNat (f.ea == 1) ++ I.srcGroup d n2) →
    Agree I (addr :: cmp :: if two then [new] else []) → (kind = .fatom → I.blk.node.det = false) →
    Aligned I (4 * n) addr → ReleaseDone s I f.scope.toNat → Reaches s I true false rs →
    PerformsAtomic i s I false rs (if f.nr = 0 then .vreg d n (4 * n) false else .none) f.scope.toNat
      (fun s => if f.nr = 0 then emptyGroup s I d n else s)) ∧
  (∀ (f : XI) (s : State) (I : Issuer), FrontIssues s (.ldx f) I →
    let a := ((I.xreg f.xa.toNat).val + f.imm.signExtend 64).toNat
    let rs : List MemReq := [{ key := 0, thread := 0, va := a, act := .rd 8 }]
    Full [I.srcX f.xa.toNat] → Free [I.srcX f.xd.toNat] → a % 8 = 0 → Reaches s I false true rs →
    Performs (.ldx f) s I false true rs (.xreg f.xd.toNat true (I.xbank f.xd.toNat)) 0 (fun s => emptyX s I f.xd.toNat)) ∧
  (∀ (f : XI) (s : State) (I : Issuer), FrontIssues s (.stx f) I →
    let a := ((I.xreg f.xa.toNat).val + f.imm.signExtend 64).toNat
    let rs : List MemReq := [{ key := 0, thread := 0, va := a, act := .wr (leBytes 8 (I.xreg f.xd.toNat).val.toNat) }]
    Full [I.srcX f.xa.toNat, I.srcX f.xd.toNat] → a % 8 = 0 → Reaches s I true true rs →
    Performs (.stx f) s I true true rs .none 0 id) ∧
  (∀ (f : XR) (s : State) (I : Issuer), FrontIssues s (.atmx f) I →
    let a := (I.xreg f.xa.toNat).val.toNat
    let scope := bits f.f9.toNat 2 3
    let rs : List MemReq :=
      [{ key := 0, thread := 0, va := a
         act := .amo { kind := .atom, op := bits f.f9.toNat 5 4, w64 := true, v := (I.xreg f.xb.toNat).val } }]
    Full [I.srcX f.xa.toNat, I.srcX f.xb.toNat] → Free [I.srcX f.xd.toNat] → a % 8 = 0 → ReleaseDone s I scope →
    Reaches s I true true rs →
    PerformsAtomic (.atmx f) s I true rs (.xreg f.xd.toNat true (I.xbank f.xd.toNat)) scope
      (fun s => emptyX s I f.xd.toNat)) ∧
  (∀ (f : MV) (s : State) (I : Issuer), QuireIssues s (.ld f) I →
    let n := regsOfWidth f.width.toNat
    let b := 2 ^ f.width.toNat
    mvOk f I n = true → Full (mvSrcs f I) → Free (I.srcGroup f.data.toNat n) →
    ThreadTraps (.ld f) s I false (offThreads I b (mvAddr f I)) (mvAddr f I) [] (eachThread I (mvAddr f I) fun _ => .rd b)) ∧
  (∀ (f : MV) (s : State) (I : Issuer), QuireIssues s (.st f) I →
    let n := regsOfWidth f.width.toNat
    let b := 2 ^ f.width.toNat
    let g := I.group f.data.toNat n
    mvOk f I n = true → Full (mvSrcs f I ++ I.srcGroup f.data.toNat n) →
    ThreadTraps (.st f) s I true (offThreads I b (mvAddr f I)) (mvAddr f I) [g]
      (eachThread I (mvAddr f I) fun i => .wr (leBytes b (I.maj g i)))) ∧
  (∀ (f : MV) (s : State) (I : Issuer), QuireIssues s (.ldt f) I →
    let n := if mvF64 f then 2 else 1
    let ks := elemKinds s I f false
    let off := ks.filter fun x => I.maj (mvAddr f I) x.1 % mvEs f != 0 ||
      (x.2 == some 2 && I.maj (fun l => ((I.vreg f.va.toNat).at l).toNat) x.1 % mvEs f != 0)
    mvOk f I n = true → f.sb.toNat ≤ 28 → Full (mvSrcs f I ++ [I.srcS (f.sb.toNat + 2)]) → Free (I.srcGroup f.data.toNat n) →
    ThreadTraps (.ldt f) s I false (off.map (·.1)) (mvAddr f I) []
      (ks.flatMap fun x => elemReqs f I x.1 x.2 (.rd (mvEs f)) (fun _ k => .rd k) (.rd 1))) ∧
  (∀ (f : MV) (s : State) (I : Issuer), QuireIssues s (.stt f) I →
    let n := if mvF64 f then 2 else 1
    let ks := elemKinds s I f true
    let off := ks.filter fun x => I.maj (mvAddr f I) x.1 % mvEs f != 0 ||
      (x.2 == some 2 && I.maj (fun l => ((I.vreg f.va.toNat).at l).toNat) x.1 % mvEs f != 0)
    mvOk f I n = true → f.sb.toNat ≤ 28 → Full (mvSrcs f I ++ [I.srcS (f.sb.toNat + 2)] ++ I.srcGroup f.data.toNat n) →
    ThreadTraps (.stt f) s I true (off.map (·.1)) (mvAddr f I) []
      (ks.flatMap fun x => elemReqs f I x.1 x.2 (.wr (leBytes (mvEs f) (sttMean f I x.1)))
        (fun o k => .wr ((((sttSiblings f I x.1).flatMap (leBytes (mvEs f))).drop o).take k)) (.wr (leBytes 1 (sttDigit f I x.1))))) ∧
  (∀ (f : MU) (s : State) (I : Issuer) (i : Instr) (write : Bool), (i, write) ∈ [(Instr.ldu f, false), (Instr.stu f, true)] →
    QuireIssues s i I →
    let b := 2 ^ f.width.toNat
    let d := if f.width = 3 then I.srcS2 f.sd.toNat else [I.srcS f.sd.toNat]
    f.sb.toNat % 2 = 0 → (f.width = 3 → f.sd.toNat % 2 = 0) → Full (I.srcS2 f.sb.toNat ++ if write then d else []) →
    (write = false → Free d) →
    (muAddr f I % b ≠ 0 → Traps i s { cause := .align, info := BitVec.ofNat 64 (muAddr f I % 2 ^ 52) }) ∧
    (muAddr f I % b = 0 → TranslationTraps i s I write true
      [{ key := 0, thread := I.threads.headD 0, va := muAddr f I, act := if write then .wr (leBytes b (I.sval (f.width == 3) f.sd.toNat)) else .rd b }])) ∧
  (∀ (f : MA) (s : State) (I : Issuer) (i : Instr) (kind : AtomKind) (two : Bool),
    (i, kind, two) ∈ [(Instr.atom f, AtomKind.atom, false), (Instr.acas f, AtomKind.acas, true),
      (Instr.fatom f, AtomKind.fatom, false)] →
    QuireIssues s i I →
    let n := if f.w64 == 1 then 2 else 1
    let n2 := if two then 2 * n else n
    let d := f.data.toNat
    let addr := I.vval true f.va.toNat
    let cmp := I.group d n
    let new := I.group (d + n) n
    I.vWide true f.va.toNat = true → d % (if f.w64 = 1 then n2 else 1) = 0 → I.vOk d n2 = true →
    Full (I.srcV2 true f.va.toNat (f.ea == 1) ++ I.srcGroup d n2) → (kind = .fatom → I.blk.node.det = false) →
    ReleaseDone s I f.scope.toNat →
    ThreadTraps i s I true (offThreads I (4 * n) addr) addr (cmp :: if two then [new] else []) (eachThread I addr fun i => .amo
      { kind := kind, op := f.op.toNat, w64 := f.w64 == 1, v := BitVec.ofNat 64 (I.maj (if two then new else cmp) i)
        cmp := BitVec.ofNat 64 (I.maj cmp i), ret := f.nr == 0 })) ∧
  (∀ (va r l p : Nat) (w : Bool), r < 8 → l < 4 → p < 4 →
    let v := (faultInfo va r l w p).toNat
    bits v 0 52 = va % 2 ^ 52 ∧ bits v 52 3 = r ∧ bits v 55 2 = l ∧ bits v 57 1 = (if w then 1 else 0) ∧ bits v 58 1 = 0 ∧
    bits v 59 2 = p ∧ bits v 61 3 = 0)

/-- What the accesses of a word leave outstanding: an operation with the word's destination, threads and lanes, numbered
as the next one; or nothing, where a word without a destination has had all its lines performed; memory, messages and held
requests are as sending its line requests leaves them. Where each thread makes one access, there is one request to each
line, in the order of the lines' first accesses, and it holds exactly the accesses to its line, by ascending thread (R160,
R161). -/
def Obligations.AccessIssued : Prop :=
  (∀ (s : State) (I : Issuer) (write whole : Bool) (rs : List MemReq) (dest : Dest) (acq : Nat)
      (mark : State → State), Reaches s I write whole rs →
    let x := translateAll s I write rs
    ∃ t, memIssue s I write whole rs dest acq mark = .done t ∧
      ((∃ op, Tab.find t.ops x.1.nextId = some op ∧ op.unit = I.u ∧ op.dest = dest ∧ op.ter = I.ter ∧
          op.keys = rs.map (fun r => r.key) ∧ op.lanes = I.mask) ∨
       (dest = .none ∧ t.ops = (sendLines { (mark x.1) with nextId := x.1.nextId + 1 } I write x.1.nextId (groupLines x.2)).s.ops)) ∧
      (let u := (sendLines { (mark x.1) with nextId := x.1.nextId + 1 } I write x.1.nextId (groupLines x.2)).s
       t.mem = u.mem ∧ t.hostMem = u.hostMem ∧ t.msgs = u.msgs ∧ t.held = u.held)) ∧
  (∀ xs : List Located, (∀ x ∈ xs, x.req.thread = x.req.key ∧ ∃ g k c, x.xl = .ok g k c) →
    (xs.map fun x => x.req.key).Pairwise (· < ·) →
    let at_ := fun x : Located => match x.xl with
      | .ok g _ _ => g
      | _ => 0
    (groupLines xs).map (fun l => l.line) = (xs.map fun x => at_ x / 64).eraseDups ∧
    ∀ l ∈ groupLines xs, l.ops = (xs.filter fun x => at_ x / 64 == l.line).map fun x =>
      { key := x.req.key, off := at_ x % 64, act := x.req.act, va := x.req.va, thread := x.req.thread })

/-- One line request at a home in the issuing package: a load of n bytes at an offset of the line answers the n bytes
that stand there, or those that its thread's views of the page hold (R184); a store writes its bytes there; an atomic
writes the new value of R168 or R169 in place of the old one, a compare that fails nothing, and, if it returns, answers
the old one; every other byte of memory is as before, and nothing waits (R161, R168 to R170). A request to a counted page is
first counted, one to another page, or without the feature, changes no counter (R89). A request whose second
stage is refused, and one that host memory performs over a link that is up, waits (R78, R109, R170); one over a link that
is down fails at once, every lane with MEMERR of kind HOST (R109). -/
def Obligations.LineRequestEffect : Prop :=
  (∀ (acc : Sending) (r : LineReq) (o : LaneOp) (d : Nat), r.ops = [o] → o.old = none → o.off + o.len ≤ 64 →
    PerformsHere acc.s r d → PerformsHere (countLine acc.s r) r d →
    let a := d / 64 * 64 + o.off
    let s := countLine acc.s r
    let t := sendLine acc r
    t.waiting = acc.waiting ∧ t.ans.errs = acc.ans.errs ∧ t.s.hostMem = s.hostMem ∧
    (∀ n, o.act = .rd n → t.s.mem = s.mem ∧
      t.ans.got = acc.ans.got ++ [(o.key, overlay s (r.threadOf o) r.part r.ctx o.va (r.gpa / 64 * 64 + o.off)
        (Memory.readBytes s.mem a n))]) ∧
    (∀ bs, o.act = .wr bs → t.s.mem = Memory.writeBytes s.mem a bs ∧ t.ans.got = acc.ans.got) ∧
    (∀ op, o.act = .amo op →
      let old := Memory.readBytes s.mem a o.len
      t.s.mem = (if op.kind = .acas ∧ ofLe old ≠ op.cmp.toNat then s.mem
        else Memory.writeBytes s.mem a (leBytes o.len (atomNew op (ofLe old)))) ∧
      t.ans.got = acc.ans.got ++ if op.ret then [(o.key, old)] else [])) ∧
  (∀ (s : State) (r : LineReq), (r.cnt = none → countLine s r = s) ∧
    (∀ die, r.cnt = some die → countLine s r = countAccess s r.pkg die r.part r.gpa)) ∧
  (∀ (s s1 : State) (pkg die part gpa t : Nat) (L : LayoutEnt),
    (featureOn s pkg 11 = false → countAccess s pkg die part gpa = s) ∧
    (featureOn s pkg 11 = true → layoutOf s pkg part = some L → quietRead s pkg part (L.paging.toNat + 0x2C) 2 = (s1, some t) →
      let r := countIn (Tab.get [] (s1.pkgOf pkg).counters die) part (gpa >>> 16)
      r.2.count < (if t = 0 then 256 else t) →
      countAccess s pkg die part gpa = s1.updPkg pkg fun p => { p with counters := Tab.set p.counters die r.1 })) ∧
  (∀ (acc : Sending) (r : LineReq), locate acc.s r.pkg r.part r.gpa r.write = none →
    (sendLine acc r).waiting = acc.waiting + 1 ∧ (sendLine acc r).s.mem = acc.s.mem ∧
    ∃ h, (sendLine acc r).s.held = acc.s.held ++ [h] ∧ h.what = .line r) ∧
  (∀ (acc : Sending) (r : LineReq) (ha : Nat), locate acc.s r.pkg r.part r.gpa r.write = some (.host ha) →
    (r.cnt = none → (sendLine acc r).s.mem = acc.s.mem) ∧ (r.cnt = none → (sendLine acc r).s.hostMem = acc.s.hostMem) ∧
    ((acc.s.pkgOf r.pkg).linkUp = true → (∀ o ∈ r.ops, LaneOp.hostRefused o.act = false) →
      (sendLine acc r).waiting = acc.waiting + 1) ∧
    ((acc.s.pkgOf r.pkg).linkUp = false →
      (sendLine acc r).waiting = acc.waiting ∧
      (sendLine acc r).ans.errs = acc.ans.errs ++ r.ops.map fun o => (o.key, memNote 5 (r.gpa + o.off / 32 * 32) o.va)))

/-- Where a word may store. Sending line requests, each after what it must wait for, changes only the bytes that those sent
now store at their homes in the package, where none goes to a counted page (counting may add a notification: R89);
translating an access changes at most the eight bytes of its leaf entry, for A and D, and nothing where a cached
translation serves it; host memory and every core's SRAM are as before (R72, R161). -/
def Obligations.StoreFrame : Prop :=
  (∀ (I : Issuer) (id : Nat) (acc : Sending) (l : List LineReq) (a : Nat), (∀ r ∈ l, r.cnt = none) →
    outside a (storedAll I id acc l) →
    let t := l.foldl (fun acc r =>
      if heldBack acc.s I.u I.mask id || pieceBefore acc.s r acc.s.held.length then queueBehind acc r else postLine acc r) acc
    Memory.read t.s.mem a = Memory.read acc.s.mem a ∧ t.s.hostMem = acc.s.hostMem ∧ t.s.cores = acc.s.cores) ∧
  (∀ (s : State) (w : Who) (va : Nat) (write : Bool) (a : Nat),
    (∀ e place level d, (walk s w.pkg w.part w.ctx va).2 = .leaf e place level →
      locate (walk s w.pkg w.part w.ctx va).1 w.pkg w.part place true = some (.dev d) → a < d ∨ d + 8 ≤ a) →
    Memory.read (translate s w va write).1.mem a = Memory.read s.mem a) ∧
  (∀ (s : State) (w : Who) (va : Nat) (write : Bool) (e : TlbEnt), cachedEnt s w (va >>> 16) = some e →
    (write = true → e.d = true ∧ e.wb = false ∨ e.w = false) → (translate s w va write).1.mem = s.mem) ∧
  (∀ (s : State) (I : Issuer) (write whole : Bool) (rs : List MemReq) (dest : Dest) (acq : Nat) (mark : State → State)
      (t : State) (a : Nat),
    memIssue s I write whole rs dest acq mark = .done t →
    let x := translateAll s I write rs
    (∀ l ∈ groupLines x.2, l.cnt = false) →
    outside a (storedAll I x.1.nextId { s := sendFrom s I write rs mark } (lineRequests I write x.1.nextId x.2)) →
    Memory.read t.mem a = Memory.read (mark x.1).mem a)

/-! ## MEM: the scratchpad, PREF, CLEAN, fences and seals, and what returns -/

/-- LDS, STS and ATOMS complete in every form: the accesses are made thread by thread, in ascending order, at the
scratchpad offset or at the map element that va names; STS leaves no operation outstanding, LDS and ATOMS leave one
with what they read. One thread's store leaves its bytes at the offset from the block's base, its atomic the new value of
R168, its load gives the bytes that stand there, and every other byte of the SRAM is as before; each thread's access is made in
the state that the earlier ones leave (R165, R166). PREF completes with no fault, whatever its lines' translations are, and brings each line
that it can, once, into its home bank; CLEAN completes where every line is translated, and the copies of its lines that
are not pinned are no longer dirty (R171, R149). -/
def Obligations.ScratchAndLineWordsComplete : Prop :=
  ((∀ (f : MS) (s : State) (I : Issuer), QuireIssues s (.sts f) I →
     let b := 2 ^ f.width
     let n := regsOfWidth f.width
     let m := Tab.get 0 (s.coreOf I.blk.core).t f.t.toNat
     ScratchReady s I f b n true false →
     Completes (.sts f) s I
       (scratchRun s I (I.threads.map fun i => (i, scratchAt I f m i)) fun i =>
         .wr (leBytes b (I.maj (I.group f.data.toNat n) i))).1) ∧
   (∀ (f : MS) (s : State) (I : Issuer) (i : Instr) (b n : Nat) (sx rd : Bool),
     (i, b, n, sx, rd) ∈ [(Instr.lds f, 2 ^ f.width, regsOfWidth f.width, f.sx == 1, false), (Instr.atoms f, 4, 1, false, true)] →
     QuireIssues s i I → ScratchReady s I f b n rd true →
     let m := Tab.get 0 (s.coreOf I.blk.core).t f.t.toNat
     let act := fun t => if rd then LaneAct.amo { kind := .atom, op := f.hi.toNat, w64 := false
                                                  v := BitVec.ofNat 64 (I.maj (I.group f.data.toNat 1) t) }
       else .rd b
     let r := scratchRun { (emptyGroup s I f.data.toNat n) with nextId := s.nextId + 1 } I
       (I.threads.map fun i => (i, scratchAt I f m i)) act
     let op : PendOp :=
       { unit := I.u, dest := .vreg f.data.toNat n b sx, ter := I.ter, keys := I.threads, waiting := 0
         got := r.2.got, errs := r.2.errs, lanes := I.mask }
     Completes i s I { r.1 with ops := Tab.set r.1.ops s.nextId op }) ∧
   (∀ (s : State) (I : Issuer) (act : Nat → LaneAct) (t o : Nat),
     let c := s.coreOf I.blk.core
     let a := I.blk.scratchBase + o
     let r := scratchRun s I [(t, o)] act
     let m := (r.1.coreOf I.blk.core).sram
     (∀ n, act t = .rd n → c.sramBad a n = false → m = c.sram ∧ r.2.got = [(t, Memory.readBytes c.sram a n)]) ∧
     (∀ bs, act t = .wr bs → c.sramBad a bs.length = false → m = Memory.writeBytes c.sram a bs ∧ r.2.got = []) ∧
     (∀ op, act t = .amo op → op.kind = .atom → op.w64 = false → c.sramBad a 4 = false →
       let old := Memory.readBytes c.sram a 4
       m = Memory.writeBytes c.sram a (leBytes 4 (atomInt op.op 32 (ofLe old) op.v.toNat)) ∧ r.2.got = [(t, old)])) ∧
   (∀ (s : State) (I : Issuer) (act : Nat → LaneAct) (l : List (Nat × Nat)) (x : Nat × Nat),
     let r := scratchRun s I l act
     let q := scratchRun r.1 I [x] act
     let w := scratchRun s I (l ++ [x]) act
     (w.1.coreOf I.blk.core).sram = (q.1.coreOf I.blk.core).sram ∧ w.2.got = r.2.got ++ q.2.got)) ∧
  ((∀ (f : MV) (s : State) (I : Issuer), QuireIssues s (.pref f) I → f.sb.toNat % 2 = 0 → I.vOk f.va.toNat 1 = true →
     Full (mvSrcs f I) →
     let r := prefLines s I (prefThreads I f)
     (r.2.any fun x => bankScrubbed r.1 I.blk.pkg I.blk.part x.1) = false →
     Completes (.pref f) s I (r.2.foldl (fun s x => prefLine s I x.1) (countLines r.1 I r.2))) ∧
   (∀ (s : State) (I : Issuer) (line : Nat), (prefLine s I line).mem = s.mem) ∧
   (∀ (f : MV) (s : State) (I : Issuer), QuireIssues s (.clean f) I → f.sb.toNat % 2 = 0 → I.vOk f.va.toNat 1 = true →
     Full (mvSrcs f I) → Agree I [mvAddr f I] →
     let t := translateAll s I false (eachThread I (mvAddr f I) fun _ => .rd 1)
     verdict t.1 I false false t.2 = .go →
     Completes (.clean f) s I (t.2.foldl (fun s x => cleanLine s I x)
       (countLines t.1 I ((groupLines t.2).map fun l => (l.line, l.cnt))))) ∧
   (∀ (s : State) (I : Issuer) (x : Located), (cleanLine s I x).mem = s.mem))

/-- FENCE, PFENCE and AFENCE wait; FENCE_COMPLETE ends the wait once no access of the threads
that the scope carries is owed, and at once at scopes below PART. SEAL and UNSEAL wait with their region; once no access of
the threads is owed, SEAL_EFFECT ends SEAL when no write to the region is in flight, and the region's frames are sealed;
UNSEAL_EFFECT ends UNSEAL, and the named region ceases to be sealed (R185 to R190). A fence of a scope below SYS does not
wait for an access to host memory (R178, R186). -/
def Obligations.FencesAndSealsComplete : Prop :=
  (∀ (f : MF) (s : State) (I : Issuer), QuireIssues s (.fence f) I →
    WaitsAs (.fence f) s I s (.fence f.scope.toNat false 0 0)) ∧
  (∀ (s : State) (I : Issuer), QuireIssues s .pfence I → WaitsAs .pfence s I s (.fence 5 false 0 0)) ∧
  (∀ (f : MF) (s : State) (I : Issuer), QuireIssues s (.afence f) I → f.sb.toNat % 2 = 0 → f.sl.toNat % 2 = 0 →
    Full (I.srcS2 f.sb.toNat ++ I.srcS2 f.sl.toNat) → (I.s2 f.sb.toNat).toNat < 2 ^ 52 →
    (I.s2 f.sb.toNat).toNat + (I.s2 f.sl.toNat).toNat ≤ 2 ^ 52 →
    WaitsAs (.afence f) s I s (.fence 5 true (I.s2 f.sb.toNat).toNat (I.s2 f.sl.toNat).toNat)) ∧
  (∀ (s : State) (I : Issuer) (sc base len : Nat) (af : Bool), WaitsFor s I (.fence sc af base len) →
    fencePending s I (I.scope sc) = false →
    Completes .fenceComplete s I (if af then fenceAlias s I.aliasThreads base len else countClamp s I sc)) ∧
  (∀ (f : MF) (s t : State) (I : Issuer) (fs : List Nat), QuireIssues s (.seal f) I → f.sb.toNat % 2 = 0 →
    f.sl.toNat % 2 = 0 → Full (I.srcS2 f.sb.toNat ++ I.srcS2 f.sl.toNat) →
    sealCheck s I (I.s2 f.sb.toNat).toNat (I.s2 f.sl.toNat).toNat = .inr (t, fs) →
    WaitsAs (.seal f) s I t (.seal (I.s2 f.sb.toNat).toNat (I.s2 f.sl.toNat).toNat)) ∧
  (∀ (s t : State) (I : Issuer) (base len : Nat) (fs : List Nat), WaitsFor s I (.seal base len) →
    fencePending s I 7 = false → sealCheck s I base len = .inr (t, fs) → writesInFlight s I.blk.part fs = false →
    Completes .sealEffect s I (t.updPart I.blk.part fun P =>
      { P with seals := P.seals ++ [{ base := base, len := len, frames := fs, ctx := I.blk.ctx }] })) ∧
  (∀ (f : MF) (s : State) (I : Issuer), QuireIssues s (.unseal f) I → f.sb.toNat % 2 = 0 → f.sl.toNat % 2 = 0 →
    Full (I.srcS2 f.sb.toNat ++ I.srcS2 f.sl.toNat) →
    (sealNamed s I.blk.part (I.s2 f.sb.toNat).toNat (I.s2 f.sl.toNat).toNat).isSome = true →
    WaitsAs (.unseal f) s I s (.unseal (I.s2 f.sb.toNat).toNat (I.s2 f.sl.toNat).toNat)) ∧
  (∀ (s : State) (I : Issuer) (base len : Nat) (r : Seal), WaitsFor s I (.unseal base len) →
    fencePending s I 7 = false → sealNamed s I.blk.part base len = some r →
    Completes .unsealEffect s I (s.updPart I.blk.part fun P => { P with seals := P.seals.erase r })) ∧
  (∀ (s : State) (I : Issuer) (sc : Nat), sc < 5 → fencePending s I sc = false) ∧
  (∀ (s : State) (I : Issuer) (sc : Nat), sc < 7 → matWrites s I.u s.nextId = false → s.held = [] →
    (∀ m ∈ s.msgs, ∃ ha, m.2.tgt = .host ha) → (∀ e ∈ s.ops, e.2.waiting = 0 → e.2.dest = .none) →
    fencePending s I sc = false)

/-- Virtual aliases: where no view stands, a load returns memory's bytes. A store through a view's own page takes its
byte's place in the view; one through another page leaves the view's byte, and is newer. When stores are published to a
view's thread, each of its bytes takes the last such store to it, and none of them stays unseen. After an AFENCE of the
writer over the byte and a later one of the reader, or one that serves as both, the view holds the stored byte (R184). -/
def Obligations.AliasReads : Prop :=
  (∀ (s : State) (r : LineReq) (m : List Host.Cell) (place : Nat), s.views = [] → r.seen s m place = r.ops) ∧
  (∀ (v : View) (w : ThreadId) (ctx : Word) (va off : Nat) (b : Byte), off < v.bytes.length →
    let t := v.store w (some (ctx, va)) off b
    (v.ctx = ctx ∧ v.vpage = va >>> 16 →
      t.bytes[off]? = some b ∧ (∀ i, i ≠ off → t.bytes[i]? = v.bytes[i]?) ∧ ∀ e ∈ t.newer, e.off ≠ off) ∧
    (v.ctx ≠ ctx ∨ v.vpage ≠ va >>> 16 → t.bytes = v.bytes ∧ ∃ e, t.newer = v.newer ++ [e] ∧ e.off = off ∧ e.val = b ∧
      e.writer = w ∧ e.va = va ∧ e.fenced = false)) ∧
  (∀ (v : View) (f : NewerStore → Bool) (old late : List NewerStore) (e : NewerStore), v.newer = old ++ e :: late →
    e.off < v.bytes.length → f e = true → (∀ x ∈ late, x.off = e.off → f x = false) →
    (v.publish f).bytes[e.off]? = some e.val) ∧
  (∀ (v : View) (f : NewerStore → Bool), (∀ x ∈ (v.publish f).newer, f x = false) ∧
    ∀ i, (∀ x ∈ v.newer, x.off = i → f x = false) → (v.publish f).bytes[i]? = v.bytes[i]?) ∧
  (∀ (v : View) (w : ThreadId) (ctx : Word) (va off : Nat) (b : Byte) (base len base' len' : Nat), off < v.bytes.length →
    v.ctx ≠ ctx ∨ v.vpage ≠ va >>> 16 → within base len va = true → within base' len' (v.addr off) = true →
    let t := v.store w (some (ctx, va)) off b
    ((t.fence [w] base len).fence [v.thread] base' len').bytes[off]? = some b ∧
    (w = v.thread → within base len (v.addr off) = true → (t.fence [w] base len).bytes[off]? = some b))

/-- LOAD_RETURN of a vector load of a base register, all of whose data came: lane by lane the threads of the load hold
the bytes that answered them, sign- or zero-extended to 32 bits, the other lanes are kept, the register is full; of an
x register: the eight bytes. The operation is gone, memory is as before (R160, R163, R318). -/
def Obligations.LoadReturnDelivers : Prop :=
  (∀ (s : State) (op : PendOp) (b q sl r bytes : Nat) (sx : Bool) (Q : Quire), Tab.find s.ops s.subject.idx = some op →
    op.unit = .slot b q sl → op.dest = .vreg r 1 bytes sx → op.waiting = 0 → op.errs = [] → r < 64 →
    Tab.find s.quires (quireKey b q) = some Q →
    ∃ t Q', exec .loadReturn s = .next t ∧ t.mem = s.mem ∧ t.ops = Tab.del s.ops s.subject.idx ∧
      Tab.find t.quires (quireKey b q) = some Q' ∧ { Q' with v := Q.v } = Q ∧
      (∀ n, n ≠ r → Tab.get {} Q'.v n = Tab.get {} Q.v n) ∧
      (Tab.get {} Q'.v r).full = true ∧ (Tab.get {} Q'.v r).note = none ∧
      ∀ l, l < 96 → (Tab.get {} Q'.v r).at l =
        if (maskOfThreads op.ter op.keys.eraseDups).getLsbD l then
          BitVec.ofNat 32 (extendLoad bytes sx (gotBytes op.got (threadOf op.ter l)))
        else (Tab.get {} Q.v r).at l) ∧
  (∀ (s : State) (op : PendOp) (b r : Nat) (B : Block), Tab.find s.ops s.subject.idx = some op → op.unit = .front b →
    op.dest = .xreg r true false → op.waiting = 0 → op.errs = [] → r ≠ 0 → Tab.find s.blocks b = some B →
    ∃ t B', exec .loadReturn s = .next t ∧ t.mem = s.mem ∧ t.ops = Tab.del s.ops s.subject.idx ∧
      Tab.find t.blocks b = some B' ∧ { B' with front := { B'.front with x := B.front.x } } = B ∧
      (∀ n, n ≠ r → Tab.get { val := 0 } B'.front.x n = Tab.get { val := 0 } B.front.x n) ∧
      Tab.get { val := 0 } B'.front.x r = { val := BitVec.ofNat 64 (gotBytes op.got 0) }) ∧
  (∀ (s : State) (op : PendOp), Tab.find s.ops s.subject.idx = some op → op.waiting = 0 → op.dest ≠ .none →
    (∀ a b, op.dest ≠ .msigx a b) → exec .loadReturn s = .next { deliver s op with ops := Tab.del s.ops s.subject.idx })

/-! ## MAT -/

/-- The thirteen MAT words complete: each takes its operands as they stand and enters the core's matrix queue, with the
writes that it will make: MMAB and MMAH the accumulated tile; MMAS8 and MMAS4 the tile with its residue words advanced,
or with the block closed; MCVT the closed tile; MZERO a tile of zeros that keeps COUNT; MLDA the loaded tile; MSTA and
MDRS scratchpad bytes; MDRV eight v registers, now empty; MDRV, MDRS and MSIG fold plane 0 into the signature; MTRIP
sets the quire's matrix mode at once; MSIGX issues its access. A word fails when a plane that it reads, or an element of an
operand, has an uncorrectable word; RES values that MLDA loads become canonical, and FP32 and RES drains copy bit for bit (the
model's choice of log 119) (R293 to R306). -/
def Obligations.MatrixWordsComplete : Prop :=
  (∀ (f : MM) (s : State) (I : Issuer) (i : Instr) (F : Fmt) (code : Nat),
    (i, F, code) ∈ [(Instr.mmab f, bf16, 0), (Instr.mmah f, fp16, 1)] → MatReady s i I f.ad →
    let n := if I.qr.mtrip == 2 then 3 else 1
    let t := tileNow s I f.ad
    OperandsOk s I f n 16 16 16 16 code → t.resOpen = false →
    Completes i s I (queueMat s I
      { b := 0, q := 0, sl := 0
        tile := some (I.phys f.ad, mmTile I (s.coreOf I.blk.core) t f.ad F (I.tmap s f.ta.toNat) (I.tmap s f.tb.toNat))
        used := some (I.phys f.ad, true)
        failed := t.badIn (t.reads (if I.qr.mtrip = 0 then 1 else 3)) || operandsBad s I f n 16 16 16 16 })) ∧
  (∀ (f : MM) (s : State) (I : Issuer) (i : Instr) (w K code : Nat),
    (i, w, K, code) ∈ [(Instr.mmas8 f, 8, 32, 3), (Instr.mmas4 f, 4, 64, 4)] → MatReady s i I f.ad →
    let t := tileNow s I f.ad
    let res := sliceRes I (s.coreOf I.blk.core) t (I.tmap s f.ta.toNat) (I.tmap s f.tb.toNat) w K
    OperandsOk s I f 1 16 K K 16 code → scaleOk I f = true → I.qr.mtrip = 0 → t.trip = false →
    (code = 4 → tmTr (I.tmap s f.ta.toNat) = false ∧ tmTr (I.tmap s f.tb.toNat) = false) → Full (scaleSrcs f I) →
    Completes i s I (queueMat s I
      { b := 0, q := 0, sl := 0
        tile := some (I.phys f.ad, if f.sel = 31 then
            { elems := planeElems 2 fun j e => if j == 0 then t.at 0 e else res e, count := t.bump, resOpen := true
              bad := t.bad.filter (· == 0) }
          else closeTile I f t res)
        used := some (I.phys f.ad, true)
        failed := t.badIn ((if f.sel = 31 then [] else [0]) ++ if t.resOpen then [1] else []) ||
          operandsBad s I f 1 16 K K 16 })) ∧
  (∀ (f : MM) (s : State) (I : Issuer), MatReady s (.mcvt f) I f.ad → f.sel ≠ 31 → scaleOk I f = true → I.qr.mtrip = 0 →
    (tileNow s I f.ad).resOpen = true → Full (scaleSrcs f I) →
    Completes (.mcvt f) s I (queueMat s I
      { b := 0, q := 0, sl := 0, tile := some (I.phys f.ad, closeTile I f (tileNow s I f.ad) (tileNow s I f.ad).res)
        used := some (I.phys f.ad, true), failed := (tileNow s I f.ad).badIn [0, 1] })) ∧
  (∀ (f : MM) (s : State) (I : Issuer), MatReady s (.mzero f) I f.ad →
    Completes (.mzero f) s I (queueMat s I
      { b := 0, q := 0, sl := 0, tile := some (I.phys f.ad, { count := (tileNow s I f.ad).count, keep := true })
        used := some (I.phys f.ad, false) })) ∧
  (∀ (f : MM) (s : State) (I : Issuer), MatReady s (.mlda f) I f.ad →
    let m := I.tmap s f.ta.toNat
    let t := tileNow s I f.ad
    let ld := fun (j e : Nat) => BitVec.ofNat 32 (mapElem (s.coreOf I.blk.core) I.blk m j (e / 16) (e % 16))
    (moveRegion m).ok I.blk.scratchLen [2, 5] = true → (if tmFmt m = 2 then t.resOpen = false else t.trip = false) →
    Completes (.mlda f) s I (queueMat s I
      { b := 0, q := 0, sl := 0
        tile := some (I.phys f.ad, if tmFmt m = 2 then
            { elems := planeElems (fpPlanes m) ld, count := t.count, trip := fpPlanes m == 3 }
          else { elems := planeElems 2 fun j e => if j == 0 then t.at 0 e else resAdd (ld 0 e) 0, count := t.count, resOpen := true
                 bad := t.bad.filter (· == 0) })
        used := some (I.phys f.ad, true)
        failed := (moveRegion m).bad (s.coreOf I.blk.core) I.blk })) ∧
  (∀ (f : MM) (s : State) (I : Issuer), MatReady s (.msta f) I f.ad →
    let m := I.tmap s f.ta.toNat
    let t := tileNow s I f.ad
    (moveRegion m).ok I.blk.scratchLen [2, 5] = true → tmFmt m = 2 ∨ t.resOpen = true →
    Completes (.msta f) s I (queueMat s I
      { b := 0, q := 0, sl := 0, failed := t.badIn (if tmFmt m = 5 then [1] else t.reads (moveRegion m).planes)
        scratch := regionBytes I.blk (moveRegion m) fun j e => if tmFmt m == 5 then (t.res e).toNat else (t.at j e).toNat })) ∧
  (∀ (f : MM) (s : State) (I : Issuer), MatReady s (.mdrv f) I f.ad → I.vOk f.vs.toNat 8 = true →
    Free ((List.range 8).map fun i => I.srcV (f.vs.toNat + i)) →
    let t := tileNow s I f.ad
    Completes (.mdrv f) s I (queueMat ((List.range 8).foldl (fun s i => emptyV s I (f.vs.toNat + i)) s) I
      { b := 0, q := 0, sl := 0
        vregs := (List.range 8).map fun i =>
          (f.vs.toNat + i, (List.range 96).map fun l => t.at (if t.resOpen then 0 else l % 3) (32 * i + l / 3))
        fold := some t.plane0, failed := t.badIn (if t.resOpen then [0] else t.reads 3) })) ∧
  (∀ (f : MM) (s : State) (I : Issuer), MatReady s (.mdrs f) I f.ad →
    let t := tileNow s I f.ad
    let g := drainRegion s I f t
    let c : Nat → Nat → Conv := fun j e => drainElem I g.m t j e
    (drainRegion s I f {}).ok I.blk.scratchLen [0, 1, 2, 3, 4, 5, 6] = true →
    g.ok I.blk.scratchLen [0, 1, 2, 3, 4, 5, 6] = true → tmFmt g.m ≠ 5 ∨ t.resOpen = true →
    ∃ m, Completes (.mdrs f) s I (queueMat s I m) ∧ m.tile = none ∧ m.used = none ∧ m.vregs = [] ∧ m.msigx = none ∧
      m.fold = some t.plane0 ∧ m.failed = t.badIn (if tmFmt g.m = 5 then [0, 1] else t.reads g.planes) ∧ m.scratch = drainBytes I.blk g (fun j e => (c j e).out) ∧
      (m.ovf = 0 ∨ m.ovf = 1#32 <<< (tmTensor g.m % 32)) ∧
      (m.ovf ≠ 0 ↔ ∃ j e, j < g.planes ∧ e < 256 ∧ drainNonfin g.m (c j e) = true)) ∧
  (∀ (f : MM) (s : State) (I : Issuer), MatReady s (.msig f) I f.ad →
    Completes (.msig f) s I (queueMat s I
      { b := 0, q := 0, sl := 0, fold := some (tileNow s I f.ad).plane0, failed := (tileNow s I f.ad).badIn [0] })) ∧
  (∀ (f : MM) (s : State) (I : Issuer), QuireIssues s (.mtrip f) I → I.mask = I.qr.live →
    Completes (.mtrip f) s I (s.updQuire I.key fun Q => { Q with mtrip := f.vs.toNat % 4 })) ∧
  (∀ (f : MM) (s : State) (I : Issuer) (i : Instr) (cmp : Bool),
    (i, cmp) ∈ [(Instr.msigxSt f, false), (Instr.msigxCmp f, true)] → QuireIssues s i I → I.mask = I.qr.live →
    let r := f.vs.toNat % 32
    let rs : List MemReq := [{ key := 0, thread := I.threads.headD 0, va := (I.s2 r).toNat
                               act := if cmp then .rd 8 else .wr (leBytes 8 I.qr.sigv.toNat) }]
    r % 2 = 0 → Full (I.srcS2 r) → (I.s2 r).toNat % 8 = 0 →
    (∀ m ∈ (s.coreOf I.blk.core).matQ, m.b = I.b → m.q = I.q → m.fold = none) → Reaches s I (!cmp) true rs →
    Performs i s I (!cmp) true rs (if cmp then .msigx (I.s2 r) I.qr.sigv else .none) 0 fun s' =>
      queueAs s' I s.nextId { b := 0, q := 0, sl := 0, msigx := some (s.nextId, I.s2 r, bits I.qr.tctl.toNat 2 2 == 2) })

/-- Residue arithmetic is exact: adding an integer to a residue word adds it in each of the three channels, modulo 256,
255 and 253; a K-slice adds the exact dot product; and a residue word whose channels are those of an integer in the
symmetric range of 256 × 255 × 253 stands for that integer (R208, R298, R299). -/
def Obligations.ResidueArithmetic : Prop :=
  (∀ (w : Word) (d : Int),
    (bits (resAdd w d).toNat 0 8 : Int) = ((bits w.toNat 0 8 : Int) + d) % 256 ∧
    (bits (resAdd w d).toNat 8 8 : Int) = ((bits w.toNat 8 8 : Int) + d) % 255 ∧
    (bits (resAdd w d).toNat 16 8 : Int) = ((bits w.toNat 16 8 : Int) + d) % 253) ∧
  (∀ (f : MM) (s : State) (I : Issuer) (w K e : Nat),
    let t := tileNow s I f.ad
    sliceRes I (s.coreOf I.blk.core) t (I.tmap s f.ta.toNat) (I.tmap s f.tb.toNat) w K e =
      resAdd (if t.resOpen then t.res e else 0) (dotProduct s I f w K (e / 16) (e % 16))) ∧
  (∀ d : Int, -8257920 ≤ d → d ≤ 8257919 → crt (resAdd 0 d).toNat = d)

/-- MAT_RETIRE: an instruction of a core's matrix queue before which only MSIGX words stand retires. Not failed: its tile,
its USED bit, its scratchpad bytes, its v registers, its fold, its statistics and its overflow flags take effect, and no
other tile, scratchpad byte, v register or memory byte changes. Failed: no tile and no scratchpad byte changes, its v
registers are full again with their old values, and its slot owes MEMERR of core SRAM. An MSIGX whose access has completed
retires: equal data changes nothing else; other data sets SIGMIS and, where the condition traps, owes SIG_MISMATCH; for
data that did not come the trap of its access is owed, before the unit's next word (log 120). Then every MFSR that waited for it takes its value (R294, R295, R306, R372). -/
def Obligations.MatrixRetirement : Prop :=
  (∀ (s : State) (m : MatOp), (s.coreOf s.subject.idx).matQ[s.subject.sub]? = some m → m.msigx = none →
    (∀ x ∈ (s.coreOf s.subject.idx).matQ.take s.subject.sub, x.msigx ≠ none) → m.failed = false →
    let c := s.subject.idx
    let t := matEffects (popMat s c s.subject.sub) c m
    exec .matRetire s = .next (captureSr t) ∧ t.mem = s.mem ∧ t.hostMem = s.hostMem ∧
      (t.coreOf c).matQ = (s.coreOf c).matQ.take s.subject.sub ++ (s.coreOf c).matQ.drop (s.subject.sub + 1) ∧
      (∀ p, Tab.get {} (t.coreOf c).tiles p = match m.tile with
        | some x => if p = x.1 then x.2 else Tab.get {} (s.coreOf c).tiles p
        | none => Tab.get {} (s.coreOf c).tiles p) ∧
      (∀ p, p < 16 → (t.coreOf c).accUsed.getLsbD p =
        if m.used.map (·.1) = some p then m.used.any (·.2) else (s.coreOf c).accUsed.getLsbD p) ∧
      (∀ a, Memory.read (t.coreOf c).sram a ≠ Memory.read (s.coreOf c).sram a → ∃ x ∈ m.scratch, x.1 = a) ∧
      ((s.coreOf c).badSram = [] → (t.coreOf c).sram = m.scratch.foldl (fun l x => Memory.write l x.1 x.2) (s.coreOf c).sram) ∧
      (∀ Q, Tab.find s.quires (quireKey m.b m.q) = some Q → ∃ Q', Tab.find t.quires (quireKey m.b m.q) = some Q' ∧
        Q'.sigv = (match m.fold with
          | some ws => sigFold Q.sigv ws
          | none => Q.sigv) ∧
        (∀ r, r < 64 → Tab.find Q'.v r = match m.vregs.reverse.find? (·.1 == r) with
          | some x => some { lanes := x.2 }
          | none => Tab.find Q.v r) ∧
        { Q' with v := Q.v, sigv := Q.sigv } = Q) ∧
      (∀ B, Tab.find s.blocks m.b = some B → ∃ B', Tab.find t.blocks m.b = some B' ∧ B'.ovf = B.ovf ||| m.ovf ∧
        ∀ tensor, Tab.get [0, 0, 0, 0, 0, 0] B'.stats tensor =
          let old := Tab.get [0, 0, 0, 0, 0, 0] B.stats tensor
          match m.stat with
          | some (T, sat, nan) =>
            if tensor = T ∧ (sat ≠ 0 ∨ nan ≠ 0) then
              let up := if sat = 0 then old else old.set 0 (old.getD 0 0 + sat)
              if nan = 0 then up else up.set 2 (up.getD 2 0 + nan)
            else old
          | none => old)) ∧
  (∀ (s : State) (m : MatOp) (st : Strand), (s.coreOf s.subject.idx).matQ[s.subject.sub]? = some m → m.msigx = none →
    (∀ x ∈ (s.coreOf s.subject.idx).matQ.take s.subject.sub, x.msigx ≠ none) → m.failed = true →
    unitStrand s (.slot m.b m.q m.sl) = some st →
    let t := matFails (popMat s s.subject.idx s.subject.sub) m
    exec .matRetire s = .next (captureSr t) ∧ t.mem = s.mem ∧
      t.cores = (popMat s s.subject.idx s.subject.sub).cores ∧
      (∀ Q, Tab.find s.quires (quireKey m.b m.q) = some Q → ∃ Q', Tab.find t.quires (quireKey m.b m.q) = some Q' ∧
        ∀ r, r < 64 → Tab.get {} Q'.v r =
          if m.vregs.any (·.1 == r) then { Tab.get {} Q.v r with full := true, note := none } else Tab.get {} Q.v r) ∧
      unitStrand t (.slot m.b m.q m.sl) = some { st with due := st.due ++ [matErr m] }) ∧
  (∀ (s : State) (m : MatOp) (id : Nat) (a v addr : DWord) (trapOn : Bool) (op : PendOp),
    (s.coreOf s.subject.idx).matQ[s.subject.sub]? = some m → m.msigx = some (id, a, trapOn) →
    Tab.find s.ops id = some op → op.waiting = 0 → op.dest = .msigx addr v →
    let s' := { s with ops := Tab.del s.ops id }
    let u := UnitId.slot m.b m.q m.sl
    let then_ := fun t => exec .matRetire s = .next (captureSr (popMat t s.subject.idx s.subject.sub))
    (op.errs = [] → gotBytes op.got 0 = v.toNat → then_ s') ∧
    (op.errs = [] → gotBytes op.got 0 ≠ v.toNat → trapOn = false → then_ (sigMismatch s' u addr)) ∧
    (op.errs = [] → gotBytes op.got 0 ≠ v.toNat → trapOn = true →
      then_ (updStrand (sigMismatch s' u addr) u fun c =>
        { c with pend := c.pend ++ [{ cause := .sigMismatch, info := addr &&& 0xFFFFFFFFFFFFF#64 }] })) ∧
    (∀ e l, op.errs = e :: l →
      then_ (updStrand s' u fun c => { c with pend := c.pend ++ [{ noteTrap 0 e.2 with mask := none }] }))) ∧
  (∀ (s : State) (m : MatOp) (id : Nat) (a : DWord) (trapOn : Bool),
    (s.coreOf s.subject.idx).matQ[s.subject.sub]? = some m → m.msigx = some (id, a, trapOn) → Tab.find s.ops id = none →
    exec .matRetire s = .next (captureSr (popMat s s.subject.idx s.subject.sub)))

/-! ## ENG -/

/-- The ENG words complete: a data command of queues q8 to q11 with valid operands and a pair that holds fewer than
sixteen commands enters its pair as a queued operation of the engine that the node names; CARB sets the partition's
weights; CWAIT and CPOLL empty their four destinations and wait at their completion queue (R111 to R113, R115, R122,
R123, R141). -/
def Obligations.EngineWordsComplete : Prop :=
  (∀ (f : EE) (s : State) (I : Issuer) (i : Instr) (opc : Nat) (regs : List (BitVec 5)) (ok : Bool)
      (c : DWord × DWord × DWord × DWord × DWord), (i, opc, regs, ok, c) ∈ engWords s I f → Issues s i I →
    (opc = 12 → I.st.level ≠ .u) → 8 ≤ f.q.toNat → f.q.toNat ≤ 11 → (∀ r ∈ regs, I.pairOk r.toNat = true) →
    Full (regs.flatMap fun r => I.src64 r.toNat) → ok = true → tagOk c.2.2.2.1 = true →
    (Tab.get [] I.blk.pairs f.q.toNat).length < 16 →
    Completes i s I (forkEngine s I f.q.toNat opc c.1 c.2.1 c.2.2.1 c.2.2.2.1 c.2.2.2.2)) ∧
  (∀ (s : State) (I : Issuer) (q opc : Nat) (a b c d m : DWord) (B : Block), Tab.find s.blocks I.b = some B →
    let t := forkEngine s I q opc a b c d m
    ∃ e B', Tab.find t.engs s.nextId = some e ∧ e.opc = opc ∧ e.ra = a ∧ e.rb = b ∧ e.rc = c ∧ e.tag = d ∧ e.level = I.st.level ∧
      e.phase = .queued ∧ (e.pkg, e.eng) = copyEngineOf s I.blk q ∧ Tab.find t.blocks I.b = some B' ∧
      Tab.get [] B'.pairs q = Tab.get [] B.pairs q ++ [{ op := s.nextId }] ∧ t.mem = s.mem ∧ t.cores = s.cores) ∧
  (∀ (f : EE) (s : State) (I : Issuer), Issues s (.carb f) I → I.st.level ≠ .u → f.q = 0 → I.pairOk f.ra.toNat = true →
    Full (I.src64 f.ra.toNat) → (I.r64 f.ra.toNat).toNat < 65536 →
    Completes (.carb f) s I (s.updPart I.blk.part fun P => { P with carb := (I.r64 f.ra.toNat).setWidth 16 })) ∧
  (∀ (f : EE) (s : State) (I : Issuer) (i : Instr) (poll : Bool), (i, poll) ∈ [(Instr.cwait f, false), (Instr.cpoll f, true)] →
    Issues s i I →
    let ds := [f.ra.toNat, f.rb.toNat, f.rc.toNat, f.rd.toNat]
    let named := if I.fe then ds.filter (· != 0) else ds
    12 ≤ f.q.toNat → (∀ r ∈ ds, I.pairOk r = true) → named.Nodup → Free (ds.flatMap I.src64) →
    Completes i s I ((ds.foldl (fun s r => empty64 s I r) s).updBlock I.b fun B =>
      { B with pops := B.pops ++ [{ unit := I.u, q := f.q.toNat, dests := ds, poll := poll, bank := !I.atU }] }))

/-- The steps of an engine complete. ENGINE_COMMAND_START: the first queued command of its pair, whose engine runs fewer
than eight and whose issuer's earlier accesses are performed, starts; one that stands in an uncorrectable word of its queue
ends with cause 4. ENGINE_COMPLETION: a running operation that runs to its end, or meets a fault, ends with its status,
cause and address in its record, and destination bytes that a fault leaves unwritten hold free old or new values.
CWAIT_POP: the oldest pop of a completion queue takes the record at the queue's head, or a note where that is
uncorrectable; a CPOLL that finds none gives the empty record. MIGR_DRAIN_DONE copies the page, and SWEEP_COMPLETE goes on,
once nothing is on its way. A COLL meets a neighbour in start order, sends and receives where its accesses answer, and
PEER_TIMEOUT ends one that a neighbour owes with cause 12. What CPY and FILL leave: their writes cover the destination, take
each byte of the source, or of the pattern repeated, to its place, and a run that ends has made them all, each line access
writing the bytes of its writes one after another (R59, R91, R114, R116, R117, R119 to R123, R126, R129, R137 to R140). -/
def Obligations.EngineStepsComplete : Prop :=
  (∀ (s : State) (e : EngOp), Tab.find s.engs s.subject.idx = some e → e.phase = .queued →
    (∀ x ∈ s.engs, x.1 < s.subject.idx → x.2.b = e.b → x.2.q = e.q → x.2.phase ≠ .queued) →
    engineLoad s e.pkg e.eng < 8 → engineBarred s e.pkg e.eng false = false → engHeld s s.subject.idx = false →
    unperformed s e.unit (BitVec.allOnes 96) s.subject.idx 7 = false →
    Answers .engineCommandStart s (engBegin s s.subject.idx e) ∧
    (commandBad s s.subject.idx e = false → e.opc < 8 → engBegin s s.subject.idx e = startedAs s s.subject.idx e) ∧
    (commandBad s s.subject.idx e = true → ∃ x, Tab.find (engBegin s s.subject.idx e).engs s.subject.idx = some x ∧
      x.phase = .ended ∧ x.status = 1 ∧ x.cause = 4 ∧ (engBegin s s.subject.idx e).mem = s.mem)) ∧
  (∀ (s : State) (e : EngOp) (x : EngEnd), Tab.find s.engs s.subject.idx = some e → e.phase = .running →
    engHeld s s.subject.idx = false → (engRun s e).2.2 = .ends x →
    Answers .engineCompletion s (engFinish (engRun s e).1 s.subject.idx ((engRun s e).2.1.ends x))) ∧
  (∀ (s : State) (e : EngOp) (c r a : Nat), Tab.find s.engs s.subject.idx = some e → e.phase = .running →
    engHeld s s.subject.idx = false → (engRun s e).2.2 = .stops (.fault c r a) →
    Answers .engineCompletion s (engFinish (engMix (engRun s e).1 (engRun s e).2.1) s.subject.idx
      ((engRun s e).2.1.ends { status := 1, cause := c, reason := r, addr := a }))) ∧
  (∀ (s : State) (e : EngOp), Tab.find s.engs s.subject.idx = some e → e.phase = .ended → e.tag.getLsbD 63 = false →
    engHeld s s.subject.idx = false → engPending s s.subject.idx = false → Answers .engineCompletion s (engFinish s s.subject.idx e)) ∧
  (∀ (s : State) (id : Nat) (e : EngOp) (B : Block), e.tag.getLsbD 63 = false → engPending s id = false →
    Tab.find s.blocks e.b = some B → ∃ B', Tab.find (engFinish s id e).blocks e.b = some B' ∧ (engFinish s id e).mem = s.mem ∧
      Tab.find (engFinish s id e).engs id = none ∧
      Tab.get [] B'.pairs e.q =
        (Tab.get [] B.pairs e.q).map fun p => if p.op == id then { p with record := some (e.record false) } else p) ∧
  (∀ (s : State) (B : Block) (p : PopWait), Tab.find s.blocks s.subject.idx = some B →
    B.pops.find? (fun p => p.q == s.subject.sub) = some p →
    let q := s.subject.sub
    let popped := fun (t : State) (l : List PairEnt) (bad : List (Nat × Nat × Nat)) => t.updBlock s.subject.idx fun B =>
      { B with pops := B.pops.erase p, pairs := Tab.set B.pairs (q - 4) l, badQ := bad }
    (∀ r x l, Tab.get [] B.pairs (q - 4) = x :: l → x.record = some r →
      let words := [r.w0, r.w1, r.w2, r.w3]
      (B.badQ = [] → Answers .cwaitPop s (popWrite (popped (joinPop s p x.op) l []) p words none)) ∧
      (B.badQ ≠ [] →
        let bad := shiftBad (shiftBad B.badQ q 0) (q - 4) 0
        ((q, 0, 0) ∉ B.badQ → Answers .cwaitPop s (popWrite (popped (joinPop s p x.op) l bad) p words none)) ∧
        ((q, 0, 0) ∈ B.badQ → Answers .cwaitPop s
          (popWrite (popped (joinPop s p x.op) l bad) p words (some { memNote 3 0 with lanes := 1 }))))) ∧
    (p.poll = true → (∀ x l, Tab.get [] B.pairs (q - 4) = x :: l → x.record = none) →
      Answers .cwaitPop s (popWrite (popped s (Tab.get [] B.pairs (q - 4)) B.badQ) p [0, 0xFF, 0, 0] none))) ∧
  (∀ (s : State) (e : EngOp), Tab.find s.engs s.subject.idx = some e → e.phase = .migrDrain →
    engHeld s s.subject.idx = false → writesInFlight s e.part [e.oldFrame] = false →
    (isSealed s e.part e.rb.toNat = true → Answers .migrDrainDone s (migrFails s s.subject.idx e 2)) ∧
    (∀ s1 s2 n, isSealed s e.part e.rb.toNat = false → migrLines s e = (s1, n, none) →
      migrLeaf s1 e (fun v => v - bits v 16 36 <<< 16 + e.rb.toNat) = .inl s2 →
      Answers .migrDrainDone s
        (migrSweep (setEng s2 s.subject.idx { e with sent := n, phase := .migrSweep2 }) s.subject.idx { e with sent := n })) ∧
    (∀ s1 n c, isSealed s e.part e.rb.toNat = false → migrLines s e = (s1, n, some (.fails c)) →
      Answers .migrDrainDone s (migrFails s1 s.subject.idx { e with sent := n } c))) ∧
  (∀ (s : State) (w : Sweep), Tab.find s.sweeps s.subject.idx = some w → sweepDue s s.subject.idx w = true →
    Answers .sweepComplete s
      (sweepThen { (sweepApply s w) with sweeps := Tab.del s.sweeps s.subject.idx } s.subject.idx w)) ∧
  (∀ (s s1 : State) (e : EngOp) (l : List Byte), Tab.find s.engs s.subject.idx = some e → e.phase = .collReady →
    engHeld s s.subject.idx = false → engRead s e e.coll.ready 8 = .ok s1 l → e.coll.thresh.toNat ≤ ofLe l →
    ∀ s2 t x, engXlate s1 e e.coll.ready false = .ok t x →
      engWrite (joinAt t (.eng s.subject.idx) x.1 8) e [((e.ring.getD e.coll.rank {}).stage, leBytes 16 0)] = .ok s2 () →
      Answers .collReadyStart s (setEng s2 s.subject.idx { e with phase := .collExch, since := s2.now })) ∧
  (∀ (s : State) (e c : EngOp) (n : Nat) (toLeft : Bool), Tab.find s.engs s.subject.idx = some e → e.phase = .collExch →
    s.subject.flag = !toLeft → (if toLeft then e.left else e.right) = none → elderWaits s e toLeft = false →
    partnerOf s s.subject.idx e toLeft = some (n, c) → elderWaits s c (!toLeft) = false →
    let e' := if toLeft then { e with left := some n } else { e with right := some n }
    let c' := if toLeft then { c with right := some s.subject.idx } else { c with left := some s.subject.idx }
    let t := setEng (setEng s s.subject.idx e') n c'
    (sameColl e.coll c.coll = true → Answers .collExchange s (collSettle (collSettle t s.subject.idx) n)) ∧
    (sameColl e.coll c.coll = false →
      let u := setEng (setEng t s.subject.idx (e'.ends { status := 1, cause := 5 })) n (c'.ends { status := 1, cause := 5 })
      Answers .collExchange s (abortPeers u u.engs.length [(s.subject.idx, e), (n, c)]))) ∧
  (∀ (s s1 s2 : State) (e : EngOp) (k : Nat) (l : List Byte), Tab.find s.engs s.subject.idx = some e →
    e.phase = .collStep k → engHeld s s.subject.idx = false → s.subject.flag = false → e.sent = 0 → 0 < collSteps e.coll →
    linkOf e e.coll.rank = none → e.mid = false →
    engRead s e (chunkAt e (sendChunk e.coll 0)) (chunkLen e.coll * elemBytes e.coll) = .ok s1 l →
    engWrite s1 e [((e.ring.getD (rightRank e.coll) {}).stage + 64, if reducing e.coll 0 then wordBytes (widen e.coll l) else l)] =
      .ok s2 () →
    Answers .collStep s (setEng s2 s.subject.idx { e with mid := true })) ∧
  (∀ (s s2 : State) (e : EngOp) (k : Nat), Tab.find s.engs s.subject.idx = some e → e.phase = .collStep k →
    engHeld s s.subject.idx = false → s.subject.flag = false → e.sent < collSteps e.coll → e.sent ≤ e.recvd →
    linkOf e e.coll.rank = none → e.mid = true → engPending s s.subject.idx = false →
    engWrite s e [((e.ring.getD (rightRank e.coll) {}).stage, leBytes 8 (e.sent + 1))] = .ok s2 () →
    Answers .collStep s (collDone s2 s.subject.idx { e with sent := e.sent + 1, mid := false })) ∧
  (∀ (s t : State) (e : EngOp) (k : Nat), Tab.find s.engs s.subject.idx = some e → e.phase = .collStep k →
    engHeld s s.subject.idx = false → s.subject.flag = true → collRecv s s.subject.idx e = some t → Answers .collStep s t) ∧
  (∀ (s : State) (e : EngOp), Tab.find s.engs s.subject.idx = some e → e.collBusy = true → e.coll.timeout ≠ 0 →
    e.since + 100 * e.coll.timeout < s.now → peerOwes s s.subject.idx e = true →
    Answers .peerTimeout s (collFail s s.subject.idx e 12 0 0)) ∧
  (∀ (e : EngOp) (k : Nat) (p : EngPut), e.plan = none → e.put k = some p → e.opc = 0 ∨ e.opc = 7 →
    let o := p.at_ - e.ra.toNat
    p.pad = none ∧ e.ra.toNat ≤ p.at_ ∧ o + p.bytes.length ≤ bits e.rc.toNat 0 40 ∧
    (e.opc = 7 → ∀ i, i < p.bytes.length →
      p.bytes[i]? = some (BitVec.ofNat 8 (e.rb.toNat / 2 ^ (8 * ((o + i) % fillWidth e.rc))))) ∧
    (e.opc = 0 → e.got (e.rb.toNat + o) p.bytes.length = some p.bytes)) ∧
  (∀ (e : EngOp) (x : Nat), e.plan = none → e.opc = 0 ∨ e.opc = 7 → e.ra.toNat ≤ x → x < e.ra.toNat + bits e.rc.toNat 0 40 →
    ∃ k p, k < e.puts ∧ (engParts e)[k]? = some p ∧ p.at_ ≤ x ∧ x < p.at_ + p.n ∧
      ∀ q, e.put k = some q → q.at_ = p.at_ ∧ q.bytes.length = p.n) ∧
  (∀ (s t : State) (e e' : EngOp) (x : EngEnd), e.plan = none → e.opc = 0 ∨ e.opc = 7 → engRun s e = (t, e', .ends x) →
    e'.plan = none ∧ e'.opc = e.opc ∧ e'.ra = e.ra ∧ e'.rb = e.rb ∧ e'.rc = e.rc ∧
    ∀ k p, e'.put k = some p → k ∈ e'.early) ∧
  (∀ (e : EngOp) (ks : List Nat), (lineRuns e ks).flatten = ks ∧
    ∀ r ∈ lineRuns e ks, ∀ i a b, r[i]? = some a → r[i + 1]? = some b → putFollows e a b = true) ∧
  (∀ (s s1 : State) (e : EngOp) (k g d : Nat) (ks : List Nat) (p : EngPut), e.put k = some p → p.pad = none →
    let bs := (k :: ks).flatMap fun j => ((e.put j).map (·.bytes)).getD []
    bs ≠ [] → g % 64 + bs.length ≤ 64 → engXlate s e p.at_ true = .ok s1 (g, false) →
    locate s1 e.pkg e.part g true = some (.dev d) → d >>> 44 = e.pkg → d % 64 = g % 64 → isWindow (d / 64 * 64) = false →
    engReach s1 e p.at_ g bs.length true = none →
    (∀ u, u < 2 → unitFault (l2Fill s1 e.pkg e.part (g / 64) (d / 64)) e.pkg e.part (g / 64) (d / 64) u = none) →
    ∃ t, engPutRun s e (k :: ks) = .ok t { e with early := e.early ++ k :: ks } ∧ t.mem = Memory.writeBytes s1.mem d bs ∧
      t.hostMem = s1.hostMem)

/-! ## The steps that end a unit's waits -/

/-- A unit's wait ends, and its word completes, when what it waits for holds: a push when its queue has room, a pop or
BTOK when it holds a correctable entry and, for a pop, the other slot did not issue its own of that queue earlier, XACQ
when the lock is free and its partner does not wait for it, or waited later than it, or, of two that began to wait with the
lock free, it is the even one, WAITB when the bit is set, WAITEV when its
context holds an event of the class; the lanes of a WAITJ whose deadline has passed go on at JPC. A barrier releases when
every quire that takes part has arrived with its earlier accesses performed. A pair lock whose counter has reached 65,536 is freed and its holder takes XLOCK_STALL, after a trap that already
stands in it. A WAITB
whose bit is lost stops the block: every lane and the front-end have ended (R199 to R201, R325, R338, R353, R358, R359,
R373). -/
def Obligations.WaitsEnd : Prop :=
  (∀ (s : State) (I : Issuer) (n : Nat) (v : DWord), WaitsFor s I (.qpush n v) → (queueOf s I.b I.q n).length < 16 →
    Completes .queuePushAccept s I (pushQueue s I.b I.q n v)) ∧
  (∀ (s : State) (I : Issuer) (v : DWord), WaitsFor s I (.token v) → I.blk.front.done = false →
    (queueOf s I.b I.q 1).length < 16 → Completes .queuePushAccept s I (pushQueue s I.b I.q 1 v)) ∧
  (∀ (s : State) (I : Issuer) (t : Nat) (v : DWord), WaitsFor s I (.dqpush t v) → (queueOf s I.b t 0).length < 16 →
    Completes .queuePushAccept s I (pushQueue s I.b t 0 v)) ∧
  (∀ (s : State) (I : Issuer) (n rd ord : Nat) (old : List (Option Note)) (v : DWord) (l : List DWord),
    WaitsFor s I (.qpop n rd ord old) → popEarlier I n ord = false → headBad s I.b I.q n = false →
    queueOf s I.b I.q n = v :: l → Completes .qpopDeliver s I (writeS2 (dropHead s I.b I.q n) I rd v)) ∧
  (∀ (s : State) (I : Issuer) (old : List (Option Note)) (v : DWord) (l : List DWord), WaitsFor s I (.btok old) →
    I.blk.q1 = v :: l → headBad s I.b 0 1 = false →
    JumpsTo .btokPop s I (writeX (dropHead s I.b 0 1) I 30 v) (I.blk.node.text + 4 * (v &&& 0xFFFFF#64))) ∧
  (∀ (s : State) (I : Issuer), WaitsFor s I .xacq → (Tab.get {} I.blk.locks (I.q / 2)).holder = none →
    let next := (Tab.get {} I.blk.locks (I.q / 2)).next
    next = some I.q ∨ seeksLock s I.b (partnerQuire I.q) = false ∨ (next ≠ some (partnerQuire I.q) ∧ I.q % 2 = 0) →
    Completes .xacqGrant s I (setLock s I.b (I.q / 2) { holder := some I.q })) ∧
  (∀ (s : State) (B : Block) (Q : Quire) (q : Nat), Tab.find s.blocks s.subject.idx = some B →
    (Tab.get {} B.locks s.subject.sub).holder = some q → 65536 ≤ (Tab.get {} B.locks s.subject.sub).stall →
    Tab.find s.quires (quireKey s.subject.idx q) = some Q →
    let u : UnitId := .slot s.subject.idx q (if Q.s0.free then 1 else 0)
    (∀ st, unitStrand s u = some st → gatePerformed s st.wait = false) →
    let s1 := freeLock s s.subject.idx q
    (∀ st, unitStrand s1 u = some st → st.trapStands = false →
      Answers .xlockStall s (takeTrap (cancelWait s1 u) u { cause := .xlockStall })) ∧
    (∀ st, unitStrand s1 u = some st → st.trapStands = true →
      Answers .xlockStall s (updStrand s1 u fun c => { c with pend := c.pend ++ [{ cause := .xlockStall }] }))) ∧
  (∀ (s : State),
    let ks := barrierParts s s.subject.idx s.subject.sub
    ks ≠ [] → (4 < s.subject.sub → nodeSwitchedOut s s.subject.idx = false) →
    (∀ k ∈ ks, (Tab.get {} s.quires k).arrival = some s.subject.sub ∧ arrivalPending s k s.subject.sub = false) →
    Answers .barrierRelease s
      (ks.foldl barNext (ks.foldl (fun s k => s.updQuire k fun Q => { Q with arrival := none }) s))) ∧
  (∀ (s : State) (I : Issuer) (self : Bool) (seq b : Nat) (n : Node), WaitsFor s I (.waitb self seq b) →
    nodeOf s I.blk.part seq = some n → b ∈ n.bits → Completes .waitbComplete s I s) ∧
  (∀ (s : State) (I : Issuer) (self : Bool) (seq b : Nat) (n : Node), WaitsFor s I (.waitb self seq b) →
    nodeOf s I.blk.part seq = some n → bitLost s I.blk.part seq n b = true →
    ∃ t B', exec .waitbUnsatisfiable s = .next t ∧ t.mem = s.mem ∧ t.cores = s.cores ∧
      Tab.find t.blocks I.b = some B' ∧ B'.front.done = true ∧ B'.ending = .stopped ∧
      ∀ k Q, Tab.find t.quires k = some Q → k / 16 = I.b → Q.live = 0 ∧ Q.s0.mask = 0 ∧ Q.s1.mask = 0) ∧
  (∀ (s : State) (I : Issuer) (id dl : Nat) (r : JoinRec), I.fe = false → I.u = .slot I.b I.q I.sl → I.sl < 2 →
    WaitsFor s I (.waitj id dl) → dl < coreCycles s I.blk.core → I.qr.joinRec id = some r →
    ∃ t Q', exec .waitjExpiry s = .next t ∧ t.mem = s.mem ∧ Tab.find t.quires I.key = some Q' ∧
      (Q'.slot I.sl).mask = I.mask ∧ (Q'.slot I.sl).ctl.pc = r.jpc ∧ (Q'.slot I.sl).ctl.wait = .none ∧
      (Q'.slot I.sl).innermost = r.parent) ∧
  (∀ (s : State) (I : Issuer) (cls rd : Nat) (v : DWord) (es : List EventQ), WaitsFor s I (.waitev cls rd) →
    takeEvent (s.partOf I.blk.part).events I.blk.ctx cls I.u = some (v, es) →
    Completes .waitevDeliver s I (write64 (s.updPart I.blk.part fun P => { P with events := es }) I rd v))

/-- CLAUSE_SELECT: the checks of a header, in the order of R28, each with its trap and, for ILLEGAL_CLAUSE, its number in
TRAPINFO: its form and place, the class, TER in front-end code, the text section at level U, control transfers before the
last word, LIVE, and at level U the mode and the determinism flag. A unit whose clause passes them and is of its executor's
kind, at a port that no clause holds and that may choose it, enters its clause: pc is at the first word, and as many words
are left as the header counts. The choice of R360: a candidate passed over sixteen times goes before one that is not; else,
but at the FRONT port, none of a higher priority is passed over for the chosen one, and of one priority none that issued
less recently (R24 to R31, R360). -/
def Obligations.ClauseSelectEnters : Prop :=
  (∀ (s s1 : State) (I : Issuer) (h : Word), issuerOf s s.subject.unit 0 = some I → AtHeader s I →
    fetchWord s I (I.st.pc.toNat / 4 * 4) = .ok s1 h →
    let traps := fun t => Answers .clauseSelect s (takeTrap s I.u t)
    (I.st.pc.toNat % 4 ≠ 0 ∨ hdrFormed h = false → traps (illegalClause h 1)) ∧
    ∀ c, I.st.pc.toNat % 4 = 0 → hdrFormed h = true → hdrCls h = some c →
      (clsAllowed I.fe c = false → traps (illegalClause h 2)) ∧
      (clsAllowed I.fe c = true → I.fe = true → h.getLsbD 24 = true → traps (illegalClause h 3)) ∧
      (clsAllowed I.fe c = true → (I.fe = true → h.getLsbD 24 = false) →
        (I.st.level = .u → inText s I (hdrN h) = false → traps (illegalClause h 4)) ∧
        ∀ s2 ws, (I.st.level = .u → inText s I (hdrN h) = true) →
          fetchWords s1 I (I.st.pc.toNat + 4) (hdrN h) = .ok s2 ws →
          (ws.dropLast.any (isTransfer c) = true → traps (illegalClause h 5)) ∧
          (ws.dropLast.any (isTransfer c) = false →
            (hdrSp h = true → I.blk.node.livecount ≤ hdrLive h → traps (illegalClause h 6)) ∧
            ((hdrSp h = true → hdrLive h < I.blk.node.livecount) → I.st.level = .u →
              (I.fe = false ∧ h.getLsbD 24 ≠ I.ter) ∨ h.getLsbD 25 ≠ I.blk.node.det → traps (modeMismatch h I))))) ∧
  (∀ (h : Word),
    (hdrFormed h = true ↔ bits h.toNat 28 4 = 0xD ∧ h.getLsbD 23 = false ∧ bits h.toNat 26 2 = 0 ∧ bits h.toNat 0 4 ≠ 0 ∧
      bits h.toNat 4 3 ≠ 7 ∧ (h.getLsbD 7 = false → bits h.toNat 8 8 = 0) ∧ (h.getLsbD 22 = true → bits h.toNat 4 3 = 4)) ∧
    (∀ n, n ≤ 6 → (illegalClause h n).cause = .illegalClause ∧ (illegalClause h n).info.toNat = h.toNat + n * 2 ^ 32) ∧
    ∀ I, (modeMismatch h I).cause = .modeMismatch ∧ (modeMismatch h I).info.toNat =
      h.toNat + (if I.ter ∧ I.fe = false then 2 ^ 32 else 0) + (if I.blk.node.det then 2 ^ 33 else 0)) ∧
  (∀ (s s1 : State) (I : Issuer) (c : Cls) (h : Word) (ws : List Word),
    selection s s.subject.unit = .clause I s1 c h ws → (kindClash s1 I h).2 = false → portBusy s I.blk.core c = false →
    portMay s I.blk.core c I.u = true → (c = .mat → (s.coreOf I.blk.core).accOwn = I.blk.ctx) →
    Answers .clauseSelect s (enterClause (kindClash s1 I h).1 I c h (portCandidates s I.blk.core c))) ∧
  (∀ (s1 : State) (I : Issuer) (c : Cls) (h : Word) (cs : List UnitId) (st : Strand), unitStrand s1 I.u = some st →
    ∃ st', unitStrand (enterClause s1 I c h cs) I.u = some st' ∧ st'.hdr = st.pc ∧ st'.pc = st.pc + 4 ∧
      st'.left = hdrN h ∧ st'.cls = c ∧ (enterClause s1 I c h cs).mem = s1.mem) ∧
  (∀ (s : State) (core : Nat) (c : Cls) (u : UnitId), portMay s core c u = true →
    let p := portAt s core c
    let cs := portCandidates s core c
    u ∈ cs ∧ (∀ v ∈ cs, 16 ≤ passedCount p v → 16 ≤ passedCount p u) ∧
    (c ≠ .front → (∀ v ∈ cs, passedCount p v < 16) → ∀ v ∈ cs, unitPrio s v ≤ unitPrio s u ∧
      (unitPrio s v = unitPrio s u → 0 < lastIssue p u → 0 < lastIssue p v → lastIssue p u ≤ lastIssue p v)))

/-! ## Gates -/

/-- HGSEND, HGSIG, HGWAIT, HGTAKE and HGQRY with valid operands send their operation and wait for its answer: their
destinations are empty meanwhile; HGSEND has read its message, HGTAKE translated its address; HGSEND and HGSIG, releases at
PART, wait until the unit's earlier accesses are performed; HGWAIT has no timeout in a DET node (R402, R403;
08_ordering.md R181). -/
def Obligations.GateWordsIssue : Prop :=
  (∀ (f : EE) (s s1 : State) (I : Issuer) (m : List Byte), Issues s (.hgsend f) I →
    (∀ r ∈ [f.ra, f.rb, f.rc, f.rd], I.pairOk r.toNat = true) → Full ([f.ra, f.rb, f.rc].flatMap fun r => I.src64 r.toNat) →
    Free (I.src64 f.rd.toNat) → (I.r64 f.ra.toNat).toNat < 65536 → (I.r64 f.rb.toNat).toNat % 32 = 0 →
    (I.r64 f.rb.toNat).toNat < 2 ^ 52 → (I.r64 f.rc.toNat).toNat < 2 → unperformed s I.u I.mask s.nextId 5 = false →
    syncRead s I (I.r64 f.rb.toNat).toNat 32 = .ok s1 m →
    WaitsAs (.hgsend f) s I (gateSent s1 I
      { gateOp I .send (I.r64 f.ra.toNat) with nb := I.r64 f.rc.toNat == 1, msg := m, dests := [f.rd.toNat] }) (.gate s1.nextId)) ∧
  (∀ (f : EE) (s : State) (I : Issuer), Issues s (.hgsig f) I → (∀ r ∈ [f.ra, f.rb], I.pairOk r.toNat = true) →
    Full ([f.ra, f.rb].flatMap fun r => I.src64 r.toNat) → (I.r64 f.ra.toNat).toNat < 65536 → I.r64 f.rb.toNat ≠ 0 →
    (I.r64 f.rb.toNat).toNat < 2 ^ 32 → unperformed s I.u I.mask s.nextId 5 = false →
    WaitsAs (.hgsig f) s I (gateSent s I { gateOp I .sig (I.r64 f.ra.toNat) with opnd := I.r64 f.rb.toNat }) (.gate s.nextId)) ∧
  (∀ (f : EE) (s : State) (I : Issuer), Issues s (.hgwait f) I → (∀ r ∈ [f.ra, f.rb, f.rc, f.rd], I.pairOk r.toNat = true) →
    Full ([f.ra, f.rb, f.rc].flatMap fun r => I.src64 r.toNat) → Free (I.src64 f.rd.toNat) →
    (I.r64 f.ra.toNat).toNat < 65536 → (I.r64 f.rc.toNat).toNat < 2 ^ 32 →
    WaitsAs (.hgwait f) s I (gateSent s I
      { gateOp I .wait (I.r64 f.ra.toNat) with
        opnd := I.r64 f.rb.toNat, timeout := if I.blk.node.det then 0 else (I.r64 f.rc.toNat).toNat, dests := [f.rd.toNat] })
      (.gate s.nextId)) ∧
  (∀ (f : EE) (s s1 : State) (I : Issuer) (p : SyncPiece) (ps : List SyncPiece), Issues s (.hgtake f) I →
    (∀ r ∈ [f.ra, f.rb, f.rc, f.rd], I.pairOk r.toNat = true) → Full ([f.ra, f.rb, f.rc].flatMap fun r => I.src64 r.toNat) →
    Free (I.src64 f.rd.toNat) → (I.r64 f.ra.toNat).toNat < 65536 → (I.r64 f.rb.toNat).toNat % 32 = 0 →
    (I.r64 f.rb.toNat).toNat < 2 ^ 52 → (I.r64 f.rc.toNat).toNat < 2 →
    syncXlate s I true (I.r64 f.rb.toNat).toNat 32 = .ok s1 (p :: ps) →
    WaitsAs (.hgtake f) s I (gateSent s1 I
      { gateOp I .take (I.r64 f.ra.toNat) with
        nb := I.r64 f.rc.toNat == 1, gpa := p.gpa, va := (I.r64 f.rb.toNat).toNat
        cnt := (p :: ps).any fun p => p.cnt, dests := [f.rd.toNat] })
      (.gate s1.nextId)) ∧
  (∀ (f : EE) (s : State) (I : Issuer), Issues s (.hgqry f) I → (∀ r ∈ [f.ra, f.rb, f.rd], I.pairOk r.toNat = true) →
    Full (I.src64 f.ra.toNat) → Free ([f.rb, f.rd].flatMap fun r => I.src64 r.toNat) → (I.r64 f.ra.toNat).toNat < 65536 →
    WaitsAs (.hgqry f) s I (gateSent s I { gateOp I .qry (I.r64 f.ra.toNat) with dests := [f.rb.toNat, f.rd.toNat] })
      (.gate s.nextId))

/-- GATE: an admitted operation of the issuing package is performed at its home; one whose home the package has lost ends
with MEMERR of kind REMOTE. HGSIG adds to COUNTER and takes a number; HGWAIT whose
threshold is reached is answered with COUNTER, and else waits; HGSEND with a slot free deposits its message behind the
others, HGTAKE with a message takes the oldest one, unless its destination has been sealed meanwhile. GATE_ANSWER gives
the answer to the unit, whose word completes. A refill, a timeout, a retry, a redirection and a closing happen when they are
due; a redirection moves every held operation in its order and sends those that met MIGRATING again; a closing ends every
operation held at the gate with GATE_CLOSED (R400, R403 to R406). -/
def Obligations.GateStepsComplete : Prop :=
  (∀ (s : State) (I : Issuer) (g : GateOp) (a : Nat), GateOpen s I g a →
    Answers .gate s (gateServed s
      (performGate { s with nextId := s.nextId + 1 } s.subject.idx (arrived s g a) a) a)) ∧
  (∀ (s : State) (I : Issuer) (g : GateOp) (a : Nat), Tab.find s.gates s.subject.idx = some g → g.state = .sent →
    issuerOf s g.unit 0 = some I → gateAt s g.part g.handle = some a → remoteLost s I.blk.pkg (gateHome a) = true →
    Answers .gate s (setGateOp s s.subject.idx { g with state := .trapped { cause := .memerr, detail := 4 } })) ∧
  (∀ (s : State) (id : Nat) (g : GateOp) (a : Nat), Memory.wf s.mem = true → g.kind = .sig →
    let t := performGate s id g a
    gateWord t a 8 = (gateWord s a 8 + g.opnd.toNat) % 2 ^ 64 ∧ gateWord t a 0x10 = (gateWord s a 0x10 + 1) % 2 ^ 64 ∧
    Tab.find t.gates id = some { g with state := .answered [] } ∧
    ∀ x, x < a + 8 ∨ a + 0x18 ≤ x → Memory.read t.mem x = Memory.read s.mem x) ∧
  (∀ (s : State) (id : Nat) (g : GateOp) (a : Nat), Memory.wf s.mem = true → g.kind = .wait →
    let t := performGate s id g a
    (g.opnd.toNat ≤ (gateOf s a).counter →
      Tab.find t.gates id = some { g with state := .answered [BitVec.ofNat 64 (gateOf s a).counter] } ∧
      gateWord t a 0x10 = (gateWord s a 0x10 + 1) % 2 ^ 64) ∧
    ((gateOf s a).counter < g.opnd.toNat →
      t = setGateOp s id { g with state := .waiting, home := a, since := s.now })) ∧
  (∀ (s : State) (id : Nat) (g : GateOp) (a : Nat), Memory.wf s.mem = true → g.kind = .send → g.msg.length = 32 → (gateOf s a).mcount < 8 →
    let t := performGate s id g a
    let k := ((gateOf s a).mhead + (gateOf s a).mcount) % 8
    Memory.readBytes t.mem (a + 0x100 + 32 * k) 32 = g.msg ∧ (gateOf t a).mcount = (gateOf s a).mcount + 1 ∧
    Tab.find t.gates id = some { g with state := .answered [0] }) ∧
  (∀ (s : State) (id : Nat) (g : GateOp) (a : Nat), Memory.wf s.mem = true → g.kind = .take → (gateOf s a).mcount ≠ 0 → (gateOf s a).mcount ≤ 8 →
    (gateOf s a).mhead < 8 → isSealed s g.part g.gpa = false →
    let t := performGate s id g a
    (gateOf t a).mcount = (gateOf s a).mcount - 1 ∧ (gateOf t a).mhead = ((gateOf s a).mhead + 1) % 8 ∧
    ∃ w, Tab.find t.gates id =
      some { g with msg := Memory.readBytes s.mem (a + 0x100 + 32 * (gateOf s a).mhead) 32, state := .answered [w] }) ∧
  (∀ (s : State) (I : Issuer) (g : GateOp) (rs : List DWord), Tab.find s.gates s.subject.idx = some g →
    issuerOf s g.unit 0 = some I → I.st.wait = .gate s.subject.idx → g.state = .answered rs →
    let s1 := injectQueued { s with gates := Tab.del s.gates s.subject.idx } I.blk.pkg
    let s2 := if g.kind = .take ∧ (rs.headD 0).getLsbD 63 = true then storeTaken s1 I g else s1
    Completes .gateAnswer s I ((g.dests.zip rs).foldl (fun s x => write64 s I x.1 x.2) s2)) ∧
  (∀ (s : State) (p : Pkg), Tab.find s.pkgs s.subject.pkg = some p → p.refills < s.now / 10000 →
    Answers .gateTokenRefill s ((homedGates s s.subject.pkg).foldl refillGate
      (s.updPkg s.subject.pkg fun p => { p with refills := p.refills + 1 }))) ∧
  (∀ (s : State) (g : GateOp), Tab.find s.gates s.subject.idx = some g → g.state = .waiting → g.timeout ≠ 0 →
    g.since + 100 * g.timeout ≤ s.now → gateMoves s g = false →
    Answers .hgwaitTimeout s (countWaiters (answer (takeNumber s (gateOf s g.home)) s.subject.idx g
      [BitVec.ofNat 64 (gateOf s g.home).counter]) g.home)) ∧
  (∀ (s : State) (g : GateOp), Tab.find s.gates s.subject.idx = some g → g.state = .tableFull → g.since + 100 ≤ s.now →
    Answers .gateTableRetry s (setGateOp s s.subject.idx { g with state := .sent })) ∧
  (∀ (s : State) (g : GateOp) (a : Nat), Tab.find s.gates s.subject.idx = some g → gateAt s g.part g.handle = some a →
    a ≠ g.home → g.state = .heldMigr ∨ g.inTable = true →
    let c := (heldAtGate s g.home GateOp.inTable).foldl (fun s x => setGateOp s x.1 { x.2 with home := a }) s
    Answers .gateRedirect s (countWaiters
      ((heldAtGate s g.home fun x => x.state == .heldMigr).foldl (fun s x => injectGate s x.1 x.2 a)
        (serveGate c a (c.gates.length + 1))) a)) ∧
  (∀ (s : State) (a : Nat), Memory.wf s.mem = true → gateAt s s.subject.part s.subject.idx = some a →
    ∃ t, exec .gateClose s = .next t ∧ (gateOf t a).state = 1 ∧
      ∀ id g, Tab.find s.gates id = some g → g.home = a → g.inTable = true ∨ g.state = .tableFull →
        Tab.find t.gates id = some { g with state := .trapped (gateTrap g 1 .gateClosed 0) })

/-! ## SYS -/

/-- The SYS words complete. NOP has no effect beyond ICNT, and a nonzero [23:0] is rejected; MFSR gives the register's
value, at once or, of TSTAT, SIGV and ACNT, once the matrix instructions before it have ended, its destination empty
meanwhile, and MTSR writes it, CTXID at the end of its sweep, where R202 lets the issuer; a register that holds what is
written reads so again; a privileged word at level U, one for H alone at S, and a register that R202 does not open to the
issuer are ILLEGAL_OP (R368); PGMAP gives the frame and flag of a mapped page, 3 where a table is missing, and else takes a frame of the pool;
PGUNMAP clears a leaf and starts a sweep, and of an unmapped page does nothing; the TLBINV words start their sweep once
the unit's accesses are performed; SPILLA and SAVEL store, FILLA and LOADL load, the tile or the registers that they
name; WAITEV waits for its class (R82 to R84, R202, R203, R369, R373 to R375). -/
def Obligations.SystemWordsComplete : Prop :=
  ((∀ (s : State) (I : Issuer), Issues s .nop I → Completes .nop s I s) ∧
   ∀ w : Word, opcodeOf w = 0 → w ≠ 0 → decode .sys w = .reject (.badField 0)) ∧
  (∀ (f : YY) (s : State) (I : Issuer) (R : SysReg), Issues s (.mfsr f) I → SysAllowed I f.f10.toNat f.rd.toNat R false →
    Free (I.srcWidth R.width f.rd.toNat) →
    let v := srRead s I f.f10.toNat
    let wide := I.fe || R.width == 64
    let e := if wide then empty64 s I f.rd.toNat else emptyS s I f.rd.toNat
    let op : PendOp :=
      { unit := I.u, ter := I.ter, keys := [0], waiting := 1, lanes := I.mask, sr := some f.f10.toNat, srAt := v
        dest := if I.fe then .xreg f.rd.toNat true (I.xbank f.rd.toNat)
          else .sreg f.rd.toNat (if wide then 8 else 4) false (I.sbank f.rd.toNat) }
    (srWaits s I.u f.f10.toNat s.nextId = false → Completes (.mfsr f) s I
      (if wide then write64 s I f.rd.toNat v else writeS s I f.rd.toNat (v.setWidth 32))) ∧
    (srWaits s I.u f.f10.toNat s.nextId = true → Completes (.mfsr f) s I
      { e with nextId := s.nextId + 1, ops := Tab.set s.ops s.nextId op })) ∧
  (∀ (s : State) (id n : Nat) (op : PendOp) (I : Issuer), (id, op) ∈ s.ops → op.sr = some n → op.waiting ≠ 0 →
    srWaits s op.unit n id = false → issuerOf s op.unit 0 = some I →
    (n = 0x011 ∧ I.fe = false ∨ 0x040 ≤ n ∧ n ≤ 0x04F →
      (id, { op with waiting := 0, got := [(0, leBytes 8 (srRead s I n).toNat)] }) ∈ (captureSr s).ops) ∧
    (n = 0x009 → I.fe = false →
      (id, { op with waiting := 0, got := [(0, leBytes 8
        ((op.srAt &&& 0x3FFFFFFF#64) ||| (I.qr.tstat.setWidth 64 &&& 0x40000000#64)).toNat)] }) ∈ (captureSr s).ops)) ∧
  (∀ (f : YY) (s t : State) (I : Issuer) (R : SysReg), Issues s (.mtsr f) I → SysAllowed I f.f10.toNat f.ra.toNat R true →
    Full (I.srcWidth R.width f.ra.toNat) → srWaits s I.u f.f10.toNat s.nextId = false →
    (∀ e ∈ s.ops, sameUnit e.2.unit I.u = true → e.2.sr = some f.f10.toNat → e.2.waiting = 0) →
    let v := if I.fe = true ∨ R.width = 64 then (I.r64 f.ra.toNat).toNat else (I.sreg f.ra.toNat).val.toNat
    v < 2 ^ R.width →
    (f.f10.toNat ≠ 0x028 → srWrite s I f.f10.toNat v = some t → Completes (.mtsr f) s I t) ∧
    (f.f10.toNat = 0x028 → (BitVec.ofNat 32 v ≠ I.blk.ctx → ctxTaken s I.blk.part (BitVec.ofNat 32 v) = false) →
      outstanding s I.u I.mask = [] →
      WaitsAs (.mtsr f) s I (sweepFrom s I I.blk.part (.rename I.blk.ctx (BitVec.ofNat 32 v))) (.sweep s.nextId))) ∧
  (∀ (s t : State) (I J : Issuer) (n v : Nat) (R : SysReg), issuerOf s I.u 0 = some I → sysReg n = some R → v < 2 ^ R.width →
    srWrite s I n v = some t → issuerOf t I.u 0 = some J →
    (n ∈ [0x00B, 0x010, 0x011, 0x012, 0x018, 0x020, 0x021] ∨ n = 0x000 ∧ I.threads ≠ [] → (I.fe = true → R.front = true) →
      (I.fe = false → R.quire = true) → srRead t J n = BitVec.ofNat 64 v) ∧
    (n = 0x008 → I.fe = false → srRead t J n = BitVec.ofNat 64 ((List.range 3).foldl (fun a i =>
      a + if bits v (2 * i) 2 = 3 then 0 else bits v (2 * i) 2 * 2 ^ (2 * i)) (bits v 8 6 * 2 ^ 8))) ∧
    (0x040 ≤ n → n ≤ 0x04F → (s.coreOf I.blk.core).accUsed.getLsbD (I.blk.abase + (n - 0x040)) = true →
      srRead t J n = BitVec.ofNat 64 (v % 2 ^ 26))) ∧
  (∀ (f : YY) (s : State) (I : Issuer) (i : Instr), i ∈ [Instr.pgmap f, .pgunmap f, .tlbinvPage f, .tlbinvCtx, .tlbinvPart,
    .tlbinvGpage f, .tlbinvS2 f, .tlbinvS2all f, .spilla f, .filla f] → Issues s i I →
    I.st.level = .u ∨ (i ∈ [Instr.tlbinvS2 f, .tlbinvS2all f] ∧ I.st.level = .s) → Traps i s (wordTrap .illegalOp i)) ∧
  (∀ (f : YY) (s : State) (I : Issuer) (i : Instr) (write : Bool), (i, write) ∈ [(Instr.mfsr f, false), (Instr.mtsr f, true)] →
    Issues s i I → (∀ R, sysReg f.f10.toNat = some R →
      (if I.fe then R.front else R.quire) = false ∨ R.right I.st.level = .no ∨ (write = true ∧ R.right I.st.level = .ro)) →
    Traps i s (wordTrap .illegalOp i)) ∧
  (∀ (f : YY) (s : State) (I : Issuer), Issues s (.pgmap f) I → I.st.level ≠ .u → I.pairOk f.ra.toNat = true →
    I.pairOk f.rd.toNat = true → Full (I.src64 f.ra.toNat) → Free (I.src64 f.rd.toNat) →
    let v := (I.r64 f.ra.toNat).toNat
    let va := bits v 16 36 <<< 16
    v &&& 0xFFF000000000FEE1 = 0 →
    (∀ s1 e p l, pgWalk s I va = (s1, .leaf e p l) →
      Completes (.pgmap f) s I (write64 s1 I f.rd.toNat (BitVec.ofNat 64 (bits e 16 36 <<< 16 + 1)))) ∧
    (∀ s1 l p, pgWalk s I va = (s1, .invalid l p) → l < 3 → Completes (.pgmap f) s I (write64 s1 I f.rd.toNat 3)) ∧
    (∀ s1 l p L s2 head s3 count, pgWalk s I va = (s1, .invalid l p) → 3 ≤ l → layoutOf s1 I.blk.pkg I.blk.part = some L →
      walkRead s1 I va (L.paging.toNat + 0x14) 4 = .ok s2 head → walkRead s2 I va (L.paging.toNat + 0x10) 4 = .ok s3 count →
      (count ≤ head → Completes (.pgmap f) s I (write64 s3 I f.rd.toNat 2)) ∧
      ∀ s4 pool s5 e s6, head < count → walkRead s3 I va (L.paging.toNat + 0x08) 8 = .ok s4 pool →
        walkRead s4 I va (pool + 8 * head) 8 = .ok s5 e →
        let frame := bits e 16 36 <<< 16
        placeStores s5 I va (if bitAt e 0 then [] else (List.range 1024).map fun j => (frame + 64 * j, List.replicate 64 0))
          [(p, leBytes 8 (frame + 512 + (v &&& 0x1FE) + 1)), (L.paging.toNat + 0x14, leBytes 4 (head + 1))] = .ok s6 () →
        Completes (.pgmap f) s I (write64 s6 I f.rd.toNat (BitVec.ofNat 64 frame)))) ∧
  (∀ (f : YY) (s : State) (I : Issuer), Issues s (.pgunmap f) I → I.st.level ≠ .u → I.pairOk f.ra.toNat = true →
    Full (I.src64 f.ra.toNat) →
    let v := (I.r64 f.ra.toNat).toNat
    v % 65536 = 0 → v < 2 ^ 52 → outstanding s I.u I.mask = [] →
    let w := walk s I.blk.pkg I.blk.part I.blk.ctx v
    (∀ s1 r l p, w = (s1, .fault r l p) → Completes (.pgunmap f) s I s1) ∧
    (∀ e p l s1 s2, w = (s1, .leaf e p l) → placeStores s1 I v [] [(p, leBytes 8 (e - 1))] = .ok s2 () →
      let k := 9 * (3 - l)
      WaitsAs (.pgunmap f) s I (sweepFrom s2 I I.blk.part (.pages I.blk.ctx (v >>> 16 >>> k <<< k) (2 ^ k)))
        (.sweep s2.nextId))) ∧
  (∀ (f : YY) (s : State) (I : Issuer) (i : Instr) (h : Bool) (mz : Nat) (k : Nat → Nat × SweepKind),
    (i, h, mz, k) ∈ tlbinvOps s I f → Issues s i I → I.st.level ≠ .u → (h = true → I.st.level = .h) →
    I.pairOk f.ra.toNat = true → Full (I.src64 f.ra.toNat) → (I.r64 f.ra.toNat).toNat &&& mz = 0 →
    outstanding s I.u I.mask = [] →
    WaitsAs i s I (sweepFrom s I (k (I.r64 f.ra.toNat).toNat).1 (k (I.r64 f.ra.toNat).toNat).2) (.sweep s.nextId)) ∧
  (∀ (s : State) (I : Issuer) (i : Instr) (k : SweepKind), (i, k) ∈ [(Instr.tlbinvCtx, SweepKind.ctx I.blk.ctx), (Instr.tlbinvPart, SweepKind.part)] →
    Issues s i I → I.st.level ≠ .u → outstanding s I.u I.mask = [] →
    WaitsAs i s I (sweepFrom s I I.blk.part k) (.sweep s.nextId)) ∧
  (∀ (f : YY) (s t : State) (I : Issuer), TileWordReady s (.spilla f) I f.ra.toNat →
    let T := (s.coreOf I.blk.core).tileOf f.a.toNat
    (∀ p, p < tilePlanes T.trip T.resOpen → p ∉ T.bad) →
    syncWrites s I ((tileImage T (s.coreOf I.blk.core).accOwn).map fun w => ((I.r64 f.ra.toNat).toNat + w.1, w.2)) = .ok t () →
    Completes (.spilla f) s I t) ∧
  (∀ (f : YY) (s s1 : State) (I : Issuer) (h : List Byte), TileWordReady s (.filla f) I f.ra.toNat →
    syncRead s I (I.r64 f.ra.toNat).toNat 64 = .ok s1 h → tileHeaderOk h = true →
    (fld h 0 1 = 0 → Completes (.filla f) s I (setTile s1 I.blk.core f.a.toNat {} false)) ∧
    (∀ s2 l, fld h 0 1 ≠ 0 →
      let w := BitVec.ofNat 32 (fld h 4 4)
      syncRead s1 I ((I.r64 f.ra.toNat).toNat + 0x40) (0x400 * tilePlanes (w.getLsbD 24) (w.getLsbD 25)) = .ok s2 l →
      let T : Tile := { elems := (wordsOf l).zipIdx.map fun x => (x.2, x.1) }
      Completes (.filla f) s I (setTile s2 I.blk.core f.a.toNat (T.setAcnt w) true))) ∧
  (∀ (f : YY) (s s1 s2 s3 : State) (I : Issuer) (l c : List Byte) (e : LiveEnt), SaveReady s (.savel f) I f s1 l e →
    (if e.named.c = [] then s2 = s1 ∧ c = [] else syncRead s1 I ((I.r64 f.ra.toNat).toNat + I.cAt) 1 = .ok s2 c) →
    syncWrites s2 I ((saveParts I e.named (ofLe c)).map fun w => ((I.r64 f.ra.toNat).toNat + w.1, w.2)) = .ok s3 () →
    Completes (.savel f) s I s3) ∧
  (∀ (f : YY) (s s1 s2 s3 s4 : State) (I : Issuer) (l h n : List Byte) (e : LiveEnt) (notes : List NoteRec)
      (ds : List (List Byte)), SaveReady s (.loadl f) I f s1 l e →
    let a := (I.r64 f.ra.toNat).toNat
    syncRead s1 I (a + I.cAt) (if I.fe then 64 else 128) = .ok s2 h →
    let count := if I.fe then fld h 8 4 else fld h 0x10 4
    count ≤ (if I.fe then 31 else 96) → headerOk I.fe h = true → syncRead s2 I (a + I.notesAt) (32 * count) = .ok s3 n →
    parseNotes n count (noteFits I) = some notes →
    syncReads s3 I ((loadReads e.named).map fun x => (a + x.2.1, x.2.2)) = .ok s4 ds →
    let data := Tab.get [] (((loadReads e.named).zip ds).map fun x => (x.1.1, x.2))
    (∀ r ∈ e.named.k, fld (data (32 + r)) 12 4 = 0) → Completes (.loadl f) s I (loadRegs s4 I e.named h notes data)) ∧
  (∀ (f : YY) (s : State) (I : Issuer), Issues s (.waitev f) I → f.f10.toNat < 16 → isPow2 f.f10.toNat = true →
    evAllowed I.st.level f.f10.toNat = true → I.pairOk f.rd.toNat = true → Free (I.src64 f.rd.toNat) →
    WaitsAs (.waitev f) s I s (.waitev (Nat.log2 f.f10.toNat) f.rd.toNat))

/-! ## Scheduling -/

/-- NADD gives the code of the acceptance of one record; NWDRAW withdraws the context's nodes whose tag matches, with
their successors, and gives their count; NSTAT gives the status of a node that the pool holds, or loads the
record's STATUS word. A TAIL write of the host, through a function that H has bound or the physical one, over a link that
is up, within the queue makes entries available, and one beyond it sets ERR; GRAPH_ACCEPT consumes the entry at HEAD; a
node passed over for a millisecond reserves; BLOCK_DISPATCH places the first node in rank order that fits, and its
block starts as its launch says; BLOCK_RETIRE removes a block that has finished (R312, R320, R344 to R357). -/
def Obligations.SchedulingCompletes : Prop :=
  (∀ (f : XR) (s : State) (I : Issuer), FrontIssues s (.nadd f) I → Full [I.srcX f.xa.toNat] → Free [I.srcX f.xd.toNat] →
    let va := (I.xreg f.xa.toNat).val.toNat
    va % 64 = 0 → va < 2 ^ 52 → outstanding s I.u I.mask = [] →
    let r := acceptGraph s I.blk.part I.blk.ctx (I.st.level == .h) (poolPrio s I) [va]
    Completes (.nadd f) s I (writeX r.1 I f.xd.toNat (BitVec.ofNat 64 r.2))) ∧
  (∀ (f : XR) (s : State) (I : Issuer), FrontIssues s (.nwdraw f) I → Full [I.srcX f.xa.toNat, I.srcX f.xb.toNat] →
    Free [I.srcX f.xd.toNat] →
    let hit := ((s.partOf I.blk.part).nodes.filter fun n => n.2.ctx == I.blk.ctx && withdrawable n.2 &&
      (n.2.nrec.tag ^^^ (I.xreg f.xa.toNat).val) &&& (I.xreg f.xb.toNat).val == 0).map (·.1)
    let t := withdrawAll s I.blk.part I.blk.ctx ((s.partOf I.blk.part).nodes.length + 1) hit
    Completes (.nwdraw f) s I (writeX (settleNodes t I.blk.part) I f.xd.toNat
      (BitVec.ofNat 64 (withdrawnCount t I.blk.part - withdrawnCount s I.blk.part)))) ∧
  (∀ (f : XR) (s : State) (I : Issuer), FrontIssues s (.nstat f) I → Full [I.srcX f.xa.toNat] → Free [I.srcX f.xd.toNat] →
    let va := (I.xreg f.xa.toNat).val.toNat
    let rs : List MemReq := [{ key := 0, thread := 0, va := va + 0x40, act := .rd 8 }]
    (∀ n, nodeAt s I.blk.part I.blk.ctx va = some n → Completes (.nstat f) s I (writeX s I f.xd.toNat (BitVec.ofNat 64 (statusWord n.2)))) ∧
    (nodeAt s I.blk.part I.blk.ctx va = none → va % 8 = 0 → Reaches s I false true rs →
      Performs (.nstat f) s I false true rs (.xreg f.xd.toNat true (I.xbank f.xd.toNat)) 0 fun s => emptyX s I f.xd.toNat)) ∧
  (∀ (s : State) (L : LayoutEnt), layoutOf s s.subject.pkg s.subject.part = some L → s.subject.idx < 16 →
    (s.pkgOf s.subject.pkg).linkUp = true → s.subject.flag = true ∨ (s.pkgOf s.subject.pkg).bound s.subject.part = true →
    Answers .launchQueueTail s
      (updQueue s s.subject.part s.subject.idx fun q => tailWrite q (s.subject.val.setWidth 32) s.subject.flag)) ∧
  (∀ (q : LaunchQ) (t : Word) (byH : Bool), t ≠ q.tail →
    ((t - q.tail).toNat + (q.tail - q.head).toNat ≤ q.size.toNat →
      (tailWrite q t byH).tail = t ∧ (tailWrite q t byH).err = q.err ∧ (tailWrite q t byH).head = q.head) ∧
    (q.size.toNat < (t - q.tail).toNat + (q.tail - q.head).toNat → tailWrite q t byH = { q with err := true })) ∧
  (∀ (s s1 : State) (l : List Byte),
    let q := Tab.get {} (s.partOf s.subject.part).queues s.subject.idx
    q.en = true → q.head ≠ q.tail →
    ctxReadAt s s.subject.part q.ctx .u (q.base.toNat + 16 * (q.head.toNat % max 1 q.size.toNat)) 16 = (s1, some l) →
    fld l 0 8 % 64 = 0 → fld l 0 8 < 2 ^ 52 → 1 ≤ fld l 8 4 → fld l 8 4 ≤ 4096 → fld l 12 4 = 0 →
    let r := acceptGraph s1 s.subject.part q.ctx (entryByH q) 7 ((List.range (fld l 8 4)).map fun i => fld l 0 8 + nodeBytes * i)
    r.2 ≠ 3 →
    Answers .graphAccept s (updQueue r.1 s.subject.part s.subject.idx fun q => consumeEntry q (r.2 == 4))) ∧
  (∀ (s : State) (n : Node) (t : Nat), nodeOf s s.subject.part s.subject.idx = some n → n.passedAt = some t → inPool n = true →
    n.reserving = false → t + 100000 ≤ s.now →
    Answers .nodeReserve s (updNode s s.subject.part s.subject.idx fun n => { n with reserving := true })) ∧
  (∀ (s t s1 : State) (seq : Nat) (l : List Nat), readRecords s s.subject.part = t → t.barred = s.barred →
    dispatchFirst t s.subject.part (ranked t s.subject.part) [] = (some (s1, seq), l) →
    Answers .blockDispatch s (settleNodes (putStatus (markPassed s1 s.subject.part l) s.subject.part seq) s.subject.part)) ∧
  (∀ (s : State) (part seq : Nat) (N : Node) (idx attempt g step0 abase : Nat),
    let t := placeBlock s part seq N idx attempt g step0 abase
    (∃ B, Tab.find t.blocks s.nextId = some B ∧ B.core = g ∧ B.idx = idx ∧ B.seq = seq ∧ B.ctx = N.ctx ∧ B.seed = N.nrec.seed ∧
      B.step0 = step0 ∧ B.abase = abase ∧ B.front = launchFront N.nrec idx) ∧
    (∀ q, q < N.nrec.quires → Tab.find t.quires (quireKey s.nextId q) = some (launchQuire N.nrec idx q)) ∧
    (t.coreOf g).running = some (part, N.ctx)) ∧
  (∀ (s : State) (B : Block), Tab.find s.blocks s.subject.idx = some B → blockDone s s.subject.idx B = true →
    ∃ t, exec .blockRetire s = .next t ∧ Tab.find t.blocks s.subject.idx = none ∧
      ∀ k Q, Tab.find t.quires k = some Q → k / 16 ≠ s.subject.idx)

/-- Pre-emption: at the end of a slice a context with other work behind it is requested, and else starts a new slice; H's
request stands; the grace halt happens once its timer has passed, and the kill once its own has; a stopped block is
saved and leaves its core; a saved one whose images can be read resumes; H resumes a held slot, injects PAGE_FAULT, or
kills its context. A killed context has no block left (R351, R361, R367, R376 to R384). -/
def Obligations.PreemptionCompletes : Prop :=
  (∀ (s : State) (part : Nat) (ctx : Word) (L : LayoutEnt), (s.coreOf s.subject.idx).running = some (part, ctx) →
    layoutOf s (s.subject.idx / 384) part = some L → L.slice.toNat ≤ (s.coreOf s.subject.idx).slice →
    coreRequested s part ctx s.subject.idx = false →
    Answers .sliceExpiry s (if otherWork s part s.subject.idx ctx = true then
        requestPreempt (s.updCore s.subject.idx fun c => { c with turns := c.turns.filter (· != ctx) ++ [ctx] }) part ctx
          [s.subject.idx] false
      else s.updCore s.subject.idx fun c => { c with slice := 0 })) ∧
  (∀ (s : State), blocksOn s s.subject.part s.subject.ctx s.subject.nums ≠ [] →
    Answers .hPreemptionRequest s (requestPreempt s s.subject.part s.subject.ctx s.subject.nums false)) ∧
  (∀ (s : State) (p : Preempt), Tab.find s.preempts s.subject.idx = some p → p.grace = false →
    p.start + graceTicks s p.part ≤ s.now →
    Answers .graceHalt s (((blocksOn s p.part p.ctx p.cores).flatMap fun e => blockUnits s e.1).foldl haltUnit
      { s with preempts := Tab.set s.preempts s.subject.idx { p with grace := true } })) ∧
  (∀ (s : State), s.subject.flag = true → s.subject.ctx ∈ partContexts s s.subject.part →
    Answers .kill s (killContext s s.subject.part s.subject.ctx)) ∧
  (∀ (s : State) (p : Preempt), s.subject.flag = false → Tab.find s.preempts s.subject.idx = some p →
    p.start + killTicks s p.part ≤ s.now → blocksOn s p.part p.ctx p.cores ≠ [] →
    Answers .kill s (killContext s p.part p.ctx)) ∧
  (∀ (s : State) (part : Nat) (ctx : Word) (b : Nat) (B : Block),
    Tab.find (killContext s part ctx).blocks b = some B → B.part = part → B.ctx ≠ ctx) ∧
  (∀ (s s0 s1 : State) (B : Block) (p : Preempt) (v : SaveSlot) (ks : List (UnitId × Keep)), Tab.find s.blocks s.subject.idx = some B →
    requestOf s B = some p → B.saveSlot = some v → blockQuiet s s.subject.idx B = true → blockDone s s.subject.idx B = false →
    p.layout = false → keepsOf s B (blockUnits s s.subject.idx) = (s0, some ks) →
    let k := keptBlock s0 s.subject.idx B ks
    writeParts s0 B.part B.ctx v.at (blockImage s0 s.subject.idx k.1 k.2 (anyHalted s0 s.subject.idx)) = (s1, true) →
    ∃ t sv, exec .blockSave s = .next t ∧ Tab.find t.blocks s.subject.idx = none ∧ sv ∈ (t.partOf B.part).saved ∧
      sv.b = s.subject.idx ∧ sv.ctx = B.ctx ∧ sv.core = B.core ∧ sv.quires = k.2) ∧
  (∀ (s t : State) (v : Saved), (s.partOf s.subject.part).saved.find? (fun v => v.b == s.subject.idx) = some v →
    v.block.node.gang = false → resumeOne s s.subject.part v = .took t → Answers .blockResume s t) ∧
  (∀ (s : State) (I : Issuer) (c : Trap) (pc : DWord), WaitsFor s I (.heldAtH c pc) →
    let free := fun s : State => updStrand s I.u fun c => { c with wait := .none }
    (s.subject.sub = 0 → Answers .heldSlotAnswer s (clearPopTrap (dropPages (free s) I.u I.mask) I.u)) ∧
    (s.subject.sub = 1 → Answers .heldSlotAnswer s
      (takeTrap (free (injectedInfo s c).2) I.u { cause := .pageFault, info := (injectedInfo s c).1 })) ∧
    (s.subject.sub = 2 → Answers .heldSlotAnswer s (killContext s I.blk.part I.blk.ctx)))

/-! ## The layout, the fabric and the host link -/

/-- The layout of a package: a COMMIT starts, or sets ERR; at the tick SHADOW becomes LIVE and VERSION advances by one, and
COMMIT reads 0 once no scrub is left; a scrub ends, and the last of a commit ends the commit; ERRCLR clears ERR; a release of a frame starts at FRGO and ends with every byte of the frame zero and no
other byte changed; H's answers release or refuse what is held; PLACE entries and registers are written; the loss of a
unit is told to H (R58, R78, R156, R388 to R398). -/
def Obligations.LayoutSteps : Prop :=
  (∀ (s : State) (p : Pkg), HasPkg s p → Answers .layoutCommit s (startCommit s s.subject.pkg)) ∧
  (∀ (s : State) (pkg : Nat) (p : Pkg), Tab.find s.pkgs pkg = some p → p.committing = false → p.recovery = false →
    commitErr s pkg ≠ 0 → commitErr s pkg < 16 →
    ((startCommit s pkg).pkgOf pkg).err.toNat = commitErr s pkg ∧ ((startCommit s pkg).pkgOf pkg).layout = p.layout ∧
    ((startCommit s pkg).pkgOf pkg).committing = false ∧ (startCommit s pkg).blocks = s.blocks) ∧
  (∀ (s s1 : State) (p p1 : Pkg), HasPkg s p → p.committing = true → p.commitScrubs = [] →
    (∀ m ∈ s.msgs, oldRequest p s.subject.pkg m.2 = false) →
    (∀ e ∈ s.blocks, e.2.core ∉ quadCores s.subject.pkg (changedQuads p)) →
    (∀ e ∈ s.engs, onChangedEngine p s.subject.pkg e.2 = false) →
    moveSaved s (quadCores s.subject.pkg (changedQuads p)) = (s1, true) → Tab.find s1.pkgs s.subject.pkg = some p1 →
    p1.committing = true →
    let scrubs := (changedQuads p1).map ScrubWhat.quad ++ (changedBanks p1 ++ relistedBanks p1).eraseDups.map ScrubWhat.bank ++
      (changedCopy p1).map ScrubWhat.copyEng ++ (changedColl p1).map ScrubWhat.collEng
    ∃ t, exec .layoutTick s = .next t ∧ (t.pkgOf s.subject.pkg).layout = p1.shadow ∧
      (t.pkgOf s.subject.pkg).version = p1.version + 1 ∧ (t.pkgOf s.subject.pkg).commitScrubs = scrubs ∧
      ((t.pkgOf s.subject.pkg).committing = true ↔ scrubs ≠ [])) ∧
  (∀ (s : State) (p : Pkg) (w : ScrubWhat), HasPkg s p → p.scrubs[s.subject.idx]? = some w →
    (∀ n, w = .quad n → ∀ e ∈ s.blocks, e.2.core ∉ quadCores s.subject.pkg [n]) →
    let t := s.updPkg s.subject.pkg fun p => { p with scrubs := p.scrubs.erase w, commitScrubs := p.commitScrubs.erase w }
    let u := match w with
      | .quad n => (quadCores s.subject.pkg [n]).foldl (fun s g => s.updCore g fun c => { ports := c.ports }) t
      | .copyEng n => dropEngTlb t s.subject.pkg n
      | .collEng n => dropEngTlb t s.subject.pkg (32 + n)
      | _ => t
    Answers .scrubComplete s (wakeBehind (if p.commitScrubs == [w] then endCommit u s.subject.pkg else u))) ∧
  (∀ (s : State) (pkg : Nat) (p : Pkg), Tab.find s.pkgs pkg = some p → p.shadow = p.layout →
    ((endCommit s pkg).pkgOf pkg).committing = false ∧ ((endCommit s pkg).pkgOf pkg).layout = p.layout) ∧
  (∀ (s : State) (p : Pkg), HasPkg s p →
    Answers .errclr s (s.updPkg s.subject.pkg fun p => { p with err := 0 })) ∧
  (∀ (s : State) (p : Pkg), HasPkg s p → Answers .frameRelease s (writeFrgo s s.subject.pkg s.subject.val)) ∧
  (∀ (s : State) (r : Nat × Nat × Nat), (s.pkgOf s.subject.pkg).releases[s.subject.idx]? = some r → frameBusy s r.1 = false →
    ∃ t, exec .frameReleaseDone s = .next t ∧
      ∀ a, Memory.read t.mem a = if a / 2 ^ 25 = r.1 then 0 else Memory.read s.mem a) ∧
  (∀ (s : State) (p : Pkg), HasPkg s p →
    Answers .s2respRelease s (answerHeld s s.subject.pkg s.subject.part s.subject.idx false)) ∧
  (∀ (s : State) (p : Pkg), HasPkg s p →
    Answers .s2respRefuse s (answerHeld s s.subject.pkg s.subject.part s.subject.idx true)) ∧
  (∀ (s : State) (p : Pkg), HasPkg s p → s.subject.sub = 4 ∨ s.subject.sub = 8 → s.subject.idx % s.subject.sub = 0 →
    s.subject.idx < 96 →
    Answers .placeWrite s (writePlace s s.subject.pkg s.subject.idx (leBytes s.subject.sub s.subject.val.toNat))) ∧
  (∀ (s : State) (p : Pkg), HasPkg s p → s.subject.flag = false → winBase ≤ s.subject.off → s.subject.off < 2 ^ 44 →
    s.subject.sub = 4 ∨ s.subject.sub = 8 →
    Answers .registerWrite s (
      if s.subject.off % s.subject.sub ≠ 0 then s.tell (.registerError s.subject.pkg)
      else if s.subject.sub = 8 then writeRegister s s.subject.pkg s.subject.off s.subject.val 3
      else if s.subject.off % 8 = 0 then writeRegister s s.subject.pkg s.subject.off s.subject.val 1
      else writeRegister s s.subject.pkg (s.subject.off - 4) (s.subject.val <<< 32) 2)) ∧
  (∀ (s : State) (p : Pkg), HasPkg s p →
    (s.subject.loss = .core → s.subject.idx < 384 → Answers .unitLoss s ((loseQuad s s.subject.pkg (s.subject.idx / 4)
      [coreGid s.subject.pkg s.subject.idx] (.core s.subject.pkg (physQuad s (coreGid s.subject.pkg s.subject.idx))
        (s.subject.idx % 4))).tell (.unitLost s.subject.pkg .core s.subject.idx))) ∧
    (s.subject.loss = .quad → s.subject.idx < 96 → Answers .unitLoss s ((loseQuad s s.subject.pkg s.subject.idx
      (quadCores s.subject.pkg [s.subject.idx]) (.quad s.subject.pkg (physQuad s (coreGid s.subject.pkg (4 * s.subject.idx))))).tell
        (.unitLost s.subject.pkg .quad s.subject.idx))) ∧
    (s.subject.loss = .die → s.subject.idx < 8 → Answers .unitLoss s ((loseDie s s.subject.pkg s.subject.idx).tell
      (.unitLost s.subject.pkg .die s.subject.idx))) ∧
    (s.subject.loss = .bank → s.subject.idx < 128 → Answers .unitLoss s ((s.updPkg s.subject.pkg fun p =>
      { p with lostBanks := addLost p.lostBanks [s.subject.idx] }).tell (.unitLost s.subject.pkg .bank s.subject.idx))) ∧
    (s.subject.loss = .group → s.subject.idx < 128 → Answers .unitLoss s ((s.updPkg s.subject.pkg fun p =>
      { p with lostGroups := addLost p.lostGroups [s.subject.idx] }).tell (.unitLost s.subject.pkg .group s.subject.idx))))

/-- The fabric: READ, WRITE and ATOMIC reach their home, where the map decides whether they are performed, held or
returned; RESP and ACK settle an answered request; a refused one, of a headgate too, waits for the home's version. Link errors are counted.
SHADOW, LIVE and FROZEN are written; COMMIT makes SHADOW the map and advances its version; the loss of a plane starts a
quiesce on every package of the pod, whose reports arrive, or whose silent packages are fenced out. The scrub reaches
a line once in a period, counts the error it corrects, and tells H of the failing units it finds (R60, R93 to R106). -/
def Obligations.FabricSteps : Prop :=
  (∀ (s : State) (m : Msg) (d : Nat) (i : Instr) (k : Nat), (i, k) ∈ [(Instr.read, 0), (Instr.write, 1), (Instr.atomic, 2)] →
    MsgAt s m d .flying → msgKind m = k → lineBusy s s.subject.idx m d = false →
    sentBefore s m.req.pkg m.plane (d >>> 44) m.stamp = false → homeStops s m d = false →
    Answers i s (arriveMsg s s.subject.idx m d)) ∧
  (∀ (s : State) (id : Nat) (m : Msg) (d : Nat), m.replay = false →
    let home := s.pkgOf (d >>> 44)
    (Tab.get 0 home.map (bucketOf d) = m.plane →
      let r := performLine s m.req d
      (arriveMsg s id m d).mem = r.1.mem ∧ Tab.find (arriveMsg s id m d).msgs id = some { m with state := .answered r.2 }) ∧
    (Tab.get 0 home.map (bucketOf d) ≠ m.plane → verAhead m.ver home.ver.toNat = true →
      arriveMsg s id m d = setMsgState s id m .heldHome) ∧
    (Tab.get 0 home.map (bucketOf d) ≠ m.plane → verAhead m.ver home.ver.toNat = false →
      arriveMsg s id m d = setMsgState s id m (.retryBack home.ver.toNat))) ∧
  (∀ (s : State) (m : Msg) (d : Nat) (a : Answer) (i : Instr) (data : Bool), (i, data) ∈ [(Instr.resp, true), (Instr.ack, false)] →
    MsgAt s m d (.answered a) → msgReturns m = data → Answers i s (settleMsg s s.subject.idx m a)) ∧
  (∀ (s : State) (m : Msg) (v : Nat), Tab.find s.msgs s.subject.idx = some m → m.state = .retryBack v →
    let t := setMsgState s s.subject.idx m (.retryWait v)
    Answers .retryMap s (injectQueued
      (if verReached (t.pkgOf m.req.pkg).ver.toNat v = true then inject t s.subject.idx else t) m.req.pkg)) ∧
  (∀ (s : State) (g : GateOp) (v : Nat), Tab.find s.msgs s.subject.idx = none → Tab.find s.gates s.subject.idx = some g →
    g.state = .retryBack v →
    let t := setGateOp s s.subject.idx { g with state := .retryWait v }
    Answers .retryMap s (injectQueued
      (if verReached (t.pkgOf (gatePkg s g)).ver.toNat v = true then
        injectGate t s.subject.idx { g with state := .retryBack v } g.home else t) (gatePkg s g))) ∧
  (∀ (s : State) (p : Pkg), HasPkg s p →
    Answers .flitCrcReplay s (s.updPkg s.subject.pkg fun p => { p with crcReplays := p.crcReplays + 1 })) ∧
  (∀ (s : State) (p : Pkg), HasPkg s p → s.subject.idx < 20 → s.subject.idx ∉ p.half →
    let n := s.subject.idx
    let used := Tab.get 0 p.spareLanes n
    Answers .dieLaneReplace s (if used < 4 then
        (s.updPkg s.subject.pkg fun p => { p with spareLanes := Tab.set p.spareLanes n (used + 1) }).tell
          (.boundaryLane s.subject.pkg n)
      else (raiseDevstat (s.updPkg s.subject.pkg fun p => { p with half := p.half ++ [n] }) s.subject.pkg 17).tell
        (.boundaryHalf s.subject.pkg n))) ∧
  (∀ (s : State) (p : Pkg), HasPkg s p → s.subject.idx < 16 → 1 ≤ s.subject.sub → s.subject.sub ≤ 3 →
    Answers .planeShadowWrite s (writeShadow s s.subject.pkg (16 * s.subject.idx) s.subject.val s.subject.sub)) ∧
  (∀ (s : State) (p : Pkg), HasPkg s p → s.subject.val.extractLsb' 8 8 &&& ~~~p.frozen ≠ 0 →
    Answers .planeFreeze s (writeLive s s.subject.pkg s.subject.val)) ∧
  (∀ (s : State),
    let ps := (s.pkgs.filter fun e => !e.2.left).map (·.1)
    s.subject.sub < 8 → (∃ k ∈ ps, (s.pkgOf k).live.getLsbD s.subject.sub = true) →
    Answers .planeDead s
      ((ps.foldl (fun t k => startQuiesce t s.subject.sub s.subject.flag k) (tickRest s ps)).tell (.planeLost s.subject.sub)) ∧
    ((∀ k ∈ ps, ∀ q, (s.pkgOf k).quiesce = some q → q.ticked = false) → tickRest s ps = s)) ∧
  (∀ (s : State) (p : Pkg), HasPkg s p → (p.quiesce.isSome = true → replaysOut s s.subject.pkg = false) →
    (∀ q, p.quiesce = some q → q.back ≠ [] → frozenOut s s.subject.pkg = false) →
    Answers .planeMapCommit s (commitMap s s.subject.pkg)) ∧
  (∀ (s : State) (pkg : Nat) (p : Pkg), Tab.find s.pkgs pkg = some p → p.quiesce = none →
    (∀ b, b < 256 → p.live.getLsbD (Tab.get 0 p.shadowMap b) = true) →
    ((commitMap s pkg).pkgOf pkg).map = p.shadowMap ∧ ((commitMap s pkg).pkgOf pkg).ver = p.ver + 1) ∧
  (∀ (s : State) (q : Quiesce), (s.pkgOf s.subject.pkg).quiesce = some q → s.subject.idx ∈ q.coming →
    Answers .quiesceReport s (tryResume (s.updPkg s.subject.pkg fun p =>
      { p with quiesce := some { q with coming := q.coming.erase s.subject.idx, reports := q.reports ++ [s.subject.idx] } })
      s.subject.pkg)) ∧
  (∀ (s : State) (q : Quiesce), (s.pkgOf s.subject.pkg).quiesce = some q → s.subject.idx ∉ q.reports →
    s.subject.idx ∈ awaited s s.subject.pkg → q.start + 200000 * (q.dead ++ q.back).length ≤ s.now →
    let t := s.updPkg s.subject.pkg fun p => { p with fenced := p.fenced ++ [s.subject.idx] }
    Answers .packageFenceOut s (tryResume
      ((failGates (failMsgs t 4 fun m => m.req.pkg == s.subject.pkg && remoteMsg m == some s.subject.idx) s.subject.pkg).tell
        (.fencedOut s.subject.idx))
      s.subject.pkg)) ∧
  (∀ (s : State) (p : Pkg), HasPkg s p → s.subject.off < 2 ^ 41 →
    Tab.get 0 p.scrubbed (s.subject.off / 64) < scrubPeriod s p →
    ∃ t, exec .backgroundScrub s = .next t ∧ t.mem = s.mem ∧ t.bad = s.bad ∧
      Tab.get 0 (t.pkgOf s.subject.pkg).scrubbed (s.subject.off / 64) = scrubPeriod s p ∧
      (s.subject.flag = true → Tab.get 0 (t.pkgOf s.subject.pkg).corrected (scrubUnit p (s.subject.off / 64 * 64)) =
        Tab.get 0 p.corrected (scrubUnit p (s.subject.off / 64 * 64)) + 1) ∧
      ∀ u ∈ s.bad, u / 2 = (s.subject.pkg * 2 ^ 44 + s.subject.off) / 64 →
        HEvent.scrubFound s.subject.pkg (u * 32) ∈ t.told)

/-- The host link completes: a page request takes the lowest free slot, and its answer goes to the context of the unit that
made it, or is counted as late; translations are cached, and invalidated in the order of their requests; host writes reach
memory, are refused at a sealed region, or are told to H; a host request completes at the address that its translation
gave, fails with the host's answer, or after 50 reference ms, an engine's too; a link that goes down and a function that
is reset start the functions anew (R85 to R88, R109, R110). -/
def Obligations.HostLinkSteps : Prop :=
  (∀ (s : State) (d : Nat × UnitId × DWord) (i : Nat), (s.pkgOf s.subject.pkg).doorbells[s.subject.idx]? = some d →
    (s.pkgOf s.subject.pkg).bound d.1 = true →
    ((List.range 32).find? fun i => (Tab.find (funcOf (s.pkgOf s.subject.pkg) d.1).pri i).isNone) = some i →
    Answers .priDoorbell s (updFunc (s.updPkg s.subject.pkg fun p => { p with doorbells := p.doorbells.erase d }) s.subject.pkg d.1
      fun f =>
        let slot : PriSlot := { unit := d.2.1, page := bits d.2.2.toNat 16 36, write := d.2.2.getLsbD 0 }
        { f with pri := Tab.set f.pri i slot })) ∧
  (∀ (s : State) (p : Pkg), HasPkg s p → p.bound s.subject.part = true →
    let f := funcOf p s.subject.part
    let slot := bits s.subject.val.toNat 0 5
    let current := bits s.subject.val.toNat 5 4 = f.gen
    ((¬ current ∨ Tab.find f.pri slot = none) →
      Answers .pageRequestResponse s (s.updCounts s.subject.pkg s.subject.part fun c => { c with latePri := c.latePri + 1 })) ∧
    (∀ r, current → Tab.find f.pri slot = some r →
      let t := updFunc s s.subject.pkg s.subject.part fun f => { f with pri := Tab.del f.pri slot }
      (∀ c, unitCtx t s.subject.part r.unit = some c →
        Answers .pageRequestResponse s (t.updPart s.subject.part fun P =>
          { P with events := latchEvent P.events c 0 (some r.unit) (BitVec.ofNat 64 (slot + (s.subject.sub % 16) <<< 8)) })) ∧
      (unitCtx t s.subject.part r.unit = none → Answers .pageRequestResponse s t))) ∧
  (∀ (s : State) (m : Msg) (ha : Nat), HostMsg s m ha → m.ats = true → m.req.pkg = s.subject.pkg →
    m.req.part = s.subject.part → (s.pkgOf s.subject.pkg).bound s.subject.part = true →
    s.subject.idx ∈ atsOut s s.subject.pkg s.subject.part →
    let page : AtcEnt := { page := ha >>> 12, dst := s.subject.off >>> 12, r := s.subject.flag, w := s.subject.flag2,
                           granule := m.req.gpa >>> 25 }
    let allowed := if m.req.write = true then s.subject.flag2 else s.subject.flag
    (s.subject.sub = 0 → Answers .atsTranslationCompletion s
      (putMsg (putAtc s m.req.pkg m.req.part page) s.subject.idx
        { m with ats := false, sent := s.now, sentAs := if allowed = true then some (((s.subject.off >>> 12) <<< 12) + ha % 4096) else none })) ∧
    (s.subject.sub ≠ 0 → Answers .atsTranslationCompletion s (failHost s s.subject.idx m))) ∧
  (∀ (s : State) (w : AtsWant) (ws : List AtsWant), Tab.find s.msgs s.subject.idx = none → s.subject.idx = 0 →
    (s.pkgOf s.subject.pkg).bound s.subject.part = true → wantsOf s s.subject.pkg s.subject.part = w :: ws →
    let page : AtcEnt := { page := w.page, dst := s.subject.off >>> 12, r := s.subject.flag, w := s.subject.flag2,
                           granule := w.gpa >>> 25 }
    (s.subject.sub = 0 → Answers .atsTranslationCompletion s
      (wantMet (putAtc s s.subject.pkg s.subject.part page) s.subject.pkg w)) ∧
    (s.subject.sub ≠ 0 → Answers .atsTranslationCompletion s (wantFails s s.subject.pkg w))) ∧
  (∀ (s : State) (pkg part : Nat) (p : Pkg) (e : AtcEnt), Tab.find s.pkgs pkg = some p →
    (funcOf p part).atc.length ≤ 1024 →
    let l := (funcOf ((putAtc s pkg part e).pkgOf pkg) part).atc
    e ∈ l ∧ l.length ≤ 1024 ∧ ∀ x ∈ l, x = e ∨ (x ∈ (funcOf p part).atc ∧ x.page ≠ e.page)) ∧
  (∀ (s : State) (p : Pkg), HasPkg s p → p.bound s.subject.part = true → s.subject.idx ≠ 0 →
    (funcOf p s.subject.part).invals.length < 32 →
    let v : Inval := { first := s.subject.off >>> 12, n := s.subject.idx, pasid := s.subject.flag, ctx := s.subject.ctx }
    let t := nextInval (updFunc s s.subject.pkg s.subject.part fun f => { f with invals := f.invals ++ [v] })
      s.subject.pkg s.subject.part
    Answers .atsInvalidationRequest s t ∧
    (s.subject.flag = false → (funcOf p s.subject.part).invals = [] →
      (funcOf (t.pkgOf s.subject.pkg) s.subject.part).atc =
        (funcOf p s.subject.part).atc.filter fun e => !(decide (v.first ≤ e.page) && decide (e.page < v.first + v.n)))) ∧
  (∀ (s : State) (L : LayoutEnt), s.subject.bytes ≠ [] → (s.pkgOf s.subject.pkg).linkUp = true →
    layoutOf s s.subject.pkg s.subject.part = some L → (s.pkgOf s.subject.pkg).bound s.subject.part = true →
    let parts := pieces (s.subject.bytes.length / 64 + 2) s.subject.off s.subject.bytes.length
    ((∃ p ∈ parts, isSealed s s.subject.part p.1 = true) →
      Answers .inboundWrite s (s.updCounts s.subject.pkg s.subject.part fun c => { c with hostRef := c.hostRef + 1 })) ∧
    ((∀ p ∈ parts, isSealed s s.subject.part p.1 = false) →
      (∀ t, gpaWrite s s.subject.pkg s.subject.part s.subject.off s.subject.bytes 0 = .ok t → Answers .inboundWrite s t) ∧
      (∀ g k n, gpaWrite s s.subject.pkg s.subject.part s.subject.off s.subject.bytes 0 ∈ [.s2 g, .mem g k, .win g n] →
        Answers .inboundWrite s (noThread s s.subject.part g)) ∧
      (∀ w, gpaWrite s s.subject.pkg s.subject.part s.subject.off s.subject.bytes 0 = .wait w →
        Answers .inboundWrite s (s.bar s.subject.pkg s.subject.part w)))) ∧
  (∀ (s : State) (m : Msg) (ha : Nat), HostMsg s m ha → m.ats = false → (s.pkgOf m.req.pkg).linkUp = true →
    let r := performHostLine { s with msgs := Tab.del s.msgs s.subject.idx } m.req (m.sentAs.getD ha)
    (s.subject.flag = true → Answers .hostCompletion s (failHost s s.subject.idx m)) ∧
    (s.subject.flag = false → hostLineBusy s s.subject.idx m ha = false →
      Answers .hostCompletion s (mergeAnswer r.1 m.req.op 1 0 r.2))) ∧
  (∀ (s : State) (e : EngOp) (va : Nat), Tab.find s.msgs s.subject.idx = none → Tab.find s.engs s.subject.idx = some e →
    e.phase ≠ .queued → engHostVa s e = some va →
    (s.subject.flag = true → Answers .hostCompletion s (engBreak s s.subject.idx e 4 0 va)) ∧
    (∀ n, e.asked = some (va, n) → n + 5000000 ≤ s.now → Answers .completionTimeout s (engBreak s s.subject.idx e 4 0 va))) ∧
  (∀ (s : State) (m : Msg) (ha : Nat), HostMsg s m ha → m.sent + 5000000 ≤ s.now →
    Answers .completionTimeout s (failHost s s.subject.idx m)) ∧
  (∀ (s : State) (w : AtsWant) (ws : List AtsWant), Tab.find s.msgs s.subject.idx = none →
    Tab.find s.engs s.subject.idx = none → s.subject.idx = 0 → wantsOf s s.subject.pkg s.subject.part = w :: ws →
    w.sent + 5000000 ≤ s.now → Answers .completionTimeout s (wantFails s s.subject.pkg w)) ∧
  (∀ (s : State) (p : Pkg), HasPkg s p → p.linkUp = true →
    let parts := ((validEnts p.layout).map fun e => e.podPart.toNat) ++ p.funcs.map (·.1)
    Answers .linkDown s (parts.eraseDups.foldl (fun t n => restartFunc t s.subject.pkg n)
      (s.updPkg s.subject.pkg fun p => { p with linkUp := false }))) ∧
  (∀ (s : State) (p : Pkg), HasPkg s p → Answers .functionReset s (restartFunc s s.subject.pkg s.subject.part)) ∧
  (∀ (s : State) (pkg part : Nat), wantsOf s pkg part = [] →
    (∀ m ∈ s.msgs, m.2.req.pkg = pkg → m.2.req.part = part → ∃ d, m.2.tgt = .dev d) →
    restartFunc s pkg part = updFunc s pkg part fun f => { f with gen := (f.gen + 1) % 16, pri := [], atc := [] })

/-- The package's management completes: a cold reset and a power-on leave the registers at their reset values, or the
package in recovery; SPDM requests are answered in their order; a die's clock steps down by 135 MHz; the critical
temperature stops the package; a peer-to-peer request is refused and counted (R6, R108, R408, R409). -/
def Obligations.ManagementSteps : Prop :=
  (∀ (s : State) (p : Pkg), HasPkg s p →
    ∃ t, exec .coldReset s = .next t ∧ t.pkgOf s.subject.pkg = { Pkg.reset with refills := s.now / 10000 } ∧
      (∀ c ∈ t.cores, c.1 / 384 ≠ s.subject.pkg)) ∧
  (∀ (s : State) (p : Pkg), HasPkg s p → validEnts p.layout = [] →
    Answers .powerOn s (if s.subject.flag = true then s.updPkg s.subject.pkg fun _ => { Pkg.reset with refills := s.now / 10000 }
      else (s.updPkg s.subject.pkg fun _ => { Pkg.reset with refills := s.now / 10000, halmetUp := false, recovery := true }).tell
        (.recovery s.subject.pkg))) ∧
  (∀ (s : State) (p : Pkg) (i : Instr) (a : SpdmAnswer), (i, a) ∈ spdmRows p → HasPkg s p → p.halmetUp = true → p.linkUp = true →
    Answers i s (s.updPkg s.subject.pkg fun p => { p with spdm := p.spdm ++ [a] })) ∧
  (∀ (s : State) (p : Pkg), HasPkg s p → s.subject.idx < 8 → 135 < Tab.get 2700 p.clocks s.subject.idx →
    Answers .throttle s (s.updPkg s.subject.pkg fun q =>
      { q with clocks := Tab.set q.clocks s.subject.idx (Tab.get 2700 p.clocks s.subject.idx - 135) })) ∧
  (∀ (s : State) (p : Pkg), HasPkg s p →
    ∃ t, exec .criticalTemperature s = .next t ∧ (t.pkgOf s.subject.pkg).stopped = true ∧
      HEvent.critical s.subject.pkg ∈ t.told) ∧
  (∀ (s : State) (p : Pkg), HasPkg s p →
    Answers .peerToPeerRequest s (s.updPkg s.subject.pkg fun p => { p with refusedP2p := p.refusedP2p + 1 }))

/-- The Ethernet packets of a reliable connection take effect: the return and the data of a collective's step arrive at
the neighbour, RDMA writes and reads reach the memory of the queue pair's context, unsupported packets are counted, a
timeout sends the unacknowledged packets again until the retries are used up, a mark slows the sender, PFC pauses a
priority, and a port that fails goes down (R107, R139). -/
def Obligations.EthernetSteps : Prop :=
  (∀ (s : State) (e : EngOp) (k : Nat) (ks : List Nat) (l : Nat × Nat × Nat) (n : Nat),
    Tab.find s.engs s.subject.idx = some e → e.outR = k :: ks → linkOf e (leftRank e.coll) = some l → e.left = some n →
    (Tab.get {} (s.pkgOf l.1).eth l.2.1).up = true →
    let t := leftWay s s.subject.idx { e with outR := ks }
    Answers .roceSend s { t with engs := Tab.modify t.engs n fun c => { c with returned := k } }) ∧
  (∀ (s t : State) (e c : EngOp) (k r : Nat) (bs : List Byte) (rest : List (Nat × List Byte)) (l : Nat × Nat × Nat),
    Tab.find s.engs s.subject.idx = some e → e.outW = (k, bs) :: rest → linkOf e e.coll.rank = some l → e.right = some r →
    Tab.find s.engs r = some c → (Tab.get {} (s.pkgOf l.1).eth l.2.1).up = true → engHeld s r = false →
    engWrite s c [((c.ring.getD c.coll.rank {}).stage + 64 + (k % 2) * halfBytes c.coll, bs)] = .ok t () →
    let told := { t with engs := Tab.modify t.engs r fun c => { c with arrived := k + 1 } }
    let u := leftWay told told.subject.idx { e with outW := rest }
    Answers .roceRdmaWriteImm s (updQp u l fun q =>
      { q with unacked := q.unacked - packets q bs.length, tries := 0, since := u.now })) ∧
  (∀ (s : State) (id : Nat) (e : EngOp), (∀ k, e.phase ≠ .collStep k) → leftWay s id e = setEng s id e) ∧
  (∀ (s : State) (part : Nat) (q : QPair), RoceUp s part q →
    Answers .roceRdmaWrite s (ctxWriteAt s part q.ctx .s s.subject.off s.subject.bytes).1) ∧
  (∀ (s s1 : State) (part : Nat) (q : QPair) (l : List Byte), RoceUp s part q →
    ctxReadAt s part q.ctx .s s.subject.off s.subject.val.toNat = (s1, some l) →
    Answers .roceRdmaRead s
      (updQp s1 (s.subject.pkg, s.subject.idx, s.subject.sub) fun q => { q with reads := q.reads ++ [l] })) ∧
  (∀ (s : State) (p : Pkg), HasPkg s p → s.subject.idx < 8 →
    Answers .roceUnsupported s (updPort s fun p => { p with dropped := p.dropped + 1 })) ∧
  (∀ (s : State) (part : Nat) (q : QPair), RoceUp s part q → q.unacked ≠ 0 → q.since + q.timeout ≤ s.now →
    (q.tries < q.retries → Answers .roceRetransmitTimeout s
      (updQp s (s.subject.pkg, s.subject.idx, s.subject.sub) fun q =>
        { q with resent := q.resent + q.unacked, tries := q.tries + 1, since := s.now })) ∧
    (q.retries ≤ q.tries → Answers .roceRetransmitTimeout s
      (failNetwork (updQp s (s.subject.pkg, s.subject.idx, s.subject.sub) fun q => { q with unacked := 0, tries := 0 })
        fun e => e.collBusy && linkOf e e.coll.rank == some (s.subject.pkg, s.subject.idx, s.subject.sub)))) ∧
  (∀ (s : State) (part : Nat) (q : QPair), RoceUp s part q →
    Answers .ecnMark s (updQp s (s.subject.pkg, s.subject.idx, s.subject.sub) fun q => { q with rate := q.rate + 1 })) ∧
  (∀ (s : State) (p : Pkg), HasPkg s p → s.subject.idx < 8 → s.subject.sub < 8 →
    Answers .pfcPause s (updPort s fun p => { p with paused :=
      if s.subject.flag then p.paused ||| (1#8 <<< s.subject.sub) else p.paused &&& ~~~(1#8 <<< s.subject.sub) })) ∧
  (∀ (s : State) (p : Pkg), HasPkg s p → s.subject.idx < 8 →
    (Tab.get {} (s.pkgOf s.subject.pkg).eth s.subject.idx).up = true →
    ∃ t, exec .ethernetLinkFail s = .next t ∧
      (Tab.get {} (t.pkgOf s.subject.pkg).eth s.subject.idx).up = false)

/-! ## Reset and memory -/

/-- After reset every package of the pod stands at its register reset values: every plane map word and SHADOW word
0x7654321076543210, LIVE 0xFF, VER, FROZEN and QUIESCE 0, every layout entry 0 but for SLICE 5,400,000, GRACE 100 and KILL
10,000, every other word of the layout block 0 but for DEVSTAT with 8 SPARES, and PLACE[n] physical quad 13 (n div 12) + n
mod 12 with V (R98, R388, R389, R396, R397). There is no block, quire, node, message or engine operation; memory lists nothing and its canonical form holds. -/
def Obligations.ResetState : Prop :=
  State.reset.pkgs = Config.podIds.map (fun k => (k, Pkg.reset)) ∧
  (∀ b, b < 256 → Tab.get 0 Pkg.reset.map b = b % 8 ∧ Tab.get 0 Pkg.reset.shadowMap b = b % 8) ∧
  (∀ i, i < 16 → planeRead Pkg.reset (8 * i) = 0x7654321076543210#64 ∧ planeRead Pkg.reset (0x80 + 8 * i) = 0x7654321076543210#64) ∧
  (∀ x ∈ [(0x100, 0), (0x108, 0), (0x110, 0xFF)], planeRead Pkg.reset x.1 = BitVec.ofNat 64 x.2) ∧
  (∀ i k, i < 32 → k < 16 →
    let w : DWord := if k = 11 then 0x64#32 ++ 5400000#32 else if k = 12 then 10000 else 0
    layoutRead Pkg.reset (0x80 * i + 8 * k) = w ∧ layoutRead Pkg.reset (0x1000 + 0x80 * i + 8 * k) = w) ∧
  (∀ x ∈ [(0x2000, 0), (0x2008, 0), (0x2010, 0), (0x2018, 0x80), (0x2020, 0), (0x2028, 0), (0x2030, 0), (0x2038, 0), (0x2040, 0),
    (0x2048, 0), (0x2050, 0), (0x2058, 0), (0x2060, 0), (0x2068, 0), (0x2070, 0)],
    layoutRead Pkg.reset x.1 = BitVec.ofNat 64 x.2) ∧
  (∀ n, n < 96 → Tab.get 0 Pkg.reset.place n = BitVec.ofNat 8 (13 * (n / 12) + n % 12) ||| 0x80#8) ∧
  Pkg.reset.layout.any (fun e => e.2.valid) = false ∧
  State.reset.blocks = [] ∧ State.reset.quires = [] ∧ State.reset.cores = [] ∧ State.reset.parts = [] ∧
  State.reset.msgs = [] ∧ State.reset.views = [] ∧ State.reset.engs = [] ∧ State.reset.mem = [] ∧ State.reset.hostMem = [] ∧
  MemoryCanonical State.reset

/-- Every step keeps memory's canonical form: device memory, host memory and every core's SRAM list their bytes in
strictly rising order of address, and list no byte that reads as an unlisted one does. -/
def Obligations.MemoryStaysCanonical : Prop :=
  ∀ s t : State, MemoryCanonical s → step s = .next t → MemoryCanonical t

end
end

