-- ==== Sys2Proof/Laws/Ops.lean ====
section
/-! SUPPORT. What the shared operations of Machine/Ops.lean do, once each: finding the unit, the sources, the ways a word
ends. The proofs about instructions cite these and unfold nothing below them. -/

namespace Sys2Proof.Laws

open Sys2Proof.Machine Sys2Proof.Safety

/-! ## Ways a word ends -/

@[simp] theorem finish_done (s s0 : State) (I : Issuer) : (Act.done s).finish s0 I = .next (complete s I) := rfl
@[simp] theorem finish_stall (s0 : State) (I : Issuer) : Act.stall.finish s0 I = .next s0 := rfl
@[simp] theorem finish_wait (s s0 : State) (I : Issuer) (w : Wait) :
    (Act.wait s w).finish s0 I = .next (updStrand s I.u fun c => { c with wait := w }) := rfl
@[simp] theorem finish_trap (s0 : State) (I : Issuer) (t : Trap) : (Act.trap t).finish s0 I = .next (takeTrap s0 I.u t) := rfl
@[simp] theorem finish_after (s s0 : State) (I : Issuer) (t : Trap) :
    (Act.after s t).finish s0 I = .next (takeTrap (complete s I) I.u t) := rfl
@[simp] theorem finish_jump (s s0 : State) (I : Issuer) (pc : DWord) :
    (Act.jump s pc).finish s0 I = .next (updStrand (countIcnt s I) I.u fun c => { c with pc := pc, left := 0, wait := .none }) := rfl
@[simp] theorem finish_fixed (s s0 : State) (I : Issuer) : (Act.fixed s).finish s0 I = .next s := rfl

/-- Every way that an issued word ends is a next state. -/
theorem finish_next (a : Act) (s0 : State) (I : Issuer) : ∃ t, a.finish s0 I = .next t := by
  cases a <;> exact ⟨_, rfl⟩

/-! ## The unit -/

/-- The issuer that issuerOf finds is of the unit asked for, and carries the word. -/
theorem issuerOf_unit {s : State} {u : UnitId} {w : Word} {I : Issuer} (h : issuerOf s u w = some I) :
    I.u = u ∧ I.word = w := by
  cases u with
  | front b =>
    simp only [issuerOf, Option.bind_eq_some_iff] at h
    obtain ⟨B, -, h⟩ := h
    split at h
    · cases h
    · cases h; exact ⟨rfl, rfl⟩
  | slot b q sl =>
    simp only [issuerOf, Option.bind_eq_some_iff] at h
    obtain ⟨B, -, Q, -, h⟩ := h
    split at h
    · cases h
    · cases h; exact ⟨rfl, rfl⟩

theorem QuireIssues.unit {s : State} {i : Instr} {I : Issuer} (h : QuireIssues s i I) : I.u = s.subject.unit :=
  (issuerOf_unit h.1.1).1

theorem FrontIssues.unit {s : State} {i : Instr} {I : Issuer} (h : FrontIssues s i I) : I.u = s.subject.unit :=
  (issuerOf_unit h.1.1).1

theorem onQuire_eq {s : State} {i : Instr} {I : Issuer} (h : QuireIssues s i I) (k : Issuer → Act) :
    onQuire i s k = (k I).finish s I := by
  simp [onQuire, h.1.1, h.1.2, h.2]

theorem onFront_eq {s : State} {i : Instr} {I : Issuer} (h : FrontIssues s i I) (k : Issuer → Act) :
    onFront i s k = (k I).finish s I := by
  simp [onFront, h.1.1, h.1.2, h.2]

theorem onUnit_eq {s : State} {i : Instr} {I : Issuer} (h : Issues s i I) (k : Issuer → Act) :
    onUnit i s k = (k I).finish s I := by
  simp [onUnit, h.1, h.2]

/-! ## Sources -/

theorem checkSrcs_full {I : Issuer} {l : List SrcSt} (h : Full l) : checkSrcs I l = .ok := by
  have h1 : (l.any fun x => !x.full && x.note.isNone && x.e) = false := by
    simp only [List.any_eq_false]
    intro x hx
    simp [h x hx]
  have h2 : (l.filterMap fun x => if x.full then none else x.note) = [] := by
    simp only [List.filterMap_eq_nil_iff]
    intro x hx
    simp [h x hx]
  have h3 : l.all (·.full) = true := List.all_eq_true.mpr h
  simp [checkSrcs, h1, h2, h3]

theorem withSrcs_full {I : Issuer} {srcs dsts : List SrcSt} (hs : Full srcs) (hd : Free dsts) (k : Unit → Act) :
    withSrcs I srcs dsts k = k () := by
  have hd' : owed dsts = false := hd
  simp [withSrcs, checkSrcs_full hs, hd']

@[simp] theorem full_nil : Full [] := by simp [Full]
@[simp] theorem free_nil : Free [] := by simp [Free, owed]

theorem full_append {a b : List SrcSt} : Full (a ++ b) ↔ Full a ∧ Full b := by
  simp only [Full, List.mem_append]
  exact ⟨fun h => ⟨fun x hx => h x (.inl hx), fun x hx => h x (.inr hx)⟩, fun h x hx => hx.elim (h.1 x) (h.2 x)⟩

theorem full_of_free {x : SrcSt} (h : x.full = true) : Free [x] := by simp [Free, owed, h]

/-! ## The operand forms -/

theorem vvFrame_ok {h : Shape} {I : Issuer} {f : VV} (hok : h.ok I f = true) (hs : Full (h.srcs I f))
    (hd : Free (I.srcV2 h.wide f.vd.toNat)) (k : Unit → Act) : vvFrame h I f k = k () := by
  simp [vvFrame, hok, withSrcs_full hs hd]

theorem vvInt_completes {i : Instr} {h : Shape} {f : VV} {s : State} {I : Issuer} (hi : QuireIssues s i I)
    (hok : h.ok I f = true) (hs : Full (h.srcs I f)) (hd : Free (I.srcV2 h.wide f.vd.toNat)) (g : Word → Word → Word → Word) :
    vvInt i h f s g = .next (complete (writeV s I f.vd.toNat I.mask fun l =>
      g ((I.vreg f.va.toNat).at l) (BitVec.ofNat 32 ((opndB f.m f.vb).val I false l)) ((I.vreg f.vd.toNat).at l)) I) := by
  simp [vvInt, onQuire_eq hi, vvFrame_ok hok hs hd]

theorem viInt_completes {i : Instr} {f : VI} {s : State} {I : Issuer} (hi : QuireIssues s i I)
    (ha : I.vOk f.va.toNat 1 = true) (hv : I.vOk f.vd.toNat 1 = true) (hs : Full [I.srcV f.va.toNat (f.ea == 1)])
    (hd : Free [I.srcV f.vd.toNat]) (g : Word → Word → Word) :
    viInt i f s g = .next (complete (writeV s I f.vd.toNat I.mask fun l =>
      g ((I.vreg f.va.toNat).at l) (f.imm.signExtend 32)) I) := by
  unfold viInt
  rw [onQuire_eq hi]
  simp only [ha, hv, Bool.and_self, Bool.not_true, Bool.false_eq_true, if_false]
  rw [withSrcs_full hs hd]
  rfl

/-- A condition that does not trap leaves what counted says. -/
theorem instability_counted {s : State} {I : Issuer} {n : Nat} {met : List Nat} (h : NoInstabTrap I n met) (digits : Nat) :
    instability s I n met digits = .done (counted s I n met) := by
  unfold instability counted NoInstabTrap at *
  have hb : bits I.qr.tctl.toNat (2 * n) 2 < 4 := Nat.mod_lt _ (by decide)
  generalize bits I.qr.tctl.toNat (2 * n) 2 = a at *
  generalize inInstabHandler I.st = c at *
  generalize I.ter = d at *
  have ha : a = 0 ∨ a = 1 ∨ a = 2 ∨ a = 3 := by omega
  have hm : met = [] ∨ met.isEmpty = false := by cases met <;> simp
  rcases hm with rfl | hm
  · simp
  · have : met ≠ [] := by rintro rfl; simp at hm
    cases d <;> cases c <;> rcases ha with rfl | rfl | rfl | rfl <;> simp_all

end Sys2Proof.Laws
end

