-- ==== Sys2Proof/Laws/Tab.lean ====
section
/-! SUPPORT. The table of Word.lean: what a lookup finds after each operation. -/

namespace Sys2Proof.Tab

theorem find_set {α : Type} (t : Tab α) (n m : Nat) (a : α) : find (set t n a) m = if n = m then some a else find t m := by
  induction t with
  | nil => simp only [set, find]
  | cons e t ih =>
    obtain ⟨k, v⟩ := e
    by_cases h1 : n < k
    · simp only [set, if_pos h1, find]
    · by_cases h2 : n = k
      · subst h2
        simp only [set, if_neg h1, if_true, find]
        split <;> rfl
      · simp only [set, if_neg h1, if_neg h2, find, ih]
        by_cases hk : k = m
        · simp [hk, show n ≠ m by omega]
        · simp [hk]

theorem get_set {α : Type} (d : α) (t : Tab α) (n m : Nat) (a : α) : get d (set t n a) m = if n = m then a else get d t m := by
  simp only [get, find_set]
  split <;> rfl

@[simp] theorem find_set_self {α : Type} (t : Tab α) (n : Nat) (a : α) : find (set t n a) n = some a := by simp [find_set]

@[simp] theorem get_set_self {α : Type} (d : α) (t : Tab α) (n : Nat) (a : α) : get d (set t n a) n = a := by simp [get_set]

theorem find_del {α : Type} (t : Tab α) (n m : Nat) : find (del t n) m = if n = m then none else find t m := by
  induction t with
  | nil => simp [del, find]
  | cons e t ih =>
    obtain ⟨k, v⟩ := e
    by_cases h : k = n
    · subst h
      simp only [del, if_true, ih, find]
      split <;> rfl
    · simp only [del, if_neg h, find, ih]
      by_cases hk : k = m
      · simp [hk, show n ≠ m by omega]
      · simp [hk]

theorem find_modify {α : Type} (t : Tab α) (n m : Nat) (f : α → α) :
    find (modify t n f) m = if n = m then (find t n).map f else find t m := by
  unfold modify
  cases h : find t n with
  | some a => simp only [find_set, Option.map_some]
  | none =>
    simp only [Option.map_none]
    split
    · next e => rw [← e, h]
    · rfl

/-- What a lookup finds stands in the list. -/
theorem mem_of_find {α : Type} {t : Tab α} {n : Nat} {a : α} (h : find t n = some a) : (n, a) ∈ t := by
  induction t with
  | nil => cases h
  | cons e t ih =>
    obtain ⟨k, v⟩ := e
    simp only [find] at h
    split at h
    · next e => subst e; injection h with h; subst h; exact List.mem_cons_self ..
    · exact List.mem_cons_of_mem _ (ih h)

end Sys2Proof.Tab
end

