-- ==== Sys2Proof/Laws/Frames.lean ====
section
/-! SUPPORT. What the shared operations on memory, translation, nodes and engines leave alone: the blocks, the quires and
the saved contexts. Each lemma says it once for one operation. -/

namespace Sys2Proof.Laws

open Sys2Proof.Machine Sys2Proof.Safety

/-- The resident blocks, their quires and the saved contexts are the same. -/
def Same (s t : State) : Prop := t.blocks = s.blocks ∧ t.quires = s.quires ∧ t.preempts = s.preempts
theorem Same.rfl {s} : Same s s := ⟨by trivial, by trivial, by trivial⟩
theorem Same.trans {a b c} (h : Same a b) (g : Same b c) : Same a c := ⟨g.1.trans h.1, g.2.1.trans h.2.1, g.2.2.trans h.2.2⟩

theorem same_fold {α β} (f : β → α → β) (p : β → State) (h : ∀ b a, Same (p b) (p (f b a))) (l : List α) (b : β) : Same (p b) (p (l.foldl f b)) := by
  induction l generalizing b with
  | nil => exact Same.rfl
  | cons a l ih => exact (h b a).trans (ih _)

/-! ## Relations that the shared operations on memory keep

Same says that blocks and quires are untouched; Canon (Laws/Canon.lean) that memory keeps its canonical form. Both follow
an operation step by step in the same way, so each operation is gone through once. -/

/-- A relation that every update of the shared operations on memory is in. -/
structure Kept (R : State → State → Prop) : Prop where
  refl : ∀ s, R s s
  trans : ∀ {a b c}, R a b → R b c → R a c
  plain : ∀ {s t : State}, t.blocks = s.blocks → t.quires = s.quires → t.preempts = s.preempts → t.mem = s.mem →
    t.hostMem = s.hostMem → t.cores = s.cores → R s t
  mem : ∀ (s : State) (a : Nat) (l : List Byte), R s { s with mem := Memory.writeBytes s.mem a l }
  hostMem : ∀ (s : State) (a : Nat) (l : List Byte), R s { s with hostMem := Memory.writeBytes s.hostMem a l }
  tlb : ∀ (s : State) (g : Nat) (f : Core → List TlbEnt), R s (s.updCore g fun c => { c with tlb := f c })

theorem Kept.same : Kept Same where
  refl _ := Same.rfl
  trans := Same.trans
  plain h1 h2 h3 _ _ _ := ⟨h1, h2, h3⟩
  mem _ _ _ := ⟨rfl, rfl, rfl⟩
  hostMem _ _ _ := ⟨rfl, rfl, rfl⟩
  tlb _ _ _ := ⟨rfl, rfl, rfl⟩

section
variable {R : State → State → Prop} (K : Kept R)
include K

theorem kept_fold {α β} (f : β → α → β) (p : β → State) (h : ∀ b a, R (p b) (p (f b a))) (l : List α) (b : β) :
    R (p b) (p (l.foldl f b)) := by
  induction l generalizing b with
  | nil => exact K.refl _
  | cons a l ih => exact K.trans (h b a) (ih _)

/-- An update that touches none of the fields that Kept names. -/
theorem kept_rfl {s t : State} (h : t = { t with blocks := s.blocks, quires := s.quires, preempts := s.preempts, mem := s.mem, hostMem := s.hostMem, cores := s.cores }) : R s t := by
  refine K.plain ?_ ?_ ?_ ?_ ?_ ?_ <;> rw [h]

theorem kept_l2Fill (s : State) (p q l d) : R s (l2Fill s p q l d) := by
  unfold l2Fill
  split
  · exact K.refl _
  · simp only
    repeat' split
    all_goals exact kept_rfl K rfl
theorem kept_clearUnit (s : State) (p q l d u) : R s (clearUnit s p q l d u) := kept_rfl K rfl
theorem kept_homeStore (s : State) (p q l a bs) : R s (homeStore s p q l a bs) := by
  unfold homeStore
  exact K.trans (K.mem s a bs) (kept_rfl K rfl)
theorem kept_laneAtHome (p q l d c) (acc : State × Answer) (o) : R acc.1 (laneAtHome p q l d c acc o).1 := by
  unfold laneAtHome
  simp only
  repeat' split
  all_goals (first | exact K.refl _ | exact kept_rfl K rfl | exact kept_homeStore K ..)
theorem kept_performDev (s : State) (h p l d c o) : R s (performDev s h p l d c o).1 := by
  unfold performDev
  exact K.trans (kept_l2Fill K s h p l d) <| K.trans
    (kept_fold K (fun s u => clearUnit s h p l d u) id (fun b u => kept_clearUnit K b h p l d u) _ _)
    (kept_fold K (laneAtHome h p l d c) (·.1) (fun b a => kept_laneAtHome K h p l d c b a) o (_, {}))
theorem kept_pageWrite (s : State) (p i o v m l u t) (h : pageWrite s p i o v m l u = .ok t) : R s t := by
  unfold pageWrite at h
  repeat' (first | split at h | (simp only at h; split at h))
  all_goals (first | (cases h; done) | (injection h with h; subst h; exact kept_rfl K rfl))
theorem kept_windowWrite (s : State) (m o bs l u t) (h : windowWrite s m o bs l u = .ok t) : R s t := by
  unfold windowWrite at h
  simp only at h
  split at h
  · injection h with h; subst h; exact kept_rfl K rfl
  · split at h
    · exact kept_pageWrite K _ _ _ _ _ _ _ _ _ h
    · injection h with h; subst h; exact K.refl _
theorem kept_laneAtWindow (h l d lv u) (acc : State × Answer) (o) : R acc.1 (laneAtWindow h l d lv u acc o).1 := by
  unfold laneAtWindow
  simp only
  split
  · exact K.refl _
  · exact K.refl _
  · exact K.refl _
  · split
    · next h => exact kept_windowWrite K _ _ _ _ _ _ _ h
    · exact K.refl _
theorem kept_performAt (s : State) (h p l d c lv u o) : R s (performAt s h p l d c lv u o).1 := by
  unfold performAt
  split
  · exact kept_fold K (laneAtWindow h l d lv u) (·.1) (fun b a => kept_laneAtWindow K h l d lv u b a) o (s, {})
  · exact kept_performDev K s h p l d c o
theorem kept_performHost (s : State) (ha o) : R s (performHost s ha o).1 := by
  unfold performHost
  refine kept_fold K (laneAtHost ha) (·.1) (fun b a => ?_) o (s, {})
  unfold laneAtHost
  simp only
  repeat' split
  all_goals first | exact K.refl _ | exact K.hostMem ..
theorem kept_trip (s : State) (k d a) : R s (trip s k d a) := by
  unfold trip; split
  · exact K.refl _
  · exact kept_rfl K rfl
theorem kept_readTrips (s : State) (k p g l) : R s (readTrips s k p g l) := by
  unfold readTrips
  refine kept_fold K _ id (fun b a => ?_) _ s
  simp only [id, lineTrip]
  repeat' split
  all_goals first | exact K.refl _ | exact kept_trip K ..
theorem kept_bar (s : State) (k p w) : R s (s.bar k p w) := kept_rfl K rfl
theorem kept_linePut (s : State) (k p g bs c lv u t) (h : linePut s k p g bs c lv u = .ok t) : R s t.1 := by
  unfold linePut at h
  split at h
  · cases h
  · split at h
    · cases h
    · split at h
      · cases h
      · injection h with h; subst h; exact K.hostMem ..
  · split at h
    · cases h
    · split at h
      · cases h
      · simp only at h
        split at h
        · cases h
        · injection h with h; subst h; exact K.trans (kept_performAt K ..) (kept_trip K ..)
theorem kept_gpaStore (s : State) (k p g bs c lv u t) (h : gpaStore s k p g bs c lv u = .ok t) : R s t.1 := by
  unfold gpaStore at h
  have go : ∀ (l : List (Nat × Nat)) (r : Dev (State × Bool)), (∀ x, r = .ok x → R s x.1) → ∀ x, l.foldl (fun r p_1 =>
      match r with
      | .ok x =>
        (match linePut x.1 k p p_1.1 ((bs.drop (p_1.1 - g)).take p_1.2) c lv u with
         | .ok y => .ok (y.1, x.2 || y.2)
         | e => e)
      | e => e) r = .ok x → R s x.1 := by
    intro l
    induction l with
    | nil => exact fun r hr => hr
    | cons a l ih =>
      intro r hr x hx
      refine ih _ ?_ x hx
      intro y hy
      cases r with
      | ok z =>
        simp only at hy
        split at hy
        · next w hw => injection hy with hy; subst hy; exact K.trans (hr z rfl) (kept_linePut K _ _ _ _ _ _ _ _ w hw)
        · next hw => exact absurd hy (hw y)
      | _ => cases hy
  exact go _ (.ok (s, false)) (fun x hx => by injection hx with hx; subst hx; exact K.refl _) t h
theorem kept_gpaPut (s : State) (k p g bs c lv u t) (h : gpaPut s k p g bs c lv u = .ok t) : R s t := by
  unfold gpaPut at h
  split at h
  · next x hx => injection h with h; subst h; exact kept_gpaStore K _ _ _ _ _ _ _ _ _ hx
  all_goals cases h
theorem kept_noteStore (s : State) (p l w c off bs) : R s (noteStore s p l w c off bs) := by
  unfold noteStore; split
  · exact K.refl _
  · exact kept_rfl K rfl
theorem kept_noteStored (s : State) (p g w c bs) : R s (noteStored s p g w c bs) := by
  unfold noteStored; split
  · exact K.refl _
  · exact kept_fold K _ id (fun b a => kept_noteStore K b ..) _ s
theorem kept_gpaWrite (s : State) (k p g bs c lv u t) (h : gpaWrite s k p g bs c lv u = .ok t) : R s t := by
  unfold gpaWrite at h
  split at h
  · next x hx => injection h with h; subst h; exact K.trans (kept_gpaPut K _ _ _ _ _ _ _ _ _ hx) (kept_noteStored K ..)
  all_goals cases h
theorem kept_gpaWriteAll (s : State) (k p g bs c t) (h : gpaWriteAll s k p g bs c = .ok t) : R s t := by
  unfold gpaWriteAll at h
  split at h
  · next x hx => injection h with h; subst h; exact K.trans (kept_gpaStore K _ _ _ _ _ _ _ _ _ hx) (kept_noteStored K ..)
  all_goals cases h
theorem kept_walkRead8 (s : State) (k p g l) : R s (walkRead8 s k p g l).1 := by
  unfold walkRead8; split
  · exact kept_readTrips K ..
  all_goals exact K.refl _
theorem kept_walkFrom (s : State) (k p va m f l t) : R s (walkFrom s k p va m f l t).1 := by
  induction f generalizing s l t with
  | zero => exact K.refl _
  | succ f ih =>
    unfold walkFrom; simp only
    have r := kept_walkRead8 K s k p (t + 8 * bits va (43 - 9 * l) 9) l
    split
    · next h => rw [h] at r; exact r
    · next h =>
      rw [h] at r
      repeat' split
      all_goals first | exact r | exact K.trans r (ih ..)
theorem kept_rootOf (s : State) (k p c) : R s (rootOf s k p c).1 := by
  unfold rootOf; split
  · exact K.refl _
  · next L _ =>
    have a := kept_walkRead8 K s k p L.paging.toNat 0
    split
    · next h => rw [h] at a; exact a
    · next s1 roots h =>
      rw [h] at a
      have b := kept_walkRead8 K s1 k p (roots + 8 * (c.toNat % 4096)) 0
      split
      · next h => rw [h] at b; exact K.trans a b
      · next h => rw [h] at b; exact K.trans a b
theorem kept_walk (s : State) (k p c va) : R s (walk s k p c va).1 := by
  have a := kept_rootOf K s k p c
  unfold walk; split
  · next h => rw [h] at a; exact a
  · next h => rw [h] at a; exact K.trans a (kept_walkFrom K ..)
theorem kept_markLeaf (s : State) (k p c e pl w t) (h : markLeaf s k p c e pl w = .ok t) : R s t := by
  unfold markLeaf at h; simp only at h
  generalize (e ||| 0x40 ||| (if w then 0x80 else 0)) = e' at h
  split at h
  · injection h with h; subst h; exact K.refl _
  · exact kept_gpaWrite K _ _ _ _ _ _ _ _ _ h
/-- The last-page register is part of the quire: for an agent without one, or a relation that does not see quires. -/
theorem kept_installLast (s : State) (w : Who) (e) (hl : w.lane = none ∨ ∀ s k f, R s (State.updQuire s k f)) :
    R s (installLast s w e) := by
  unfold installLast
  rcases hl with hl | hl
  · simp only [hl]; exact K.refl _
  · split
    · exact hl ..
    · exact K.refl _
theorem kept_installEnt (s : State) (w : Who) (va e) (hl : w.lane = none ∨ ∀ s k f, R s (State.updQuire s k f)) :
    R s (installEnt s w va e) := by
  unfold installEnt
  refine K.trans (kept_installLast K s w (e.sub (va >>> 16)) hl) ?_
  generalize installLast s w (e.sub (va >>> 16)) = s1
  simp only
  split
  · exact K.tlb ..
  · exact kept_rfl K rfl
  · exact K.refl _
theorem kept_translate (s : State) (w : Who) (va wr) (hl : w.lane = none ∨ ∀ s k f, R s (State.updQuire s k f)) :
    R s (Machine.translate s w va wr).1 := by
  have a := kept_walk K s w.pkg w.part w.ctx va
  unfold Machine.translate
  simp only
  generalize walk s w.pkg w.part w.ctx va = x at a
  obtain ⟨s1, x⟩ := x
  cases x <;> simp only
  all_goals repeat' split
  all_goals first
    | exact K.refl _
    | exact a
    | exact kept_installLast K _ _ _ hl
    | (next h => exact K.trans a (K.trans (kept_markLeaf K _ _ _ _ _ _ _ _ h) (kept_installEnt K _ _ _ _ hl)))
theorem kept_noThread (s p g) : R s (noThread s p g) := kept_rfl K rfl
theorem kept_areaFault (s p c l va) : R s (areaFault s p c l va) := by
  unfold areaFault; split <;> exact kept_rfl K rfl
theorem kept_ctxGpa (s p c l va w) : R s (ctxGpa s p c l va w).1 := by
  have t := kept_translate K s { pkg := homePkg s p, part := p, ctx := c, lvl := l } va w (.inl rfl)
  unfold ctxGpa
  generalize Machine.translate s { pkg := homePkg s p, part := p, ctx := c, lvl := l } va w = x at t
  obtain ⟨s1, x⟩ := x
  cases x <;> simp only
  all_goals repeat' split
  all_goals first
    | exact t
    | exact K.trans t (kept_areaFault K ..)
    | exact K.trans t (kept_noThread K ..)
    | exact K.trans t (kept_bar K ..)
theorem kept_ctxReadAt (s p c l va n) : R s (ctxReadAt s p c l va n).1 := by
  unfold ctxReadAt
  refine kept_fold K _ (fun r : State × Option (List Byte) => r.1) (fun b a => ?_) _ (s, some [])
  obtain ⟨b, o⟩ := b
  cases o with
  | none => exact K.refl _
  | some o =>
    have t := kept_ctxGpa K b p c l a.1 false
    simp only
    generalize ctxGpa b p c l a.1 false = x at t
    obtain ⟨s1, x⟩ := x
    cases x with
    | none => exact t
    | some g =>
      simp only
      split
      all_goals first
        | exact K.trans t (kept_readTrips K ..)
        | exact K.trans t (kept_bar K ..)
        | exact K.trans t (kept_noThread K ..)
        | exact K.trans t (kept_areaFault K ..)
theorem kept_ctxWriteAt (s p c l va n) : R s (ctxWriteAt s p c l va n).1 := by
  unfold ctxWriteAt
  refine kept_fold K _ (fun r : State × Bool => r.1) (fun b a => ?_) _ (s, true)
  split
  · exact K.refl _
  · have t := kept_ctxGpa K b.1 p c l a.1 true
    generalize ctxGpa b.1 p c l a.1 true = x at t
    obtain ⟨s1, x⟩ := x
    cases x with
    | none => exact t
    | some g =>
      simp only
      split
      all_goals first
        | exact K.trans t (kept_bar K ..)
        | exact K.trans t (kept_noThread K ..)
        | exact K.trans t (kept_areaFault K ..)
        | (next h => exact K.trans t (kept_gpaWriteAll K _ _ _ _ _ _ _ h))

end

/-! ## Blocks and quires -/

theorem same_gpaWrite (s : State) (k p g bs c lv u t) (h : gpaWrite s k p g bs c lv u = .ok t) : Same s t :=
  kept_gpaWrite Kept.same s k p g bs c lv u t h
theorem same_ctxReadAt (s p c l va n) : Same s (ctxReadAt s p c l va n).1 := kept_ctxReadAt Kept.same ..
theorem same_ctxWriteAt (s p c l va n) : Same s (ctxWriteAt s p c l va n).1 := kept_ctxWriteAt Kept.same ..
theorem same_updNode (s p q f) : Same s (updNode s p q f) := ⟨rfl, rfl, rfl⟩
theorem same_putStatus (s p q) : Same s (putStatus s p q) := by
  unfold putStatus; split; exact Same.rfl; exact same_ctxWriteAt ..
theorem same_toldOnce (s t) (h : Same s t) : Same s (toldOnce s t) := by
  unfold toldOnce; split
  · exact h.trans ⟨rfl, rfl, rfl⟩
  · exact h
theorem same_edgeState (s p n i d) : Same s (edgeState s p n i d).1 := by
  unfold edgeState; split
  · exact Same.rfl
  · exact same_toldOnce _ _ (same_ctxReadAt ..)
theorem same_edges (s p n) : Same s (edges s p n).1 := by
  unfold edges
  exact same_fold _ (fun r : State × List Nat => r.1) (fun b a => same_edgeState b.1 p n a.2 a.1) _ (s, [])
theorem same_nodeStep (s p q) : Same s (nodeStep s p q) := by
  unfold nodeStep; split
  · exact Same.rfl
  · next n _ =>
    split
    · exact Same.rfl
    · have h : ∀ (t : State) (n' : Node), Same t (if n' == n then t else putStatus (updNode t p q fun _ => n') p q) := by
        intro t n'; split
        · exact Same.rfl
        · exact (same_updNode ..).trans (same_putStatus ..)
      exact (same_edges s p n).trans (h _ _)
theorem same_settleNodes (s p) : Same s (settleNodes s p) := by
  unfold settleNodes
  exact same_fold _ id (fun b _ => same_fold _ id (fun b q => same_nodeStep b p q) _ b) _ s
theorem same_saveBit (s p c a i o) : Same s (saveBit s p c a i o) := by
  unfold saveBit
  have t := same_ctxReadAt s p c .h (a + i/8) 1
  dsimp only
  split
  · next h => rw [h] at t; exact t.trans (same_ctxWriteAt ..)
  · next h => rw [h] at t; exact t
theorem same_clearWb (s e) : Same s (clearWb s e) := by
  unfold clearWb; split
  · split
    · next h => exact same_gpaWrite _ _ _ _ _ _ _ _ _ h
    all_goals exact ⟨rfl, rfl, rfl⟩
  all_goals exact ⟨rfl, rfl, rfl⟩
theorem same_abortPeers (s n ids) : Same s (abortPeers s n ids) := by
  induction n generalizing s ids with
  | zero => exact Same.rfl
  | succ n ih => unfold abortPeers; simp only; split
                 · exact Same.rfl
                 · exact Same.trans ⟨rfl, rfl, rfl⟩ (ih _ _)
theorem same_stopEngines (s f) : Same s (stopEngines s f) := by
  unfold stopEngines; simp only
  refine Same.trans (Same.trans ?_ (same_abortPeers _ _ _)) ⟨rfl, rfl, rfl⟩
  refine same_fold _ id (fun b e => ?_) _ s
  simp only [id]; split; exact same_clearWb ..; exact Same.rfl

/-- Counting the waiters of gates writes memory alone. -/
theorem recount_eq (o s : State) : ∃ m, recount o s = { s with mem := m } := by
  unfold recount
  generalize (((o.gates.filter fun x => x.2.state == GateState.waiting).map fun x => x.2.home).eraseDups) = l
  induction l generalizing s with
  | nil => exact ⟨s.mem, rfl⟩
  | cons a l ih => obtain ⟨m, h⟩ := ih (countWaiters s a); exact ⟨m, by rw [List.foldl_cons, h]; rfl⟩
@[simp] theorem recount_blocks (o s : State) : (recount o s).blocks = s.blocks := by obtain ⟨m, h⟩ := recount_eq o s; rw [h]
@[simp] theorem recount_quires (o s : State) : (recount o s).quires = s.quires := by obtain ⟨m, h⟩ := recount_eq o s; rw [h]
theorem recountIf_blocks (c : Prop) [Decidable c] (o s : State) : (if c then s else recount o s).blocks = s.blocks := by
  split <;> simp
theorem recountIf_quires (c : Prop) [Decidable c] (o s : State) : (if c then s else recount o s).quires = s.quires := by
  split <;> simp

theorem dropBlock_blocks (s b k) : (dropBlock s b k).blocks = if (Tab.find s.blocks b).isSome then Tab.del s.blocks b else s.blocks := by
  unfold dropBlock; split
  · next h => simp [h]
  · next h =>
    rw [h]
    exact recountIf_blocks ..
theorem dropBlock_quires (s b k) : (dropBlock s b k).quires = if (Tab.find s.blocks b).isSome then s.quires.filter (fun e => e.1 / 16 != b) else s.quires := by
  unfold dropBlock; split
  · next h => simp [h]
  · next h =>
    rw [h]
    exact recountIf_quires ..
theorem find_dropBlock (s b k m) : Tab.find (dropBlock s b k).blocks m = if b = m then none else Tab.find s.blocks m := by
  rw [dropBlock_blocks]; split
  · rw [Tab.find_del]
  · next h => split
              · next e => subst e; simpa using h
              · rfl


theorem same_ctxAtomic (s p c v w o x) : Same s (ctxAtomic s p c v w o x).1 := by
  have t := kept_ctxGpa Kept.same s p c .u v true
  unfold ctxAtomic
  dsimp only
  generalize (if w then 8 else 4 : Nat) = n
  generalize ctxGpa s p c .u v true = y at t
  obtain ⟨s1, y⟩ := y
  have bar : ∀ q, Same s (s1.bar (homePkg s p) p q) := fun q => t.trans (kept_bar Kept.same ..)
  split
  · exact Same.rfl
  · cases y with
    | none => exact t
    | some g =>
      simp only
      split
      · exact t.trans (kept_noThread Kept.same ..)
      · split
        · exact t
        · split
          · exact bar _
          · exact (t.trans (kept_performHost Kept.same ..)).trans (kept_noteStored Kept.same ..)
      · next d _ =>
        split
        · exact t
        · split
          · exact bar _
          · have u := fun l => t.trans ((kept_performAt Kept.same s1 (d >>> 44) p (g / 64) (d / 64) c .u none l).trans (kept_trip Kept.same _ (homePkg s p) d {}))
            split
            · exact (u _).trans (kept_noteStored Kept.same ..)
            · exact u _
theorem same_addStats (s B) : Same s (addStats s B).1 := by
  unfold addStats; split
  · exact Same.rfl
  · refine same_fold _ (fun r : State × Bool => r.1) (fun b a => ?_) _ (s, true)
    refine same_fold _ (fun r : State × Bool => r.1) (fun b a => ?_) _ b
    split; exact Same.rfl; exact same_ctxAtomic ..

/-- An access whose every lane reaches its target issues. -/
theorem memIssue_done {s : State} {I : Issuer} {w wh rs dest acq mark} (h : Reaches s I w wh rs) : ∃ t, memIssue s I w wh rs dest acq mark = .done t := by
  obtain ⟨h1, h2, h3, h4, h5⟩ := h
  unfold memIssue
  simp only [h1, h2, h3, h4, h5]
  simp only [Bool.or_self, Bool.false_eq_true, if_false]
  repeat' split
  all_goals exact ⟨_, rfl⟩

/-- Writing the quires of a block one by one leaves quire q as the list has it, and no other quire of the block. -/
theorem find_foldSet {β : Type} (l : List β) (b k0 : Nat) (t : Tab β) (q : Nat) :
    Tab.find ((l.zipIdx k0).foldl (fun t (q : β × Nat) => Tab.set t (quireKey b q.2) q.1) t) (quireKey b q) =
      if k0 ≤ q ∧ q < k0 + l.length then l[q - k0]? else Tab.find t (quireKey b q) := by
  induction l generalizing k0 t with
  | nil => rw [if_neg (by simp only [List.length_nil]; omega)]; rfl
  | cons a l ih =>
    rw [List.zipIdx_cons, List.foldl_cons, ih, Tab.find_set]
    have hk : quireKey b k0 = quireKey b q ↔ k0 = q := by unfold quireKey; omega
    simp only [hk, List.length_cons]
    rcases Nat.lt_trichotomy q k0 with h | rfl | h
    · rw [if_neg (by omega), if_neg (by omega), if_neg (by omega)]
    · rw [if_neg (by omega), if_pos rfl, if_pos (by omega), Nat.sub_self, List.getElem?_cons_zero]
    · rw [if_neg (show ¬ k0 = q by omega)]
      by_cases h2 : q < k0 + 1 + l.length
      · rw [if_pos ⟨h, h2⟩, if_pos (by omega), show q - k0 = q - (k0 + 1) + 1 by omega, List.getElem?_cons_succ]
      · rw [if_neg (by omega), if_neg (by omega)]

end Sys2Proof.Laws
end

