-- ==== Sys2Proof/Laws/Memory.lean ====
section
/-! SUPPORT. Memory in its canonical form: every operation keeps the form, a read after a write gives what was written,
and a write leaves every other byte alone. -/

namespace Sys2Proof.Laws

open Sys2Proof.Machine

/-- The form, said by head and tail: a listed value, and every later address is above. -/
theorem wf_cons {c : Host.Cell} {t : List Host.Cell} :
    Memory.wf (c :: t) = true ↔ c.2 ≠ Memory.unlisted ∧ (∀ d ∈ t, c.1 < d.1) ∧ Memory.wf t = true := by
  induction t generalizing c with
  | nil => simp [Memory.wf]
  | cons d t ih =>
    simp only [Memory.wf, Bool.and_eq_true, bne_iff_ne, ne_eq, decide_eq_true_eq, List.mem_cons, forall_eq_or_imp]
    constructor
    · rintro ⟨⟨h1, h2⟩, h3⟩
      exact ⟨h1, ⟨h2, fun e he => Nat.lt_trans h2 ((ih.mp h3).2.1 e he)⟩, h3⟩
    · rintro ⟨h1, ⟨h2, -⟩, h3⟩
      exact ⟨⟨h1, h2⟩, h3⟩

theorem wf_tail {c : Host.Cell} {t : List Host.Cell} (h : Memory.wf (c :: t) = true) : Memory.wf t = true := (wf_cons.mp h).2.2

/-- Every address of a memory after a write is that of the write or one that was listed. -/
theorem write_addr {m : List Host.Cell} {a : Nat} {b : Byte} {d : Host.Cell} (h : d ∈ Memory.write m a b) :
    d.1 = a ∨ d ∈ m := by
  induction m with
  | nil =>
    simp only [Memory.write] at h
    split at h
    · cases h
    · simp only [List.mem_singleton] at h; exact .inl (by rw [h])
  | cons c t ih =>
    obtain ⟨k, v⟩ := c
    simp only [Memory.write] at h
    repeat' split at h
    · exact .inr h
    · rcases List.mem_cons.mp h with rfl | h
      · exact .inl rfl
      · exact .inr h
    · exact .inr (List.mem_cons_of_mem _ h)
    · rcases List.mem_cons.mp h with rfl | h
      · exact .inl rfl
      · exact .inr (List.mem_cons_of_mem _ h)
    · rcases List.mem_cons.mp h with rfl | h
      · exact .inr (List.mem_cons_self ..)
      · exact (ih h).imp id (List.mem_cons_of_mem _)

theorem wf_write {m : List Host.Cell} (h : Memory.wf m = true) (a : Nat) (b : Byte) : Memory.wf (Memory.write m a b) = true := by
  induction m with
  | nil =>
    simp only [Memory.write]
    split
    · rfl
    · next hb => simp [Memory.wf, hb]
  | cons c t ih =>
    obtain ⟨k, v⟩ := c
    have hc := wf_cons.mp h
    simp only [Memory.write]
    split
    · next hlt =>
      split
      · exact h
      · next hb =>
        refine wf_cons.mpr ⟨hb, fun d hd => ?_, h⟩
        rcases List.mem_cons.mp hd with rfl | hd
        · exact hlt
        · exact Nat.lt_trans hlt (hc.2.1 d hd)
    · next hge =>
      split
      · next he =>
        subst he
        split
        · exact hc.2.2
        · next hb => exact wf_cons.mpr ⟨hb, hc.2.1, hc.2.2⟩
      · next hne =>
        refine wf_cons.mpr ⟨hc.1, fun d hd => ?_, ih hc.2.2⟩
        rcases write_addr hd with h1 | h1
        · simp only; omega
        · exact hc.2.1 d h1

theorem wf_writeBytes {m : List Host.Cell} (h : Memory.wf m = true) (a : Nat) (l : List Byte) :
    Memory.wf (Memory.writeBytes m a l) = true := by
  induction l generalizing m a with
  | nil => exact h
  | cons b l ih => exact ih (wf_write h a b) (a + 1)

theorem wf_filter {m : List Host.Cell} (h : Memory.wf m = true) (p : Host.Cell → Bool) : Memory.wf (m.filter p) = true := by
  induction m with
  | nil => rfl
  | cons c t ih =>
    have hc := wf_cons.mp h
    simp only [List.filter_cons]
    split
    · exact wf_cons.mpr ⟨hc.1, fun d hd => hc.2.1 d (List.mem_filter.mp hd).1, ih hc.2.2⟩
    · exact ih hc.2.2

theorem wf_zeroRange {m : List Host.Cell} (h : Memory.wf m = true) (a n : Nat) : Memory.wf (Memory.zeroRange m a n) = true :=
  wf_filter h _

theorem wf_reset : Memory.wf State.reset.mem = true ∧ Memory.wf State.reset.hostMem = true := ⟨rfl, rfl⟩

/-- A write leaves every other byte alone. -/
theorem read_write_ne (m : List Host.Cell) (a x : Nat) (b : Byte) (h : x ≠ a) : Memory.read (Memory.write m a b) x = Memory.read m x := by
  induction m with
  | nil =>
    simp only [Memory.write]
    split
    · rfl
    · simp only [Memory.read, if_neg (Ne.symm h)]
  | cons c t ih =>
    obtain ⟨k, v⟩ := c
    simp only [Memory.write]
    repeat' split
    · rfl
    · simp only [Memory.read, if_neg (Ne.symm h)]
    · next he _ => subst he; simp only [Memory.read, if_neg (Ne.symm h)]
    · next he _ => subst he; simp only [Memory.read, if_neg (Ne.symm h)]
    · simp only [Memory.read, ih]

/-- An address below every listed one reads as unlisted. -/
theorem read_above {t : List Host.Cell} {a : Nat} (h : ∀ d ∈ t, a < d.1) : Memory.read t a = Memory.unlisted := by
  induction t with
  | nil => rfl
  | cons c t ih =>
    obtain ⟨k, v⟩ := c
    have : a < k := h (k, v) (List.mem_cons_self ..)
    simp only [Memory.read, if_neg (show k ≠ a by omega)]
    exact ih fun d hd => h d (List.mem_cons_of_mem _ hd)

/-- A read after a write of the same byte gives what was written. -/
theorem read_write_self {m : List Host.Cell} (h : Memory.wf m = true) (a : Nat) (b : Byte) :
    Memory.read (Memory.write m a b) a = b := by
  induction m with
  | nil =>
    simp only [Memory.write]
    split
    · next hb => rw [hb]; rfl
    · simp only [Memory.read, if_true]
  | cons c t ih =>
    obtain ⟨k, v⟩ := c
    have hc := wf_cons.mp h
    simp only [Memory.write]
    split
    · next hlt =>
      split
      · next hb =>
        rw [hb]
        refine read_above fun d hd => ?_
        rcases List.mem_cons.mp hd with rfl | hd
        · exact hlt
        · exact Nat.lt_trans hlt (hc.2.1 d hd)
      · simp only [Memory.read, if_true]
    · split
      · next he =>
        subst he
        split
        · next hb => rw [hb]; exact read_above hc.2.1
        · simp only [Memory.read, if_true]
      · next hne => simp only [Memory.read, if_neg (Ne.symm hne), ih hc.2.2]

/-- Bytes outside a written range read as before. -/
theorem read_writeBytes_out (m : List Host.Cell) (a x : Nat) (l : List Byte) (h : x < a ∨ a + l.length ≤ x) :
    Memory.read (Memory.writeBytes m a l) x = Memory.read m x := by
  induction l generalizing m a with
  | nil => rfl
  | cons b l ih =>
    simp only [List.length_cons] at h
    simp only [Memory.writeBytes]
    rw [ih _ _ (by omega), read_write_ne _ _ _ _ (by omega)]

/-- Bytes inside a written range read as written. -/
theorem read_writeBytes_in {m : List Host.Cell} (h : Memory.wf m = true) (a : Nat) (l : List Byte) (i : Nat) (hi : i < l.length) :
    Memory.read (Memory.writeBytes m a l) (a + i) = l[i] := by
  induction l generalizing m a i with
  | nil => exact absurd hi (Nat.not_lt_zero _)
  | cons b l ih =>
    simp only [Memory.writeBytes]
    cases i with
    | zero =>
      simp only [Nat.add_zero, List.getElem_cons_zero]
      rw [read_writeBytes_out _ _ _ _ (by omega), read_write_self h]
    | succ i =>
      simp only [List.length_cons] at hi
      rw [show a + (i + 1) = a + 1 + i by omega, ih (wf_write h a b) (a + 1) i (by omega)]
      rfl

end Sys2Proof.Laws
end

