-- ==== Sys2Proof/Laws/Canon.lean ====
section
/-! SUPPORT. The shared operations keep memory, host memory and the scratchpads in canonical form: once for each operation.
Every write of bytes is one of these, so a proof about the whole machine cites them and unfolds no write. -/

namespace Sys2Proof.Laws

open Sys2Proof.Machine Sys2Proof.Safety

/-- What canonical memory of s gives of t. -/
structure Canon (s t : State) : Prop where
  keep : MemoryCanonical s → MemoryCanonical t

theorem Canon.refl {s} : Canon s s := ⟨id⟩
theorem Canon.trans {a b c} (h : Canon a b) (g : Canon b c) : Canon a c := ⟨fun x => g.keep (h.keep x)⟩

theorem Canon.same {s t : State} (h1 : t.mem = s.mem) (h2 : t.hostMem = s.hostMem) (h3 : t.cores = s.cores) : Canon s t := by
  refine ⟨?_⟩
  rintro ⟨a, b, c⟩
  exact ⟨h1 ▸ a, h2 ▸ b, h3 ▸ c⟩

theorem Canon.mem (s : State) (a : Nat) (l : List Byte) : Canon s { s with mem := Memory.writeBytes s.mem a l } :=
  ⟨fun h => ⟨wf_writeBytes h.1 a l, h.2.1, h.2.2⟩⟩

theorem Canon.hostMem (s : State) (a : Nat) (l : List Byte) : Canon s { s with hostMem := Memory.writeBytes s.hostMem a l } :=
  ⟨fun h => ⟨h.1, wf_writeBytes h.2.1 a l, h.2.2⟩⟩

/-- An entry of a table after a set is the one set or an earlier one. -/
theorem mem_set {α : Type} {t : Tab α} {n : Nat} {a : α} {e : Nat × α} (h : e ∈ Tab.set t n a) : e = (n, a) ∨ e ∈ t := by
  induction t with
  | nil => exact .inl (List.mem_singleton.mp h)
  | cons c t ih =>
    obtain ⟨k, v⟩ := c
    simp only [Tab.set] at h
    repeat' split at h
    · exact (List.mem_cons.mp h).imp id id
    · exact (List.mem_cons.mp h).imp id (List.mem_cons_of_mem _)
    · rcases List.mem_cons.mp h with rfl | h
      · exact .inr (List.mem_cons_self ..)
      · exact (ih h).imp id (List.mem_cons_of_mem _)

theorem wf_coreOf {s : State} (h : MemoryCanonical s) (g : Nat) : Memory.wf (s.coreOf g).sram = true := by
  unfold State.coreOf Tab.get
  cases hf : Tab.find s.cores g with
  | none => rfl
  | some c => exact h.2.2 _ (Tab.mem_of_find hf)

/-- An update of a core that keeps its scratchpad's form. -/
theorem Canon.core (s : State) (g : Nat) (f : Core → Core) (hf : Memory.wf (s.coreOf g).sram = true → Memory.wf (f (s.coreOf g)).sram = true) :
    Canon s (s.updCore g f) := by
  refine ⟨fun h => ⟨h.1, h.2.1, fun e he => ?_⟩⟩
  rcases mem_set he with rfl | he
  · exact hf (wf_coreOf h g)
  · exact h.2.2 e he

/-- Every shared operation on memory keeps the canonical forms: the lemmas kept_… of Laws/Frames.lean apply to Canon. -/
theorem Kept.canon : Kept Canon where
  refl _ := Canon.refl
  trans := Canon.trans
  plain _ _ _ h1 h2 h3 := Canon.same h1 h2 h3
  mem := Canon.mem
  hostMem := Canon.hostMem
  tlb s g _ := Canon.core s g _ id

theorem canon_updQuire (s : State) (k : Nat) (f : Quire → Quire) : Canon s (s.updQuire k f) := Canon.same rfl rfl rfl

theorem canon_translate (s : State) (w : Who) (va wr) : Canon s (Machine.translate s w va wr).1 :=
  kept_translate Kept.canon s w va wr (.inr canon_updQuire)
theorem canon_performAt (s : State) (h p l d c lv u o) : Canon s (performAt s h p l d c lv u o).1 := kept_performAt Kept.canon ..
theorem canon_performHost (s : State) (ha o) : Canon s (performHost s ha o).1 := kept_performHost Kept.canon ..
theorem canon_ctxReadAt (s p c l va n) : Canon s (ctxReadAt s p c l va n).1 := kept_ctxReadAt Kept.canon ..
theorem canon_ctxWriteAt (s p c l va n) : Canon s (ctxWriteAt s p c l va n).1 := kept_ctxWriteAt Kept.canon ..

end Sys2Proof.Laws
end

