-- ==== Sys2Proof/Laws/Alias.lean ====
section
/-! SUPPORT. What the operations on views of aliases do: they change State.views alone, and publishing stores gives each
byte the last of them (08_ordering.md R184). -/

namespace Sys2Proof.Laws

open Sys2Proof.Machine Sys2Proof.Safety

/-- t is s with other views. -/
def ViewsOnly (s t : State) : Prop := t = { s with views := t.views }
theorem ViewsOnly.refl {s} : ViewsOnly s s := rfl
theorem ViewsOnly.trans {a b c} (h : ViewsOnly a b) (g : ViewsOnly b c) : ViewsOnly a c := by
  unfold ViewsOnly at *; rw [g, h]
theorem ViewsOnly.same {s t} (h : ViewsOnly s t) : Same s t := by rw [h]; exact ⟨rfl, rfl, rfl⟩
theorem ViewsOnly.canon {s t} (h : ViewsOnly s t) : Canon s t := by rw [h]; exact Canon.same rfl rfl rfl

theorem ViewsOnly.fold {α} (f : State → α → State) (h : ∀ s a, ViewsOnly s (f s a)) (l : List α) (s : State) :
    ViewsOnly s (l.foldl f s) := by
  induction l generalizing s with
  | nil => exact ViewsOnly.refl
  | cons a l ih => exact (h s a).trans (ih _)

theorem noteStore_views (s : State) (p l w pg off bs) : ViewsOnly s (noteStore s p l w pg off bs) := by
  unfold noteStore; split <;> exact rfl
theorem noteStores_views (s : State) (r m place none_) : ViewsOnly s (noteStores s r m place none_) := by
  unfold noteStores
  refine ViewsOnly.fold _ (fun s o => ?_) _ s
  split
  · exact noteStore_views ..
  · exact ViewsOnly.refl
theorem fenceAlias_views (s : State) (ts b l) : ViewsOnly s (fenceAlias s ts b l) := by unfold fenceAlias; split <;> exact rfl
theorem joinEngines_views (s : State) (ts f) : ViewsOnly s (joinEngines s ts f) := by unfold joinEngines; split <;> exact rfl
theorem joinWords_views (s : State) (r) : ViewsOnly s (joinWords s r) := by
  unfold joinWords
  split
  · exact ViewsOnly.refl
  · refine ViewsOnly.fold _ (fun s o => ?_) _ s
    split
    · split
      · exact joinEngines_views ..
      · exact ViewsOnly.refl
    · exact ViewsOnly.refl
theorem keepView_views (s : State) (t k p c v l lo n) : ViewsOnly s (keepView s t k p c v l lo n) := by
  unfold keepView; simp only; repeat' split
  all_goals exact rfl

/-- A line request performed: the joins of its completion words, performAt, and then the views; its answer is performAt's. -/
theorem performLine_views (s : State) (r : LineReq) (d : Nat) :
    ∃ ops, let x := performAt (joinWords s r) (d >>> 44) r.part (r.gpa / 64) (d / 64) r.ctx r.lvl (some r.unit) ops
      ViewsOnly x.1 (performLine s r d).1 ∧ (performLine s r d).2 = x.2 := by
  refine ⟨_, ?_, rfl⟩
  unfold performLine; simp only; split
  · exact ViewsOnly.refl
  · exact noteStores_views ..
theorem performHostLine_views (s : State) (r : LineReq) (ha : Nat) :
    let x := performHost (joinWords s r) (ha / 64 * 64) (r.seen (joinWords s r) (joinWords s r).hostMem (ha / 64 * 64))
    ViewsOnly x.1 (performHostLine s r ha).1 ∧ (performHostLine s r ha).2 = x.2 := ⟨noteStores_views .., rfl⟩
theorem same_performLine (s : State) (r d) : Same s (performLine s r d).1 := by
  obtain ⟨_, h, -⟩ := performLine_views s r d
  exact ((joinWords_views s r).same.trans (kept_performAt Kept.same ..)).trans h.same
theorem canon_performLine (s : State) (r d) : Canon s (performLine s r d).1 := by
  obtain ⟨_, h, -⟩ := performLine_views s r d
  exact ((joinWords_views s r).canon.trans (canon_performAt ..)).trans h.canon
theorem same_performHostLine (s : State) (r ha) : Same s (performHostLine s r ha).1 :=
  ((joinWords_views s r).same.trans (kept_performHost Kept.same ..)).trans (performHostLine_views s r ha).1.same
theorem canon_performHostLine (s : State) (r ha) : Canon s (performHostLine s r ha).1 :=
  ((joinWords_views s r).canon.trans (canon_performHost ..)).trans (performHostLine_views s r ha).1.canon

/-- What is still newer after a publication is not of the published stores. -/
theorem stillNewer_spec (f : NewerStore → Bool) (l : List NewerStore) : ∀ x ∈ stillNewer f l, x ∈ l ∧ f x = false := by
  induction l with
  | nil => exact fun x h => absurd h (List.not_mem_nil)
  | cons e t ih =>
    intro x hx
    unfold stillNewer at hx
    split at hx
    · exact ⟨List.mem_cons_of_mem _ (ih x hx).1, (ih x hx).2⟩
    · next h =>
      rcases List.mem_cons.mp hx with rfl | hx
      · simp only [List.any_cons, beq_self_eq_true, Bool.true_and, Bool.or_eq_true, not_or, Bool.not_eq_true] at h
        exact ⟨List.mem_cons_self .., h.1⟩
      · exact ⟨List.mem_cons_of_mem _ (ih x hx).1, (ih x hx).2⟩

/-- A byte of a view after a publication. -/
theorem publish_get (v : View) (f : NewerStore → Bool) (i : Nat) (h : i < v.bytes.length) :
    (v.publish f).bytes[i]? = some (((v.newer.reverse.find? fun e => e.off == i && f e).map (·.val)).getD v.bytes[i]) := by
  unfold View.publish
  simp [h]

end Sys2Proof.Laws
end

