-- ==== Sys2Proof/Laws/Decode.lean ====
section
/-! SUPPORT. Decoding read back from the encoder, format by format: the opcode of an encoded word and the fields of each
of the formats of 02_instruction_words.md R35 to R43. -/

namespace Sys2Proof.Laws


/-- Fields of the low part of an appended word. -/
theorem extract_lo {n m : Nat} (x : BitVec n) (y : BitVec m) (a b : Nat) (h : a + b ≤ m) :
    (x ++ y).extractLsb' a b = y.extractLsb' a b := by
  ext i hi
  simp only [BitVec.getElem_extractLsb', BitVec.getLsbD_append, if_pos (show a + i < m by omega)]

/-- Fields of the high part of an appended word. -/
theorem extract_hi {n m : Nat} (x : BitVec n) (y : BitVec m) (a b : Nat) (h : m ≤ a) :
    (x ++ y).extractLsb' a b = x.extractLsb' (a - m) b := by
  ext i hi
  simp only [BitVec.getElem_extractLsb', BitVec.getLsbD_append, if_neg (show ¬ a + i < m by omega),
    show a + i - m = a - m + i by omega]

theorem extract_all {n : Nat} (x : BitVec n) : x.extractLsb' 0 n = x := by
  ext i hi
  simp

theorem opcode_append (o : BitVec 8) (x : BitVec 24) : opcodeOf (o ++ x) = o.toNat := by
  have h : (o ++ x : BitVec (8 + 24)).extractLsb' 24 8 = o := by rw [extract_hi o x 24 8 (by decide)]; exact extract_all o
  exact congrArg BitVec.toNat h

theorem VV.back (o : BitVec 8) (f : VV) : VV.ofWord (o ++ f.bits) = some f := by
  have h0 : (o ++ f.bits : Word).extractLsb' 0 7 = f.vd := (extract_lo o f.bits 0 7 (by decide)).trans ((extract_lo _ _ 0 7 (by decide)).trans (extract_all _))
  have h1 : (o ++ f.bits : Word).extractLsb' 7 7 = f.va := (extract_lo o f.bits 7 7 (by decide)).trans ((extract_hi _ _ 7 7 (by decide)).trans ((extract_lo _ _ 0 7 (by decide)).trans (extract_all _)))
  have h2 : (o ++ f.bits : Word).extractLsb' 14 1 = f.ea := (extract_lo o f.bits 14 1 (by decide)).trans ((extract_hi _ _ 14 1 (by decide)).trans ((extract_hi _ _ 7 1 (by decide)).trans ((extract_lo _ _ 0 1 (by decide)).trans (extract_all _))))
  have h3 : (o ++ f.bits : Word).extractLsb' 15 7 = f.vb := (extract_lo o f.bits 15 7 (by decide)).trans ((extract_hi _ _ 15 7 (by decide)).trans ((extract_hi _ _ 8 7 (by decide)).trans ((extract_hi _ _ 1 7 (by decide)).trans ((extract_lo _ _ 0 7 (by decide)).trans (extract_all _)))))
  have h4 : (o ++ f.bits : Word).extractLsb' 22 1 = f.eb := (extract_lo o f.bits 22 1 (by decide)).trans ((extract_hi _ _ 22 1 (by decide)).trans ((extract_hi _ _ 15 1 (by decide)).trans ((extract_hi _ _ 8 1 (by decide)).trans ((extract_hi _ _ 7 1 (by decide)).trans ((extract_lo _ _ 0 1 (by decide)).trans (extract_all _))))))
  have h5 : (o ++ f.bits : Word).extractLsb' 23 1 = f.m := (extract_lo o f.bits 23 1 (by decide)).trans ((extract_hi _ _ 23 1 (by decide)).trans ((extract_hi _ _ 16 1 (by decide)).trans ((extract_hi _ _ 9 1 (by decide)).trans ((extract_hi _ _ 8 1 (by decide)).trans ((extract_hi _ _ 1 1 (by decide)).trans (extract_all _))))))
  simp only [VV.ofWord, h0, h1, h2, h3, h4, h5]
theorem VI.back (o : BitVec 8) (f : VI) : VI.ofWord (o ++ f.bits) = some f := by
  have h0 : (o ++ f.bits : Word).extractLsb' 0 7 = f.vd := (extract_lo o f.bits 0 7 (by decide)).trans ((extract_lo _ _ 0 7 (by decide)).trans (extract_all _))
  have h1 : (o ++ f.bits : Word).extractLsb' 7 7 = f.va := (extract_lo o f.bits 7 7 (by decide)).trans ((extract_hi _ _ 7 7 (by decide)).trans ((extract_lo _ _ 0 7 (by decide)).trans (extract_all _)))
  have h2 : (o ++ f.bits : Word).extractLsb' 14 1 = f.ea := (extract_lo o f.bits 14 1 (by decide)).trans ((extract_hi _ _ 14 1 (by decide)).trans ((extract_hi _ _ 7 1 (by decide)).trans ((extract_lo _ _ 0 1 (by decide)).trans (extract_all _))))
  have h3 : (o ++ f.bits : Word).extractLsb' 15 9 = f.imm := (extract_lo o f.bits 15 9 (by decide)).trans ((extract_hi _ _ 15 9 (by decide)).trans ((extract_hi _ _ 8 9 (by decide)).trans ((extract_hi _ _ 1 9 (by decide)).trans (extract_all _))))
  simp only [VI.ofWord, h0, h1, h2, h3]
theorem VM.back (o : BitVec 8) (f : VM) : VM.ofWord (o ++ f.bits) = some f := by
  have h0 : (o ++ f.bits : Word).extractLsb' 0 7 = f.vd := (extract_lo o f.bits 0 7 (by decide)).trans ((extract_lo _ _ 0 7 (by decide)).trans (extract_all _))
  have h1 : (o ++ f.bits : Word).extractLsb' 7 1 = 0#1 := (extract_lo o f.bits 7 1 (by decide)).trans ((extract_hi _ _ 7 1 (by decide)).trans ((extract_lo _ _ 0 1 (by decide)).trans (extract_all _)))
  have h2 : (o ++ f.bits : Word).extractLsb' 8 16 = f.imm := (extract_lo o f.bits 8 16 (by decide)).trans ((extract_hi _ _ 8 16 (by decide)).trans ((extract_hi _ _ 1 16 (by decide)).trans (extract_all _)))
  simp only [VM.ofWord, h0, h1, h2, beq_self_eq_true, if_true]
theorem VC.back (o : BitVec 8) (f : VC) : VC.ofWord (o ++ f.bits) = some f := by
  have h0 : (o ++ f.bits : Word).extractLsb' 0 4 = f.kd := (extract_lo o f.bits 0 4 (by decide)).trans ((extract_lo _ _ 0 4 (by decide)).trans (extract_all _))
  have h1 : (o ++ f.bits : Word).extractLsb' 4 1 = f.e := (extract_lo o f.bits 4 1 (by decide)).trans ((extract_hi _ _ 4 1 (by decide)).trans ((extract_lo _ _ 0 1 (by decide)).trans (extract_all _)))
  have h2 : (o ++ f.bits : Word).extractLsb' 5 7 = f.va := (extract_lo o f.bits 5 7 (by decide)).trans ((extract_hi _ _ 5 7 (by decide)).trans ((extract_hi _ _ 1 7 (by decide)).trans ((extract_lo _ _ 0 7 (by decide)).trans (extract_all _))))
  have h3 : (o ++ f.bits : Word).extractLsb' 12 1 = f.m := (extract_lo o f.bits 12 1 (by decide)).trans ((extract_hi _ _ 12 1 (by decide)).trans ((extract_hi _ _ 8 1 (by decide)).trans ((extract_hi _ _ 7 1 (by decide)).trans ((extract_lo _ _ 0 1 (by decide)).trans (extract_all _)))))
  have h4 : (o ++ f.bits : Word).extractLsb' 13 7 = f.vb := (extract_lo o f.bits 13 7 (by decide)).trans ((extract_hi _ _ 13 7 (by decide)).trans ((extract_hi _ _ 9 7 (by decide)).trans ((extract_hi _ _ 8 7 (by decide)).trans ((extract_hi _ _ 1 7 (by decide)).trans ((extract_lo _ _ 0 7 (by decide)).trans (extract_all _))))))
  have h5 : (o ++ f.bits : Word).extractLsb' 20 4 = f.cond := (extract_lo o f.bits 20 4 (by decide)).trans ((extract_hi _ _ 20 4 (by decide)).trans ((extract_hi _ _ 16 4 (by decide)).trans ((extract_hi _ _ 15 4 (by decide)).trans ((extract_hi _ _ 8 4 (by decide)).trans ((extract_hi _ _ 7 4 (by decide)).trans (extract_all _))))))
  simp only [VC.ofWord, h0, h1, h2, h3, h4, h5]
theorem VK.back (o : BitVec 8) (f : VK) : VK.ofWord (o ++ f.bits) = some f := by
  have h0 : (o ++ f.bits : Word).extractLsb' 0 7 = f.vd := (extract_lo o f.bits 0 7 (by decide)).trans ((extract_lo _ _ 0 7 (by decide)).trans (extract_all _))
  have h1 : (o ++ f.bits : Word).extractLsb' 7 7 = f.va := (extract_lo o f.bits 7 7 (by decide)).trans ((extract_hi _ _ 7 7 (by decide)).trans ((extract_lo _ _ 0 7 (by decide)).trans (extract_all _)))
  have h2 : (o ++ f.bits : Word).extractLsb' 14 1 = f.ea := (extract_lo o f.bits 14 1 (by decide)).trans ((extract_hi _ _ 14 1 (by decide)).trans ((extract_hi _ _ 7 1 (by decide)).trans ((extract_lo _ _ 0 1 (by decide)).trans (extract_all _))))
  have h3 : (o ++ f.bits : Word).extractLsb' 15 1 = f.x := (extract_lo o f.bits 15 1 (by decide)).trans ((extract_hi _ _ 15 1 (by decide)).trans ((extract_hi _ _ 8 1 (by decide)).trans ((extract_hi _ _ 1 1 (by decide)).trans ((extract_lo _ _ 0 1 (by decide)).trans (extract_all _)))))
  have h4 : (o ++ f.bits : Word).extractLsb' 16 4 = 0#4 := (extract_lo o f.bits 16 4 (by decide)).trans ((extract_hi _ _ 16 4 (by decide)).trans ((extract_hi _ _ 9 4 (by decide)).trans ((extract_hi _ _ 2 4 (by decide)).trans ((extract_hi _ _ 1 4 (by decide)).trans ((extract_lo _ _ 0 4 (by decide)).trans (extract_all _))))))
  have h5 : (o ++ f.bits : Word).extractLsb' 20 4 = f.k := (extract_lo o f.bits 20 4 (by decide)).trans ((extract_hi _ _ 20 4 (by decide)).trans ((extract_hi _ _ 13 4 (by decide)).trans ((extract_hi _ _ 6 4 (by decide)).trans ((extract_hi _ _ 5 4 (by decide)).trans ((extract_hi _ _ 4 4 (by decide)).trans (extract_all _))))))
  simp only [VK.ofWord, h0, h1, h2, h3, h4, h5, beq_self_eq_true, if_true]
theorem VT.back (o : BitVec 8) (f : VT) : VT.ofWord (o ++ f.bits) = some f := by
  have h0 : (o ++ f.bits : Word).extractLsb' 0 7 = f.vd := (extract_lo o f.bits 0 7 (by decide)).trans ((extract_lo _ _ 0 7 (by decide)).trans (extract_all _))
  have h1 : (o ++ f.bits : Word).extractLsb' 7 7 = f.va := (extract_lo o f.bits 7 7 (by decide)).trans ((extract_hi _ _ 7 7 (by decide)).trans ((extract_lo _ _ 0 7 (by decide)).trans (extract_all _)))
  have h2 : (o ++ f.bits : Word).extractLsb' 14 1 = f.ea := (extract_lo o f.bits 14 1 (by decide)).trans ((extract_hi _ _ 14 1 (by decide)).trans ((extract_hi _ _ 7 1 (by decide)).trans ((extract_lo _ _ 0 1 (by decide)).trans (extract_all _))))
  have h3 : (o ++ f.bits : Word).extractLsb' 15 1 = f.sat := (extract_lo o f.bits 15 1 (by decide)).trans ((extract_hi _ _ 15 1 (by decide)).trans ((extract_hi _ _ 8 1 (by decide)).trans ((extract_hi _ _ 1 1 (by decide)).trans ((extract_lo _ _ 0 1 (by decide)).trans (extract_all _)))))
  have h4 : (o ++ f.bits : Word).extractLsb' 16 4 = f.src := (extract_lo o f.bits 16 4 (by decide)).trans ((extract_hi _ _ 16 4 (by decide)).trans ((extract_hi _ _ 9 4 (by decide)).trans ((extract_hi _ _ 2 4 (by decide)).trans ((extract_hi _ _ 1 4 (by decide)).trans ((extract_lo _ _ 0 4 (by decide)).trans (extract_all _))))))
  have h5 : (o ++ f.bits : Word).extractLsb' 20 4 = f.dst := (extract_lo o f.bits 20 4 (by decide)).trans ((extract_hi _ _ 20 4 (by decide)).trans ((extract_hi _ _ 13 4 (by decide)).trans ((extract_hi _ _ 6 4 (by decide)).trans ((extract_hi _ _ 5 4 (by decide)).trans ((extract_hi _ _ 4 4 (by decide)).trans (extract_all _))))))
  simp only [VT.ofWord, h0, h1, h2, h3, h4, h5]
theorem VR.back (o : BitVec 8) (f : VR) : VR.ofWord (o ++ f.bits) = some f := by
  have h0 : (o ++ f.bits : Word).extractLsb' 0 5 = f.sd := (extract_lo o f.bits 0 5 (by decide)).trans ((extract_lo _ _ 0 5 (by decide)).trans (extract_all _))
  have h1 : (o ++ f.bits : Word).extractLsb' 5 2 = 0#2 := (extract_lo o f.bits 5 2 (by decide)).trans ((extract_hi _ _ 5 2 (by decide)).trans ((extract_lo _ _ 0 2 (by decide)).trans (extract_all _)))
  have h2 : (o ++ f.bits : Word).extractLsb' 7 7 = f.va := (extract_lo o f.bits 7 7 (by decide)).trans ((extract_hi _ _ 7 7 (by decide)).trans ((extract_hi _ _ 2 7 (by decide)).trans ((extract_lo _ _ 0 7 (by decide)).trans (extract_all _))))
  have h3 : (o ++ f.bits : Word).extractLsb' 14 1 = f.ea := (extract_lo o f.bits 14 1 (by decide)).trans ((extract_hi _ _ 14 1 (by decide)).trans ((extract_hi _ _ 9 1 (by decide)).trans ((extract_hi _ _ 7 1 (by decide)).trans ((extract_lo _ _ 0 1 (by decide)).trans (extract_all _)))))
  have h4 : (o ++ f.bits : Word).extractLsb' 15 4 = 0#4 := (extract_lo o f.bits 15 4 (by decide)).trans ((extract_hi _ _ 15 4 (by decide)).trans ((extract_hi _ _ 10 4 (by decide)).trans ((extract_hi _ _ 8 4 (by decide)).trans ((extract_hi _ _ 1 4 (by decide)).trans ((extract_lo _ _ 0 4 (by decide)).trans (extract_all _))))))
  have h5 : (o ++ f.bits : Word).extractLsb' 19 1 = f.d := (extract_lo o f.bits 19 1 (by decide)).trans ((extract_hi _ _ 19 1 (by decide)).trans ((extract_hi _ _ 14 1 (by decide)).trans ((extract_hi _ _ 12 1 (by decide)).trans ((extract_hi _ _ 5 1 (by decide)).trans ((extract_hi _ _ 4 1 (by decide)).trans ((extract_lo _ _ 0 1 (by decide)).trans (extract_all _)))))))
  have h6 : (o ++ f.bits : Word).extractLsb' 20 4 = f.k := (extract_lo o f.bits 20 4 (by decide)).trans ((extract_hi _ _ 20 4 (by decide)).trans ((extract_hi _ _ 15 4 (by decide)).trans ((extract_hi _ _ 13 4 (by decide)).trans ((extract_hi _ _ 6 4 (by decide)).trans ((extract_hi _ _ 5 4 (by decide)).trans ((extract_hi _ _ 1 4 (by decide)).trans (extract_all _)))))))
  simp only [VR.ofWord, h0, h1, h2, h3, h4, h5, h6, beq_self_eq_true, Bool.and_self, if_true]
theorem KF.back (o : BitVec 8) (f : KF) : KF.ofWord (o ++ f.bits) = some f := by
  have h0 : (o ++ f.bits : Word).extractLsb' 0 5 = f.sd := (extract_lo o f.bits 0 5 (by decide)).trans ((extract_lo _ _ 0 5 (by decide)).trans (extract_all _))
  have h1 : (o ++ f.bits : Word).extractLsb' 5 7 = 0#7 := (extract_lo o f.bits 5 7 (by decide)).trans ((extract_hi _ _ 5 7 (by decide)).trans ((extract_lo _ _ 0 7 (by decide)).trans (extract_all _)))
  have h2 : (o ++ f.bits : Word).extractLsb' 12 4 = f.kd := (extract_lo o f.bits 12 4 (by decide)).trans ((extract_hi _ _ 12 4 (by decide)).trans ((extract_hi _ _ 7 4 (by decide)).trans ((extract_lo _ _ 0 4 (by decide)).trans (extract_all _))))
  have h3 : (o ++ f.bits : Word).extractLsb' 16 4 = f.kb := (extract_lo o f.bits 16 4 (by decide)).trans ((extract_hi _ _ 16 4 (by decide)).trans ((extract_hi _ _ 11 4 (by decide)).trans ((extract_hi _ _ 4 4 (by decide)).trans ((extract_lo _ _ 0 4 (by decide)).trans (extract_all _)))))
  have h4 : (o ++ f.bits : Word).extractLsb' 20 4 = f.ka := (extract_lo o f.bits 20 4 (by decide)).trans ((extract_hi _ _ 20 4 (by decide)).trans ((extract_hi _ _ 15 4 (by decide)).trans ((extract_hi _ _ 8 4 (by decide)).trans ((extract_hi _ _ 4 4 (by decide)).trans (extract_all _)))))
  simp only [KF.ofWord, h0, h1, h2, h3, h4, beq_self_eq_true, if_true]
theorem SF.back (o : BitVec 8) (f : SF) : SF.ofWord (o ++ f.bits) = some f := by
  have h0 : (o ++ f.bits : Word).extractLsb' 0 5 = f.sd := (extract_lo o f.bits 0 5 (by decide)).trans ((extract_lo _ _ 0 5 (by decide)).trans (extract_all _))
  have h1 : (o ++ f.bits : Word).extractLsb' 5 5 = f.sa := (extract_lo o f.bits 5 5 (by decide)).trans ((extract_hi _ _ 5 5 (by decide)).trans ((extract_lo _ _ 0 5 (by decide)).trans (extract_all _)))
  have h2 : (o ++ f.bits : Word).extractLsb' 10 5 = f.sb := (extract_lo o f.bits 10 5 (by decide)).trans ((extract_hi _ _ 10 5 (by decide)).trans ((extract_hi _ _ 5 5 (by decide)).trans ((extract_lo _ _ 0 5 (by decide)).trans (extract_all _))))
  have h3 : (o ++ f.bits : Word).extractLsb' 15 5 = 0#5 := (extract_lo o f.bits 15 5 (by decide)).trans ((extract_hi _ _ 15 5 (by decide)).trans ((extract_hi _ _ 10 5 (by decide)).trans ((extract_hi _ _ 5 5 (by decide)).trans ((extract_lo _ _ 0 5 (by decide)).trans (extract_all _)))))
  have h4 : (o ++ f.bits : Word).extractLsb' 20 4 = f.cond := (extract_lo o f.bits 20 4 (by decide)).trans ((extract_hi _ _ 20 4 (by decide)).trans ((extract_hi _ _ 15 4 (by decide)).trans ((extract_hi _ _ 10 4 (by decide)).trans ((extract_hi _ _ 5 4 (by decide)).trans (extract_all _)))))
  simp only [SF.ofWord, h0, h1, h2, h3, h4, beq_self_eq_true, if_true]
theorem SI.back (o : BitVec 8) (f : SI) : SI.ofWord (o ++ f.bits) = some f := by
  have h0 : (o ++ f.bits : Word).extractLsb' 0 5 = f.sd := (extract_lo o f.bits 0 5 (by decide)).trans ((extract_lo _ _ 0 5 (by decide)).trans (extract_all _))
  have h1 : (o ++ f.bits : Word).extractLsb' 5 16 = f.imm := (extract_lo o f.bits 5 16 (by decide)).trans ((extract_hi _ _ 5 16 (by decide)).trans ((extract_lo _ _ 0 16 (by decide)).trans (extract_all _)))
  have h2 : (o ++ f.bits : Word).extractLsb' 21 3 = 0#3 := (extract_lo o f.bits 21 3 (by decide)).trans ((extract_hi _ _ 21 3 (by decide)).trans ((extract_hi _ _ 16 3 (by decide)).trans (extract_all _)))
  simp only [SI.ofWord, h0, h1, h2, beq_self_eq_true, if_true]
theorem MV.back (o : BitVec 8) (f : MV) : MV.ofWord (o ++ f.bits) = some f := by
  have h0 : (o ++ f.bits : Word).extractLsb' 0 7 = f.data := (extract_lo o f.bits 0 7 (by decide)).trans ((extract_lo _ _ 0 7 (by decide)).trans (extract_all _))
  have h1 : (o ++ f.bits : Word).extractLsb' 7 7 = f.va := (extract_lo o f.bits 7 7 (by decide)).trans ((extract_hi _ _ 7 7 (by decide)).trans ((extract_lo _ _ 0 7 (by decide)).trans (extract_all _)))
  have h2 : (o ++ f.bits : Word).extractLsb' 14 1 = f.ea := (extract_lo o f.bits 14 1 (by decide)).trans ((extract_hi _ _ 14 1 (by decide)).trans ((extract_hi _ _ 7 1 (by decide)).trans ((extract_lo _ _ 0 1 (by decide)).trans (extract_all _))))
  have h3 : (o ++ f.bits : Word).extractLsb' 15 5 = f.sb := (extract_lo o f.bits 15 5 (by decide)).trans ((extract_hi _ _ 15 5 (by decide)).trans ((extract_hi _ _ 8 5 (by decide)).trans ((extract_hi _ _ 1 5 (by decide)).trans ((extract_lo _ _ 0 5 (by decide)).trans (extract_all _)))))
  have h4 : (o ++ f.bits : Word).extractLsb' 20 1 = f.sx := (extract_lo o f.bits 20 1 (by decide)).trans ((extract_hi _ _ 20 1 (by decide)).trans ((extract_hi _ _ 13 1 (by decide)).trans ((extract_hi _ _ 6 1 (by decide)).trans ((extract_hi _ _ 5 1 (by decide)).trans ((extract_lo _ _ 0 1 (by decide)).trans (extract_all _))))))
  have h5 : (o ++ f.bits : Word).extractLsb' 21 3 = f.width := (extract_lo o f.bits 21 3 (by decide)).trans ((extract_hi _ _ 21 3 (by decide)).trans ((extract_hi _ _ 14 3 (by decide)).trans ((extract_hi _ _ 7 3 (by decide)).trans ((extract_hi _ _ 6 3 (by decide)).trans ((extract_hi _ _ 1 3 (by decide)).trans (extract_all _))))))
  simp only [MV.ofWord, h0, h1, h2, h3, h4, h5]
theorem MA.back (o : BitVec 8) (f : MA) : MA.ofWord (o ++ f.bits) = some f := by
  have h0 : (o ++ f.bits : Word).extractLsb' 0 7 = f.data := (extract_lo o f.bits 0 7 (by decide)).trans ((extract_lo _ _ 0 7 (by decide)).trans (extract_all _))
  have h1 : (o ++ f.bits : Word).extractLsb' 7 7 = f.va := (extract_lo o f.bits 7 7 (by decide)).trans ((extract_hi _ _ 7 7 (by decide)).trans ((extract_lo _ _ 0 7 (by decide)).trans (extract_all _)))
  have h2 : (o ++ f.bits : Word).extractLsb' 14 1 = f.ea := (extract_lo o f.bits 14 1 (by decide)).trans ((extract_hi _ _ 14 1 (by decide)).trans ((extract_hi _ _ 7 1 (by decide)).trans ((extract_lo _ _ 0 1 (by decide)).trans (extract_all _))))
  have h3 : (o ++ f.bits : Word).extractLsb' 15 1 = f.nr := (extract_lo o f.bits 15 1 (by decide)).trans ((extract_hi _ _ 15 1 (by decide)).trans ((extract_hi _ _ 8 1 (by decide)).trans ((extract_hi _ _ 1 1 (by decide)).trans ((extract_lo _ _ 0 1 (by decide)).trans (extract_all _)))))
  have h4 : (o ++ f.bits : Word).extractLsb' 16 1 = f.w64 := (extract_lo o f.bits 16 1 (by decide)).trans ((extract_hi _ _ 16 1 (by decide)).trans ((extract_hi _ _ 9 1 (by decide)).trans ((extract_hi _ _ 2 1 (by decide)).trans ((extract_hi _ _ 1 1 (by decide)).trans ((extract_lo _ _ 0 1 (by decide)).trans (extract_all _))))))
  have h5 : (o ++ f.bits : Word).extractLsb' 17 3 = f.scope := (extract_lo o f.bits 17 3 (by decide)).trans ((extract_hi _ _ 17 3 (by decide)).trans ((extract_hi _ _ 10 3 (by decide)).trans ((extract_hi _ _ 3 3 (by decide)).trans ((extract_hi _ _ 2 3 (by decide)).trans ((extract_hi _ _ 1 3 (by decide)).trans ((extract_lo _ _ 0 3 (by decide)).trans (extract_all _)))))))
  have h6 : (o ++ f.bits : Word).extractLsb' 20 4 = f.op := (extract_lo o f.bits 20 4 (by decide)).trans ((extract_hi _ _ 20 4 (by decide)).trans ((extract_hi _ _ 13 4 (by decide)).trans ((extract_hi _ _ 6 4 (by decide)).trans ((extract_hi _ _ 5 4 (by decide)).trans ((extract_hi _ _ 4 4 (by decide)).trans ((extract_hi _ _ 3 4 (by decide)).trans (extract_all _)))))))
  simp only [MA.ofWord, h0, h1, h2, h3, h4, h5, h6]
theorem MS.back (o : BitVec 8) (f : MS) : MS.ofWord (o ++ f.bits) = some f := by
  have h0 : (o ++ f.bits : Word).extractLsb' 0 7 = f.data := (extract_lo o f.bits 0 7 (by decide)).trans ((extract_lo _ _ 0 7 (by decide)).trans (extract_all _))
  have h1 : (o ++ f.bits : Word).extractLsb' 7 7 = f.va := (extract_lo o f.bits 7 7 (by decide)).trans ((extract_hi _ _ 7 7 (by decide)).trans ((extract_lo _ _ 0 7 (by decide)).trans (extract_all _)))
  have h2 : (o ++ f.bits : Word).extractLsb' 14 1 = f.ea := (extract_lo o f.bits 14 1 (by decide)).trans ((extract_hi _ _ 14 1 (by decide)).trans ((extract_hi _ _ 7 1 (by decide)).trans ((extract_lo _ _ 0 1 (by decide)).trans (extract_all _))))
  have h3 : (o ++ f.bits : Word).extractLsb' 15 1 = f.map := (extract_lo o f.bits 15 1 (by decide)).trans ((extract_hi _ _ 15 1 (by decide)).trans ((extract_hi _ _ 8 1 (by decide)).trans ((extract_hi _ _ 1 1 (by decide)).trans ((extract_lo _ _ 0 1 (by decide)).trans (extract_all _)))))
  have h4 : (o ++ f.bits : Word).extractLsb' 16 4 = f.t := (extract_lo o f.bits 16 4 (by decide)).trans ((extract_hi _ _ 16 4 (by decide)).trans ((extract_hi _ _ 9 4 (by decide)).trans ((extract_hi _ _ 2 4 (by decide)).trans ((extract_hi _ _ 1 4 (by decide)).trans ((extract_lo _ _ 0 4 (by decide)).trans (extract_all _))))))
  have h5 : (o ++ f.bits : Word).extractLsb' 20 4 = f.hi := (extract_lo o f.bits 20 4 (by decide)).trans ((extract_hi _ _ 20 4 (by decide)).trans ((extract_hi _ _ 13 4 (by decide)).trans ((extract_hi _ _ 6 4 (by decide)).trans ((extract_hi _ _ 5 4 (by decide)).trans ((extract_hi _ _ 4 4 (by decide)).trans (extract_all _))))))
  simp only [MS.ofWord, h0, h1, h2, h3, h4, h5]
theorem MU.back (o : BitVec 8) (f : MU) : MU.ofWord (o ++ f.bits) = some f := by
  have h0 : (o ++ f.bits : Word).extractLsb' 0 5 = f.sd := (extract_lo o f.bits 0 5 (by decide)).trans ((extract_lo _ _ 0 5 (by decide)).trans (extract_all _))
  have h1 : (o ++ f.bits : Word).extractLsb' 5 10 = f.imm := (extract_lo o f.bits 5 10 (by decide)).trans ((extract_hi _ _ 5 10 (by decide)).trans ((extract_lo _ _ 0 10 (by decide)).trans (extract_all _)))
  have h2 : (o ++ f.bits : Word).extractLsb' 15 5 = f.sb := (extract_lo o f.bits 15 5 (by decide)).trans ((extract_hi _ _ 15 5 (by decide)).trans ((extract_hi _ _ 10 5 (by decide)).trans ((extract_lo _ _ 0 5 (by decide)).trans (extract_all _))))
  have h3 : (o ++ f.bits : Word).extractLsb' 20 1 = f.sx := (extract_lo o f.bits 20 1 (by decide)).trans ((extract_hi _ _ 20 1 (by decide)).trans ((extract_hi _ _ 15 1 (by decide)).trans ((extract_hi _ _ 5 1 (by decide)).trans ((extract_lo _ _ 0 1 (by decide)).trans (extract_all _)))))
  have h4 : (o ++ f.bits : Word).extractLsb' 21 3 = f.width := (extract_lo o f.bits 21 3 (by decide)).trans ((extract_hi _ _ 21 3 (by decide)).trans ((extract_hi _ _ 16 3 (by decide)).trans ((extract_hi _ _ 6 3 (by decide)).trans ((extract_hi _ _ 1 3 (by decide)).trans (extract_all _)))))
  simp only [MU.ofWord, h0, h1, h2, h3, h4]
theorem MF.back (o : BitVec 8) (f : MF) : MF.ofWord (o ++ f.bits) = some f := by
  have h0 : (o ++ f.bits : Word).extractLsb' 0 5 = 0#5 := (extract_lo o f.bits 0 5 (by decide)).trans ((extract_lo _ _ 0 5 (by decide)).trans (extract_all _))
  have h1 : (o ++ f.bits : Word).extractLsb' 5 5 = f.sl := (extract_lo o f.bits 5 5 (by decide)).trans ((extract_hi _ _ 5 5 (by decide)).trans ((extract_lo _ _ 0 5 (by decide)).trans (extract_all _)))
  have h2 : (o ++ f.bits : Word).extractLsb' 10 5 = f.sb := (extract_lo o f.bits 10 5 (by decide)).trans ((extract_hi _ _ 10 5 (by decide)).trans ((extract_hi _ _ 5 5 (by decide)).trans ((extract_lo _ _ 0 5 (by decide)).trans (extract_all _))))
  have h3 : (o ++ f.bits : Word).extractLsb' 15 2 = 0#2 := (extract_lo o f.bits 15 2 (by decide)).trans ((extract_hi _ _ 15 2 (by decide)).trans ((extract_hi _ _ 10 2 (by decide)).trans ((extract_hi _ _ 5 2 (by decide)).trans ((extract_lo _ _ 0 2 (by decide)).trans (extract_all _)))))
  have h4 : (o ++ f.bits : Word).extractLsb' 17 3 = f.scope := (extract_lo o f.bits 17 3 (by decide)).trans ((extract_hi _ _ 17 3 (by decide)).trans ((extract_hi _ _ 12 3 (by decide)).trans ((extract_hi _ _ 7 3 (by decide)).trans ((extract_hi _ _ 2 3 (by decide)).trans ((extract_lo _ _ 0 3 (by decide)).trans (extract_all _))))))
  have h5 : (o ++ f.bits : Word).extractLsb' 20 4 = 0#4 := (extract_lo o f.bits 20 4 (by decide)).trans ((extract_hi _ _ 20 4 (by decide)).trans ((extract_hi _ _ 15 4 (by decide)).trans ((extract_hi _ _ 10 4 (by decide)).trans ((extract_hi _ _ 5 4 (by decide)).trans ((extract_hi _ _ 3 4 (by decide)).trans (extract_all _))))))
  simp only [MF.ofWord, h0, h1, h2, h3, h4, h5, beq_self_eq_true, Bool.and_self, if_true]
theorem MM.back (o : BitVec 8) (f : MM) : MM.ofWord (o ++ f.bits) = some f := by
  have h0 : (o ++ f.bits : Word).extractLsb' 0 7 = f.vs := (extract_lo o f.bits 0 7 (by decide)).trans ((extract_lo _ _ 0 7 (by decide)).trans (extract_all _))
  have h1 : (o ++ f.bits : Word).extractLsb' 7 5 = f.sel := (extract_lo o f.bits 7 5 (by decide)).trans ((extract_hi _ _ 7 5 (by decide)).trans ((extract_lo _ _ 0 5 (by decide)).trans (extract_all _)))
  have h2 : (o ++ f.bits : Word).extractLsb' 12 4 = f.tb := (extract_lo o f.bits 12 4 (by decide)).trans ((extract_hi _ _ 12 4 (by decide)).trans ((extract_hi _ _ 5 4 (by decide)).trans ((extract_lo _ _ 0 4 (by decide)).trans (extract_all _))))
  have h3 : (o ++ f.bits : Word).extractLsb' 16 4 = f.ta := (extract_lo o f.bits 16 4 (by decide)).trans ((extract_hi _ _ 16 4 (by decide)).trans ((extract_hi _ _ 9 4 (by decide)).trans ((extract_hi _ _ 4 4 (by decide)).trans ((extract_lo _ _ 0 4 (by decide)).trans (extract_all _)))))
  have h4 : (o ++ f.bits : Word).extractLsb' 20 4 = f.ad := (extract_lo o f.bits 20 4 (by decide)).trans ((extract_hi _ _ 20 4 (by decide)).trans ((extract_hi _ _ 13 4 (by decide)).trans ((extract_hi _ _ 8 4 (by decide)).trans ((extract_hi _ _ 4 4 (by decide)).trans (extract_all _)))))
  simp only [MM.ofWord, h0, h1, h2, h3, h4]
theorem EE.back (o : BitVec 8) (f : EE) : EE.ofWord (o ++ f.bits) = some f := by
  have h0 : (o ++ f.bits : Word).extractLsb' 0 5 = f.rd := (extract_lo o f.bits 0 5 (by decide)).trans ((extract_lo _ _ 0 5 (by decide)).trans (extract_all _))
  have h1 : (o ++ f.bits : Word).extractLsb' 5 5 = f.rc := (extract_lo o f.bits 5 5 (by decide)).trans ((extract_hi _ _ 5 5 (by decide)).trans ((extract_lo _ _ 0 5 (by decide)).trans (extract_all _)))
  have h2 : (o ++ f.bits : Word).extractLsb' 10 5 = f.rb := (extract_lo o f.bits 10 5 (by decide)).trans ((extract_hi _ _ 10 5 (by decide)).trans ((extract_hi _ _ 5 5 (by decide)).trans ((extract_lo _ _ 0 5 (by decide)).trans (extract_all _))))
  have h3 : (o ++ f.bits : Word).extractLsb' 15 5 = f.ra := (extract_lo o f.bits 15 5 (by decide)).trans ((extract_hi _ _ 15 5 (by decide)).trans ((extract_hi _ _ 10 5 (by decide)).trans ((extract_hi _ _ 5 5 (by decide)).trans ((extract_lo _ _ 0 5 (by decide)).trans (extract_all _)))))
  have h4 : (o ++ f.bits : Word).extractLsb' 20 4 = f.q := (extract_lo o f.bits 20 4 (by decide)).trans ((extract_hi _ _ 20 4 (by decide)).trans ((extract_hi _ _ 15 4 (by decide)).trans ((extract_hi _ _ 10 4 (by decide)).trans ((extract_hi _ _ 5 4 (by decide)).trans (extract_all _)))))
  simp only [EE.ofWord, h0, h1, h2, h3, h4]
theorem CB.back (o : BitVec 8) (f : CB) : CB.ofWord (o ++ f.bits) = some f := by
  have h0 : (o ++ f.bits : Word).extractLsb' 0 20 = f.off := (extract_lo o f.bits 0 20 (by decide)).trans ((extract_lo _ _ 0 20 (by decide)).trans (extract_all _))
  have h1 : (o ++ f.bits : Word).extractLsb' 20 1 = f.sense := (extract_lo o f.bits 20 1 (by decide)).trans ((extract_hi _ _ 20 1 (by decide)).trans ((extract_lo _ _ 0 1 (by decide)).trans (extract_all _)))
  have h2 : (o ++ f.bits : Word).extractLsb' 21 3 = f.c := (extract_lo o f.bits 21 3 (by decide)).trans ((extract_hi _ _ 21 3 (by decide)).trans ((extract_hi _ _ 1 3 (by decide)).trans (extract_all _)))
  simp only [CB.ofWord, h0, h1, h2]
theorem CO.back (o : BitVec 8) (f : CO) : CO.ofWord (o ++ f.bits) = some f := by
  have h0 : (o ++ f.bits : Word).extractLsb' 0 20 = f.off := (extract_lo o f.bits 0 20 (by decide)).trans ((extract_lo _ _ 0 20 (by decide)).trans (extract_all _))
  have h1 : (o ++ f.bits : Word).extractLsb' 20 4 = 0#4 := (extract_lo o f.bits 20 4 (by decide)).trans ((extract_hi _ _ 20 4 (by decide)).trans (extract_all _))
  simp only [CO.ofWord, h0, h1, beq_self_eq_true, if_true]
theorem CS.back (o : BitVec 8) (f : CS) : CS.ofWord (o ++ f.bits) = some f := by
  have h0 : (o ++ f.bits : Word).extractLsb' 0 10 = f.join := (extract_lo o f.bits 0 10 (by decide)).trans ((extract_lo _ _ 0 10 (by decide)).trans (extract_all _))
  have h1 : (o ++ f.bits : Word).extractLsb' 10 10 = f.target := (extract_lo o f.bits 10 10 (by decide)).trans ((extract_hi _ _ 10 10 (by decide)).trans ((extract_lo _ _ 0 10 (by decide)).trans (extract_all _)))
  have h2 : (o ++ f.bits : Word).extractLsb' 20 4 = f.k := (extract_lo o f.bits 20 4 (by decide)).trans ((extract_hi _ _ 20 4 (by decide)).trans ((extract_hi _ _ 10 4 (by decide)).trans (extract_all _)))
  simp only [CS.ofWord, h0, h1, h2]
theorem CJ.back (o : BitVec 8) (f : CJ) : CJ.ofWord (o ++ f.bits) = some f := by
  have h0 : (o ++ f.bits : Word).extractLsb' 0 5 = f.sb := (extract_lo o f.bits 0 5 (by decide)).trans ((extract_lo _ _ 0 5 (by decide)).trans (extract_all _))
  have h1 : (o ++ f.bits : Word).extractLsb' 5 2 = 0#2 := (extract_lo o f.bits 5 2 (by decide)).trans ((extract_hi _ _ 5 2 (by decide)).trans ((extract_lo _ _ 0 2 (by decide)).trans (extract_all _)))
  have h2 : (o ++ f.bits : Word).extractLsb' 7 7 = f.va := (extract_lo o f.bits 7 7 (by decide)).trans ((extract_hi _ _ 7 7 (by decide)).trans ((extract_hi _ _ 2 7 (by decide)).trans ((extract_lo _ _ 0 7 (by decide)).trans (extract_all _))))
  have h3 : (o ++ f.bits : Word).extractLsb' 14 1 = f.ea := (extract_lo o f.bits 14 1 (by decide)).trans ((extract_hi _ _ 14 1 (by decide)).trans ((extract_hi _ _ 9 1 (by decide)).trans ((extract_hi _ _ 7 1 (by decide)).trans ((extract_lo _ _ 0 1 (by decide)).trans (extract_all _)))))
  have h4 : (o ++ f.bits : Word).extractLsb' 15 2 = 0#2 := (extract_lo o f.bits 15 2 (by decide)).trans ((extract_hi _ _ 15 2 (by decide)).trans ((extract_hi _ _ 10 2 (by decide)).trans ((extract_hi _ _ 8 2 (by decide)).trans ((extract_hi _ _ 1 2 (by decide)).trans ((extract_lo _ _ 0 2 (by decide)).trans (extract_all _))))))
  have h5 : (o ++ f.bits : Word).extractLsb' 17 7 = f.n1 := (extract_lo o f.bits 17 7 (by decide)).trans ((extract_hi _ _ 17 7 (by decide)).trans ((extract_hi _ _ 12 7 (by decide)).trans ((extract_hi _ _ 10 7 (by decide)).trans ((extract_hi _ _ 3 7 (by decide)).trans ((extract_hi _ _ 2 7 (by decide)).trans (extract_all _))))))
  simp only [CJ.ofWord, h0, h1, h2, h3, h4, h5, beq_self_eq_true, Bool.and_self, if_true]
theorem CR.back (o : BitVec 8) (f : CR) : CR.ofWord (o ++ f.bits) = some f := by
  have h0 : (o ++ f.bits : Word).extractLsb' 0 17 = 0#17 := (extract_lo o f.bits 0 17 (by decide)).trans ((extract_lo _ _ 0 17 (by decide)).trans (extract_all _))
  have h1 : (o ++ f.bits : Word).extractLsb' 17 3 = f.scope := (extract_lo o f.bits 17 3 (by decide)).trans ((extract_hi _ _ 17 3 (by decide)).trans ((extract_lo _ _ 0 3 (by decide)).trans (extract_all _)))
  have h2 : (o ++ f.bits : Word).extractLsb' 20 4 = 0#4 := (extract_lo o f.bits 20 4 (by decide)).trans ((extract_hi _ _ 20 4 (by decide)).trans ((extract_hi _ _ 3 4 (by decide)).trans (extract_all _)))
  simp only [CR.ofWord, h0, h1, h2, beq_self_eq_true, Bool.and_self, if_true]
theorem CQ.back (o : BitVec 8) (f : CQ) : CQ.ofWord (o ++ f.bits) = some f := by
  have h0 : (o ++ f.bits : Word).extractLsb' 0 5 = f.s := (extract_lo o f.bits 0 5 (by decide)).trans ((extract_lo _ _ 0 5 (by decide)).trans (extract_all _))
  have h1 : (o ++ f.bits : Word).extractLsb' 5 15 = 0#15 := (extract_lo o f.bits 5 15 (by decide)).trans ((extract_hi _ _ 5 15 (by decide)).trans ((extract_lo _ _ 0 15 (by decide)).trans (extract_all _)))
  have h2 : (o ++ f.bits : Word).extractLsb' 20 4 = f.q := (extract_lo o f.bits 20 4 (by decide)).trans ((extract_hi _ _ 20 4 (by decide)).trans ((extract_hi _ _ 15 4 (by decide)).trans (extract_all _)))
  simp only [CQ.ofWord, h0, h1, h2, beq_self_eq_true, if_true]
theorem CW.back (o : BitVec 8) (f : CW) : CW.ofWord (o ++ f.bits) = some f := by
  have h0 : (o ++ f.bits : Word).extractLsb' 0 5 = f.s := (extract_lo o f.bits 0 5 (by decide)).trans ((extract_lo _ _ 0 5 (by decide)).trans (extract_all _))
  have h1 : (o ++ f.bits : Word).extractLsb' 5 19 = 0#19 := (extract_lo o f.bits 5 19 (by decide)).trans ((extract_hi _ _ 5 19 (by decide)).trans (extract_all _))
  simp only [CW.ofWord, h0, h1, beq_self_eq_true, if_true]
theorem CM.back (o : BitVec 8) (f : CM) : CM.ofWord (o ++ f.bits) = some f := by
  have h0 : (o ++ f.bits : Word).extractLsb' 0 1 = f.mode := (extract_lo o f.bits 0 1 (by decide)).trans ((extract_lo _ _ 0 1 (by decide)).trans (extract_all _))
  have h1 : (o ++ f.bits : Word).extractLsb' 1 23 = 0#23 := (extract_lo o f.bits 1 23 (by decide)).trans ((extract_hi _ _ 1 23 (by decide)).trans (extract_all _))
  simp only [CM.ofWord, h0, h1, beq_self_eq_true, if_true]
theorem XR.back (o : BitVec 8) (f : XR) : XR.ofWord (o ++ f.bits) = some f := by
  have h0 : (o ++ f.bits : Word).extractLsb' 0 5 = f.xd := (extract_lo o f.bits 0 5 (by decide)).trans ((extract_lo _ _ 0 5 (by decide)).trans (extract_all _))
  have h1 : (o ++ f.bits : Word).extractLsb' 5 5 = f.xa := (extract_lo o f.bits 5 5 (by decide)).trans ((extract_hi _ _ 5 5 (by decide)).trans ((extract_lo _ _ 0 5 (by decide)).trans (extract_all _)))
  have h2 : (o ++ f.bits : Word).extractLsb' 10 5 = f.xb := (extract_lo o f.bits 10 5 (by decide)).trans ((extract_hi _ _ 10 5 (by decide)).trans ((extract_hi _ _ 5 5 (by decide)).trans ((extract_lo _ _ 0 5 (by decide)).trans (extract_all _))))
  have h3 : (o ++ f.bits : Word).extractLsb' 15 9 = f.f9 := (extract_lo o f.bits 15 9 (by decide)).trans ((extract_hi _ _ 15 9 (by decide)).trans ((extract_hi _ _ 10 9 (by decide)).trans ((extract_hi _ _ 5 9 (by decide)).trans (extract_all _))))
  simp only [XR.ofWord, h0, h1, h2, h3]
theorem XI.back (o : BitVec 8) (f : XI) : XI.ofWord (o ++ f.bits) = some f := by
  have h0 : (o ++ f.bits : Word).extractLsb' 0 5 = f.xd := (extract_lo o f.bits 0 5 (by decide)).trans ((extract_lo _ _ 0 5 (by decide)).trans (extract_all _))
  have h1 : (o ++ f.bits : Word).extractLsb' 5 5 = f.xa := (extract_lo o f.bits 5 5 (by decide)).trans ((extract_hi _ _ 5 5 (by decide)).trans ((extract_lo _ _ 0 5 (by decide)).trans (extract_all _)))
  have h2 : (o ++ f.bits : Word).extractLsb' 10 14 = f.imm := (extract_lo o f.bits 10 14 (by decide)).trans ((extract_hi _ _ 10 14 (by decide)).trans ((extract_hi _ _ 5 14 (by decide)).trans (extract_all _)))
  simp only [XI.ofWord, h0, h1, h2]
theorem XL.back (o : BitVec 8) (f : XL) : XL.ofWord (o ++ f.bits) = some f := by
  have h0 : (o ++ f.bits : Word).extractLsb' 0 5 = f.xd := (extract_lo o f.bits 0 5 (by decide)).trans ((extract_lo _ _ 0 5 (by decide)).trans (extract_all _))
  have h1 : (o ++ f.bits : Word).extractLsb' 5 16 = f.imm := (extract_lo o f.bits 5 16 (by decide)).trans ((extract_hi _ _ 5 16 (by decide)).trans ((extract_lo _ _ 0 16 (by decide)).trans (extract_all _)))
  have h2 : (o ++ f.bits : Word).extractLsb' 21 2 = f.hw := (extract_lo o f.bits 21 2 (by decide)).trans ((extract_hi _ _ 21 2 (by decide)).trans ((extract_hi _ _ 16 2 (by decide)).trans ((extract_lo _ _ 0 2 (by decide)).trans (extract_all _))))
  have h3 : (o ++ f.bits : Word).extractLsb' 23 1 = 0#1 := (extract_lo o f.bits 23 1 (by decide)).trans ((extract_hi _ _ 23 1 (by decide)).trans ((extract_hi _ _ 18 1 (by decide)).trans ((extract_hi _ _ 2 1 (by decide)).trans (extract_all _))))
  simp only [XL.ofWord, h0, h1, h2, h3, beq_self_eq_true, if_true]
theorem XC.back (o : BitVec 8) (f : XC) : XC.ofWord (o ++ f.bits) = some f := by
  have h0 : (o ++ f.bits : Word).extractLsb' 0 3 = f.cd := (extract_lo o f.bits 0 3 (by decide)).trans ((extract_lo _ _ 0 3 (by decide)).trans (extract_all _))
  have h1 : (o ++ f.bits : Word).extractLsb' 3 4 = f.cond := (extract_lo o f.bits 3 4 (by decide)).trans ((extract_hi _ _ 3 4 (by decide)).trans ((extract_lo _ _ 0 4 (by decide)).trans (extract_all _)))
  have h2 : (o ++ f.bits : Word).extractLsb' 7 5 = f.xa := (extract_lo o f.bits 7 5 (by decide)).trans ((extract_hi _ _ 7 5 (by decide)).trans ((extract_hi _ _ 4 5 (by decide)).trans ((extract_lo _ _ 0 5 (by decide)).trans (extract_all _))))
  have h3 : (o ++ f.bits : Word).extractLsb' 12 5 = f.xb := (extract_lo o f.bits 12 5 (by decide)).trans ((extract_hi _ _ 12 5 (by decide)).trans ((extract_hi _ _ 9 5 (by decide)).trans ((extract_hi _ _ 5 5 (by decide)).trans ((extract_lo _ _ 0 5 (by decide)).trans (extract_all _)))))
  have h4 : (o ++ f.bits : Word).extractLsb' 17 7 = 0#7 := (extract_lo o f.bits 17 7 (by decide)).trans ((extract_hi _ _ 17 7 (by decide)).trans ((extract_hi _ _ 14 7 (by decide)).trans ((extract_hi _ _ 10 7 (by decide)).trans ((extract_hi _ _ 5 7 (by decide)).trans (extract_all _)))))
  simp only [XC.ofWord, h0, h1, h2, h3, h4, beq_self_eq_true, if_true]
theorem XCI.back (o : BitVec 8) (f : XCI) : XCI.ofWord (o ++ f.bits) = some f := by
  have h0 : (o ++ f.bits : Word).extractLsb' 0 3 = f.cd := (extract_lo o f.bits 0 3 (by decide)).trans ((extract_lo _ _ 0 3 (by decide)).trans (extract_all _))
  have h1 : (o ++ f.bits : Word).extractLsb' 3 4 = f.cond := (extract_lo o f.bits 3 4 (by decide)).trans ((extract_hi _ _ 3 4 (by decide)).trans ((extract_lo _ _ 0 4 (by decide)).trans (extract_all _)))
  have h2 : (o ++ f.bits : Word).extractLsb' 7 5 = f.xa := (extract_lo o f.bits 7 5 (by decide)).trans ((extract_hi _ _ 7 5 (by decide)).trans ((extract_hi _ _ 4 5 (by decide)).trans ((extract_lo _ _ 0 5 (by decide)).trans (extract_all _))))
  have h3 : (o ++ f.bits : Word).extractLsb' 12 12 = f.imm := (extract_lo o f.bits 12 12 (by decide)).trans ((extract_hi _ _ 12 12 (by decide)).trans ((extract_hi _ _ 9 12 (by decide)).trans ((extract_hi _ _ 5 12 (by decide)).trans (extract_all _))))
  simp only [XCI.ofWord, h0, h1, h2, h3]
theorem XJ.back (o : BitVec 8) (f : XJ) : XJ.ofWord (o ++ f.bits) = some f := by
  have h0 : (o ++ f.bits : Word).extractLsb' 0 24 = f.off := (extract_lo o f.bits 0 24 (by decide)).trans (extract_all _)
  simp only [XJ.ofWord, h0]
theorem YY.back (o : BitVec 8) (f : YY) : YY.ofWord (o ++ f.bits) = some f := by
  have h0 : (o ++ f.bits : Word).extractLsb' 0 5 = f.rd := (extract_lo o f.bits 0 5 (by decide)).trans ((extract_lo _ _ 0 5 (by decide)).trans (extract_all _))
  have h1 : (o ++ f.bits : Word).extractLsb' 5 5 = f.ra := (extract_lo o f.bits 5 5 (by decide)).trans ((extract_hi _ _ 5 5 (by decide)).trans ((extract_lo _ _ 0 5 (by decide)).trans (extract_all _)))
  have h2 : (o ++ f.bits : Word).extractLsb' 10 4 = f.a := (extract_lo o f.bits 10 4 (by decide)).trans ((extract_hi _ _ 10 4 (by decide)).trans ((extract_hi _ _ 5 4 (by decide)).trans ((extract_lo _ _ 0 4 (by decide)).trans (extract_all _))))
  have h3 : (o ++ f.bits : Word).extractLsb' 14 10 = f.f10 := (extract_lo o f.bits 14 10 (by decide)).trans ((extract_hi _ _ 14 10 (by decide)).trans ((extract_hi _ _ 9 10 (by decide)).trans ((extract_hi _ _ 4 10 (by decide)).trans (extract_all _))))
  simp only [YY.ofWord, h0, h1, h2, h3]
theorem YT.back (o : BitVec 8) (f : YT) : YT.ofWord (o ++ f.bits) = some f := by
  have h0 : (o ++ f.bits : Word).extractLsb' 0 8 = 0#8 := (extract_lo o f.bits 0 8 (by decide)).trans ((extract_lo _ _ 0 8 (by decide)).trans (extract_all _))
  have h1 : (o ++ f.bits : Word).extractLsb' 8 16 = f.imm := (extract_lo o f.bits 8 16 (by decide)).trans ((extract_hi _ _ 8 16 (by decide)).trans (extract_all _))
  simp only [YT.ofWord, h0, h1, beq_self_eq_true, if_true]

end Sys2Proof.Laws
end

