-- ==== Sys2Proof/Laws/PerInstr.lean ====
section
/-! SUPPORT. One lemma per constructor: the word of an instruction is read back by a row of its class that carries its
opcode. The round trip of decoder and encoder follows from these and from the rows' opcodes. -/

namespace Sys2Proof.Laws

/-- Some row of the class has the opcode of the instruction's word and reads that word as the instruction; an instruction
without an encoding satisfies it. -/
def Encoded.Statement (i : Instr) : Prop :=
  ∀ c w, encode i = some (c, w) → ∃ (k : Nat) (r : Row), (rowsOf c)[k]? = some r ∧ r.op = opcodeOf w ∧ r.read w = some i

theorem Encoded.of_row {i : Instr} {c : Cls} {w : Word} (k : Nat) (r : Row) (hi : encode i = some (c, w))
    (hk : (rowsOf c)[k]? = some r) (ho : r.op = opcodeOf w) (hr : r.read w = some i) : Encoded.Statement i := by
  intro c' w' h
  rw [hi] at h; cases h
  exact ⟨k, r, hk, ho, hr⟩

theorem Encoded.of_none {i : Instr} (hi : encode i = none) : Encoded.Statement i := fun _ _ h => by rw [hi] at h; cases h

theorem Encoded.iadd (f : VV) : Encoded.Statement (.iadd f) := Encoded.of_row 0 _ rfl rfl (opcode_append 0x00 f.bits).symm (congrArg (Option.map Instr.iadd) (VV.back 0x00 f))
theorem Encoded.isub (f : VV) : Encoded.Statement (.isub f) := Encoded.of_row 1 _ rfl rfl (opcode_append 0x01 f.bits).symm (congrArg (Option.map Instr.isub) (VV.back 0x01 f))
theorem Encoded.imul (f : VV) : Encoded.Statement (.imul f) := Encoded.of_row 2 _ rfl rfl (opcode_append 0x02 f.bits).symm (congrArg (Option.map Instr.imul) (VV.back 0x02 f))
theorem Encoded.imulh (f : VV) : Encoded.Statement (.imulh f) := Encoded.of_row 3 _ rfl rfl (opcode_append 0x03 f.bits).symm (congrArg (Option.map Instr.imulh) (VV.back 0x03 f))
theorem Encoded.umulh (f : VV) : Encoded.Statement (.umulh f) := Encoded.of_row 4 _ rfl rfl (opcode_append 0x04 f.bits).symm (congrArg (Option.map Instr.umulh) (VV.back 0x04 f))
theorem Encoded.imad (f : VV) : Encoded.Statement (.imad f) := Encoded.of_row 5 _ rfl rfl (opcode_append 0x05 f.bits).symm (congrArg (Option.map Instr.imad) (VV.back 0x05 f))
theorem Encoded.iabs (f : VV) : Encoded.Statement (.iabs f) := Encoded.of_row 6 _ rfl rfl (opcode_append 0x06 f.bits).symm (congrArg (Option.map Instr.iabs) (VV.back 0x06 f))
theorem Encoded.ineg (f : VV) : Encoded.Statement (.ineg f) := Encoded.of_row 7 _ rfl rfl (opcode_append 0x07 f.bits).symm (congrArg (Option.map Instr.ineg) (VV.back 0x07 f))
theorem Encoded.imin (f : VV) : Encoded.Statement (.imin f) := Encoded.of_row 8 _ rfl rfl (opcode_append 0x08 f.bits).symm (congrArg (Option.map Instr.imin) (VV.back 0x08 f))
theorem Encoded.imax (f : VV) : Encoded.Statement (.imax f) := Encoded.of_row 9 _ rfl rfl (opcode_append 0x09 f.bits).symm (congrArg (Option.map Instr.imax) (VV.back 0x09 f))
theorem Encoded.umin (f : VV) : Encoded.Statement (.umin f) := Encoded.of_row 10 _ rfl rfl (opcode_append 0x0A f.bits).symm (congrArg (Option.map Instr.umin) (VV.back 0x0A f))
theorem Encoded.umax (f : VV) : Encoded.Statement (.umax f) := Encoded.of_row 11 _ rfl rfl (opcode_append 0x0B f.bits).symm (congrArg (Option.map Instr.umax) (VV.back 0x0B f))
theorem Encoded.and (f : VV) : Encoded.Statement (.and f) := Encoded.of_row 12 _ rfl rfl (opcode_append 0x0C f.bits).symm (congrArg (Option.map Instr.and) (VV.back 0x0C f))
theorem Encoded.or (f : VV) : Encoded.Statement (.or f) := Encoded.of_row 13 _ rfl rfl (opcode_append 0x0D f.bits).symm (congrArg (Option.map Instr.or) (VV.back 0x0D f))
theorem Encoded.xor (f : VV) : Encoded.Statement (.xor f) := Encoded.of_row 14 _ rfl rfl (opcode_append 0x0E f.bits).symm (congrArg (Option.map Instr.xor) (VV.back 0x0E f))
theorem Encoded.andn (f : VV) : Encoded.Statement (.andn f) := Encoded.of_row 15 _ rfl rfl (opcode_append 0x0F f.bits).symm (congrArg (Option.map Instr.andn) (VV.back 0x0F f))
theorem Encoded.shl (f : VV) : Encoded.Statement (.shl f) := Encoded.of_row 16 _ rfl rfl (opcode_append 0x10 f.bits).symm (congrArg (Option.map Instr.shl) (VV.back 0x10 f))
theorem Encoded.shr (f : VV) : Encoded.Statement (.shr f) := Encoded.of_row 17 _ rfl rfl (opcode_append 0x11 f.bits).symm (congrArg (Option.map Instr.shr) (VV.back 0x11 f))
theorem Encoded.sar (f : VV) : Encoded.Statement (.sar f) := Encoded.of_row 18 _ rfl rfl (opcode_append 0x12 f.bits).symm (congrArg (Option.map Instr.sar) (VV.back 0x12 f))
theorem Encoded.clz (f : VV) : Encoded.Statement (.clz f) := Encoded.of_row 19 _ rfl rfl (opcode_append 0x13 f.bits).symm (congrArg (Option.map Instr.clz) (VV.back 0x13 f))
theorem Encoded.popc (f : VV) : Encoded.Statement (.popc f) := Encoded.of_row 20 _ rfl rfl (opcode_append 0x14 f.bits).symm (congrArg (Option.map Instr.popc) (VV.back 0x14 f))
theorem Encoded.brev (f : VV) : Encoded.Statement (.brev f) := Encoded.of_row 21 _ rfl rfl (opcode_append 0x15 f.bits).symm (congrArg (Option.map Instr.brev) (VV.back 0x15 f))
theorem Encoded.bfx (f : VV) : Encoded.Statement (.bfx f) := Encoded.of_row 22 _ rfl rfl (opcode_append 0x16 f.bits).symm (congrArg (Option.map Instr.bfx) (VV.back 0x16 f))
theorem Encoded.bfxu (f : VV) : Encoded.Statement (.bfxu f) := Encoded.of_row 23 _ rfl rfl (opcode_append 0x17 f.bits).symm (congrArg (Option.map Instr.bfxu) (VV.back 0x17 f))
theorem Encoded.bfi (f : VV) : Encoded.Statement (.bfi f) := Encoded.of_row 24 _ rfl rfl (opcode_append 0x18 f.bits).symm (congrArg (Option.map Instr.bfi) (VV.back 0x18 f))
theorem Encoded.idiv (f : VV) : Encoded.Statement (.idiv f) := Encoded.of_row 25 _ rfl rfl (opcode_append 0x19 f.bits).symm (congrArg (Option.map Instr.idiv) (VV.back 0x19 f))
theorem Encoded.udiv (f : VV) : Encoded.Statement (.udiv f) := Encoded.of_row 26 _ rfl rfl (opcode_append 0x1A f.bits).symm (congrArg (Option.map Instr.udiv) (VV.back 0x1A f))
theorem Encoded.irem (f : VV) : Encoded.Statement (.irem f) := Encoded.of_row 27 _ rfl rfl (opcode_append 0x1B f.bits).symm (congrArg (Option.map Instr.irem) (VV.back 0x1B f))
theorem Encoded.urem (f : VV) : Encoded.Statement (.urem f) := Encoded.of_row 28 _ rfl rfl (opcode_append 0x1C f.bits).symm (congrArg (Option.map Instr.urem) (VV.back 0x1C f))
theorem Encoded.iaddi (f : VI) : Encoded.Statement (.iaddi f) := Encoded.of_row 29 _ rfl rfl (opcode_append 0x20 f.bits).symm (congrArg (Option.map Instr.iaddi) (VI.back 0x20 f))
theorem Encoded.andi (f : VI) : Encoded.Statement (.andi f) := Encoded.of_row 30 _ rfl rfl (opcode_append 0x21 f.bits).symm (congrArg (Option.map Instr.andi) (VI.back 0x21 f))
theorem Encoded.ori (f : VI) : Encoded.Statement (.ori f) := Encoded.of_row 31 _ rfl rfl (opcode_append 0x22 f.bits).symm (congrArg (Option.map Instr.ori) (VI.back 0x22 f))
theorem Encoded.xori (f : VI) : Encoded.Statement (.xori f) := Encoded.of_row 32 _ rfl rfl (opcode_append 0x23 f.bits).symm (congrArg (Option.map Instr.xori) (VI.back 0x23 f))
theorem Encoded.shli (f : VI) : Encoded.Statement (.shli f) := Encoded.of_row 33 _ rfl rfl (opcode_append 0x24 f.bits).symm (congrArg (Option.map Instr.shli) (VI.back 0x24 f))
theorem Encoded.shri (f : VI) : Encoded.Statement (.shri f) := Encoded.of_row 34 _ rfl rfl (opcode_append 0x25 f.bits).symm (congrArg (Option.map Instr.shri) (VI.back 0x25 f))
theorem Encoded.sari (f : VI) : Encoded.Statement (.sari f) := Encoded.of_row 35 _ rfl rfl (opcode_append 0x26 f.bits).symm (congrArg (Option.map Instr.sari) (VI.back 0x26 f))
theorem Encoded.movi (f : VM) : Encoded.Statement (.movi f) := Encoded.of_row 36 _ rfl rfl (opcode_append 0x27 f.bits).symm (congrArg (Option.map Instr.movi) (VM.back 0x27 f))
theorem Encoded.movhi (f : VM) : Encoded.Statement (.movhi f) := Encoded.of_row 37 _ rfl rfl (opcode_append 0x28 f.bits).symm (congrArg (Option.map Instr.movhi) (VM.back 0x28 f))
theorem Encoded.mov (f : VV) : Encoded.Statement (.mov f) := Encoded.of_row 38 _ rfl rfl (opcode_append 0x30 f.bits).symm (congrArg (Option.map Instr.mov) (VV.back 0x30 f))
theorem Encoded.sel (f : VK) : Encoded.Statement (.sel f) := Encoded.of_row 39 _ rfl rfl (opcode_append 0x31 f.bits).symm (congrArg (Option.map Instr.sel) (VK.back 0x31 f))
theorem Encoded.shfl (f : VV) : Encoded.Statement (.shfl f) := Encoded.of_row 40 _ rfl rfl (opcode_append 0x32 f.bits).symm (congrArg (Option.map Instr.shfl) (VV.back 0x32 f))
theorem Encoded.shflup (f : VV) : Encoded.Statement (.shflup f) := Encoded.of_row 41 _ rfl rfl (opcode_append 0x33 f.bits).symm (congrArg (Option.map Instr.shflup) (VV.back 0x33 f))
theorem Encoded.shfldn (f : VV) : Encoded.Statement (.shfldn f) := Encoded.of_row 42 _ rfl rfl (opcode_append 0x34 f.bits).symm (congrArg (Option.map Instr.shfldn) (VV.back 0x34 f))
theorem Encoded.shflx (f : VV) : Encoded.Statement (.shflx f) := Encoded.of_row 43 _ rfl rfl (opcode_append 0x35 f.bits).symm (congrArg (Option.map Instr.shflx) (VV.back 0x35 f))
theorem Encoded.bcast (f : VV) : Encoded.Statement (.bcast f) := Encoded.of_row 44 _ rfl rfl (opcode_append 0x36 f.bits).symm (congrArg (Option.map Instr.bcast) (VV.back 0x36 f))
theorem Encoded.laneid (f : VV) : Encoded.Statement (.laneid f) := Encoded.of_row 45 _ rfl rfl (opcode_append 0x37 f.bits).symm (congrArg (Option.map Instr.laneid) (VV.back 0x37 f))
theorem Encoded.s2v (f : VV) : Encoded.Statement (.s2v f) := Encoded.of_row 46 _ rfl rfl (opcode_append 0x38 f.bits).symm (congrArg (Option.map Instr.s2v) (VV.back 0x38 f))
theorem Encoded.s2vSib (f : VV) : Encoded.Statement (.s2vSib f) := Encoded.of_row 47 _ rfl rfl (opcode_append 0x38 f.bits).symm (congrArg (Option.map Instr.s2vSib) (VV.back 0x38 f))
theorem Encoded.v2s (f : VV) : Encoded.Statement (.v2s f) := Encoded.of_row 48 _ rfl rfl (opcode_append 0x39 f.bits).symm (congrArg (Option.map Instr.v2s) (VV.back 0x39 f))
theorem Encoded.icmp (f : VC) : Encoded.Statement (.icmp f) := Encoded.of_row 49 _ rfl rfl (opcode_append 0x40 f.bits).symm (congrArg (Option.map Instr.icmp) (VC.back 0x40 f))
theorem Encoded.ucmp (f : VC) : Encoded.Statement (.ucmp f) := Encoded.of_row 50 _ rfl rfl (opcode_append 0x41 f.bits).symm (congrArg (Option.map Instr.ucmp) (VC.back 0x41 f))
theorem Encoded.fcmp (f : VC) : Encoded.Statement (.fcmp f) := Encoded.of_row 51 _ rfl rfl (opcode_append 0x42 f.bits).symm (congrArg (Option.map Instr.fcmp) (VC.back 0x42 f))
theorem Encoded.dcmp (f : VC) : Encoded.Statement (.dcmp f) := Encoded.of_row 52 _ rfl rfl (opcode_append 0x43 f.bits).symm (congrArg (Option.map Instr.dcmp) (VC.back 0x43 f))
theorem Encoded.fadd (f : VV) : Encoded.Statement (.fadd f) := Encoded.of_row 53 _ rfl rfl (opcode_append 0x50 f.bits).symm (congrArg (Option.map Instr.fadd) (VV.back 0x50 f))
theorem Encoded.fsub (f : VV) : Encoded.Statement (.fsub f) := Encoded.of_row 54 _ rfl rfl (opcode_append 0x51 f.bits).symm (congrArg (Option.map Instr.fsub) (VV.back 0x51 f))
theorem Encoded.fmul (f : VV) : Encoded.Statement (.fmul f) := Encoded.of_row 55 _ rfl rfl (opcode_append 0x52 f.bits).symm (congrArg (Option.map Instr.fmul) (VV.back 0x52 f))
theorem Encoded.ffma (f : VV) : Encoded.Statement (.ffma f) := Encoded.of_row 56 _ rfl rfl (opcode_append 0x53 f.bits).symm (congrArg (Option.map Instr.ffma) (VV.back 0x53 f))
theorem Encoded.fmin (f : VV) : Encoded.Statement (.fmin f) := Encoded.of_row 57 _ rfl rfl (opcode_append 0x54 f.bits).symm (congrArg (Option.map Instr.fmin) (VV.back 0x54 f))
theorem Encoded.fmax (f : VV) : Encoded.Statement (.fmax f) := Encoded.of_row 58 _ rfl rfl (opcode_append 0x55 f.bits).symm (congrArg (Option.map Instr.fmax) (VV.back 0x55 f))
theorem Encoded.fabs (f : VV) : Encoded.Statement (.fabs f) := Encoded.of_row 59 _ rfl rfl (opcode_append 0x56 f.bits).symm (congrArg (Option.map Instr.fabs) (VV.back 0x56 f))
theorem Encoded.fneg (f : VV) : Encoded.Statement (.fneg f) := Encoded.of_row 60 _ rfl rfl (opcode_append 0x57 f.bits).symm (congrArg (Option.map Instr.fneg) (VV.back 0x57 f))
theorem Encoded.fdiv (f : VV) : Encoded.Statement (.fdiv f) := Encoded.of_row 61 _ rfl rfl (opcode_append 0x58 f.bits).symm (congrArg (Option.map Instr.fdiv) (VV.back 0x58 f))
theorem Encoded.fsqrt (f : VV) : Encoded.Statement (.fsqrt f) := Encoded.of_row 62 _ rfl rfl (opcode_append 0x59 f.bits).symm (congrArg (Option.map Instr.fsqrt) (VV.back 0x59 f))
theorem Encoded.frcp (f : VV) : Encoded.Statement (.frcp f) := Encoded.of_row 63 _ rfl rfl (opcode_append 0x5A f.bits).symm (congrArg (Option.map Instr.frcp) (VV.back 0x5A f))
theorem Encoded.frsq (f : VV) : Encoded.Statement (.frsq f) := Encoded.of_row 64 _ rfl rfl (opcode_append 0x5B f.bits).symm (congrArg (Option.map Instr.frsq) (VV.back 0x5B f))
theorem Encoded.fexp2 (f : VV) : Encoded.Statement (.fexp2 f) := Encoded.of_row 65 _ rfl rfl (opcode_append 0x5C f.bits).symm (congrArg (Option.map Instr.fexp2) (VV.back 0x5C f))
theorem Encoded.flog2 (f : VV) : Encoded.Statement (.flog2 f) := Encoded.of_row 66 _ rfl rfl (opcode_append 0x5D f.bits).symm (congrArg (Option.map Instr.flog2) (VV.back 0x5D f))
theorem Encoded.ftanh (f : VV) : Encoded.Statement (.ftanh f) := Encoded.of_row 67 _ rfl rfl (opcode_append 0x5E f.bits).symm (congrArg (Option.map Instr.ftanh) (VV.back 0x5E f))
theorem Encoded.frnd (f : VV) : Encoded.Statement (.frnd f) := Encoded.of_row 68 _ rfl rfl (opcode_append 0x5F f.bits).symm (congrArg (Option.map Instr.frnd) (VV.back 0x5F f))
theorem Encoded.fclass (f : VV) : Encoded.Statement (.fclass f) := Encoded.of_row 69 _ rfl rfl (opcode_append 0x60 f.bits).symm (congrArg (Option.map Instr.fclass) (VV.back 0x60 f))
theorem Encoded.dadd (f : VV) : Encoded.Statement (.dadd f) := Encoded.of_row 70 _ rfl rfl (opcode_append 0x70 f.bits).symm (congrArg (Option.map Instr.dadd) (VV.back 0x70 f))
theorem Encoded.dsub (f : VV) : Encoded.Statement (.dsub f) := Encoded.of_row 71 _ rfl rfl (opcode_append 0x71 f.bits).symm (congrArg (Option.map Instr.dsub) (VV.back 0x71 f))
theorem Encoded.dmul (f : VV) : Encoded.Statement (.dmul f) := Encoded.of_row 72 _ rfl rfl (opcode_append 0x72 f.bits).symm (congrArg (Option.map Instr.dmul) (VV.back 0x72 f))
theorem Encoded.dfma (f : VV) : Encoded.Statement (.dfma f) := Encoded.of_row 73 _ rfl rfl (opcode_append 0x73 f.bits).symm (congrArg (Option.map Instr.dfma) (VV.back 0x73 f))
theorem Encoded.dmin (f : VV) : Encoded.Statement (.dmin f) := Encoded.of_row 74 _ rfl rfl (opcode_append 0x74 f.bits).symm (congrArg (Option.map Instr.dmin) (VV.back 0x74 f))
theorem Encoded.dmax (f : VV) : Encoded.Statement (.dmax f) := Encoded.of_row 75 _ rfl rfl (opcode_append 0x75 f.bits).symm (congrArg (Option.map Instr.dmax) (VV.back 0x75 f))
theorem Encoded.ddiv (f : VV) : Encoded.Statement (.ddiv f) := Encoded.of_row 76 _ rfl rfl (opcode_append 0x76 f.bits).symm (congrArg (Option.map Instr.ddiv) (VV.back 0x76 f))
theorem Encoded.dsqrt (f : VV) : Encoded.Statement (.dsqrt f) := Encoded.of_row 77 _ rfl rfl (opcode_append 0x77 f.bits).symm (congrArg (Option.map Instr.dsqrt) (VV.back 0x77 f))
theorem Encoded.cvt (f : VT) : Encoded.Statement (.cvt f) := Encoded.of_row 78 _ rfl rfl (opcode_append 0x80 f.bits).symm (congrArg (Option.map Instr.cvt) (VT.back 0x80 f))
theorem Encoded.pack2 (f : VT) : Encoded.Statement (.pack2 f) := Encoded.of_row 79 _ rfl rfl (opcode_append 0x81 f.bits).symm (congrArg (Option.map Instr.pack2) (VT.back 0x81 f))
theorem Encoded.unpack2 (f : VT) : Encoded.Statement (.unpack2 f) := Encoded.of_row 80 _ rfl rfl (opcode_append 0x82 f.bits).symm (congrArg (Option.map Instr.unpack2) (VT.back 0x82 f))
theorem Encoded.redf (f : VR) : Encoded.Statement (.redf f) := Encoded.of_row 81 _ rfl rfl (opcode_append 0x90 f.bits).symm (congrArg (Option.map Instr.redf) (VR.back 0x90 f))
theorem Encoded.redfmin (f : VR) : Encoded.Statement (.redfmin f) := Encoded.of_row 82 _ rfl rfl (opcode_append 0x91 f.bits).symm (congrArg (Option.map Instr.redfmin) (VR.back 0x91 f))
theorem Encoded.redfmax (f : VR) : Encoded.Statement (.redfmax f) := Encoded.of_row 83 _ rfl rfl (opcode_append 0x92 f.bits).symm (congrArg (Option.map Instr.redfmax) (VR.back 0x92 f))
theorem Encoded.redi (f : VR) : Encoded.Statement (.redi f) := Encoded.of_row 84 _ rfl rfl (opcode_append 0x93 f.bits).symm (congrArg (Option.map Instr.redi) (VR.back 0x93 f))
theorem Encoded.scani (f : VK) : Encoded.Statement (.scani f) := Encoded.of_row 85 _ rfl rfl (opcode_append 0x94 f.bits).symm (congrArg (Option.map Instr.scani) (VK.back 0x94 f))
theorem Encoded.kand (f : KF) : Encoded.Statement (.kand f) := Encoded.of_row 86 _ rfl rfl (opcode_append 0xA0 f.bits).symm (congrArg (Option.map Instr.kand) (KF.back 0xA0 f))
theorem Encoded.kor (f : KF) : Encoded.Statement (.kor f) := Encoded.of_row 87 _ rfl rfl (opcode_append 0xA1 f.bits).symm (congrArg (Option.map Instr.kor) (KF.back 0xA1 f))
theorem Encoded.kxor (f : KF) : Encoded.Statement (.kxor f) := Encoded.of_row 88 _ rfl rfl (opcode_append 0xA2 f.bits).symm (congrArg (Option.map Instr.kxor) (KF.back 0xA2 f))
theorem Encoded.knot (f : KF) : Encoded.Statement (.knot f) := Encoded.of_row 89 _ rfl rfl (opcode_append 0xA3 f.bits).symm (congrArg (Option.map Instr.knot) (KF.back 0xA3 f))
theorem Encoded.kmov (f : KF) : Encoded.Statement (.kmov f) := Encoded.of_row 90 _ rfl rfl (opcode_append 0xA4 f.bits).symm (congrArg (Option.map Instr.kmov) (KF.back 0xA4 f))
theorem Encoded.kpop (f : KF) : Encoded.Statement (.kpop f) := Encoded.of_row 91 _ rfl rfl (opcode_append 0xA5 f.bits).symm (congrArg (Option.map Instr.kpop) (KF.back 0xA5 f))
theorem Encoded.kany (f : KF) : Encoded.Statement (.kany f) := Encoded.of_row 92 _ rfl rfl (opcode_append 0xA6 f.bits).symm (congrArg (Option.map Instr.kany) (KF.back 0xA6 f))
theorem Encoded.kall (f : KF) : Encoded.Statement (.kall f) := Encoded.of_row 93 _ rfl rfl (opcode_append 0xA7 f.bits).symm (congrArg (Option.map Instr.kall) (KF.back 0xA7 f))
theorem Encoded.kfirst (f : KF) : Encoded.Statement (.kfirst f) := Encoded.of_row 94 _ rfl rfl (opcode_append 0xA8 f.bits).symm (congrArg (Option.map Instr.kfirst) (KF.back 0xA8 f))
theorem Encoded.sadd (f : SF) : Encoded.Statement (.sadd f) := Encoded.of_row 95 _ rfl rfl (opcode_append 0xB0 f.bits).symm (congrArg (Option.map Instr.sadd) (SF.back 0xB0 f))
theorem Encoded.ssub (f : SF) : Encoded.Statement (.ssub f) := Encoded.of_row 96 _ rfl rfl (opcode_append 0xB1 f.bits).symm (congrArg (Option.map Instr.ssub) (SF.back 0xB1 f))
theorem Encoded.smul (f : SF) : Encoded.Statement (.smul f) := Encoded.of_row 97 _ rfl rfl (opcode_append 0xB2 f.bits).symm (congrArg (Option.map Instr.smul) (SF.back 0xB2 f))
theorem Encoded.sand (f : SF) : Encoded.Statement (.sand f) := Encoded.of_row 98 _ rfl rfl (opcode_append 0xB3 f.bits).symm (congrArg (Option.map Instr.sand) (SF.back 0xB3 f))
theorem Encoded.sor (f : SF) : Encoded.Statement (.sor f) := Encoded.of_row 99 _ rfl rfl (opcode_append 0xB4 f.bits).symm (congrArg (Option.map Instr.sor) (SF.back 0xB4 f))
theorem Encoded.sxor (f : SF) : Encoded.Statement (.sxor f) := Encoded.of_row 100 _ rfl rfl (opcode_append 0xB5 f.bits).symm (congrArg (Option.map Instr.sxor) (SF.back 0xB5 f))
theorem Encoded.sshl (f : SF) : Encoded.Statement (.sshl f) := Encoded.of_row 101 _ rfl rfl (opcode_append 0xB6 f.bits).symm (congrArg (Option.map Instr.sshl) (SF.back 0xB6 f))
theorem Encoded.sshr (f : SF) : Encoded.Statement (.sshr f) := Encoded.of_row 102 _ rfl rfl (opcode_append 0xB7 f.bits).symm (congrArg (Option.map Instr.sshr) (SF.back 0xB7 f))
theorem Encoded.smov (f : SF) : Encoded.Statement (.smov f) := Encoded.of_row 103 _ rfl rfl (opcode_append 0xB8 f.bits).symm (congrArg (Option.map Instr.smov) (SF.back 0xB8 f))
theorem Encoded.smovi (f : SI) : Encoded.Statement (.smovi f) := Encoded.of_row 104 _ rfl rfl (opcode_append 0xB9 f.bits).symm (congrArg (Option.map Instr.smovi) (SI.back 0xB9 f))
theorem Encoded.scmp (f : SF) : Encoded.Statement (.scmp f) := Encoded.of_row 105 _ rfl rfl (opcode_append 0xBA f.bits).symm (congrArg (Option.map Instr.scmp) (SF.back 0xBA f))
theorem Encoded.dig (f : VV) : Encoded.Statement (.dig f) := Encoded.of_row 106 _ rfl rfl (opcode_append 0xC0 f.bits).symm (congrArg (Option.map Instr.dig) (VV.back 0xC0 f))
theorem Encoded.tmean (f : VV) : Encoded.Statement (.tmean f) := Encoded.of_row 107 _ rfl rfl (opcode_append 0xC1 f.bits).symm (congrArg (Option.map Instr.tmean) (VV.back 0xC1 f))
theorem Encoded.tspread (f : VV) : Encoded.Statement (.tspread f) := Encoded.of_row 108 _ rfl rfl (opcode_append 0xC2 f.bits).symm (congrArg (Option.map Instr.tspread) (VV.back 0xC2 f))
theorem Encoded.sibsel (f : VV) : Encoded.Statement (.sibsel f) := Encoded.of_row 109 _ rfl rfl (opcode_append 0xC3 f.bits).symm (congrArg (Option.map Instr.sibsel) (VV.back 0xC3 f))
theorem Encoded.tchk (f : VV) : Encoded.Statement (.tchk f) := Encoded.of_row 110 _ rfl rfl (opcode_append 0xC4 f.bits).symm (congrArg (Option.map Instr.tchk) (VV.back 0xC4 f))
theorem Encoded.ld (f : MV) : Encoded.Statement (.ld f) := Encoded.of_row 0 _ rfl rfl (opcode_append 0x00 f.bits).symm (congrArg (Option.map Instr.ld) (MV.back 0x00 f))
theorem Encoded.st (f : MV) : Encoded.Statement (.st f) := Encoded.of_row 1 _ rfl rfl (opcode_append 0x01 f.bits).symm (congrArg (Option.map Instr.st) (MV.back 0x01 f))
theorem Encoded.ldt (f : MV) : Encoded.Statement (.ldt f) := Encoded.of_row 2 _ rfl rfl (opcode_append 0x02 f.bits).symm (congrArg (Option.map Instr.ldt) (MV.back 0x02 f))
theorem Encoded.stt (f : MV) : Encoded.Statement (.stt f) := Encoded.of_row 3 _ rfl rfl (opcode_append 0x03 f.bits).symm (congrArg (Option.map Instr.stt) (MV.back 0x03 f))
theorem Encoded.lds (f : MS) : Encoded.Statement (.lds f) := Encoded.of_row 4 _ rfl rfl (opcode_append 0x04 f.bits).symm (congrArg (Option.map Instr.lds) (MS.back 0x04 f))
theorem Encoded.sts (f : MS) : Encoded.Statement (.sts f) := Encoded.of_row 5 _ rfl rfl (opcode_append 0x05 f.bits).symm (congrArg (Option.map Instr.sts) (MS.back 0x05 f))
theorem Encoded.ldu (f : MU) : Encoded.Statement (.ldu f) := Encoded.of_row 6 _ rfl rfl (opcode_append 0x06 f.bits).symm (congrArg (Option.map Instr.ldu) (MU.back 0x06 f))
theorem Encoded.stu (f : MU) : Encoded.Statement (.stu f) := Encoded.of_row 7 _ rfl rfl (opcode_append 0x07 f.bits).symm (congrArg (Option.map Instr.stu) (MU.back 0x07 f))
theorem Encoded.atom (f : MA) : Encoded.Statement (.atom f) := Encoded.of_row 8 _ rfl rfl (opcode_append 0x08 f.bits).symm (congrArg (Option.map Instr.atom) (MA.back 0x08 f))
theorem Encoded.acas (f : MA) : Encoded.Statement (.acas f) := Encoded.of_row 9 _ rfl rfl (opcode_append 0x09 f.bits).symm (congrArg (Option.map Instr.acas) (MA.back 0x09 f))
theorem Encoded.fatom (f : MA) : Encoded.Statement (.fatom f) := Encoded.of_row 10 _ rfl rfl (opcode_append 0x0A f.bits).symm (congrArg (Option.map Instr.fatom) (MA.back 0x0A f))
theorem Encoded.atoms (f : MS) : Encoded.Statement (.atoms f) := Encoded.of_row 11 _ rfl rfl (opcode_append 0x0B f.bits).symm (congrArg (Option.map Instr.atoms) (MS.back 0x0B f))
theorem Encoded.pref (f : MV) : Encoded.Statement (.pref f) := Encoded.of_row 12 _ rfl rfl (opcode_append 0x0C f.bits).symm (congrArg (Option.map Instr.pref) (MV.back 0x0C f))
theorem Encoded.clean (f : MV) : Encoded.Statement (.clean f) := Encoded.of_row 13 _ rfl rfl (opcode_append 0x0D f.bits).symm (congrArg (Option.map Instr.clean) (MV.back 0x0D f))
theorem Encoded.fence (f : MF) : Encoded.Statement (.fence f) := Encoded.of_row 14 _ rfl rfl (opcode_append 0x10 f.bits).symm (congrArg (Option.map Instr.fence) (MF.back 0x10 f))
theorem Encoded.afence (f : MF) : Encoded.Statement (.afence f) := Encoded.of_row 15 _ rfl rfl (opcode_append 0x12 f.bits).symm (congrArg (Option.map Instr.afence) (MF.back 0x12 f))
theorem Encoded.seal (f : MF) : Encoded.Statement (.seal f) := Encoded.of_row 16 _ rfl rfl (opcode_append 0x13 f.bits).symm (congrArg (Option.map Instr.seal) (MF.back 0x13 f))
theorem Encoded.unseal (f : MF) : Encoded.Statement (.unseal f) := Encoded.of_row 17 _ rfl rfl (opcode_append 0x14 f.bits).symm (congrArg (Option.map Instr.unseal) (MF.back 0x14 f))
theorem Encoded.mmab (f : MM) : Encoded.Statement (.mmab f) := Encoded.of_row 0 _ rfl rfl (opcode_append 0x00 f.bits).symm (congrArg (Option.map Instr.mmab) (MM.back 0x00 f))
theorem Encoded.mmah (f : MM) : Encoded.Statement (.mmah f) := Encoded.of_row 1 _ rfl rfl (opcode_append 0x01 f.bits).symm (congrArg (Option.map Instr.mmah) (MM.back 0x01 f))
theorem Encoded.mmas8 (f : MM) : Encoded.Statement (.mmas8 f) := Encoded.of_row 2 _ rfl rfl (opcode_append 0x02 f.bits).symm (congrArg (Option.map Instr.mmas8) (MM.back 0x02 f))
theorem Encoded.mmas4 (f : MM) : Encoded.Statement (.mmas4 f) := Encoded.of_row 3 _ rfl rfl (opcode_append 0x03 f.bits).symm (congrArg (Option.map Instr.mmas4) (MM.back 0x03 f))
theorem Encoded.mzero (f : MM) : Encoded.Statement (.mzero f) := Encoded.of_row 4 _ rfl rfl (opcode_append 0x04 f.bits).symm (congrArg (Option.map Instr.mzero) (MM.back 0x04 f))
theorem Encoded.mlda (f : MM) : Encoded.Statement (.mlda f) := Encoded.of_row 5 _ rfl rfl (opcode_append 0x05 f.bits).symm (congrArg (Option.map Instr.mlda) (MM.back 0x05 f))
theorem Encoded.msta (f : MM) : Encoded.Statement (.msta f) := Encoded.of_row 6 _ rfl rfl (opcode_append 0x06 f.bits).symm (congrArg (Option.map Instr.msta) (MM.back 0x06 f))
theorem Encoded.mdrv (f : MM) : Encoded.Statement (.mdrv f) := Encoded.of_row 7 _ rfl rfl (opcode_append 0x07 f.bits).symm (congrArg (Option.map Instr.mdrv) (MM.back 0x07 f))
theorem Encoded.mdrs (f : MM) : Encoded.Statement (.mdrs f) := Encoded.of_row 8 _ rfl rfl (opcode_append 0x08 f.bits).symm (congrArg (Option.map Instr.mdrs) (MM.back 0x08 f))
theorem Encoded.mcvt (f : MM) : Encoded.Statement (.mcvt f) := Encoded.of_row 9 _ rfl rfl (opcode_append 0x09 f.bits).symm (congrArg (Option.map Instr.mcvt) (MM.back 0x09 f))
theorem Encoded.msig (f : MM) : Encoded.Statement (.msig f) := Encoded.of_row 10 _ rfl rfl (opcode_append 0x0A f.bits).symm (congrArg (Option.map Instr.msig) (MM.back 0x0A f))
theorem Encoded.msigxSt (f : MM) : Encoded.Statement (.msigxSt f) := Encoded.of_row 11 _ rfl rfl (opcode_append 0x0B f.bits).symm (congrArg (Option.map Instr.msigxSt) (MM.back 0x0B f))
theorem Encoded.msigxCmp (f : MM) : Encoded.Statement (.msigxCmp f) := Encoded.of_row 12 _ rfl rfl (opcode_append 0x0B f.bits).symm (congrArg (Option.map Instr.msigxCmp) (MM.back 0x0B f))
theorem Encoded.mtrip (f : MM) : Encoded.Statement (.mtrip f) := Encoded.of_row 13 _ rfl rfl (opcode_append 0x0C f.bits).symm (congrArg (Option.map Instr.mtrip) (MM.back 0x0C f))
theorem Encoded.cpy (f : EE) : Encoded.Statement (.cpy f) := Encoded.of_row 0 _ rfl rfl (opcode_append 0x00 f.bits).symm (congrArg (Option.map Instr.cpy) (EE.back 0x00 f))
theorem Encoded.cpy2 (f : EE) : Encoded.Statement (.cpy2 f) := Encoded.of_row 1 _ rfl rfl (opcode_append 0x01 f.bits).symm (congrArg (Option.map Instr.cpy2) (EE.back 0x01 f))
theorem Encoded.cpyt (f : EE) : Encoded.Statement (.cpyt f) := Encoded.of_row 2 _ rfl rfl (opcode_append 0x02 f.bits).symm (congrArg (Option.map Instr.cpyt) (EE.back 0x02 f))
theorem Encoded.cpyr (f : EE) : Encoded.Statement (.cpyr f) := Encoded.of_row 3 _ rfl rfl (opcode_append 0x03 f.bits).symm (congrArg (Option.map Instr.cpyr) (EE.back 0x03 f))
theorem Encoded.cpym (f : EE) : Encoded.Statement (.cpym f) := Encoded.of_row 4 _ rfl rfl (opcode_append 0x04 f.bits).symm (congrArg (Option.map Instr.cpym) (EE.back 0x04 f))
theorem Encoded.gthr (f : EE) : Encoded.Statement (.gthr f) := Encoded.of_row 5 _ rfl rfl (opcode_append 0x05 f.bits).symm (congrArg (Option.map Instr.gthr) (EE.back 0x05 f))
theorem Encoded.sctr (f : EE) : Encoded.Statement (.sctr f) := Encoded.of_row 6 _ rfl rfl (opcode_append 0x06 f.bits).symm (congrArg (Option.map Instr.sctr) (EE.back 0x06 f))
theorem Encoded.fill (f : EE) : Encoded.Statement (.fill f) := Encoded.of_row 7 _ rfl rfl (opcode_append 0x07 f.bits).symm (congrArg (Option.map Instr.fill) (EE.back 0x07 f))
theorem Encoded.coll (f : EE) : Encoded.Statement (.coll f) := Encoded.of_row 8 _ rfl rfl (opcode_append 0x08 f.bits).symm (congrArg (Option.map Instr.coll) (EE.back 0x08 f))
theorem Encoded.carb (f : EE) : Encoded.Statement (.carb f) := Encoded.of_row 9 _ rfl rfl (opcode_append 0x09 f.bits).symm (congrArg (Option.map Instr.carb) (EE.back 0x09 f))
theorem Encoded.cwait (f : EE) : Encoded.Statement (.cwait f) := Encoded.of_row 10 _ rfl rfl (opcode_append 0x0A f.bits).symm (congrArg (Option.map Instr.cwait) (EE.back 0x0A f))
theorem Encoded.cpoll (f : EE) : Encoded.Statement (.cpoll f) := Encoded.of_row 11 _ rfl rfl (opcode_append 0x0B f.bits).symm (congrArg (Option.map Instr.cpoll) (EE.back 0x0B f))
theorem Encoded.migr (f : EE) : Encoded.Statement (.migr f) := Encoded.of_row 12 _ rfl rfl (opcode_append 0x0C f.bits).symm (congrArg (Option.map Instr.migr) (EE.back 0x0C f))
theorem Encoded.hgsend (f : EE) : Encoded.Statement (.hgsend f) := Encoded.of_row 13 _ rfl rfl (opcode_append 0x10 f.bits).symm (congrArg (Option.map Instr.hgsend) (EE.back 0x10 f))
theorem Encoded.hgsig (f : EE) : Encoded.Statement (.hgsig f) := Encoded.of_row 14 _ rfl rfl (opcode_append 0x11 f.bits).symm (congrArg (Option.map Instr.hgsig) (EE.back 0x11 f))
theorem Encoded.hgwait (f : EE) : Encoded.Statement (.hgwait f) := Encoded.of_row 15 _ rfl rfl (opcode_append 0x12 f.bits).symm (congrArg (Option.map Instr.hgwait) (EE.back 0x12 f))
theorem Encoded.hgtake (f : EE) : Encoded.Statement (.hgtake f) := Encoded.of_row 16 _ rfl rfl (opcode_append 0x13 f.bits).symm (congrArg (Option.map Instr.hgtake) (EE.back 0x13 f))
theorem Encoded.hgqry (f : EE) : Encoded.Statement (.hgqry f) := Encoded.of_row 17 _ rfl rfl (opcode_append 0x14 f.bits).symm (congrArg (Option.map Instr.hgqry) (EE.back 0x14 f))
theorem Encoded.b (f : CB) : Encoded.Statement (.b f) := Encoded.of_row 0 _ rfl rfl (opcode_append 0x00 f.bits).symm (congrArg (Option.map Instr.b) (CB.back 0x00 f))
theorem Encoded.bra (f : CO) : Encoded.Statement (.bra f) := Encoded.of_row 1 _ rfl rfl (opcode_append 0x01 f.bits).symm (congrArg (Option.map Instr.bra) (CO.back 0x01 f))
theorem Encoded.call (f : CO) : Encoded.Statement (.call f) := Encoded.of_row 2 _ rfl rfl (opcode_append 0x02 f.bits).symm (congrArg (Option.map Instr.call) (CO.back 0x02 f))
theorem Encoded.split (f : CS) : Encoded.Statement (.split f) := Encoded.of_row 3 _ rfl rfl (opcode_append 0x04 f.bits).symm (congrArg (Option.map Instr.split) (CS.back 0x04 f))
theorem Encoded.waitj (f : CO) : Encoded.Statement (.waitj f) := Encoded.of_row 4 _ rfl rfl (opcode_append 0x06 f.bits).symm (congrArg (Option.map Instr.waitj) (CO.back 0x06 f))
theorem Encoded.jtab (f : CJ) : Encoded.Statement (.jtab f) := Encoded.of_row 5 _ rfl rfl (opcode_append 0x07 f.bits).symm (congrArg (Option.map Instr.jtab) (CJ.back 0x07 f))
theorem Encoded.token (f : CO) : Encoded.Statement (.token f) := Encoded.of_row 6 _ rfl rfl (opcode_append 0x08 f.bits).symm (congrArg (Option.map Instr.token) (CO.back 0x08 f))
theorem Encoded.bar (f : CR) : Encoded.Statement (.bar f) := Encoded.of_row 7 _ rfl rfl (opcode_append 0x09 f.bits).symm (congrArg (Option.map Instr.bar) (CR.back 0x09 f))
theorem Encoded.qpush (f : CQ) : Encoded.Statement (.qpush f) := Encoded.of_row 8 _ rfl rfl (opcode_append 0x0A f.bits).symm (congrArg (Option.map Instr.qpush) (CQ.back 0x0A f))
theorem Encoded.qpop (f : CQ) : Encoded.Statement (.qpop f) := Encoded.of_row 9 _ rfl rfl (opcode_append 0x0B f.bits).symm (congrArg (Option.map Instr.qpop) (CQ.back 0x0B f))
theorem Encoded.waitb (f : CW) : Encoded.Statement (.waitb f) := Encoded.of_row 10 _ rfl rfl (opcode_append 0x10 f.bits).symm (congrArg (Option.map Instr.waitb) (CW.back 0x10 f))
theorem Encoded.tmode (f : CM) : Encoded.Statement (.tmode f) := Encoded.of_row 11 _ rfl rfl (opcode_append 0x11 f.bits).symm (congrArg (Option.map Instr.tmode) (CM.back 0x11 f))
theorem Encoded.add (f : XR) : Encoded.Statement (.add f) := Encoded.of_row 0 _ rfl rfl (opcode_append 0x00 f.bits).symm (congrArg (Option.map Instr.add) (XR.back 0x00 f))
theorem Encoded.sub (f : XR) : Encoded.Statement (.sub f) := Encoded.of_row 1 _ rfl rfl (opcode_append 0x01 f.bits).symm (congrArg (Option.map Instr.sub) (XR.back 0x01 f))
theorem Encoded.mul (f : XR) : Encoded.Statement (.mul f) := Encoded.of_row 2 _ rfl rfl (opcode_append 0x02 f.bits).symm (congrArg (Option.map Instr.mul) (XR.back 0x02 f))
theorem Encoded.mulh (f : XR) : Encoded.Statement (.mulh f) := Encoded.of_row 3 _ rfl rfl (opcode_append 0x03 f.bits).symm (congrArg (Option.map Instr.mulh) (XR.back 0x03 f))
theorem Encoded.divu (f : XR) : Encoded.Statement (.divu f) := Encoded.of_row 4 _ rfl rfl (opcode_append 0x04 f.bits).symm (congrArg (Option.map Instr.divu) (XR.back 0x04 f))
theorem Encoded.remu (f : XR) : Encoded.Statement (.remu f) := Encoded.of_row 5 _ rfl rfl (opcode_append 0x05 f.bits).symm (congrArg (Option.map Instr.remu) (XR.back 0x05 f))
theorem Encoded.frontAnd (f : XR) : Encoded.Statement (.frontAnd f) := Encoded.of_row 6 _ rfl rfl (opcode_append 0x06 f.bits).symm (congrArg (Option.map Instr.frontAnd) (XR.back 0x06 f))
theorem Encoded.frontOr (f : XR) : Encoded.Statement (.frontOr f) := Encoded.of_row 7 _ rfl rfl (opcode_append 0x07 f.bits).symm (congrArg (Option.map Instr.frontOr) (XR.back 0x07 f))
theorem Encoded.frontXor (f : XR) : Encoded.Statement (.frontXor f) := Encoded.of_row 8 _ rfl rfl (opcode_append 0x08 f.bits).symm (congrArg (Option.map Instr.frontXor) (XR.back 0x08 f))
theorem Encoded.frontShl (f : XR) : Encoded.Statement (.frontShl f) := Encoded.of_row 9 _ rfl rfl (opcode_append 0x09 f.bits).symm (congrArg (Option.map Instr.frontShl) (XR.back 0x09 f))
theorem Encoded.frontShr (f : XR) : Encoded.Statement (.frontShr f) := Encoded.of_row 10 _ rfl rfl (opcode_append 0x0A f.bits).symm (congrArg (Option.map Instr.frontShr) (XR.back 0x0A f))
theorem Encoded.frontSar (f : XR) : Encoded.Statement (.frontSar f) := Encoded.of_row 11 _ rfl rfl (opcode_append 0x0B f.bits).symm (congrArg (Option.map Instr.frontSar) (XR.back 0x0B f))
theorem Encoded.min (f : XR) : Encoded.Statement (.min f) := Encoded.of_row 12 _ rfl rfl (opcode_append 0x0C f.bits).symm (congrArg (Option.map Instr.min) (XR.back 0x0C f))
theorem Encoded.max (f : XR) : Encoded.Statement (.max f) := Encoded.of_row 13 _ rfl rfl (opcode_append 0x0D f.bits).symm (congrArg (Option.map Instr.max) (XR.back 0x0D f))
theorem Encoded.addi (f : XI) : Encoded.Statement (.addi f) := Encoded.of_row 14 _ rfl rfl (opcode_append 0x10 f.bits).symm (congrArg (Option.map Instr.addi) (XI.back 0x10 f))
theorem Encoded.frontAndi (f : XI) : Encoded.Statement (.frontAndi f) := Encoded.of_row 15 _ rfl rfl (opcode_append 0x11 f.bits).symm (congrArg (Option.map Instr.frontAndi) (XI.back 0x11 f))
theorem Encoded.frontOri (f : XI) : Encoded.Statement (.frontOri f) := Encoded.of_row 16 _ rfl rfl (opcode_append 0x12 f.bits).symm (congrArg (Option.map Instr.frontOri) (XI.back 0x12 f))
theorem Encoded.frontShli (f : XI) : Encoded.Statement (.frontShli f) := Encoded.of_row 17 _ rfl rfl (opcode_append 0x13 f.bits).symm (congrArg (Option.map Instr.frontShli) (XI.back 0x13 f))
theorem Encoded.frontShri (f : XI) : Encoded.Statement (.frontShri f) := Encoded.of_row 18 _ rfl rfl (opcode_append 0x14 f.bits).symm (congrArg (Option.map Instr.frontShri) (XI.back 0x14 f))
theorem Encoded.li (f : XL) : Encoded.Statement (.li f) := Encoded.of_row 19 _ rfl rfl (opcode_append 0x15 f.bits).symm (congrArg (Option.map Instr.li) (XL.back 0x15 f))
theorem Encoded.lih (f : XL) : Encoded.Statement (.lih f) := Encoded.of_row 20 _ rfl rfl (opcode_append 0x16 f.bits).symm (congrArg (Option.map Instr.lih) (XL.back 0x16 f))
theorem Encoded.cmp (f : XC) : Encoded.Statement (.cmp f) := Encoded.of_row 21 _ rfl rfl (opcode_append 0x18 f.bits).symm (congrArg (Option.map Instr.cmp) (XC.back 0x18 f))
theorem Encoded.cmpi (f : XCI) : Encoded.Statement (.cmpi f) := Encoded.of_row 22 _ rfl rfl (opcode_append 0x19 f.bits).symm (congrArg (Option.map Instr.cmpi) (XCI.back 0x19 f))
theorem Encoded.fadds (f : XR) : Encoded.Statement (.fadds f) := Encoded.of_row 23 _ rfl rfl (opcode_append 0x20 f.bits).symm (congrArg (Option.map Instr.fadds) (XR.back 0x20 f))
theorem Encoded.fmuls (f : XR) : Encoded.Statement (.fmuls f) := Encoded.of_row 24 _ rfl rfl (opcode_append 0x21 f.bits).symm (congrArg (Option.map Instr.fmuls) (XR.back 0x21 f))
theorem Encoded.ffmas (f : XR) : Encoded.Statement (.ffmas f) := Encoded.of_row 25 _ rfl rfl (opcode_append 0x22 f.bits).symm (congrArg (Option.map Instr.ffmas) (XR.back 0x22 f))
theorem Encoded.fdivs (f : XR) : Encoded.Statement (.fdivs f) := Encoded.of_row 26 _ rfl rfl (opcode_append 0x23 f.bits).symm (congrArg (Option.map Instr.fdivs) (XR.back 0x23 f))
theorem Encoded.fcmps (f : XC) : Encoded.Statement (.fcmps f) := Encoded.of_row 27 _ rfl rfl (opcode_append 0x24 f.bits).symm (congrArg (Option.map Instr.fcmps) (XC.back 0x24 f))
theorem Encoded.fcvts (f : XR) : Encoded.Statement (.fcvts f) := Encoded.of_row 28 _ rfl rfl (opcode_append 0x25 f.bits).symm (congrArg (Option.map Instr.fcvts) (XR.back 0x25 f))
theorem Encoded.ldx (f : XI) : Encoded.Statement (.ldx f) := Encoded.of_row 29 _ rfl rfl (opcode_append 0x30 f.bits).symm (congrArg (Option.map Instr.ldx) (XI.back 0x30 f))
theorem Encoded.stx (f : XI) : Encoded.Statement (.stx f) := Encoded.of_row 30 _ rfl rfl (opcode_append 0x31 f.bits).symm (congrArg (Option.map Instr.stx) (XI.back 0x31 f))
theorem Encoded.atmx (f : XR) : Encoded.Statement (.atmx f) := Encoded.of_row 31 _ rfl rfl (opcode_append 0x32 f.bits).symm (congrArg (Option.map Instr.atmx) (XR.back 0x32 f))
theorem Encoded.bc (f : CB) : Encoded.Statement (.bc f) := Encoded.of_row 32 _ rfl rfl (opcode_append 0x40 f.bits).symm (congrArg (Option.map Instr.bc) (CB.back 0x40 f))
theorem Encoded.j (f : XJ) : Encoded.Statement (.j f) := Encoded.of_row 33 _ rfl rfl (opcode_append 0x41 f.bits).symm (congrArg (Option.map Instr.j) (XJ.back 0x41 f))
theorem Encoded.jal (f : XJ) : Encoded.Statement (.jal f) := Encoded.of_row 34 _ rfl rfl (opcode_append 0x42 f.bits).symm (congrArg (Option.map Instr.jal) (XJ.back 0x42 f))
theorem Encoded.jr (f : XR) : Encoded.Statement (.jr f) := Encoded.of_row 35 _ rfl rfl (opcode_append 0x43 f.bits).symm (congrArg (Option.map Instr.jr) (XR.back 0x43 f))
theorem Encoded.tmset (f : XR) : Encoded.Statement (.tmset f) := Encoded.of_row 36 _ rfl rfl (opcode_append 0x50 f.bits).symm (congrArg (Option.map Instr.tmset) (XR.back 0x50 f))
theorem Encoded.tmadv (f : XR) : Encoded.Statement (.tmadv f) := Encoded.of_row 37 _ rfl rfl (opcode_append 0x51 f.bits).symm (congrArg (Option.map Instr.tmadv) (XR.back 0x51 f))
theorem Encoded.tmget (f : XR) : Encoded.Statement (.tmget f) := Encoded.of_row 38 _ rfl rfl (opcode_append 0x52 f.bits).symm (congrArg (Option.map Instr.tmget) (XR.back 0x52 f))
theorem Encoded.dqpush (f : XR) : Encoded.Statement (.dqpush f) := Encoded.of_row 39 _ rfl rfl (opcode_append 0x58 f.bits).symm (congrArg (Option.map Instr.dqpush) (XR.back 0x58 f))
theorem Encoded.ovfget (f : XR) : Encoded.Statement (.ovfget f) := Encoded.of_row 40 _ rfl rfl (opcode_append 0x60 f.bits).symm (congrArg (Option.map Instr.ovfget) (XR.back 0x60 f))
theorem Encoded.lsupd (f : XR) : Encoded.Statement (.lsupd f) := Encoded.of_row 41 _ rfl rfl (opcode_append 0x61 f.bits).symm (congrArg (Option.map Instr.lsupd) (XR.back 0x61 f))
theorem Encoded.nadd (f : XR) : Encoded.Statement (.nadd f) := Encoded.of_row 42 _ rfl rfl (opcode_append 0x68 f.bits).symm (congrArg (Option.map Instr.nadd) (XR.back 0x68 f))
theorem Encoded.nwdraw (f : XR) : Encoded.Statement (.nwdraw f) := Encoded.of_row 43 _ rfl rfl (opcode_append 0x69 f.bits).symm (congrArg (Option.map Instr.nwdraw) (XR.back 0x69 f))
theorem Encoded.nstat (f : XR) : Encoded.Statement (.nstat f) := Encoded.of_row 44 _ rfl rfl (opcode_append 0x6A f.bits).symm (congrArg (Option.map Instr.nstat) (XR.back 0x6A f))
theorem Encoded.trap (f : YT) : Encoded.Statement (.trap f) := Encoded.of_row 0 _ rfl rfl (opcode_append 0x01 f.bits).symm (congrArg (Option.map Instr.trap) (YT.back 0x01 f))
theorem Encoded.mfsr (f : YY) : Encoded.Statement (.mfsr f) := Encoded.of_row 1 _ rfl rfl (opcode_append 0x03 f.bits).symm (congrArg (Option.map Instr.mfsr) (YY.back 0x03 f))
theorem Encoded.mtsr (f : YY) : Encoded.Statement (.mtsr f) := Encoded.of_row 2 _ rfl rfl (opcode_append 0x04 f.bits).symm (congrArg (Option.map Instr.mtsr) (YY.back 0x04 f))
theorem Encoded.pgmap (f : YY) : Encoded.Statement (.pgmap f) := Encoded.of_row 3 _ rfl rfl (opcode_append 0x05 f.bits).symm (congrArg (Option.map Instr.pgmap) (YY.back 0x05 f))
theorem Encoded.pgunmap (f : YY) : Encoded.Statement (.pgunmap f) := Encoded.of_row 4 _ rfl rfl (opcode_append 0x06 f.bits).symm (congrArg (Option.map Instr.pgunmap) (YY.back 0x06 f))
theorem Encoded.tlbinvPage (f : YY) : Encoded.Statement (.tlbinvPage f) := Encoded.of_row 5 _ rfl rfl (opcode_append 0x07 f.bits).symm (congrArg (Option.map Instr.tlbinvPage) (YY.back 0x07 f))
theorem Encoded.tlbinvGpage (f : YY) : Encoded.Statement (.tlbinvGpage f) := Encoded.of_row 6 _ rfl rfl (opcode_append 0x07 f.bits).symm (congrArg (Option.map Instr.tlbinvGpage) (YY.back 0x07 f))
theorem Encoded.tlbinvS2 (f : YY) : Encoded.Statement (.tlbinvS2 f) := Encoded.of_row 7 _ rfl rfl (opcode_append 0x07 f.bits).symm (congrArg (Option.map Instr.tlbinvS2) (YY.back 0x07 f))
theorem Encoded.tlbinvS2all (f : YY) : Encoded.Statement (.tlbinvS2all f) := Encoded.of_row 8 _ rfl rfl (opcode_append 0x07 f.bits).symm (congrArg (Option.map Instr.tlbinvS2all) (YY.back 0x07 f))
theorem Encoded.spilla (f : YY) : Encoded.Statement (.spilla f) := Encoded.of_row 9 _ rfl rfl (opcode_append 0x08 f.bits).symm (congrArg (Option.map Instr.spilla) (YY.back 0x08 f))
theorem Encoded.filla (f : YY) : Encoded.Statement (.filla f) := Encoded.of_row 10 _ rfl rfl (opcode_append 0x09 f.bits).symm (congrArg (Option.map Instr.filla) (YY.back 0x09 f))
theorem Encoded.savel (f : YY) : Encoded.Statement (.savel f) := Encoded.of_row 11 _ rfl rfl (opcode_append 0x0A f.bits).symm (congrArg (Option.map Instr.savel) (YY.back 0x0A f))
theorem Encoded.loadl (f : YY) : Encoded.Statement (.loadl f) := Encoded.of_row 12 _ rfl rfl (opcode_append 0x0B f.bits).symm (congrArg (Option.map Instr.loadl) (YY.back 0x0B f))
theorem Encoded.waitev (f : YY) : Encoded.Statement (.waitev f) := Encoded.of_row 13 _ rfl rfl (opcode_append 0x0C f.bits).symm (congrArg (Option.map Instr.waitev) (YY.back 0x0C f))
theorem Encoded.pfence : Encoded.Statement .pfence := Encoded.of_row 18 _ rfl rfl (by decide) rfl
theorem Encoded.ret : Encoded.Statement .ret := Encoded.of_row 12 _ rfl rfl (by decide) rfl
theorem Encoded.join : Encoded.Statement .join := Encoded.of_row 13 _ rfl rfl (by decide) rfl
theorem Encoded.xacq : Encoded.Statement .xacq := Encoded.of_row 14 _ rfl rfl (by decide) rfl
theorem Encoded.xrel : Encoded.Statement .xrel := Encoded.of_row 15 _ rfl rfl (by decide) rfl
theorem Encoded.yield : Encoded.Statement .yield := Encoded.of_row 16 _ rfl rfl (by decide) rfl
theorem Encoded.exit : Encoded.Statement .exit := Encoded.of_row 17 _ rfl rfl (by decide) rfl
theorem Encoded.btok : Encoded.Statement .btok := Encoded.of_row 45 _ rfl rfl (by decide) rfl
theorem Encoded.fexit : Encoded.Statement .fexit := Encoded.of_row 46 _ rfl rfl (by decide) rfl
theorem Encoded.nop : Encoded.Statement .nop := Encoded.of_row 14 _ rfl rfl (by decide) rfl
theorem Encoded.eret : Encoded.Statement .eret := Encoded.of_row 15 _ rfl rfl (by decide) rfl
theorem Encoded.tlbinvCtx : Encoded.Statement .tlbinvCtx := Encoded.of_row 16 _ rfl rfl (by decide) rfl
theorem Encoded.tlbinvPart : Encoded.Statement .tlbinvPart := Encoded.of_row 17 _ rfl rfl (by decide) rfl
theorem Encoded.clauseSelect : Encoded.Statement .clauseSelect := Encoded.of_none rfl
theorem Encoded.loadReturn : Encoded.Statement .loadReturn := Encoded.of_none rfl
theorem Encoded.matRetire : Encoded.Statement .matRetire := Encoded.of_none rfl
theorem Encoded.engineCommandStart : Encoded.Statement .engineCommandStart := Encoded.of_none rfl
theorem Encoded.collReadyStart : Encoded.Statement .collReadyStart := Encoded.of_none rfl
theorem Encoded.collExchange : Encoded.Statement .collExchange := Encoded.of_none rfl
theorem Encoded.collStep : Encoded.Statement .collStep := Encoded.of_none rfl
theorem Encoded.peerTimeout : Encoded.Statement .peerTimeout := Encoded.of_none rfl
theorem Encoded.migrDrainDone : Encoded.Statement .migrDrainDone := Encoded.of_none rfl
theorem Encoded.engineCompletion : Encoded.Statement .engineCompletion := Encoded.of_none rfl
theorem Encoded.cwaitPop : Encoded.Statement .cwaitPop := Encoded.of_none rfl
theorem Encoded.qpopDeliver : Encoded.Statement .qpopDeliver := Encoded.of_none rfl
theorem Encoded.queuePushAccept : Encoded.Statement .queuePushAccept := Encoded.of_none rfl
theorem Encoded.btokPop : Encoded.Statement .btokPop := Encoded.of_none rfl
theorem Encoded.xacqGrant : Encoded.Statement .xacqGrant := Encoded.of_none rfl
theorem Encoded.xlockStall : Encoded.Statement .xlockStall := Encoded.of_none rfl
theorem Encoded.barrierRelease : Encoded.Statement .barrierRelease := Encoded.of_none rfl
theorem Encoded.waitbComplete : Encoded.Statement .waitbComplete := Encoded.of_none rfl
theorem Encoded.waitbUnsatisfiable : Encoded.Statement .waitbUnsatisfiable := Encoded.of_none rfl
theorem Encoded.waitjExpiry : Encoded.Statement .waitjExpiry := Encoded.of_none rfl
theorem Encoded.waitevDeliver : Encoded.Statement .waitevDeliver := Encoded.of_none rfl
theorem Encoded.fenceComplete : Encoded.Statement .fenceComplete := Encoded.of_none rfl
theorem Encoded.sealEffect : Encoded.Statement .sealEffect := Encoded.of_none rfl
theorem Encoded.unsealEffect : Encoded.Statement .unsealEffect := Encoded.of_none rfl
theorem Encoded.sweepComplete : Encoded.Statement .sweepComplete := Encoded.of_none rfl
theorem Encoded.gateAnswer : Encoded.Statement .gateAnswer := Encoded.of_none rfl
theorem Encoded.gateTokenRefill : Encoded.Statement .gateTokenRefill := Encoded.of_none rfl
theorem Encoded.hgwaitTimeout : Encoded.Statement .hgwaitTimeout := Encoded.of_none rfl
theorem Encoded.gateTableRetry : Encoded.Statement .gateTableRetry := Encoded.of_none rfl
theorem Encoded.gateRedirect : Encoded.Statement .gateRedirect := Encoded.of_none rfl
theorem Encoded.read : Encoded.Statement .read := Encoded.of_none rfl
theorem Encoded.write : Encoded.Statement .write := Encoded.of_none rfl
theorem Encoded.atomic : Encoded.Statement .atomic := Encoded.of_none rfl
theorem Encoded.gate : Encoded.Statement .gate := Encoded.of_none rfl
theorem Encoded.resp : Encoded.Statement .resp := Encoded.of_none rfl
theorem Encoded.ack : Encoded.Statement .ack := Encoded.of_none rfl
theorem Encoded.retryMap : Encoded.Statement .retryMap := Encoded.of_none rfl
theorem Encoded.flitCrcReplay : Encoded.Statement .flitCrcReplay := Encoded.of_none rfl
theorem Encoded.dieLaneReplace : Encoded.Statement .dieLaneReplace := Encoded.of_none rfl
theorem Encoded.planeDead : Encoded.Statement .planeDead := Encoded.of_none rfl
theorem Encoded.quiesceReport : Encoded.Statement .quiesceReport := Encoded.of_none rfl
theorem Encoded.packageFenceOut : Encoded.Statement .packageFenceOut := Encoded.of_none rfl
theorem Encoded.planeMapCommit : Encoded.Statement .planeMapCommit := Encoded.of_none rfl
theorem Encoded.planeFreeze : Encoded.Statement .planeFreeze := Encoded.of_none rfl
theorem Encoded.planeShadowWrite : Encoded.Statement .planeShadowWrite := Encoded.of_none rfl
theorem Encoded.backgroundScrub : Encoded.Statement .backgroundScrub := Encoded.of_none rfl
theorem Encoded.launchQueueTail : Encoded.Statement .launchQueueTail := Encoded.of_none rfl
theorem Encoded.graphAccept : Encoded.Statement .graphAccept := Encoded.of_none rfl
theorem Encoded.nodeReserve : Encoded.Statement .nodeReserve := Encoded.of_none rfl
theorem Encoded.blockDispatch : Encoded.Statement .blockDispatch := Encoded.of_none rfl
theorem Encoded.blockRetire : Encoded.Statement .blockRetire := Encoded.of_none rfl
theorem Encoded.sliceExpiry : Encoded.Statement .sliceExpiry := Encoded.of_none rfl
theorem Encoded.graceHalt : Encoded.Statement .graceHalt := Encoded.of_none rfl
theorem Encoded.kill : Encoded.Statement .kill := Encoded.of_none rfl
theorem Encoded.blockSave : Encoded.Statement .blockSave := Encoded.of_none rfl
theorem Encoded.blockResume : Encoded.Statement .blockResume := Encoded.of_none rfl
theorem Encoded.unitLoss : Encoded.Statement .unitLoss := Encoded.of_none rfl
theorem Encoded.layoutCommit : Encoded.Statement .layoutCommit := Encoded.of_none rfl
theorem Encoded.layoutTick : Encoded.Statement .layoutTick := Encoded.of_none rfl
theorem Encoded.scrubComplete : Encoded.Statement .scrubComplete := Encoded.of_none rfl
theorem Encoded.errclr : Encoded.Statement .errclr := Encoded.of_none rfl
theorem Encoded.frameRelease : Encoded.Statement .frameRelease := Encoded.of_none rfl
theorem Encoded.frameReleaseDone : Encoded.Statement .frameReleaseDone := Encoded.of_none rfl
theorem Encoded.s2respRelease : Encoded.Statement .s2respRelease := Encoded.of_none rfl
theorem Encoded.s2respRefuse : Encoded.Statement .s2respRefuse := Encoded.of_none rfl
theorem Encoded.placeWrite : Encoded.Statement .placeWrite := Encoded.of_none rfl
theorem Encoded.registerWrite : Encoded.Statement .registerWrite := Encoded.of_none rfl
theorem Encoded.priDoorbell : Encoded.Statement .priDoorbell := Encoded.of_none rfl
theorem Encoded.pageRequestResponse : Encoded.Statement .pageRequestResponse := Encoded.of_none rfl
theorem Encoded.atsTranslationCompletion : Encoded.Statement .atsTranslationCompletion := Encoded.of_none rfl
theorem Encoded.atsInvalidationRequest : Encoded.Statement .atsInvalidationRequest := Encoded.of_none rfl
theorem Encoded.inboundWrite : Encoded.Statement .inboundWrite := Encoded.of_none rfl
theorem Encoded.hostCompletion : Encoded.Statement .hostCompletion := Encoded.of_none rfl
theorem Encoded.completionTimeout : Encoded.Statement .completionTimeout := Encoded.of_none rfl
theorem Encoded.linkDown : Encoded.Statement .linkDown := Encoded.of_none rfl
theorem Encoded.functionReset : Encoded.Statement .functionReset := Encoded.of_none rfl
theorem Encoded.coldReset : Encoded.Statement .coldReset := Encoded.of_none rfl
theorem Encoded.powerOn : Encoded.Statement .powerOn := Encoded.of_none rfl
theorem Encoded.getVersion : Encoded.Statement .getVersion := Encoded.of_none rfl
theorem Encoded.getCapabilities : Encoded.Statement .getCapabilities := Encoded.of_none rfl
theorem Encoded.negotiateAlgorithms : Encoded.Statement .negotiateAlgorithms := Encoded.of_none rfl
theorem Encoded.getDigests : Encoded.Statement .getDigests := Encoded.of_none rfl
theorem Encoded.getCertificate : Encoded.Statement .getCertificate := Encoded.of_none rfl
theorem Encoded.challenge : Encoded.Statement .challenge := Encoded.of_none rfl
theorem Encoded.getMeasurements : Encoded.Statement .getMeasurements := Encoded.of_none rfl
theorem Encoded.throttle : Encoded.Statement .throttle := Encoded.of_none rfl
theorem Encoded.criticalTemperature : Encoded.Statement .criticalTemperature := Encoded.of_none rfl
theorem Encoded.roceSend : Encoded.Statement .roceSend := Encoded.of_none rfl
theorem Encoded.roceRdmaWrite : Encoded.Statement .roceRdmaWrite := Encoded.of_none rfl
theorem Encoded.roceRdmaWriteImm : Encoded.Statement .roceRdmaWriteImm := Encoded.of_none rfl
theorem Encoded.roceRdmaRead : Encoded.Statement .roceRdmaRead := Encoded.of_none rfl
theorem Encoded.roceUnsupported : Encoded.Statement .roceUnsupported := Encoded.of_none rfl
theorem Encoded.roceRetransmitTimeout : Encoded.Statement .roceRetransmitTimeout := Encoded.of_none rfl
theorem Encoded.pfcPause : Encoded.Statement .pfcPause := Encoded.of_none rfl
theorem Encoded.ecnMark : Encoded.Statement .ecnMark := Encoded.of_none rfl
theorem Encoded.ethernetLinkFail : Encoded.Statement .ethernetLinkFail := Encoded.of_none rfl
theorem Encoded.heldSlotAnswer : Encoded.Statement .heldSlotAnswer := Encoded.of_none rfl
theorem Encoded.gateClose : Encoded.Statement .gateClose := Encoded.of_none rfl
theorem Encoded.hPreemptionRequest : Encoded.Statement .hPreemptionRequest := Encoded.of_none rfl
theorem Encoded.peerToPeerRequest : Encoded.Statement .peerToPeerRequest := Encoded.of_none rfl

end Sys2Proof.Laws
end

