-- ==== Sys2Proof/Laws/State.lean ====
section
/-! SUPPORT. What each update of the state leaves in each field: one lemma per field and update, each true by rfl. -/

namespace Sys2Proof.Machine

variable (s : State)

@[simp] theorem State.updPkg_agenda (p : Nat) (f : Pkg → Pkg) : (s.updPkg p f).agenda = s.agenda := rfl
@[simp] theorem State.updPkg_subject (p : Nat) (f : Pkg → Pkg) : (s.updPkg p f).subject = s.subject := rfl
@[simp] theorem State.updPkg_now (p : Nat) (f : Pkg → Pkg) : (s.updPkg p f).now = s.now := rfl
@[simp] theorem State.updPkg_frac (p : Nat) (f : Pkg → Pkg) : (s.updPkg p f).frac = s.frac := rfl
@[simp] theorem State.updPkg_freeCtr (p : Nat) (f : Pkg → Pkg) : (s.updPkg p f).freeCtr = s.freeCtr := rfl
@[simp] theorem State.updPkg_nextId (p : Nat) (f : Pkg → Pkg) : (s.updPkg p f).nextId = s.nextId := rfl
@[simp] theorem State.updPkg_mem (p : Nat) (f : Pkg → Pkg) : (s.updPkg p f).mem = s.mem := rfl
@[simp] theorem State.updPkg_hostMem (p : Nat) (f : Pkg → Pkg) : (s.updPkg p f).hostMem = s.hostMem := rfl
@[simp] theorem State.updPkg_bad (p : Nat) (f : Pkg → Pkg) : (s.updPkg p f).bad = s.bad := rfl
@[simp] theorem State.updPkg_views (p : Nat) (f : Pkg → Pkg) : (s.updPkg p f).views = s.views := rfl
@[simp] theorem State.updPkg_pkgs (p : Nat) (f : Pkg → Pkg) : (s.updPkg p f).pkgs = Tab.modify s.pkgs p f := rfl
@[simp] theorem State.updPkg_parts (p : Nat) (f : Pkg → Pkg) : (s.updPkg p f).parts = s.parts := rfl
@[simp] theorem State.updPkg_cores (p : Nat) (f : Pkg → Pkg) : (s.updPkg p f).cores = s.cores := rfl
@[simp] theorem State.updPkg_blocks (p : Nat) (f : Pkg → Pkg) : (s.updPkg p f).blocks = s.blocks := rfl
@[simp] theorem State.updPkg_quires (p : Nat) (f : Pkg → Pkg) : (s.updPkg p f).quires = s.quires := rfl
@[simp] theorem State.updPkg_ops (p : Nat) (f : Pkg → Pkg) : (s.updPkg p f).ops = s.ops := rfl
@[simp] theorem State.updPkg_msgs (p : Nat) (f : Pkg → Pkg) : (s.updPkg p f).msgs = s.msgs := rfl
@[simp] theorem State.updPkg_held (p : Nat) (f : Pkg → Pkg) : (s.updPkg p f).held = s.held := rfl
@[simp] theorem State.updPkg_sweeps (p : Nat) (f : Pkg → Pkg) : (s.updPkg p f).sweeps = s.sweeps := rfl
@[simp] theorem State.updPkg_engs (p : Nat) (f : Pkg → Pkg) : (s.updPkg p f).engs = s.engs := rfl
@[simp] theorem State.updPkg_gates (p : Nat) (f : Pkg → Pkg) : (s.updPkg p f).gates = s.gates := rfl
@[simp] theorem State.updPkg_preempts (p : Nat) (f : Pkg → Pkg) : (s.updPkg p f).preempts = s.preempts := rfl
@[simp] theorem State.updPkg_told (p : Nat) (f : Pkg → Pkg) : (s.updPkg p f).told = s.told := rfl
@[simp] theorem State.updPkg_lag (p : Nat) (f : Pkg → Pkg) : (s.updPkg p f).lag = s.lag := rfl
@[simp] theorem State.updPkg_barred (p : Nat) (f : Pkg → Pkg) : (s.updPkg p f).barred = s.barred := rfl

@[simp] theorem State.updCore_agenda (g : Nat) (f : Core → Core) : (s.updCore g f).agenda = s.agenda := rfl
@[simp] theorem State.updCore_subject (g : Nat) (f : Core → Core) : (s.updCore g f).subject = s.subject := rfl
@[simp] theorem State.updCore_now (g : Nat) (f : Core → Core) : (s.updCore g f).now = s.now := rfl
@[simp] theorem State.updCore_frac (g : Nat) (f : Core → Core) : (s.updCore g f).frac = s.frac := rfl
@[simp] theorem State.updCore_freeCtr (g : Nat) (f : Core → Core) : (s.updCore g f).freeCtr = s.freeCtr := rfl
@[simp] theorem State.updCore_nextId (g : Nat) (f : Core → Core) : (s.updCore g f).nextId = s.nextId := rfl
@[simp] theorem State.updCore_mem (g : Nat) (f : Core → Core) : (s.updCore g f).mem = s.mem := rfl
@[simp] theorem State.updCore_hostMem (g : Nat) (f : Core → Core) : (s.updCore g f).hostMem = s.hostMem := rfl
@[simp] theorem State.updCore_bad (g : Nat) (f : Core → Core) : (s.updCore g f).bad = s.bad := rfl
@[simp] theorem State.updCore_views (g : Nat) (f : Core → Core) : (s.updCore g f).views = s.views := rfl
@[simp] theorem State.updCore_pkgs (g : Nat) (f : Core → Core) : (s.updCore g f).pkgs = s.pkgs := rfl
@[simp] theorem State.updCore_parts (g : Nat) (f : Core → Core) : (s.updCore g f).parts = s.parts := rfl
@[simp] theorem State.updCore_cores (g : Nat) (f : Core → Core) : (s.updCore g f).cores = Tab.set s.cores g (f (s.coreOf g)) := rfl
@[simp] theorem State.updCore_blocks (g : Nat) (f : Core → Core) : (s.updCore g f).blocks = s.blocks := rfl
@[simp] theorem State.updCore_quires (g : Nat) (f : Core → Core) : (s.updCore g f).quires = s.quires := rfl
@[simp] theorem State.updCore_ops (g : Nat) (f : Core → Core) : (s.updCore g f).ops = s.ops := rfl
@[simp] theorem State.updCore_msgs (g : Nat) (f : Core → Core) : (s.updCore g f).msgs = s.msgs := rfl
@[simp] theorem State.updCore_held (g : Nat) (f : Core → Core) : (s.updCore g f).held = s.held := rfl
@[simp] theorem State.updCore_sweeps (g : Nat) (f : Core → Core) : (s.updCore g f).sweeps = s.sweeps := rfl
@[simp] theorem State.updCore_engs (g : Nat) (f : Core → Core) : (s.updCore g f).engs = s.engs := rfl
@[simp] theorem State.updCore_gates (g : Nat) (f : Core → Core) : (s.updCore g f).gates = s.gates := rfl
@[simp] theorem State.updCore_preempts (g : Nat) (f : Core → Core) : (s.updCore g f).preempts = s.preempts := rfl
@[simp] theorem State.updCore_told (g : Nat) (f : Core → Core) : (s.updCore g f).told = s.told := rfl
@[simp] theorem State.updCore_lag (g : Nat) (f : Core → Core) : (s.updCore g f).lag = s.lag := rfl
@[simp] theorem State.updCore_barred (g : Nat) (f : Core → Core) : (s.updCore g f).barred = s.barred := rfl

@[simp] theorem State.updPart_agenda (n : Nat) (f : Part → Part) : (s.updPart n f).agenda = s.agenda := rfl
@[simp] theorem State.updPart_subject (n : Nat) (f : Part → Part) : (s.updPart n f).subject = s.subject := rfl
@[simp] theorem State.updPart_now (n : Nat) (f : Part → Part) : (s.updPart n f).now = s.now := rfl
@[simp] theorem State.updPart_frac (n : Nat) (f : Part → Part) : (s.updPart n f).frac = s.frac := rfl
@[simp] theorem State.updPart_freeCtr (n : Nat) (f : Part → Part) : (s.updPart n f).freeCtr = s.freeCtr := rfl
@[simp] theorem State.updPart_nextId (n : Nat) (f : Part → Part) : (s.updPart n f).nextId = s.nextId := rfl
@[simp] theorem State.updPart_mem (n : Nat) (f : Part → Part) : (s.updPart n f).mem = s.mem := rfl
@[simp] theorem State.updPart_hostMem (n : Nat) (f : Part → Part) : (s.updPart n f).hostMem = s.hostMem := rfl
@[simp] theorem State.updPart_bad (n : Nat) (f : Part → Part) : (s.updPart n f).bad = s.bad := rfl
@[simp] theorem State.updPart_views (n : Nat) (f : Part → Part) : (s.updPart n f).views = s.views := rfl
@[simp] theorem State.updPart_pkgs (n : Nat) (f : Part → Part) : (s.updPart n f).pkgs = s.pkgs := rfl
@[simp] theorem State.updPart_parts (n : Nat) (f : Part → Part) : (s.updPart n f).parts = Tab.set s.parts n (f (s.partOf n)) := rfl
@[simp] theorem State.updPart_cores (n : Nat) (f : Part → Part) : (s.updPart n f).cores = s.cores := rfl
@[simp] theorem State.updPart_blocks (n : Nat) (f : Part → Part) : (s.updPart n f).blocks = s.blocks := rfl
@[simp] theorem State.updPart_quires (n : Nat) (f : Part → Part) : (s.updPart n f).quires = s.quires := rfl
@[simp] theorem State.updPart_ops (n : Nat) (f : Part → Part) : (s.updPart n f).ops = s.ops := rfl
@[simp] theorem State.updPart_msgs (n : Nat) (f : Part → Part) : (s.updPart n f).msgs = s.msgs := rfl
@[simp] theorem State.updPart_held (n : Nat) (f : Part → Part) : (s.updPart n f).held = s.held := rfl
@[simp] theorem State.updPart_sweeps (n : Nat) (f : Part → Part) : (s.updPart n f).sweeps = s.sweeps := rfl
@[simp] theorem State.updPart_engs (n : Nat) (f : Part → Part) : (s.updPart n f).engs = s.engs := rfl
@[simp] theorem State.updPart_gates (n : Nat) (f : Part → Part) : (s.updPart n f).gates = s.gates := rfl
@[simp] theorem State.updPart_preempts (n : Nat) (f : Part → Part) : (s.updPart n f).preempts = s.preempts := rfl
@[simp] theorem State.updPart_told (n : Nat) (f : Part → Part) : (s.updPart n f).told = s.told := rfl
@[simp] theorem State.updPart_lag (n : Nat) (f : Part → Part) : (s.updPart n f).lag = s.lag := rfl
@[simp] theorem State.updPart_barred (n : Nat) (f : Part → Part) : (s.updPart n f).barred = s.barred := rfl

@[simp] theorem State.updBlock_agenda (b : Nat) (f : Block → Block) : (s.updBlock b f).agenda = s.agenda := rfl
@[simp] theorem State.updBlock_subject (b : Nat) (f : Block → Block) : (s.updBlock b f).subject = s.subject := rfl
@[simp] theorem State.updBlock_now (b : Nat) (f : Block → Block) : (s.updBlock b f).now = s.now := rfl
@[simp] theorem State.updBlock_frac (b : Nat) (f : Block → Block) : (s.updBlock b f).frac = s.frac := rfl
@[simp] theorem State.updBlock_freeCtr (b : Nat) (f : Block → Block) : (s.updBlock b f).freeCtr = s.freeCtr := rfl
@[simp] theorem State.updBlock_nextId (b : Nat) (f : Block → Block) : (s.updBlock b f).nextId = s.nextId := rfl
@[simp] theorem State.updBlock_mem (b : Nat) (f : Block → Block) : (s.updBlock b f).mem = s.mem := rfl
@[simp] theorem State.updBlock_hostMem (b : Nat) (f : Block → Block) : (s.updBlock b f).hostMem = s.hostMem := rfl
@[simp] theorem State.updBlock_bad (b : Nat) (f : Block → Block) : (s.updBlock b f).bad = s.bad := rfl
@[simp] theorem State.updBlock_views (b : Nat) (f : Block → Block) : (s.updBlock b f).views = s.views := rfl
@[simp] theorem State.updBlock_pkgs (b : Nat) (f : Block → Block) : (s.updBlock b f).pkgs = s.pkgs := rfl
@[simp] theorem State.updBlock_parts (b : Nat) (f : Block → Block) : (s.updBlock b f).parts = s.parts := rfl
@[simp] theorem State.updBlock_cores (b : Nat) (f : Block → Block) : (s.updBlock b f).cores = s.cores := rfl
@[simp] theorem State.updBlock_blocks (b : Nat) (f : Block → Block) : (s.updBlock b f).blocks = Tab.modify s.blocks b f := rfl
@[simp] theorem State.updBlock_quires (b : Nat) (f : Block → Block) : (s.updBlock b f).quires = s.quires := rfl
@[simp] theorem State.updBlock_ops (b : Nat) (f : Block → Block) : (s.updBlock b f).ops = s.ops := rfl
@[simp] theorem State.updBlock_msgs (b : Nat) (f : Block → Block) : (s.updBlock b f).msgs = s.msgs := rfl
@[simp] theorem State.updBlock_held (b : Nat) (f : Block → Block) : (s.updBlock b f).held = s.held := rfl
@[simp] theorem State.updBlock_sweeps (b : Nat) (f : Block → Block) : (s.updBlock b f).sweeps = s.sweeps := rfl
@[simp] theorem State.updBlock_engs (b : Nat) (f : Block → Block) : (s.updBlock b f).engs = s.engs := rfl
@[simp] theorem State.updBlock_gates (b : Nat) (f : Block → Block) : (s.updBlock b f).gates = s.gates := rfl
@[simp] theorem State.updBlock_preempts (b : Nat) (f : Block → Block) : (s.updBlock b f).preempts = s.preempts := rfl
@[simp] theorem State.updBlock_told (b : Nat) (f : Block → Block) : (s.updBlock b f).told = s.told := rfl
@[simp] theorem State.updBlock_lag (b : Nat) (f : Block → Block) : (s.updBlock b f).lag = s.lag := rfl
@[simp] theorem State.updBlock_barred (b : Nat) (f : Block → Block) : (s.updBlock b f).barred = s.barred := rfl

@[simp] theorem State.updQuire_agenda (k : Nat) (f : Quire → Quire) : (s.updQuire k f).agenda = s.agenda := rfl
@[simp] theorem State.updQuire_subject (k : Nat) (f : Quire → Quire) : (s.updQuire k f).subject = s.subject := rfl
@[simp] theorem State.updQuire_now (k : Nat) (f : Quire → Quire) : (s.updQuire k f).now = s.now := rfl
@[simp] theorem State.updQuire_frac (k : Nat) (f : Quire → Quire) : (s.updQuire k f).frac = s.frac := rfl
@[simp] theorem State.updQuire_freeCtr (k : Nat) (f : Quire → Quire) : (s.updQuire k f).freeCtr = s.freeCtr := rfl
@[simp] theorem State.updQuire_nextId (k : Nat) (f : Quire → Quire) : (s.updQuire k f).nextId = s.nextId := rfl
@[simp] theorem State.updQuire_mem (k : Nat) (f : Quire → Quire) : (s.updQuire k f).mem = s.mem := rfl
@[simp] theorem State.updQuire_hostMem (k : Nat) (f : Quire → Quire) : (s.updQuire k f).hostMem = s.hostMem := rfl
@[simp] theorem State.updQuire_bad (k : Nat) (f : Quire → Quire) : (s.updQuire k f).bad = s.bad := rfl
@[simp] theorem State.updQuire_views (k : Nat) (f : Quire → Quire) : (s.updQuire k f).views = s.views := rfl
@[simp] theorem State.updQuire_pkgs (k : Nat) (f : Quire → Quire) : (s.updQuire k f).pkgs = s.pkgs := rfl
@[simp] theorem State.updQuire_parts (k : Nat) (f : Quire → Quire) : (s.updQuire k f).parts = s.parts := rfl
@[simp] theorem State.updQuire_cores (k : Nat) (f : Quire → Quire) : (s.updQuire k f).cores = s.cores := rfl
@[simp] theorem State.updQuire_blocks (k : Nat) (f : Quire → Quire) : (s.updQuire k f).blocks = s.blocks := rfl
@[simp] theorem State.updQuire_quires (k : Nat) (f : Quire → Quire) : (s.updQuire k f).quires = Tab.modify s.quires k f := rfl
@[simp] theorem State.updQuire_ops (k : Nat) (f : Quire → Quire) : (s.updQuire k f).ops = s.ops := rfl
@[simp] theorem State.updQuire_msgs (k : Nat) (f : Quire → Quire) : (s.updQuire k f).msgs = s.msgs := rfl
@[simp] theorem State.updQuire_held (k : Nat) (f : Quire → Quire) : (s.updQuire k f).held = s.held := rfl
@[simp] theorem State.updQuire_sweeps (k : Nat) (f : Quire → Quire) : (s.updQuire k f).sweeps = s.sweeps := rfl
@[simp] theorem State.updQuire_engs (k : Nat) (f : Quire → Quire) : (s.updQuire k f).engs = s.engs := rfl
@[simp] theorem State.updQuire_gates (k : Nat) (f : Quire → Quire) : (s.updQuire k f).gates = s.gates := rfl
@[simp] theorem State.updQuire_preempts (k : Nat) (f : Quire → Quire) : (s.updQuire k f).preempts = s.preempts := rfl
@[simp] theorem State.updQuire_told (k : Nat) (f : Quire → Quire) : (s.updQuire k f).told = s.told := rfl
@[simp] theorem State.updQuire_lag (k : Nat) (f : Quire → Quire) : (s.updQuire k f).lag = s.lag := rfl
@[simp] theorem State.updQuire_barred (k : Nat) (f : Quire → Quire) : (s.updQuire k f).barred = s.barred := rfl

@[simp] theorem State.tell_agenda (e : HEvent) : (s.tell e).agenda = s.agenda := rfl
@[simp] theorem State.tell_subject (e : HEvent) : (s.tell e).subject = s.subject := rfl
@[simp] theorem State.tell_now (e : HEvent) : (s.tell e).now = s.now := rfl
@[simp] theorem State.tell_frac (e : HEvent) : (s.tell e).frac = s.frac := rfl
@[simp] theorem State.tell_freeCtr (e : HEvent) : (s.tell e).freeCtr = s.freeCtr := rfl
@[simp] theorem State.tell_nextId (e : HEvent) : (s.tell e).nextId = s.nextId := rfl
@[simp] theorem State.tell_mem (e : HEvent) : (s.tell e).mem = s.mem := rfl
@[simp] theorem State.tell_hostMem (e : HEvent) : (s.tell e).hostMem = s.hostMem := rfl
@[simp] theorem State.tell_bad (e : HEvent) : (s.tell e).bad = s.bad := rfl
@[simp] theorem State.tell_views (e : HEvent) : (s.tell e).views = s.views := rfl
@[simp] theorem State.tell_pkgs (e : HEvent) : (s.tell e).pkgs = s.pkgs := rfl
@[simp] theorem State.tell_parts (e : HEvent) : (s.tell e).parts = s.parts := rfl
@[simp] theorem State.tell_cores (e : HEvent) : (s.tell e).cores = s.cores := rfl
@[simp] theorem State.tell_blocks (e : HEvent) : (s.tell e).blocks = s.blocks := rfl
@[simp] theorem State.tell_quires (e : HEvent) : (s.tell e).quires = s.quires := rfl
@[simp] theorem State.tell_ops (e : HEvent) : (s.tell e).ops = s.ops := rfl
@[simp] theorem State.tell_msgs (e : HEvent) : (s.tell e).msgs = s.msgs := rfl
@[simp] theorem State.tell_held (e : HEvent) : (s.tell e).held = s.held := rfl
@[simp] theorem State.tell_sweeps (e : HEvent) : (s.tell e).sweeps = s.sweeps := rfl
@[simp] theorem State.tell_engs (e : HEvent) : (s.tell e).engs = s.engs := rfl
@[simp] theorem State.tell_gates (e : HEvent) : (s.tell e).gates = s.gates := rfl
@[simp] theorem State.tell_preempts (e : HEvent) : (s.tell e).preempts = s.preempts := rfl
@[simp] theorem State.tell_told (e : HEvent) : (s.tell e).told = s.told ++ [e] := rfl
@[simp] theorem State.tell_lag (e : HEvent) : (s.tell e).lag = s.lag := rfl
@[simp] theorem State.tell_barred (e : HEvent) : (s.tell e).barred = s.barred := rfl

/-! updStrand is one of updBlock and updQuire: it keeps every field but those two. -/

@[simp] theorem updStrand_agenda (u : UnitId) (f : Strand → Strand) : (updStrand s u f).agenda = s.agenda := by cases u <;> rfl
@[simp] theorem updStrand_subject (u : UnitId) (f : Strand → Strand) : (updStrand s u f).subject = s.subject := by cases u <;> rfl
@[simp] theorem updStrand_now (u : UnitId) (f : Strand → Strand) : (updStrand s u f).now = s.now := by cases u <;> rfl
@[simp] theorem updStrand_frac (u : UnitId) (f : Strand → Strand) : (updStrand s u f).frac = s.frac := by cases u <;> rfl
@[simp] theorem updStrand_freeCtr (u : UnitId) (f : Strand → Strand) : (updStrand s u f).freeCtr = s.freeCtr := by cases u <;> rfl
@[simp] theorem updStrand_nextId (u : UnitId) (f : Strand → Strand) : (updStrand s u f).nextId = s.nextId := by cases u <;> rfl
@[simp] theorem updStrand_mem (u : UnitId) (f : Strand → Strand) : (updStrand s u f).mem = s.mem := by cases u <;> rfl
@[simp] theorem updStrand_hostMem (u : UnitId) (f : Strand → Strand) : (updStrand s u f).hostMem = s.hostMem := by cases u <;> rfl
@[simp] theorem updStrand_bad (u : UnitId) (f : Strand → Strand) : (updStrand s u f).bad = s.bad := by cases u <;> rfl
@[simp] theorem updStrand_views (u : UnitId) (f : Strand → Strand) : (updStrand s u f).views = s.views := by cases u <;> rfl
@[simp] theorem updStrand_pkgs (u : UnitId) (f : Strand → Strand) : (updStrand s u f).pkgs = s.pkgs := by cases u <;> rfl
@[simp] theorem updStrand_parts (u : UnitId) (f : Strand → Strand) : (updStrand s u f).parts = s.parts := by cases u <;> rfl
@[simp] theorem updStrand_cores (u : UnitId) (f : Strand → Strand) : (updStrand s u f).cores = s.cores := by cases u <;> rfl
@[simp] theorem updStrand_ops (u : UnitId) (f : Strand → Strand) : (updStrand s u f).ops = s.ops := by cases u <;> rfl
@[simp] theorem updStrand_msgs (u : UnitId) (f : Strand → Strand) : (updStrand s u f).msgs = s.msgs := by cases u <;> rfl
@[simp] theorem updStrand_held (u : UnitId) (f : Strand → Strand) : (updStrand s u f).held = s.held := by cases u <;> rfl
@[simp] theorem updStrand_sweeps (u : UnitId) (f : Strand → Strand) : (updStrand s u f).sweeps = s.sweeps := by cases u <;> rfl
@[simp] theorem updStrand_engs (u : UnitId) (f : Strand → Strand) : (updStrand s u f).engs = s.engs := by cases u <;> rfl
@[simp] theorem updStrand_gates (u : UnitId) (f : Strand → Strand) : (updStrand s u f).gates = s.gates := by cases u <;> rfl
@[simp] theorem updStrand_preempts (u : UnitId) (f : Strand → Strand) : (updStrand s u f).preempts = s.preempts := by cases u <;> rfl
@[simp] theorem updStrand_told (u : UnitId) (f : Strand → Strand) : (updStrand s u f).told = s.told := by cases u <;> rfl
@[simp] theorem updStrand_lag (u : UnitId) (f : Strand → Strand) : (updStrand s u f).lag = s.lag := by cases u <;> rfl
@[simp] theorem updStrand_barred (u : UnitId) (f : Strand → Strand) : (updStrand s u f).barred = s.barred := by cases u <;> rfl
@[simp] theorem updStrand_front_quires (b : Nat) (f : Strand → Strand) : (updStrand s (.front b) f).quires = s.quires := rfl
@[simp] theorem updStrand_slot_blocks (b q sl : Nat) (f : Strand → Strand) : (updStrand s (.slot b q sl) f).blocks = s.blocks := rfl

end Sys2Proof.Machine
end

