-- ==== Sys2Proof/Tests/Slice0.lean ====
section
/-! SUPPORT. The model's own tests: ill-formed terms that WellFormed refuses, words written out from the spec's
encodings, results worked out by hand from the rules, and for every statement a state and operands that meet its
hypotheses. Each test is about one step at most. -/

namespace Sys2Proof.Tests

open Sys2Proof.Machine Sys2Proof.Safety

set_option Elab.async false

/-! ## The states of the tests -/

/-- An issuer for a step that finds none. -/
def nobody : Issuer :=
  { u := .front 0, b := 0, q := 0, sl := 0, fe := true, blk := {}, qr := {}, st := {}, mask := 0, word := 0 }

/-- The unit of the step as the issuer of i. -/
def who (s : State) (i : Instr) : Issuer := (issuerOf s s.subject.unit (wordOf i)).getD nobody

/-- A converged quire of 96 lanes in single-lane mode at level U, its block on core 0, one word to issue. -/
def qs (Q : Quire → Quire := id) (B : Block → Block := id) : State :=
  ((bench State.reset (wordOf .nop)).updQuire 0 Q).updBlock 0 B

/-- The same quire in ternion mode. -/
def qt (Q : Quire → Quire := id) (B : Block → Block := id) : State := qs (fun x => Q { x with ter := true }) B

/-- A front-end context at level U, one word to issue; the block's quire stands too. -/
def fs (F : Front → Front := id) (B : Block → Block := id) : State :=
  (bench State.reset 0x520000C3).updBlock 0 fun b => B { b with front := F b.front }

/-- The state with level S for the unit. -/
def atS (s : State) : State := updStrand s s.subject.unit fun c => { c with level := .s }

/-- The unit waits. -/
def waits (s : State) (w : Wait) : State := updStrand s s.subject.unit fun c => { c with wait := w }

/-- The state of a next outcome. -/
def ran (s : State) (i : Instr) : State :=
  match exec i s with
  | .next t => t
  | _ => s

/-- The state after one step. -/
def stepped (s : State) : State :=
  match step s with
  | .next t => t
  | _ => s

/-- Vector register r of quire 0, lane l. -/
def lane (s : State) (r l : Nat) : Word := (Tab.get {} (Tab.get {} s.quires 0).v r).at l

/-- A quire whose registers v1 and v2 hold a and b in every lane, and v3 holds d. -/
def holds (a b d : Word) (Q : Quire) : Quire :=
  { Q with v := [(1, { lanes := List.replicate 96 a }), (2, { lanes := List.replicate 96 b }),
                 (3, { lanes := List.replicate 96 d })] }

def vv : VV := { m := 0, eb := 0, vb := 2, ea := 0, va := 1, vd := 3 }
def vv1 : VV := { m := 0, eb := 0, vb := 0, ea := 0, va := 1, vd := 3 }
def vv64 : VV := { m := 0, eb := 0, vb := 4, ea := 0, va := 2, vd := 6 }
def vv641 : VV := { m := 0, eb := 0, vb := 0, ea := 0, va := 2, vd := 6 }

theorem test_benches : qs.subject.unit = .slot 0 0 0 ∧ fs.subject.unit = .front 0 := by decide +kernel

/-! ## Ill-formed terms -/

/-- A field that the instruction does not use is 0 (R35 to R43). -/
theorem test_wf_unused_fields :
    (Instr.iabs { vv1 with vb := 1 }).wellFormed = false ∧ (Instr.iabs { vv1 with m := 1 }).wellFormed = false ∧
    (Instr.mov { vv1 with eb := 1 }).wellFormed = false ∧ (Instr.iadd { vv with m := 1, vb := 32 }).wellFormed = false ∧
    (Instr.iadd { vv with m := 1, eb := 1 }).wellFormed = false ∧ (Instr.laneid { vv1 with va := 1 }).wellFormed = false ∧
    (Instr.s2v { vv with m := 0, va := 0 }).wellFormed = false ∧ (Instr.v2s { vv1 with vd := 32 }).wellFormed = false ∧
    (Instr.sel { k := 1, x := 1, ea := 0, va := 1, vd := 3 }).wellFormed = false ∧
    (Instr.kand { ka := 1, kb := 2, kd := 3, sd := 1 }).wellFormed = false ∧
    (Instr.knot { ka := 1, kb := 2, kd := 3, sd := 0 }).wellFormed = false ∧
    (Instr.kpop { ka := 1, kb := 2, kd := 3, sd := 0 }).wellFormed = false ∧
    (Instr.kany { ka := 1, kb := 2, kd := 0, sd := 8 }).wellFormed = false ∧
    (Instr.sadd { cond := 1, sb := 1, sa := 2, sd := 3 }).wellFormed = false ∧
    (Instr.smov { cond := 0, sb := 1, sa := 2, sd := 3 }).wellFormed = false ∧
    (Instr.dig { vv with vb := 1 }).wellFormed = false ∧ (Instr.tspread { vv with m := 1, vb := 32 }).wellFormed = false := by
  decide +kernel

/-- Conditions, formats, widths and immediates are permitted values (R36, R45, R223, R263, R277). -/
theorem test_wf_values :
    (Instr.icmp { cond := 10, vb := 2, m := 0, va := 1, e := 0, kd := 1 }).wellFormed = false ∧
    (Instr.fcmp { cond := 6, vb := 2, m := 0, va := 1, e := 0, kd := 1 }).wellFormed = false ∧
    (Instr.icmp { cond := 0, vb := 32, m := 1, va := 1, e := 0, kd := 1 }).wellFormed = false ∧
    (Instr.scmp { cond := 10, sb := 1, sa := 2, sd := 3 }).wellFormed = false ∧
    (Instr.shli { imm := 32, ea := 0, va := 1, vd := 3 }).wellFormed = false ∧
    (Instr.cvt { dst := 2, src := 2, sat := 0, ea := 0, va := 1, vd := 3 }).wellFormed = false ∧
    (Instr.pack2 { dst := 6, src := 2, sat := 0, ea := 0, va := 2, vd := 4 }).wellFormed = false ∧
    (Instr.unpack2 { dst := 0, src := 2, sat := 0, ea := 0, va := 2, vd := 4 }).wellFormed = false ∧
    (Instr.sibsel { vv with vb := 3 }).wellFormed = false ∧
    (Instr.cmp { xb := 1, xa := 2, cond := 10, cd := 1 }).wellFormed = false ∧
    (Instr.cmpi { imm := 1, xa := 2, cond := 12, cd := 1 }).wellFormed = false ∧
    (Instr.fcmps { xb := 1, xa := 2, cond := 9, cd := 1 }).wellFormed = false ∧
    (Instr.frontShli { imm := 64, xa := 2, xd := 1 }).wellFormed = false ∧
    (Instr.li { hw := 1, imm := 2, xd := 1 }).wellFormed = false ∧
    (Instr.fcvts { f9 := 0x44, xb := 0, xa := 1, xd := 2 }).wellFormed = false := by decide +kernel

/-- The same of memory, matrix, engine, front-end and system words. -/
theorem test_wf_other_classes :
    (Instr.ld { width := 5, sx := 0, sb := 2, ea := 0, va := 1, data := 3 }).wellFormed = false ∧
    (Instr.ld { width := 2, sx := 1, sb := 2, ea := 0, va := 1, data := 3 }).wellFormed = false ∧
    (Instr.st { width := 1, sx := 1, sb := 2, ea := 0, va := 1, data := 3 }).wellFormed = false ∧
    (Instr.ldt { width := 1, sx := 0, sb := 2, ea := 0, va := 1, data := 3 }).wellFormed = false ∧
    (Instr.lds { hi := 4, t := 1, map := 0, ea := 0, va := 1, data := 3 }).wellFormed = false ∧
    (Instr.lds { hi := 10, t := 0, map := 0, ea := 0, va := 1, data := 3 }).wellFormed = false ∧
    (Instr.ldu { width := 4, sx := 0, sb := 2, imm := 0, sd := 4 }).wellFormed = false ∧
    (Instr.atom { op := 11, scope := 0, w64 := 0, nr := 0, ea := 0, va := 2, data := 4 }).wellFormed = false ∧
    (Instr.acas { op := 1, scope := 0, w64 := 0, nr := 0, ea := 0, va := 2, data := 4 }).wellFormed = false ∧
    (Instr.fatom { op := 3, scope := 0, w64 := 0, nr := 0, ea := 0, va := 2, data := 4 }).wellFormed = false ∧
    (Instr.atoms { hi := 11, t := 0, map := 0, ea := 0, va := 2, data := 4 }).wellFormed = false ∧
    (Instr.pref { width := 1, sx := 0, sb := 2, ea := 0, va := 1, data := 0 }).wellFormed = false ∧
    (Instr.fence { scope := 0, sb := 1, sl := 0 }).wellFormed = false ∧ (Instr.seal { scope := 1, sb := 2, sl := 4 }).wellFormed = false ∧
    (Instr.mmab { ad := 1, ta := 2, tb := 3, sel := 1, vs := 0 }).wellFormed = false ∧
    (Instr.mmas8 { ad := 1, ta := 2, tb := 3, sel := 3, vs := 0 }).wellFormed = false ∧
    (Instr.mmas8 { ad := 1, ta := 2, tb := 3, sel := 31, vs := 1 }).wellFormed = false ∧
    (Instr.mzero { ad := 1, ta := 1, tb := 0, sel := 0, vs := 0 }).wellFormed = false ∧
    (Instr.mcvt { ad := 1, ta := 0, tb := 0, sel := 16, vs := 0 }).wellFormed = false ∧
    (Instr.msigxSt { ad := 1, ta := 0, tb := 0, sel := 0, vs := 2 }).wellFormed = false ∧
    (Instr.mtrip { ad := 0, ta := 0, tb := 0, sel := 0, vs := 3 }).wellFormed = false ∧
    (Instr.cpy2 { q := 8, ra := 2, rb := 4, rc := 6, rd := 8 }).wellFormed = false ∧
    (Instr.carb { q := 0, ra := 2, rb := 0, rc := 0, rd := 2 }).wellFormed = false ∧
    (Instr.migr { q := 8, ra := 2, rb := 4, rc := 6, rd := 8 }).wellFormed = false ∧
    (Instr.hgsend { q := 8, ra := 2, rb := 4, rc := 6, rd := 8 }).wellFormed = false ∧
    (Instr.hgsig { q := 0, ra := 2, rb := 4, rc := 6, rd := 0 }).wellFormed = false ∧
    (Instr.add { f9 := 1, xb := 1, xa := 2, xd := 3 }).wellFormed = false ∧
    (Instr.atmx { f9 := 0x160, xb := 1, xa := 2, xd := 3 }).wellFormed = false ∧
    (Instr.jr { f9 := 0, xb := 0, xa := 1, xd := 1 }).wellFormed = false ∧
    (Instr.tmset { f9 := 0, xb := 0, xa := 1, xd := 16 }).wellFormed = false ∧
    (Instr.tmget { f9 := 0, xb := 0, xa := 16, xd := 1 }).wellFormed = false ∧
    (Instr.dqpush { f9 := 1, xb := 0, xa := 1, xd := 0 }).wellFormed = false ∧
    (Instr.ovfget { f9 := 0, xb := 0, xa := 1, xd := 1 }).wellFormed = false ∧
    (Instr.nadd { f9 := 0, xb := 1, xa := 1, xd := 1 }).wellFormed = false ∧
    (Instr.mfsr { f10 := 0, a := 1, ra := 0, rd := 2 }).wellFormed = false ∧
    (Instr.mtsr { f10 := 0, a := 0, ra := 2, rd := 2 }).wellFormed = false ∧
    (Instr.pgmap { f10 := 1, a := 0, ra := 2, rd := 4 }).wellFormed = false ∧
    (Instr.tlbinvGpage { f10 := 2, a := 0, ra := 2, rd := 0 }).wellFormed = false ∧
    (Instr.spilla { f10 := 0, a := 1, ra := 2, rd := 2 }).wellFormed = false ∧
    (Instr.savel { f10 := 256, a := 0, ra := 2, rd := 0 }).wellFormed = false ∧
    (Instr.waitev { f10 := 1, a := 0, ra := 2, rd := 4 }).wellFormed = false := by decide +kernel

/-! ## Words of the spec's encodings, bit by bit -/

/-- VEC (02_instruction_words.md R35): opcode, then the fields of the format from bit 23 down. -/
theorem test_decode_vec :
    decode .vec (0x05#8 ++ 0#1 ++ 0#1 ++ 6#7 ++ 0#1 ++ 5#7 ++ 4#7) = .instr (.imad { m := 0, eb := 0, vb := 6, ea := 0, va := 5, vd := 4 }) ∧
    decode .vec (0x12#8 ++ 1#1 ++ 0#1 ++ 7#7 ++ 0#1 ++ 3#7 ++ 3#7) = .instr (.sar { m := 1, eb := 0, vb := 7, ea := 0, va := 3, vd := 3 }) ∧
    decode .vec 0x12838183#32 = .instr (.sar { m := 1, eb := 0, vb := 7, ea := 0, va := 3, vd := 3 }) := by decide +kernel

/-- ENG, CTL, FRONT, SYS and MAT (R39 to R43, and the rules of the instructions). -/
theorem test_decode_classes :
    decode .eng (0x00#8 ++ 9#4 ++ 4#5 ++ 5#5 ++ 6#5 ++ 7#5) = .instr (.cpy { q := 9, ra := 4, rb := 5, rc := 6, rd := 7 }) ∧
    decode .eng (0x0A#8 ++ 13#4 ++ 8#5 ++ 9#5 ++ 10#5 ++ 11#5) = .instr (.cwait { q := 13, ra := 8, rb := 9, rc := 10, rd := 11 }) ∧
    decode .eng 0x120214C7#32 = .instr (.hgwait { q := 0, ra := 4, rb := 5, rc := 6, rd := 7 }) ∧
    decode .eng 0x11022000#32 = .instr (.hgsig { q := 0, ra := 4, rb := 8, rc := 0, rd := 0 }) ∧
    decode .eng 0x130220C9#32 = .instr (.hgtake { q := 0, ra := 4, rb := 8, rc := 6, rd := 9 }) ∧
    decode .eng 0x1402280B#32 = .instr (.hgqry { q := 0, ra := 4, rb := 10, rc := 0, rd := 11 }) ∧
    decode .ctl (0x09#8 ++ 0#4 ++ 1#3 ++ 0#17) = .instr (.bar { scope := 1 }) ∧
    decode .front 0x510000E3#32 = .instr (.tmadv { f9 := 0, xb := 0, xa := 7, xd := 3 }) ∧
    decode .front 0x52000068#32 = .instr (.tmget { f9 := 0, xb := 0, xa := 3, xd := 8 }) ∧
    decode .front 0x690020E4#32 = .instr (.nwdraw { f9 := 0, xb := 8, xa := 7, xd := 4 }) ∧
    decode .sys (0x05#8 ++ 0#10 ++ 0#4 ++ 4#5 ++ 6#5) = .instr (.pgmap { f10 := 0, a := 0, ra := 4, rd := 6 }) ∧
    decode .mat (0x04#8 ++ 3#4 ++ 0#4 ++ 0#4 ++ 0#5 ++ 0#7) = .instr (.mzero { ad := 3, ta := 0, tb := 0, sel := 0, vs := 0 }) ∧
    decode .mat 0x07300018#32 = .instr (.mdrv { ad := 3, ta := 0, tb := 0, sel := 0, vs := 24 }) := by decide +kernel


/-- One word of each further VEC format: F.VI, F.VM, F.VC, F.VK, F.CVT, F.VR, F.K, F.S (R35, R36, R44). -/
theorem test_decode_vec_formats :
    decode .vec (0x20#8 ++ 0x1FF#9 ++ 1#1 ++ 2#7 ++ 3#7) = .instr (.iaddi { imm := -1, ea := 1, va := 2, vd := 3 }) ∧
    decode .vec (0x28#8 ++ 0x1234#16 ++ 0#1 ++ 9#7) = .instr (.movhi { imm := 0x1234, vd := 9 }) ∧
    decode .vec (0x42#8 ++ 10#4 ++ 2#7 ++ 0#1 ++ 1#7 ++ 0#1 ++ 3#4) =
      .instr (.fcmp { cond := 10, vb := 2, m := 0, va := 1, e := 0, kd := 3 }) ∧
    decode .vec (0x94#8 ++ 5#4 ++ 0#4 ++ 1#1 ++ 0#1 ++ 1#7 ++ 3#7) = .instr (.scani { k := 5, x := 1, ea := 0, va := 1, vd := 3 }) ∧
    decode .vec (0x80#8 ++ 1#4 ++ 2#4 ++ 1#1 ++ 0#1 ++ 1#7 ++ 3#7) =
      .instr (.cvt { dst := 1, src := 2, sat := 1, ea := 0, va := 1, vd := 3 }) ∧
    decode .vec (0x90#8 ++ 4#4 ++ 1#1 ++ 0#4 ++ 0#1 ++ 2#7 ++ 0#2 ++ 6#5) =
      .instr (.redf { k := 4, d := 1, ea := 0, va := 2, sd := 6 }) ∧
    decode .vec (0xA8#8 ++ 1#4 ++ 2#4 ++ 3#4 ++ 0#7 ++ 4#5) = .instr (.kfirst { ka := 1, kb := 2, kd := 3, sd := 4 }) ∧
    decode .vec (0xBA#8 ++ 9#4 ++ 0#5 ++ 1#5 ++ 2#5 ++ 7#5) = .instr (.scmp { cond := 9, sb := 1, sa := 2, sd := 7 }) ∧
    decode .vec (0xB9#8 ++ 0#3 ++ 0xBEEF#16 ++ 8#5) = .instr (.smovi { imm := 0xBEEF, sd := 8 }) ∧
    decode .vec (0x1D#8 ++ 0#24) = .reject (.unassigned 0x1D) := by decide +kernel

/-- MEM: F.MV, F.MA, F.MS, F.MU, F.MF (R37, R38, R44). -/
theorem test_decode_mem :
    decode .mem (0x00#8 ++ 1#3 ++ 1#1 ++ 6#5 ++ 0#1 ++ 1#7 ++ 3#7) =
      .instr (.ld { width := 1, sx := 1, sb := 6, ea := 0, va := 1, data := 3 }) ∧
    decode .mem (0x09#8 ++ 0#4 ++ 5#3 ++ 1#1 ++ 0#1 ++ 0#1 ++ 2#7 ++ 4#7) =
      .instr (.acas { op := 0, scope := 5, w64 := 1, nr := 0, ea := 0, va := 2, data := 4 }) ∧
    decode .mem (0x04#8 ++ 2#3 ++ 0#1 ++ 7#4 ++ 1#1 ++ 0#1 ++ 1#7 ++ 3#7) =
      .instr (.lds { hi := 4, t := 7, map := 1, ea := 0, va := 1, data := 3 }) ∧
    decode .mem (0x0B#8 ++ 8#4 ++ 0#4 ++ 0#1 ++ 0#1 ++ 1#7 ++ 3#7) =
      .instr (.atoms { hi := 8, t := 0, map := 0, ea := 0, va := 1, data := 3 }) ∧
    decode .mem (0x07#8 ++ 3#3 ++ 0#1 ++ 2#5 ++ 0x3F8#10 ++ 4#5) =
      .instr (.stu { width := 3, sx := 0, sb := 2, imm := -8, sd := 4 }) ∧
    decode .mem (0x12#8 ++ 0#4 ++ 0#3 ++ 0#2 ++ 2#5 ++ 4#5 ++ 0#5) = .instr (.afence { scope := 0, sb := 2, sl := 4 }) := by
  decide +kernel

/-- CTL, FRONT and SYS, by format (R41 to R44). -/
theorem test_decode_control :
    decode .ctl (0x00#8 ++ 3#3 ++ 1#1 ++ 0xFFFFE#20) = .instr (.b { c := 3, sense := 1, off := -2 }) ∧
    decode .ctl (0x04#8 ++ 5#4 ++ 6#10 ++ 9#10) = .instr (.split { k := 5, target := 6, join := 9 }) ∧
    decode .ctl (0x07#8 ++ 3#7 ++ 0#2 ++ 0#1 ++ 1#7 ++ 0#2 ++ 2#5) = .instr (.jtab { n1 := 3, ea := 0, va := 1, sb := 2 }) ∧
    decode .ctl (0x0A#8 ++ 2#4 ++ 0#15 ++ 4#5) = .instr (.qpush { q := 2, s := 4 }) ∧
    decode .ctl (0x11#8 ++ 0#23 ++ 1#1) = .instr (.tmode { mode := 1 }) ∧
    decode .front (0x00#8 ++ 0#9 ++ 3#5 ++ 2#5 ++ 1#5) = .instr (.add { f9 := 0, xb := 3, xa := 2, xd := 1 }) ∧
    decode .front (0x10#8 ++ 0x3FFF#14 ++ 2#5 ++ 1#5) = .instr (.addi { imm := -1, xa := 2, xd := 1 }) ∧
    decode .front (0x16#8 ++ 0#1 ++ 2#2 ++ 0xABCD#16 ++ 1#5) = .instr (.lih { hw := 2, imm := 0xABCD, xd := 1 }) ∧
    decode .front (0x18#8 ++ 0#7 ++ 3#5 ++ 2#5 ++ 4#4 ++ 1#3) = .instr (.cmp { xb := 3, xa := 2, cond := 4, cd := 1 }) ∧
    decode .front (0x32#8 ++ 8#4 ++ 5#3 ++ 0#2 ++ 3#5 ++ 2#5 ++ 1#5) = .instr (.atmx { f9 := 0x114, xb := 3, xa := 2, xd := 1 }) ∧
    decode .front (0x42#8 ++ 0xFFFFFF#24) = .instr (.jal { off := -1 }) ∧
    decode .sys (0x01#8 ++ 0x0123#16 ++ 0#8) = .instr (.trap { imm := 0x0123 }) ∧
    decode .sys (0x0A#8 ++ 7#10 ++ 0#4 ++ 2#5 ++ 0#5) = .instr (.savel { f10 := 7, a := 0, ra := 2, rd := 0 }) ∧
    decode .sys (0x0C#8 ++ 2#10 ++ 0#4 ++ 0#5 ++ 4#5) = .instr (.waitev { f10 := 2, a := 0, ra := 0, rd := 4 }) := by decide +kernel

/-! ## The statements of the step -/

theorem witness_DecodeEncode : (Instr.iadd vv).wellFormed = true ∧ encode (.iadd vv) = some (.vec, 0x00010083#32) := by decide +kernel

theorem witness_EncodeDecode : decode .vec 0x00010083#32 = .instr (.iadd vv) := by decide +kernel

/-- The bench meets every hypothesis of the statement about a word: what is fetched, and what it decodes to. -/
def fetchedWord (s : State) : Option (Decoded × Bool) :=
  match s.agenda with
  | .word u :: rest =>
    (issuerOf { s with agenda := rest } u 0).bind fun I =>
      if I.st.left ≠ 0 ∧ I.st.wait = .none ∧ I.st.stop = .run ∧ (s.pkgOf I.blk.pkg).stopped = false ∧ I.st.pend = [] then
        match fetchWord { s with agenda := rest } I I.st.pc.toNat with
        | .ok s' w =>
          some (decode I.st.cls w, match decode I.st.cls w with
            | .instr i =>
              (match exec i (aim s' u) with
              | .next _ => true
              | _ => false)
            | .reject _ => true)
        | .no _ => none
      else none
  | _ => none

theorem witness_StepRunsDecodedWord : fetchedWord (State.reset.withFetchWord 32 0x00010083) = some (.instr (.iadd vv), true) := by
  decide +kernel

theorem witness_StepRunsDecodedWord_rejected : fetchedWord (State.reset.withFetchWord 32 0xFF000000) = some (.reject (.unassigned 0xFF), true) := by
  decide +kernel

/-- A rejected word traps at its own pc: with no vector it is held at H (R362, R367). -/
theorem test_rejected_word : (stepped (State.reset.withFetchWord 32 0xFF000000)).told = [.trapAtH (.slot 0 0 0) .illegalOp true] := by
  decide +kernel

/-- A word that completes leaves the unit at the next word with the clause one word shorter (R30). -/
theorem test_step_advances :
    (unitStrand (stepped (State.reset.withFetchWord 32 0x00010083)) (.slot 0 0 0)).map (fun c => (c.pc, c.left)) =
      some (BitVec.ofNat 64 (benchText + 8), 0) := by decide +kernel


/-! ## VEC -/

theorem witness_WordOps :
    ∃ h g, (Instr.imad vv, h, g) ∈ wordOps vv ∧ QuireIssues qs (.imad vv) (who qs (.imad vv)) ∧ h.ok (who qs (.imad vv)) vv = true ∧
      Full (h.srcs (who qs (.imad vv)) vv) ∧ Free [(who qs (.imad vv)).srcV vv.vd.toNat] := by
  refine ⟨ternary, _, .tail _ <| .tail _ <| .tail _ <| .tail _ <| .tail _ <| .head _, ?_⟩
  unfold QuireIssues Issues Full Free; decide +kernel

/-- A shift, a bit field and a division issue; the highest one of 0x80000001 is bit 31, and of 1 it is bit 0. -/
theorem witness_BitAndDivisionOps :
    (∃ h P, (Instr.shl vv, h, P) ∈ laneOps vv ∧ QuireIssues qs (.shl vv) (who qs (.shl vv)) ∧ h.ok (who qs (.shl vv)) vv = true ∧
      Full (h.srcs (who qs (.shl vv)) vv) ∧ Free [(who qs (.shl vv)).srcV vv.vd.toNat]) ∧
    (∃ h P, (Instr.bfi vv, h, P) ∈ laneOps vv ∧ QuireIssues qs (.bfi vv) (who qs (.bfi vv)) ∧ h.ok (who qs (.bfi vv)) vv = true ∧
      Full (h.srcs (who qs (.bfi vv)) vv) ∧ Free [(who qs (.bfi vv)).srcV vv.vd.toNat]) ∧
    (0x80000001#32).getLsbD 31 = true ∧ (1#32).getLsbD 0 = true ∧ ∀ m < 32, 0 < m → (1#32).getLsbD m = false := by
  refine ⟨⟨binary, _, .head _, ?_⟩, ⟨ternary, _, .tail _ <| .tail _ <| .tail _ <| .tail _ <| .tail _ <| .tail _ <| .tail _ <|
    .tail _ <| .head _, ?_⟩, ?_⟩ <;> (try unfold QuireIssues Issues Full Free) <;> decide +kernel

def vi : VI := { imm := -1, ea := 0, va := 1, vd := 3 }
theorem witness_ImmediateOps :
    QuireIssues qs (.iaddi vi) (who qs (.iaddi vi)) ∧ (who qs (.iaddi vi)).vOk 1 1 = true ∧ (who qs (.iaddi vi)).vOk 63 1 = true ∧
    Full [(who qs (.iaddi vi)).srcV vi.va.toNat (vi.ea == 1)] ∧ Free [(who qs (.iaddi vi)).srcV vi.vd.toNat] := by
  unfold QuireIssues Issues Full Free; decide +kernel

def vm : VM := { imm := 0x8000, vd := 3 }
def vk : VK := { k := 0, x := 0, ea := 0, va := 1, vd := 3 }
def vvS : VV := { m := 1, eb := 0, vb := 29, ea := 0, va := 0, vd := 3 }
theorem witness_Moves :
    (QuireIssues qs (.movi vm) (who qs (.movi vm)) ∧ (who qs (.movi vm)).vOk 3 1 = true ∧ Free [(who qs (.movi vm)).srcV 3]) ∧
    (QuireIssues qs (.movhi vm) (who qs (.movhi vm)) ∧ Full [(who qs (.movhi vm)).srcV 3]) ∧
    (QuireIssues qs (.sel vk) (who qs (.sel vk)) ∧ (who qs (.sel vk)).vOk 1 1 = true ∧ (who qs (.sel vk)).vOk 3 1 = true ∧
      Full [(who qs (.sel vk)).srcV 1, (who qs (.sel vk)).srcK 0, (who qs (.sel vk)).srcV 3]) ∧
    (QuireIssues qs (.laneid vv1) (who qs (.laneid vv1)) ∧ (who qs (.laneid vv1)).vOk 3 1 = true) ∧
    (QuireIssues qs (.s2v vvS) (who qs (.s2v vvS)) ∧ Full [(who qs (.s2v vvS)).srcS 29]) ∧
    (QuireIssues qt (.s2vSib vvS) (who qt (.s2vSib vvS)) ∧ (who qt (.s2vSib vvS)).ter = true ∧ vvS.vb.toNat % 32 ≤ 29 ∧
      (who qt (.s2vSib vvS)).vOk 3 1 = true ∧
      Full [(who qt (.s2vSib vvS)).srcS 29, (who qt (.s2vSib vvS)).srcS 30, (who qt (.s2vSib vvS)).srcS 31] ∧
      Free [(who qt (.s2vSib vvS)).srcV 3]) := by unfold QuireIssues Issues Full Free; decide +kernel

/-- In ternion mode, lanes 0 to 2 alone stand in the slot, and the siblings of thread 31 differ in every register. -/
def qsplit : State :=
  qt fun Q => { Q with live := 7, s0 := { Q.s0 with mask := 7 }
                       v := [(2, { lanes := (List.range 96).map fun l => if 93 ≤ l then BitVec.ofNat 32 l else 0 })] }
theorem witness_Shuffles :
    (QuireIssues qs (.shfl vv) (who qs (.shfl vv)) ∧ binary.ok (who qs (.shfl vv)) vv = true ∧
      Full (binary.srcs (who qs (.shfl vv)) vv) ∧ Free [(who qs (.shfl vv)).srcV 3] ∧
      ∀ t ∈ (who qs (.shfl vv)).threads, (majority (who qs (.shfl vv)).ter t fun l => (who qs (.shfl vv)).vval false vv.vb.toNat l).isSome = true) ∧
    (let I := who qsplit (.shflup vv)
     QuireIssues qsplit (.shflup vv) I ∧ I.threads = [0] ∧ (majority I.ter 0 fun l => I.vval false vv.vb.toNat l).isSome = true ∧
       (majority I.ter 31 fun l => I.vval false vv.vb.toNat l).isNone = true) ∧
    (QuireIssues qt (.v2s vv1) (who qt (.v2s vv1)) ∧ (who qt (.v2s vv1)).vOk 1 1 = true ∧ Full [(who qt (.v2s vv1)).srcV 1] ∧
      Free [(who qt (.v2s vv1)).srcS 3] ∧
      majority (who qt (.v2s vv1)).ter ((who qt (.v2s vv1)).threads.headD 0) (fun l => (who qt (.v2s vv1)).vval false 1 l) = some 0) := by
  unfold QuireIssues Issues Full Free; decide +kernel

def kf : KF := { ka := 1, kb := 2, kd := 3, sd := 4 }
def kfc : KF := { ka := 1, kb := 2, kd := 0, sd := 4 }
def qk : State := qs fun Q => { Q with k := [(1, { val := 6 }), (2, { val := 4 })] }
theorem witness_PredicateOps :
    (QuireIssues qk (.kand kf) (who qk (.kand kf)) ∧ kf.kd ≠ 0 ∧ Full [(who qk (.kand kf)).srcK 1, (who qk (.kand kf)).srcK 2] ∧
      Free [(who qk (.kand kf)).srcK 3]) ∧
    (QuireIssues qk (.kpop kfc) (who qk (.kpop kfc)) ∧ Free [(who qk (.kpop kfc)).srcS 4]) ∧
    (QuireIssues qk (.kany kfc) (who qk (.kany kfc)) ∧ Free [(who qk (.kany kfc)).srcC 4]) ∧
    (QuireIssues qk (.kfirst kf) (who qk (.kfirst kf)) ∧ Free [(who qk (.kfirst kf)).srcK 3, (who qk (.kfirst kf)).srcS 4] ∧
      threadsOf (who qk (.kfirst kf)).ter (((who qk (.kfirst kf)).kreg 1).val &&& ((who qk (.kfirst kf)).kreg 2).val) = [2]) ∧
    (QuireIssues qs (.kfirst kf) (who qs (.kfirst kf)) ∧
      threadsOf (who qs (.kfirst kf)).ter (((who qs (.kfirst kf)).kreg 1).val &&& ((who qs (.kfirst kf)).kreg 2).val) = []) ∧
    (QuireIssues qk (.kor kfc) (who qk (.kor kfc)) ∧ kfc.kd = 0) := by
  unfold QuireIssues Issues Full Free; decide +kernel

def sf : SF := { cond := 0, sb := 1, sa := 2, sd := 3 }
def si : SI := { imm := 0xFFFF, sd := 3 }
theorem witness_UniformOps :
    (QuireIssues qs (.sadd sf) (who qs (.sadd sf)) ∧ Full [(who qs (.sadd sf)).srcS 2, (who qs (.sadd sf)).srcS 1] ∧
      Free [(who qs (.sadd sf)).srcS 3]) ∧
    (QuireIssues qs (.smov sf) (who qs (.smov sf)) ∧ Full [(who qs (.smov sf)).srcS 2]) ∧
    QuireIssues qs (.smovi si) (who qs (.smovi si)) ∧
    (QuireIssues qs (.scmp sf) (who qs (.scmp sf)) ∧ Free [(who qs (.scmp sf)).srcC 3]) := by
  unfold QuireIssues Issues Full Free; decide +kernel

def vc : VC := { cond := 2, vb := 2, m := 0, va := 1, e := 0, kd := 3 }
def vc64 : VC := { cond := 2, vb := 4, m := 0, va := 2, e := 0, kd := 3 }
/-- Each condition's action is TRAP. In thread 1 sibling 0 differs from the others: 1 from 0 in v1, of other sign in v2. -/
def qtrap : State :=
  qt fun Q => { Q with tctl := 0x102A
                       v := [(1, { lanes := (List.range 96).map fun l => if l == 3 then 0x3F800000 else 0 }),
                             (2, { lanes := (List.range 96).map fun l => if l == 3 then 0xBF800000 else 0x3F800000 })] }
/-- The threads whose siblings disagree on FCMP.LT of v1 and v2. -/
def disagree (I : Issuer) : List Nat :=
  I.threads.filter fun t =>
    let r := (lanesOf I.ter t).map fun l => condFp 2 (unpack fp32 (I.vval false 1 l)) (unpack fp32 (I.vval false 2 l))
    r.any id && !r.all id
theorem witness_Compares :
    (QuireIssues qt (.fcmp vc) (who qt (.fcmp vc)) ∧ vc.kd ≠ 0 ∧ (who qt (.fcmp vc)).vWide false 1 = true ∧
      (opndB vc.m vc.vb).ok (who qt (.fcmp vc)) false = true ∧
      Full ((who qt (.fcmp vc)).srcV2 false 1 ++ (opndB vc.m vc.vb).srcs (who qt (.fcmp vc)) false false) ∧
      Free [(who qt (.fcmp vc)).srcK 3] ∧ NoInstabTrap (who qt (.fcmp vc)) 1 (disagree (who qt (.fcmp vc)))) ∧
    (QuireIssues qtrap (.fcmp vc) (who qtrap (.fcmp vc)) ∧ disagree (who qtrap (.fcmp vc)) = [1] ∧
      ¬ NoInstabTrap (who qtrap (.fcmp vc)) 1 [1]) ∧
    (QuireIssues qs (.dcmp vc64) (who qs (.dcmp vc64)) ∧ (who qs (.dcmp vc64)).vWide true 2 = true ∧
      (opndB vc64.m vc64.vb).ok (who qs (.dcmp vc64)) true = true ∧
      Full ((who qs (.dcmp vc64)).srcV2 true 2 ++ (opndB vc64.m vc64.vb).srcs (who qs (.dcmp vc64)) true false) ∧
      NoInstabTrap (who qs (.dcmp vc64)) 1 [0]) := by
  unfold QuireIssues Issues Full Free NoInstabTrap; decide +kernel

theorem witness_RoundedAndMinMax :
    (∃ w op, (Instr.ddiv vv64, dpBinary, fp64, w, op) ∈ roundedOps vv64 ∧ QuireIssues qs (.ddiv vv64) (who qs (.ddiv vv64)) ∧
      dpBinary.ok (who qs (.ddiv vv64)) vv64 = true ∧ Full (dpBinary.srcs (who qs (.ddiv vv64)) vv64) ∧
      Free ((who qs (.ddiv vv64)).srcV2 true 6) ∧ ∀ r, NoInstabTrap (who qs (.ddiv vv64)) (watchNum w)
        (watchMet w dpBinary fp64 (who qs (.ddiv vv64)) vv64 r).1) ∧
    (∃ w op, (Instr.fadd vv, fpBinary, fp32, w, op) ∈ roundedOps vv ∧ QuireIssues qt (.fadd vv) (who qt (.fadd vv)) ∧
      fpBinary.ok (who qt (.fadd vv)) vv = true ∧ Full (fpBinary.srcs (who qt (.fadd vv)) vv) ∧
      ∀ r, NoInstabTrap (who qt (.fadd vv)) (watchNum w) (watchMet w fpBinary fp32 (who qt (.fadd vv)) vv r).1) ∧
    (∃ w op, (Instr.fdiv vv, fpBinary, fp32, w, op) ∈ roundedOps vv ∧ QuireIssues qtrap (.fdiv vv) (who qtrap (.fdiv vv)) ∧
      fpBinary.ok (who qtrap (.fdiv vv)) vv = true ∧ Full (fpBinary.srcs (who qtrap (.fdiv vv)) vv) ∧
      ¬ NoInstabTrap (who qtrap (.fdiv vv)) (watchNum w) (watchMet w fpBinary fp32 (who qtrap (.fdiv vv)) vv []).1) ∧
    (QuireIssues qs (.fmin vv) (who qs (.fmin vv)) ∧ ({ wide := false } : Shape).ok (who qs (.fmin vv)) vv = true ∧
      Full (({ wide := false } : Shape).srcs (who qs (.fmin vv)) vv) ∧ Free ((who qs (.fmin vv)).srcV2 false 3)) := by
  refine ⟨⟨.zdivB, op2 fvDiv, by simp [roundedOps], ?_, ?_, ?_, ?_, fun r => .inr (.inl (by decide +kernel))⟩,
    ⟨.cancel, _, .head _, ?_, ?_, ?_, fun r => .inr (.inr (.inl (by decide +kernel)))⟩, ⟨.zdivB, op2 fvDiv, by simp [roundedOps], ?_⟩, ?_⟩
  all_goals (repeat (first | unfold QuireIssues | unfold Issues | unfold Full | unfold Free | unfold NoInstabTrap)
             decide +kernel)

def vt (d s : BitVec 4) : VT := { dst := d, src := s, sat := 0, ea := 0, va := 2, vd := 4 }
theorem witness_Conversions :
    (QuireIssues qs (.frnd vv1) (who qs (.frnd vv1)) ∧ fpUnary.ok (who qs (.frnd vv1)) vv1 = true ∧
      Full (fpUnary.srcs (who qs (.frnd vv1)) vv1)) ∧
    (QuireIssues qs (.cvt (vt 6 2)) (who qs (.cvt (vt 6 2))) ∧ convDefined 6 2 = true ∧
      (who qs (.cvt (vt 6 2))).vWide (codeWide 2) 2 = true ∧ (who qs (.cvt (vt 6 2))).vWide (codeWide 6) 4 = true ∧
      Full ((who qs (.cvt (vt 6 2))).srcV2 (codeWide 2) 2) ∧ Free ((who qs (.cvt (vt 6 2))).srcV2 (codeWide 6) 4)) ∧
    (QuireIssues qs (.pack2 (vt 0 2)) (who qs (.pack2 (vt 0 2))) ∧ packable 2 0 = true ∧
      (who qs (.pack2 (vt 0 2))).vWide true 2 = true ∧ (who qs (.pack2 (vt 0 2))).vOk 4 1 = true ∧
      Full ((who qs (.pack2 (vt 0 2))).srcV2 true 2) ∧ Free [(who qs (.pack2 (vt 0 2))).srcV 4]) ∧
    (QuireIssues qs (.unpack2 (vt 2 0)) (who qs (.unpack2 (vt 2 0))) ∧ packable 2 0 = true ∧ convDefined 2 0 = true ∧
      Full [(who qs (.unpack2 (vt 2 0))).srcV 2] ∧ Free ((who qs (.unpack2 (vt 2 0))).srcV2 true 4)) := by
  unfold QuireIssues Issues Full Free; decide +kernel

def vr (d : BitVec 1) : VR := { k := 0, d := d, ea := 0, va := 2, sd := 4 }
theorem witness_Reductions :
    (QuireIssues qt (.redf (vr 1)) (who qt (.redf (vr 1))) ∧ (who qt (.redf (vr 1))).vWide true 2 = true ∧
      redOk (who qt (.redf (vr 1))) true 4 = true ∧
      Full ((who qt (.redf (vr 1))).srcV2 true 2 ++ [(who qt (.redf (vr 1))).srcK 0]) ∧
      Free (redDsts (who qt (.redf (vr 1))) true 4)) ∧
    (QuireIssues qs (.scani vk) (who qs (.scani vk)) ∧ (who qs (.scani vk)).vOk 1 1 = true ∧
      Full [(who qs (.scani vk)).srcV 1, (who qs (.scani vk)).srcK 0] ∧ Free [(who qs (.scani vk)).srcV 3]) := by
  unfold QuireIssues Issues Full Free; decide +kernel

theorem witness_TernionOps :
    (QuireIssues qt (.tmean vv641) (who qt (.tmean vv641)) ∧ (who qt (.tmean vv641)).vWide (vv641.eb == 1) 2 = true ∧
      Full ((who qt (.tmean vv641)).srcV2 (vv641.eb == 1) 2) ∧ Free ((who qt (.tmean vv641)).srcV2 ((vv641.eb == 1) && true) 6)) ∧
    (QuireIssues qt (.tchk vv) (who qt (.tchk vv)) ∧ (opndB vv.m vv.vb).ok (who qt (.tchk vv)) false = true ∧
      Full ((who qt (.tchk vv)).srcV2 (vv.eb == 1) 1 ++ (opndB vv.m vv.vb).srcs (who qt (.tchk vv)) false false)) := by
  unfold QuireIssues Issues Full Free; decide +kernel


/-! ## Frames and traps -/

/-- Stores bytes at a guest-physical address of the bench's granule. -/
def poke (s : State) (gpa : Nat) (bs : List Byte) : State := { s with mem := Memory.writeBytes s.mem (benchDpa gpa) bs }

/-- A context record for context 0: vectors of U and S, four save slots of 19 steps, tiles at 0x200000 (R367, R382). -/
def vectors (s : State) : State :=
  poke s 0 ([0x1000, 0x1100, 0x2000, 0x2100, 0x100000, 0x130004, 0x200000, 0].flatMap (leBytes 8))

/-- The issuer, without a word. -/
def unitNow (s : State) : Issuer := (issuerOf s s.subject.unit 0).getD nobody

theorem witness_WriteFrames :
    QuireIssues qs (.iadd vv) (who qs (.iadd vv)) ∧ QuireIssues (atS qs) (.sadd sf) (who (atS qs) (.sadd sf)) ∧
    QuireIssues qt (.kand kf) (who qt (.kand kf)) ∧ FrontIssues fs (.li { hw := 0, imm := 1, xd := 26 }) (who fs (.li { hw := 0, imm := 1, xd := 26 })) ∧
    FrontIssues (atS fs) (.li { hw := 0, imm := 1, xd := 30 }) (who (atS fs) (.li { hw := 0, imm := 1, xd := 30 })) := by
  unfold QuireIssues FrontIssues Issues; decide +kernel

/-- s24 at S stands in the bank and leaves the quire's register; s23 is the quire's (R366). -/
theorem test_bank_of_level_s :
    let s := writeS (writeS (atS qs) (unitNow (atS qs)) 24 7) (unitNow (atS qs)) 23 8
    Tab.find (Tab.get {} s.quires 0).s 24 = none ∧ (Tab.get { val := 0 } (Tab.get {} s.quires 0).s 23).val = 8 ∧
    ((unitNow s).sreg 24).val = 7 := by decide +kernel

theorem witness_EventsFrame : (Tab.find qs.blocks (unitNow qs).b).isSome = true := by decide +kernel

theorem witness_TrapEntry :
    (issuerOf (vectors qs) (unitNow (vectors qs)).u 0 = some (unitNow (vectors qs)) ∧ (unitNow (vectors qs)).fe = false ∧
      trapTarget (ctxRecord (vectors qs) 0 0).2 false (unitNow (vectors qs)).st .trap = (.u, 0x1000, false) ∧
      trapTarget (ctxRecord (vectors qs) 0 0).2 false (unitNow (vectors qs)).st .align = (.s, 0x2000, false)) ∧
    (issuerOf qs (unitNow qs).u 0 = some (unitNow qs) ∧ (trapTarget (ctxRecord qs 0 0).2 false (unitNow qs).st .align).1 = .h) ∧
    (issuerOf (vectors fs) (unitNow (vectors fs)).u 0 = some (unitNow (vectors fs)) ∧ (unitNow (vectors fs)).fe = true ∧
      trapTarget (ctxRecord (vectors fs) 0 0).2 true (unitNow (vectors fs)).st .align = (.s, 0x2100, false)) := by
  decide +kernel

def rec0 : CtxRec := { uvecq := 0x1000, uvecf := 0x1100, svecq := 0x2000, svecf := 0x2100, savebase := 0, nslot := 1,
                       slotsize := 19, accarea := 0, first := 0, last := 0, limited := false }
/-- The three ways of a trap: to U, from U to S inside a U handler, from S to H inside an S handler (R367). -/
theorem witness_TrapTargets :
    trapTarget (some rec0) false {} .instabZdiv = (.u, 0x1000, false) ∧
    trapTarget (some rec0) false { trapU := { inHandler := true } } .instabZdiv = (.s, 0x2000, true) ∧
    trapTarget (some rec0) true { level := .s, trapS := { inHandler := true } } .trap = (.h, 0, true) ∧
    trapTarget (some rec0) true {} .align = (.s, 0x2100, false) := by decide +kernel

/-- v1 is empty: with e = 1 without a note, and with the note of an uncorrectable word; with e = 0 and no note it is waited for. -/
def hollow (n : Option Note) : State := qs fun Q => { Q with v := [(1, { full := false, note := n })] }
def empties (s : State) (f : VV) : Bool × Bool × Nat :=
  let l := binary.srcs (who s (.iadd f)) f
  (l.any fun x => !x.full && x.note.isNone && x.e, l.any fun x => !x.full,
    (l.filterMap fun x => if x.full then none else x.note).length)
theorem witness_EmptySources :
    (∃ x ∈ sourceWords (who (hollow none) (.iadd vv)) vv, x.1 = .iadd vv ∧ x.2.1 = true) ∧
    QuireIssues (hollow none) (.iadd vv) (who (hollow none) (.iadd vv)) ∧
    empties (hollow none) { vv with ea := 1 } = (true, true, 0) ∧ empties (hollow none) vv = (false, true, 0) ∧
    empties (hollow (some (memNote 1 0 0))) { vv with ea := 1 } = (false, true, 1) := by
  unfold QuireIssues Issues; decide +kernel

theorem witness_TrapReturnRestores :
    issuerOf (vectors qs) (unitNow (vectors qs)).u 0 = some (unitNow (vectors qs)) ∧
    (trapTarget (ctxRecord (vectors qs) 0 0).2 false (unitNow (vectors qs)).st .bounds).1 ≠ .h := by decide +kernel

def inHandler (s : State) : State :=
  updStrand s s.subject.unit fun c => { c with trapU := { inHandler := true, entryMask := BitVec.allOnes 96 } }
theorem witness_TrapAndEret :
    Issues qs (.trap { imm := 5 }) (who qs (.trap { imm := 5 })) ∧
    (Issues (inHandler qs) .eret (who (inHandler qs) .eret) ∧ (who (inHandler qs) .eret).st.level ≠ .h ∧
      (who (inHandler qs) .eret).st.trapOf.inHandler = true ∧
      (who (inHandler qs) .eret).mask = (who (inHandler qs) .eret).st.trapOf.entryMask ∧ (who (inHandler qs) .eret).mask ≠ 0) ∧
    (let s := updStrand qs qs.subject.unit fun c => { c with level := .s, trapS := { inHandler := true, entryMask := BitVec.allOnes 96 } }
     Issues s .eret (who s .eret) ∧ (who s .eret).st.level = .s ∧ (who s .eret).st.trapOf.inHandler = true ∧
       (who s .eret).mask = (who s .eret).st.trapOf.entryMask ∧ bankOwed s (who s .eret) = false) ∧
    (Issues qs .eret (who qs .eret) ∧ (who qs .eret).st.trapOf.inHandler = false) ∧
    (let s := updStrand qs qs.subject.unit fun c => { c with trapU := { inHandler := true, entryMask := 1 } }
     Issues s .eret (who s .eret) ∧ (who s .eret).st.trapOf.inHandler = true ∧
       (who s .eret).mask ≠ (who s .eret).st.trapOf.entryMask) := by unfold Issues; decide +kernel

/-- TRAP at U with a U vector: the pc saved is that of the word after it, DETAIL is the immediate (R363, R370). -/
theorem test_trap_word :
    let s := ran (vectors qs) (.trap { imm := 0x1234 })
    ((unitNow s).st.pc, (unitNow s).st.trapU.regs.pc, (unitNow s).st.trapU.regs.cause, (unitNow s).st.level) =
      (0x1000, BitVec.ofNat 64 (benchText + 8), 0x12340019, .u) := by decide +kernel


/-! ## CTL -/

def cb : CB := { c := 1, sense := 1, off := -2 }
def co : CO := { off := 3 }
def cj : CJ := { n1 := 1, ea := 0, va := 1, sb := 2 }
/-- A jump table at virtual address 0: the join address and two targets, as word offsets in the text (R339). -/
def qj : State := poke (qs fun Q => { Q with v := [(1, { lanes := (List.range 96).map fun l => BitVec.ofNat 32 (l % 2) })] }) 0
  ([8, 2, 4].flatMap (leBytes 4))

theorem witness_Transfers :
    (QuireIssues qs (.b cb) (who qs (.b cb)) ∧ Full [(who qs (.b cb)).srcC 1] ∧ ((who qs (.b cb)).creg 1).val ≠ (cb.sense == 1)) ∧
    (let s := qs fun Q => { Q with c := [(1, { val := true })] }
     QuireIssues s (.b cb) (who s (.b cb)) ∧ ((who s (.b cb)).creg 1).val = (cb.sense == 1)) ∧
    (FrontIssues fs (.bc cb) (who fs (.bc cb)) ∧ Full [(who fs (.bc cb)).srcC 1]) ∧
    QuireIssues qs (.bra co) (who qs (.bra co)) ∧ FrontIssues fs (.j { off := -1 }) (who fs (.j { off := -1 })) ∧
    (FrontIssues fs (.jal { off := -1 }) (who fs (.jal { off := -1 })) ∧ Free [(who fs (.jal { off := -1 })).srcX 31]) ∧
    (FrontIssues fs (.jr { f9 := 0, xb := 0, xa := 31, xd := 0 }) (who fs (.jr { f9 := 0, xb := 0, xa := 31, xd := 0 })) ∧
      Full [(who fs (.jr { f9 := 0, xb := 0, xa := 31, xd := 0 })).srcX 31]) ∧
    (QuireIssues qs (.call co) (who qs (.call co)) ∧ (who qs (.call co)).qr.recs.length < 64) := by
  unfold QuireIssues FrontIssues Issues Full Free; decide +kernel

def jtabOk (s : State) (f : CJ) : Bool :=
  let I := who s (.jtab f)
  let va := I.maj fun l => ((I.vreg f.va.toNat).at l).toNat
  match jtabRead s I (I.s2 f.sb.toNat).toNat
      (0 :: ((List.range (f.n1.toNat + 1)).filter fun i => I.threads.any fun j => va j == i).map (· + 1)) with
  | .ok _ t => (jtabGroups I va t (f.n1.toNat + 1)).length == 2
  | .no _ => false
theorem witness_Jtab :
    QuireIssues qj (.jtab cj) (who qj (.jtab cj)) ∧ cj.sb.toNat % 2 = 0 ∧ (who qj (.jtab cj)).vOk 1 1 = true ∧
    Full ((who qj (.jtab cj)).srcV 1 :: (who qj (.jtab cj)).srcS2 2) ∧
    (who qj (.jtab cj)).split [fun l => (((who qj (.jtab cj)).vreg 1).at l).toNat] = [] ∧
    (∀ i ∈ (who qj (.jtab cj)).threads, (who qj (.jtab cj)).maj (fun l => (((who qj (.jtab cj)).vreg 1).at l).toNat) i ≤ cj.n1.toNat) ∧
    ((who qj (.jtab cj)).s2 2).toNat % 4 = 0 ∧ jtabOk qj cj = true := by unfold QuireIssues Issues Full; decide +kernel

def csp (k : BitVec 4) : CS := { k := k, target := 6, join := 9 }
/-- Predicates: k1 the even lanes, k2 none; k0 all. -/
def qd (Q : Quire → Quire := id) : State :=
  qs fun x => Q { x with k := [(1, { val := 0x555555555555555555555555#96 }), (2, { val := 0 })] }
theorem witness_Split :
    (QuireIssues qd (.split (csp 1)) (who qd (.split (csp 1))) ∧ Full [(who qd (.split (csp 1))).srcK 1] ∧
      (who qd (.split (csp 1))).mask &&& ~~~((who qd (.split (csp 1))).kreg 1).val ≠ 0 ∧
      (who qd (.split (csp 1))).mask &&& ((who qd (.split (csp 1))).kreg 1).val ≠ 0 ∧
      ((who qd (.split (csp 1))).qr.slot (1 - (who qd (.split (csp 1))).sl)).free = true) ∧
    ((who qd (.split (csp 0))).mask &&& ~~~((who qd (.split (csp 0))).kreg 0).val = 0) ∧
    ((who qd (.split (csp 2))).mask &&& ((who qd (.split (csp 2))).kreg 2).val = 0) ∧
    (let s := qd fun Q => { Q with recs := List.replicate 64 { id := 1, kind := 1, jpc := 0, expect := 0, parent := 0 } }
     QuireIssues s (.split (csp 1)) (who s (.split (csp 1))) ∧ 64 ≤ (who s (.split (csp 1))).qr.recs.length) := by
  unfold QuireIssues Issues Full; decide +kernel

/-- With the other slot busy and room on the divergence stack, the rest of the lanes is pushed (R332, R336). -/
def qbusy : State :=
  qd fun Q => { Q with s1 := { mask := 1 }, dstack := 0x1004 }
def pushes : Bool :=
  match pushStack qbusy (who qbusy (.split (csp 1))) [((who qbusy (.split (csp 1))).st.pc + 4, 2, 1)] with
  | .ok _ _ => true
  | .no _ => false
theorem witness_SplitPush : ((who qbusy (.split (csp 1))).qr.slot 1).free = false ∧ pushes = true := by decide +kernel

/-- The slot's innermost record, of kind k, expects m. -/
def joining (k : Nat) (m : Mask) : State :=
  qs fun Q => { Q with recs := [{ id := 1, kind := k, jpc := 0x60000, expect := m, parent := 0 }], s0 := { Q.s0 with innermost := 1, mask := 1 },
                       live := m }
theorem witness_Joins :
    (QuireIssues (joining 1 3) .join (who (joining 1 3) .join) ∧
      ((who (joining 1 3) .join).qr.joinRec ((who (joining 1 3) .join).qr.slot 0).innermost).any (fun r =>
        r.kind != 3 && r.arrived ||| (who (joining 1 3) .join).mask != r.expect) = true) ∧
    (QuireIssues (joining 3 1) .ret (who (joining 3 1) .ret) ∧
      ((who (joining 3 1) .ret).qr.joinRec ((who (joining 3 1) .ret).qr.slot 0).innermost).any (fun r =>
        r.kind == 3 && r.arrived ||| (who (joining 3 1) .ret).mask == r.expect) = true) ∧
    (QuireIssues (joining 1 3) (.waitj co) (who (joining 1 3) (.waitj co)) ∧ (who (joining 1 3) (.waitj co)).blk.node.det = false) ∧
    (QuireIssues qs .join (who qs .join) ∧ (who qs .join).qr.joinRec ((who qs .join).qr.slot 0).innermost = none) := by
  unfold QuireIssues Issues; decide +kernel

/-- EXT set, and pair lock 0 held by quire 0 where asked. -/
def qx (h : Option Nat) : State :=
  qs id fun B => { B with node := { B.node with flags := B.node.flags ||| 64 }, locks := [(0, { holder := h })] }
theorem witness_LaneState :
    QuireIssues qs .yield (who qs .yield) ∧ QuireIssues qs .exit (who qs .exit) ∧
    (QuireIssues (qx none) .xacq (who (qx none) .xacq) ∧ (who (qx none) .xacq).blk.node.ext = true ∧
      (Tab.get {} (who (qx none) .xacq).blk.locks 0).holder = none ∧ seeksLock (qx none) 0 (partnerQuire 0) = false) ∧
    (QuireIssues (qx (some 1)) .xacq (who (qx (some 1)) .xacq) ∧ (Tab.get {} (who (qx (some 1)) .xacq).blk.locks 0).holder = some 1) ∧
    (QuireIssues (qx (some 0)) .xrel (who (qx (some 0)) .xrel) ∧ (Tab.get {} (who (qx (some 0)) .xrel).blk.locks 0).holder = some 0 ∧
      unperformed (qx (some 0)) (who (qx (some 0)) .xrel).u (who (qx (some 0)) .xrel).mask (qx (some 0)).nextId 1 = false) ∧
    (QuireIssues qs (.tmode { mode := 1 }) (who qs (.tmode { mode := 1 })) ∧
      (who qs (.tmode { mode := 1 })).mask = (who qs (.tmode { mode := 1 })).qr.live ∧
      ((who qs (.tmode { mode := 1 })).qr.slot 1).free = true ∧ (who qs (.tmode { mode := 1 })).qr.recs = [] ∧
      dsTop (who qs (.tmode { mode := 1 })).qr.dstack = 0 ∧ wholeTriples (who qs (.tmode { mode := 1 })).qr.live = true ∧
      ((1 : BitVec 1) == 1) ≠ (who qs (.tmode { mode := 1 })).ter) ∧
    ((1 : BitVec 1) == 1) = (who qt (.tmode { mode := 1 })).ter := by unfold QuireIssues Issues; decide +kernel

def sixteen : List DWord := List.replicate 16 7
def cq (q : BitVec 4) : CQ := { q := q, s := 2 }
def dq : XR := { f9 := 0, xb := 0, xa := 1, xd := 0 }
theorem witness_Queues :
    (QuireIssues qs (.token co) (who qs (.token co)) ∧ (who qs (.token co)).blk.front.done = false ∧
      unperformed qs (unitNow qs).u (unitNow qs).mask qs.nextId 1 = false ∧
      (who qs (.token co)).blk.q1.length < 16 ∧ pushWaiting qs 0 0 1 = false) ∧
    (let s := qs id fun B => { B with q1 := sixteen }
     QuireIssues s (.token co) (who s (.token co)) ∧ 16 ≤ (who s (.token co)).blk.q1.length) ∧
    (QuireIssues qs (.qpush (cq 1)) (who qs (.qpush (cq 1))) ∧ Full ((who qs (.qpush (cq 1))).srcS2 2) ∧ (queueOf qs 0 0 1).length < 16) ∧
    (FrontIssues fs (.dqpush dq) (who fs (.dqpush dq)) ∧ Full [(who fs (.dqpush dq)).srcX 1] ∧ 0 < (who fs (.dqpush dq)).blk.nq ∧
      (queueOf fs 0 0 0).length < 16) ∧
    (let s := qs fun Q => { Q with q0 := [9] }
     QuireIssues s (.qpop (cq 0)) (who s (.qpop (cq 0))) ∧ Free ((who s (.qpop (cq 0))).srcS2 2) ∧
       (Tab.get {} (who s (.qpop (cq 0))).blk.locks 0).holder ≠ some 0 ∧ queueOf s 0 0 0 = [9] ∧
       popWaiting (who s (.qpop (cq 0))).qr 0 = false ∧ headBad s 0 0 0 = false) ∧
    (QuireIssues qs (.qpop (cq 0)) (who qs (.qpop (cq 0))) ∧ queueOf qs 0 0 0 = [] ∧ (who qs (.qpop (cq 0))).blk.front.done = false) ∧
    (let s := fs id fun B => { B with q1 := [9] }
     FrontIssues s .btok (who s .btok) ∧ Free [(who s .btok).srcX 30] ∧ (who s .btok).blk.q1 = [9] ∧ headBad s 0 0 1 = false) ∧
    (FrontIssues fs .btok (who fs .btok) ∧ (who fs .btok).blk.q1 = []) := by
  unfold QuireIssues FrontIssues Issues Full Free; decide +kernel

/-- The quire's block is block 1 of a node of two; block 0 has ended, or not. The block has predecessor node 1. -/
def waitb (ended : List Nat) : State :=
  let n : NodeRec := { benchNode with npred := 1, gx := 2, preds := [0x3000] }
  let s := qs (fun Q => { Q with s := [(2, { val := 0 }), (3, { val := 8 })] }) fun B => { B with idx := 1, node := n }
  s.updPart 0 fun P => { P with nodes := Tab.modify P.nodes 0 fun N => { N with nrec := n, bits := ended } }
theorem witness_BarrierAndWaitb :
    (QuireIssues qs (.bar { scope := 1 }) (who qs (.bar { scope := 1 })) ∧ (who qs (.bar { scope := 1 })).scope 1 = 1 ∧
      (who qs (.bar { scope := 1 })).mask = (who qs (.bar { scope := 1 })).qr.live ∧
      (who qs (.bar { scope := 1 })).qr.arrival = none ∧ (Tab.get {} (who qs (.bar { scope := 1 })).blk.locks 0).holder ≠ some 0) ∧
    (let s := qs fun Q => { Q with arrival := some 1 }
     QuireIssues s (.bar { scope := 1 }) (who s (.bar { scope := 1 })) ∧ (who s (.bar { scope := 1 })).qr.arrival ≠ none) ∧
    (∀ l ∈ [[], [0]], let s := waitb l
     QuireIssues s (.waitb { s := 2 }) (who s (.waitb { s := 2 })) ∧ Full ((who s (.waitb { s := 2 })).srcS2 2) ∧
       ((who s (.waitb { s := 2 })).sreg 3).val = 8 ∧
       (waitbNode s (who s (.waitb { s := 2 })) true 0).any (fun n => decide (0 < n.2.nrec.total) && n.2.bits == l) = true) := by
  unfold QuireIssues Issues Full; decide +kernel

/-! ## FRONT -/

def xr : XR := { f9 := 0, xb := 2, xa := 1, xd := 3 }
def xr0 : XR := { f9 := 0, xb := 2, xa := 1, xd := 0 }
theorem witness_FrontOps :
    (FrontIssues fs (.add xr) (who fs (.add xr)) ∧ Full [(who fs (.add xr)).srcX 1, (who fs (.add xr)).srcX 2] ∧
      Free [(who fs (.add xr)).srcX 3]) ∧
    (FrontIssues fs (.add xr0) (who fs (.add xr0)) ∧ Free [(who fs (.add xr0)).srcX 0]) ∧
    FrontIssues fs (.addi { imm := -1, xa := 1, xd := 3 }) (who fs (.addi { imm := -1, xa := 1, xd := 3 })) ∧
    FrontIssues fs (.li { hw := 0, imm := 0xFFFF, xd := 3 }) (who fs (.li { hw := 0, imm := 0xFFFF, xd := 3 })) ∧
    (FrontIssues fs (.lih { hw := 3, imm := 0xFFFF, xd := 3 }) (who fs (.lih { hw := 3, imm := 0xFFFF, xd := 3 })) ∧
      Full [(who fs (.lih { hw := 3, imm := 0xFFFF, xd := 3 })).srcX 3]) ∧
    FrontIssues fs (.cmp { xb := 2, xa := 1, cond := 9, cd := 7 }) (who fs (.cmp { xb := 2, xa := 1, cond := 9, cd := 7 })) ∧
    FrontIssues fs (.cmpi { imm := -1, xa := 1, cond := 2, cd := 0 }) (who fs (.cmpi { imm := -1, xa := 1, cond := 2, cd := 0 })) ∧
    FrontIssues fs (.ffmas xr) (who fs (.ffmas xr)) ∧ FrontIssues fs (.fcmps { xb := 2, xa := 1, cond := 10, cd := 0 })
      (who fs (.fcmps { xb := 2, xa := 1, cond := 10, cd := 0 })) ∧
    (FrontIssues fs (.fcvts { f9 := 0xE4, xb := 0, xa := 1, xd := 3 }) (who fs (.fcvts { f9 := 0xE4, xb := 0, xa := 1, xd := 3 })) ∧
      Full [(who fs (.fcvts { f9 := 0xE4, xb := 0, xa := 1, xd := 3 })).srcX 1] ∧
      Free [(who fs (.fcvts { f9 := 0xE4, xb := 0, xa := 1, xd := 3 })).srcX 3]) := by
  unfold FrontIssues Issues Full Free; decide +kernel

def tm (xd xa : BitVec 5) : XR := { f9 := 0, xb := 0, xa := xa, xd := xd }
theorem witness_FrontState :
    (FrontIssues fs (.tmset (tm 15 1)) (who fs (.tmset (tm 15 1))) ∧ (who fs (.tmset (tm 15 1))).blk.node.tmaps.getLsbD 15 = true ∧
      Full [(who fs (.tmset (tm 15 1))).srcX 1]) ∧
    (let s := fs fun F => { F with x := [(1, { val := 32 })] }
     FrontIssues s (.tmadv (tm 0 1)) (who s (.tmadv (tm 0 1))) ∧ ((who s (.tmadv (tm 0 1))).xreg 1).val.toNat % 32 = 0 ∧
       0 ≤ (tmBase (Tab.get 0 (s.coreOf (who s (.tmadv (tm 0 1))).blk.core).t 0) : Int) + ((who s (.tmadv (tm 0 1))).xreg 1).val.toInt ∧
       (tmBase (Tab.get 0 (s.coreOf (who s (.tmadv (tm 0 1))).blk.core).t 0) : Int) + ((who s (.tmadv (tm 0 1))).xreg 1).val.toInt < 2 ^ 19) ∧
    (FrontIssues fs (.tmget (tm 3 15)) (who fs (.tmget (tm 3 15))) ∧ Free [(who fs (.tmget (tm 3 15))).srcX 3]) ∧
    (FrontIssues fs (.ovfget (tm 3 0)) (who fs (.ovfget (tm 3 0))) ∧ quiresBusy fs (who fs (.ovfget (tm 3 0))) = false) ∧
    (let s := fs fun F => { F with x := [(1, { val := 0x000200013F800000 })] }
     FrontIssues s (.lsupd (tm 0 1)) (who s (.lsupd (tm 0 1))) ∧ quiresBusy s (who s (.lsupd (tm 0 1))) = false ∧
       lossScale ((who s (.lsupd (tm 0 1))).xreg 1).val (who s (.lsupd (tm 0 1))).blk.ovf = some 0x0002000040000000) ∧
    (FrontIssues fs .fexit (who fs .fexit) ∧ loadsOut fs (who fs .fexit).u = false) := by
  unfold FrontIssues Issues Full Free; decide +kernel

/-- The loss scale at the ends of its range: exponent 1 is not halved, exponent 254 not doubled; an interval of one
doubles at once (R328). -/
theorem test_loss_scale :
    lossScale 0x0005000300800000 1 = some 0x0005000000800000 ∧ lossScale 0x000100007F000000 0 = some 0x000100007F000000 ∧
    lossScale 0x000100003F800000 0 = some 0x0001000040000000 ∧ lossScale 0x000000003F800000 0 = some 0x000000013F800000 := by
  decide +kernel


/-! ## MEM -/

def mv (w : BitVec 3) (d : BitVec 7) : MV := { width := w, sx := 0, sb := 2, ea := 0, va := 1, data := d }
def ma (w64 : BitVec 1) (nr : BitVec 1) (sc : BitVec 3) : MA := { op := 0, scope := sc, w64 := w64, nr := nr, ea := 0, va := 2, data := 4 }
def mu (w : BitVec 3) : MU := { width := w, sx := 0, sb := 2, imm := 8, sd := 4 }
def xi : XI := { imm := 16, xa := 1, xd := 3 }

/-- Lane l holds the offset k l in v1, and the address k l in v2 and v3; s2 and s3 hold the base 0. -/
def offsets (k : Nat) (Q : Quire) : Quire :=
  { Q with v := [(1, { lanes := (List.range 96).map fun l => BitVec.ofNat 32 (k * l) }),
                 (2, { lanes := (List.range 96).map fun l => BitVec.ofNat 32 (k * l) })] }

/-- LD and ST: a 64-bit datum at each lane's own address, and a byte at one address. -/
theorem witness_LdSt :
    (let s := qs (offsets 8); let f := mv 3 6; let I := who s (.ld f)
     QuireIssues s (.ld f) I ∧ mvOk f I 2 = true ∧ Full (mvSrcs f I) ∧ Free (I.srcGroup 6 2) ∧ Agree I [mvAddr f I] ∧
       Aligned I 8 (mvAddr f I) ∧ Reaches s I false false (eachThread I (mvAddr f I) fun _ => .rd 8)) ∧
    (let s := qt; let f := mv 0 6; let I := who s (.st f)
     QuireIssues s (.st f) I ∧ mvOk f I 1 = true ∧ Full (mvSrcs f I ++ I.srcGroup 6 1) ∧ Agree I [mvAddr f I, I.group 6 1] ∧
       Aligned I 1 (mvAddr f I) ∧
       Reaches s I true false (eachThread I (mvAddr f I) fun i => .wr (leBytes 1 (I.maj (I.group 6 1) i)))) := by
  unfold QuireIssues Issues Full Free Agree Aligned Reaches; decide +kernel

theorem witness_LdtStt :
    (let s := qt; let f := mv 3 6; let I := who s (.ldt f)
     let ks := elemKinds s I f false
     QuireIssues s (.ldt f) I ∧ mvOk f I 2 = true ∧ f.sb.toNat ≤ 28 ∧ Full (mvSrcs f I ++ [I.srcS 4]) ∧ Free (I.srcGroup 6 2) ∧
       Agree I [mvAddr f I] ∧ (∀ x ∈ ks, I.maj (mvAddr f I) x.1 % mvEs f = 0 ∧
         (x.2 = some 2 → I.maj (fun l => ((I.vreg f.va.toNat).at l).toNat) x.1 % mvEs f = 0)) ∧
       Reaches s I false false (ks.flatMap fun x => elemReqs f I x.1 x.2 (.rd (mvEs f)) (fun _ k => .rd k) (.rd 1))) ∧
    (let s := qt; let f := mv 2 6; let I := who s (.stt f)
     let ks := elemKinds s I f true
     QuireIssues s (.stt f) I ∧ mvOk f I 1 = true ∧ Full (mvSrcs f I ++ [I.srcS 4] ++ I.srcGroup 6 1) ∧
       Reaches s I true false (ks.flatMap fun x =>
         elemReqs f I x.1 x.2 (.wr (leBytes (mvEs f) (sttMean f I x.1)))
           (fun o k => .wr ((((sttSiblings f I x.1).flatMap (leBytes (mvEs f))).drop o).take k)) (.wr (leBytes 1 (sttDigit f I x.1))))) := by
  unfold QuireIssues Issues Full Free Agree Reaches; decide +kernel

theorem witness_LduStu :
    (let s := qs; let f := mu 3; let I := who s (.ldu f)
     QuireIssues s (.ldu f) I ∧ Full (I.srcS2 2) ∧ Free (I.srcS2 4) ∧ muAddr f I % 8 = 0 ∧
       Reaches s I false true [{ key := 0, thread := I.threads.headD 0, va := muAddr f I, act := .rd 8 }]) ∧
    (let s := qs; let f := mu 0; let I := who s (.stu f)
     QuireIssues s (.stu f) I ∧ Full (I.srcS2 2 ++ [I.srcS 4]) ∧
       Reaches s I true true
         [{ key := 0, thread := I.threads.headD 0, va := muAddr f I, act := .wr (leBytes 1 (I.sval false 4)) }]) := by
  unfold QuireIssues Issues Full Free Reaches; decide +kernel

/-- Atomics: narrow and without return, 64-bit compare-and-swap of system scope, and floating point. -/
theorem witness_Atomics :
    (let s := qs (offsets 4); let f := ma 0 1 0; let I := who s (.atom f); let addr := I.vval true 2
     QuireIssues s (.atom f) I ∧ I.vWide true 2 = true ∧ I.vOk 4 1 = true ∧ Full (I.srcV2 true 2 ++ I.srcGroup 4 1) ∧
       Agree I [addr, I.group 4 1] ∧ Aligned I 4 addr ∧ ReleaseDone s I 0 ∧
       Reaches s I true false (eachThread I addr fun i => .amo
         { kind := .atom, op := 0, w64 := false, v := BitVec.ofNat 64 (I.maj (I.group 4 1) i),
           cmp := BitVec.ofNat 64 (I.maj (I.group 4 1) i), ret := false })) ∧
    (let s := qs; let f := ma 1 0 6; let I := who s (.acas f); let addr := I.vval true 2
     QuireIssues s (.acas f) I ∧ 4 % 4 = 0 ∧ I.vOk 4 4 = true ∧ Full (I.srcV2 true 2 ++ I.srcGroup 4 4) ∧
       Agree I [addr, I.group 4 2, I.group 6 2] ∧ Aligned I 8 addr ∧ ReleaseDone s I 6 ∧
       Reaches s I true false (eachThread I addr fun i => .amo
         { kind := .acas, op := 0, w64 := true, v := BitVec.ofNat 64 (I.maj (I.group 6 2) i),
           cmp := BitVec.ofNat 64 (I.maj (I.group 4 2) i) })) ∧
    (let s := qt; let f := ma 0 0 5; let I := who s (.fatom f)
     QuireIssues s (.fatom f) I ∧ I.blk.node.det = false ∧ Agree I [I.vval true 2, I.group 4 1]) := by
  unfold QuireIssues Issues Full Agree Aligned ReleaseDone Reaches; decide +kernel

def sealedAt0 : State := qs.updPart 0 fun P => { P with seals := [{ base := 0, len := 65536, frames := [0], ctx := 0 }] }
/-- The bench with another leaf over its granule (R68), and what the accesses of a word meet there. -/
def leafed (leaf : Nat) (Q : Quire → Quire := id) : State := poke (qs Q) benchMid (leBytes 8 leaf)
def meeting (s : State) (write : Bool) (rs : List MemReq) : List (Option (Cause × Nat × Nat)) :=
  ((translateAll s (unitNow s) write rs).2.map fun x => match x.xl with
    | .fault c r l => some (c, r, l)
    | _ => none).eraseDups
def oneWrite : List MemReq := [{ key := 0, thread := 0, va := 0x1000, act := .wr [1] }]
def oneDigit : List MemReq := [{ key := 0, thread := 0, va := 0x1000, act := .wr [1], plain := true }]
/-- Siblings that differ, misaligned offsets, and what a translation may end in: no leaf, no right to write, a sealed region, a
digit byte on a page of kind TRIPLE. -/
theorem witness_MemoryTraps :
    (let s := qt (offsets 8); let f := mv 3 6; let I := who s (.ld f)
     QuireIssues s (.ld f) I ∧ (I.threads.filter fun t => (majority I.ter t (mvAddr f I)).isNone) ≠ []) ∧
    (let s := qs (offsets 4); let f := mv 3 6; let I := who s (.ld f)
     QuireIssues s (.ld f) I ∧ (I.threads.filter fun t => (majority I.ter t (mvAddr f I)).isNone) = [] ∧
       (offThreads I 8 (mvAddr f I)).headD 0 = 1) ∧
    (let s := qs (offsets 4); let f := mv 3 6; let I := who s (.ldt f)
     QuireIssues s (.ldt f) I ∧ ((elemKinds s I f false).filter fun x => I.maj (mvAddr f I) x.1 % mvEs f != 0) ≠ []) ∧
    meeting (leafed 0) true oneWrite = [some (.pageFault, 0, 1)] ∧ (meeting (leafed 0x2C5) true oneWrite).map (·.map (·.1)) = [some .protection] ∧
    (let s := sealedAt0; let x := translateAll s (unitNow s) true oneWrite
     meeting s true oneWrite = [none] ∧ (x.2.filter fun z => z.sealedAt x.1 0).length = 1) ∧
    (let s := leafed 0x2CF; let x := translateAll s (unitNow s) true oneDigit
     meeting s true oneDigit = [none] ∧ (x.2.filter fun z => z.sealedAt x.1 0).length = 0 ∧ (x.2.filter Located.notPlain).length = 1) := by
  unfold QuireIssues Issues; decide +kernel

theorem witness_FrontMemory :
    (let s := fs; let I := who s (.ldx xi)
     FrontIssues s (.ldx xi) I ∧ Full [I.srcX 1] ∧ Free [I.srcX 3] ∧
       ((I.xreg 1).val + xi.imm.signExtend 64).toNat % 8 = 0 ∧
       Reaches s I false true [{ key := 0, thread := 0, va := ((I.xreg 1).val + xi.imm.signExtend 64).toNat, act := .rd 8 }]) ∧
    (let s := fs; let I := who s (.stx xi)
     FrontIssues s (.stx xi) I ∧ Full [I.srcX 1, I.srcX 3] ∧
       Reaches s I true true [{ key := 0, thread := 0, va := ((I.xreg 1).val + xi.imm.signExtend 64).toNat,
                                act := .wr (leBytes 8 (I.xreg 3).val.toNat) }]) ∧
    (let s := fs; let f : XR := { f9 := 0x014, xb := 2, xa := 1, xd := 3 }; let I := who s (.atmx f)
     FrontIssues s (.atmx f) I ∧ Full [I.srcX 1, I.srcX 2] ∧ ReleaseDone s I (bits f.f9.toNat 2 3) ∧
       Reaches s I true true [{ key := 0, thread := 0, va := (I.xreg 1).val.toNat,
                                act := .amo { kind := .atom, op := bits f.f9.toNat 5 4, w64 := true, v := (I.xreg 2).val } }]) := by
  unfold FrontIssues Issues Full Free ReleaseDone Reaches; decide +kernel

/-- A translated read of one word reaches; and a line homed in the package is performed there. -/
def line0 (act : LaneAct) : LineReq :=
  { unit := .slot 0 0 0, pkg := 0, part := 0, ctx := 0, gpa := 0x100, ops := [{ key := 0, off := 56, act := act }], lvl := .u, op := 1,
    write := true }
theorem witness_LineRequest :
    PerformsHere qs (line0 (.rd 8)) (benchDpa 0x100) ∧ PerformsHere qs (line0 (.wr [1, 2])) (benchDpa 0x100) ∧
    ({ key := 0, off := 56, act := .rd 8 } : LaneOp).off + ({ key := 0, off := 56, act := .rd 8 } : LaneOp).len ≤ 64 ∧
    locate qs 0 0 0x2000000 true = none ∧
    (let r : LineReq := { line0 (.rd 8) with cnt := some 0 }
     PerformsHere qs r (benchDpa 0x100) ∧ PerformsHere (countLine qs r) r (benchDpa 0x100)) ∧
    (featureOn qs 0 11 = true ∧ (layoutOf qs 0 0).any (fun L => (quietRead qs 0 0 (L.paging.toNat + 0x2C) 2).2.isSome) = true ∧
      (countIn (Tab.get [] (qs.pkgOf 0).counters 0) 0 0).2.count < 256) := by unfold PerformsHere; decide +kernel

/-- Threads 0 and 2 on line 1, thread 1 on line 0: two requests, line 1 first (R161). -/
theorem witness_AccessIssued :
    (let x := fun (i g : Nat) => ({ req := { key := i, thread := i, va := g, act := .rd 4 }, xl := .ok g 0 false } : Located)
     (∀ y ∈ [x 0 64, x 1 8, x 2 72], y.req.thread = y.req.key) ∧ ([x 0 64, x 1 8, x 2 72].map fun y => y.req.key).Pairwise (· < ·) ∧
       (groupLines [x 0 64, x 1 8, x 2 72]).map (fun l => (l.line, l.ops.map (·.key))) = [(1, [0, 2]), (0, [1])]) := by decide +kernel

/-- What this package's controller has no second stage for is held there (R78). -/
theorem test_held_line : ((sendLine { s := qs } { line0 (.rd 8) with gpa := 0x2000000 }).s.held).length = 1 := by decide +kernel

theorem witness_StoreFrame :
    (∀ x ∈ storedAll (unitNow qs) 1 { s := qs } [line0 (.wr [1, 2])], x = (benchDpa 0x138, 2)) ∧
    outside 0 (storedAll (unitNow qs) 1 { s := qs } [line0 (.wr [1, 2])]) ∧
    (let w := (unitNow qs).who 0
     (cachedEnt (translate qs w 0x1000 false).1 w 0).isSome = true) ∧
    (match (walk qs 0 0 0 0x1234).2 with
     | .leaf _ p _ => locate qs 0 0 p true == some (.dev (benchDpa benchMid))
     | _ => false) = true := by
  unfold outside; decide +kernel

/-! ### The scratchpad, lines, fences and seals -/

def ms (hi : BitVec 4) (map : BitVec 1) : MS := { hi := hi, t := if map == 1 then 2 else 0, map := map, ea := 0, va := 1, data := 3 }
theorem witness_Scratch :
    (let s := qs (offsets 8); let f := ms 4 0; let I := who s (.sts f)
     QuireIssues s (.sts f) I ∧ ScratchReady s I f 4 1 true false) ∧
    (let s := qt (offsets 4); let f := ms 4 0; let I := who s (.lds f)
     QuireIssues s (.lds f) I ∧ I.vOk 1 1 = true ∧ I.groupOk 3 1 = true) ∧
    (let s := qs (offsets 4); let f := ms 0 0; let I := who s (.atoms f)
     QuireIssues s (.atoms f) I ∧ ScratchReady s I f 4 1 true true) := by
  refine ⟨?_, ?_, ?_⟩
  · refine ⟨?_, ?_, ?_, .inl rfl, ?_, ?_, ?_, ?_, ?_⟩
    case refine_7 => exact fun i hi => ⟨scratchAt (who (qs (offsets 8)) (.sts (ms 4 0))) (ms 4 0) 0 i, by revert i; decide +kernel⟩
    all_goals (repeat (first | unfold QuireIssues | unfold Issues | unfold Full | unfold Free | unfold Agree | unfold ScratchFree)
               decide +kernel)
  · unfold QuireIssues Issues; decide +kernel
  · refine ⟨?_, ?_, ?_, .inl rfl, ?_, ?_, ?_, ?_, ?_⟩
    case refine_7 => exact fun i hi => ⟨scratchAt (who (qs (offsets 4)) (.atoms (ms 0 0))) (ms 0 0) 0 i, by revert i; decide +kernel⟩
    all_goals (repeat (first | unfold QuireIssues | unfold Issues | unfold Full | unfold Free | unfold Agree | unfold ScratchFree)
               decide +kernel)

def pv : MV := { width := 0, sx := 0, sb := 2, ea := 0, va := 1, data := 0 }
theorem witness_Lines :
    (QuireIssues qs (.pref pv) (who qs (.pref pv)) ∧ (who qs (.pref pv)).vOk 1 1 = true ∧ Full (mvSrcs pv (who qs (.pref pv)))) ∧
    (QuireIssues qs (.clean pv) (who qs (.clean pv)) ∧ Agree (who qs (.clean pv)) [mvAddr pv (who qs (.clean pv))] ∧
      (let t := translateAll qs (who qs (.clean pv)) false (eachThread (who qs (.clean pv)) (mvAddr pv (who qs (.clean pv))) fun _ => .rd 1)
       verdict t.1 (who qs (.clean pv)) false false t.2 = .go)) := by
  unfold QuireIssues Issues Full Agree; decide +kernel

/-- A region of one large leaf's first page: s2 its base, s4 its length. -/
def qseal : State := qs fun Q => { Q with s := [(2, { val := 0 }), (4, { val := 65536 })] }
def mf : MF := { scope := 0, sb := 2, sl := 4 }
def sealed : State := qseal.updPart 0 fun P => { P with seals := [{ base := 0, len := 65536, frames := [0], ctx := 0 }] }
theorem witness_FencesAndSeals :
    QuireIssues qs (.fence { scope := 6, sb := 0, sl := 0 }) (who qs (.fence { scope := 6, sb := 0, sl := 0 })) ∧
    QuireIssues qs .pfence (who qs .pfence) ∧
    (QuireIssues qseal (.afence mf) (who qseal (.afence mf)) ∧ Full ((who qseal (.afence mf)).srcS2 2 ++ (who qseal (.afence mf)).srcS2 4) ∧
      ((who qseal (.afence mf)).s2 2).toNat + ((who qseal (.afence mf)).s2 4).toNat ≤ 2 ^ 52) ∧
    (let s := waits qs (.fence 6 false 0 0); WaitsFor s (unitNow s) (.fence 6 false 0 0) ∧ outstanding s (unitNow s).u (unitNow s).mask = []) ∧
    (QuireIssues qseal (.seal mf) (who qseal (.seal mf)) ∧
      (match sealCheck qseal (who qseal (.seal mf)) 0 65536 with
       | .inr _ => true
       | .inl _ => false) = true) ∧
    (let s := waits qseal (.seal 0 65536); WaitsFor s (unitNow s) (.seal 0 65536) ∧
      (match sealCheck s (unitNow s) 0 65536 with
       | .inr (_, fs) => !writesInFlight s 0 fs
       | .inl _ => false) = true) ∧
    (QuireIssues sealed (.unseal mf) (who sealed (.unseal mf)) ∧ (sealNamed sealed 0 0 65536).isSome = true) ∧
    (let s := waits sealed (.unseal 0 65536); WaitsFor s (unitNow s) (.unseal 0 65536) ∧ (sealNamed s 0 0 65536).isSome = true) := by
  unfold QuireIssues Issues Full WaitsFor; decide +kernel

/-- A load of the front-end waits for host memory; and a quire's store is held at the second stage. -/
def hostBusy : State :=
  { qs with
    ops := [(5, { unit := .slot 0 0 0, dest := .none, ter := false, keys := [0], waiting := 0, lanes := 1 })]
    msgs := [(6, { req := line0 (.wr [1]), tgt := .host 0x1000, state := .flying })] }
theorem witness_FencesEnd :
    (∀ sc ∈ [5, 7], fencePending qs (unitNow qs) sc = false) ∧
    matWrites hostBusy (unitNow hostBusy).u hostBusy.nextId = false ∧ hostBusy.held = [] ∧
    (∀ m ∈ hostBusy.msgs, m.2.tgt = .host 0x1000) ∧ (∀ e ∈ hostBusy.ops, e.2.waiting = 0) ∧
    ((unitNow qseal).s2 2).toNat < 2 ^ 52 := by decide +kernel

/-- Lines that host memory holds: with the link up a request waits, with it down it fails (R109). -/
def hostMapped (up : Bool) : State :=
  let s := qs.updPkg 0 fun p => { p with linkUp := up, layout := Tab.modify p.layout 0 fun L => { L with s2Limit := 2 } }
  { s with mem := Memory.writeBytes s.mem 8 (leBytes 8 0x7) }
theorem witness_HostLines :
    (∀ up ∈ [true, false], locate (hostMapped up) 0 0 0x2000000 true = some (.host 0)) ∧
    ((hostMapped true).pkgOf 0).linkUp = true ∧ ((hostMapped false).pkgOf 0).linkUp = false ∧ (hostMapped false).held = [] := by
  decide +kernel

/-- R192, Aliases: x stands at offset 0 of pages 1 and 2; lane 0 (A) stores 1 through page 1, lane 1 (B) has a view of
page 2. B may read 0 until A and then B have executed AFENCE over x; A's alone, or B's alone, does not suffice. -/
def viewB : View := { thread := .lane 0 0 1, part := 0, ctx := 0, vpage := 2, line := 0, bytes := List.replicate 64 0 }
def stored : View := viewB.store (.lane 0 0 0) (some (0, 0x10000)) 0 1
theorem test_alias_litmus :
    stored.bytes[0]? = some 0 ∧ (stored.fence [.lane 0 0 0] 0x10000 64).bytes[0]? = some 0 ∧
    ((stored.fence [.lane 0 0 1] 0x20000 64).fence [.lane 0 0 0] 0x10000 64).bytes[0]? = some 0 ∧
    ((stored.fence [.lane 0 0 0] 0x10000 64).fence [.lane 0 0 1] 0x20000 64).bytes[0]? = some 1 := by decide +kernel
theorem witness_AliasReads :
    (0 : Nat) < viewB.bytes.length ∧ 63 < viewB.bytes.length ∧ viewB.vpage = 0x2003F >>> 16 ∧ viewB.vpage ≠ 0x1003F >>> 16 ∧
    within 0x10000 64 0x1003F = true ∧ within 0x20000 64 (viewB.addr 63) = true ∧ within 0x20000 64 (viewB.addr 0) = true ∧
    stored.newer = [] ++ [{ off := 0, val := 1, writer := .lane 0 0 0, va := 0x10000 }] ∧ qs.views = [] := by decide +kernel

/-- A returned load: of a v register of the quire, and of an x register. -/
def returned (u : UnitId) (d : Dest) : State :=
  { qs with ops := [(5, { unit := u, dest := d, ter := false, keys := [0, 95], waiting := 0, got := [(0, [0x80]), (95, [1])] })],
            subject := { qs.subject with idx := 5 } }
theorem witness_LoadReturn :
    (Tab.find (returned (.slot 0 0 0) (.vreg 63 1 1 true)).ops 5).any (fun op => op.waiting == 0 && op.errs == []) = true ∧
    (Tab.find (returned (.slot 0 0 0) (.vreg 63 1 1 true)).quires (quireKey 0 0)).isSome = true ∧
    (Tab.find (returned (.front 0) (.xreg 1 true false)).blocks 0).isSome = true := by decide +kernel

/-- A signed byte 0x80 fills its lane with ones above it; a lane that the load does not cover is kept (R163). -/
theorem test_load_return :
    let s := ran (returned (.slot 0 0 0) (.vreg 63 1 1 true)) .loadReturn
    lane s 63 0 = 0xFFFFFF80 ∧ lane s 63 95 = 1 ∧ lane s 63 1 = 0 := by decide +kernel


/-! ## MAT -/

/-- A tile map of the bench's scratchpad: base, pitch in steps of 32 bytes, format, row and column codes (R287). -/
def tmap (base pitch fmt rows cols : Nat) : DWord :=
  BitVec.ofNat 64 (base + pitch <<< 19 + fmt <<< 27 + rows <<< 32 + cols <<< 34)

/-- Maps 1 to 4: BF16 16 by 16, FP32 16 by 16, S8 16 by 32, S8 32 by 16; map 5: RES. Tile 1 is RES-OPEN. -/
def qm (Q : Quire → Quire := id) : State :=
  (qs Q).updCore 0 fun c => { c with
    t := [(1, tmap 0 1 0 0 0), (2, tmap 1024 2 2 0 0), (3, tmap 2048 1 3 0 1), (4, tmap 4096 1 3 1 0), (5, tmap 6144 2 5 0 0)]
    tiles := [(1, { resOpen := true })], accUsed := 2 }

def mm (ad ta tb : BitVec 4) (sel : BitVec 5) (vs : BitVec 7) : MM := { ad := ad, ta := ta, tb := tb, sel := sel, vs := vs }

theorem witness_MatMultiply :
    (let f := mm 0 1 1 0 0; let I := who qm (.mmab f)
     MatReady qm (.mmab f) I f.ad ∧ OperandsOk qm I f (if I.qr.mtrip == 2 then 3 else 1) 16 16 16 16 0 ∧
       (tileNow qm I f.ad).resOpen = false) ∧
    (let f := mm 0 3 4 31 0; let I := who qm (.mmas8 f)
     MatReady qm (.mmas8 f) I f.ad ∧ OperandsOk qm I f 1 16 32 32 16 3 ∧ scaleOk I f = true ∧ I.qr.mtrip = 0 ∧
       (tileNow qm I f.ad).trip = false ∧ Full (scaleSrcs f I)) ∧
    (let f := mm 1 0 0 4 63; let I := who qm (.mcvt f)
     MatReady qm (.mcvt f) I f.ad ∧ f.sel ≠ 31 ∧ scaleOk I f = true ∧ (tileNow qm I f.ad).resOpen = true ∧ Full (scaleSrcs f I)) := by
  unfold MatReady QuireIssues Issues OperandsOk Full; decide +kernel

theorem witness_MatMoves :
    (let f := mm 15 0 0 0 0; MatReady qm (.mzero f) (who qm (.mzero f)) f.ad) ∧
    (let f := mm 0 2 0 0 0; let I := who qm (.mlda f)
     MatReady qm (.mlda f) I f.ad ∧ (moveRegion (I.tmap qm 2)).ok I.blk.scratchLen [2, 5] = true ∧ tmFmt (I.tmap qm 2) = 2 ∧
       (tileNow qm I f.ad).resOpen = false) ∧
    (let f := mm 1 5 0 0 0; let I := who qm (.msta f)
     MatReady qm (.msta f) I f.ad ∧ (moveRegion (I.tmap qm 5)).ok I.blk.scratchLen [2, 5] = true ∧
       (tileNow qm I f.ad).resOpen = true) := by
  unfold MatReady QuireIssues Issues; decide +kernel

theorem witness_MatDrains :
    (let f := mm 0 0 0 0 56; let I := who qm (.mdrv f)
     MatReady qm (.mdrv f) I f.ad ∧ I.vOk 56 8 = true ∧ Free ((List.range 8).map fun i => I.srcV (56 + i))) ∧
    (let f := mm 0 2 0 0 0; let I := who qm (.mdrs f)
     MatReady qm (.mdrs f) I f.ad ∧ (drainRegion qm I f {}).ok I.blk.scratchLen [0, 1, 2, 3, 4, 5, 6] = true ∧
       (drainRegion qm I f (tileNow qm I f.ad)).ok I.blk.scratchLen [0, 1, 2, 3, 4, 5, 6] = true ∧
       tmFmt (drainRegion qm I f (tileNow qm I f.ad)).m ≠ 5) ∧
    (let f := mm 1 0 0 0 0; MatReady qm (.msig f) (who qm (.msig f)) f.ad) := by
  unfold MatReady QuireIssues Issues Free; decide +kernel

theorem witness_MatMode :
    (let f := mm 0 0 0 0 2; QuireIssues qm (.mtrip f) (who qm (.mtrip f)) ∧
      (who qm (.mtrip f)).mask = (who qm (.mtrip f)).qr.live) := by
  unfold QuireIssues Issues; decide +kernel

theorem witness_Msigx :
    let f := mm 0 0 0 1 2; let I := who qm (.msigxCmp f)
    QuireIssues qm (.msigxCmp f) I ∧ I.mask = I.qr.live ∧ Full (I.srcS2 2) ∧ (I.s2 2).toNat % 8 = 0 ∧
    (∀ m ∈ (qm.coreOf I.blk.core).matQ, m.b = I.b → m.q = I.q → m.fold = none) ∧
    Reaches qm I false true [{ key := 0, thread := I.threads.headD 0, va := (I.s2 2).toNat, act := .rd 8 }] := by
  unfold QuireIssues Issues Full Reaches; decide +kernel

/-- The range of R208 at both ends, and just past it. -/
theorem test_residue_range :
    crt (resAdd 0 8257919).toNat = 8257919 ∧ crt (resAdd 0 (-8257920)).toNat = -8257920 ∧ crt (resAdd 0 8257920).toNat = -8257920 := by
  decide +kernel

/-- One MAT instruction at the head of the core's queue. -/
def queued (m : MatOp) : State :=
  { (qm.updCore 0 fun c => { c with matQ := [m] }) with subject := { qm.subject with idx := 0 } }
def sigx (d : List Byte) (errs : List (Nat × Note) := []) : State :=
  { queued { b := 0, q := 0, sl := 0, msigx := some (5, 64, false) } with
    ops := [(5, { unit := .slot 0 0 0, dest := .msigx 64 7, ter := false, keys := [0], waiting := 0, got := [(0, d)], errs := errs })] }
def drain : MatOp :=
  { b := 0, q := 0, sl := 0, tile := some (15, {}), used := some (15, true), scratch := [(0, 1)], vregs := [(3, [1])],
    fold := some [1], stat := some (2, 1, 1), ovf := 4 }
theorem witness_MatrixRetirement :
    ((queued drain).coreOf 0).matQ[0]? = some drain ∧ drain.msigx = none ∧ drain.failed = false ∧
    (∀ x ∈ ((queued drain).coreOf 0).matQ.take 0, x.msigx ≠ none) ∧ ((queued drain).coreOf 0).badSram = [] ∧
    (Tab.find (queued drain).quires (quireKey 0 0)).isSome = true ∧ (Tab.find (queued drain).blocks 0).isSome = true ∧
    ((queued { drain with failed := true }).coreOf 0).matQ.any (·.failed) = true ∧
    (unitStrand (queued { drain with failed := true }) (.slot 0 0 0)).isSome = true ∧
    (Tab.find (sigx [7]).ops 5).any (fun o => o.waiting == 0 && o.errs == [] && gotBytes o.got 0 == 7) = true ∧
    (Tab.find (sigx [8]).ops 5).any (fun o => gotBytes o.got 0 != 7) = true ∧
    (Tab.find (sigx [] [(0, memNote 1 0 0)]).ops 5).any (fun o => o.errs != []) = true ∧
    Tab.find (queued { b := 0, q := 0, sl := 0, msigx := some (5, 64, false) }).ops 5 = none := by decide +kernel

/-- A retired drain: its v register, its scratchpad byte, its USED bit, and its overflow flag (R302, R326). -/
theorem test_retired_drain :
    let s := ran (queued drain) .matRetire
    lane s 3 0 = 1 ∧ Memory.read (s.coreOf 0).sram 0 = 1 ∧ (s.coreOf 0).accUsed = 0x8002 ∧
    (Tab.find s.blocks 0).map (·.ovf) = some 4 := by decide +kernel

/-- A failed instruction leaves its slot a report of core SRAM (R295). -/
theorem test_failed_mat :
    ((unitStrand (ran (queued { b := 0, q := 0, sl := 0, failed := true }) .matRetire) (.slot 0 0 0)).map fun c => c.due.map (·.cause)) =
      some [.memerr] := by decide +kernel

/-! ## ENG -/

def ee (q : BitVec 4) : EE := { q := q, ra := 2, rb := 4, rc := 6, rd := 8 }
/-- The node names one copy engine, and the partition owns it. -/
def qe (Q : Quire → Quire := id) : State :=
  (qs Q).updPkg 0 fun p => { p with layout := Tab.modify p.layout 0 fun L => { L with copyEng := 1, collEng := 1 } }
def fe : EE := { q := 8, ra := 2, rb := 4, rc := 6, rd := 0 }
theorem witness_EngineWords :
    (let I := who qe (.cpy (ee 11))
     Issues qe (.cpy (ee 11)) I ∧ (∀ r ∈ [(ee 11).ra, (ee 11).rb, (ee 11).rc, (ee 11).rd], I.pairOk r.toNat = true) ∧
       Full ([(ee 11).ra, (ee 11).rb, (ee 11).rc, (ee 11).rd].flatMap fun r => I.src64 r.toNat) ∧
       (engWords qe I (ee 11)).head?.map (fun x => x.2.2.2.1) = some true ∧ tagOk (I.r64 8) = true ∧
       (Tab.get [] I.blk.pairs 11).length < 16) ∧
    (let s := atS qe; let I := who s (.migr fe)
     Issues s (.migr fe) I ∧ I.st.level ≠ .u ∧ (engWords s I fe)[9]?.map (fun x => x.2.2.2.1) = some true) ∧
    (let s := atS qe; let f : EE := { q := 0, ra := 2, rb := 0, rc := 0, rd := 0 }; let I := who s (.carb f)
     Issues s (.carb f) I ∧ I.st.level ≠ .u ∧ I.pairOk 2 = true ∧ Full (I.src64 2) ∧ (I.r64 2).toNat < 65536) ∧
    (let I := who qe (.cwait (ee 15))
     Issues qe (.cwait (ee 15)) I ∧ (∀ r ∈ [2, 4, 6, 8], I.pairOk r = true) ∧ Free ([2, 4, 6, 8].flatMap I.src64)) := by
  unfold Issues Full Free; decide +kernel

/-- An operation of the bench's block, as item 5 of the engines. -/
def eop : EngOp := { unit := .slot 0 0 0, b := 0, part := 0, ctx := 0, level := .u, pkg := 0, eng := 0, q := 8, opc := 0,
                     ra := 0x102000, rb := 0x101000, rc := 64 }
def engs (l : Tab EngOp) (J : Subject := { idx := 5 }) : State :=
  { qe with engs := l, subject := J, now := 1000, blocks := Tab.modify qe.blocks 0 fun B => { B with pairs := [(8, [{ op := 5 }])] } }
/-- A copy that a hole in the table stops. -/
def lost : EngOp := { eop with rb := 0x10000000000, phase := .running }
theorem witness_EngineSteps :
    (Tab.find (engs [(5, eop)]).engs 5 = some eop ∧ eop.phase = .queued ∧ engineLoad (engs [(5, eop)]) 0 0 < 8 ∧
      engineBarred (engs [(5, eop)]) 0 0 false = false ∧
      unperformed (engs [(5, eop)]) eop.unit (BitVec.allOnes 96) 5 7 = false ∧ commandBad (engs [(5, eop)]) 5 eop = false ∧
      commandBad ((engs [(5, eop)]).updBlock 0 fun B => { B with badQ := [(8, 0, 0)] }) 5 eop = true ∧ engHeld (engs [(5, eop)]) 5 = false) ∧
    (match (engRun (engs [(5, { eop with phase := .running })]) { eop with phase := .running }).2.2 with
     | .ends x => x.status == 0
     | .stops _ => false) = true ∧
    (match (engRun (engs [(5, lost)]) lost).2.2 with
     | .stops (.fault c _ _) => c == 1
     | _ => false) = true ∧
    eop.tag.getLsbD 63 = false ∧ (Tab.find (engs [(5, eop)]).blocks 0).isSome = true ∧
    (let e := { eop with phase := .ended }; engHeld (engs [(5, e)]) 5 = false ∧ engPending (engs [(5, e)]) 5 = false) := by decide +kernel

/-- A FILL of two lines from an odd place, of the pattern 0x0201; and a copy whose source is read. -/
def filling : EngOp := { eop with opc := 7, ra := 0x102004, rb := 0x0201, rc := 100 + 1 <<< 42, phase := .running }
def putting (s : State) (e : EngOp) (k : Nat) (ks : List Nat) : Bool :=
  match e.put k with
  | some p =>
    let bs := (k :: ks).flatMap fun j => ((e.put j).map (·.bytes)).getD []
    p.pad.isNone && (match engXlate s e p.at_ true with
      | .ok s1 (g, false) => (match locate s1 e.pkg e.part g true with
        | some (.dev d) => decide (bs ≠ [] ∧ g % 64 + bs.length ≤ 64 ∧ d >>> 44 = e.pkg ∧ d % 64 = g % 64) && !isWindow (d / 64 * 64) &&
          (engReach s1 e p.at_ g bs.length true).isNone &&
          (List.range 2).all fun u => (unitFault (l2Fill s1 e.pkg e.part (g / 64) (d / 64)) e.pkg e.part (g / 64) (d / 64) u).isNone
        | _ => false)
      | _ => false)
  | none => false
theorem witness_EngineData :
    (let s := engs [(5, filling)]
     filling.plan = none ∧ (filling.put 0).isSome = true ∧ fillWidth filling.rc = 2 ∧ putting s filling 0 [1] = true ∧
       (match (engRun s filling).2.2 with
        | .ends _ => true
        | .stops _ => false) = true) ∧
    (let e := { eop with phase := .running }
     let s := engPiece (engPiece (poke (engs [(5, e)]) 0x101000 (List.replicate 64 7)) 5 0) 5 0
     (Tab.find s.engs 5).any (fun e => e.plan.isNone && (e.put 0).isSome) = true) := by decide +kernel

/-- R126: the bytes of that FILL at both ends, and the ones beside them. -/
theorem test_engine_fill :
    let t := ran (engs [(5, filling)]) .engineCompletion
    [0x102003, 0x102004, 0x102005, 0x102067, 0x102068].map (fun a => Memory.read t.mem (benchDpa a)) = [0, 1, 2, 2, 0] := by decide +kernel

/-- R117: of a copy of two lines, once the first is read, the second 8-byte element is moved first, and the first stands as it
was. -/
theorem test_engine_piece :
    let e := { eop with rc := 128, phase := .running }
    let s := poke (engs [(5, e)]) 0x101000 (List.replicate 128 7)
    let t := engPiece (engPiece (engPiece s 5 0) 5 0) 5 3
    Memory.read t.mem (benchDpa 0x102008) = 7 ∧ Memory.read t.mem (benchDpa 0x102000) = 0 ∧
    (Tab.find t.engs 5).map (·.early) = some [1] := by decide +kernel

/-- R126: a CPY of 128 bytes whose destination is 64 bytes above its source moves like memmove. -/
theorem test_engine_overlap :
    let e := { eop with ra := 0x101040, rc := 128, phase := .running }
    let s := poke (engs [(5, e)]) 0x101000 (List.replicate 64 7 ++ List.replicate 64 8)
    let t := ran (engPiece (engPiece (engPiece (engPiece s 5 0) 5 0) 5 2) 5 1) .engineCompletion
    (Memory.read t.mem (benchDpa 0x101040), Memory.read t.mem (benchDpa 0x101080)) = (7, 8) := by decide +kernel

def popping : State :=
  let s := engs [] { idx := 0, sub := 12 }
  { s with blocks := Tab.modify s.blocks 0 fun B =>
      { B with pairs := [(8, [{ op := 5, record := some {} }])], pops := [{ unit := .slot 0 0 0, q := 12, dests := [2, 4, 6, 8], poll := false }] } }
def migr : EngOp := { eop with opc := 12, phase := .migrDrain, oldFrame := 16 }
theorem witness_PopsAndSweeps :
    (Tab.find popping.blocks 0).any (fun B => (B.pops.find? fun p => p.q == 12).isSome &&
      ((Tab.get [] B.pairs 8).head?.bind (·.record)).isSome) = true ∧
    (engHeld (engs [(5, migr)]) 5 = false ∧ writesInFlight (engs [(5, migr)]) 0 [16] = false) ∧
    (let B := (Tab.find popping.blocks 0).getD {}
     let p : PopWait := { unit := .slot 0 0 0, q := 12, dests := [2, 4, 6, 8], poll := true }
     B.badQ = [] ∧ { B with badQ := [(12, 0, 0)] }.badQ ≠ [] ∧ (12, 0, 0) ∈ { B with badQ := [(12, 0, 0)] }.badQ ∧ p.poll = true ∧
       Tab.get [] ({ B with pairs := [] } : Block).pairs 8 = []) ∧
    (let s := engs [(5, migr)]
     isSealed s 0 migr.rb.toNat = false ∧ isSealed (s.updPart 0 fun P => { P with seals := [{ base := 0x100000, len := 65536, frames := [migr.rb.toNat >>> 16], ctx := 0 }] }) 0
       migr.rb.toNat = true) ∧
    (let s := { qe with sweeps := [(5, { part := 0, kind := .part })], subject := { idx := 5 } }
     (Tab.find s.sweeps 5).any (fun w => sweepDue s 5 w) = true) := by decide +kernel

/-- The last line of a page that MIGR copies from frame 16 to frame 17, its leaf at 0x40000; and from a hole. -/
def lastLine : EngOp := { migr with sent := 1023, ra := 0x100000, rb := 0x110000, leaf := benchMid }
theorem witness_MigrationCopies :
    (let s := engs [(5, lastLine)]
     match migrLines s lastLine with
     | (s1, n, none) => n == 1024 && (match migrLeaf s1 lastLine (fun v => v - bits v 16 36 <<< 16 + lastLine.rb.toNat) with
       | .inl _ => true
       | .inr _ => false)
     | _ => false) = true ∧
    (let e := { lastLine with oldFrame := 2 ^ 20 }
     match migrLines (engs [(5, e)]) e with
     | (_, _, some (.held _ _)) => true
     | (_, _, some (.fails _)) => true
     | _ => false) = true := by decide +kernel

/-- Two ranks of a ring of two: FP32, one element each, staging at 0x104000 and 0x105000, buckets at 0x106000 and 0x107000. -/
def ring2 (path : Nat) : List RingEnt :=
  [{ bucket := 0x106000, stage := 0x104000, engine := 0, path := path, serves := some (0, 0) }, { bucket := 0x107000, stage := 0x105000, engine := 0, path := path, serves := some (0, 0) }]
def coll (rank path : Nat) (ph : EngPhase) : EngOp :=
  { eop with opc := 8, phase := ph, onColl := true, ring := ring2 path, started := rank + 1,
             coll := { op := 0, fmt := 0, n := 2, rank := rank, e := 2, ready := 0x103000, timeout := 9 } }
def readsWrites (s : State) (e : EngOp) (w : List (Nat × List Byte)) : Bool :=
  match engRead s e e.coll.ready 8 with
  | .ok s1 l => decide (e.coll.thresh.toNat ≤ ofLe l) && (match engXlate s1 e e.coll.ready false with
    | .ok t x => (match engWrite (joinAt t (.eng 5) x.1 8) e w with
      | .ok _ _ => true
      | .no _ _ => false)
    | .no _ _ => false)
  | .no _ _ => false
def firstSend (s : State) (e : EngOp) : Bool :=
  match engRead s e (chunkAt e (sendChunk e.coll 0)) (chunkLen e.coll * elemBytes e.coll) with
  | .ok s1 l => (match engWrite s1 e [((e.ring.getD (rightRank e.coll) {}).stage + 64,
        if reducing e.coll 0 then wordBytes (widen e.coll l) else l)] with
    | .ok _ _ => true
    | .no _ _ => false)
  | .no _ _ => false
def sendTold (s : State) (e : EngOp) : Bool :=
  match engWrite s e [((e.ring.getD (rightRank e.coll) {}).stage, leBytes 8 (e.sent + 1))] with
  | .ok _ _ => true
  | .no _ _ => false
theorem witness_Collectives :
    readsWrites (engs [(5, coll 0 0 .collReady)]) (coll 0 0 .collReady) [(0x104000, leBytes 16 0)] = true ∧
    (let s := engs [(5, coll 0 0 .collExch), (6, coll 1 0 .collExch)]
     (partnerOf s 5 (coll 0 0 .collExch) true).map (·.1) = some 6 ∧ sameColl (coll 0 0 .collExch).coll (coll 1 0 .collExch).coll = true) ∧
    (linkOf (coll 0 0 (.collStep 0)) 0 = none ∧ 0 < collSteps (coll 0 0 (.collStep 0)).coll ∧
      firstSend (engs [(5, coll 0 0 (.collStep 0))]) (coll 0 0 (.collStep 0)) = true) ∧
    (let e := { coll 0 0 (.collStep 0) with mid := true }
     engHeld (engs [(5, e)]) 5 = false ∧ e.sent < collSteps e.coll ∧ e.sent ≤ e.recvd ∧ engPending (engs [(5, e)]) 5 = false ∧
       sendTold (engs [(5, e)]) e = true) ∧
    (let e := { coll 0 1 (.collStep 0) with sent := 1, arrived := 1 }
     (collRecv (engs [(5, e)] { idx := 5, flag := true }) 5 e).isSome = true) ∧
    (let s := engs [(5, coll 0 0 .collExch), (6, coll 1 0 .collExch)]
     elderWaits s (coll 0 0 .collExch) true = false ∧ elderWaits s (coll 1 0 .collExch) false = false ∧
       peerOwes (engs [(5, coll 0 0 .collExch)]) 5 (coll 0 0 .collExch) = true) ∧
    (let e := coll 0 0 .collExch
     e.collBusy = true ∧ e.coll.timeout ≠ 0 ∧ e.since + 100 * e.coll.timeout < (engs [(5, e)]).now) := by decide +kernel

/-- Rank 0 of two ranks sends its chunk 1 first, and receives chunk 0: (i − s − 1) mod N and (i − s − 2) mod N (R138). -/
theorem test_ring_chunks :
    sendChunk (coll 0 0 .queued).coll 0 = 1 ∧ recvChunk (coll 0 0 .queued).coll 0 = 0 ∧
    sendChunk { (coll 0 0 .queued).coll with n := 4, rank := 1 } 2 = 2 := by decide +kernel


/-! ## Waits, selection and gates -/

theorem witness_WaitsEnd :
    (let s := waits qs (.qpush 1 5); WaitsFor s (unitNow s) (.qpush 1 5) ∧ (queueOf s 0 0 1).length < 16) ∧
    (let s := waits qs (.token 5); WaitsFor s (unitNow s) (.token 5) ∧ (unitNow s).blk.front.done = false) ∧
    (let s := waits fs (.dqpush 0 5); WaitsFor s (unitNow s) (.dqpush 0 5) ∧ (queueOf s 0 0 0).length < 16) ∧
    (let s := waits (qs fun Q => { Q with q0 := [9] }) (.qpop 0 2 0 [none, none]); WaitsFor s (unitNow s) (.qpop 0 2 0 [none, none]) ∧
      popEarlier (unitNow s) 0 0 = false ∧ headBad s 0 0 0 = false ∧ queueOf s 0 0 0 = [9]) ∧
    (let s := waits (fs id fun B => { B with q1 := [9] }) (.btok [none]); WaitsFor s (unitNow s) (.btok [none]) ∧ headBad s 0 0 1 = false ∧ (unitNow s).blk.q1 = [9]) ∧
    (let s := waits (qx none) .xacq; WaitsFor s (unitNow s) .xacq ∧ (Tab.get {} (unitNow s).blk.locks 0).holder = none ∧
      seeksLock s 0 (partnerQuire 0) = false) ∧
    (let s := { qs id (fun B => { B with locks := [(0, { holder := some 0, stall := 65536 })] }) with subject := { idx := 0, sub := 0 } }
     (Tab.find s.blocks 0).any (fun B => (Tab.get {} B.locks 0).holder == some 0 && decide (65536 ≤ (Tab.get {} B.locks 0).stall)) = true ∧
       (Tab.find s.quires (quireKey 0 0)).any (fun Q => !Q.s0.free) = true ∧
       (unitStrand s (.slot 0 0 0)).any (fun st => !gatePerformed s st.wait) = true) := by
  unfold WaitsFor; decide +kernel

theorem witness_WaitsEnd_more :
    (let s := { qs (fun Q => { Q with arrival := some 1 }) with subject := { idx := 0, sub := 1 } }
     barrierParts s 0 1 = [0] ∧ ∀ k ∈ barrierParts s 0 1, (Tab.get {} s.quires k).arrival = some 1 ∧ arrivalPending s k 1 = false) ∧
    (let s := waits (waitb [0]) (.waitb true 0 0)
     WaitsFor s (unitNow s) (.waitb true 0 0) ∧ (nodeOf s 0 0).any (fun n => n.bits.contains 0) = true) ∧
    (let s := (waits (waitb []) (.waitb true 0 0)).updPart 0 fun P => { P with nodes := Tab.modify P.nodes 0 fun n => { n with failed := [0] } }
     WaitsFor s (unitNow s) (.waitb true 0 0) ∧ (nodeOf s 0 0).any (fun n => bitLost s 0 0 n 0) = true) ∧
    (let s := (waits (joining 1 3) (.waitj 1 4)).updPkg 0 fun p => { p with cyc := [(0, 5000000)] }
     WaitsFor s (unitNow s) (.waitj 1 4) ∧ 4 < coreCycles s (unitNow s).blk.core ∧ ((unitNow s).qr.joinRec 1).isSome = true ∧
       (unitNow s).u = .slot (unitNow s).b (unitNow s).q (unitNow s).sl ∧ (unitNow s).sl < 2) ∧
    (let s := (waits qs (.waitev 1 4)).updPart 0 fun P => { P with events := [{ ctx := 0, cls := 1, vals := [(none, 7)] }] }
     WaitsFor s (unitNow s) (.waitev 1 4) ∧ (takeEvent (s.partOf 0).events 0 1 (unitNow s).u).isSome = true) := by
  unfold WaitsFor; decide +kernel

/-- A clause of one NOP at the head of the text, in a text section that the loader placed. -/
def atHeader : State :=
  (poke (updStrand qs (.slot 0 0 0) fun c => { c with pc := BitVec.ofNat 64 benchText, left := 0 }) benchText
    (leBytes 4 0xD0000001 ++ leBytes 4 0)).updPart 0 fun P => { P with texts := [{ ctx := 0, base := benchText, size := 64 }] }
theorem witness_ClauseSelect :
    (match selection atHeader (.slot 0 0 0) with
     | .clause _ _ c h ws => decide (c = .sys ∧ h = 0xD0000001 ∧ ws = [0])
     | _ => false) = true ∧
    (kindClash atHeader (unitNow atHeader) 0xD0000001).2 = false ∧ portBusy atHeader 0 .sys = false ∧ portMay atHeader 0 .sys (.slot 0 0 0) = true ∧
    (unitStrand atHeader (.slot 0 0 0)).isSome = true := by decide +kernel

/-- A unit at a header h, its words ws behind it, in a text section of n bytes; and what checks 2, 4, 5 and 6 and the two of
level U find of it (R28). -/
def headed (h : Word) (ws : List Word) (n : Nat := 64) : State :=
  (poke atHeader benchText ((h :: ws).flatMap fun w => leBytes 4 w.toNat)).updPart 0 fun P =>
    { P with texts := [{ ctx := 0, base := benchText, size := n }] }
def headCheck (h : Word) (s : State) : List Bool :=
  let I := unitNow s
  match fetchWord s I (I.st.pc.toNat / 4 * 4), hdrCls h with
  | .ok s1 w, some c => [w == h && hdrFormed h && I.st.level == .u && !I.fe, clsAllowed I.fe c, inText s I (hdrN h),
      match fetchWords s1 I (I.st.pc.toNat + 4) (hdrN h) with
      | .ok _ l => l.dropLast.any (isTransfer c)
      | .no _ => true, hdrSp h && decide (I.blk.node.livecount ≤ hdrLive h), h.getLsbD 24 == I.ter, h.getLsbD 25 == I.blk.node.det]
  | _, _ => []
theorem witness_HeaderChecks :
    AtHeader atHeader (unitNow atHeader) ∧ hdrFormed 0xD0000000 = false ∧
    headCheck 0xD0000011 (headed 0xD0000011 [0]) = [true, false, true, false, false, true, true] ∧
    headCheck 0xD000000F (headed 0xD000000F [0] 60) = [true, true, false, false, false, true, true] ∧
    headCheck 0xD0000062 (headed 0xD0000062 [0, 0]) = [true, true, true, true, false, true, true] ∧
    headCheck 0xD000FF81 (headed 0xD000FF81 [0]) = [true, true, true, false, true, true, true] ∧
    headCheck 0xD1000001 (headed 0xD1000001 [0]) = [true, true, true, false, false, false, true] ∧
    headCheck 0xD2000001 (headed 0xD2000001 [0]) = [true, true, true, false, false, true, false] := by
  unfold AtHeader; decide +kernel
/-- A front-end at a header with TER set (check 3). -/
theorem witness_FrontHeader :
    clsAllowed (unitNow fs).fe .sys = true ∧ (unitNow fs).fe = true ∧ (0xD1000001 : Word).getLsbD 24 = true ∧ hdrFormed 0xD1000001 = true := by
  decide +kernel

/-- A gate with handle 0 whose entry 0 gives partition 0 every right, homed in package 0 (R399, R400). -/
def gateObj : Nat := 0x2200000
def qg (kind : GateKind) (mcount counter : Nat) (st : GateState) (g : GateOp → GateOp := id) : State :=
  let m := Memory.writeBytes qs.mem 0x2300000 (leBytes 8 (gateObj + 1))
  let m := Memory.writeBytes m gateObj ([0, BitVec.ofNat 8 mcount, 0, 0] ++ leBytes 4 0 ++ leBytes 8 counter ++ leBytes 8 0x100)
  let m := Memory.writeBytes m (gateObj + 0x20) (leBytes 8 0xF4000)
  let s := { qs with mem := m, subject := { qs.subject with idx := 5 }, now := 1000
                     gates := [(5, g { unit := .slot 0 0 0, kind := kind, part := 0, ctx := 0, atH := false, handle := 0, opnd := 3,
                                       msg := List.replicate 32 7, state := st })] }
  (waits s (.gate 5)).updPart 0 fun P => { P with gateDir := 0x2300001 }

def gop (s : State) : GateOp := (Tab.find s.gates 5).getD { unit := .front 0, kind := .sig, part := 0, ctx := 0, atH := false, handle := 0 }
theorem witness_GateOpen :
    let s := qg .sig 0 5 .sent
    GateOpen s ((issuerOf s (.slot 0 0 0) 0).getD nobody) (gop s) gateObj := by
  unfold GateOpen
  refine ⟨?_, ?_, ?_, ?_, ?_, ?_, ?_, ?_, ?_, ?_, ⟨0, ?_⟩, ?_, ?_, ?_⟩ <;> decide +kernel

theorem witness_GatePerforms :
    (Memory.wf (qg .sig 0 5 .sent).mem = true ∧ (gop (qg .sig 0 5 .sent)).kind = .sig) ∧
    (gop (qg .wait 0 3 .sent)).opnd.toNat ≤ (gateOf (qg .wait 0 3 .sent) gateObj).counter ∧
    (gateOf (qg .wait 0 2 .sent) gateObj).counter < (gop (qg .wait 0 2 .sent)).opnd.toNat ∧
    ((gop (qg .send 7 0 .sent)).msg.length = 32 ∧ (gateOf (qg .send 7 0 .sent) gateObj).mcount < 8) ∧
    ((gateOf (qg .take 8 0 .sent) gateObj).mcount = 8 ∧ (gateOf (qg .take 8 0 .sent) gateObj).mhead < 8 ∧
      isSealed (qg .take 8 0 .sent) 0 (gop (qg .take 8 0 .sent)).gpa = false) := by decide +kernel

theorem witness_GateSteps :
    (let s := qg .wait 0 0 (.answered [7])
     (issuerOf s (.slot 0 0 0) 0).any (fun I => I.st.wait == .gate 5) = true ∧ (gop s).state = .answered [7]) ∧
    (let s := { qg .wait 0 0 .waiting with now := 10000 }; (Tab.find s.pkgs 0).any (fun p => decide (p.refills < s.now / 10000)) = true) ∧
    (let s := qg .wait 0 0 .waiting (fun g => { g with timeout := 10, home := gateObj })
     (gop s).state = .waiting ∧ (gop s).timeout ≠ 0 ∧ (gop s).since + 100 * (gop s).timeout ≤ s.now ∧ gateMoves s (gop s) = false) ∧
    (let s := qg .wait 0 0 .tableFull (fun g => { g with since := 900 }); (gop s).since + 100 ≤ s.now) ∧
    (let s := qg .wait 0 0 .waiting (fun g => { g with home := 0x2400000 })
     gateAt s 0 0 = some gateObj ∧ gateObj ≠ (gop s).home ∧ (gop s).inTable = true) ∧
    (let s := qg .wait 0 0 .waiting (fun g => { g with home := gateObj })
     gateAt s s.subject.part 0 = some gateObj ∧ (gop s).inTable = true) ∧
    (let s := qg .wait 0 0 .heldMigr (fun g => { g with home := 0x2400000 })
     (gop s).state = .heldMigr ∧ gateAt s 0 0 = some gateObj ∧ gateObj ≠ (gop s).home) := by decide +kernel

/-- A gate homed on package 7, which the issuing package has fenced out (R106). -/
def farGate : State :=
  let s := qg .sig 0 5 .sent
  ({ s with mem := Memory.writeBytes s.mem 0x2300000 (leBytes 8 (7 * 2 ^ 44 + gateObj + 1)) }).updPkg 0 fun p => { p with fenced := [7] }
theorem witness_GateLost :
    (gop farGate).state = .sent ∧ (issuerOf farGate (gop farGate).unit 0).any (fun I => I.blk.pkg == 0) = true ∧
    gateAt farGate (gop farGate).part (gop farGate).handle = some (7 * 2 ^ 44 + gateObj) ∧
    remoteLost farGate 0 (gateHome (7 * 2 ^ 44 + gateObj)) = true ∧ isSealed farGate 0 0 = false := by decide +kernel

/-- HGSIG adds its operand and takes a number; COUNTER 5 and 3 make 8 (R400, R403). -/
theorem test_gate_signal :
    (gateOf (ran (qg .sig 0 5 .sent) .gate) gateObj).counter = 8 ∧ (gateOf (ran (qg .sig 0 5 .sent) .gate) gateObj).seq = 0x101 := by
  decide +kernel

def eg : EE := { q := 0, ra := 2, rb := 4, rc := 6, rd := 8 }
theorem witness_GateWords :
    (let I := who qs (.hgsend eg)
     Issues qs (.hgsend eg) I ∧ (∀ r ∈ [eg.ra, eg.rb, eg.rc, eg.rd], I.pairOk r.toNat = true) ∧
       Full ([eg.ra, eg.rb, eg.rc].flatMap fun r => I.src64 r.toNat) ∧ Free (I.src64 8) ∧ (I.r64 2).toNat < 65536 ∧ (I.r64 4).toNat % 32 = 0 ∧
       (I.r64 6).toNat < 2 ∧ (I.r64 4).toNat < 2 ^ 52 ∧ unperformed qs I.u I.mask qs.nextId 5 = false ∧ (match syncRead qs I (I.r64 4).toNat 32 with
         | .ok _ m => m.length == 32
         | .no _ => false) = true) ∧
    (let s := qs fun Q => { Q with s := [(4, { val := 3 })] }; let f : EE := { eg with rc := 0, rd := 0 }; let I := who s (.hgsig f)
     Issues s (.hgsig f) I ∧ I.r64 4 ≠ 0 ∧ (I.r64 4).toNat < 2 ^ 32 ∧ unperformed s I.u I.mask s.nextId 5 = false) ∧
    (let I := who qs (.hgwait eg); Issues qs (.hgwait eg) I ∧ (I.r64 6).toNat < 2 ^ 32) ∧
    (let I := who qs (.hgtake eg)
     Issues qs (.hgtake eg) I ∧ (match syncXlate qs I true (I.r64 4).toNat 32 with
       | .ok _ ps => !ps.isEmpty
       | .no _ => false) = true) ∧
    (let f : EE := { eg with rc := 0 }; let I := who qs (.hgqry f); Issues qs (.hgqry f) I ∧ Free ([f.rb, f.rd].flatMap fun r => I.src64 r.toNat)) := by
  unfold Issues Full Free; decide +kernel


/-! ## SYS, scheduling and pre-emption -/

def yy (f10 : BitVec 10) (a : BitVec 4) : YY := { f10 := f10, a := a, ra := 2, rd := 0 }
def yd (f10 : BitVec 10) : YY := { f10 := f10, a := 0, ra := 0, rd := 4 }
/-- At S, with v in s2 and s3. -/
def qv (v : DWord) : State :=
  atS (qs fun Q => { Q with s := [(2, { val := v.setWidth 32 }), (3, { val := v.extractLsb' 32 32 })] })

theorem witness_SystemRegisters :
    Issues qs .nop (who qs .nop) ∧
    (Issues qs (.mfsr (yd 0x000)) (who qs (.mfsr (yd 0x000))) ∧ (sysReg 0).any (fun R => R.quire && decide (R.right .u ≠ .no)) = true ∧
      srWaits qs (unitNow qs).u 0 qs.nextId = false ∧ Free ((who qs (.mfsr (yd 0x000))).srcWidth 64 4)) ∧
    (∃ n, (sysReg n).any (fun R => R.quire && decide (R.right .s = .rw)) = true ∧
      (sysReg n).any (fun R => (srWrite (qv 0) (who (qv 0) (.mtsr (yy (BitVec.ofNat 10 n) 0))) n 0).isSome && decide (0 < 2 ^ R.width)) = true) := by
  unfold Issues Free
  refine ⟨?_, ?_, ⟨0x010, ?_⟩⟩ <;> decide +kernel

/-- A drain of the quire that has not retired is ahead of the MFSR of SIGV, and none is (R195, R304). -/
def folding : State := (qs.updCore 0 fun c => { c with matQ := [{ id := 1, b := 0, q := 0, sl := 0, fold := some [1] }] })
def askedOf (n : Nat) : PendOp :=
  { unit := .slot 0 0 0, dest := .sreg 4 8 false false, ter := false, keys := [0], waiting := 1, sr := some n, srAt := 0x40000001 }
def asked (n : Nat) : State := { qs with nextId := 9, ops := [(5, askedOf n)] }
theorem witness_Mfsr :
    srWaits { folding with nextId := 9 } (unitNow folding).u 0x011 9 = true ∧
    (∀ n ∈ [0x011, 0x040, 0x04F, 0x009], (5, askedOf n) ∈ (asked n).ops ∧
      srWaits (asked n) (.slot 0 0 0) n 5 = false ∧ (issuerOf (asked n) (.slot 0 0 0) 0).isSome = true) ∧
    (∀ e ∈ qs.ops, sameUnit e.2.unit (unitNow qs).u = true → e.2.sr = some 0 → e.2.waiting = 0) := by decide +kernel

/-- A privileged word at U, a register that U may not write, and one that holds what is written (R202, R368). -/
theorem witness_SystemRights :
    (let I := who qs (.pgmap (yd 0)); Issues qs (.pgmap (yd 0)) I ∧ I.st.level = .u) ∧
    (let s := atS qs; let I := who s (.tlbinvS2 (yd 0)); Issues s (.tlbinvS2 (yd 0)) I ∧ I.st.level = .s) ∧
    (Issues qs (.mtsr (yd 0x028)) (who qs (.mtsr (yd 0x028))) ∧
      (sysReg 0x028).all (fun R => R.right (who qs (.mtsr (yd 0x028))).st.level != .rw) = true) ∧
    (∀ n ∈ [0x00B, 0x010, 0x011, 0x012, 0x018, 0x020, 0x021, 0x000, 0x008, 0x041], (srWrite qm (unitNow qm) n 1).isSome = true) ∧
    (qm.coreOf 0).accUsed.getLsbD ((unitNow qm).blk.abase + 1) = true ∧ (unitNow qm).threads ≠ [] ∧
    (let s := atS qs; let I := who s (.mtsr (yd 0x028))
     Issues s (.mtsr (yd 0x028)) I ∧ outstanding s I.u I.mask = [] ∧ ctxTaken s I.blk.part 7 = false) := by
  unfold Issues; decide +kernel

/-- PGUNMAP of a page that no valid leaf covers, and of one that a leaf does (R83). -/
theorem witness_Pgunmap :
    (match (walk (qv 0x10000000000) 0 0 0 0x10000000000).2 with
     | .fault _ _ _ => true
     | _ => false) = true ∧
    (match (walk (qv 0) 0 0 0 0).2 with
     | .leaf e p _ => (match placeStores (qv 0) (unitNow (qv 0)) 0 [] [(p, leBytes 8 (e - 1))] with
       | .ok _ _ => true
       | .no _ => false)
     | _ => false) = true := by decide +kernel

/-- Tables for the addresses from 2^34 on, whose first page is free, and a pool of one clean frame (R69, R80, R82). -/
def pool : State :=
  let s := poke (qv 0x400000001) (benchMid + 8) (leBytes 8 0x60001)
  let s := poke s 0x60000 (leBytes 8 0x70001)
  let s := poke s (benchRegion + 8) (leBytes 8 0x80000 ++ leBytes 4 1 ++ leBytes 4 0)
  poke s 0x80000 (leBytes 8 0x90001)
def pgd : YY := { yy 0 0 with rd := 4 }

/-- POOLHEAD, POOLCOUNT, and whether the frame of the entry at POOLHEAD is taken. -/
def poolReads (s : State) : Option (Nat × Nat × Bool) :=
  let I := unitNow s
  let a := 0x10000
  match walkRead s I 0x400000000 (a + 0x14) 4 with
  | .ok s2 head => (match walkRead s2 I 0x400000000 (a + 0x10) 4 with
    | .ok s3 count => (match walkRead s3 I 0x400000000 (a + 0x08) 8 with
      | .ok s4 p => (match walkRead s4 I 0x400000000 (p + 8 * head) 8 with
        | .ok s5 e => some (head, count, decide (head < count) && (match pgWalk pool (unitNow pool) 0x400000000 with
          | (_, .invalid _ place) => (match placeStores s5 I 0x400000000
                (if bitAt e 0 then [] else (List.range 1024).map fun j => (bits e 16 36 <<< 16 + 64 * j, List.replicate 64 0))
                [(place, leBytes 8 (bits e 16 36 <<< 16 + 512 + 0 + 1)), (a + 0x14, leBytes 4 (head + 1))] with
            | .ok _ _ => true
            | .no _ => false)
          | _ => false))
        | .no _ => none)
      | .no _ => none)
    | .no _ => none)
  | .no _ => none
/-- The page at 0 is mapped by a large leaf; at 2^40 a table is missing; at 2^34 only the page is. -/
theorem witness_Paging :
    (Issues (qv 0) (.pgmap pgd) (who (qv 0) (.pgmap pgd)) ∧
      (match (pgWalk (qv 0) (who (qv 0) (.pgmap pgd)) 0).2 with
       | .leaf _ _ _ => true
       | _ => false) = true) ∧
    (match (pgWalk (qv 0) (unitNow (qv 0)) 0x10000000000).2 with
     | .invalid l _ => decide (l < 3)
     | _ => false) = true ∧
    (match (pgWalk pool (unitNow pool) 0x400000000).2 with
     | .invalid l _ => decide (l = 3)
     | _ => false) = true ∧
    poolReads pool = some (0, 1, true) ∧ poolReads (qv 0x400000001) = some (0, 0, false) ∧
    (let s := qv 0x10000000000
     Issues s (.pgunmap (yy 0 0)) (who s (.pgunmap (yy 0 0))) ∧ outstanding s (who s (.pgunmap (yy 0 0))).u (who s (.pgunmap (yy 0 0))).mask = []) ∧
    (match (pgWalk (qv 0) (unitNow (qv 0)) 0).2 with
     | .leaf e p _ => (match placeStores (qv 0) (unitNow (qv 0)) 0 [] [(p, leBytes 8 (e - 1))] with
       | .ok _ _ => true
       | .no _ => false)
     | _ => false) = true := by unfold Issues; decide +kernel

theorem witness_Invalidations :
    (∀ p ∈ tlbinvOps (qv 0) (who (qv 0) (.tlbinvPage (yy 0 0))) (yy 0 0), p.2.1 = false → Issues (qv 0) p.1 (who (qv 0) p.1)) ∧
    (let s := qv 0
     Issues s .tlbinvCtx (who s .tlbinvCtx) ∧ Issues s .tlbinvPart (who s .tlbinvPart) ∧ outstanding s (unitNow s).u (unitNow s).mask = []) := by
  refine ⟨?_, ?_⟩
  · intro p hp hh
    simp only [tlbinvOps, List.mem_cons, List.not_mem_nil, or_false] at hp
    rcases hp with rfl | rfl | rfl | rfl
    · unfold Issues; decide +kernel
    · unfold Issues; decide +kernel
    · cases hh
    · cases hh
  · unfold Issues; decide +kernel

theorem witness_TilesAndLiveRegisters :
    (let s := qv 0x100000; TileWordReady s (.spilla (yy 0 1)) (who s (.spilla (yy 0 1))) 2 ∧
      (match syncWrites s (who s (.spilla (yy 0 1))) [(0x100000, leBytes 8 0)] with
       | .ok _ _ => true
       | .no _ => false) = true) ∧
    (let s := poke (qv 0x100000) 0x100000 [1]
     TileWordReady s (.filla (yy 0 1)) (who s (.filla (yy 0 1))) 2 ∧
       (match syncRead s (who s (.filla (yy 0 1))) 0x100000 64 with
        | .ok s1 h => tileHeaderOk h && fld h 0 1 != 0 && (match syncRead s1 (who s (.filla (yy 0 1))) 0x100040 0x400 with
          | .ok _ _ => true
          | .no _ => false)
        | .no _ => false) = true) ∧
    (let s := poke (qv 0x100000) 0 [0, 0, 0xFF]; let I := who s (.savel (yy 0 0))
     Issues s (.savel (yy 0 0)) I ∧ I.pairOk 2 = true ∧ 0 < I.blk.node.livecount ∧ Full (I.src64 2) ∧
       (match ctxReadAt s 0 0 .u (I.blk.node.live.toNat + 0) 32 with
        | (_, some l) => (parseLive l).any fun e => (e.kind == 1) == I.fe && e.v >>> min 64 I.baseCount == 0 && !(owedRegs s I).any (e.named.has I)
        | _ => false) = true) := by
  unfold TileWordReady Issues Full; decide +kernel

theorem witness_Waitev :
    let f : YY := { f10 := 2, a := 0, ra := 0, rd := 4 }
    Issues qs (.waitev f) (who qs (.waitev f)) ∧ isPow2 f.f10.toNat = true ∧ evAllowed (who qs (.waitev f)).st.level f.f10.toNat = true ∧
    (who qs (.waitev f)).pairOk 4 = true ∧ Free ((who qs (.waitev f)).src64 4) := by unfold Issues Free; decide +kernel

/-! ### The scheduler -/

def xq : XR := { f9 := 0, xb := 2, xa := 1, xd := 3 }
/-- A second node of the partition, ready, with one block to place; the core runs nothing. -/
def readyNode : Node := { va := 0x3000, ctx := 0, nrec := { benchNode with scratch := 0, acctiles := 0, tmaps := 0 }, prio := 0, state := 1 }
def sched (n : Node) : State :=
  let s := vectors qs
  { s with parts := Tab.modify s.parts 0 fun P => { P with nodes := [(1, n)], nextSeq := 2 }, blocks := [], quires := [],
           subject := { part := 0, idx := 1 }, now := 200000 }
theorem witness_FrontScheduling :
    (FrontIssues fs (.nadd (tm 3 1)) (who fs (.nadd (tm 3 1))) ∧ outstanding fs (unitNow fs).u (unitNow fs).mask = [] ∧
      ((who fs (.nadd (tm 3 1))).xreg 1).val.toNat % 64 = 0) ∧
    (FrontIssues fs (.nwdraw xq) (who fs (.nwdraw xq)) ∧ Full [(who fs (.nwdraw xq)).srcX 1, (who fs (.nwdraw xq)).srcX 2]) ∧
    (FrontIssues fs (.nstat (tm 3 1)) (who fs (.nstat (tm 3 1))) ∧ (nodeAt fs 0 0 0).isSome = true) ∧
    (let s := fs fun F => { F with x := [(1, { val := 64 })] }; let I := who s (.nstat (tm 3 1))
     FrontIssues s (.nstat (tm 3 1)) I ∧ nodeAt s 0 0 64 = none ∧
       Reaches s I false true [{ key := 0, thread := 0, va := 64 + 0x40, act := .rd 8 }]) := by
  unfold FrontIssues Issues Full Reaches; decide +kernel

/-- A launch queue of context 0 at 0x102000 with one entry: one record at 0x3000 (R344). -/
def launch : State :=
  let s := poke { qs with subject := { part := 0, idx := 0 } } 0x102000 (leBytes 8 0x3000 ++ leBytes 4 1 ++ leBytes 4 0)
  (s.updPkg 0 fun p => { p with vfs := [(0, 0)] }).updPart 0 fun P =>
    { P with queues := [(0, { base := 0x102000, size := 16, tail := 1, en := true })] }
theorem witness_LaunchQueues :
    ((layoutOf launch 0 0).isSome = true ∧ launch.subject.idx < 16 ∧ (launch.pkgOf 0).linkUp = true ∧ (launch.pkgOf 0).bound 0 = true) ∧
    (let q : LaunchQ := { size := 16, tail := 5, head := 2 }
     (18 : Word) ≠ q.tail ∧ ((18 : Word) - q.tail).toNat + (q.tail - q.head).toNat = 16 ∧
       16 < ((19 : Word) - q.tail).toNat + (q.tail - q.head).toNat) ∧
    (let q := Tab.get {} (launch.partOf 0).queues 0
     q.en = true ∧ q.head ≠ q.tail ∧
       (match ctxReadAt launch 0 q.ctx .u (q.base.toNat + 16 * (q.head.toNat % 16)) 16 with
        | (s1, some l) => decide (fld l 0 8 % 64 = 0 ∧ fld l 0 8 < 2 ^ 52 ∧ 1 ≤ fld l 8 4 ∧ fld l 8 4 ≤ 4096 ∧ fld l 12 4 = 0 ∧
            (acceptGraph s1 0 q.ctx (entryByH q) 7 [0x3000]).2 ≠ 3)
        | _ => false) = true) := by decide +kernel

theorem witness_Dispatch :
    (let t := readRecords (sched readyNode) 0
     (dispatchFirst t 0 (ranked t 0) []).1.isSome = true ∧ t.barred = (sched readyNode).barred) ∧
    (let s := sched { readyNode with passedAt := some 100000 }
     (nodeOf s 0 1).any (fun n => n.passedAt == some 100000 && inPool n && !n.reserving) = true ∧ 100000 + 100000 ≤ s.now) ∧
    (let s := { qs (fun Q => { Q with live := 0 }) (fun B => { B with front := { B.front with done := true } }) with subject := { idx := 0 } }
     (Tab.find s.blocks 0).any (fun B => blockDone s 0 B) = true) := by decide +kernel

/-- The placed block starts at the node's entries: its front-end at FRONTENT, every quire at QUIREENT (R347). -/
theorem test_dispatch :
    ((Tab.find (ran (sched readyNode) .blockDispatch).blocks 1).map fun B => (B.core, B.idx, B.seq)) = some (0, 0, 1) := by decide +kernel

/-! ### Pre-emption -/

/-- The bench's block runs on core 0, whose slice has passed. -/
def running : State := { (qs.updCore 0 fun c => { c with running := some (0, 0), slice := 5400000 }) with subject := { idx := 0, nums := [0] } }
def requested (Q : Quire → Quire := id) (B : Block → Block := id) : State :=
  let s := vectors (qs Q B)
  { s with preempts := [(5, { part := 0, ctx := 0, cores := [0], start := 0 })], subject := { idx := 5 }, now := 2000000 }
theorem witness_Preemption :
    ((running.coreOf 0).running = some (0, 0) ∧ (layoutOf running 0 0).any (fun L => decide (L.slice.toNat ≤ (running.coreOf 0).slice)) = true ∧
      coreRequested running 0 0 0 = false) ∧
    blocksOn running 0 0 [0] ≠ [] ∧
    (Tab.find requested.preempts 5).any (fun p => !p.grace && decide (p.start + graceTicks requested p.part ≤ requested.now) &&
      decide (p.start + killTicks requested p.part ≤ requested.now) && !(blocksOn requested p.part p.ctx p.cores).isEmpty) = true ∧
    (0 : Word) ∈ partContexts qs 0 := by decide +kernel

/-- Save area at 0x2000000, a granule that the second stage maps to host memory; the block's front-end alone is left. -/
def stopped : State :=
  let s := requested id fun B =>
    { B with front := { B.front with ctl := { B.front.ctl with stop := .halted false } }
             saveSlot := some { base := 0x2000000, size := 0x130000, acc := 0, idx := 0 } }
  let m : List Host.Cell := [(0, 3), (3, 2), (8, 7), (11, 2), (0x2010002, 2), (0x2020000, 1), (0x2020002, 3), (0x2030000, 1), (0x2030002, 4),
    (0x2040000, 0xC7), (0x2040001, 2), (0x2100011, 0x20), (0x2100019, 0x21), (0x2100023, 2), (0x2100028, 4), (0x210002A, 19)]
  let s := { s with mem := m, subject := { idx := 0 }, quires := [] }.updPart 0 fun P => { P with ctxTab := 0x100000 }
  s.updPkg 0 fun p => { p with layout := Tab.modify p.layout 0 fun L => { L with s2Limit := 2 } }
theorem witness_Save :
    (Tab.find stopped.blocks 0).any (fun B => (requestOf stopped B).any (fun p => !p.layout) && blockQuiet stopped 0 B && !blockDone stopped 0 B &&
      (match keepsOf stopped B (blockUnits stopped 0) with
       | (s0, some ks) => (B.saveSlot.any fun v => (writeParts s0 B.part B.ctx v.at
           (blockImage s0 0 (keptBlock s0 0 B ks).1 (keptBlock s0 0 B ks).2 (anyHalted s0 0))).2)
       | _ => false)) = true := by decide +kernel

theorem witness_HeldSlots :
    let s := waits qs (.heldAtH { cause := .align } 0); WaitsFor s (unitNow s) (.heldAtH { cause := .align } 0) := by
  unfold WaitsFor; decide +kernel


/-! ## Layout, fabric, host link -/

/-- An event about package 0 with the given subject. -/
def about (s : State) (J : Subject) : State := { s with subject := J }
/-- The bench's package, changed. -/
def pk (f : Pkg → Pkg) (J : Subject := {}) : State := about (qs.updPkg 0 f) J

theorem witness_Layout :
    HasPkg qs (qs.pkgOf 0) ∧
    (let s := pk fun p => { p with shadow := [(0, { valid := true, quads := 0 })] }
     (s.pkgOf 0).committing = false ∧ (s.pkgOf 0).recovery = false ∧ commitErr s 0 ≠ 0 ∧ commitErr s 0 < 16) ∧
    (let s := pk fun p => { p with committing := true, shadow := p.layout }
     (s.pkgOf 0).committing = true ∧ (s.pkgOf 0).commitScrubs = [] ∧ s.msgs = [] ∧ (∀ e ∈ s.blocks, e.2.core ∉ quadCores 0 (changedQuads (s.pkgOf 0))) ∧
       (∀ e ∈ s.engs, onChangedEngine (s.pkgOf 0) 0 e.2 = false) ∧
       (match moveSaved s (quadCores 0 (changedQuads (s.pkgOf 0))) with
        | (s1, ok) => ok && (Tab.find s1.pkgs 0).any (·.committing)) = true) ∧
    (let s := pk fun p => { p with committing := true, shadow := p.layout, commitScrubs := [.bank 3], scrubs := [.quad 95, .bank 3] }
     (s.pkgOf 0).scrubs[0]? = some (.quad 95) ∧ (s.pkgOf 0).scrubs[1]? = some (.bank 3) ∧ (s.pkgOf 0).commitScrubs = [.bank 3] ∧
       (s.pkgOf 0).shadow = (s.pkgOf 0).layout ∧ ∀ e ∈ s.blocks, e.2.core ∉ quadCores 0 [95]) ∧
    (let s := pk fun p => { p with releases := [(5, 0, 0)] }
     (s.pkgOf 0).releases[0]? = some (5, 0, 0) ∧ frameBusy s 5 = false) ∧
    (∀ x ∈ [(92, 4), (88, 8)], x.1 % x.2 = 0 ∧ x.1 < 96) ∧
    (winBase ≤ winBase + 4 ∧ winBase + 4 < 2 ^ 44) := by unfold HasPkg; decide +kernel

/-- A write of a line in the package's own memory, on its way on plane 2, of bucket b. -/
def wr2 : Msg := { req := line0 (.wr [1, 2]), tgt := .dev (benchDpa 0x138), state := .flying, plane := 2, ver := 0 }
def msgs (m : Msg) (f : Pkg → Pkg := id) (J : Subject := { idx := 5 }) : State := { pk f J with msgs := [(5, m)] }
theorem witness_Requests :
    (MsgAt (msgs wr2) wr2 (benchDpa 0x138) .flying ∧ msgKind wr2 = 1 ∧ lineBusy (msgs wr2) 5 wr2 (benchDpa 0x138) = false ∧
      sentBefore (msgs wr2) 0 2 0 wr2.stamp = false ∧ homeStops (msgs wr2) wr2 (benchDpa 0x138) = false) ∧
    (let p := Tab.get 0 (qs.pkgOf 0).map (bucketOf (benchDpa 0x138))
     Tab.get 0 ((msgs wr2).pkgOf 0).map (bucketOf (benchDpa 0x138)) = p ∧ ∃ q, q < 8 ∧ q ≠ p) ∧
    (verAhead 1 ((msgs wr2).pkgOf 0).ver.toNat = true ∧ verAhead 0 ((msgs wr2).pkgOf 0).ver.toNat = false) ∧
    (let m := { wr2 with state := .answered {} }
     MsgAt (msgs m) m (benchDpa 0x138) (.answered {}) ∧ msgReturns m = false) ∧
    (let m := { wr2 with req := line0 (.rd 2), state := .answered {} }; msgReturns m = true) ∧
    (let m := { wr2 with state := .retryBack 1 }; Tab.find (msgs m).msgs 5 = some m) := by
  unfold MsgAt
  refine ⟨?_, ⟨rfl, ?_⟩, ?_⟩
  · decide +kernel
  · exact if h : Tab.get 0 (qs.pkgOf 0).map (bucketOf (benchDpa 0x138)) = 0 then ⟨1, by decide, by rw [h]; decide⟩
      else ⟨0, by decide, fun e => h e.symm⟩
  · decide +kernel

def twoPods (f : Pkg → Pkg) (J : Subject) : State :=
  let s := pk f J
  { s with pkgs := Tab.set s.pkgs 7 Pkg.reset }
theorem witness_PlaneMap :
    (HasPkg qs (qs.pkgOf 0) ∧ (19 ∉ (qs.pkgOf 0).half)) ∧
    ((0x0800 : DWord).extractLsb' 8 8 &&& ~~~(qs.pkgOf 0).frozen ≠ 0) ∧
    (let s := pk id { sub := 7 }
     let ps := (s.pkgs.filter fun e => !e.2.left).map (·.1)
     (∃ k ∈ ps, (s.pkgOf k).live.getLsbD 7 = true) ∧ ∀ k ∈ ps, (s.pkgOf k).quiesce = none) ∧
    (∀ q ∈ [({ dead := [3], start := 0 } : Quiesce), { dead := [], back := [3], start := 0 }],
      let s := pk fun p => { p with quiesce := some q }
      (s.pkgOf 0).quiesce = some q ∧ replaysOut s 0 = false ∧ frozenOut s 0 = false) ∧
    (qs.pkgOf 0).quiesce = none ∧
    (∀ b, b < 256 → (qs.pkgOf 0).live.getLsbD (Tab.get 0 (qs.pkgOf 0).shadowMap b) = true) ∧
    (let q : Quiesce := { dead := [3], start := 0, coming := [7] }
     let s := twoPods (fun p => { p with quiesce := some q }) { idx := 7 }
     (s.pkgOf 0).quiesce = some q ∧ 7 ∈ q.coming ∧ 7 ∉ q.reports ∧ 7 ∈ awaited s 0 ∧
       q.start + 200000 * (q.dead ++ q.back).length ≤ { s with now := 200000 }.now) := by unfold HasPkg; decide +kernel

/-- The refusal of a headgate operation, and a line that the scrub has not reached in this period. -/
theorem witness_RetriesAndScrub :
    (let s := qg .sig 0 5 (.retryBack 1)
     s.msgs = [] ∧ (gop s).state = .retryBack 1 ∧ verReached ((s.pkgOf 0).ver.toNat) 0 = true) ∧
    Tab.get 0 (qs.pkgOf 0).scrubbed 7 < scrubPeriod qs (qs.pkgOf 0) := by decide +kernel

/-- A uniform table of 256 buckets and 8 planes: every bucket's plane is live at reset (R98). -/
theorem test_reset_map : Tab.get 0 Pkg.reset.map 255 = 7 ∧ Tab.get 0 Pkg.reset.map 8 = 0 := by decide +kernel

def host1 (ats : Bool) : Msg := { req := line0 (.rd 2), tgt := .host 0x1000, state := .flying, ats := ats }
theorem witness_HostRequests :
    (let s := pk (fun p => { p with vfs := [(0, 0)], doorbells := [(0, .slot 0 0 0, 0x10000)] })
     (s.pkgOf 0).bound 0 = true ∧ (s.pkgOf 0).doorbells[0]? = some (0, .slot 0 0 0, 0x10000) ∧
       (List.range 32).find? (fun i => (Tab.find (funcOf (s.pkgOf 0) 0).pri i).isNone) = some 0) ∧
    (let s := pk (fun p => { p with vfs := [(0, 0)], funcs := [(0, { pri := [(31, { unit := .slot 0 0 0, page := 1 })] })] })
     (s.pkgOf 0).bound 0 = true ∧ bits (31 : DWord).toNat 5 4 = (funcOf (s.pkgOf 0) 0).gen ∧ Tab.find (funcOf (s.pkgOf 0) 0).pri 31 = some { unit := .slot 0 0 0, page := 1 } ∧
       (unitCtx s 0 (.slot 0 0 0)).isSome = true ∧ Tab.find (funcOf (s.pkgOf 0) 0).pri 30 = none) ∧
    (let s := msgs (host1 true) fun p => { p with vfs := [(0, 0)] }
     HostMsg s (host1 true) 0x1000 ∧ 5 ∈ atsOut s 0 0 ∧ (s.pkgOf 0).bound 0 = true ∧ (host1 true).req.pkg = s.subject.pkg ∧
       (host1 true).req.part = s.subject.part) ∧
    (HostMsg (msgs (host1 false)) (host1 false) 0x1000 ∧ ((msgs (host1 false)).pkgOf 0).linkUp = true ∧
      hostLineBusy (msgs (host1 false)) 5 (host1 false) 0x1000 = false) ∧
    (host1 false).sent + 5000000 ≤ { msgs (host1 false) with now := 5000000 }.now ∧
    (let s := pk (fun p => { p with vfs := [(0, 0)] }) { off := 0x100000, bytes := [1, 2] }
     (layoutOf s 0 0).isSome = true ∧ (s.pkgOf 0).linkUp = true ∧ (s.pkgOf 0).bound 0 = true ∧ (∀ p ∈ pieces 2 0x100000 2, isSealed s 0 p.1 = false) ∧
       (match gpaWrite s 0 0 0x100000 [1, 2] 0 with
        | .ok _ => true
        | _ => false) = true) := by unfold HostMsg; decide +kernel

/-- A one-step access and an engine's that wait for the host; a full and an empty queue of invalidations. -/
def wanting : State :=
  pk (fun p => { p with vfs := [(0, 0)], atsWant := [{ part := 0, page := 1, gpa := 0x1000, unit := some (.slot 0 0 0) }] }) { idx := 0 }
/-- A running copy whose source lies in the granule that host memory holds. -/
def hostOp : EngOp := { eop with phase := .running, rb := 0x2000000, asked := some (0x2000000, 0), desc := some ([], []) }
def hostEng : State := { (poke (hostMapped true) (benchMid + 8) (leBytes 8 0x2000203)) with engs := [(5, hostOp)], subject := { idx := 5 } }
theorem witness_HostWaits :
    (wanting.msgs = [] ∧ (wanting.pkgOf 0).bound 0 = true ∧ (wantsOf wanting 0 0).map (·.page) = [1] ∧ wanting.engs = []) ∧
    ((funcOf (qs.pkgOf 0) 0).invals.length < 32 ∧ (funcOf (qs.pkgOf 0) 0).invals = [] ∧ (funcOf (qs.pkgOf 0) 0).atc.length ≤ 1024) ∧
    (hostEng.msgs = [] ∧ Tab.find hostEng.engs 5 = some hostOp ∧ hostOp.phase ≠ .queued ∧ (engHostVa hostEng hostOp).isSome = true ∧
      hostOp.asked = some (0x2000000, 0) ∧ engHostVa hostEng hostOp = some 0x2000000 ∧ 0 + 5000000 ≤ { hostEng with now := 5000000 }.now) ∧
    (let s := pk (fun p => { p with funcs := [(0, { pri := [(31, { unit := .slot 9 0 0, page := 1 })] })] })
     unitCtx s 0 (.slot 9 0 0) = none) ∧
    (wantsOf qs 0 0 = [] ∧ qs.msgs = []) ∧
    (let s := (pk (fun p => { p with vfs := [(0, 0)] }) { off := 0x100000, bytes := [1, 2] }).updPart 0 fun P => { P with seals := [{ base := 0, len := 65536, frames := [16], ctx := 0 }] }
     isSealed s 0 0x100000 = true) ∧
    (match gpaWrite (pk fun p => { p with scrubs := (List.range 128).map .bank }) 0 0 0x100000 [1] 0 with
     | .wait _ => true
     | _ => false) = true ∧
    (match gpaWrite (pk id { off := 0x2000000, bytes := [1] }) 0 0 0x2000000 [1] 0 with
     | .s2 _ => true
     | _ => false) = true := by decide +kernel

theorem witness_Management :
    (HasPkg State.reset (State.reset.pkgOf 0) ∧ validEnts (State.reset.pkgOf 0).layout = []) ∧
    ((State.reset.pkgOf 0).halmetUp = true ∧ (State.reset.pkgOf 0).linkUp = true) ∧
    135 < Tab.get 2700 (qs.pkgOf 0).clocks 7 := by unfold HasPkg; decide +kernel

/-- A queue pair 3 on the port of die 0, which the partition owns. -/
def eth (q : QPair) (J : Subject := { sub := 3 }) : State :=
  pk (fun p => { p with layout := Tab.modify p.layout 0 (fun L => { L with eth := 1 }), eth := [(0, { qps := [(3, q)] })] }) J
/-- The collective of path 1 with a chunk and a return on the way, its neighbour operation 6. -/
def ovr : State :=
  let e := { coll 0 1 (.collStep 0) with outW := [(0, leBytes 4 7)], outR := [1], left := some 6, right := some 6 }
  engs [(5, e), (6, coll 1 1 (.collStep 0))]
def opFive : EngOp := (Tab.find ovr.engs 5).getD eop
theorem witness_Ethernet :
    RoceUp (eth {}) 0 {} ∧ RoceUp (eth { unacked := 2 }) 0 { unacked := 2 } ∧
    (let s := { eth { unacked := 2, tries := 7 } with now := 400000 }; RoceUp s 0 { unacked := 2, tries := 7 } ∧
      ({ unacked := 2 } : QPair).tries < ({ unacked := 2 } : QPair).retries ∧ ({ tries := 7 } : QPair).retries ≤ ({ tries := 7 } : QPair).tries ∧
      ({ unacked := 2 } : QPair).since + ({ unacked := 2 } : QPair).timeout ≤ s.now) ∧
    (match ctxReadAt (eth {}) 0 0 .s 0x101000 8 with
     | (_, some l) => l.length == 8
     | _ => false) = true ∧
    (linkOf opFive opFive.coll.rank).isSome = true ∧ (linkOf opFive (leftRank opFive.coll)).isSome = true ∧ engHeld ovr 6 = false ∧
    (Tab.get {} (ovr.pkgOf 0).eth 0).up = true ∧
    (match engWrite ovr (coll 1 1 (.collStep 0)) [(0x105040, leBytes 4 7)] with
     | .ok _ _ => true
     | .no _ _ => false) = true ∧ (Tab.get {} (qs.pkgOf 0).eth 7).up = true := by
  unfold RoceUp; decide +kernel

/-! ## Reset and memory -/

theorem witness_MemoryStaysCanonical : MemoryCanonical State.reset ∧ MemoryCanonical (State.reset.withFetchWord 32 0x00010083) := by
  unfold MemoryCanonical; decide +kernel

/-- Writing the value that an unlisted byte reads as removes the entry (log 4). -/
theorem test_memory_canonical :
    Memory.write (Memory.write (Memory.write [] 5 1) 3 2) 5 0 = [(3, 2)] ∧ Memory.wf [(3, 2), (5, 0)] = false ∧
    Memory.wf [(5, 1), (3, 2)] = false := by decide +kernel


end Sys2Proof.Tests
end

section
/-! PROOFS. The word operations of a lane: what each computes, bit by bit or as a number (12_vector.md R260 to R262,
R275). Lemmas about the model's own definitions; no unit and no state enters here. -/

namespace Sys2Proof.VectorProofs

open Sys2Proof.Machine Sys2Proof.Safety

/-! ## Bits of numbers -/

theorem testBit_bits (v lo len n : Nat) : (bits v lo len).testBit n = (decide (n < len) && v.testBit (lo + n)) := by
  simp [bits, Nat.testBit_mod_two_pow, Nat.testBit_shiftRight]

theorem bitAt_eq_testBit (v n : Nat) : bitAt v n = v.testBit n := by
  rw [bitAt, Nat.testBit_eq_decide_div_mod_eq, Nat.shiftRight_eq_div_pow]
  rfl

theorem amt_eq (c : Word) : amt c = c.toNat % 256 := rfl

theorem fieldOf_eq (c : Word) : fieldOf c = (fieldPos c, fieldLen c) := by
  simp [fieldOf, fieldPos, fieldLen, bits, Nat.shiftRight_eq_div_pow]

/-! ## Shifts (R261) -/

theorem shl_bits (a c : Word) {n : Nat} (hn : n < 32) :
    (a <<< amt c).getLsbD n = (decide (c.toNat % 256 ≤ n) && a.getLsbD (n - c.toNat % 256)) := by
  rw [amt_eq, BitVec.getLsbD_shiftLeft, decide_eq_true hn, Bool.true_and, ← decide_not]
  simp only [Nat.not_lt]

theorem shr_bits (a c : Word) (n : Nat) : (a >>> amt c).getLsbD n = a.getLsbD (n + c.toNat % 256) := by
  rw [amt_eq, BitVec.getLsbD_ushiftRight, Nat.add_comm]

theorem sar_bits (a c : Word) {n : Nat} (hn : n < 32) :
    (a.sshiftRight (amt c)).getLsbD n = a.getLsbD (min (n + c.toNat % 256) 31) := by
  rw [amt_eq, BitVec.getLsbD_sshiftRight, BitVec.msb_eq_getLsbD_last]
  split
  · rw [Nat.min_eq_left (by omega), Nat.add_comm]
    simp [hn]
  · rw [Nat.min_eq_right (by omega)]
    simp [hn]

/-! ## Counts and reversal (R260) -/

theorem clz32_zero : (clz32 0).toNat = 32 := rfl

/-- The highest set bit is the binary logarithm. -/
theorem log2_of_top_bit (a : Word) {n : Nat} (hset : a.getLsbD n = true) (htop : ∀ m, n < m → a.getLsbD m = false) :
    Nat.log2 a.toNat = n := by
  have hlo : 2 ^ n ≤ a.toNat := Nat.ge_two_pow_of_testBit hset
  have hhi : a.toNat < 2 ^ (n + 1) := Nat.lt_pow_two_of_testBit _ fun m hm => htop m hm
  exact (Nat.log2_eq_iff (by have := Nat.two_pow_pos n; omega)).mpr ⟨hlo, hhi⟩

theorem clz32_of_top_bit (a : Word) {n : Nat} (hn : n < 32) (hset : a.getLsbD n = true)
    (htop : ∀ m, n < m → a.getLsbD m = false) : (clz32 a).toNat = 31 - n := by
  have ha : a ≠ 0 := by rintro rfl; simp at hset
  simp only [clz32, beq_iff_eq, if_neg ha, log2_of_top_bit a hset htop, BitVec.toNat_ofNat]
  omega

theorem popCount_eq (a : Word) :
    (BitVec.ofNat 32 (popCount 32 a.toNat)).toNat = ((List.range 32).filter fun n => a.getLsbD n).length := by
  have hbit : bitAt a.toNat = fun n => a.getLsbD n := funext fun n => bitAt_eq_testBit a.toNat n
  have hle : ((List.range 32).filter fun n => a.getLsbD n).length ≤ 32 := by
    simpa using List.length_filter_le (fun n => a.getLsbD n) (List.range 32)
  rw [popCount, hbit, BitVec.toNat_ofNat]
  omega

/-- Bit n of a word gathered bit by bit: bit i of a goes to bit 31 − i. -/
theorem brev_fold_bits (a : Word) {n : Nat} (hn : n < 32) (l : List Nat) (r : Word) :
    (l.foldl (fun r i => if a.getLsbD i then r ||| (1#32 <<< (31 - i)) else r) r).getLsbD n =
      (r.getLsbD n || l.any fun i => a.getLsbD i && decide (n = 31 - i)) := by
  induction l generalizing r with
  | nil => simp
  | cons i l ih =>
    have hone : (1#32 <<< (31 - i)).getLsbD n = decide (n = 31 - i) := by
      rw [BitVec.getLsbD_shiftLeft, BitVec.getLsbD_one, Bool.eq_iff_iff]
      simp only [Bool.and_eq_true, Bool.not_eq_true', decide_eq_true_eq, decide_eq_false_iff_not]
      omega
    rw [List.foldl_cons, ih, List.any_cons]
    cases a.getLsbD i <;> simp [hone, Bool.or_assoc]

theorem brev32_bits (a : Word) {n : Nat} (hn : n < 32) : (brev32 a).getLsbD n = a.getLsbD (31 - n) := by
  rw [brev32, brev_fold_bits a hn, Bool.eq_iff_iff]
  simp only [BitVec.ofNat_eq_ofNat, BitVec.getLsbD_zero, Bool.false_or, List.any_eq_true, List.mem_range,
    Bool.and_eq_true, decide_eq_true_eq]
  constructor
  · rintro ⟨i, hi, hset, rfl⟩
    rwa [show 31 - (31 - i) = i by omega]
  · intro hset
    exact ⟨31 - n, by omega, hset, by omega⟩

/-! ## Bit fields (R261) -/

theorem bfxu32_bits (a c : Word) {n : Nat} (hn : n < 32) :
    (bfxu32 a c).getLsbD n = (decide (n < fieldLen c) && a.getLsbD (fieldPos c + n)) := by
  rw [bfxu32, fieldOf_eq, BitVec.getLsbD_ofNat, testBit_bits, decide_eq_true hn, Bool.true_and]
  rfl

theorem toSigned_eq_toInt {w : Nat} (x : BitVec w) : toSigned w x.toNat = x.toInt := by
  rw [toSigned, BitVec.toInt_eq_toNat_cond]
  simp

/-- The model's sign extension is that of words. -/
theorem ofNat_sext (len v : Nat) : BitVec.ofNat 32 (sext len 32 v) = (BitVec.ofNat len v).signExtend 32 := by
  have hsigned : toSigned len (v % 2 ^ len) = (BitVec.ofNat len v).toInt := by
    rw [← toSigned_eq_toInt, BitVec.toNat_ofNat]
  rw [sext, hsigned, ofSigned, BitVec.signExtend, ← BitVec.toNat_inj]
  simp [BitVec.toNat_ofInt]
  omega

theorem bfx32_bits (a c : Word) {n : Nat} (hn : n < 32) :
    (bfx32 a c).getLsbD n = (decide (fieldLen c ≠ 0) && a.getLsbD (fieldPos c + min n (fieldLen c - 1))) := by
  simp only [bfx32, fieldOf_eq, beq_iff_eq]
  by_cases h0 : fieldLen c = 0
  · simp [h0]
  · have hfield : ∀ k, k < fieldLen c →
        (BitVec.ofNat (fieldLen c) (bits a.toNat (fieldPos c) (fieldLen c))).getLsbD k = a.getLsbD (fieldPos c + k) := by
      intro k hk
      rw [BitVec.getLsbD_ofNat, testBit_bits, decide_eq_true hk, Bool.true_and, Bool.true_and]
      rfl
    rw [if_neg h0, ofNat_sext, BitVec.getLsbD_signExtend, BitVec.msb_eq_getLsbD_last]
    by_cases hk : n < fieldLen c
    · rw [if_pos hk, hfield n hk, Nat.min_eq_left (by omega)]
      simp [hn, h0]
    · rw [if_neg hk, hfield _ (by omega), Nat.min_eq_right (by omega)]
      simp [hn, h0]

/-- The mask of a field has the field's bits. -/
theorem fieldMask_bits (c : Word) {n : Nat} (hn : n < 32) :
    (BitVec.ofNat 32 (2 ^ fieldLen c - 1) <<< fieldPos c).getLsbD n =
      decide (fieldPos c ≤ n ∧ n < fieldPos c + fieldLen c) := by
  rw [BitVec.getLsbD_shiftLeft, BitVec.getLsbD_ofNat, Nat.testBit_two_pow_sub_one, Bool.eq_iff_iff]
  simp only [Bool.and_eq_true, Bool.not_eq_true', decide_eq_true_eq, decide_eq_false_iff_not]
  omega

theorem bfi32_bits (a c d : Word) {n : Nat} (hn : n < 32) :
    (bfi32 a c d).getLsbD n =
      if fieldPos c ≤ n ∧ n < fieldPos c + fieldLen c then a.getLsbD (n - fieldPos c) else d.getLsbD n := by
  simp only [bfi32, fieldOf_eq, BitVec.getLsbD_or, BitVec.getLsbD_and, BitVec.getLsbD_not, fieldMask_bits c hn,
    decide_eq_true hn, BitVec.getLsbD_shiftLeft]
  by_cases h : fieldPos c ≤ n ∧ n < fieldPos c + fieldLen c
  · simp [h]
  · simp [h]

/-! ## Division (R262) -/

theorem idiv32_spec (a b : Word) :
    (b = 0 → idiv32 a b = 0xFFFFFFFF#32) ∧
    (a = 0x80000000#32 → b = 0xFFFFFFFF#32 → idiv32 a b = 0x80000000#32) ∧
    (b ≠ 0 → ¬ (a = 0x80000000#32 ∧ b = 0xFFFFFFFF#32) → (idiv32 a b).toInt = a.toInt.tdiv b.toInt) := by
  refine ⟨?_, ?_, fun hb hover => ?_⟩
  · rintro rfl; rfl
  · rintro rfl rfl; decide
  · rw [idiv32, if_neg (by simpa using hb)]
    exact BitVec.toInt_sdiv_of_ne_or_ne a b (Classical.not_and_iff_not_or_not.mp hover)

theorem irem32_spec (a b : Word) :
    (b = 0 → irem32 a b = a) ∧ (a = 0x80000000#32 → b = 0xFFFFFFFF#32 → irem32 a b = 0) ∧
    (b ≠ 0 → (irem32 a b).toInt = a.toInt.tmod b.toInt) := by
  refine ⟨?_, ?_, fun hb => ?_⟩
  · rintro rfl; rfl
  · rintro rfl rfl; decide
  · rw [irem32, if_neg (by simpa using hb), BitVec.toInt_srem]

theorem udiv32_spec (a b : Word) :
    (b = 0 → udiv32 a b = 0xFFFFFFFF#32) ∧ (b ≠ 0 → (udiv32 a b).toNat = a.toNat / b.toNat) := by
  refine ⟨?_, fun hb => ?_⟩
  · rintro rfl; rfl
  · rw [udiv32, if_neg (by simpa using hb), BitVec.toNat_udiv]

theorem urem32_spec (a b : Word) :
    (b = 0 → urem32 a b = a) ∧ (b ≠ 0 → (urem32 a b).toNat = a.toNat % b.toNat) := by
  refine ⟨?_, fun hb => ?_⟩
  · rintro rfl; rfl
  · rw [urem32, if_neg (by simpa using hb), BitVec.toNat_umod]

/-! ## FCLASS (R275) -/

theorem fpClass_le (neg : Bool) (e m : Nat) : fpClass neg e m ≤ 9 := by
  unfold fpClass
  repeat' split
  all_goals decide

/-- The quiet bit of a fraction field is its top bit. -/
theorem bitAt_22_eq (w : Nat) : bitAt w 22 = !decide (w % 2 ^ 23 < 2 ^ 22) := by
  rw [bitAt, Nat.shiftRight_eq_div_pow, Bool.eq_iff_iff]
  simp only [beq_iff_eq, Bool.not_eq_true', decide_eq_false_iff_not]
  omega

theorem fclassBits_eq (w : Nat) :
    fclassBits w = 2 ^ fpClass (bitAt w 31) (w / 2 ^ 23 % 2 ^ 8) (w % 2 ^ 23) := by
  have he : bits w 23 8 = w / 2 ^ 23 % 2 ^ 8 := by rw [bits, Nat.shiftRight_eq_div_pow]
  have hf : bits w 0 23 = w % 2 ^ 23 := rfl
  simp only [fclassBits, fpClass, he, hf, bitAt_22_eq, beq_iff_eq]
  split
  · split
    · cases bitAt w 31 <;> rfl
    · by_cases hq : w % 2 ^ 23 < 2 ^ 22
      · rw [if_pos hq, decide_eq_true hq]; rfl
      · rw [if_neg hq, decide_eq_false hq]; rfl
  · split
    · split <;> cases bitAt w 31 <;> rfl
    · cases bitAt w 31 <;> rfl

theorem fclass_spec (a : Word) :
    (BitVec.ofNat 32 (fclassBits a.toNat)).toNat =
      2 ^ fpClass (a.getLsbD 31) (a.toNat / 2 ^ 23 % 2 ^ 8) (a.toNat % 2 ^ 23) := by
  rw [fclassBits_eq, bitAt_eq_testBit, BitVec.toNat_ofNat]
  exact Nat.mod_eq_of_lt (Nat.pow_lt_pow_right (by decide) (Nat.lt_of_le_of_lt (fpClass_le ..) (by decide)))

end Sys2Proof.VectorProofs
end

section
/-! PROOFS. How a word of a quire ends, and the statements of 12_vector.md that rest on it: one general lemma for each
operand form, then each instruction cites it. -/

namespace Sys2Proof.VectorProofs

open Sys2Proof.Machine Sys2Proof.Safety Sys2Proof.Laws

/-! ## Ways a word of a quire ends -/

/-- A word whose meaning for its issuer is to leave t completes with t. -/
theorem completes_of_done {i : Instr} {s t : State} {I : Issuer} {k : Issuer → Act} (hi : QuireIssues s i I)
    (hexec : exec i s = onQuire i s k) (hdone : k I = .done t) : Completes i s I t := by
  rw [Completes, hexec, onQuire_eq hi, hdone, finish_done]

/-- A word whose meaning for its issuer is a trap with the word in TRAPINFO takes that trap. -/
theorem traps_of_bad {i : Instr} {s : State} {I : Issuer} {k : Issuer → Act} {c : Cause} (hi : QuireIssues s i I)
    (hexec : exec i s = onQuire i s k) (hbad : k I = I.bad c) : Traps i s (wordTrap c i) := by
  obtain ⟨hunit, hword⟩ := issuerOf_unit hi.1.1
  rw [Traps, hexec, onQuire_eq hi, hbad, Issuer.bad, finish_trap, hunit, hword, wordTrap]

/-! ## Consecutive opcodes -/

@[simp] theorem opcodesFrom_nil (c : Cls) (o : Nat) (fields : BitVec 24) : OpcodesFrom [] c o fields :=
  fun k i h => by simp at h

@[simp] theorem opcodesFrom_cons (i : Instr) (l : List Instr) (c : Cls) (o : Nat) (fields : BitVec 24) :
    OpcodesFrom (i :: l) c o fields ↔ encode i = some (c, BitVec.ofNat 8 o ++ fields) ∧ OpcodesFrom l c (o + 1) fields := by
  constructor
  · intro h
    refine ⟨h 0 i rfl, fun k j hj => ?_⟩
    rw [Nat.add_assoc, Nat.add_comm 1]
    exact h (k + 1) j hj
  · rintro ⟨hhead, htail⟩ (_ | k) j hj
    · cases hj; exact hhead
    · rw [← Nat.add_assoc, Nat.add_right_comm]
      exact htail k j hj

/-! ## Rejection in the decoder -/

/-- Where one row of the class alone has the word's opcode, and it reads no well-formed instruction, the word is rejected
for its fields (02_instruction_words.md R32). -/
theorem decode_badField {c : Cls} {w : Word} {o : Nat} {r : Row} (ho : opcodeOf w = o)
    (hrow : (rowsOf c).filter (fun r => r.op = o) = [r]) (hread : (r.read w).filter (·.wellFormed) = none) :
    decode c w = .reject (.badField o) := by
  subst ho
  have honly : ∀ x ∈ rowsOf c, x.op = opcodeOf w → x = r := by
    intro x hx hop
    have hmem : x ∈ (rowsOf c).filter fun r => r.op = opcodeOf w := List.mem_filter.mpr ⟨hx, decide_eq_true hop⟩
    rwa [hrow, List.mem_singleton] at hmem
  have hnone : (rowsOf c).findSome? (readRow w) = none := by
    rw [List.findSome?_eq_none_iff]
    intro x hx
    unfold readRow
    split
    · next hop => rw [honly x hx hop, hread]
    · rfl
  have hr : r ∈ (rowsOf c).filter fun r => r.op = opcodeOf w := by rw [hrow]; exact List.mem_singleton_self r
  have hany : ((rowsOf c).any fun r => r.op = opcodeOf w) = true := by
    obtain ⟨hmem, hop⟩ := List.mem_filter.mp hr
    exact List.any_eq_true.mpr ⟨r, hmem, hop⟩
  simp only [decode, hnone, hany, if_true]

/-! ## Shifts, counts, bit fields, divisions and FCLASS -/

/-- In each lane, instruction i of shape h computes a word operation whose result stands to its operands as P says. -/
def LaneOp (f : VV) (i : Instr) (h : Shape) (P : Word → Word → Word → Word → Prop) : Prop :=
  ∃ g : Word → Word → Word → Word, (∀ s, exec i s = vvInt i h f s g) ∧ h.wide = false ∧ ∀ a c d, P a c d (g a c d)

theorem laneOps_laneOp (f : VV) : ∀ x ∈ laneOps f, LaneOp f x.1 x.2.1 x.2.2 := by
  simp only [laneOps, List.forall_mem_cons, List.not_mem_nil, false_implies, implies_true, and_true]
  refine ⟨?shl, ?shr, ?sar, ?clz, ?popc, ?brev, ?bfxu, ?bfx, ?bfi, ?idiv, ?irem, ?udiv, ?urem, ?fclass⟩
  case shl => exact ⟨fun a c _ => a <<< amt c, fun _ => rfl, rfl, fun a c _ _ hn => shl_bits a c hn⟩
  case shr => exact ⟨fun a c _ => a >>> amt c, fun _ => rfl, rfl, fun a c _ n _ => shr_bits a c n⟩
  case sar => exact ⟨fun a c _ => a.sshiftRight (amt c), fun _ => rfl, rfl, fun a c _ _ hn => sar_bits a c hn⟩
  case clz =>
    refine ⟨fun a _ _ => clz32 a, fun _ => rfl, rfl, fun a _ _ => ⟨?_, fun _ => clz32_of_top_bit a⟩⟩
    rintro rfl
    exact clz32_zero
  case popc => exact ⟨fun a _ _ => BitVec.ofNat 32 (popCount 32 a.toNat), fun _ => rfl, rfl, fun a _ _ => popCount_eq a⟩
  case brev => exact ⟨fun a _ _ => brev32 a, fun _ => rfl, rfl, fun a _ _ _ hn => brev32_bits a hn⟩
  case bfxu => exact ⟨fun a c _ => bfxu32 a c, fun _ => rfl, rfl, fun a c _ _ hn => bfxu32_bits a c hn⟩
  case bfx => exact ⟨fun a c _ => bfx32 a c, fun _ => rfl, rfl, fun a c _ _ hn => bfx32_bits a c hn⟩
  case bfi => exact ⟨fun a c d => bfi32 a c d, fun _ => rfl, rfl, fun a c d _ hn => bfi32_bits a c d hn⟩
  case idiv => exact ⟨fun a b _ => idiv32 a b, fun _ => rfl, rfl, fun a b _ => idiv32_spec a b⟩
  case irem => exact ⟨fun a b _ => irem32 a b, fun _ => rfl, rfl, fun a b _ => irem32_spec a b⟩
  case udiv => exact ⟨fun a b _ => udiv32 a b, fun _ => rfl, rfl, fun a b _ => udiv32_spec a b⟩
  case urem => exact ⟨fun a b _ => urem32 a b, fun _ => rfl, rfl, fun a b _ => urem32_spec a b⟩
  case fclass => exact ⟨fun a _ _ => BitVec.ofNat 32 (fclassBits a.toNat), fun _ => rfl, rfl, fun a _ _ => fclass_spec a⟩

/-- Settles O6: each word is a lane operation in the frame of F.VV, and its relation is that of the operation. -/
theorem bitAndDivisionOpsComplete : Obligations.BitAndDivisionOpsComplete := by
  intro f s I i h P hmem hi hok hs hd
  obtain ⟨g, hexec, hwide, hspec⟩ := laneOps_laneOp f _ hmem
  have hd' : Free (I.srcV2 h.wide f.vd.toNat) := by rw [hwide]; exact hd
  exact ⟨_, (hexec s).trans (vvInt_completes hi hok hs hd' g), fun _ => hspec _ _ _⟩

/-! ## Immediate instructions -/

/-- A shift by 32 or more leaves zeros. -/
theorem shl_amt_eq (a b : Word) : a <<< amt b = if b.toNat % 256 < 32 then a <<< (b.toNat % 256) else 0 := by
  rw [amt_eq]
  split
  · rfl
  · exact BitVec.shiftLeft_eq_zero (by omega)

theorem shr_amt_eq (a b : Word) : a >>> amt b = if b.toNat % 256 < 32 then a >>> (b.toNat % 256) else 0 := by
  rw [amt_eq]
  split
  · rfl
  · exact BitVec.ushiftRight_eq_zero (by omega)

/-- An arithmetic shift by 31 or more leaves the sign. -/
theorem sar_amt_eq (a b : Word) : a.sshiftRight (amt b) = a.sshiftRight (min (b.toNat % 256) 31) := by
  rw [amt_eq]
  ext n hn
  simp only [← BitVec.getLsbD_eq_getElem, BitVec.getLsbD_sshiftRight, BitVec.msb_eq_getLsbD_last]
  by_cases h : b.toNat % 256 + n < 32
  · rw [if_pos h, Nat.min_eq_left (by omega), if_pos h]
  · rw [if_neg h]
    split
    · rw [show min (b.toNat % 256) 31 + n = 32 - 1 by omega]
    · rfl

theorem immOps_exec (f : VI) (s : State) : ∀ x ∈ immOps f, exec x.1 s = viInt x.1 f s x.2 := by
  simp only [immOps, List.forall_mem_cons, List.not_mem_nil, false_implies, implies_true, and_true]
  refine ⟨rfl, rfl, rfl, rfl, ?shli, ?shri, ?sari⟩
  case shli => simp only [← shl_amt_eq]; rfl
  case shri => simp only [← shr_amt_eq]; rfl
  case sari => simp only [← sar_amt_eq]; rfl

/-- A word of F.VI whose immediate breaks the shift's range is rejected, where mk is its opcode's only reading. -/
theorem decode_shiftImm (f : VI) {o : BitVec 8} {mk : VI → Instr} {n : Nat} {m p : Word}
    (hrow : (rowsOf .vec).filter (fun r => r.op = o.toNat) = [⟨o.toNat, n, m, p, fun w => (VI.ofWord w).map mk⟩])
    (hmk : (mk f).wellFormed = decide (f.imm.toNat < 32)) (hf : 31 < f.imm.toNat) :
    decode .vec (o ++ f.bits) = .reject (.badField o.toNat) := by
  refine decode_badField (opcode_append o f.bits) hrow ?_
  have hbad : (mk f).wellFormed = false := by rw [hmk]; exact decide_eq_false (by omega)
  simp only [VI.back, Option.map_some]
  simp [Option.filter, hbad]

/-- Settles O7: each word is its operation in the frame of F.VI; the three shifts' rows refuse an immediate above 31. -/
theorem immediateOpsComplete : Obligations.ImmediateOpsComplete := by
  refine ⟨fun f s I i g hmem hi ha hv hs hd => ?_, fun f => ?_, fun f o ho hf => ?_⟩
  · exact (immOps_exec f s _ hmem).trans (viInt_completes hi ha hv hs hd g)
  · simp only [immOps, List.map_cons, List.map_nil, opcodesFrom_cons, opcodesFrom_nil, and_true]
    exact ⟨rfl, rfl, rfl, rfl, rfl, rfl, rfl⟩
  · rcases ho with rfl | rfl | rfl
    · exact decode_shiftImm f (mk := .shli) rfl rfl hf
    · exact decode_shiftImm f (mk := .shri) rfl rfl hf
    · exact decode_shiftImm f (mk := .sari) rfl rfl hf

/-! ## Moves -/

/-- LANEID's word has no operand but vd. -/
theorem laneid_wellFormed_iff (f : VV) :
    (Instr.laneid f).wellFormed = true ↔ f = { m := 0, eb := 0, vb := 0, ea := 0, va := 0, vd := f.vd } := by
  change (f.unary && f.ea == 0 && f.va == 0) = true ↔ _
  obtain ⟨m, eb, vb, ea, va, vd⟩ := f
  simp only [VV.unary, Bool.and_eq_true, beq_iff_eq, VV.mk.injEq, and_true, and_assoc]

/-- Settles O8: each word's meaning, with its registers permitted and its sources ready, is the write that it states. -/
theorem movesComplete : Obligations.MovesComplete := by
  refine ⟨?movi, ?movhi, ?sel, ?laneid, ?s2v, ?s2vSib, fun f => ?opcodesVM,
    fun f => ⟨?opcodeLaneid, laneid_wellFormed_iff f⟩⟩
  case movi =>
    intro f s I hi hv hd
    exact completes_of_done hi rfl (by simp [hv, withSrcs_full full_nil hd])
  case movhi =>
    intro f s I hi hv hs
    exact completes_of_done hi rfl (by simp [hv, withSrcs_full hs free_nil])
  case sel =>
    intro f s I hi ha hv hs
    refine completes_of_done hi rfl ?_
    simp only [ha, hv, Bool.and_self, Bool.not_true, Bool.false_eq_true, if_false, withSrcs_full hs free_nil]
  case laneid =>
    intro f s I hi hv hd
    exact completes_of_done hi rfl (by simp [hv, withSrcs_full full_nil hd, threadOf])
  case s2v =>
    intro f s I hi hv hs hd
    exact completes_of_done hi rfl (by simp [hv, withSrcs_full hs hd])
  case s2vSib =>
    intro f s I hi hter hr hv hs hd
    exact completes_of_done hi rfl (by simp [hter, hv, Nat.not_lt.mpr hr, withSrcs_full hs hd])
  case opcodesVM =>
    simp only [opcodesFrom_cons, opcodesFrom_nil, and_true]
    exact ⟨rfl, rfl⟩
  case opcodeLaneid =>
    simp only [opcodesFrom_cons, opcodesFrom_nil, and_true]
    rfl

/-! ## Predicate operations -/

/-- The logical threads of a mask (01_machine.md R19). -/
theorem mem_threadsOf {ter : Bool} {m : Mask} {t : Nat} :
    t ∈ threadsOf ter m ↔ t < (if ter then 32 else 96) ∧ m.getLsbD (if ter then 3 * t else t) = true := by
  cases ter <;> simp [threadsOf]

/-- KANY's bit: there is a thread. -/
theorem anyThread_eq (l : List Nat) : (!l.isEmpty) = decide (l ≠ []) := by
  cases l <;> simp

/-- KALL's bit: no thread of b is missing in a exactly when every thread of b is one of a. -/
theorem allThreads_eq (ter : Bool) (a b : Mask) :
    (threadsOf ter (b &&& ~~~a)).isEmpty = decide (∀ t ∈ threadsOf ter b, t ∈ threadsOf ter a) := by
  rw [Bool.eq_iff_iff, List.isEmpty_iff, decide_eq_true_iff]
  simp only [List.eq_nil_iff_forall_not_mem, mem_threadsOf, BitVec.getLsbD_and, BitVec.getLsbD_not]
  refine forall_congr' fun t => ?_
  have hlane : t < (if ter then 32 else 96) → (if ter then 3 * t else t) < 96 := by cases ter <;> simp; omega
  generalize (if ter then 3 * t else t) = l at hlane
  by_cases ht : t < (if ter then 32 else 96)
  · simp [ht, hlane ht]
  · simp [ht]

theorem predOps_exec (f : KF) (s : State) : ∀ x ∈ predOps f, exec x.1 s = kBinary x.1 f s x.2 := by
  simp only [predOps, List.forall_mem_cons, List.not_mem_nil, false_implies, implies_true, and_true]
  exact ⟨rfl, rfl, rfl, rfl, rfl⟩

/-- The fields that KNOT and KMOV do not use (R283). -/
theorem kUnary_fields (f : KF) : (f.kb == 0 && f.sd == 0) = true ↔ f.kb = 0 ∧ f.sd = 0 := by
  rw [Bool.and_eq_true, beq_iff_eq, beq_iff_eq]

/-- KANY and KALL use no kd, and sd names a c register where its two high bits are 0 (R283). -/
theorem kTest_fields (f : KF) : (f.kd == 0 && f.sd.extractLsb' 3 2 == 0#2) = true ↔ f.kd = 0 ∧ f.sd.toNat < 8 := by
  rw [Bool.and_eq_true, beq_iff_eq, beq_iff_eq, ← BitVec.toNat_inj (x := f.sd.extractLsb' 3 2), BitVec.extractLsb'_toNat,
    Nat.shiftRight_eq_div_pow, BitVec.toNat_ofNat]
  have := f.sd.isLt
  refine and_congr_right fun _ => ?_
  omega

/-- A word that writes a predicate names kd = 0 ILLEGAL_OPERAND. -/
theorem kdZero_traps {f : KF} {s : State} {I : Issuer} {i : Instr} (hmem : i ∈ Instr.kfirst f :: (predOps f).map (·.1))
    (hi : QuireIssues s i I) (hkd : f.kd = 0) : Traps i s (wordTrap .illegalOperand i) := by
  rcases List.mem_cons.mp hmem with rfl | hmem
  · exact traps_of_bad hi rfl (by simp [hkd])
  · obtain ⟨x, hx, rfl⟩ := List.mem_map.mp hmem
    exact traps_of_bad hi (predOps_exec f s x hx) (by simp [hkd])

/-- Settles O10: each word's meaning with its sources ready; the words that write a predicate trap first where kd = 0. -/
theorem predicateOpsComplete : Obligations.PredicateOpsComplete := by
  refine ⟨?binary, ⟨?kpop, ?kany, ?kall, ?kfirstSome, ?kfirstNone⟩, fun f s I i => kdZero_traps,
    fun f => ⟨?opcodes, ?binaryFields, ?unaryFields, ?kpopFields, ?testFields⟩⟩
  case binary =>
    intro f s I i g hmem hi hkd hs hd
    exact completes_of_done hi (predOps_exec f s _ hmem) (by simp only [beq_iff_eq, if_neg hkd, withSrcs_full hs hd])
  case kpop =>
    intro f s I hi hs hd
    exact completes_of_done hi rfl (withSrcs_full hs hd _)
  case kany =>
    intro f s I hi hs hd
    exact completes_of_done hi rfl (by rw [withSrcs_full hs hd, kThreads, ← anyThread_eq])
  case kall =>
    intro f s I hi hs hd
    exact completes_of_done hi rfl (by rw [withSrcs_full hs hd, kThreads, ← allThreads_eq])
  case kfirstSome =>
    intro f s I t r hi hkd hs hd hthreads
    exact completes_of_done hi rfl (by simp only [beq_iff_eq, if_neg hkd, withSrcs_full hs hd, kThreads, hthreads])
  case kfirstNone =>
    intro f s I hi hkd hs hd hthreads
    exact completes_of_done hi rfl (by simp only [beq_iff_eq, if_neg hkd, withSrcs_full hs hd, kThreads, hthreads]; rfl)
  case opcodes =>
    simp only [predOps, List.map_cons, List.map_nil, List.cons_append, List.nil_append, opcodesFrom_cons,
      opcodesFrom_nil, and_true]
    exact ⟨rfl, rfl, rfl, rfl, rfl, rfl, rfl, rfl, rfl⟩
  case binaryFields =>
    simp only [List.forall_mem_cons, List.not_mem_nil, false_implies, implies_true, and_true]
    exact ⟨beq_iff_eq (a := f.sd), beq_iff_eq (a := f.sd), beq_iff_eq (a := f.sd)⟩
  case unaryFields =>
    simp only [List.forall_mem_cons, List.not_mem_nil, false_implies, implies_true, and_true]
    exact ⟨kUnary_fields f, kUnary_fields f⟩
  case kpopFields => exact beq_iff_eq (a := f.kd)
  case testFields =>
    simp only [List.forall_mem_cons, List.not_mem_nil, false_implies, implies_true, and_true]
    exact ⟨kTest_fields f, kTest_fields f⟩

end Sys2Proof.VectorProofs
end

section
/-! PROOFS. Join records and SPLIT (14_control.md R331, R336): the id that a new record takes, what creating a record
changes in a quire, and the ways SPLIT ends. -/

namespace Sys2Proof.ControlProofs

open Sys2Proof.Machine Sys2Proof.Safety Sys2Proof.Laws Sys2Proof.VectorProofs

/-! ## The slots of a quire -/

@[simp] theorem slot_setSlot (Q : Quire) (sl : Nat) (x : Slot) : (Q.setSlot sl x).slot sl = x := by
  by_cases h : sl = 0 <;> simp [Quire.slot, Quire.setSlot, h]

/-- Writing a slot leaves the join records and the registers. -/
theorem setSlot_keeps (Q : Quire) (sl : Nat) (x : Slot) :
    (Q.setSlot sl x).recs = Q.recs ∧ (Q.setSlot sl x).v = Q.v ∧ (Q.setSlot sl x).s = Q.s ∧ (Q.setSlot sl x).k = Q.k := by
  unfold Quire.setSlot
  split <;> exact ⟨rfl, rfl, rfl, rfl⟩

/-! ## The id of a new record (R331) -/

/-- An id that a new record may take beside the records rs: not 0, and not in use. -/
def IdFree (rs : List JoinRec) (id : Nat) : Prop := id ≠ 0 ∧ ∀ r ∈ rs, r.id ≠ id

/-- The model passes over exactly the ids that are not free. -/
theorem idTaken_eq_false_iff (rs : List JoinRec) (id : Nat) :
    (id == 0 || rs.any (·.id == id)) = false ↔ IdFree rs id := by
  simp only [IdFree, Bool.or_eq_false_iff, beq_eq_false_iff_ne, List.any_eq_false, beq_iff_eq, ne_eq]

theorem freshId_succ_of_free {rs : List JoinRec} {c : Nat} (n : Nat) (h : IdFree rs (c % 2 ^ 32)) :
    freshId (n + 1) rs c = c % 2 ^ 32 := by
  rw [freshId, (idTaken_eq_false_iff ..).mpr h, if_neg Bool.false_ne_true]

theorem freshId_succ_of_not_free {rs : List JoinRec} {c : Nat} (n : Nat) (h : ¬ IdFree rs (c % 2 ^ 32)) :
    freshId (n + 1) rs c = freshId n rs (c + 1) := by
  rw [freshId, if_pos (eq_true_of_ne_false (mt (idTaken_eq_false_iff ..).mp h))]

/-- Where one of n consecutive values of the counter is a free id, freshId finds a free id with n units of fuel. -/
theorem freshId_free {rs : List JoinRec} {n c : Nat} (h : ∃ j < n, IdFree rs ((c + j) % 2 ^ 32)) :
    IdFree rs (freshId n rs c) := by
  induction n generalizing c with
  | zero => obtain ⟨j, hj, -⟩ := h; omega
  | succ n ih =>
    by_cases hc : IdFree rs (c % 2 ^ 32)
    · rwa [freshId_succ_of_free n hc]
    · rw [freshId_succ_of_not_free n hc]
      obtain ⟨j, hj, hfree⟩ := h
      cases j with
      | zero => exact absurd hfree hc
      | succ j => exact ih ⟨j, by omega, by rwa [Nat.add_assoc, Nat.add_comm 1]⟩

/-- Fewer than n numbers do not cover n consecutive values of the counter, which are distinct modulo 2³²: where the first
value is among them, the rest of the values have one number fewer to be covered by. -/
theorem exists_value_not_mem {n : Nat} (L : List Nat) (c : Nat) (hlen : L.length < n) (hn : n ≤ 2 ^ 32) :
    ∃ j < n, (c + j) % 2 ^ 32 ∉ L := by
  induction n generalizing L c with
  | zero => omega
  | succ n ih =>
    by_cases hfirst : c % 2 ^ 32 ∈ L
    · have hfewer : (L.erase (c % 2 ^ 32)).length < n := by
        have := List.length_pos_of_mem hfirst
        rw [List.length_erase_of_mem hfirst]
        omega
      obtain ⟨j, hj, hout⟩ := ih (L.erase (c % 2 ^ 32)) (c + 1) hfewer (by omega)
      have hne : (c + 1 + j) % 2 ^ 32 ≠ c % 2 ^ 32 := by omega
      refine ⟨j + 1, by omega, fun hmem => hout ((List.mem_erase_of_ne hne).mpr ?_)⟩
      rwa [Nat.add_right_comm]
    · exact ⟨0, by omega, hfirst⟩

/-- Of more values of the counter than there are records and one, one is a free id: 0 and the ids in use do not cover
them. -/
theorem exists_free_id {rs : List JoinRec} {n : Nat} (c : Nat) (hlen : rs.length + 1 < n) (hn : n ≤ 2 ^ 32) :
    ∃ j < n, IdFree rs ((c + j) % 2 ^ 32) := by
  obtain ⟨j, hj, hout⟩ := exists_value_not_mem (0 :: rs.map (·.id)) c (by rwa [List.length_cons, List.length_map]) hn
  obtain ⟨hzero, huse⟩ := not_or.mp (mt List.mem_cons.mpr hout)
  exact ⟨j, hj, hzero, fun r hr heq => huse (List.mem_map.mpr ⟨r, hr, heq⟩)⟩

/-! ## Creating a record (R331) -/

theorem newRec_id_free {Q : Quire} (sl kind : Nat) (jpc : DWord) (m : Mask) (h : Q.recs.length < 64) :
    IdFree Q.recs (Q.newRec sl kind jpc m).2 :=
  freshId_free (exists_free_id Q.recCtr (by omega) (by decide))

theorem newRec_recs (Q : Quire) (sl kind : Nat) (jpc : DWord) (m : Mask) :
    (Q.newRec sl kind jpc m).1.recs = Q.recs ++
      [{ id := (Q.newRec sl kind jpc m).2, kind := kind, jpc := jpc, expect := m, parent := (Q.slot sl).innermost }] :=
  (setSlot_keeps ..).1

theorem newRec_slot (Q : Quire) (sl kind : Nat) (jpc : DWord) (m : Mask) :
    (Q.newRec sl kind jpc m).1.slot sl = { Q.slot sl with innermost := (Q.newRec sl kind jpc m).2 } :=
  slot_setSlot ..

theorem newRec_registers (Q : Quire) (sl kind : Nat) (jpc : DWord) (m : Mask) :
    (Q.newRec sl kind jpc m).1.v = Q.v ∧ (Q.newRec sl kind jpc m).1.s = Q.s ∧ (Q.newRec sl kind jpc m).1.k = Q.k :=
  (setSlot_keeps ..).2

/-! ## Words that place their own unit, or trap -/

/-- A word whose meaning for its issuer is to leave t, control state included, answers t. -/
theorem answers_of_fixed {i : Instr} {s t : State} {I : Issuer} {k : Issuer → Act} (hi : QuireIssues s i I)
    (hexec : exec i s = onQuire i s k) (hfixed : k I = .fixed t) : Answers i s t := by
  rw [Answers, hexec, onQuire_eq hi, hfixed, finish_fixed]

/-- A word whose meaning for its issuer is a trap takes that trap. -/
theorem traps_of_trap {i : Instr} {s : State} {I : Issuer} {k : Issuer → Act} {t : Trap} (hi : QuireIssues s i I)
    (hexec : exec i s = onQuire i s k) (htrap : k I = .trap t) : Traps i s t := by
  rw [Traps, hexec, onQuire_eq hi, htrap, finish_trap, QuireIssues.unit hi]

/-! ## SPLIT (R336) -/

/-- Settles O27: the four placements of the slot's lanes and the full table, by the branches of SPLIT; the record's id by
counting. -/
theorem splitCompletes : Obligations.SplitCompletes := by
  refine ⟨fun f s I hi hs => ⟨fun hroom => ⟨?noneStay, ?noneGo, ?otherSlot, ?stack⟩, ?full⟩, ?opcode, ?record⟩
  case noneStay =>
    intro hN
    exact answers_of_fixed hi rfl (by
      simp only [withSrcs_full hs free_nil, if_neg (Nat.not_le.mpr hroom), hN, beq_self_eq_true, if_true, branchTo])
  case noneGo =>
    intro hN hT
    exact answers_of_fixed hi rfl (by
      simp only [withSrcs_full hs free_nil, if_neg (Nat.not_le.mpr hroom), beq_iff_eq, if_neg hN, if_pos hT, Issuer.next,
        branchTo])
  case otherSlot =>
    intro hN hT hfree
    exact answers_of_fixed hi rfl (by
      simp only [withSrcs_full hs free_nil, if_neg (Nat.not_le.mpr hroom), beq_iff_eq, if_neg hN, if_neg hT, if_pos hfree,
        Issuer.next, branchTo])
  case stack =>
    intro hN hT hbusy s' hpush
    exact answers_of_fixed hi rfl (by
      simp only [withSrcs_full hs free_nil, if_neg (Nat.not_le.mpr hroom), beq_iff_eq, if_neg hN, if_neg hT, hbusy,
        Bool.false_eq_true, if_false, Issuer.next, branchTo]
      rw [hpush, Sync.andThen])
  case full =>
    intro hfull
    exact traps_of_trap hi rfl (by simp only [withSrcs_full hs free_nil, if_pos hfull, tableFull])
  case opcode =>
    intro f
    simp only [opcodesFrom_cons, opcodesFrom_nil, and_true]
    rfl
  case record =>
    intro Q sl kind jpc m hroom
    obtain ⟨hzero, huse⟩ := newRec_id_free sl kind jpc m hroom
    exact ⟨hzero, huse, newRec_recs .., by rw [newRec_slot], by rw [newRec_slot], newRec_registers ..⟩

end Sys2Proof.ControlProofs
end

section
/-! PROOFS. The SYS words (16_traps.md R368 to R375, 09_registers.md R202, R203, 04_translation.md R82 to R84): how a word
that quires and front-ends both issue ends, what each shared frame leaves to its word, and what a system register reads
after MTSR. -/

namespace Sys2Proof.SystemProofs

open Sys2Proof.Machine Sys2Proof.Safety Sys2Proof.Laws Sys2Proof.VectorProofs Sys2Proof.ControlProofs

/-! ## Ways a word of a unit ends -/

section Ends

variable {i : Instr} {s t : State} {I : Issuer} {k : Issuer → Act}

theorem unit_completes (hi : Issues s i I) (hexec : exec i s = onUnit i s k) (hdone : k I = .done t) : Completes i s I t := by
  rw [Completes, hexec, onUnit_eq hi, hdone, finish_done]

theorem unit_waits {w : Wait} (hi : Issues s i I) (hexec : exec i s = onUnit i s k) (hwait : k I = .wait t w) :
    WaitsAs i s I t w := by
  rw [WaitsAs, hexec, onUnit_eq hi, hwait, finish_wait]

theorem unit_traps_word {c : Cause} (hi : Issues s i I) (hexec : exec i s = onUnit i s k) (hbad : k I = I.bad c) :
    Traps i s (wordTrap c i) := by
  obtain ⟨hunit, hword⟩ := issuerOf_unit hi.1
  rw [Traps, hexec, onUnit_eq hi, hbad, Issuer.bad, finish_trap, hunit, hword, wordTrap]

end Ends

@[simp] theorem andThen_ok {α : Type} (s : State) (a : α) (k : State → α → Act) : (Sync.ok s a).andThen k = k s a := rfl

theorem atU_eq_true {I : Issuer} (h : I.st.level = .u) : I.atU = true := beq_iff_eq.mpr h

theorem atU_eq_false {I : Issuer} (h : I.st.level ≠ .u) : I.atU = false := beq_eq_false_iff_ne.mpr h

theorem alignTrap_aligned (I : Issuer) {a : Nat} (h : a % 64 = 0) : alignTrap I true (misaligned [(0, a)] 64) = none := by
  simp [misaligned, alignTrap, h]

theorem startSweep_eq (s : State) (I : Issuer) (part : Nat) (kind : SweepKind) :
    startSweep s I part kind = .wait (sweepFrom s I part kind) (.sweep s.nextId) := rfl

/-! ## The words' meanings -/

section Meanings

variable (f : YY) (s : State)

theorem exec_mfsr : exec (.mfsr f) s = execMfsr f s := rfl
theorem exec_mtsr : exec (.mtsr f) s = execMtsr f s := rfl
theorem exec_tlbinvPage : exec (.tlbinvPage f) s = execTlbinvPage f s := rfl
theorem exec_tlbinvGpage : exec (.tlbinvGpage f) s = execTlbinvGpage f s := rfl
theorem exec_tlbinvS2 : exec (.tlbinvS2 f) s = execTlbinvS2 f s := rfl
theorem exec_tlbinvS2all : exec (.tlbinvS2all f) s = execTlbinvS2all f s := rfl
theorem exec_tlbinvCtx : exec .tlbinvCtx s = execTlbinvCtx s := rfl
theorem exec_tlbinvPart : exec .tlbinvPart s = execTlbinvPart s := rfl
theorem exec_spilla : exec (.spilla f) s = execSpilla f s := rfl
theorem exec_filla : exec (.filla f) s = execFilla f s := rfl
theorem exec_savel : exec (.savel f) s = execSavel f s := rfl
theorem exec_loadl : exec (.loadl f) s = execLoadl f s := rfl

end Meanings

/-! ## NOP (R369) -/

theorem decode_nop_fields {w : Word} (hop : opcodeOf w = 0) (hw : w ≠ 0) : decode .sys w = .reject (.badField 0) :=
  decode_badField (r := ⟨0x00, 32, 0xFFFFFFFF#32, 0x00000000#32, fun w => if w = 0x00000000 then some .nop else none⟩) hop rfl
    (by simp only [if_neg hw]; rfl)

/-! ## The frames that SYS words share -/

section Frames

variable {i : Instr} {s : State} {I : Issuer} {f : YY}

/-- With a register that R202 opens to the issuer, MFSR and MTSR go on to their effect. -/
theorem srFrame_allowed {r : BitVec 5} {write : Bool} {R : SysReg} (hi : Issues s i I)
    (hallow : SysAllowed I f.f10.toNat r.toNat R write) (k : Issuer → SysReg → Act) :
    srFrame i f s write r k = onUnit i s fun J => k J R := by
  obtain ⟨hreg, hunit, hright, heven, htile⟩ := hallow
  have hopen : (R.right I.st.level == .no || (write && R.right I.st.level != .rw)) = false := by
    cases write
    · simpa using hright
    · rw [show R.right I.st.level = .rw from hright]; rfl
  have hwidth : (!I.fe && R.width == 64 && r.toNat % 2 != 0) = false := by
    cases hfe : I.fe
    · simpa using heven hfe
    · rfl
  have hslot : (decide (0x040 ≤ f.f10.toNat) && decide (I.blk.node.acctiles ≤ f.f10.toNat - 0x040)) = false := by
    simpa using htile
  rw [onUnit_eq hi, srFrame, onUnit_eq hi]
  simp only [hreg, hunit, Bool.not_true, Bool.or_assoc, hopen, hwidth, hslot, Bool.or_self, Bool.false_eq_true, if_false]

/-- With one that it does not open, or with none of the number, they are ILLEGAL_OP. -/
theorem srFrame_denied {r : BitVec 5} {write : Bool} (hi : Issues s i I)
    (hdeny : ∀ R, sysReg f.f10.toNat = some R →
      (if I.fe then R.front else R.quire) = false ∨ R.right I.st.level = .no ∨ (write = true ∧ R.right I.st.level = .ro))
    (k : Issuer → SysReg → Act) : srFrame i f s write r k = onUnit i s fun J => J.bad .illegalOp := by
  rw [onUnit_eq hi, srFrame, onUnit_eq hi]
  cases hreg : sysReg f.f10.toNat with
  | none => simp only [hreg]
  | some R =>
    have hclosed : (!(if I.fe then R.front else R.quire) || R.right I.st.level == .no ||
        (write && R.right I.st.level != .rw)) = true := by
      rcases hdeny R hreg with h | h | ⟨hw, h⟩
      · rw [h]; rfl
      · rw [h]; simp
      · rw [hw, h]; simp
    simp only [hreg, hclosed, if_true]

theorem tlbinvFrame_denied {h : Bool} (hi : Issues s i I) (hdeny : I.st.level = .u ∨ (h = true ∧ I.st.level ≠ .h)) (mz : Nat)
    (k : Issuer → Nat → Nat × SweepKind) : tlbinvFrame i f s h mz k = onUnit i s fun J => J.bad .illegalOp := by
  have hclosed : (I.atU || (h && I.st.level != .h)) = true := by
    rcases hdeny with hu | ⟨rfl, hh⟩
    · rw [atU_eq_true hu, Bool.true_or]
    · simp [hh]
  rw [onUnit_eq hi, tlbinvFrame, onUnit_eq hi]
  simp only [hclosed, if_true]

theorem tlbinvFrame_ready {h : Bool} {mz : Nat} (hi : Issues s i I) (hlevel : I.st.level ≠ .u)
    (hh : h = true → I.st.level = .h) (hpair : I.pairOk f.ra.toNat = true) (hsrc : Full (I.src64 f.ra.toNat))
    (hzero : (I.r64 f.ra.toNat).toNat &&& mz = 0) (hperf : outstanding s I.u I.mask = [])
    (k : Issuer → Nat → Nat × SweepKind) :
    tlbinvFrame i f s h mz k = onUnit i s fun J =>
      startSweep s J (k J (J.r64 f.ra.toNat).toNat).1 (k J (J.r64 f.ra.toNat).toNat).2 := by
  have hopen : (h && I.st.level != .h) = false := by
    cases h
    · rfl
    · simp [hh rfl]
  rw [onUnit_eq hi, tlbinvFrame, onUnit_eq hi]
  simp only [atU_eq_false hlevel, hopen, hpair, withSrcs_full hsrc free_nil, hzero, hperf, bne_self_eq_false, Bool.or_self,
    List.isEmpty_nil, Bool.not_true, Bool.false_eq_true, if_false]

theorem tileFrame_denied (hi : Issues s i I) (hlevel : I.st.level = .u) (k : Issuer → Nat → Act) :
    tileFrame i f s k = onUnit i s fun J => J.bad .illegalOp := by
  rw [onUnit_eq hi, tileFrame, onUnit_eq hi]
  simp only [atU_eq_true hlevel, if_true]

theorem tileFrame_ready (hready : TileWordReady s i I f.ra.toNat) (k : Issuer → Nat → Act) :
    tileFrame i f s k = onUnit i s fun J => k J (J.r64 f.ra.toNat).toNat := by
  obtain ⟨hi, hlevel, hpair, hsrc, haligned, hretired⟩ := hready
  rw [onUnit_eq hi, tileFrame, onUnit_eq hi]
  simp only [atU_eq_false hlevel, hpair, withSrcs_full hsrc free_nil, alignTrap_aligned I haligned, hretired,
    List.isEmpty_nil, Bool.not_true, Bool.false_eq_true, if_false, if_true]

theorem saveFrame_ready {s1 : State} {l : List Byte} {e : LiveEnt} (hready : SaveReady s i I f s1 l e)
    (k : State → Issuer → Named → Nat → Act) :
    saveFrame i f s k = onUnit i s fun J => k s1 J e.named (J.r64 f.ra.toNat).toNat := by
  obtain ⟨hi, hpair, hidx, hsrc, hread, hlive, hkind, hbase, haligned, howed⟩ := hready
  rw [onUnit_eq hi, saveFrame, onUnit_eq hi]
  simp only [hpair, Nat.not_le.mpr hidx, withSrcs_full hsrc free_nil, hread, Option.bind_some, hlive, hkind, hbase,
    alignTrap_aligned I haligned, howed, bne_self_eq_false, Bool.not_true, Bool.or_self, decide_false,
    Bool.false_eq_true, if_false]

end Frames

/-! ## MFSR and MTSR (R372) -/

theorem putS_ops (s : State) (I : Issuer) (r : Nat) (v : Reg Word) :
    (putS s I r v).nextId = s.nextId ∧ (putS s I r v).ops = s.ops := by
  unfold putS
  split
  · exact ⟨updStrand_nextId .., updStrand_ops ..⟩
  · exact ⟨rfl, rfl⟩

theorem putX_ops (s : State) (I : Issuer) (r : Nat) (v : Reg DWord) :
    (putX s I r v).nextId = s.nextId ∧ (putX s I r v).ops = s.ops := by
  unfold putX
  split
  · exact ⟨rfl, rfl⟩
  · split
    · exact ⟨updStrand_nextId .., updStrand_ops ..⟩
    · exact ⟨rfl, rfl⟩

/-- Marking a destination empty starts no operation. -/
theorem emptyS_ops (s : State) (I : Issuer) (r : Nat) : (emptyS s I r).nextId = s.nextId ∧ (emptyS s I r).ops = s.ops :=
  putS_ops ..

theorem empty64_ops (s : State) (I : Issuer) (r : Nat) :
    (empty64 s I r).nextId = s.nextId ∧ (empty64 s I r).ops = s.ops := by
  unfold empty64
  split
  · unfold emptyX
    split
    · exact ⟨rfl, rfl⟩
    · exact putX_ops ..
  · obtain ⟨hid, hops⟩ := emptyS_ops s I r
    obtain ⟨hid', hops'⟩ := emptyS_ops (emptyS s I r) I (r + 1)
    exact ⟨hid'.trans hid, hops'.trans hops⟩

section SysWords

variable {f : YY} {s t : State} {I : Issuer} {R : SysReg}

theorem mfsr_now (hi : Issues s (.mfsr f) I) (hallow : SysAllowed I f.f10.toNat f.rd.toNat R false)
    (hfree : Free (I.srcWidth R.width f.rd.toNat)) (hnow : srWaits s I.u f.f10.toNat s.nextId = false) :
    Completes (.mfsr f) s I (if I.fe || R.width == 64 then write64 s I f.rd.toNat (srRead s I f.f10.toNat)
      else writeS s I f.rd.toNat ((srRead s I f.f10.toNat).setWidth 32)) :=
  unit_completes hi ((exec_mfsr f s).trans (srFrame_allowed hi hallow _)) (by
    simp only [withSrcs_full full_nil hfree, hnow, Bool.false_eq_true, if_false])

theorem mfsr_late (hi : Issues s (.mfsr f) I) (hallow : SysAllowed I f.f10.toNat f.rd.toNat R false)
    (hfree : Free (I.srcWidth R.width f.rd.toNat)) (hlate : srWaits s I.u f.f10.toNat s.nextId = true) :
    Completes (.mfsr f) s I
      { (if I.fe || R.width == 64 then empty64 s I f.rd.toNat else emptyS s I f.rd.toNat) with
        nextId := s.nextId + 1
        ops := Tab.set s.ops s.nextId
          { unit := I.u, ter := I.ter, keys := [0], waiting := 1, lanes := I.mask, sr := some f.f10.toNat
            srAt := srRead s I f.f10.toNat, dest := I.srDest (I.fe || R.width == 64) f.rd.toNat } } := by
  have hops : ∀ wide : Bool, (if wide then empty64 s I f.rd.toNat else emptyS s I f.rd.toNat).nextId = s.nextId ∧
      (if wide then empty64 s I f.rd.toNat else emptyS s I f.rd.toNat).ops = s.ops := by
    rintro (_ | _)
    · exact emptyS_ops ..
    · exact empty64_ops ..
  obtain ⟨hid, hops⟩ := hops (I.fe || R.width == 64)
  exact unit_completes hi ((exec_mfsr f s).trans (srFrame_allowed hi hallow _)) (by
    simp only [withSrcs_full full_nil hfree, hlate, if_true, hid, hops])

/-- The value that MTSR takes from its source. -/
def mtsrValue (I : Issuer) (R : SysReg) (r : Nat) : Nat :=
  if I.fe = true ∨ R.width = 64 then (I.r64 r).toNat else (I.sreg r).val.toNat

theorem mtsrValue_eq (I : Issuer) (R : SysReg) (r : Nat) :
    (if I.fe || R.width == 64 then (I.r64 r).toNat else (I.sreg r).val.toNat) = mtsrValue I R r := by
  simp only [mtsrValue, Bool.or_eq_true, beq_iff_eq]

/-- No MFSR of register n of the unit that has not taken its value (R372). -/
def NoLateRead (s : State) (I : Issuer) (n : Nat) : Prop :=
  ∀ e ∈ s.ops, sameUnit e.2.unit I.u = true → e.2.sr = some n → e.2.waiting = 0

theorem NoLateRead.any_eq_false {n : Nat} (h : NoLateRead s I n) :
    (s.ops.any fun e => sameUnit e.2.unit I.u && e.2.sr == some n && e.2.waiting != 0) = false := by
  rw [List.any_eq_false]
  intro e he
  simp only [Bool.and_eq_true, beq_iff_eq, bne_iff_ne]
  rintro ⟨⟨hunit, hsr⟩, hwaits⟩
  exact hwaits (h e he hunit hsr)

theorem shiftRight_ne_zero_eq_false {v w : Nat} (h : v < 2 ^ w) : (v >>> w != 0) = false := by
  rw [Nat.shiftRight_eq_div_pow, Nat.div_eq_of_lt h]; rfl

theorem mtsr_writes (hi : Issues s (.mtsr f) I) (hallow : SysAllowed I f.f10.toNat f.ra.toNat R true)
    (hsrc : Full (I.srcWidth R.width f.ra.toNat)) (hnow : srWaits s I.u f.f10.toNat s.nextId = false)
    (hlate : NoLateRead s I f.f10.toNat) (hwidth : mtsrValue I R f.ra.toNat < 2 ^ R.width) (hn : f.f10.toNat ≠ 0x028)
    (hw : srWrite s I f.f10.toNat (mtsrValue I R f.ra.toNat) = some t) : Completes (.mtsr f) s I t :=
  unit_completes hi ((exec_mtsr f s).trans (srFrame_allowed hi hallow _)) (by
    simp only [withSrcs_full hsrc free_nil, mtsrValue_eq, shiftRight_ne_zero_eq_false hwidth, hnow, hlate.any_eq_false,
      beq_eq_false_iff_ne.mpr hn, hw, Bool.or_self, Bool.false_eq_true, if_false])

/-- MTSR of CTXID sweeps the context's translations under the old name first (R441). -/
theorem mtsr_renames (hi : Issues s (.mtsr f) I) (hallow : SysAllowed I f.f10.toNat f.ra.toNat R true)
    (hsrc : Full (I.srcWidth R.width f.ra.toNat)) (hnow : srWaits s I.u f.f10.toNat s.nextId = false)
    (hlate : NoLateRead s I f.f10.toNat) (hwidth : mtsrValue I R f.ra.toNat < 2 ^ R.width) (hn : f.f10.toNat = 0x028)
    (hname : BitVec.ofNat 32 (mtsrValue I R f.ra.toNat) ≠ I.blk.ctx →
      ctxTaken s I.blk.part (BitVec.ofNat 32 (mtsrValue I R f.ra.toNat)) = false)
    (hperf : outstanding s I.u I.mask = []) :
    WaitsAs (.mtsr f) s I (sweepFrom s I I.blk.part (.rename I.blk.ctx (BitVec.ofNat 32 (mtsrValue I R f.ra.toNat))))
      (.sweep s.nextId) := by
  have hfree : (BitVec.ofNat 32 (mtsrValue I R f.ra.toNat) != I.blk.ctx &&
      ctxTaken s I.blk.part (BitVec.ofNat 32 (mtsrValue I R f.ra.toNat))) = false := by
    simpa only [Bool.and_eq_false_imp, bne_iff_ne] using hname
  exact unit_waits hi ((exec_mtsr f s).trans (srFrame_allowed hi hallow _)) (by
    simp only [withSrcs_full hsrc free_nil, mtsrValue_eq, shiftRight_ne_zero_eq_false hwidth, hnow, hlate.any_eq_false,
      beq_iff_eq.mpr hn, Bool.or_self, Bool.false_eq_true, if_false, if_true, renameAct, hfree, hperf, List.isEmpty_nil,
      Bool.not_true, startSweep_eq])

end SysWords

/-! ## Where an issuer stands in its state -/

section Issuers

variable {s : State} {u : UnitId} {w : Word} {I : Issuer}

/-- What issuerOf finds: a front-end context that has not ended, or a slot that is not free. -/
theorem issuerOf_cases (h : issuerOf s u w = some I) :
    (∃ b B, u = .front b ∧ Tab.find s.blocks b = some B ∧ B.front.done = false ∧
      I = { u := u, b := b, q := 0, sl := 0, fe := true, blk := B, qr := {}, st := B.front.ctl, mask := 0, word := w }) ∨
    (∃ b q sl B Q, u = .slot b q sl ∧ Tab.find s.blocks b = some B ∧ Tab.find s.quires (quireKey b q) = some Q ∧
      I = { u := u, b := b, q := q, sl := sl, fe := false, blk := B, qr := Q, st := (Q.slot sl).ctl,
            mask := (Q.slot sl).mask, word := w }) := by
  cases u with
  | front b =>
    simp only [issuerOf, Option.bind_eq_some_iff] at h
    obtain ⟨B, hB, h⟩ := h
    split at h
    · cases h
    · next hrun => cases h; exact .inl ⟨b, B, rfl, hB, eq_false_of_ne_true hrun, rfl⟩
  | slot b q sl =>
    simp only [issuerOf, Option.bind_eq_some_iff] at h
    obtain ⟨B, hB, Q, hQ, h⟩ := h
    split at h
    · cases h
    · cases h; exact .inr ⟨b, q, sl, B, Q, rfl, hB, hQ, rfl⟩

theorem issuerOf_block (h : issuerOf s u w = some I) : Tab.find s.blocks (unitBlock u) = some I.blk ∧ I.b = unitBlock u := by
  obtain ⟨b, B, rfl, hB, -, rfl⟩ | ⟨b, q, sl, B, Q, rfl, hB, -, rfl⟩ := issuerOf_cases h
  · exact ⟨hB, rfl⟩
  · exact ⟨hB, rfl⟩

/-- An issuer that is no front-end is a slot of its quire, with the slot's lanes. -/
theorem issuerOf_quire (h : issuerOf s u w = some I) (hq : I.fe = false) :
    u = .slot I.b I.q I.sl ∧ Tab.find s.quires I.key = some I.qr ∧ I.mask = (I.qr.slot I.sl).mask := by
  obtain ⟨b, B, rfl, -, -, rfl⟩ | ⟨b, q, sl, B, Q, rfl, -, hQ, rfl⟩ := issuerOf_cases h
  · cases hq
  · exact ⟨rfl, hQ, rfl⟩

theorem issuerOf_strand (h : issuerOf s u w = some I) : unitStrand s u = some I.st := by
  obtain ⟨b, B, rfl, hB, hrun, rfl⟩ | ⟨b, q, sl, B, Q, rfl, -, hQ, rfl⟩ := issuerOf_cases h
  · simp [unitStrand, hB, hrun]
  · simp [unitStrand, hQ]

/-- A unit's place does not depend on the state. -/
theorem issuerOf_place {t : State} {w' : Word} {J : Issuer} (hI : issuerOf s u w = some I) (hJ : issuerOf t u w' = some J) :
    J.fe = I.fe ∧ J.key = I.key ∧ J.sl = I.sl := by
  obtain ⟨b, B, rfl, -, -, rfl⟩ | ⟨b, q, sl, B, Q, rfl, -, -, rfl⟩ := issuerOf_cases hI
  · obtain ⟨b', B', hu, -, -, rfl⟩ | ⟨b', q', sl', B', Q', hu, -, -, rfl⟩ := issuerOf_cases hJ
    · cases hu; exact ⟨rfl, rfl, rfl⟩
    · cases hu
  · obtain ⟨b', B', hu, -, -, rfl⟩ | ⟨b', q', sl', B', Q', hu, -, -, rfl⟩ := issuerOf_cases hJ
    · cases hu
    · cases hu; exact ⟨rfl, rfl, rfl⟩

theorem unitStrand_updStrand (s : State) (u : UnitId) (g : Strand → Strand) :
    unitStrand (updStrand s u g) u = (unitStrand s u).map g := by
  cases u with
  | front b =>
    simp only [unitStrand, updStrand, State.updBlock_blocks, Tab.find_modify, if_true]
    cases Tab.find s.blocks b with
    | none => rfl
    | some B => simp only [Option.map_some, Option.bind_some]; split <;> rfl
  | slot b q sl =>
    simp only [unitStrand, updStrand, State.updQuire_quires, Tab.find_modify, if_true, Option.map_map]
    cases Tab.find s.quires (quireKey b q) with
    | none => rfl
    | some Q => simp only [Option.map_some, Function.comp_apply, slot_setSlot]

end Issuers

/-! ## A late MFSR takes its value (R195, R240, R372) -/

theorem captureSr_takes {s : State} {id n : Nat} {op : PendOp} (hmem : (id, op) ∈ s.ops) (hsr : op.sr = some n)
    (hwaits : op.waiting ≠ 0) (hended : srWaits s op.unit n id = false) :
    (id, { op with waiting := 0, got := [(0, leBytes 8 (lateValue s op.unit n op.srAt).toNat)] }) ∈ (captureSr s).ops := by
  have hany : (s.ops.any fun e => e.2.sr.isSome) = true := List.any_eq_true.mpr ⟨_, hmem, by rw [hsr]; rfl⟩
  have hone : captureOne s (id, op) =
      (id, { op with waiting := 0, got := [(0, leBytes 8 (lateValue s op.unit n op.srAt).toNat)] }) := by
    simp only [captureOne, hsr, hended, beq_eq_false_iff_ne.mpr hwaits, Bool.or_self, Bool.false_eq_true, if_false]
  rw [captureSr, if_pos hany, ← hone]
  exact List.mem_map_of_mem hmem

/-- The sixteen numbers of R202's row ACNT. -/
theorem acntNumber_cases {n : Nat} (hlo : 0x040 ≤ n) (hhi : n ≤ 0x04F) :
    n = 0x040 ∨ n = 0x041 ∨ n = 0x042 ∨ n = 0x043 ∨ n = 0x044 ∨ n = 0x045 ∨ n = 0x046 ∨ n = 0x047 ∨
    n = 0x048 ∨ n = 0x049 ∨ n = 0x04A ∨ n = 0x04B ∨ n = 0x04C ∨ n = 0x04D ∨ n = 0x04E ∨ n = 0x04F := by
  omega

/-- ACNT of the block's tile n − 0x40, for every number of R202's row. -/
theorem srRead_acnt (s : State) (I : Issuer) {n : Nat} (hlo : 0x040 ≤ n) (hhi : n ≤ 0x04F) :
    srRead s I n = ((s.coreOf I.blk.core).tileOf (I.blk.abase + (n - 0x040))).acnt.setWidth 64 := by
  rcases acntNumber_cases hlo hhi with rfl | rfl | rfl | rfl | rfl | rfl | rfl | rfl | rfl | rfl | rfl | rfl | rfl | rfl |
    rfl | rfl <;> rfl

theorem lateValue_eq_srRead {s : State} {u : UnitId} {w : Word} {I : Issuer} {n : Nat} (h : issuerOf s u w = some I)
    (hn : n = 0x011 ∧ I.fe = false ∨ 0x040 ≤ n ∧ n ≤ 0x04F) (v : DWord) : lateValue s u n v = srRead s I n := by
  rcases hn with ⟨rfl, hq⟩ | ⟨hlo, hhi⟩
  · obtain ⟨rfl, hQ, -⟩ := issuerOf_quire h hq
    change (Tab.get {} s.quires I.key).sigv = I.qr.sigv
    rw [Tab.get, hQ, Option.getD_some]
  · have hblk : Tab.get {} s.blocks (unitBlock u) = I.blk := by rw [Tab.get, (issuerOf_block h).1, Option.getD_some]
    have htstat : (n == 0x009) = false := beq_eq_false_iff_ne.mpr (by omega)
    have hsigv : (n == 0x011) = false := beq_eq_false_iff_ne.mpr (by omega)
    rw [srRead_acnt s I hlo hhi]
    simp only [lateValue, htstat, hsigv, hblk, Bool.false_eq_true, if_false]

theorem lateValue_tstat {s : State} {u : UnitId} {w : Word} {I : Issuer} (h : issuerOf s u w = some I) (hq : I.fe = false)
    (v : DWord) :
    lateValue s u 0x009 v = (v &&& 0x3FFFFFFF#64) ||| (I.qr.tstat.setWidth 64 &&& 0x40000000#64) := by
  obtain ⟨rfl, hQ, -⟩ := issuerOf_quire h hq
  change (v &&& 0x3FFFFFFF#64) ||| ((Tab.get {} s.quires I.key).tstat.setWidth 64 &&& 0x40000000#64) = _
  rw [Tab.get, hQ, Option.getD_some]

/-! ## Values of registers -/

/-- A table in which every index of a list has been given one value. -/
theorem find_foldl_set {α : Type} (a : α) (l : List Nat) (t : Tab α) (i : Nat) :
    Tab.find (l.foldl (fun t j => Tab.set t j a) t) i = if i ∈ l then some a else Tab.find t i := by
  induction l generalizing t with
  | nil => rfl
  | cons j l ih =>
    rw [List.foldl_cons, ih, Tab.find_set]
    by_cases hl : i ∈ l
    · simp [hl]
    · by_cases hj : j = i
      · simp [hj]
      · simp [hl, hj, Ne.symm hj]

/-- A table whose entries are rewritten under their keys. -/
theorem find_map_of_keys {α : Type} {g : Nat × α → Nat × α} (hkey : ∀ e, (g e).1 = e.1) (t : Tab α) (n : Nat) :
    Tab.find (t.map g) n = (Tab.find t n).map fun a => (g (n, a)).2 := by
  induction t with
  | nil => rfl
  | cons e t ih =>
    obtain ⟨k, v⟩ := e
    obtain ⟨v', hg⟩ : ∃ v', g (k, v) = (k, v') := ⟨(g (k, v)).2, Prod.ext (hkey (k, v)) rfl⟩
    by_cases hk : k = n
    · subst hk
      simp only [List.map_cons, hg, Tab.find, if_true, Option.map_some]
    · simp only [List.map_cons, hg, Tab.find, if_neg hk]
      exact ih

theorem bits_lt (v lo len : Nat) : bits v lo len < 2 ^ len := Nat.mod_lt _ (Nat.two_pow_pos len)

/-- The actions of TCTL as stored, 3 read as 0, and DIGITS (R237). -/
theorem tctlStored_value (v : Nat) :
    (tctlStored v).setWidth 64 = BitVec.ofNat 64 ((List.range 3).foldl (fun a i =>
      a + if bits v (2 * i) 2 = 3 then 0 else bits v (2 * i) 2 * 2 ^ (2 * i)) (bits v 8 6 * 2 ^ 8)) := by
  have hcancel : (if bits v 0 2 = 3 then 0 else bits v 0 2) < 4 := by have := bits_lt v 0 2; split <;> omega
  have hcompare : (if bits v 2 2 = 3 then 0 else bits v 2 2 * 4) < 16 := by have := bits_lt v 2 2; split <;> omega
  have hzdiv : (if bits v 4 2 = 3 then 0 else bits v 4 2 * 16) < 64 := by have := bits_lt v 4 2; split <;> omega
  have hdigits := bits_lt v 8 6
  simp only [tctlStored, beq_iff_eq, Nat.shiftLeft_eq, List.range_succ, List.range_zero, List.nil_append, List.cons_append,
    List.foldl_cons, List.foldl_nil, Nat.mul_zero, Nat.mul_one, Nat.reduceMul, Nat.reducePow]
  rw [BitVec.setWidth_ofNat_of_le_of_lt (by decide) (by omega)]
  congr 1
  omega

/-- A tile's state word is what was written, its six reserved bits apart (R291). -/
theorem acnt_setAcnt (T : Tile) (v : Nat) : (T.setAcnt (BitVec.ofNat 32 v)).acnt.setWidth 64 = BitVec.ofNat 64 (v % 2 ^ 26) := by
  have hbit : ∀ n, n < 32 → (BitVec.ofNat 32 v).getLsbD n = decide (v / 2 ^ n % 2 = 1) := by
    intro n hn
    rw [BitVec.getLsbD_ofNat, decide_eq_true hn, Bool.true_and, Nat.testBit_eq_decide_div_mod_eq]
  have hcount : ((BitVec.ofNat 32 v).extractLsb' 0 24).toNat = v % 2 ^ 24 := by
    rw [BitVec.extractLsb'_toNat, BitVec.toNat_ofNat, Nat.shiftRight_zero]
    exact Nat.mod_mod_of_dvd v (by decide)
  simp only [Tile.acnt, Tile.setAcnt, hcount, hbit 24 (by decide), hbit 25 (by decide), decide_eq_true_eq]
  have hsum : v % 2 ^ 24 + (if v / 2 ^ 24 % 2 = 1 then 2 ^ 24 else 0) + (if v / 2 ^ 25 % 2 = 1 then 2 ^ 25 else 0) =
      v % 2 ^ 26 := by split <;> split <;> omega
  rw [hsum, BitVec.setWidth_ofNat_of_le_of_lt (by decide) (by omega)]

/-! ## A register that holds what is written reads so again (R202) -/

section ReadBack

variable {s t : State} {I J : Issuer} {v : Nat}

/-- What a write of the issuer's quire leaves it. -/
theorem issuer_updQuire {g : Quire → Quire} (hI : issuerOf s I.u 0 = some I) (hq : I.fe = false)
    (hJ : issuerOf (s.updQuire I.key g) I.u 0 = some J) : J.qr = g I.qr ∧ J.mask = ((g I.qr).slot I.sl).mask := by
  obtain ⟨hfe, hkey, hsl⟩ := issuerOf_place hI hJ
  obtain ⟨-, hQ, -⟩ := issuerOf_quire hI hq
  obtain ⟨-, hQ', hmask⟩ := issuerOf_quire hJ (hfe.trans hq)
  rw [State.updQuire_quires, Tab.find_modify, if_pos hkey.symm, hQ, Option.map_some, Option.some.injEq] at hQ'
  exact ⟨hQ'.symm, by rw [hmask, hQ', hsl]⟩

/-- What a write of the issuer's block leaves it. -/
theorem issuer_updBlock {g : Block → Block} (hI : issuerOf s I.u 0 = some I)
    (hJ : issuerOf (s.updBlock I.b g) I.u 0 = some J) : J.blk = g I.blk := by
  obtain ⟨hB, hb⟩ := issuerOf_block hI
  obtain ⟨hB', -⟩ := issuerOf_block hJ
  rw [State.updBlock_blocks, Tab.find_modify, if_pos hb, hb, hB, Option.map_some, Option.some.injEq] at hB'
  exact hB'.symm

theorem issuer_sameBlocks (hI : issuerOf s I.u 0 = some I) (hJ : issuerOf t I.u 0 = some J) (hblocks : t.blocks = s.blocks) :
    J.blk = I.blk := by
  obtain ⟨hB, -⟩ := issuerOf_block hI
  obtain ⟨hB', -⟩ := issuerOf_block hJ
  rw [hblocks, hB, Option.some.injEq] at hB'
  exact hB'.symm

theorem issuer_updStrand {g : Strand → Strand} (hI : issuerOf s I.u 0 = some I)
    (hJ : issuerOf (updStrand s I.u g) I.u 0 = some J) : J.st = g I.st := by
  have hst := issuerOf_strand hJ
  rw [unitStrand_updStrand, issuerOf_strand hI, Option.map_some, Option.some.injEq] at hst
  exact hst.symm

theorem coreOf_updCore (s : State) (g : Nat) (f : Core → Core) : (s.updCore g f).coreOf g = f (s.coreOf g) :=
  Tab.get_set_self ..

variable (hI : issuerOf s I.u 0 = some I) (hJ : issuerOf t I.u 0 = some J)
include hI hJ

theorem icnt_reads_back (hw : srWrite s I 0x000 v = some t) (hq : I.fe = false) (hthreads : I.threads ≠ [])
    (hv : v < 2 ^ 32) : srRead t J 0x000 = BitVec.ofNat 64 v := by
  obtain rfl := Option.some.inj hw
  obtain ⟨hqr, hmask⟩ := issuer_updQuire hI hq hJ
  obtain ⟨-, -, hold⟩ := issuerOf_quire hI hq
  have hsame : J.threads = I.threads := by
    rw [Issuer.threads, Issuer.ter, hqr, hmask, Issuer.threads, Issuer.ter, hold]; rfl
  have hfirst : I.threads.headD 0 ∈ I.threads := by
    cases hl : I.threads with
    | nil => exact absurd hl hthreads
    | cons i l => exact List.mem_cons_self ..
  change (Tab.get 0 J.qr.icnt (J.threads.headD 0)).setWidth 64 = _
  rw [hsame, hqr, Tab.get, find_foldl_set, if_pos hfirst, Option.getD_some, BitVec.setWidth_ofNat_of_le_of_lt (by decide) hv]

theorem tctl_reads_back (hw : srWrite s I 0x008 v = some t) (hq : I.fe = false) :
    srRead t J 0x008 = (tctlStored v).setWidth 64 := by
  obtain rfl := Option.some.inj hw
  change J.qr.tctl.setWidth 64 = _
  rw [(issuer_updQuire hI hq hJ).1]

theorem seed_reads_back (hw : srWrite s I 0x00B v = some t) (hv : v < 2 ^ 32) : srRead t J 0x00B = BitVec.ofNat 64 v := by
  obtain rfl := Option.some.inj hw
  obtain ⟨hB, -⟩ := issuerOf_block hI
  obtain ⟨hB', -⟩ := issuerOf_block hJ
  change Tab.find (List.map _ s.blocks) _ = _ at hB'
  rw [find_map_of_keys (fun e => by split <;> rfl), hB, Option.map_some, Option.some.injEq] at hB'
  simp only [beq_self_eq_true, Bool.and_self, if_true] at hB'
  change J.blk.seed.setWidth 64 = _
  rw [← hB', BitVec.setWidth_ofNat_of_le_of_lt (by decide) hv]

theorem dstack_reads_back (hw : srWrite s I 0x010 v = some t) (hq : I.fe = false) : srRead t J 0x010 = BitVec.ofNat 64 v := by
  obtain rfl := Option.some.inj hw
  change J.qr.dstack = _
  rw [(issuer_updQuire hI hq hJ).1]

theorem sigv_reads_back (hw : srWrite s I 0x011 v = some t) (hq : I.fe = false) : srRead t J 0x011 = BitVec.ofNat 64 v := by
  obtain rfl := Option.some.inj hw
  change J.qr.sigv = _
  rw [(issuer_updQuire hI hq hJ).1]

theorem ovf_reads_back (hw : srWrite s I 0x012 v = some t) (hv : v < 2 ^ 32) : srRead t J 0x012 = BitVec.ofNat 64 v := by
  obtain rfl := Option.some.inj hw
  change J.blk.ovf.setWidth 64 = _
  rw [issuer_updBlock hI hJ, BitVec.setWidth_ofNat_of_le_of_lt (by decide) hv]

/-- TRAPPC of the level at which the unit runs. -/
theorem trappc_reads_back (hw : srWrite s I 0x018 v = some t) : srRead t J 0x018 = BitVec.ofNat 64 v := by
  obtain rfl := Option.some.inj hw
  change J.st.trapOf.regs.pc = _
  rw [issuer_updStrand hI hJ]
  by_cases hu : I.st.level = .u
  · simp [Strand.trapOf, hu]
  · simp [Strand.trapOf, hu]

theorem accown_reads_back (hw : srWrite s I 0x020 v = some t) (hv : v < 2 ^ 32) : srRead t J 0x020 = BitVec.ofNat 64 v := by
  obtain rfl := Option.some.inj hw
  change (State.coreOf _ J.blk.core).accOwn.setWidth 64 = _
  rw [issuer_sameBlocks hI hJ rfl, coreOf_updCore, BitVec.setWidth_ofNat_of_le_of_lt (by decide) hv]

theorem accused_reads_back (hw : srWrite s I 0x021 v = some t) (hv : v < 2 ^ 16) : srRead t J 0x021 = BitVec.ofNat 64 v := by
  obtain rfl := Option.some.inj hw
  change (State.coreOf _ J.blk.core).accUsed.setWidth 64 = _
  rw [issuer_sameBlocks hI hJ rfl, coreOf_updCore, BitVec.setWidth_ofNat_of_le_of_lt (by decide) hv]

end ReadBack

/-- What a write of ACNT of a tile leaves. -/
theorem srWrite_acnt {s t : State} {I : Issuer} {n v : Nat} (hlo : 0x040 ≤ n) (hhi : n ≤ 0x04F)
    (hw : srWrite s I n v = some t) :
    t = s.updCore I.blk.core fun c =>
      { c with tiles := Tab.set c.tiles (I.blk.abase + (n - 0x040))
                 ((Tab.get {} c.tiles (I.blk.abase + (n - 0x040))).setAcnt (BitVec.ofNat 32 v)) } := by
  have hacnt : srWrite s I n v = if bitAt v 24 && bitAt v 25 then none
      else some (s.updCore I.blk.core fun c =>
        { c with tiles := Tab.set c.tiles (I.blk.abase + (n - 0x040))
                   ((Tab.get {} c.tiles (I.blk.abase + (n - 0x040))).setAcnt (BitVec.ofNat 32 v)) }) := by
    rcases acntNumber_cases hlo hhi with rfl | rfl | rfl | rfl | rfl | rfl | rfl | rfl | rfl | rfl | rfl | rfl | rfl | rfl |
      rfl | rfl <;> rfl
  rw [hacnt] at hw
  split at hw
  · cases hw
  · exact (Option.some.inj hw).symm

/-- ACNT of a tile in use. -/
theorem acnt_reads_back {s t : State} {I J : Issuer} {n v : Nat} (hI : issuerOf s I.u 0 = some I)
    (hJ : issuerOf t I.u 0 = some J) (hlo : 0x040 ≤ n) (hhi : n ≤ 0x04F) (hw : srWrite s I n v = some t)
    (hused : (s.coreOf I.blk.core).accUsed.getLsbD (I.blk.abase + (n - 0x040)) = true) :
    srRead t J n = BitVec.ofNat 64 (v % 2 ^ 26) := by
  obtain rfl := srWrite_acnt hlo hhi hw
  rw [srRead_acnt _ _ hlo hhi, issuer_sameBlocks hI hJ rfl, coreOf_updCore]
  simp only [Core.tileOf, hused, if_true, Tab.get_set_self]
  exact acnt_setAcnt ..

/-! ## PGMAP and PGUNMAP (R82, R83) -/

/-- A pool with no frame left gives 2. -/
theorem pgTake_empty {s s2 s3 : State} {I : Issuer} {L : LayoutEnt} {ra va place head count : Nat} {k : State → DWord → Act}
    (hlayout : layoutOf s I.blk.pkg I.blk.part = some L)
    (hhead : walkRead s I va (L.paging.toNat + 0x14) 4 = .ok s2 head)
    (hcount : walkRead s2 I va (L.paging.toNat + 0x10) 4 = .ok s3 count) (hempty : count ≤ head) :
    pgTake s I ra va place k = k s3 2 := by
  simp only [pgTake, hlayout, hhead, hcount, andThen_ok, if_pos hempty]

/-- Otherwise the frame at POOLHEAD is zeroed where it is not clean, mapped, and taken from the pool. -/
theorem pgTake_frame {s s2 s3 s4 s5 s6 : State} {I : Issuer} {L : LayoutEnt} {ra va place head count pool e : Nat}
    {k : State → DWord → Act} (hlayout : layoutOf s I.blk.pkg I.blk.part = some L)
    (hhead : walkRead s I va (L.paging.toNat + 0x14) 4 = .ok s2 head)
    (hcount : walkRead s2 I va (L.paging.toNat + 0x10) 4 = .ok s3 count) (hleft : head < count)
    (hpool : walkRead s3 I va (L.paging.toNat + 0x08) 8 = .ok s4 pool)
    (hframe : walkRead s4 I va (pool + 8 * head) 8 = .ok s5 e)
    (hstores : placeStores s5 I va
      (if bitAt e 0 then [] else (List.range 1024).map fun j => (bits e 16 36 <<< 16 + 64 * j, List.replicate 64 0))
      [(place, leBytes 8 (bits e 16 36 <<< 16 + 512 + (ra &&& 0x1FE) + 1)), (L.paging.toNat + 0x14, leBytes 4 (head + 1))] =
        .ok s6 ()) :
    pgTake s I ra va place k = k s6 (BitVec.ofNat 64 (bits e 16 36 <<< 16)) := by
  simp only [pgTake, hlayout, hhead, hcount, hpool, hframe, andThen_ok, if_neg (Nat.not_le.mpr hleft)]
  rw [hstores, andThen_ok]

section Paging

variable {f : YY} {s s1 t : State} {I : Issuer}

section Map

variable (hi : Issues s (.pgmap f) I) (hlevel : I.st.level ≠ .u) (hra : I.pairOk f.ra.toNat = true)
  (hrd : I.pairOk f.rd.toNat = true) (hsrc : Full (I.src64 f.ra.toNat)) (hdst : Free (I.src64 f.rd.toNat))
  (hzero : (I.r64 f.ra.toNat).toNat &&& 0xFFF000000000FEE1 = 0)
include hi hlevel hra hrd hsrc hdst hzero

theorem pgmap_mapped {e p l : Nat} (hwalk : pgWalk s I (bits (I.r64 f.ra.toNat).toNat 16 36 <<< 16) = (s1, .leaf e p l)) :
    Completes (.pgmap f) s I (write64 s1 I f.rd.toNat (BitVec.ofNat 64 (bits e 16 36 <<< 16 + 1))) :=
  unit_completes hi rfl (by
    simp only [atU_eq_false hlevel, hra, hrd, withSrcs_full hsrc hdst, hzero, hwalk, bne_self_eq_false, Bool.and_self,
      Bool.not_true, Bool.false_eq_true, if_false])

theorem pgmap_noTable {l p : Nat} (hwalk : pgWalk s I (bits (I.r64 f.ra.toNat).toNat 16 36 <<< 16) = (s1, .invalid l p))
    (hl : l < 3) : Completes (.pgmap f) s I (write64 s1 I f.rd.toNat 3) :=
  unit_completes hi rfl (by
    simp only [atU_eq_false hlevel, hra, hrd, withSrcs_full hsrc hdst, hzero, hwalk, if_pos hl, bne_self_eq_false,
      Bool.and_self, Bool.not_true, Bool.false_eq_true, if_false])

/-- Where the page alone is missing, rd receives what the pool gives. -/
theorem pgmap_takes {l p : Nat} {x : DWord}
    (hwalk : pgWalk s I (bits (I.r64 f.ra.toNat).toNat 16 36 <<< 16) = (s1, .invalid l p)) (hl : 3 ≤ l)
    (htake : ∀ k, pgTake s1 I (I.r64 f.ra.toNat).toNat (bits (I.r64 f.ra.toNat).toNat 16 36 <<< 16) p k = k t x) :
    Completes (.pgmap f) s I (write64 t I f.rd.toNat x) :=
  unit_completes hi rfl (by
    simp only [atU_eq_false hlevel, hra, hrd, withSrcs_full hsrc hdst, hzero, hwalk, if_neg (Nat.not_lt.mpr hl), htake,
      bne_self_eq_false, Bool.and_self, Bool.not_true, Bool.false_eq_true, if_false])

end Map

section Unmap

variable (hi : Issues s (.pgunmap f) I) (hlevel : I.st.level ≠ .u) (hra : I.pairOk f.ra.toNat = true)
  (hsrc : Full (I.src64 f.ra.toNat)) (hpage : (I.r64 f.ra.toNat).toNat % 65536 = 0)
  (hva : (I.r64 f.ra.toNat).toNat < 2 ^ 52) (hperf : outstanding s I.u I.mask = [])
include hi hlevel hra hsrc hpage hva hperf

theorem pgunmap_unmapped {r l p : Nat}
    (hwalk : walk s I.blk.pkg I.blk.part I.blk.ctx (I.r64 f.ra.toNat).toNat = (s1, .fault r l p)) :
    Completes (.pgunmap f) s I s1 :=
  unit_completes hi rfl (by
    simp only [atU_eq_false hlevel, hra, withSrcs_full hsrc free_nil, hpage, Nat.not_le.mpr hva, hperf, hwalk,
      bne_self_eq_false, decide_false, List.isEmpty_nil, Bool.or_self, Bool.not_true, Bool.false_eq_true, if_false])

theorem pgunmap_clears {e p l : Nat}
    (hwalk : walk s I.blk.pkg I.blk.part I.blk.ctx (I.r64 f.ra.toNat).toNat = (s1, .leaf e p l))
    (hstores : placeStores s1 I (I.r64 f.ra.toNat).toNat [] [(p, leBytes 8 (e - 1))] = .ok t ()) :
    WaitsAs (.pgunmap f) s I (sweepFrom t I I.blk.part (.pages I.blk.ctx
        ((I.r64 f.ra.toNat).toNat >>> 16 >>> (9 * (3 - l)) <<< (9 * (3 - l))) (2 ^ (9 * (3 - l)))))
      (.sweep t.nextId) :=
  unit_waits hi rfl (by
    simp only [atU_eq_false hlevel, hra, withSrcs_full hsrc free_nil, hpage, Nat.not_le.mpr hva, hperf, hwalk, hstores,
      andThen_ok, startSweep_eq, bne_self_eq_false, decide_false, List.isEmpty_nil, Bool.or_self, Bool.not_true,
      Bool.false_eq_true, if_false])

end Unmap

end Paging

/-! ## TLBINV (R84) -/

theorem tlbinvOps_exec (s : State) (I : Issuer) (f : YY) : ∀ x ∈ tlbinvOps s I f,
    ∃ k : Issuer → Nat → Nat × SweepKind, exec x.1 s = tlbinvFrame x.1 f s x.2.1 x.2.2.1 k ∧ k I = x.2.2.2 := by
  simp only [tlbinvOps, List.forall_mem_cons, List.not_mem_nil, false_implies, implies_true, and_true]
  exact ⟨⟨_, exec_tlbinvPage f s, rfl⟩, ⟨_, exec_tlbinvGpage f s, rfl⟩, ⟨_, exec_tlbinvS2 f s, rfl⟩,
    ⟨_, exec_tlbinvS2all f s, rfl⟩⟩

theorem tlbinv_sweeps {f : YY} {s : State} {I : Issuer} {i : Instr} {h : Bool} {mz : Nat} {k : Nat → Nat × SweepKind}
    (hmem : (i, h, mz, k) ∈ tlbinvOps s I f) (hi : Issues s i I) (hlevel : I.st.level ≠ .u) (hh : h = true → I.st.level = .h)
    (hpair : I.pairOk f.ra.toNat = true) (hsrc : Full (I.src64 f.ra.toNat)) (hzero : (I.r64 f.ra.toNat).toNat &&& mz = 0)
    (hperf : outstanding s I.u I.mask = []) :
    WaitsAs i s I (sweepFrom s I (k (I.r64 f.ra.toNat).toNat).1 (k (I.r64 f.ra.toNat).toNat).2) (.sweep s.nextId) := by
  obtain ⟨K, hexec, rfl⟩ := tlbinvOps_exec s I f _ hmem
  exact unit_waits hi (hexec.trans (tlbinvFrame_ready hi hlevel hh hpair hsrc hzero hperf K)) (startSweep_eq ..)

theorem tlbinvBare_sweeps {s : State} {I : Issuer} {i : Instr} {k : Issuer → SweepKind} (hi : Issues s i I)
    (hexec : exec i s = tlbinvBare i s k) (hlevel : I.st.level ≠ .u) (hperf : outstanding s I.u I.mask = []) :
    WaitsAs i s I (sweepFrom s I I.blk.part (k I)) (.sweep s.nextId) :=
  unit_waits hi hexec (by
    simp only [atU_eq_false hlevel, hperf, List.isEmpty_nil, Bool.not_true, Bool.false_eq_true, if_false, startSweep_eq])

/-! ## Words above the issuer's level (R368) -/

theorem privileged_traps {f : YY} {s : State} {I : Issuer} (hu : I.st.level = .u) :
    ∀ i ∈ [Instr.pgmap f, .pgunmap f, .tlbinvPage f, .tlbinvCtx, .tlbinvPart, .tlbinvGpage f, .tlbinvS2 f, .tlbinvS2all f,
      .spilla f, .filla f], Issues s i I → Traps i s (wordTrap .illegalOp i) := by
  have hat := atU_eq_true hu
  simp only [List.forall_mem_cons, List.not_mem_nil, false_implies, implies_true, and_true]
  refine ⟨?pgmap, ?pgunmap, ?page, ?ctx, ?part, ?gpage, ?s2, ?s2all, ?spilla, ?filla⟩
  case pgmap => exact fun hi => unit_traps_word hi rfl (if_pos hat)
  case pgunmap => exact fun hi => unit_traps_word hi rfl (if_pos hat)
  case page => exact fun hi => unit_traps_word hi ((exec_tlbinvPage f s).trans (tlbinvFrame_denied hi (.inl hu) _ _)) rfl
  case ctx => exact fun hi => unit_traps_word hi rfl (if_pos hat)
  case part => exact fun hi => unit_traps_word hi rfl (if_pos hat)
  case gpage => exact fun hi => unit_traps_word hi ((exec_tlbinvGpage f s).trans (tlbinvFrame_denied hi (.inl hu) _ _)) rfl
  case s2 => exact fun hi => unit_traps_word hi ((exec_tlbinvS2 f s).trans (tlbinvFrame_denied hi (.inl hu) _ _)) rfl
  case s2all => exact fun hi => unit_traps_word hi ((exec_tlbinvS2all f s).trans (tlbinvFrame_denied hi (.inl hu) _ _)) rfl
  case spilla => exact fun hi => unit_traps_word hi ((exec_spilla f s).trans (tileFrame_denied hi hu _)) rfl
  case filla => exact fun hi => unit_traps_word hi ((exec_filla f s).trans (tileFrame_denied hi hu _)) rfl

/-- The words for H alone. -/
theorem hostWords_trap {f : YY} {s : State} {I : Issuer} (hs : I.st.level = .s) :
    ∀ i ∈ [Instr.tlbinvS2 f, .tlbinvS2all f], Issues s i I → Traps i s (wordTrap .illegalOp i) := by
  have hbelow : I.st.level ≠ .h := by rw [hs]; decide
  simp only [List.forall_mem_cons, List.not_mem_nil, false_implies, implies_true, and_true]
  exact ⟨fun hi => unit_traps_word hi ((exec_tlbinvS2 f s).trans (tlbinvFrame_denied hi (.inr ⟨rfl, hbelow⟩) _ _)) rfl,
    fun hi => unit_traps_word hi ((exec_tlbinvS2all f s).trans (tlbinvFrame_denied hi (.inr ⟨rfl, hbelow⟩) _ _)) rfl⟩

theorem sysAccess_traps {f : YY} {s : State} {I : Issuer} {i : Instr} {write : Bool}
    (hmem : (i, write) ∈ [(Instr.mfsr f, false), (Instr.mtsr f, true)]) (hi : Issues s i I)
    (hdeny : ∀ R, sysReg f.f10.toNat = some R →
      (if I.fe then R.front else R.quire) = false ∨ R.right I.st.level = .no ∨ (write = true ∧ R.right I.st.level = .ro)) :
    Traps i s (wordTrap .illegalOp i) := by
  simp only [List.mem_cons, List.not_mem_nil, or_false, Prod.mk.injEq] at hmem
  rcases hmem with ⟨rfl, rfl⟩ | ⟨rfl, rfl⟩
  · exact unit_traps_word hi ((exec_mfsr f s).trans (srFrame_denied hi hdeny _)) rfl
  · exact unit_traps_word hi ((exec_mtsr f s).trans (srFrame_denied hi hdeny _)) rfl

/-! ## SPILLA and FILLA (R375) -/

section Tiles

variable {f : YY} {s s1 s2 t : State} {I : Issuer}

theorem spilla_stores {T : Tile} (hready : TileWordReady s (.spilla f) I f.ra.toNat)
    (hT : (s.coreOf I.blk.core).tileOf f.a.toNat = T) (hgood : ∀ p, p < tilePlanes T.trip T.resOpen → p ∉ T.bad)
    (hstores : syncWrites s I
      ((tileImage T (s.coreOf I.blk.core).accOwn).map fun w => ((I.r64 f.ra.toNat).toNat + w.1, w.2)) = .ok t ()) :
    Completes (.spilla f) s I t := by
  have hnone : ((List.range (tilePlanes T.trip T.resOpen)).any T.bad.contains) = false := by
    rw [List.any_eq_false]
    intro p hp
    rw [List.contains_iff_mem]
    exact hgood p (List.mem_range.mp hp)
  exact unit_completes hready.1 ((exec_spilla f s).trans (tileFrame_ready hready _)) (by
    simp only [hT, hnone, Bool.false_eq_true, if_false, hstores, andThen_ok])

section Fill

variable {h : List Byte} (hready : TileWordReady s (.filla f) I f.ra.toNat)
  (hheader : syncRead s I (I.r64 f.ra.toNat).toNat 64 = .ok s1 h) (hok : tileHeaderOk h = true)
include hready hheader hok

theorem filla_clears (hinvalid : fld h 0 1 = 0) : Completes (.filla f) s I (setTile s1 I.blk.core f.a.toNat {} false) :=
  unit_completes hready.1 ((exec_filla f s).trans (tileFrame_ready hready _)) (by
    simp only [hheader, andThen_ok, hok, Bool.not_true, Bool.false_eq_true, if_false, beq_iff_eq.mpr hinvalid, if_true])

theorem filla_loads {l : List Byte} (hvalid : fld h 0 1 ≠ 0)
    (hplanes : syncRead s1 I ((I.r64 f.ra.toNat).toNat + 0x40)
      (0x400 * tilePlanes ((BitVec.ofNat 32 (fld h 4 4)).getLsbD 24) ((BitVec.ofNat 32 (fld h 4 4)).getLsbD 25)) = .ok s2 l) :
    Completes (.filla f) s I (setTile s2 I.blk.core f.a.toNat
      (({ elems := (wordsOf l).zipIdx.map fun x => (x.2, x.1) } : Tile).setAcnt (BitVec.ofNat 32 (fld h 4 4))) true) :=
  unit_completes hready.1 ((exec_filla f s).trans (tileFrame_ready hready _)) (by
    simp only [hheader, andThen_ok, hok, Bool.not_true, Bool.false_eq_true, if_false, beq_eq_false_iff_ne.mpr hvalid, hplanes])

end Fill

end Tiles

/-! ## SAVEL and LOADL (R374) -/

theorem savel_stores {f : YY} {s s1 s2 t : State} {I : Issuer} {l c : List Byte} {e : LiveEnt}
    (hready : SaveReady s (.savel f) I f s1 l e)
    (hold : if e.named.c = [] then s2 = s1 ∧ c = [] else syncRead s1 I ((I.r64 f.ra.toNat).toNat + I.cAt) 1 = .ok s2 c)
    (hstores : syncWrites s2 I ((saveParts I e.named (ofLe c)).map fun w => ((I.r64 f.ra.toNat).toNat + w.1, w.2)) = .ok t ()) :
    Completes (.savel f) s I t := by
  have hbyte : (if e.named.c.isEmpty then Sync.ok s1 [] else syncRead s1 I ((I.r64 f.ra.toNat).toNat + I.cAt) 1) = .ok s2 c := by
    by_cases hc : e.named.c = []
    · rw [if_pos hc] at hold
      obtain ⟨rfl, rfl⟩ := hold
      rw [hc]; rfl
    · rw [if_neg hc] at hold
      rwa [if_neg (mt List.isEmpty_iff.mp hc)]
  exact unit_completes hready.1 ((exec_savel f s).trans (saveFrame_ready hready _)) (by
    simp only [hbyte, andThen_ok, hstores])

/-- LOADL with the count of notes in the header, and data the bytes that the register reads give, by number. -/
theorem loadl_loads {f : YY} {s s1 s2 s3 t : State} {I : Issuer} {l h n : List Byte} {e : LiveEnt} {notes : List NoteRec}
    {ds : List (List Byte)} {count : Nat} {data : Nat → List Byte} (hready : SaveReady s (.loadl f) I f s1 l e)
    (hheader : syncRead s1 I ((I.r64 f.ra.toNat).toNat + I.cAt) (if I.fe then 64 else 128) = .ok s2 h)
    (hcount : (if I.fe then fld h 8 4 else fld h 0x10 4) = count) (hmost : count ≤ if I.fe then 31 else 96)
    (hok : headerOk I.fe h = true)
    (hrecords : syncRead s2 I ((I.r64 f.ra.toNat).toNat + I.notesAt) (32 * count) = .ok s3 n)
    (hnotes : parseNotes n count (noteFits I) = some notes)
    (hreads : syncReads s3 I ((loadReads e.named).map fun x => ((I.r64 f.ra.toNat).toNat + x.2.1, x.2.2)) = .ok t ds)
    (hdata : Tab.get [] (((loadReads e.named).zip ds).map fun x => (x.1.1, x.2)) = data)
    (hpad : ∀ r ∈ e.named.k, fld (data (32 + r)) 12 4 = 0) :
    Completes (.loadl f) s I (loadRegs t I e.named h notes data) := by
  have hpreds : predPadOk e.named data = true := List.all_eq_true.mpr fun r hr => beq_iff_eq.mpr (hpad r hr)
  exact unit_completes hready.1 ((exec_loadl f s).trans (saveFrame_ready hready _)) (by
    simp only [hheader, andThen_ok, hcount, Nat.not_lt.mpr hmost, hok, hrecords, hnotes, hreads, hdata, hpreds, decide_false,
      Bool.not_true, Bool.or_self, Bool.false_eq_true, if_false, if_true])

/-! ## WAITEV (R373) -/

theorem waitev_waits {f : YY} {s : State} {I : Issuer} (hi : Issues s (.waitev f) I) (hlow : f.f10.toNat < 16)
    (hone : isPow2 f.f10.toNat = true) (hlevel : evAllowed I.st.level f.f10.toNat = true)
    (hpair : I.pairOk f.rd.toNat = true) (hdst : Free (I.src64 f.rd.toNat)) :
    WaitsAs (.waitev f) s I s (.waitev (Nat.log2 f.f10.toNat) f.rd.toNat) :=
  unit_waits hi rfl (by
    simp only [Nat.mod_eq_of_lt hlow, hlevel, Nat.not_le.mpr hlow, hone, hpair, withSrcs_full full_nil hdst, decide_false,
      Bool.not_true, Bool.or_self, Bool.false_eq_true, if_false])

/-! ## The statement -/

theorem quire_of_frontless {I : Issuer} {R : SysReg} (hfront : I.fe = true → R.front = true) (hR : R.front = false) :
    I.fe = false :=
  eq_false_of_ne_true fun hfe => by rw [hfront hfe] at hR; cases hR

/-- The registers of R202 that keep all that is written, each at its width. -/
theorem kept_reads_back {s t : State} {I J : Issuer} {n v : Nat} {R : SysReg} (hI : issuerOf s I.u 0 = some I)
    (hJ : issuerOf t I.u 0 = some J) (hR : sysReg n = some R) (hv : v < 2 ^ R.width) (hw : srWrite s I n v = some t)
    (hn : n ∈ [0x00B, 0x010, 0x011, 0x012, 0x018, 0x020, 0x021] ∨ n = 0x000 ∧ I.threads ≠ [])
    (hfront : I.fe = true → R.front = true) : srRead t J n = BitVec.ofNat 64 v := by
  simp only [List.mem_cons, List.not_mem_nil, or_false] at hn
  rcases hn with (rfl | rfl | rfl | rfl | rfl | rfl | rfl) | ⟨rfl, hthreads⟩ <;> obtain rfl := Option.some.inj hR
  · exact seed_reads_back hI hJ hw hv
  · exact dstack_reads_back hI hJ hw (quire_of_frontless hfront rfl)
  · exact sigv_reads_back hI hJ hw (quire_of_frontless hfront rfl)
  · exact ovf_reads_back hI hJ hw hv
  · exact trappc_reads_back hI hJ hw
  · exact accown_reads_back hI hJ hw hv
  · exact accused_reads_back hI hJ hw hv
  · exact icnt_reads_back hI hJ hw (quire_of_frontless hfront rfl) hthreads hv

/-- Settles O51: each word's frame leaves it its effect, below its level ILLEGAL_OP; a register reads back by what MTSR
writes of it. -/
theorem systemWordsComplete : Obligations.SystemWordsComplete := by
  refine ⟨⟨?nop, ?nopFields⟩, ?mfsr, ?late, ?mtsr, ?readBack, ?privileged, ?closed, ?pgmap, ?pgunmap, ?tlbinv, ?tlbinvBare,
    ?spilla, ?filla, ?savel, ?loadl, ?waitev⟩
  case nop => exact fun s I hi => unit_completes hi rfl rfl
  case nopFields => exact fun w => decode_nop_fields
  case mfsr => exact fun f s I R hi hallow hfree => ⟨mfsr_now hi hallow hfree, mfsr_late hi hallow hfree⟩
  case late =>
    intro s id n op I hmem hsr hwaits hended hI
    have htaken := captureSr_takes hmem hsr hwaits hended
    refine ⟨fun hn => ?_, ?_⟩
    · rwa [lateValue_eq_srRead hI hn] at htaken
    · rintro rfl hq
      rwa [lateValue_tstat hI hq] at htaken
  case mtsr =>
    intro f s t I R hi hallow hsrc hnow hlate v hv
    exact ⟨mtsr_writes hi hallow hsrc hnow hlate hv, mtsr_renames hi hallow hsrc hnow hlate hv⟩
  case readBack =>
    intro s t I J n v R hI hR hv hw hJ
    refine ⟨fun hn hfront _ => kept_reads_back hI hJ hR hv hw hn hfront, ?_, fun hlo hhi => acnt_reads_back hI hJ hlo hhi hw⟩
    rintro rfl hq
    rw [tctl_reads_back hI hJ hw hq, tctlStored_value]
  case privileged =>
    intro f s I i hmem hi hlevel
    rcases hlevel with hu | ⟨hhost, hs⟩
    · exact privileged_traps hu i hmem hi
    · exact hostWords_trap hs i hhost hi
  case closed => exact fun f s I i write => sysAccess_traps
  case pgmap =>
    intro f s I hi hlevel hra hrd hsrc hdst v va hzero
    refine ⟨fun s1 e p l hwalk => pgmap_mapped hi hlevel hra hrd hsrc hdst hzero hwalk,
      fun s1 l p hwalk => pgmap_noTable hi hlevel hra hrd hsrc hdst hzero hwalk, ?_⟩
    intro s1 l p L s2 head s3 count hwalk hl hlayout hhead hcount
    refine ⟨fun hempty => ?_, ?_⟩
    · exact pgmap_takes hi hlevel hra hrd hsrc hdst hzero hwalk hl fun k => pgTake_empty hlayout hhead hcount hempty
    · intro s4 pool s5 e s6 hleft hpool hframe frame hstores
      exact pgmap_takes hi hlevel hra hrd hsrc hdst hzero hwalk hl fun k =>
        pgTake_frame hlayout hhead hcount hleft hpool hframe hstores
  case pgunmap =>
    intro f s I hi hlevel hra hsrc v hpage hva hperf w
    exact ⟨fun s1 r l p => pgunmap_unmapped hi hlevel hra hsrc hpage hva hperf,
      fun e p l s1 s2 => pgunmap_clears hi hlevel hra hsrc hpage hva hperf⟩
  case tlbinv => exact fun f s I i h mz k => tlbinv_sweeps
  case tlbinvBare =>
    intro s I i k hmem hi hlevel hperf
    simp only [List.mem_cons, List.not_mem_nil, or_false, Prod.mk.injEq] at hmem
    rcases hmem with ⟨rfl, rfl⟩ | ⟨rfl, rfl⟩
    · exact tlbinvBare_sweeps hi (exec_tlbinvCtx s) hlevel hperf
    · exact tlbinvBare_sweeps hi (exec_tlbinvPart s) hlevel hperf
  case spilla => exact fun f s t I hready => spilla_stores hready rfl
  case filla =>
    exact fun f s s1 I h hready hheader hok =>
      ⟨filla_clears hready hheader hok, fun s2 l hvalid => filla_loads hready hheader hok hvalid⟩
  case savel => exact fun f s s1 s2 s3 I l c e => savel_stores
  case loadl =>
    intro f s s1 s2 s3 s4 I l h n e notes ds hready a hheader count hcount hok hrecords hnotes hreads data
    exact loadl_loads hready hheader rfl hcount hok hrecords hnotes hreads rfl
  case waitev => exact fun f s I => waitev_waits

end Sys2Proof.SystemProofs
end

section
/-! PROOFS. Facts about lists that core Lean does not state. -/

namespace Sys2Proof.ListFacts

variable {α β : Type}

/-- Where a map has no value twice, what it takes to one value is one element. -/
theorem eq_of_map_nodup {f : α → β} {l : List α} (h : (l.map f).Nodup) {x y : α} (hx : x ∈ l) (hy : y ∈ l)
    (hxy : f x = f y) : x = y := by
  induction l with
  | nil => cases hx
  | cons a l ih =>
    obtain ⟨hnot, hrest⟩ := List.nodup_cons.mp (List.map_cons ▸ h)
    cases hx with
    | head =>
      cases hy with
      | head => rfl
      | tail _ hy => exact absurd (hxy ▸ List.mem_map_of_mem hy) hnot
    | tail _ hx =>
      cases hy with
      | head => exact absurd (hxy ▸ List.mem_map_of_mem hx) hnot
      | tail _ hy => exact ih hrest hx hy

/-- Induction on a list from its end. -/
theorem snoc_induction {motive : List α → Prop} (nil : motive []) (snoc : ∀ l a, motive l → motive (l ++ [a])) (l : List α) :
    motive l := by
  have hrev : ∀ m : List α, motive m.reverse := by
    intro m
    induction m with
    | nil => exact nil
    | cons a m ih => exact List.reverse_cons ▸ snoc _ a ih
  exact List.reverse_reverse l ▸ hrev l.reverse

theorem filterMap_eq_of_forall {f g : α → Option β} {l : List α} (h : ∀ x ∈ l, f x = g x) : l.filterMap f = l.filterMap g := by
  induction l with
  | nil => rfl
  | cons a l ih =>
    have hrest := ih fun x hx => h x (List.mem_cons_of_mem _ hx)
    rw [List.filterMap_cons, List.filterMap_cons, h a (List.mem_cons_self ..), hrest]

theorem flatMap_eq_of_forall {f g : α → List β} {l : List α} (h : ∀ x ∈ l, f x = g x) : l.flatMap f = l.flatMap g := by
  induction l with
  | nil => rfl
  | cons a l ih =>
    rw [List.flatMap_cons, List.flatMap_cons, h a (List.mem_cons_self ..), ih fun x hx => h x (List.mem_cons_of_mem _ hx)]

theorem length_filter_le_of_imp {p q : α → Bool} (l : List α) (h : ∀ x, p x = true → q x = true) :
    (l.filter p).length ≤ (l.filter q).length := by
  rw [← List.countP_eq_length_filter, ← List.countP_eq_length_filter]
  exact List.countP_mono_left fun x _ hx => h x hx

theorem filter_single (p : α → Bool) (a : α) : [a].filter p = if p a then [a] else [] := by
  rw [List.filter_cons, List.filter_nil]

end Sys2Proof.ListFacts
end

section
/-! PROOFS. The decoder and the encoder are inverse to each other (02_instruction_words.md R32, R35 to R44): a format's fields
make up its word again, a row writes what it reads, and at most one row of a class reads a word. -/

namespace Sys2Proof.CodecProofs

open Sys2Proof.Laws

/-! ## The fields of a word make up the word -/

/-- Two neighbouring fields of a word make one field. -/
theorem extract_join {n : Nat} (w : BitVec n) {a a' b c : Nat} (h : a' = a + b) :
    w.extractLsb' a' c ++ w.extractLsb' a b = w.extractLsb' a (c + b) := by
  subst h
  ext i hi
  simp only [BitVec.getElem_append, BitVec.getElem_extractLsb']
  split
  · rfl
  · rw [show a + b + (i - b) = a + i by omega]

/-- A format whose must-be-zero fields are checked gives fields where the check holds. -/
theorem some_of_ite {α : Type} {b : Bool} {x y : α} (h : (if b then some x else none) = some y) : b = true ∧ x = y := by
  cases b
  · cases h
  · exact ⟨rfl, Option.some.inj h⟩

theorem VV.forth {w : Word} {f : VV} (h : VV.ofWord w = some f) : f.bits = w.extractLsb' 0 24 := by
  obtain rfl := Option.some.inj h
  simp only [VV.bits, extract_join]
theorem VI.forth {w : Word} {f : VI} (h : VI.ofWord w = some f) : f.bits = w.extractLsb' 0 24 := by
  obtain rfl := Option.some.inj h
  simp only [VI.bits, extract_join]
theorem VM.forth {w : Word} {f : VM} (h : VM.ofWord w = some f) : f.bits = w.extractLsb' 0 24 := by
  obtain ⟨hz, rfl⟩ := some_of_ite h
  rw [beq_iff_eq] at hz
  simp only [VM.bits, ← hz, extract_join]
theorem VC.forth {w : Word} {f : VC} (h : VC.ofWord w = some f) : f.bits = w.extractLsb' 0 24 := by
  obtain rfl := Option.some.inj h
  simp only [VC.bits, extract_join]
theorem VK.forth {w : Word} {f : VK} (h : VK.ofWord w = some f) : f.bits = w.extractLsb' 0 24 := by
  obtain ⟨hz, rfl⟩ := some_of_ite h
  rw [beq_iff_eq] at hz
  simp only [VK.bits, ← hz, extract_join]
theorem VT.forth {w : Word} {f : VT} (h : VT.ofWord w = some f) : f.bits = w.extractLsb' 0 24 := by
  obtain rfl := Option.some.inj h
  simp only [VT.bits, extract_join]
theorem VR.forth {w : Word} {f : VR} (h : VR.ofWord w = some f) : f.bits = w.extractLsb' 0 24 := by
  obtain ⟨hz, h⟩ := some_of_ite h
  simp only [Bool.and_eq_true, beq_iff_eq] at hz
  obtain ⟨hz0, hz1⟩ := hz
  subst h
  simp only [VR.bits, ← hz0, ← hz1, extract_join]
theorem KF.forth {w : Word} {f : KF} (h : KF.ofWord w = some f) : f.bits = w.extractLsb' 0 24 := by
  obtain ⟨hz, rfl⟩ := some_of_ite h
  rw [beq_iff_eq] at hz
  simp only [KF.bits, ← hz, extract_join]
theorem SF.forth {w : Word} {f : SF} (h : SF.ofWord w = some f) : f.bits = w.extractLsb' 0 24 := by
  obtain ⟨hz, rfl⟩ := some_of_ite h
  rw [beq_iff_eq] at hz
  simp only [SF.bits, ← hz, extract_join]
theorem SI.forth {w : Word} {f : SI} (h : SI.ofWord w = some f) : f.bits = w.extractLsb' 0 24 := by
  obtain ⟨hz, rfl⟩ := some_of_ite h
  rw [beq_iff_eq] at hz
  simp only [SI.bits, ← hz, extract_join]
theorem MV.forth {w : Word} {f : MV} (h : MV.ofWord w = some f) : f.bits = w.extractLsb' 0 24 := by
  obtain rfl := Option.some.inj h
  simp only [MV.bits, extract_join]
theorem MA.forth {w : Word} {f : MA} (h : MA.ofWord w = some f) : f.bits = w.extractLsb' 0 24 := by
  obtain rfl := Option.some.inj h
  simp only [MA.bits, extract_join]
theorem MS.forth {w : Word} {f : MS} (h : MS.ofWord w = some f) : f.bits = w.extractLsb' 0 24 := by
  obtain rfl := Option.some.inj h
  simp only [MS.bits, extract_join]
theorem MU.forth {w : Word} {f : MU} (h : MU.ofWord w = some f) : f.bits = w.extractLsb' 0 24 := by
  obtain rfl := Option.some.inj h
  simp only [MU.bits, extract_join]
theorem MF.forth {w : Word} {f : MF} (h : MF.ofWord w = some f) : f.bits = w.extractLsb' 0 24 := by
  obtain ⟨hz, h⟩ := some_of_ite h
  simp only [Bool.and_eq_true, beq_iff_eq] at hz
  obtain ⟨⟨hz0, hz1⟩, hz2⟩ := hz
  subst h
  simp only [MF.bits, ← hz0, ← hz1, ← hz2, extract_join]
theorem MM.forth {w : Word} {f : MM} (h : MM.ofWord w = some f) : f.bits = w.extractLsb' 0 24 := by
  obtain rfl := Option.some.inj h
  simp only [MM.bits, extract_join]
theorem EE.forth {w : Word} {f : EE} (h : EE.ofWord w = some f) : f.bits = w.extractLsb' 0 24 := by
  obtain rfl := Option.some.inj h
  simp only [EE.bits, extract_join]
theorem CB.forth {w : Word} {f : CB} (h : CB.ofWord w = some f) : f.bits = w.extractLsb' 0 24 := by
  obtain rfl := Option.some.inj h
  simp only [CB.bits, extract_join]
theorem CO.forth {w : Word} {f : CO} (h : CO.ofWord w = some f) : f.bits = w.extractLsb' 0 24 := by
  obtain ⟨hz, rfl⟩ := some_of_ite h
  rw [beq_iff_eq] at hz
  simp only [CO.bits, ← hz, extract_join]
theorem CS.forth {w : Word} {f : CS} (h : CS.ofWord w = some f) : f.bits = w.extractLsb' 0 24 := by
  obtain rfl := Option.some.inj h
  simp only [CS.bits, extract_join]
theorem CJ.forth {w : Word} {f : CJ} (h : CJ.ofWord w = some f) : f.bits = w.extractLsb' 0 24 := by
  obtain ⟨hz, h⟩ := some_of_ite h
  simp only [Bool.and_eq_true, beq_iff_eq] at hz
  obtain ⟨hz0, hz1⟩ := hz
  subst h
  calc _ = w.extractLsb' 17 7 ++ w.extractLsb' 15 2 ++ w.extractLsb' 14 1 ++ w.extractLsb' 7 7 ++ w.extractLsb' 5 2 ++
        w.extractLsb' 0 5 := by
        rw [hz0, hz1, CJ.bits]
    _ = w.extractLsb' 0 24 := by simp only [extract_join]
theorem CR.forth {w : Word} {f : CR} (h : CR.ofWord w = some f) : f.bits = w.extractLsb' 0 24 := by
  obtain ⟨hz, h⟩ := some_of_ite h
  simp only [Bool.and_eq_true, beq_iff_eq] at hz
  obtain ⟨hz0, hz1⟩ := hz
  subst h
  simp only [CR.bits, ← hz0, ← hz1, extract_join]
theorem CQ.forth {w : Word} {f : CQ} (h : CQ.ofWord w = some f) : f.bits = w.extractLsb' 0 24 := by
  obtain ⟨hz, rfl⟩ := some_of_ite h
  rw [beq_iff_eq] at hz
  simp only [CQ.bits, ← hz, extract_join]
theorem CW.forth {w : Word} {f : CW} (h : CW.ofWord w = some f) : f.bits = w.extractLsb' 0 24 := by
  obtain ⟨hz, rfl⟩ := some_of_ite h
  rw [beq_iff_eq] at hz
  simp only [CW.bits, ← hz, extract_join]
theorem CM.forth {w : Word} {f : CM} (h : CM.ofWord w = some f) : f.bits = w.extractLsb' 0 24 := by
  obtain ⟨hz, rfl⟩ := some_of_ite h
  rw [beq_iff_eq] at hz
  simp only [CM.bits, ← hz, extract_join]
theorem XR.forth {w : Word} {f : XR} (h : XR.ofWord w = some f) : f.bits = w.extractLsb' 0 24 := by
  obtain rfl := Option.some.inj h
  simp only [XR.bits, extract_join]
theorem XI.forth {w : Word} {f : XI} (h : XI.ofWord w = some f) : f.bits = w.extractLsb' 0 24 := by
  obtain rfl := Option.some.inj h
  simp only [XI.bits, extract_join]
theorem XL.forth {w : Word} {f : XL} (h : XL.ofWord w = some f) : f.bits = w.extractLsb' 0 24 := by
  obtain ⟨hz, rfl⟩ := some_of_ite h
  rw [beq_iff_eq] at hz
  simp only [XL.bits, ← hz, extract_join]
theorem XC.forth {w : Word} {f : XC} (h : XC.ofWord w = some f) : f.bits = w.extractLsb' 0 24 := by
  obtain ⟨hz, rfl⟩ := some_of_ite h
  rw [beq_iff_eq] at hz
  simp only [XC.bits, ← hz, extract_join]
theorem XCI.forth {w : Word} {f : XCI} (h : XCI.ofWord w = some f) : f.bits = w.extractLsb' 0 24 := by
  obtain rfl := Option.some.inj h
  simp only [XCI.bits, extract_join]
theorem XJ.forth {w : Word} {f : XJ} (h : XJ.ofWord w = some f) : f.bits = w.extractLsb' 0 24 := by
  obtain rfl := Option.some.inj h
  rfl
theorem YY.forth {w : Word} {f : YY} (h : YY.ofWord w = some f) : f.bits = w.extractLsb' 0 24 := by
  obtain rfl := Option.some.inj h
  simp only [YY.bits, extract_join]
theorem YT.forth {w : Word} {f : YT} (h : YT.ofWord w = some f) : f.bits = w.extractLsb' 0 24 := by
  obtain ⟨hz, rfl⟩ := some_of_ite h
  rw [beq_iff_eq] at hz
  simp only [YT.bits, ← hz, extract_join]

/-! ## A row writes what it reads -/

/-- The instruction that row r of class c reads from a word of its opcode encodes to that class and word. -/
def RowWrites (c : Cls) (r : Row) : Prop :=
  ∀ (w : Word) (i : Instr), r.op = opcodeOf w → r.read w = some i → encode i = some (c, w)

/-- A row of a format: the constructor's encoding is the opcode and the format's bits. -/
theorem RowWrites.of_format {F : Type} {read : Word → Option F} {bits : F → BitVec 24} {mk : F → Instr} {c : Cls}
    {o : BitVec 8} {op n : Nat} {m p : Word} (forth : ∀ {w f}, read w = some f → bits f = w.extractLsb' 0 24)
    (hmk : ∀ f, encode (mk f) = some (c, o ++ bits f)) (ho : o.toNat = op) :
    RowWrites c ⟨op, n, m, p, fun w => (read w).map mk⟩ := by
  intro w i hop hread
  obtain ⟨f, hf, rfl⟩ := Option.map_eq_some_iff.mp hread
  have hopcode : o = w.extractLsb' 24 8 := BitVec.eq_of_toNat_eq (ho.trans hop)
  have hjoin : w.extractLsb' 24 8 ++ w.extractLsb' 0 24 = w := (extract_join w (a := 0) (b := 24) rfl).trans (extract_all w)
  rw [hmk, forth hf, hopcode, hjoin]

/-- A row of one word. -/
theorem RowWrites.of_constant {x : Word} {i : Instr} {c : Cls} {op n : Nat} {m p : Word} (hi : encode i = some (c, x)) :
    RowWrites c ⟨op, n, m, p, fun w => if w = x then some i else none⟩ := by
  intro w j _ hread
  simp only at hread
  split at hread
  · next hw => cases hread; rw [hi, hw]
  · cases hread

theorem vecRows0_write : ∀ r ∈ vecRows0, RowWrites .vec r := by
  simp only [vecRows0, List.forall_mem_cons, List.not_mem_nil, false_implies, implies_true, and_true]
  exact ⟨
    .of_format VV.forth (fun _ => rfl) rfl, .of_format VV.forth (fun _ => rfl) rfl, .of_format VV.forth (fun _ => rfl) rfl,
    .of_format VV.forth (fun _ => rfl) rfl, .of_format VV.forth (fun _ => rfl) rfl, .of_format VV.forth (fun _ => rfl) rfl,
    .of_format VV.forth (fun _ => rfl) rfl, .of_format VV.forth (fun _ => rfl) rfl, .of_format VV.forth (fun _ => rfl) rfl,
    .of_format VV.forth (fun _ => rfl) rfl, .of_format VV.forth (fun _ => rfl) rfl, .of_format VV.forth (fun _ => rfl) rfl,
    .of_format VV.forth (fun _ => rfl) rfl, .of_format VV.forth (fun _ => rfl) rfl, .of_format VV.forth (fun _ => rfl) rfl,
    .of_format VV.forth (fun _ => rfl) rfl, .of_format VV.forth (fun _ => rfl) rfl, .of_format VV.forth (fun _ => rfl) rfl,
    .of_format VV.forth (fun _ => rfl) rfl, .of_format VV.forth (fun _ => rfl) rfl, .of_format VV.forth (fun _ => rfl) rfl,
    .of_format VV.forth (fun _ => rfl) rfl, .of_format VV.forth (fun _ => rfl) rfl, .of_format VV.forth (fun _ => rfl) rfl,
    .of_format VV.forth (fun _ => rfl) rfl, .of_format VV.forth (fun _ => rfl) rfl, .of_format VV.forth (fun _ => rfl) rfl,
    .of_format VV.forth (fun _ => rfl) rfl, .of_format VV.forth (fun _ => rfl) rfl, .of_format VI.forth (fun _ => rfl) rfl⟩
theorem vecRows1_write : ∀ r ∈ vecRows1, RowWrites .vec r := by
  simp only [vecRows1, List.forall_mem_cons, List.not_mem_nil, false_implies, implies_true, and_true]
  exact ⟨
    .of_format VI.forth (fun _ => rfl) rfl, .of_format VI.forth (fun _ => rfl) rfl, .of_format VI.forth (fun _ => rfl) rfl,
    .of_format VI.forth (fun _ => rfl) rfl, .of_format VI.forth (fun _ => rfl) rfl, .of_format VI.forth (fun _ => rfl) rfl,
    .of_format VM.forth (fun _ => rfl) rfl, .of_format VM.forth (fun _ => rfl) rfl, .of_format VV.forth (fun _ => rfl) rfl,
    .of_format VK.forth (fun _ => rfl) rfl, .of_format VV.forth (fun _ => rfl) rfl, .of_format VV.forth (fun _ => rfl) rfl,
    .of_format VV.forth (fun _ => rfl) rfl, .of_format VV.forth (fun _ => rfl) rfl, .of_format VV.forth (fun _ => rfl) rfl,
    .of_format VV.forth (fun _ => rfl) rfl, .of_format VV.forth (fun _ => rfl) rfl, .of_format VV.forth (fun _ => rfl) rfl,
    .of_format VV.forth (fun _ => rfl) rfl, .of_format VC.forth (fun _ => rfl) rfl, .of_format VC.forth (fun _ => rfl) rfl,
    .of_format VC.forth (fun _ => rfl) rfl, .of_format VC.forth (fun _ => rfl) rfl, .of_format VV.forth (fun _ => rfl) rfl,
    .of_format VV.forth (fun _ => rfl) rfl, .of_format VV.forth (fun _ => rfl) rfl, .of_format VV.forth (fun _ => rfl) rfl,
    .of_format VV.forth (fun _ => rfl) rfl, .of_format VV.forth (fun _ => rfl) rfl, .of_format VV.forth (fun _ => rfl) rfl⟩
theorem vecRows2_write : ∀ r ∈ vecRows2, RowWrites .vec r := by
  simp only [vecRows2, List.forall_mem_cons, List.not_mem_nil, false_implies, implies_true, and_true]
  exact ⟨
    .of_format VV.forth (fun _ => rfl) rfl, .of_format VV.forth (fun _ => rfl) rfl, .of_format VV.forth (fun _ => rfl) rfl,
    .of_format VV.forth (fun _ => rfl) rfl, .of_format VV.forth (fun _ => rfl) rfl, .of_format VV.forth (fun _ => rfl) rfl,
    .of_format VV.forth (fun _ => rfl) rfl, .of_format VV.forth (fun _ => rfl) rfl, .of_format VV.forth (fun _ => rfl) rfl,
    .of_format VV.forth (fun _ => rfl) rfl, .of_format VV.forth (fun _ => rfl) rfl, .of_format VV.forth (fun _ => rfl) rfl,
    .of_format VV.forth (fun _ => rfl) rfl, .of_format VV.forth (fun _ => rfl) rfl, .of_format VV.forth (fun _ => rfl) rfl,
    .of_format VV.forth (fun _ => rfl) rfl, .of_format VV.forth (fun _ => rfl) rfl, .of_format VV.forth (fun _ => rfl) rfl,
    .of_format VT.forth (fun _ => rfl) rfl, .of_format VT.forth (fun _ => rfl) rfl, .of_format VT.forth (fun _ => rfl) rfl,
    .of_format VR.forth (fun _ => rfl) rfl, .of_format VR.forth (fun _ => rfl) rfl, .of_format VR.forth (fun _ => rfl) rfl,
    .of_format VR.forth (fun _ => rfl) rfl, .of_format VK.forth (fun _ => rfl) rfl, .of_format KF.forth (fun _ => rfl) rfl,
    .of_format KF.forth (fun _ => rfl) rfl, .of_format KF.forth (fun _ => rfl) rfl, .of_format KF.forth (fun _ => rfl) rfl⟩
theorem vecRows3_write : ∀ r ∈ vecRows3, RowWrites .vec r := by
  simp only [vecRows3, List.forall_mem_cons, List.not_mem_nil, false_implies, implies_true, and_true]
  exact ⟨
    .of_format KF.forth (fun _ => rfl) rfl, .of_format KF.forth (fun _ => rfl) rfl, .of_format KF.forth (fun _ => rfl) rfl,
    .of_format KF.forth (fun _ => rfl) rfl, .of_format KF.forth (fun _ => rfl) rfl, .of_format SF.forth (fun _ => rfl) rfl,
    .of_format SF.forth (fun _ => rfl) rfl, .of_format SF.forth (fun _ => rfl) rfl, .of_format SF.forth (fun _ => rfl) rfl,
    .of_format SF.forth (fun _ => rfl) rfl, .of_format SF.forth (fun _ => rfl) rfl, .of_format SF.forth (fun _ => rfl) rfl,
    .of_format SF.forth (fun _ => rfl) rfl, .of_format SF.forth (fun _ => rfl) rfl, .of_format SI.forth (fun _ => rfl) rfl,
    .of_format SF.forth (fun _ => rfl) rfl, .of_format VV.forth (fun _ => rfl) rfl, .of_format VV.forth (fun _ => rfl) rfl,
    .of_format VV.forth (fun _ => rfl) rfl, .of_format VV.forth (fun _ => rfl) rfl, .of_format VV.forth (fun _ => rfl) rfl⟩
theorem memRows_write : ∀ r ∈ memRows, RowWrites .mem r := by
  simp only [memRows, List.forall_mem_cons, List.not_mem_nil, false_implies, implies_true, and_true]
  exact ⟨
    .of_format MV.forth (fun _ => rfl) rfl, .of_format MV.forth (fun _ => rfl) rfl, .of_format MV.forth (fun _ => rfl) rfl,
    .of_format MV.forth (fun _ => rfl) rfl, .of_format MS.forth (fun _ => rfl) rfl, .of_format MS.forth (fun _ => rfl) rfl,
    .of_format MU.forth (fun _ => rfl) rfl, .of_format MU.forth (fun _ => rfl) rfl, .of_format MA.forth (fun _ => rfl) rfl,
    .of_format MA.forth (fun _ => rfl) rfl, .of_format MA.forth (fun _ => rfl) rfl, .of_format MS.forth (fun _ => rfl) rfl,
    .of_format MV.forth (fun _ => rfl) rfl, .of_format MV.forth (fun _ => rfl) rfl, .of_format MF.forth (fun _ => rfl) rfl,
    .of_format MF.forth (fun _ => rfl) rfl, .of_format MF.forth (fun _ => rfl) rfl, .of_format MF.forth (fun _ => rfl) rfl,
    .of_constant rfl⟩
theorem matRows_write : ∀ r ∈ matRows, RowWrites .mat r := by
  simp only [matRows, List.forall_mem_cons, List.not_mem_nil, false_implies, implies_true, and_true]
  exact ⟨
    .of_format MM.forth (fun _ => rfl) rfl, .of_format MM.forth (fun _ => rfl) rfl, .of_format MM.forth (fun _ => rfl) rfl,
    .of_format MM.forth (fun _ => rfl) rfl, .of_format MM.forth (fun _ => rfl) rfl, .of_format MM.forth (fun _ => rfl) rfl,
    .of_format MM.forth (fun _ => rfl) rfl, .of_format MM.forth (fun _ => rfl) rfl, .of_format MM.forth (fun _ => rfl) rfl,
    .of_format MM.forth (fun _ => rfl) rfl, .of_format MM.forth (fun _ => rfl) rfl, .of_format MM.forth (fun _ => rfl) rfl,
    .of_format MM.forth (fun _ => rfl) rfl, .of_format MM.forth (fun _ => rfl) rfl⟩
theorem engRows_write : ∀ r ∈ engRows, RowWrites .eng r := by
  simp only [engRows, List.forall_mem_cons, List.not_mem_nil, false_implies, implies_true, and_true]
  exact ⟨
    .of_format EE.forth (fun _ => rfl) rfl, .of_format EE.forth (fun _ => rfl) rfl, .of_format EE.forth (fun _ => rfl) rfl,
    .of_format EE.forth (fun _ => rfl) rfl, .of_format EE.forth (fun _ => rfl) rfl, .of_format EE.forth (fun _ => rfl) rfl,
    .of_format EE.forth (fun _ => rfl) rfl, .of_format EE.forth (fun _ => rfl) rfl, .of_format EE.forth (fun _ => rfl) rfl,
    .of_format EE.forth (fun _ => rfl) rfl, .of_format EE.forth (fun _ => rfl) rfl, .of_format EE.forth (fun _ => rfl) rfl,
    .of_format EE.forth (fun _ => rfl) rfl, .of_format EE.forth (fun _ => rfl) rfl, .of_format EE.forth (fun _ => rfl) rfl,
    .of_format EE.forth (fun _ => rfl) rfl, .of_format EE.forth (fun _ => rfl) rfl, .of_format EE.forth (fun _ => rfl) rfl⟩
theorem ctlRows_write : ∀ r ∈ ctlRows, RowWrites .ctl r := by
  simp only [ctlRows, List.forall_mem_cons, List.not_mem_nil, false_implies, implies_true, and_true]
  exact ⟨
    .of_format CB.forth (fun _ => rfl) rfl, .of_format CO.forth (fun _ => rfl) rfl, .of_format CO.forth (fun _ => rfl) rfl,
    .of_format CS.forth (fun _ => rfl) rfl, .of_format CO.forth (fun _ => rfl) rfl, .of_format CJ.forth (fun _ => rfl) rfl,
    .of_format CO.forth (fun _ => rfl) rfl, .of_format CR.forth (fun _ => rfl) rfl, .of_format CQ.forth (fun _ => rfl) rfl,
    .of_format CQ.forth (fun _ => rfl) rfl, .of_format CW.forth (fun _ => rfl) rfl, .of_format CM.forth (fun _ => rfl) rfl,
    .of_constant rfl, .of_constant rfl, .of_constant rfl, .of_constant rfl, .of_constant rfl, .of_constant rfl⟩
theorem frontRows0_write : ∀ r ∈ frontRows0, RowWrites .front r := by
  simp only [frontRows0, List.forall_mem_cons, List.not_mem_nil, false_implies, implies_true, and_true]
  exact ⟨
    .of_format XR.forth (fun _ => rfl) rfl, .of_format XR.forth (fun _ => rfl) rfl, .of_format XR.forth (fun _ => rfl) rfl,
    .of_format XR.forth (fun _ => rfl) rfl, .of_format XR.forth (fun _ => rfl) rfl, .of_format XR.forth (fun _ => rfl) rfl,
    .of_format XR.forth (fun _ => rfl) rfl, .of_format XR.forth (fun _ => rfl) rfl, .of_format XR.forth (fun _ => rfl) rfl,
    .of_format XR.forth (fun _ => rfl) rfl, .of_format XR.forth (fun _ => rfl) rfl, .of_format XR.forth (fun _ => rfl) rfl,
    .of_format XR.forth (fun _ => rfl) rfl, .of_format XR.forth (fun _ => rfl) rfl, .of_format XI.forth (fun _ => rfl) rfl,
    .of_format XI.forth (fun _ => rfl) rfl, .of_format XI.forth (fun _ => rfl) rfl, .of_format XI.forth (fun _ => rfl) rfl,
    .of_format XI.forth (fun _ => rfl) rfl, .of_format XL.forth (fun _ => rfl) rfl, .of_format XL.forth (fun _ => rfl) rfl,
    .of_format XC.forth (fun _ => rfl) rfl, .of_format XCI.forth (fun _ => rfl) rfl, .of_format XR.forth (fun _ => rfl) rfl,
    .of_format XR.forth (fun _ => rfl) rfl, .of_format XR.forth (fun _ => rfl) rfl, .of_format XR.forth (fun _ => rfl) rfl,
    .of_format XC.forth (fun _ => rfl) rfl, .of_format XR.forth (fun _ => rfl) rfl, .of_format XI.forth (fun _ => rfl) rfl⟩
theorem frontRows1_write : ∀ r ∈ frontRows1, RowWrites .front r := by
  simp only [frontRows1, List.forall_mem_cons, List.not_mem_nil, false_implies, implies_true, and_true]
  exact ⟨
    .of_format XI.forth (fun _ => rfl) rfl, .of_format XR.forth (fun _ => rfl) rfl, .of_format CB.forth (fun _ => rfl) rfl,
    .of_format XJ.forth (fun _ => rfl) rfl, .of_format XJ.forth (fun _ => rfl) rfl, .of_format XR.forth (fun _ => rfl) rfl,
    .of_format XR.forth (fun _ => rfl) rfl, .of_format XR.forth (fun _ => rfl) rfl, .of_format XR.forth (fun _ => rfl) rfl,
    .of_format XR.forth (fun _ => rfl) rfl, .of_format XR.forth (fun _ => rfl) rfl, .of_format XR.forth (fun _ => rfl) rfl,
    .of_format XR.forth (fun _ => rfl) rfl, .of_format XR.forth (fun _ => rfl) rfl, .of_format XR.forth (fun _ => rfl) rfl,
    .of_constant rfl, .of_constant rfl⟩
theorem sysRows_write : ∀ r ∈ sysRows, RowWrites .sys r := by
  simp only [sysRows, List.forall_mem_cons, List.not_mem_nil, false_implies, implies_true, and_true]
  exact ⟨
    .of_format YT.forth (fun _ => rfl) rfl, .of_format YY.forth (fun _ => rfl) rfl, .of_format YY.forth (fun _ => rfl) rfl,
    .of_format YY.forth (fun _ => rfl) rfl, .of_format YY.forth (fun _ => rfl) rfl, .of_format YY.forth (fun _ => rfl) rfl,
    .of_format YY.forth (fun _ => rfl) rfl, .of_format YY.forth (fun _ => rfl) rfl, .of_format YY.forth (fun _ => rfl) rfl,
    .of_format YY.forth (fun _ => rfl) rfl, .of_format YY.forth (fun _ => rfl) rfl, .of_format YY.forth (fun _ => rfl) rfl,
    .of_format YY.forth (fun _ => rfl) rfl, .of_format YY.forth (fun _ => rfl) rfl, .of_constant rfl, .of_constant rfl,
    .of_constant rfl, .of_constant rfl⟩
/-- Every row of the opcode map writes what it reads. -/
theorem row_writes {c : Cls} {r : Row} (h : r ∈ rowsOf c) : RowWrites c r := by
  cases c with
  | vec =>
    simp only [rowsOf, vecRows, List.mem_append] at h
    rcases h with ((h | h) | h) | h
    · exact vecRows0_write r h
    · exact vecRows1_write r h
    · exact vecRows2_write r h
    · exact vecRows3_write r h
  | mem => exact memRows_write r h
  | mat => exact matRows_write r h
  | eng => exact engRows_write r h
  | ctl => exact ctlRows_write r h
  | front =>
    rcases List.mem_append.mp h with h | h
    · exact frontRows0_write r h
    · exact frontRows1_write r h
  | sys => exact sysRows_write r h

/-! ## What a row reads -/

theorem readRow_eq_some {w : Word} {r : Row} {i : Instr} :
    readRow w r = some i ↔ r.op = opcodeOf w ∧ r.read w = some i ∧ i.wellFormed = true := by
  unfold readRow
  split
  · next hop => simp [hop, Option.filter_eq_some_iff]
  · next hop => simp [hop]

theorem decode_eq_instr {c : Cls} {w : Word} {i : Instr} :
    decode c w = .instr i ↔ (rowsOf c).findSome? (readRow w) = some i := by
  unfold decode
  split
  · next j hj => rw [hj, Decoded.instr.injEq, Option.some.injEq]
  · next hnone =>
    rw [hnone]
    constructor
    · intro h; split at h <;> cases h
    · intro h; cases h

/-- Settles O2: the row that reads the word writes it. -/
theorem encodeDecode : Obligations.EncodeDecode := by
  intro i c w h
  obtain ⟨r, hr, hread⟩ := List.exists_of_findSome?_eq_some (decode_eq_instr.mp h)
  obtain ⟨hop, hi, hwf⟩ := readRow_eq_some.mp hread
  exact ⟨hwf, row_writes hr w i hop hi⟩

/-! ## At most one row reads a word -/

/-- The opcode that several rows of a class share: MSIGX, the TLBINV words, S2V and its sibling form. -/
def sharedOp : Cls → Option Nat
  | .vec => some 0x38
  | .mat => some 0x0B
  | .sys => some 0x07
  | _ => none

/-- What a word of a class's shared opcode is, by the field that tells its rows apart. -/
def sharedInstr : Cls → Word → Option Instr
  | .vec, w => (VV.ofWord w).map fun f => if f.eb = 0 then .s2v f else .s2vSib f
  | .mat, w => (MM.ofWord w).map fun f => if f.sel = 0 then .msigxSt f else .msigxCmp f
  | .sys, w => (YY.ofWord w).map fun f =>
    if f.f10 = 0 then .tlbinvPage f else if f.f10 = 1 then .tlbinvCtx else if f.f10 = 2 then .tlbinvPart
    else if f.f10 = 3 then .tlbinvGpage f else if f.f10 = 4 then .tlbinvS2 f else .tlbinvS2all f
  | _, _ => none

theorem ops_nodup (c : Cls) : (((rowsOf c).map (·.op)).filter fun o => sharedOp c ≠ some o).Nodup := by
  cases c <;> decide +kernel

/-- Two rows with one opcode that no other row shares are one row. -/
theorem row_unique {c : Cls} {r r' : Row} (h : r ∈ rowsOf c) (h' : r' ∈ rowsOf c) (hop : r.op = r'.op)
    (hown : sharedOp c ≠ some r.op) : r = r' := by
  have hnodup : (((rowsOf c).filter fun x => sharedOp c ≠ some x.op).map (·.op)).Nodup := by
    have := ops_nodup c
    rwa [List.filter_map] at this
  exact ListFacts.eq_of_map_nodup hnodup (List.mem_filter.mpr ⟨h, decide_eq_true hown⟩)
    (List.mem_filter.mpr ⟨h', decide_eq_true (hop ▸ hown)⟩) hop

/-- A row of one word reads that word alone. -/
theorem some_of_ite_eq {w x : Word} {i j : Instr} (h : (if w = x then some i else none) = some j) : w = x ∧ i = j := by
  split at h
  · next hw => exact ⟨hw, Option.some.inj h⟩
  · cases h

/-- A row of a shared opcode, found by its place among those that carry the opcode. -/
theorem mem_shared {c : Cls} {r : Row} {o : Nat} {l : List Row} (hl : (rowsOf c).filter (fun r => r.op = o) = l)
    (h : r ∈ rowsOf c) (hop : r.op = o) : r ∈ l := by
  rw [← hl]
  exact List.mem_filter.mpr ⟨h, decide_eq_true hop⟩

theorem s2v_read {w : Word} {i : Instr} (h : (VV.ofWord w).map Instr.s2v = some i) (hwf : i.wellFormed = true) :
    sharedInstr .vec w = some i := by
  obtain ⟨f, hf, rfl⟩ := Option.map_eq_some_iff.mp h
  simp only [Instr.wellFormed, Bool.and_eq_true, beq_iff_eq] at hwf
  simp [sharedInstr, hf, hwf]

theorem s2vSib_read {w : Word} {i : Instr} (h : (VV.ofWord w).map Instr.s2vSib = some i) (hwf : i.wellFormed = true) :
    sharedInstr .vec w = some i := by
  obtain ⟨f, hf, rfl⟩ := Option.map_eq_some_iff.mp h
  simp only [Instr.wellFormed, Bool.and_eq_true, beq_iff_eq] at hwf
  simp [sharedInstr, hf, hwf]

theorem msigxSt_read {w : Word} {i : Instr} (h : (MM.ofWord w).map Instr.msigxSt = some i) (hwf : i.wellFormed = true) :
    sharedInstr .mat w = some i := by
  obtain ⟨f, hf, rfl⟩ := Option.map_eq_some_iff.mp h
  simp only [Instr.wellFormed, Bool.and_eq_true, beq_iff_eq] at hwf
  simp [sharedInstr, hf, hwf]

theorem msigxCmp_read {w : Word} {i : Instr} (h : (MM.ofWord w).map Instr.msigxCmp = some i) (hwf : i.wellFormed = true) :
    sharedInstr .mat w = some i := by
  obtain ⟨f, hf, rfl⟩ := Option.map_eq_some_iff.mp h
  simp only [Instr.wellFormed, Bool.and_eq_true, beq_iff_eq] at hwf
  simp [sharedInstr, hf, hwf]

/-- A TLBINV row whose field f10 is k. -/
theorem tlbinv_read {w : Word} {i : Instr} {mk : YY → Instr} {k : BitVec 10} (h : (YY.ofWord w).map mk = some i)
    (hwf : i.wellFormed = true) (hk : ∀ f, (mk f).wellFormed = (f.f10 == k && f.a == 0 && f.rd == 0))
    (hmk : ∀ f : YY, f.f10 = k → YY.ofWord w = some f → sharedInstr .sys w = some (mk f)) : sharedInstr .sys w = some i := by
  obtain ⟨f, hf, rfl⟩ := Option.map_eq_some_iff.mp h
  simp only [hk, Bool.and_eq_true, beq_iff_eq, and_assoc] at hwf
  exact hmk f hwf.1 hf

/-- What a row of a shared opcode reads is the instruction that the telling field names. -/
theorem shared_read {c : Cls} {r : Row} {w : Word} {i : Instr} (h : r ∈ rowsOf c) (hshared : sharedOp c = some r.op)
    (hread : r.read w = some i) (hwf : i.wellFormed = true) : sharedInstr c w = some i := by
  cases c with
  | vec =>
    have hmem : r ∈ [_, _] := mem_shared rfl h (Option.some.inj hshared).symm
    simp only [List.mem_cons, List.not_mem_nil, or_false] at hmem
    rcases hmem with rfl | rfl
    · exact s2v_read hread hwf
    · exact s2vSib_read hread hwf
  | mat =>
    have hmem : r ∈ [_, _] := mem_shared rfl h (Option.some.inj hshared).symm
    simp only [List.mem_cons, List.not_mem_nil, or_false] at hmem
    rcases hmem with rfl | rfl
    · exact msigxSt_read hread hwf
    · exact msigxCmp_read hread hwf
  | sys =>
    have hmem : r ∈ [_, _, _, _, _, _] := mem_shared rfl h (Option.some.inj hshared).symm
    simp only [List.mem_cons, List.not_mem_nil, or_false] at hmem
    rcases hmem with rfl | rfl | rfl | rfl | rfl | rfl
    · exact tlbinv_read hread hwf (fun _ => rfl) fun f hk hf => by simp [sharedInstr, hf, hk]
    · exact tlbinv_read hread hwf (fun _ => rfl) fun f hk hf => by simp [sharedInstr, hf, hk]
    · exact tlbinv_read hread hwf (fun _ => rfl) fun f hk hf => by simp [sharedInstr, hf, hk]
    · exact tlbinv_read hread hwf (fun _ => rfl) fun f hk hf => by simp [sharedInstr, hf, hk]
    · obtain ⟨rfl, rfl⟩ := some_of_ite_eq hread
      rfl
    · obtain ⟨rfl, rfl⟩ := some_of_ite_eq hread
      rfl
  | mem => cases hshared
  | eng => cases hshared
  | ctl => cases hshared
  | front => cases hshared

/-- At most one row of a class reads a word. -/
theorem readRow_unique {c : Cls} {w : Word} {r r' : Row} {i j : Instr} (h : r ∈ rowsOf c) (h' : r' ∈ rowsOf c)
    (hi : readRow w r = some i) (hj : readRow w r' = some j) : i = j := by
  obtain ⟨hop, hread, hwf⟩ := readRow_eq_some.mp hi
  obtain ⟨hop', hread', hwf'⟩ := readRow_eq_some.mp hj
  have hops : r.op = r'.op := hop.trans hop'.symm
  by_cases hshared : sharedOp c = some r.op
  · exact Option.some.inj ((shared_read h hshared hread hwf).symm.trans (shared_read h' (hops ▸ hshared) hread' hwf'))
  · obtain rfl := row_unique h h' hops hshared
    exact Option.some.inj (hread.symm.trans hread')

/-! ## The round trip -/

/-- The word of an instruction is read back by a row of its class (Laws/PerInstr.lean, constructor by constructor). -/
theorem encoded (i : Instr) : Encoded.Statement i :=
  @Instr.casesOn Encoded.Statement i
  Encoded.iadd Encoded.isub Encoded.imul Encoded.imulh Encoded.umulh Encoded.imad Encoded.iabs Encoded.ineg Encoded.imin
    Encoded.imax Encoded.umin Encoded.umax Encoded.and Encoded.or Encoded.xor Encoded.andn Encoded.shl Encoded.shr
    Encoded.sar Encoded.clz Encoded.popc Encoded.brev Encoded.bfx Encoded.bfxu Encoded.bfi Encoded.idiv Encoded.udiv
    Encoded.irem Encoded.urem Encoded.iaddi Encoded.andi Encoded.ori Encoded.xori Encoded.shli Encoded.shri Encoded.sari
    Encoded.movi Encoded.movhi Encoded.mov Encoded.sel Encoded.shfl Encoded.shflup Encoded.shfldn Encoded.shflx Encoded.bcast
    Encoded.laneid Encoded.s2v Encoded.s2vSib Encoded.v2s Encoded.icmp Encoded.ucmp Encoded.fcmp Encoded.dcmp Encoded.fadd
    Encoded.fsub Encoded.fmul Encoded.ffma Encoded.fmin Encoded.fmax Encoded.fabs Encoded.fneg Encoded.fdiv Encoded.fsqrt
    Encoded.frcp Encoded.frsq Encoded.fexp2 Encoded.flog2 Encoded.ftanh Encoded.frnd Encoded.fclass Encoded.dadd Encoded.dsub
    Encoded.dmul Encoded.dfma Encoded.dmin Encoded.dmax Encoded.ddiv Encoded.dsqrt Encoded.cvt Encoded.pack2 Encoded.unpack2
    Encoded.redf Encoded.redfmin Encoded.redfmax Encoded.redi Encoded.scani Encoded.kand Encoded.kor Encoded.kxor
    Encoded.knot Encoded.kmov Encoded.kpop Encoded.kany Encoded.kall Encoded.kfirst Encoded.sadd Encoded.ssub Encoded.smul
    Encoded.sand Encoded.sor Encoded.sxor Encoded.sshl Encoded.sshr Encoded.smov Encoded.smovi Encoded.scmp Encoded.dig
    Encoded.tmean Encoded.tspread Encoded.sibsel Encoded.tchk Encoded.ld Encoded.st Encoded.ldt Encoded.stt Encoded.lds
    Encoded.sts Encoded.ldu Encoded.stu Encoded.atom Encoded.acas Encoded.fatom Encoded.atoms Encoded.pref Encoded.clean
    Encoded.fence Encoded.afence Encoded.seal Encoded.unseal Encoded.mmab Encoded.mmah Encoded.mmas8 Encoded.mmas4
    Encoded.mzero Encoded.mlda Encoded.msta Encoded.mdrv Encoded.mdrs Encoded.mcvt Encoded.msig Encoded.msigxSt
    Encoded.msigxCmp Encoded.mtrip Encoded.cpy Encoded.cpy2 Encoded.cpyt Encoded.cpyr Encoded.cpym Encoded.gthr Encoded.sctr
    Encoded.fill Encoded.coll Encoded.carb Encoded.cwait Encoded.cpoll Encoded.migr Encoded.hgsend Encoded.hgsig
    Encoded.hgwait Encoded.hgtake Encoded.hgqry Encoded.b Encoded.bra Encoded.call Encoded.split Encoded.waitj Encoded.jtab
    Encoded.token Encoded.bar Encoded.qpush Encoded.qpop Encoded.waitb Encoded.tmode Encoded.add Encoded.sub Encoded.mul
    Encoded.mulh Encoded.divu Encoded.remu Encoded.frontAnd Encoded.frontOr Encoded.frontXor Encoded.frontShl
    Encoded.frontShr Encoded.frontSar Encoded.min Encoded.max Encoded.addi Encoded.frontAndi Encoded.frontOri
    Encoded.frontShli Encoded.frontShri Encoded.li Encoded.lih Encoded.cmp Encoded.cmpi Encoded.fadds Encoded.fmuls
    Encoded.ffmas Encoded.fdivs Encoded.fcmps Encoded.fcvts Encoded.ldx Encoded.stx Encoded.atmx Encoded.bc Encoded.j
    Encoded.jal Encoded.jr Encoded.tmset Encoded.tmadv Encoded.tmget Encoded.dqpush Encoded.ovfget Encoded.lsupd Encoded.nadd
    Encoded.nwdraw Encoded.nstat Encoded.trap Encoded.mfsr Encoded.mtsr Encoded.pgmap Encoded.pgunmap Encoded.tlbinvPage
    Encoded.tlbinvGpage Encoded.tlbinvS2 Encoded.tlbinvS2all Encoded.spilla Encoded.filla Encoded.savel Encoded.loadl
    Encoded.waitev Encoded.pfence Encoded.ret Encoded.join Encoded.xacq Encoded.xrel Encoded.yield Encoded.exit Encoded.btok
    Encoded.fexit Encoded.nop Encoded.eret Encoded.tlbinvCtx Encoded.tlbinvPart Encoded.clauseSelect Encoded.loadReturn
    Encoded.matRetire Encoded.engineCommandStart Encoded.collReadyStart Encoded.collExchange Encoded.collStep
    Encoded.peerTimeout Encoded.migrDrainDone Encoded.engineCompletion Encoded.cwaitPop Encoded.qpopDeliver
    Encoded.queuePushAccept Encoded.btokPop Encoded.xacqGrant Encoded.xlockStall Encoded.barrierRelease Encoded.waitbComplete
    Encoded.waitbUnsatisfiable Encoded.waitjExpiry Encoded.waitevDeliver Encoded.fenceComplete Encoded.sealEffect
    Encoded.unsealEffect Encoded.sweepComplete Encoded.gateAnswer Encoded.gateTokenRefill Encoded.hgwaitTimeout
    Encoded.gateTableRetry Encoded.gateRedirect Encoded.read Encoded.write Encoded.atomic Encoded.gate Encoded.resp
    Encoded.ack Encoded.retryMap Encoded.flitCrcReplay Encoded.dieLaneReplace Encoded.planeDead Encoded.quiesceReport
    Encoded.packageFenceOut Encoded.planeMapCommit Encoded.planeFreeze Encoded.planeShadowWrite Encoded.backgroundScrub
    Encoded.launchQueueTail Encoded.graphAccept Encoded.nodeReserve Encoded.blockDispatch Encoded.blockRetire
    Encoded.sliceExpiry Encoded.graceHalt Encoded.kill Encoded.blockSave Encoded.blockResume Encoded.unitLoss
    Encoded.layoutCommit Encoded.layoutTick Encoded.scrubComplete Encoded.errclr Encoded.frameRelease
    Encoded.frameReleaseDone Encoded.s2respRelease Encoded.s2respRefuse Encoded.placeWrite Encoded.registerWrite
    Encoded.priDoorbell Encoded.pageRequestResponse Encoded.atsTranslationCompletion Encoded.atsInvalidationRequest
    Encoded.inboundWrite Encoded.hostCompletion Encoded.completionTimeout Encoded.linkDown Encoded.functionReset
    Encoded.coldReset Encoded.powerOn Encoded.getVersion Encoded.getCapabilities Encoded.negotiateAlgorithms
    Encoded.getDigests Encoded.getCertificate Encoded.challenge Encoded.getMeasurements Encoded.throttle
    Encoded.criticalTemperature Encoded.roceSend Encoded.roceRdmaWrite Encoded.roceRdmaWriteImm Encoded.roceRdmaRead
    Encoded.roceUnsupported Encoded.roceRetransmitTimeout Encoded.pfcPause Encoded.ecnMark Encoded.ethernetLinkFail
    Encoded.heldSlotAnswer Encoded.gateClose Encoded.hPreemptionRequest Encoded.peerToPeerRequest

/-- Settles O1: a row of the class reads the word back as the instruction, and no row reads it as another. -/
theorem decodeEncode : Obligations.DecodeEncode := by
  intro i c w hwf hi
  obtain ⟨k, r, hk, hop, hread⟩ := encoded i c w hi
  have hr : r ∈ rowsOf c := List.mem_of_getElem? hk
  have hrow : readRow w r = some i := readRow_eq_some.mpr ⟨hop, hread, hwf⟩
  rw [decode_eq_instr]
  cases hfirst : (rowsOf c).findSome? (readRow w) with
  | none => rw [List.findSome?_eq_none_iff.mp hfirst r hr] at hrow; cases hrow
  | some j =>
    obtain ⟨r', hr', hj⟩ := List.exists_of_findSome?_eq_some hfirst
    rw [readRow_unique hr' hr hj hrow]

/-! ## Words of the spec -/

/-- Settles O3: each word is what its fields encode. -/
theorem decodeExampleWords : Obligations.DecodeExampleWords :=
  ⟨decodeEncode _ _ _ rfl rfl, decodeEncode _ _ _ rfl rfl, decodeEncode _ _ _ rfl rfl, decodeEncode _ _ _ rfl rfl,
    decodeEncode _ _ _ rfl rfl, decodeEncode _ _ _ rfl rfl, decodeEncode _ _ _ rfl rfl⟩

end Sys2Proof.CodecProofs
end

section
/-! PROOFS. The word, uniform and permutation instructions of the VEC class (12_vector.md R260, R265 to R268, R272, R285): each
is a lane operation of its operand form. -/

namespace Sys2Proof.VectorProofs

open Sys2Proof.Machine Sys2Proof.Safety Sys2Proof.Laws

/-! ## The word operations -/

/-- The high half of the signed product. -/
theorem mulHigh_signed (a b : Word) : mulHigh true a b = BitVec.ofInt 32 (a.toInt * b.toInt / 2 ^ 32) := by
  have hprod : a.signExtend 64 * b.signExtend 64 = BitVec.ofInt 64 (a.toInt * b.toInt) := (BitVec.ofInt_mul ..).symm
  apply BitVec.eq_of_toNat_eq
  simp only [mulHigh, if_true, hprod, BitVec.extractLsb'_toNat, BitVec.toNat_ofInt, Nat.shiftRight_eq_div_pow]
  generalize a.toInt * b.toInt = p
  omega

/-- The high half of the unsigned product. -/
theorem mulHigh_unsigned (a b : Word) : mulHigh false a b = BitVec.ofNat 32 (a.toNat * b.toNat / 2 ^ 32) := by
  have hlt : a.toNat * b.toNat < 2 ^ (32 + 32) := by
    rw [Nat.pow_add]
    exact Nat.mul_lt_mul'' a.isLt b.isLt
  have hprod : a.setWidth 64 * b.setWidth 64 = BitVec.ofNat 64 (a.toNat * b.toNat) := by
    rw [BitVec.ofNat_mul, BitVec.ofNat_toNat, BitVec.ofNat_toNat]
  apply BitVec.eq_of_toNat_eq
  simp only [mulHigh, Bool.false_eq_true, if_false, hprod, BitVec.extractLsb'_toNat, BitVec.toNat_ofNat,
    Nat.shiftRight_eq_div_pow]
  generalize a.toNat * b.toNat = p at hlt ⊢
  omega

theorem if_slt {α : Type} (a b : Word) (x y : α) : (if a.slt b then x else y) = if a.toInt < b.toInt then x else y := by
  simp only [BitVec.slt, decide_eq_true_eq]

theorem if_ult {α : Type} (a b : Word) (x y : α) : (if a.ult b then x else y) = if a.toNat < b.toNat then x else y := by
  simp only [BitVec.ult, decide_eq_true_eq]

/-- In each lane, instruction i of shape h computes the word operation g. -/
def WordOp (i : Instr) (f : VV) (h : Shape) (g : Word → Word → Word → Word) : Prop :=
  (∀ s, exec i s = vvInt i h f s g) ∧ h.wide = false

theorem wordOps_wordOp (f : VV) : ∀ x ∈ wordOps f, WordOp x.1 f x.2.1 x.2.2 := by
  simp only [wordOps, List.forall_mem_cons, List.not_mem_nil, false_implies, implies_true, and_true, WordOp,
    ← mulHigh_signed, ← mulHigh_unsigned, ← if_slt, ← if_ult]
  refine ⟨⟨fun _ => rfl, rfl⟩, ⟨fun _ => rfl, rfl⟩, ⟨fun _ => rfl, rfl⟩, ⟨fun _ => rfl, rfl⟩, ⟨fun _ => rfl, rfl⟩, ⟨fun _ => rfl, rfl⟩,
    ⟨fun s => ?iabs, rfl⟩, ⟨fun _ => rfl, rfl⟩, ⟨fun _ => rfl, rfl⟩, ⟨fun _ => rfl, rfl⟩, ⟨fun _ => rfl, rfl⟩, ⟨fun _ => rfl, rfl⟩,
    ⟨fun _ => rfl, rfl⟩, ⟨fun _ => rfl, rfl⟩, ⟨fun _ => rfl, rfl⟩, ⟨fun _ => rfl, rfl⟩, ⟨fun _ => rfl, rfl⟩, ⟨fun _ => rfl, rfl⟩,
    ⟨fun _ => rfl, rfl⟩⟩
  case iabs =>
    have hneg : ∀ a : Word, a.toInt < 0 ↔ a.slt 0 = true := fun a => (decide_eq_true_iff (p := a.toInt < 0)).symm
    simp only [hneg]
    rfl

/-- Settles O5: each word is its word operation in the frame of F.VV. -/
theorem wordOpsComplete : Obligations.WordOpsComplete := by
  intro f s I i h g hmem hi hok hs hd
  obtain ⟨hexec, hwide⟩ := wordOps_wordOp f _ hmem
  have hd' : Free (I.srcV2 h.wide f.vd.toNat) := by rw [hwide]; exact hd
  exact (hexec s).trans (vvInt_completes hi hok hs hd' g)

/-! ## Uniform registers -/

theorem uniformOps_exec (f : SF) (s : State) : ∀ x ∈ uniformOps f, exec x.1 s = sBinary x.1 f s x.2 := by
  simp only [uniformOps, List.forall_mem_cons, List.not_mem_nil, false_implies, implies_true, and_true, ← shl_amt_eq, ← shr_amt_eq]
  exact ⟨rfl, rfl, rfl, rfl, rfl, rfl, rfl, rfl⟩

/-- Settles O11: each word's meaning with its sources full and its destination free. -/
theorem uniformOpsComplete : Obligations.UniformOpsComplete := by
  refine ⟨?binary, ?smov, ?smovi, ?scmp⟩
  case binary =>
    intro f s I i g hmem hi hs hd
    exact completes_of_done hi (uniformOps_exec f s _ hmem) (withSrcs_full hs hd _)
  case smov => exact fun f s I hi hs hd => completes_of_done hi rfl (withSrcs_full hs hd _)
  case smovi => exact fun f s I hi hd => completes_of_done hi rfl (withSrcs_full full_nil hd _)
  case scmp => exact fun f s I hi hs hd => completes_of_done hi rfl (withSrcs_full hs hd _)

/-! ## Lane permutations -/

/-- A permutation completes where every thread whose δ is read has one. -/
theorem permute_completes {i : Instr} {f : VV} {s : State} {I : Issuer} {needed : Issuer → List Nat} {src : Issuer → Nat → Int}
    (hi : QuireIssues s i I) (hexec : exec i s = permute i f s needed src) (hok : binary.ok I f = true)
    (hs : Full (binary.srcs I f)) (hd : Free [I.srcV f.vd.toNat])
    (hmaj : f.m = 1 ∨ ∀ t ∈ needed I, (majority I.ter t fun l => I.vval false f.vb.toNat l).isSome = true) :
    Completes i s I (writeV s I f.vd.toNat I.mask fun l => (I.vreg f.va.toNat).at (permLane I (src I) l)) := by
  refine completes_of_done hi hexec ?_
  have hbad : (if f.m == 1 then [] else
      (needed I).filter fun t => (majority I.ter t fun l => I.vval false f.vb.toNat l).isNone) = [] := by
    rcases hmaj with hm | hm
    · simp [hm]
    · split
      · rfl
      · exact List.filter_eq_nil_iff.mpr fun t ht => by simp [Option.isSome_iff_ne_none.mp (hm t ht)]
  have hframe := vvFrame_ok (h := binary) hok hs hd
  rw [show ({} : Shape) = binary from rfl, hframe]
  simp only [hbad]
  rfl

theorem permLane_eq (I : Issuer) (src : Nat → Int) (l : Nat) : permLane I src l =
    let t := src (if I.ter then l / 3 else l)
    if 0 ≤ t ∧ t < (I.w : Int) then (if I.ter then 3 * t.toNat + l % 3 else t.toNat) else l := by
  exact ite_congr (propext (Bool.and_eq_true_iff.trans (and_congr decide_eq_true_iff decide_eq_true_iff))) (fun _ => rfl) (fun _ => rfl)

/-- Settles O9: each word is a permutation by its source thread. -/
theorem shufflesComplete : Obligations.ShufflesComplete := by
  refine ⟨fun f s I i need src hmem hi hok hs hd hmaj => ?_, fun f s I v hi hva hs hd hmaj => ?_⟩
  · simp only [← permLane_eq]
    simp only [List.mem_cons, List.not_mem_nil, or_false, Prod.mk.injEq] at hmem
    rcases hmem with ⟨rfl, rfl, rfl⟩ | ⟨rfl, rfl, rfl⟩ | ⟨rfl, rfl, rfl⟩ | ⟨rfl, rfl, rfl⟩ | ⟨rfl, rfl, rfl⟩
    · exact permute_completes (src := fun I i => (delta I f i : Int)) hi rfl hok hs hd hmaj
    · exact permute_completes (src := fun I i => (i : Int) - toSigned 32 (delta I f i)) hi rfl hok hs hd hmaj
    · exact permute_completes (src := fun I i => (i : Int) + toSigned 32 (delta I f i)) hi rfl hok hs hd hmaj
    · exact permute_completes (src := fun I i => ((i ^^^ delta I f i : Nat) : Int)) hi rfl hok hs hd hmaj
    · exact permute_completes (src := fun I _ => (delta I f (firstThread I) : Int)) hi rfl hok hs hd hmaj
  · exact completes_of_done hi rfl (by simp only [hva, withSrcs_full hs hd, firstThread, hmaj, Bool.not_true, Bool.false_eq_true, if_false])

end Sys2Proof.VectorProofs
end


section
/-! PROOFS. Floating point, conversions, reductions and the ternion instructions of the VEC class (12_vector.md R270 to R282,
11_ternion.md R238 to R248), and the two ways in which an instability condition ends a word. -/

namespace Sys2Proof.VectorProofs

open Sys2Proof.Machine Sys2Proof.Safety Sys2Proof.Laws

/-! ## Instability conditions (R239) -/

/-- A condition that traps: the threads are counted, and the trap is taken after the word. -/
theorem instability_traps {I : Issuer} {n : Nat} {met : List Nat} (h : ¬ NoInstabTrap I n met) (s : State) (digits : Nat) :
    instability s I n met digits = .after (addStat s I.b I.tensor (3 + n) met.length)
      { cause := instabCause n, mask := some (maskOfThreads true met)
        info := (I.st.pc &&& 0xFFFFFFFFFFFFF#64) ||| (BitVec.ofNat 64 digits <<< 52) } := by
  simp only [NoInstabTrap, not_or, Bool.not_eq_false, Bool.not_eq_true, Decidable.not_not] at h
  obtain ⟨hmet, hter, hact, hout⟩ := h
  have hne : met.isEmpty = false := List.isEmpty_eq_false_iff.mpr hmet
  simp [instability, hne, hter, hact, hout]

/-- A word that ends in the evaluation of condition n completes with the threads counted, or traps after it has completed. -/
theorem ends_of_instability {i : Instr} {s t : State} {I : Issuer} {k : Issuer → Act} {n digits : Nat} {met : List Nat}
    (hi : QuireIssues s i I) (hexec : exec i s = onQuire i s k) (hk : k I = instability t I n met digits)
    (hn : instabCause n = [Cause.instabCancel, .instabCompare, .instabZdiv].getD n .trap) :
    (NoInstabTrap I n met → Completes i s I (counted t I n met)) ∧
    (¬ NoInstabTrap I n met → TrapsInstab i s I t n met digits) := by
  refine ⟨fun h => completes_of_done hi hexec (hk.trans (instability_counted h digits)), fun h => ?_⟩
  rw [TrapsInstab, hexec, onQuire_eq hi, hk, instability_traps h, finish_after, hn]

theorem instabCause_watchNum (w : Watch) :
    instabCause (watchNum w) = [Cause.instabCancel, .instabCompare, .instabZdiv].getD (watchNum w) .trap := by
  cases w <;> rfl

/-! ## One rounding, minima and maxima -/

theorem roundedOps_exec (f : VV) (s : State) :
    ∀ x ∈ roundedOps f, exec x.1 s = vvFp x.1 x.2.1 x.2.2.1 x.2.2.2.1 f s x.2.2.2.2 := by
  simp only [roundedOps, List.forall_mem_cons, List.not_mem_nil, false_implies, implies_true, and_true]
  exact ⟨rfl, rfl, rfl, rfl, rfl, rfl, rfl, rfl, rfl, rfl, rfl, rfl, rfl, rfl, rfl, rfl, rfl⟩

theorem minMaxOps_exec (f : VV) (s : State) :
    ∀ x ∈ minMaxOps f, exec x.1 s = vvMinMax x.1 x.2.1 x.2.2.1 x.2.2.2 f s := by
  simp only [minMaxOps, List.forall_mem_cons, List.not_mem_nil, false_implies, implies_true, and_true]
  exact ⟨rfl, rfl, rfl, rfl⟩

/-- Settles O13: a word with one rounding ends in the evaluation of its condition; minima and maxima end in their result. -/
theorem roundedAndMinMaxComplete : Obligations.RoundedAndMinMaxComplete := by
  refine ⟨?rounded, ?minMax⟩
  case rounded =>
    intro f s I i h F w op hmem hi hok hs hd
    exact ends_of_instability hi (roundedOps_exec f s _ hmem) (vvFrame_ok hok hs hd _) (instabCause_watchNum w)
  case minMax =>
    intro f s I i wide F mx hmem hi hok hs hd
    exact completes_of_done hi (minMaxOps_exec f s _ hmem) (vvFrame_ok hok hs hd _)

/-! ## Conversions -/

/-- A pair that PACK2 takes has a packed width, a wide format, and a defined conversion (R277). -/
theorem packable_spec : ∀ wide narrow : BitVec 4, packable wide narrow = true →
    (packWidth narrow.toNat == 0) = false ∧ packWideFmt wide.toNat = true ∧ convDefined narrow.toNat wide.toNat = true := by
  decide

theorem packable_unpack : ∀ wide narrow : BitVec 4, packable wide narrow = true →
    (packWidth narrow.toNat == 0) = false ∧ packWideFmt wide.toNat = true :=
  fun wide narrow h => ⟨(packable_spec wide narrow h).1, (packable_spec wide narrow h).2.1⟩

/-- Settles O14: each word's meaning with its formats defined, its registers permitted and its sources ready. -/
theorem conversionsComplete : Obligations.ConversionsComplete := by
  refine ⟨?frnd, ?cvt, ?pack2, ?unpack2⟩
  case frnd => exact fun f s I hi hok hs hd => completes_of_done hi rfl (vvFrame_ok hok hs hd _)
  case cvt =>
    intro f s I hi hdef hva hvd hs hd
    refine completes_of_done hi rfl ?_
    simp only [hdef, hva, hvd, Bool.and_self, Bool.not_true, Bool.false_eq_true, if_false, withSrcs_full hs hd]
  case pack2 =>
    intro f s I hi hpack hva hvd hs hd
    obtain ⟨hn, hwide, hdef⟩ := packable_spec _ _ hpack
    refine completes_of_done hi rfl ?_
    simp only [hn, hwide, hdef, hva, hvd, Bool.and_self, Bool.or_self, Bool.not_true, Bool.false_eq_true, if_false,
      withSrcs_full hs hd, Nat.shiftLeft_eq]
  case unpack2 =>
    intro f s I hi hpack hdef hva hvd hs hd
    obtain ⟨hn, hwide⟩ := packable_unpack _ _ hpack
    refine completes_of_done hi rfl ?_
    simp only [hn, hwide, hdef, hva, hvd, Bool.and_self, Bool.or_self, Bool.not_true, Bool.false_eq_true, if_false,
      withSrcs_full hs hd, bits, Nat.shiftRight_eq_div_pow]

/-! ## Reductions and the scan -/

theorem exec_redf (f : VR) (s : State) : exec (.redf f) s = execRedf f s := rfl
theorem exec_redfmin (f : VR) (s : State) : exec (.redfmin f) s = execRedfmin f s := rfl
theorem exec_redfmax (f : VR) (s : State) : exec (.redfmax f) s = execRedfmax f s := rfl
theorem exec_redi (f : VR) (s : State) : exec (.redi f) s = execRedi f s := rfl

/-- What a reduction leaves: the planes' results in their registers, and their events counted. -/
def reduced (s : State) (I : Issuer) (f : VR) (plane : Nat → List Nat → PlaneRes) : State :=
  let ts := threadsOf I.ter (I.mask &&& (I.kreg f.k.toNat).val)
  let rs := (planesOf I).map fun j =>
    (j, plane j (ts.map fun t => I.vval (f.d == 1) f.va.toNat (if I.ter then 3 * t + j else t)))
  let w := rs.foldl (fun t r => if f.d == 1 then writeS2 t I (f.sd.toNat + 2 * r.1) (BitVec.ofNat 64 r.2.out)
    else writeS t I (f.sd.toNat + r.1) (BitVec.ofNat 32 r.2.out)) s
  let c := addStat (addStat w I.b I.tensor 1 (rs.foldl (fun n r => n + r.2.flushes) 0)) I.b I.tensor 2
    (rs.filter (·.2.newNan)).length
  if rs.any (·.2.nonfin) then setOvf c I.b (1#32 <<< (I.tensor % 32)) else c

theorem reduce_completes {i : Instr} {f : VR} {s : State} {I : Issuer} {plane : Issuer → Bool → Nat → List Nat → PlaneRes}
    (hi : QuireIssues s i I) (hexec : exec i s = reduce i f s plane) (hva : I.vWide (f.d == 1) f.va.toNat = true)
    (hok : redOk I (f.d == 1) f.sd.toNat = true) (hs : Full (I.srcV2 (f.d == 1) f.va.toNat (f.ea == 1) ++ [I.srcK f.k.toNat]))
    (hd : Free (redDsts I (f.d == 1) f.sd.toNat)) : Completes i s I (reduced s I f (plane I (f.d == 1))) := by
  refine completes_of_done hi hexec ?_
  simp only [hva, hok, Bool.and_self, Bool.not_true, Bool.false_eq_true, if_false, withSrcs_full hs hd, reduced]

/-- Settles O15: each reduction is the general one with its plane's result; the scan sums the values before a thread. -/
theorem reductionsComplete : Obligations.ReductionsComplete := by
  refine ⟨?reduce, ?scan⟩
  case reduce =>
    intro f s I i plane hmem hi hva hok hs hd
    change Completes i s I (reduced s I f plane)
    simp only [List.mem_cons, List.not_mem_nil, or_false, Prod.mk.injEq] at hmem
    rcases hmem with ⟨rfl, rfl⟩ | ⟨rfl, rfl⟩ | ⟨rfl, rfl⟩ | ⟨rfl, rfl⟩
    · exact reduce_completes hi (exec_redf f s) hva hok hs hd
    · exact reduce_completes hi (exec_redfmin f s) hva hok hs hd
    · exact reduce_completes hi (exec_redfmax f s) hva hok hs hd
    · exact reduce_completes hi (exec_redi f s) hva hok hs hd
  case scan =>
    intro f s I hi hva hvd hs hd
    refine completes_of_done hi rfl ?_
    simp only [hva, hvd, Bool.and_self, Bool.not_true, Bool.false_eq_true, if_false, withSrcs_full hs hd, scanSum, threadOf,
      List.foldl_map]
    rfl

/-! ## Ternion instructions -/

theorem terUnary_completes {i : Instr} {f : VV} {s : State} {I : Issuer} {pair : Bool} {res : Issuer → Nat → LaneRes}
    (hi : QuireIssues s i I) (hexec : exec i s = terUnary i f s pair res) (hva : I.vWide (f.eb == 1) f.va.toNat = true)
    (hvd : I.vWide ((f.eb == 1) && pair) f.vd.toNat = true) (hs : Full (I.srcV2 (f.eb == 1) f.va.toNat (f.ea == 1)))
    (hd : Free (I.srcV2 ((f.eb == 1) && pair) f.vd.toNat)) :
    let r := I.results (res I)
    Completes i s I (countEvents (writeLanes s I ((f.eb == 1) && pair) f.vd.toNat I.mask fun l => (Tab.get {} r l).out) I r) := by
  refine completes_of_done hi hexec ?_
  simp only [hva, hvd, Bool.and_self, Bool.not_true, Bool.false_eq_true, if_false, withSrcs_full hs hd]

theorem terCount_completes {i : Instr} {f : VV} {s : State} {I : Issuer} {pair : Bool} {res : Issuer → Nat → Nat → LaneRes}
    (hi : QuireIssues s i I) (hexec : exec i s = terCount i f s pair res) (hva : I.vWide (f.eb == 1) f.va.toNat = true)
    (hvd : I.vWide ((f.eb == 1) && pair) f.vd.toNat = true) (hob : (opndB f.m f.vb).ok I false = true)
    (hs : Full (I.srcV2 (f.eb == 1) f.va.toNat (f.ea == 1) ++ (opndB f.m f.vb).srcs I false false))
    (hd : Free (I.srcV2 ((f.eb == 1) && pair) f.vd.toNat)) :
    let r := I.results fun l => res I (min ((opndB f.m f.vb).val I false (if I.ter then 3 * (l / 3) else l)) (terFmt f).p) l
    Completes i s I (countEvents (writeLanes s I ((f.eb == 1) && pair) f.vd.toNat I.mask fun l => (Tab.get {} r l).out) I r) := by
  refine completes_of_done hi hexec ?_
  simp only [hva, hvd, hob, Bool.and_self, Bool.not_true, Bool.false_eq_true, if_false, withSrcs_full hs hd]

theorem exec_dig (f : VV) (s : State) : exec (.dig f) s = execDig f s := rfl
theorem exec_tmean (f : VV) (s : State) : exec (.tmean f) s = execTmean f s := rfl
theorem exec_sibsel (f : VV) (s : State) : exec (.sibsel f) s = execSibsel f s := rfl
theorem exec_tspread (f : VV) (s : State) : exec (.tspread f) s = execTspread f s := rfl
theorem exec_tchk (f : VV) (s : State) : exec (.tchk f) s = execTchk f s := rfl

/-- The selected sibling, by comparisons. -/
theorem execSibsel_eq (f : VV) (s : State) : execSibsel f s = terUnary (.sibsel f) f s true fun I l =>
    let x := sibs I (f.eb == 1) f.va.toNat l
    { out := if f.vb.toNat % 4 = 0 then x.1 else if f.vb.toNat % 4 = 1 then x.2.1 else x.2.2 } := by
  unfold execSibsel
  congr 1
  funext I l
  split <;> simp_all

/-- The spread's sibling, by comparisons. -/
theorem execTspread_eq (f : VV) (s : State) : execTspread f s = terCount (.tspread f) f s true fun I d l =>
    let y := spread (terFmt f) (sibs I (f.eb == 1) f.va.toNat l).1 d
    let m := if !I.ter || l % 3 == 0 then y.1 else if l % 3 == 1 then y.2.1 else y.2.2
    { out := m, nonfin := (unpack (terFmt f) m).isNan || (unpack (terFmt f) m).isInf } := by
  have hpick : ∀ (I : Issuer) (l a b c : Nat), (if !I.ter then a else match l % 3 with | 0 => a | 1 => b | _ => c) =
      if !I.ter || l % 3 == 0 then a else if l % 3 == 1 then b else c := by
    intro I l a b c
    cases I.ter
    · rfl
    · generalize l % 3 = n
      match n with
      | 0 => rfl
      | 1 => rfl
      | n + 2 => rfl
  unfold execTspread
  congr 1
  funext I d l
  simp only [← hpick] <;> rfl

/-- TCHK's sign bit, by the equality of the sign classes. -/
theorem execTchk_eq (f : VV) (s : State) : execTchk f s = terCount (.tchk f) f s false fun I need l =>
    let x := sibs I (f.eb == 1) f.va.toNat l
    let d := digCount (terFmt f) x.1 x.2.1 x.2.2
    let sg := signClass (terFmt f)
    { out := d + (if d = 0 then 256 else 0) + (if d + bits I.qr.tctl.toNat 8 6 < need then 512 else 0) +
        (if sg x.1 = sg x.2.1 ∧ sg x.1 = sg x.2.2 then 0 else 1024) } := by
  unfold execTchk
  simp only [beq_iff_eq, Bool.and_eq_true]

/-- Settles O16: each word is a ternion operation of its operand form. -/
theorem ternionOpsComplete : Obligations.TernionOpsComplete := by
  refine ⟨?unary, ?count⟩
  case unary =>
    intro f s I i pair res hmem hi hva hvd hs hd
    simp only [List.mem_cons, List.not_mem_nil, or_false, Prod.mk.injEq] at hmem
    rcases hmem with ⟨rfl, rfl, rfl⟩ | ⟨rfl, rfl, rfl⟩ | ⟨rfl, rfl, rfl⟩
    · have h := terUnary_completes hi (exec_dig f s) hva hvd hs hd
      exact h
    · have h := terUnary_completes hi (exec_tmean f s) hva hvd hs hd
      exact h
    · have h := terUnary_completes hi ((exec_sibsel f s).trans (execSibsel_eq f s)) hva hvd hs hd
      exact h
  case count =>
    intro f s I i pair res hmem hi hva hvd hob hs hd
    simp only [List.mem_cons, List.not_mem_nil, or_false, Prod.mk.injEq] at hmem
    rcases hmem with ⟨rfl, rfl, rfl⟩ | ⟨rfl, rfl, rfl⟩
    · have h := terCount_completes hi ((exec_tspread f s).trans (execTspread_eq f s)) hva hvd hob hs hd
      exact h
    · have h := terCount_completes hi ((exec_tchk f s).trans (execTchk_eq f s)) hva hvd hob hs hd
      exact h

end Sys2Proof.VectorProofs
end


section
/-! PROOFS. The compares (12_vector.md R269; 02_instruction_words.md R45; 11_ternion.md R238 to R241): the order of FP values, and
the relation, flushes and condition of a word's threads. -/

namespace Sys2Proof.VectorProofs

open Sys2Proof.Machine Sys2Proof.Safety Sys2Proof.Laws

/-! ## The order of FP values -/

/-- A value no finer than the least FP64 subnormal. -/
def Coarse : FV → Prop
  | .fin _ _ e => -1074 ≤ e
  | _ => True

theorem unpack_coarse {F : Fmt} (hF : F ∈ [fp32, fp64]) (w : Nat) : Coarse (unpack F w) := by
  have hfmt : F.sc8 = false ∧ -1074 ≤ F.emin - ((F.p - 1 : Nat) : Int) ∧ -1074 ≤ 1 - (F.bias : Int) - ((F.p - 1 : Nat) : Int) := by
    simp only [List.mem_cons, List.not_mem_nil, or_false] at hF
    rcases hF with rfl | rfl <;> decide
  obtain ⟨hsc8, hsub, hnormal⟩ := hfmt
  unfold unpack
  simp only [hsc8, Bool.false_and, Bool.false_eq_true, if_false, Bool.not_false, Bool.true_and, beq_iff_eq]
  split
  · split <;> trivial
  · split
    · split
      · trivial
      · exact hsub
    · next he =>
      change -1074 ≤ ((bits w (F.p - 1) F.eb : Nat) : Int) - F.bias - ((F.p - 1 : Nat) : Int)
      omega

theorem scaled_eq_units {v : FV} (h : Coarse v) : v.scaled = units v * 2 ^ 26 := by
  cases v with
  | fin n m e =>
    have hexp : (e + 1100).toNat = (e + 1074).toNat + 26 := by
      have : -1074 ≤ e := h
      omega
    have hshift : ((m <<< (e + 1100).toNat : Nat) : Int) = ((m * 2 ^ (e + 1074).toNat : Nat) : Int) * 2 ^ 26 := by
      rw [Nat.shiftLeft_eq, hexp, Nat.pow_add, ← Nat.mul_assoc, Int.natCast_mul]
      rfl
    cases n with
    | false => exact hshift
    | true => exact (congrArg Neg.neg hshift).trans (Int.neg_mul _ _).symm
  | nan => rfl
  | inf n => rfl
  | zero n => rfl

theorem scaled_lt {a b : FV} (ha : Coarse a) (hb : Coarse b) : a.scaled < b.scaled ↔ units a < units b := by
  rw [scaled_eq_units ha, scaled_eq_units hb]
  omega

theorem scaled_eq {a b : FV} (ha : Coarse a) (hb : Coarse b) : a.scaled = b.scaled ↔ units a = units b := by
  rw [scaled_eq_units ha, scaled_eq_units hb]
  omega

/-- The infinities stand at the two ends of the order. -/
def infRank : FV → Int
  | .inf true => -1
  | .inf false => 1
  | _ => 0

theorem fpLess_iff (a b : FV) : fpLess a b ↔ infRank a < infRank b ∨ infRank a = infRank b ∧ units a < units b := by
  rcases a with _ | (_ | _) | _ | _ <;> rcases b with _ | (_ | _) | _ | _ <;> simp [fpLess, infRank, units]

theorem fvCmp_eq (a b : FV) : fvCmp a b = if infRank a != infRank b then (if infRank a < infRank b then -1 else 1)
    else if a.scaled < b.scaled then -1 else if a.scaled == b.scaled then 0 else 1 := rfl

/-- The model's comparison is the order of R45. -/
theorem fvCmp_spec {a b : FV} (ha : Coarse a) (hb : Coarse b) :
    (fvCmp a b = -1 ↔ fpLess a b) ∧ (fvCmp a b = 1 ↔ fpLess b a) ∧ (fvCmp a b = 0 ↔ ¬ fpLess a b ∧ ¬ fpLess b a) := by
  simp only [fvCmp_eq, fpLess_iff, scaled_lt ha hb, beq_iff_eq, scaled_eq ha hb, bne_iff_ne, ne_eq, ite_not]
  split
  · split
    · omega
    · split <;> omega
  · split <;> omega

/-- The conditions of R45 on FP values. -/
theorem condFp_spec {x y : FV} (hx : Coarse x) (hy : Coarse y) :
    let un := x.isNan = true ∨ y.isNan = true
    (condFp 0 x y = true ↔ ¬ un ∧ ¬ fpLess x y ∧ ¬ fpLess y x) ∧ (condFp 1 x y = true ↔ un ∨ fpLess x y ∨ fpLess y x) ∧
    (condFp 2 x y = true ↔ ¬ un ∧ fpLess x y) ∧ (condFp 3 x y = true ↔ ¬ un ∧ ¬ fpLess y x) ∧
    (condFp 4 x y = true ↔ ¬ un ∧ fpLess y x) ∧ (condFp 5 x y = true ↔ ¬ un ∧ ¬ fpLess x y) ∧
    (condFp 10 x y = true ↔ un) ∧ (condFp 11 x y = true ↔ ¬ un) := by
  obtain ⟨hlt, hgt, heq⟩ := fvCmp_spec hx hy
  simp only [condFp, Bool.and_eq_true, Bool.or_eq_true, Bool.not_eq_true', Bool.or_eq_false_iff, beq_iff_eq, bne_iff_ne, ne_eq,
    hlt, hgt, heq, not_or, Bool.not_eq_true, Classical.not_and_iff_not_or_not, Classical.not_not]
  exact ⟨trivial, trivial, trivial, trivial, trivial, trivial, trivial, trivial⟩

/-- The conditions of R45 on integers. -/
theorem condInt_spec (sg : Bool) (a b : Word) :
    let v := fun x : Word => if sg then x.toInt else (x.toNat : Int)
    condInt 0 sg 32 a.toNat b.toNat = decide (a = b) ∧ condInt 1 sg 32 a.toNat b.toNat = decide (a ≠ b) ∧
    condInt 2 sg 32 a.toNat b.toNat = decide (v a < v b) ∧ condInt 3 sg 32 a.toNat b.toNat = decide (v a ≤ v b) ∧
    condInt 4 sg 32 a.toNat b.toNat = decide (v b < v a) ∧ condInt 5 sg 32 a.toNat b.toNat = decide (v b ≤ v a) ∧
    condInt 6 sg 32 a.toNat b.toNat = decide (a.toNat < b.toNat) ∧ condInt 7 sg 32 a.toNat b.toNat = decide (a.toNat ≤ b.toNat) ∧
    condInt 8 sg 32 a.toNat b.toNat = decide (b.toNat < a.toNat) ∧ condInt 9 sg 32 a.toNat b.toNat = decide (b.toNat ≤ a.toNat) := by
  intro v
  have hlt : (if sg then decide (toSigned 32 a.toNat < toSigned 32 b.toNat) else decide (a.toNat < b.toNat)) = decide (v a < v b) := by
    cases sg <;> simp [v, toSigned_eq_toInt]
  have heq : (a.toNat == b.toNat) = decide (v a = v b) := by
    rw [Bool.eq_iff_iff, beq_iff_eq, decide_eq_true_iff, BitVec.toNat_inj]
    cases sg with
    | false => exact (Int.ofNat_inj.trans BitVec.toNat_inj).symm
    | true => exact BitVec.toInt_inj.symm
  have hword : (a.toNat == b.toNat) = decide (a = b) := by
    rw [Bool.eq_iff_iff]
    simp [BitVec.toNat_inj]
  refine ⟨hword, ?_, hlt, ?_, ?_, ?_, rfl, rfl, rfl, rfl⟩
  · simp only [condInt, bne, hword, decide_not]
  all_goals
    rw [Bool.eq_iff_iff]
    simp only [condInt, hlt, bne, heq, Bool.or_eq_true, Bool.and_eq_true, Bool.not_eq_true', decide_eq_true_eq,
      decide_eq_false_iff_not]
    omega

/-! ## The relation of a thread -/

theorem find_tabulate {α : Type} (g : Nat → α) (l : List Nat) (n : Nat) :
    Tab.find (l.map fun x => (x, g x)) n = if n ∈ l then some (g n) else none := by
  induction l with
  | nil => rfl
  | cons x l ih =>
    simp only [List.map_cons, Tab.find, ih, List.mem_cons]
    by_cases h : x = n
    · simp [h]
    · simp [h, Ne.symm h]

theorem get_tabulate {α : Type} (d : α) (g : Nat → α) {l : List Nat} {n : Nat} (h : n ∈ l) :
    Tab.get d (l.map fun x => (x, g x)) n = g n := by
  simp [Tab.get, find_tabulate, h]

/-- A lane of a thread of the mask is one of the mask's lanes. -/
theorem mem_lanes {I : Issuer} {t l : Nat} (ht : t ∈ I.threads) (hl : l ∈ lanesOf I.ter t) : l ∈ I.lanes :=
  List.mem_flatMap.mpr ⟨t, ht, hl⟩

/-- The majority of three relations. -/
theorem majority_rel (a b c : Bool) :
    (if a == b || a == c then a else !a) = decide (([a, b, c]).length < 2 * (([a, b, c]).filter id).length) := by
  cases a <;> cases b <;> cases c <;> rfl

theorem single_rel (a : Bool) : a = decide (([a]).length < 2 * (([a]).filter id).length) := by
  cases a <;> rfl

/-- Three relations that are not all equal. -/
theorem disagree_rel (a b c : Bool) : (!(a == b && a == c)) = (([a, b, c]).any id && !([a, b, c]).all id) := by
  cases a <;> cases b <;> cases c <;> rfl

/-- The relations of a thread's lanes. -/
def relsOf (I : Issuer) (rel : Nat → Bool) (t : Nat) : List Bool := (lanesOf I.ter t).map rel

/-- The model's result of a thread is the majority of its lanes' relations. -/
theorem compare_result {I : Issuer} (rel : Nat → Bool) {t : Nat} (ht : t ∈ I.threads) :
    (if I.ter then
      if Tab.get false (I.lanes.map fun l => (l, rel l)) (3 * t) == Tab.get false (I.lanes.map fun l => (l, rel l)) (3 * t + 1) ||
          Tab.get false (I.lanes.map fun l => (l, rel l)) (3 * t) == Tab.get false (I.lanes.map fun l => (l, rel l)) (3 * t + 2)
      then Tab.get false (I.lanes.map fun l => (l, rel l)) (3 * t) else !Tab.get false (I.lanes.map fun l => (l, rel l)) (3 * t)
    else Tab.get false (I.lanes.map fun l => (l, rel l)) t) =
      decide ((relsOf I rel t).length < 2 * ((relsOf I rel t).filter id).length) := by
  have hget : ∀ l ∈ lanesOf I.ter t, Tab.get false (I.lanes.map fun l => (l, rel l)) l = rel l :=
    fun l hl => get_tabulate false rel (mem_lanes ht hl)
  unfold relsOf
  generalize I.ter = ter at hget ⊢
  cases ter with
  | true =>
    simp only [lanesOf, if_true] at hget ⊢
    rw [hget _ (by simp), hget (3 * t + 1) (by simp), hget (3 * t + 2) (by simp)]
    exact majority_rel ..
  | false =>
    simp only [lanesOf, Bool.false_eq_true, if_false] at hget ⊢
    rw [hget t (by simp)]
    exact single_rel _

/-- The threads that the model finds to disagree are those whose relations are neither all true nor all false. -/
theorem compare_met {I : Issuer} (rel : Nat → Bool) :
    (if I.ter then I.threads.filter fun t =>
      !(Tab.get false (I.lanes.map fun l => (l, rel l)) (3 * t) == Tab.get false (I.lanes.map fun l => (l, rel l)) (3 * t + 1) &&
        Tab.get false (I.lanes.map fun l => (l, rel l)) (3 * t) == Tab.get false (I.lanes.map fun l => (l, rel l)) (3 * t + 2))
    else []) = I.threads.filter fun t => (relsOf I rel t).any id && !(relsOf I rel t).all id := by
  have hget : ∀ t ∈ I.threads, ∀ l ∈ lanesOf I.ter t, Tab.get false (I.lanes.map fun l => (l, rel l)) l = rel l :=
    fun t ht l hl => get_tabulate false rel (mem_lanes ht hl)
  unfold relsOf
  generalize I.ter = ter at hget ⊢
  cases ter with
  | true =>
    simp only [lanesOf, if_true] at hget ⊢
    refine List.filter_congr fun t ht => ?_
    rw [hget t ht _ (by simp), hget t ht (3 * t + 1) (by simp), hget t ht (3 * t + 2) (by simp)]
    exact disagree_rel ..
  | false =>
    simp only [lanesOf, Bool.false_eq_true, if_false]
    refine (List.filter_eq_nil_iff.mpr fun t _ => ?_).symm
    cases rel t <;> simp

/-- What a compare writes and counts. -/
def compared (s : State) (I : Issuer) (f : VC) (rel : Nat → Bool) (fl : Nat → Bool × Bool) : State :=
  let res := fun t => decide ((relsOf I rel t).length < 2 * ((relsOf I rel t).filter id).length)
  let flushed := (I.threads.filter fun t => (lanesOf I.ter t).any fun l => (fl l).1).length +
    (I.threads.filter fun t => (lanesOf I.ter t).any fun l => (fl l).2).length
  addStat (writeK s I f.kd.toNat (((I.kreg f.kd.toNat).val &&& ~~~I.mask) ||| maskOfThreads I.ter (I.threads.filter res)))
    I.b I.tensor 1 flushed

/-- A compare's lists of flushes, by operand. -/
def FlushesAre (flushes : Nat → List Bool) (fl : Nat → Bool × Bool) : Prop :=
  ∀ l, (flushes l).getD 0 false = (fl l).1 ∧ (flushes l).getD 1 false = (fl l).2

theorem compare_ends {i : Instr} {f : VC} {s : State} {I : Issuer} {wide : Bool} {rel : Issuer → Nat → Bool}
    {flushes : Issuer → Nat → List Bool} {digits : Issuer → Nat → Nat} {fl : Nat → Bool × Bool} (hi : QuireIssues s i I)
    (hexec : exec i s = compare i f s wide rel flushes digits) (hfl : FlushesAre (flushes I) fl) (hkd : f.kd ≠ 0)
    (hva : I.vWide wide f.va.toNat = true) (hob : (opndB f.m f.vb).ok I wide = true)
    (hs : Full (I.srcV2 wide f.va.toNat (f.e == 1) ++ (opndB f.m f.vb).srcs I wide (f.e == 1))) (hd : Free [I.srcK f.kd.toNat]) :
    let met := I.threads.filter fun t => (relsOf I (rel I) t).any id && !(relsOf I (rel I) t).all id
    (NoInstabTrap I 1 met → Completes i s I (counted (compared s I f (rel I) fl) I 1 met)) ∧
    (¬ NoInstabTrap I 1 met → TrapsInstab i s I (compared s I f (rel I) fl) 1 met (digits I (met.headD 0))) := by
  refine ends_of_instability hi hexec ?_ rfl
  have hkd' : (f.kd == 0) = false := beq_eq_false_iff_ne.mpr hkd
  simp only [hkd', hva, hob, Bool.and_self, Bool.not_true, Bool.or_self, Bool.false_eq_true, if_false, withSrcs_full hs hd,
    compare_met, (hfl _).1, (hfl _).2, compared]
  rw [List.filter_congr fun t ht => compare_result (rel I) ht]

theorem intCompare_ends {i : Instr} {sg : Bool} {f : VC} {s : State} {I : Issuer} (hi : QuireIssues s i I)
    (hexec : exec i s = intCompare i sg f s) (hkd : f.kd ≠ 0)
    (hva : I.vWide false f.va.toNat = true) (hob : (opndB f.m f.vb).ok I false = true)
    (hs : Full (I.srcV2 false f.va.toNat (f.e == 1) ++ (opndB f.m f.vb).srcs I false (f.e == 1))) (hd : Free [I.srcK f.kd.toNat]) :
    let rel := fun l => condInt f.cond.toNat sg 32 (I.vval false f.va.toNat l) ((opndB f.m f.vb).val I false l)
    let met := I.threads.filter fun t => (relsOf I rel t).any id && !(relsOf I rel t).all id
    let t := compared s I f rel fun _ => (false, false)
    (NoInstabTrap I 1 met → Completes i s I (counted t I 1 met)) ∧ (¬ NoInstabTrap I 1 met → TrapsInstab i s I t 1 met 0) :=
  compare_ends (rel := fun I l => condInt f.cond.toNat sg 32 (I.vval false f.va.toNat l) ((opndB f.m f.vb).val I false l))
    (flushes := fun _ _ => []) (digits := fun _ _ => 0) hi hexec (fun _ => ⟨rfl, rfl⟩) hkd hva hob hs hd

theorem fpCompare_ends {i : Instr} {F : Fmt} {wide : Bool} {f : VC} {s : State} {I : Issuer} (hi : QuireIssues s i I)
    (hexec : exec i s = fpCompare i F wide f s) (hkd : f.kd ≠ 0)
    (hva : I.vWide wide f.va.toNat = true) (hob : (opndB f.m f.vb).ok I wide = true)
    (hs : Full (I.srcV2 wide f.va.toNat (f.e == 1) ++ (opndB f.m f.vb).srcs I wide (f.e == 1))) (hd : Free [I.srcK f.kd.toNat]) :
    let a := fun l => flushIn F I.ftz (I.vval wide f.va.toNat l)
    let b := fun l => flushIn F I.ftz ((opndB f.m f.vb).val I wide l)
    let rel := fun l => condFp f.cond.toNat (a l).1 (b l).1
    let met := I.threads.filter fun t => (relsOf I rel t).any id && !(relsOf I rel t).all id
    let t := compared s I f rel fun l => ((a l).2, (b l).2)
    (NoInstabTrap I 1 met → Completes i s I (counted t I 1 met)) ∧
    (¬ NoInstabTrap I 1 met → TrapsInstab i s I t 1 met
      (min (I.digits F wide f.va.toNat (met.headD 0)) ((opndB f.m f.vb).digits I F wide (met.headD 0)))) :=
  compare_ends
    (rel := fun I l => condFp f.cond.toNat (flushIn F I.ftz (I.vval wide f.va.toNat l)).1
      (flushIn F I.ftz ((opndB f.m f.vb).val I wide l)).1)
    (flushes := fun I l => [(flushIn F I.ftz (I.vval wide f.va.toNat l)).2, (flushIn F I.ftz ((opndB f.m f.vb).val I wide l)).2])
    (digits := fun I t => min (I.digits F wide f.va.toNat t) ((opndB f.m f.vb).digits I F wide t)) hi hexec
    (fun _ => ⟨rfl, rfl⟩) hkd hva hob hs hd

theorem exec_icmp (f : VC) (s : State) : exec (.icmp f) s = intCompare (.icmp f) true f s := rfl
theorem exec_ucmp (f : VC) (s : State) : exec (.ucmp f) s = intCompare (.ucmp f) false f s := rfl
theorem exec_fcmp (f : VC) (s : State) : exec (.fcmp f) s = fpCompare (.fcmp f) fp32 false f s := rfl
theorem exec_dcmp (f : VC) (s : State) : exec (.dcmp f) s = fpCompare (.dcmp f) fp64 true f s := rfl

/-- Settles O12: each word is the general compare with its relation; the conditions are those of R45. -/
theorem comparesComplete : Obligations.ComparesComplete := by
  refine ⟨?words, condInt_spec, fun F hF a b => condFp_spec (unpack_coarse hF a) (unpack_coarse hF b)⟩
  intro f s I i wide rel fl dg hmem hi hkd hva hob hs hd
  simp only [List.mem_cons, List.not_mem_nil, or_false, Prod.mk.injEq] at hmem
  rcases hmem with ⟨rfl, rfl, rfl, rfl, rfl⟩ | ⟨rfl, rfl, rfl, rfl, rfl⟩ | ⟨rfl, rfl, rfl, rfl, rfl⟩ | ⟨rfl, rfl, rfl, rfl, rfl⟩
  · exact intCompare_ends hi (exec_icmp f s) hkd hva hob hs hd
  · exact intCompare_ends hi (exec_ucmp f s) hkd hva hob hs hd
  · exact fpCompare_ends hi (exec_fcmp f s) hkd hva hob hs hd
  · exact fpCompare_ends hi (exec_dcmp f s) hkd hva hob hs hd

end Sys2Proof.VectorProofs
end


section
/-! PROOFS. What a word that completes changes beside its result, and the frames of the register writes (09_registers.md R193 to
R196; 11_ternion.md R232; 16_traps.md R366). -/

namespace Sys2Proof.FrameProofs

open Sys2Proof.Machine Sys2Proof.Safety Sys2Proof.Laws Sys2Proof.VectorProofs Sys2Proof.ControlProofs Sys2Proof.SystemProofs

/-! ## ICNT (R232) -/

theorem threads_nodup (I : Issuer) : I.threads.Nodup := by
  unfold Issuer.threads threadsOf
  split <;> exact List.nodup_range.filter _

/-- Counting one for each of a list of distinct threads. -/
theorem get_countOne (l : List Nat) (t : Tab Word) (n : Nat) (hl : l.Nodup) :
    Tab.get 0 (l.foldl (fun t i => Tab.set t i (Tab.get 0 t i + 1)) t) n =
      if l.contains n then Tab.get 0 t n + 1 else Tab.get 0 t n := by
  induction l generalizing t with
  | nil => rfl
  | cons i l ih =>
    obtain ⟨hi, hl⟩ := List.nodup_cons.mp hl
    rw [List.foldl_cons, ih _ hl, Tab.get_set]
    by_cases h : i = n
    · subst h
      simp [hi]
    · simp [h, Ne.symm h]

/-! ## A quire after a word of one of its slots -/

/-- The quire of I after a word: the threads counted at U, and the slot at its next word. -/
def afterWord (I : Issuer) (Q : Quire) : Quire :=
  let Q := if I.atU then { Q with icnt := I.threads.foldl (fun t i => Tab.set t i (Tab.get 0 t i + 1)) Q.icnt } else Q
  Q.setSlot I.sl { Q.slot I.sl with ctl := advanced (Q.slot I.sl).ctl }

section AfterWord

variable (I : Issuer) (Q : Quire)

theorem afterWord_slots : SlotsAfter Q (afterWord I Q) I.sl := by
  unfold afterWord SlotsAfter Quire.setSlot Quire.slot
  cases I.sl == 0 <;> cases I.atU <;> exact ⟨rfl, rfl⟩

theorem afterWord_slot : (afterWord I Q).slot I.sl = { Q.slot I.sl with ctl := advanced (Q.slot I.sl).ctl } := by
  unfold afterWord
  simp only [slot_setSlot]
  split <;> rfl

theorem afterWord_rest : { afterWord I Q with s0 := Q.s0, s1 := Q.s1, icnt := Q.icnt } = Q := by
  unfold afterWord Quire.setSlot
  cases I.sl == 0 <;> cases I.atU <;> rfl

/-- The fields of a quire that no word changes by completing. -/
theorem afterWord_keeps : (afterWord I Q).v = Q.v ∧ (afterWord I Q).s = Q.s ∧ (afterWord I Q).k = Q.k ∧ (afterWord I Q).c = Q.c := by
  unfold afterWord Quire.setSlot
  cases I.sl == 0 <;> cases I.atU <;> exact ⟨rfl, rfl, rfl, rfl⟩

theorem afterWord_icnt (h : Q.icnt = I.qr.icnt) (n : Nat) : Tab.get 0 (afterWord I Q).icnt n = icntAfter I n := by
  have hicnt : (afterWord I Q).icnt =
      if I.atU then I.threads.foldl (fun t i => Tab.set t i (Tab.get 0 t i + 1)) Q.icnt else Q.icnt := by
    unfold afterWord Quire.setSlot
    cases I.sl == 0 <;> cases I.atU <;> rfl
  rw [hicnt, h, icntAfter]
  cases I.atU
  · rfl
  · exact get_countOne _ _ _ (threads_nodup I)

end AfterWord

/-! ## Where a quire's word leaves the state -/

/-- I is a slot that stands in s. -/
structure Stands (s : State) (I : Issuer) : Prop where
  unit : I.u = .slot I.b I.q I.sl
  quire : I.fe = false
  block : Tab.find s.blocks I.b = some I.blk
  found : Tab.find s.quires I.key = some I.qr
  strand : I.st = (I.qr.slot I.sl).ctl

theorem stands_of_issues {s : State} {i : Instr} {I : Issuer} (h : QuireIssues s i I) : Stands s I := by
  obtain ⟨⟨hI, -⟩, hq⟩ := h
  obtain ⟨b, B, -, -, -, rfl⟩ | ⟨b, q, sl, B, Q, hu, hB, hQ, rfl⟩ := issuerOf_cases hI
  · cases hq
  · exact ⟨hu, rfl, hB, hQ, rfl⟩

/-- Completing changes the table of quires alone. -/
theorem complete_rest {I : Issuer} (t : State) (hu : I.u = .slot I.b I.q I.sl) :
    complete t I = { t with quires := (complete t I).quires } := by
  unfold complete nextWord countIcnt
  rw [hu]
  split <;> rfl

theorem find_complete {I : Issuer} (t : State) (hu : I.u = .slot I.b I.q I.sl) (hq : I.fe = false) (n : Nat) :
    Tab.find (complete t I).quires n =
      if I.key = n then (Tab.find t.quires I.key).map (afterWord I) else Tab.find t.quires n := by
  unfold complete nextWord countIcnt
  rw [hu, hq]
  change Tab.find (Tab.modify _ I.key _) n = _
  rw [Tab.find_modify]
  split
  · unfold afterWord
    cases hU : I.atU
    · rfl
    · simp only [Bool.not_true, Bool.or_self, Bool.false_eq_true, if_false, if_true, State.updQuire_quires, Tab.find_modify,
        Option.map_map]
      rfl
  · next hn =>
    split
    · rfl
    · simp only [State.updQuire_quires, Tab.find_modify, if_neg hn]

theorem SameElsewhere.refl (s : State) (b key : Nat) : SameElsewhere s s b key := ⟨rfl, fun _ _ => rfl, fun _ _ => rfl⟩

/-- The completion of a word that has left w, in which only the issuer's block and quire differ. -/
theorem complete_of_written {s w : State} {I : Issuer} {B : Block} {Q : Quire} (h : Stands s I)
    (hw : SameElsewhere s w I.b I.key) (hB : Tab.find w.blocks I.b = some B) (hQ : Tab.find w.quires I.key = some Q) :
    let t := complete w I
    SameElsewhere s t I.b I.key ∧ SameStores s t ∧ Tab.find t.blocks I.b = some B ∧
      Tab.find t.quires I.key = some (afterWord I Q) := by
  intro t
  obtain ⟨hrest, hblocks, hquires⟩ := hw
  have ht : t = { w with quires := t.quires } := complete_rest _ h.unit
  have hs : t = { s with blocks := w.blocks, quires := t.quires } := by
    rw [ht]
    exact congrArg (fun s : State => { s with blocks := w.blocks, quires := t.quires }) hrest
  have hfind := find_complete w h.unit h.quire
  refine ⟨⟨?_, ?_, ?_⟩, ?_, ?_, ?_⟩
  · rw [hs]
  · intro n hn; rw [hs]; exact hblocks n hn
  · intro n hn
    rw [show t = complete w I from rfl, hfind, if_neg (Ne.symm hn)]
    exact hquires n hn
  · rw [hs]; exact ⟨fun _ => rfl, fun _ => rfl, rfl, rfl⟩
  · rw [hs]; exact hB
  · rw [show t = complete w I from rfl, hfind, if_pos rfl, hQ, Option.map_some]

/-- A write to the issuer's quire and then the word's completion. -/
theorem complete_updQuire {s : State} {I : Issuer} (h : Stands s I) (g : Quire → Quire) :
    let t := complete (s.updQuire I.key g) I
    SameElsewhere s t I.b I.key ∧ SameStores s t ∧ Tab.find t.blocks I.b = some I.blk ∧
      Tab.find t.quires I.key = some (afterWord I (g I.qr)) := by
  refine complete_of_written h ⟨rfl, fun _ _ => rfl, fun n hn => ?_⟩ h.block ?_
  · rw [State.updQuire_quires, Tab.find_modify, if_neg (Ne.symm hn)]
  · rw [State.updQuire_quires, Tab.find_modify, if_pos rfl, h.found, Option.map_some]

/-- A write to the issuer's block and then the word's completion. -/
theorem complete_updBlock {s : State} {I : Issuer} (h : Stands s I) (g : Block → Block) :
    let t := complete (s.updBlock I.b g) I
    SameElsewhere s t I.b I.key ∧ SameStores s t ∧ Tab.find t.blocks I.b = some (g I.blk) ∧
      Tab.find t.quires I.key = some (afterWord I I.qr) := by
  refine complete_of_written h ⟨rfl, fun n hn => ?_, fun _ _ => rfl⟩ ?_ h.found
  · rw [State.updBlock_blocks, Tab.find_modify, if_neg (Ne.symm hn)]
  · rw [State.updBlock_blocks, Tab.find_modify, if_pos rfl, h.block, Option.map_some]

/-! ## Vector registers -/

theorem at_mergeLanes (old : VReg) (m : Mask) (F : Nat → Word) {l : Nat} (hl : l < 96) :
    VReg.at { lanes := mergeLanes old.lanes m F } l = if m.getLsbD l then F l else old.at l := by
  simp [VReg.at, mergeLanes, hl]

theorem later_vreg (I : Issuer) (B : Block) (Q : Quire) (n : Nat) :
    (later I B Q).vreg n = if n < 64 then Tab.get {} Q.v n else Tab.get {} (Tab.get [] B.ext (I.q / 2)) n := rfl

/-- A write of a register of the pair's extended set. -/
def extWrite (I : Issuer) (r : Nat) (v : VReg) (B : Block) : Block :=
  { B with ext := Tab.set B.ext (I.q / 2) (Tab.set (Tab.get [] B.ext (I.q / 2)) r v) }

/-- Settles O17: a base register is written in the quire, one of the extended set in the block. -/
theorem vectorWriteFrame : Obligations.VectorWriteFrame := by
  intro s i I r m F hi t
  have hI := stands_of_issues hi
  by_cases hr : r < 64
  · have ht : t = complete (s.updQuire I.key fun Q =>
        { Q with v := Tab.set Q.v r { lanes := mergeLanes (I.vreg r).lanes m F } }) I := by
      simp only [t, writeV, putV, if_pos hr]
    obtain ⟨helse, hstores, hB, hQ⟩ := complete_updQuire hI fun Q =>
      { Q with v := Tab.set Q.v r { lanes := mergeLanes (I.vreg r).lanes m F } }
    rw [← ht] at helse hstores hB hQ
    refine ⟨helse, hstores, _, _, hB, hQ, afterWord_slots .., fun _ _ => rfl, afterWord_icnt _ _ rfl, ?_, rfl, ?_⟩
    · have hrest := congrArg (fun Q : Quire => { Q with v := I.qr.v }) (afterWord_rest I
        { I.qr with v := Tab.set I.qr.v r { lanes := mergeLanes (I.vreg r).lanes m F } })
      exact hrest
    · simp only [later_vreg, (afterWord_keeps ..).1]
      refine ⟨fun l hl => ?_, ?_, ?_, fun n hn => ?_⟩
      · rw [if_pos hr, Tab.get_set_self, at_mergeLanes _ _ _ hl]
      · rw [if_pos hr, Tab.get_set_self]
      · rw [if_pos hr, Tab.get_set_self]
      · rw [Tab.get_set, if_neg (Ne.symm hn)]; rfl
  · have ht : t = complete (s.updBlock I.b (extWrite I r { lanes := mergeLanes (I.vreg r).lanes m F })) I := by
      simp only [t, writeV, putV, if_neg hr]
      rfl
    obtain ⟨helse, hstores, hB, hQ⟩ := complete_updBlock hI (extWrite I r { lanes := mergeLanes (I.vreg r).lanes m F })
    rw [← ht] at helse hstores hB hQ
    refine ⟨helse, hstores, _, _, hB, hQ, afterWord_slots .., fun n hn => ?_, afterWord_icnt _ _ rfl, ?_, rfl, ?_⟩
    · rw [extWrite, Tab.find_set, if_neg (Ne.symm hn)]
    · exact congrArg (fun Q : Quire => { Q with v := I.qr.v }) (afterWord_rest I I.qr)
    · simp only [later_vreg, extWrite, (afterWord_keeps ..).1, Tab.get_set_self]
      refine ⟨fun l hl => ?_, ?_, ?_, fun n hn => ?_⟩
      · rw [if_neg hr, at_mergeLanes _ _ _ hl]
      · rw [if_neg hr]
      · rw [if_neg hr]
      · rw [Tab.get_set, if_neg (Ne.symm hn)]; rfl

/-! ## Uniform registers -/

/-- A write to the slot's bank of level S. -/
def bankWrite (c : Strand) (r : Nat) (v : Reg DWord) : Strand := { c with bank := Tab.set c.bank r v }

theorem bankKept_bankWrite (c : Strand) (r : Nat) (v : Reg DWord) : BankKept c (advanced (bankWrite c r v)) r := by
  intro n hn
  simp only [advanced, bankWrite, Tab.find_set, if_neg (Ne.symm hn)]

/-- The slot's bank is apart from what SlotAdvanced compares. -/
theorem slotAdvanced_bank (I : Issuer) (Q : Quire) (r : Nat) (v : Reg DWord) :
    SlotAdvanced Q (afterWord I (Q.setSlot I.sl { Q.slot I.sl with ctl := bankWrite (Q.slot I.sl).ctl r v })) I.sl := by
  unfold SlotAdvanced
  rw [afterWord_slot, slot_setSlot]
  unfold afterWord Quire.setSlot
  cases I.sl == 0 <;> cases I.atU <;> exact ⟨rfl, rfl⟩

theorem slotAdvanced_of_slotsAfter {Q Q' : Quire} {sl : Nat} (h : SlotsAfter Q Q' sl) : SlotAdvanced Q Q' sl := by
  unfold SlotsAfter at h
  unfold SlotAdvanced Quire.slot
  split at h
  · next hsl => simp only [if_pos hsl, h]; exact ⟨rfl, trivial⟩
  · next hsl => simp only [if_neg hsl, h]; exact ⟨rfl, trivial⟩

theorem later_sreg {I : Issuer} (hq : I.fe = false) (B : Block) {Q : Quire} (hlevel : (Q.slot I.sl).ctl.level = I.st.level)
    (n : Nat) : (later I B Q).sreg n =
      if I.sbank n then
        let x := Tab.get { val := 0 } (Q.slot I.sl).ctl.bank n
        { val := x.val.setWidth 32, full := x.full, note := x.note }
      else Tab.get { val := 0 } Q.s n := by
  simp only [Issuer.sreg, Issuer.sbank, later, hq, Bool.false_eq_true, if_false, hlevel]
  rfl

/-- Settles O18: above U s24 to s31 are written in the slot's bank, every other s register in the quire. -/
theorem uniformWriteFrame : Obligations.UniformWriteFrame := by
  intro s i I r v hi t
  have hI := stands_of_issues hi
  cases hbank : I.sbank r with
  | true =>
    have ht : t = complete (s.updQuire I.key fun Q =>
        Q.setSlot I.sl { Q.slot I.sl with ctl := bankWrite (Q.slot I.sl).ctl r { val := v.setWidth 64 } }) I := by
      simp only [t, writeS, putS, hbank, if_true, hI.unit]
      rfl
    obtain ⟨helse, hstores, hB, hQ⟩ := complete_updQuire hI fun Q =>
      Q.setSlot I.sl { Q.slot I.sl with ctl := bankWrite (Q.slot I.sl).ctl r { val := v.setWidth 64 } }
    rw [← ht] at helse hstores hB hQ
    have hslot : ((afterWord I (I.qr.setSlot I.sl { I.qr.slot I.sl with
        ctl := bankWrite (I.qr.slot I.sl).ctl r { val := v.setWidth 64 } })).slot I.sl).ctl =
        advanced (bankWrite I.st r { val := v.setWidth 64 }) := by rw [afterWord_slot, slot_setSlot, hI.strand]
    have hs := (afterWord_keeps I (I.qr.setSlot I.sl { I.qr.slot I.sl with
        ctl := bankWrite (I.qr.slot I.sl).ctl r { val := v.setWidth 64 } })).2.1
    rw [(setSlot_keeps ..).2.2.1] at hs
    refine ⟨helse, hstores, hB, _, hQ, slotAdvanced_bank .., afterWord_icnt _ _ ?_, ?_, fun _ => ⟨hs, ?_⟩, fun h => ?_, ?_⟩
    · unfold Quire.setSlot; split <;> rfl
    · unfold afterWord Quire.setSlot
      cases I.sl == 0 <;> cases I.atU <;> rfl
    · rw [hslot]; exact bankKept_bankWrite _ _ _
    · cases h
    · simp only [later_sreg hI.quire _ (Q := afterWord I _) (by rw [hslot]; rfl), hslot, hs]
      refine ⟨?_, fun n hn => ?_⟩
      · simp [hbank, advanced, bankWrite]
      · simp only [advanced, bankWrite, Tab.get_set, if_neg (Ne.symm hn)]
        rfl
  | false =>
    have ht : t = complete (s.updQuire I.key fun Q => { Q with s := Tab.set Q.s r { val := v } }) I := by
      simp only [t, writeS, putS, hbank, Bool.false_eq_true, if_false]
    obtain ⟨helse, hstores, hB, hQ⟩ := complete_updQuire hI fun Q => { Q with s := Tab.set Q.s r { val := v } }
    rw [← ht] at helse hstores hB hQ
    have hslots := afterWord_slots I { I.qr with s := Tab.set I.qr.s r { val := v } }
    have hslot := congrArg Slot.ctl (afterWord_slot I { I.qr with s := Tab.set I.qr.s r { val := v } })
    refine ⟨helse, hstores, hB, _, hQ, slotAdvanced_of_slotsAfter hslots, afterWord_icnt _ _ rfl, ?_, fun h => ?_,
      fun _ => hslots, ?_⟩
    · exact congrArg (fun Q : Quire => { Q with s := I.qr.s })
        (afterWord_rest I { I.qr with s := Tab.set I.qr.s r { val := v } })
    · cases h
    · have hctl : (Quire.slot { I.qr with s := Tab.set I.qr.s r { val := v } } I.sl).ctl = I.st := hI.strand.symm
      rw [hctl] at hslot
      simp only [later_sreg hI.quire _ (Q := afterWord I _) (by rw [hslot]; rfl), hslot, (afterWord_keeps ..).2.1]
      refine ⟨?_, fun n hn => ?_⟩
      · simp [hbank]
      · simp only [Tab.get_set, if_neg (Ne.symm hn)]
        rfl

/-! ## Predicates and condition bits -/

/-- Settles O19: both are written in the quire, and k0 is no register. -/
theorem predicateWriteFrame : Obligations.PredicateWriteFrame := by
  constructor
  · intro s i I r v hi t
    have hI := stands_of_issues hi
    by_cases hr : r = 0
    · have ht : t = complete s I := by
        simp only [t, writeK, hr, beq_self_eq_true, if_true]
      obtain ⟨helse, hstores, hB, hQ⟩ := complete_of_written hI (SameElsewhere.refl ..) hI.block hI.found
      rw [← ht] at helse hstores hB hQ
      refine ⟨helse, hstores, hB, _, hQ, afterWord_slots .., afterWord_icnt _ _ rfl, ?_, rfl, fun h => absurd hr h, fun n _ => ?_⟩
      · exact congrArg (fun Q : Quire => { Q with k := I.qr.k }) (afterWord_rest I I.qr)
      · simp only [Issuer.kreg, later, (afterWord_keeps ..).2.2.1]
    · have ht : t = complete (s.updQuire I.key fun Q => { Q with k := Tab.set Q.k r { val := v } }) I := by
        simp only [t, writeK, beq_iff_eq, if_neg hr]
      obtain ⟨helse, hstores, hB, hQ⟩ := complete_updQuire hI fun Q => { Q with k := Tab.set Q.k r { val := v } }
      rw [← ht] at helse hstores hB hQ
      refine ⟨helse, hstores, hB, _, hQ, afterWord_slots .., afterWord_icnt _ _ rfl, ?_, rfl, fun _ => ?_, fun n hn => ?_⟩
      · exact congrArg (fun Q : Quire => { Q with k := I.qr.k }) (afterWord_rest I { I.qr with k := Tab.set I.qr.k r { val := v } })
      · simp only [Issuer.kreg, later, (afterWord_keeps ..).2.2.1, beq_iff_eq, if_neg hr, Tab.get_set_self]
      · simp only [Issuer.kreg, later, (afterWord_keeps ..).2.2.1, Tab.get_set, if_neg (Ne.symm hn)]
  · intro s i I r v hi t
    have hI := stands_of_issues hi
    have ht : t = complete (s.updQuire I.key fun Q => { Q with c := Tab.set Q.c r { val := v } }) I := by
      simp only [t, writeC, hI.quire, Bool.false_eq_true, if_false]
    obtain ⟨helse, hstores, hB, hQ⟩ := complete_updQuire hI fun Q => { Q with c := Tab.set Q.c r { val := v } }
    rw [← ht] at helse hstores hB hQ
    refine ⟨helse, hstores, hB, _, hQ, afterWord_slots .., afterWord_icnt _ _ rfl, ?_, ?_, fun n hn => ?_⟩
    · exact congrArg (fun Q : Quire => { Q with c := I.qr.c }) (afterWord_rest I { I.qr with c := Tab.set I.qr.c r { val := v } })
    · simp only [Issuer.creg, later, hI.quire, (afterWord_keeps ..).2.2.2, Bool.false_eq_true, if_false, Tab.get_set_self]
    · simp only [Issuer.creg, later, hI.quire, (afterWord_keeps ..).2.2.2, Bool.false_eq_true, if_false, Tab.get_set,
        if_neg (Ne.symm hn)]

end Sys2Proof.FrameProofs
end


section
/-! PROOFS. What a front-end word that completes changes beside its result, and what counting events changes (14_control.md R312 to
R314, R326; 11_ternion.md R230; 16_traps.md R366). -/

namespace Sys2Proof.FrameProofs

open Sys2Proof.Machine Sys2Proof.Safety Sys2Proof.Laws Sys2Proof.VectorProofs Sys2Proof.ControlProofs Sys2Proof.SystemProofs

/-! ## Where a front-end's word leaves the state -/

/-- I is a front-end context that stands in s. -/
structure FrontStands (s : State) (I : Issuer) : Prop where
  unit : I.u = .front I.b
  front : I.fe = true
  block : Tab.find s.blocks I.b = some I.blk
  strand : I.st = I.blk.front.ctl

theorem frontStands_of_issues {s : State} {i : Instr} {I : Issuer} (h : FrontIssues s i I) : FrontStands s I := by
  obtain ⟨⟨hI, -⟩, hq⟩ := h
  obtain ⟨b, B, hu, hB, -, rfl⟩ | ⟨b, q, sl, B, Q, -, -, -, rfl⟩ := issuerOf_cases hI
  · exact ⟨hu, rfl, hB, rfl⟩
  · cases hq

/-- All of the state but block b. -/
def SameButBlock (s t : State) (b : Nat) : Prop :=
  { t with blocks := s.blocks } = s ∧ ∀ n, n ≠ b → Tab.find t.blocks n = Tab.find s.blocks n

theorem SameButBlock.refl (s : State) (b : Nat) : SameButBlock s s b := ⟨rfl, fun _ _ => rfl⟩

theorem SameButBlock.trans {s t w : State} {b : Nat} (h : SameButBlock s t b) (g : SameButBlock t w b) : SameButBlock s w b := by
  refine ⟨?_, fun n hn => (g.2 n hn).trans (h.2 n hn)⟩
  have := congrArg (fun x : State => { x with blocks := s.blocks }) g.1
  exact Eq.trans this h.1

theorem SameButBlock.updBlock (s : State) (b : Nat) (g : Block → Block) : SameButBlock s (s.updBlock b g) b :=
  ⟨rfl, fun n hn => by rw [State.updBlock_blocks, Tab.find_modify, if_neg (Ne.symm hn)]⟩

theorem SameButBlock.stores {s t : State} {b : Nat} (h : SameButBlock s t b) : SameStores s t := by
  have ht : t = { s with blocks := t.blocks } := (congrArg (fun x : State => { x with blocks := t.blocks }) h.1)
  rw [ht]
  exact ⟨fun _ => rfl, fun _ => rfl, rfl, rfl⟩

theorem find_updBlock {s : State} {b : Nat} {B : Block} (h : Tab.find s.blocks b = some B) (g : Block → Block) :
    Tab.find (s.updBlock b g).blocks b = some (g B) := by
  rw [State.updBlock_blocks, Tab.find_modify, if_pos rfl, h, Option.map_some]

/-- A front-end context at its next word. -/
def afterFront (B : Block) : Block := { B with front := { B.front with ctl := advanced B.front.ctl } }

/-- The completion of a front-end's word that has left w, in which only its block differs. -/
theorem front_complete {s w : State} {I : Issuer} {B : Block} (h : FrontStands s I) (hw : SameButBlock s w I.b)
    (hB : Tab.find w.blocks I.b = some B) :
    let t := complete w I
    { t with blocks := s.blocks } = s ∧ SameStores s t ∧ (∀ n, n ≠ I.b → Tab.find t.blocks n = Tab.find s.blocks n) ∧
      Tab.find t.blocks I.b = some (afterFront B) := by
  have ht : complete w I = w.updBlock I.b afterFront := by
    simp only [complete, countIcnt, h.front, Bool.true_or, if_true, nextWord, h.unit]
    rfl
  have hsame : SameButBlock s (complete w I) I.b := by
    rw [ht]
    exact hw.trans (SameButBlock.updBlock ..)
  refine ⟨hsame.1, hsame.stores, hsame.2, ?_⟩
  rw [ht]
  exact find_updBlock hB _

/-! ## x registers and condition bits -/

theorem later_xreg {I : Issuer} (hq : I.fe = true) {B : Block} (hlevel : B.front.ctl.level = I.st.level) (Q : Quire) (n : Nat) :
    (later I B Q).xreg n = if n == 0 then { val := 0 } else if I.xbank n then Tab.get { val := 0 } B.front.ctl.bank n
      else Tab.get { val := 0 } B.front.x n := by
  simp only [Issuer.xreg, Issuer.xbank, later, hq, if_true, hlevel]
  rfl

/-- A write of x register r, of one in the bank, and of condition bit r. -/
def xWrite (r : Nat) (v : Reg DWord) (B : Block) : Block := { B with front := { B.front with x := Tab.set B.front.x r v } }
def xBankWrite (r : Nat) (v : Reg DWord) (B : Block) : Block :=
  { B with front := { B.front with ctl := bankWrite B.front.ctl r v } }
def condWrite (r : Nat) (v : Reg Bool) (B : Block) : Block := { B with front := { B.front with c := Tab.set B.front.c r v } }

/-- Settles O20: above U x26 to x30 are written in the bank, x0 nowhere, every other x register in the context. -/
theorem frontWriteFrame : Obligations.FrontWriteFrame := by
  constructor
  · intro s i I r v hi t
    have hI := frontStands_of_issues hi
    have hctl := hI.strand
    by_cases hr : r = 0
    · subst hr
      have ht : t = complete s I := by simp only [t, writeX, putX, beq_self_eq_true, if_true]
      obtain ⟨hrest, hstores, hblocks, hB⟩ := front_complete hI (SameButBlock.refl ..) hI.block
      rw [← ht] at hrest hstores hblocks hB
      refine ⟨hrest, hstores, hblocks, _, hB, rfl, ?_, fun _ => ⟨rfl, fun n _ => ?_⟩, fun _ => ?_, fun _ _ => rfl, rfl,
        fun h => absurd rfl h, fun n _ => ?_⟩
      · rw [hctl]; rfl
      · rw [hctl]; rfl
      · rw [hctl]; rfl
      · rw [later_xreg hI.front (B := afterFront I.blk) (by rw [hctl]; rfl), Issuer.xreg, hctl]
        rfl
    · cases hbank : I.xbank r with
      | true =>
        have ht : t = complete (s.updBlock I.b (xBankWrite r { val := v })) I := by
          simp only [t, writeX, putX, beq_iff_eq, if_neg hr, hbank, if_true, hI.unit]
          rfl
        obtain ⟨hrest, hstores, hblocks, hB⟩ := front_complete hI (SameButBlock.updBlock s I.b
          (xBankWrite r { val := v })) (find_updBlock hI.block _)
        rw [← ht] at hrest hstores hblocks hB
        refine ⟨hrest, hstores, hblocks, _, hB, rfl, ?_, fun _ => ⟨rfl, ?_⟩, fun h => ?_, fun _ _ => rfl, ?_⟩
        · rw [hctl]; rfl
        · rw [hctl]; exact bankKept_bankWrite _ _ _
        · cases h
        · have hx := later_xreg hI.front (B := afterFront (xBankWrite r { val := v } I.blk)) (by rw [hctl]; rfl) I.qr
          refine ⟨rfl, fun _ => (hx r).trans ?_, fun n hn => (hx n).trans ?_⟩
          · simp only [beq_iff_eq, if_neg hr, hbank, if_true, afterFront, advanced, xBankWrite, bankWrite, Tab.get_set_self]
          · simp only [afterFront, advanced, xBankWrite, bankWrite, Tab.get_set, if_neg (Ne.symm hn), Issuer.xreg, hctl]
      | false =>
        have ht : t = complete (s.updBlock I.b (xWrite r { val := v })) I := by
          simp only [t, writeX, putX, beq_iff_eq, if_neg hr, hbank, Bool.false_eq_true, if_false]
          rfl
        obtain ⟨hrest, hstores, hblocks, hB⟩ := front_complete hI (SameButBlock.updBlock s I.b
          (xWrite r { val := v })) (find_updBlock hI.block _)
        rw [← ht] at hrest hstores hblocks hB
        refine ⟨hrest, hstores, hblocks, _, hB, rfl, ?_, fun h => ?_, fun _ => ?_, fun n hn => ?_, ?_⟩
        · rw [hctl]; rfl
        · cases h
        · rw [hctl]; rfl
        · rcases hn with hn | rfl
          · simp only [afterFront, xWrite, Tab.find_set, if_neg (Ne.symm hn)]
          · exact absurd rfl hr
        · have hx := later_xreg hI.front (B := afterFront (xWrite r { val := v } I.blk)) (by rw [hctl]; rfl) I.qr
          refine ⟨rfl, fun _ => (hx r).trans ?_, fun n hn => (hx n).trans ?_⟩
          · simp only [beq_iff_eq, if_neg hr, hbank, Bool.false_eq_true, if_false, afterFront, xWrite, Tab.get_set_self]
          · simp only [afterFront, advanced, xWrite, Tab.get_set, if_neg (Ne.symm hn), Issuer.xreg, hctl]
  · intro s i I r v hi t
    have hI := frontStands_of_issues hi
    have hctl := hI.strand
    have ht : t = complete (s.updBlock I.b (condWrite r { val := v })) I := by
      simp only [t, writeC, hI.front, if_true]
      rfl
    obtain ⟨hrest, hstores, hblocks, hB⟩ := front_complete hI (SameButBlock.updBlock s I.b
      (condWrite r { val := v })) (find_updBlock hI.block _)
    rw [← ht] at hrest hstores hblocks hB
    refine ⟨hrest, hstores, hblocks, _, hB, rfl, ?_, ?_, fun n hn => ?_⟩
    · rw [hctl]; rfl
    · simp only [Issuer.creg, later, hI.front, if_true, afterFront, condWrite, Tab.get_set_self]
    · simp only [Issuer.creg, later, hI.front, if_true, afterFront, condWrite, Tab.get_set, if_neg (Ne.symm hn)]

/-! ## Counting events -/

/-- From s to t, block b has gone from B to C, of which only the statistics of one tensor and OVF differ. -/
structure Tallies (s t : State) (b tensor : Nat) (B C : Block) : Prop where
  same : SameButBlock s t b
  found : Tab.find t.blocks b = some C
  rest : { C with stats := B.stats, ovf := B.ovf } = B
  others : ∀ n, n ≠ tensor → Tab.find C.stats n = Tab.find B.stats n

theorem addStat_tallies {s t : State} {b tensor : Nat} {B C : Block} (h : Tallies s t b tensor B C) (k n : Nat) :
    ∃ D, Tallies s (addStat t b tensor k n) b tensor B D ∧ D.ovf = C.ovf := by
  unfold addStat
  split
  · exact ⟨C, h, rfl⟩
  · refine ⟨_, ⟨h.same.trans (SameButBlock.updBlock ..), find_updBlock h.found _, h.rest, fun m hm => ?_⟩, rfl⟩
    rw [Tab.find_set, if_neg (Ne.symm hm), h.others m hm]

theorem setOvf_tallies {s t : State} {b tensor : Nat} {B C : Block} (h : Tallies s t b tensor B C) (m : Word) :
    ∃ D, Tallies s (setOvf t b m) b tensor B D ∧ D.ovf = C.ovf ||| m := by
  unfold setOvf
  split
  · next hm => exact ⟨C, h, by rw [beq_iff_eq] at hm; simp [hm]⟩
  · exact ⟨_, ⟨h.same.trans (SameButBlock.updBlock ..), find_updBlock h.found _, h.rest, h.others⟩, rfl⟩

/-- One bit of OVF. -/
theorem ovfBit (x : Word) (k : Nat) {n : Nat} (hn : n < 32) :
    (x ||| (1#32 <<< (k % 32))).getLsbD n = (x.getLsbD n || decide (n = k % 32)) := by
  rw [BitVec.getLsbD_or, BitVec.getLsbD_shiftLeft, BitVec.getLsbD_one]
  congr 1
  rw [Bool.eq_iff_iff]
  simp only [Bool.and_eq_true, Bool.not_eq_true', decide_eq_true_eq, decide_eq_false_iff_not]
  omega

/-- Settles O21: the three counts change the tensor's statistics, and a non-finite result sets one bit of OVF. -/
theorem eventsFrame : Obligations.EventsFrame := by
  intro s I r B hB t
  have h0 : Tallies s s I.b I.tensor B B := ⟨SameButBlock.refl .., hB, rfl, fun _ _ => rfl⟩
  obtain ⟨C1, h1, ho1⟩ := addStat_tallies h0 0 (countThreads I r (·.sat))
  obtain ⟨C2, h2, ho2⟩ := addStat_tallies h1 1 (countThreads I r (·.flush))
  obtain ⟨C3, h3, ho3⟩ := addStat_tallies h2 2 (countThreads I r (·.nan))
  have ho : C3.ovf = B.ovf := ho3.trans (ho2.trans ho1)
  obtain ⟨C, hC, hovf⟩ : ∃ C, Tallies s t I.b I.tensor B C ∧
      C.ovf = if r.any (fun e => e.2.nonfin) then B.ovf ||| (1#32 <<< (I.tensor % 32)) else B.ovf := by
    simp only [t, countEvents]
    split
    · obtain ⟨C, hC, hovf⟩ := setOvf_tallies h3 (1#32 <<< (I.tensor % 32))
      exact ⟨C, hC, by rw [hovf, ho]⟩
    · exact ⟨C3, h3, ho⟩
  refine ⟨hC.same.1, hC.same.stores, hC.same.2, C, hC.found, hC.rest, hC.others, fun n hn => ?_⟩
  rw [hovf]
  split
  · next hany => rw [ovfBit _ _ hn, hany, Bool.true_and]
  · next hany => rw [eq_false_of_ne_true hany, Bool.false_and, Bool.or_false]

end Sys2Proof.FrameProofs
end


section
/-! PROOFS. Taking a trap (16_traps.md R362 to R367): the state that a trap leaves, for a slot and for a front-end context, at
the handler of U or S and at level H. -/

namespace Sys2Proof.TrapProofs

open Sys2Proof.Machine Sys2Proof.Safety Sys2Proof.Laws Sys2Proof.VectorProofs Sys2Proof.ControlProofs Sys2Proof.SystemProofs
open Sys2Proof.FrameProofs

/-! ## What the trap's own reads leave -/

theorem same_ctxRecord (s : State) (part : Nat) (ctx : Word) : Same s (ctxRecord s part ctx).1 := by
  unfold ctxRecord
  simp only
  split
  · exact kept_readTrips Kept.same ..
  · exact kept_bar Kept.same ..
  · exact Same.rfl

/-- The state in which the trap's registers are written: the context's record has been read, and the replay journal told of an
uncorrectable error. -/
def trapBase (s : State) (I : Issuer) (t : Trap) : State :=
  let R := ctxRecord s I.blk.part I.blk.ctx
  if t.cause == .memerr then journalErr R.1 I.blk t else R.1

theorem same_trapBase (s : State) (I : Issuer) (t : Trap) : Same s (trapBase s I t) := by
  unfold trapBase
  simp only
  split
  · exact (same_ctxRecord ..).trans ⟨rfl, rfl, rfl⟩
  · exact same_ctxRecord ..

/-- The level, vector and escalation of the trap; its lanes; and the registers it writes. -/
def targetOf (s : State) (I : Issuer) (t : Trap) : Level × DWord × Bool :=
  trapTarget (ctxRecord s I.blk.part I.blk.ctx).2 I.fe I.st t.cause

def maskTaken (I : Issuer) (t : Trap) : Mask := if I.fe then 0 else growTriples I.qr.ter (t.mask.getD I.mask)

def regsTaken (s : State) (I : Issuer) (t : Trap) : TrapRegs :=
  { pc := I.st.pc, cause := trapCauseWord t I.st.level I.sl (targetOf s I t).2.2, mask := maskTaken I t, info := t.info }

/-- The quire whose slot enters a handler. -/
def enterQuire (I : Issuer) (T : Level × DWord × Bool) (regs : TrapRegs) (Q : Quire) : Quire :=
  let Q' := Q.setSlot I.sl { Q.slot I.sl with
    ctl := enterStrand (Q.slot I.sl).ctl T.1 T.2.1 regs (Tab.get { val := 0 } Q.k 15).val I.mask }
  let Q' := { Q' with k := Tab.set Q'.k 15 { val := regs.mask } }
  if T.1 == .s then dropLastPages Q' I.mask else Q'

/-- The state at level H: the unit is held, H is told, and the last-page registers of the slot's lanes are dropped. -/
def heldAt (s : State) (I : Issuer) (t : Trap) (esc : Bool) (regs : TrapRegs) : State :=
  dropPages ((updStrand s I.u fun c => { c with wait := .heldAtH { t with mask := some regs.mask } I.st.pc, trapH := regs }).tell
    (.trapAtH I.u t.cause esc)) I.u I.mask

theorem not_failing {t : Trap} (h : ¬ (t.cause = .memerr ∧ t.detail = 3)) : (t.cause == .memerr && t.detail == 3) = false := by
  rw [← Bool.not_eq_true, Bool.and_eq_true, beq_iff_eq, beq_iff_eq]
  exact h

theorem takeTrap_slot {s : State} {I : Issuer} {t : Trap} (hI : Stands s I) (hmask : I.mask = (I.qr.slot I.sl).mask)
    (ht : ¬ (t.cause = .memerr ∧ t.detail = 3)) :
    takeTrap s I.u t =
      if (targetOf s I t).1 == .h then heldAt (trapBase s I t) I t (targetOf s I t).2.2 (regsTaken s I t)
      else (trapBase s I t).updQuire I.key (enterQuire I (targetOf s I t) (regsTaken s I t)) := by
  have hstrand : unitStrand s I.u = some I.st := by
    rw [hI.unit, unitStrand, show quireKey I.b I.q = I.key from rfl, hI.found, hI.strand]
    rfl
  have hblock : Tab.find s.blocks (unitBlock I.u) = some I.blk := by rw [hI.unit]; exact hI.block
  have hquire : (Tab.find s.quires (quireKey I.b I.q)).getD {} = I.qr := by
    rw [show quireKey I.b I.q = I.key from rfl, hI.found, Option.getD_some]
  unfold takeTrap
  rw [hstrand, hblock]
  simp only [not_failing ht, Bool.false_eq_true, if_false]
  rw [hI.unit]
  simp only [hquire, ← hmask, Bool.false_eq_true, if_false, heldAt, trapBase, regsTaken, targetOf, maskTaken, hI.quire, hI.unit]
  rfl

theorem takeTrap_front {s : State} {I : Issuer} {t : Trap} (hI : FrontStands s I) (hrun : I.blk.front.done = false)
    (hsl : I.sl = 0) (ht : ¬ (t.cause = .memerr ∧ t.detail = 3)) :
    takeTrap s I.u t =
      if (targetOf s I t).1 == .h then heldAt (trapBase s I t) I t (targetOf s I t).2.2 (regsTaken s I t)
      else updStrand (trapBase s I t) I.u fun c =>
        enterStrand c (targetOf s I t).1 (targetOf s I t).2.1 (regsTaken s I t) 0 0 := by
  have hstrand : unitStrand s I.u = some I.st := by
    rw [hI.unit, unitStrand, hI.block, hI.strand]
    simp [hrun]
  have hblock : Tab.find s.blocks (unitBlock I.u) = some I.blk := by rw [hI.unit]; exact hI.block
  unfold takeTrap
  rw [hstrand, hblock]
  simp only [not_failing ht, Bool.false_eq_true, if_false]
  rw [hI.unit]
  simp only [if_true, heldAt, trapBase, regsTaken, targetOf, maskTaken, hI.front, hI.unit, hsl, dropPages]

/-! ## The handler's entry -/

theorem enterStrand_enters {T : Level × DWord × Bool} (hT : T.1 ≠ .h) (c : Strand) (regs : TrapRegs) (k15 mask : Mask) :
    EntersAt T regs k15 c (enterStrand c T.1 T.2.1 regs k15 mask) := by
  obtain ⟨lvl, vec, esc⟩ := T
  cases lvl with
  | u => exact ⟨rfl, rfl, rfl, rfl, rfl, rfl, rfl, rfl, rfl, rfl, rfl, rfl⟩
  | s =>
    refine ⟨rfl, rfl, rfl, rfl, rfl, rfl, rfl, rfl, rfl, rfl, rfl, ?_⟩
    simp only [enterStrand, enterLevel]
    cases c.level <;> rfl
  | h => exact absurd rfl hT

section EnterQuire

variable (I : Issuer) (T : Level × DWord × Bool) (regs : TrapRegs) (Q : Quire)

theorem enterQuire_slot : (enterQuire I T regs Q).slot I.sl = { Q.slot I.sl with
    ctl := enterStrand (Q.slot I.sl).ctl T.1 T.2.1 regs (Tab.get { val := 0 } Q.k 15).val I.mask } := by
  unfold enterQuire Quire.setSlot Quire.slot
  cases I.sl == 0 <;> cases T.1 == .s <;> rfl

theorem enterQuire_otherSlot : if I.sl == 0 then (enterQuire I T regs Q).s1 = Q.s1 else (enterQuire I T regs Q).s0 = Q.s0 := by
  unfold enterQuire Quire.setSlot
  cases I.sl == 0 <;> cases T.1 == .s <;> rfl

theorem enterQuire_rest :
    { enterQuire I T regs Q with s0 := Q.s0, s1 := Q.s1, k := Q.k, lastPage := Q.lastPage } = Q := by
  unfold enterQuire Quire.setSlot
  cases I.sl == 0 <;> cases T.1 == .s <;> rfl

theorem enterQuire_k : (enterQuire I T regs Q).k = Tab.set Q.k 15 { val := regs.mask } := by
  unfold enterQuire Quire.setSlot
  cases I.sl == 0 <;> cases T.1 == .s <;> rfl

end EnterQuire

/-! ## A unit held at level H -/

/-- The quire whose slot is held at H. -/
def heldQuire (I : Issuer) (t : Trap) (regs : TrapRegs) (Q : Quire) : Quire :=
  dropLastPages (Q.setSlot I.sl { Q.slot I.sl with ctl := heldStrand (Q.slot I.sl).ctl t regs }) I.mask

theorem heldQuire_rest (I : Issuer) (t : Trap) (regs : TrapRegs) (Q : Quire) :
    (heldQuire I t regs Q).slot I.sl = { Q.slot I.sl with ctl := heldStrand (Q.slot I.sl).ctl t regs } ∧
    (if I.sl == 0 then (heldQuire I t regs Q).s1 = Q.s1 else (heldQuire I t regs Q).s0 = Q.s0) ∧
    { heldQuire I t regs Q with s0 := Q.s0, s1 := Q.s1, lastPage := Q.lastPage } = Q ∧ (heldQuire I t regs Q).k = Q.k := by
  unfold heldQuire dropLastPages Quire.setSlot Quire.slot
  cases I.sl == 0 <;> exact ⟨rfl, rfl, rfl, rfl⟩

/-- Held at H, a slot's state differs from the one before in its quire and in what H has been told. -/
theorem heldAt_slot {s t' : State} {I : Issuer} (hI : Stands s I) (hsame : Same s t') (t : Trap) (esc : Bool) (regs : TrapRegs) :
    let u := heldAt t' I t esc regs
    SameElsewhere t' { u with told := t'.told } I.b I.key ∧ SameStores t' u ∧ u.told = t'.told ++ [.trapAtH I.u t.cause esc] ∧
      Tab.find u.blocks I.b = some I.blk ∧ Tab.find u.quires I.key = some (heldQuire I t regs I.qr) := by
  obtain ⟨hblocks, hquires, -⟩ := hsame
  intro u
  have hu : u = { t' with told := t'.told ++ [.trapAtH I.u t.cause esc], quires := u.quires } := by
    simp only [u, heldAt, hI.unit]
    rfl
  have hfind : ∀ n, Tab.find u.quires n = if I.key = n then some (heldQuire I t regs I.qr) else Tab.find t'.quires n := by
    intro n
    simp only [u, heldAt, hI.unit]
    change Tab.find (Tab.modify (Tab.modify t'.quires I.key _) I.key _) n = _
    simp only [Tab.find_modify, if_true, hquires, hI.found, Option.map_some]
    split
    · simp only [heldQuire, heldStrand, ← hI.strand]
    · rfl
  refine ⟨⟨?_, ?_, fun n hn => ?_⟩, ?_, ?_, ?_, ?_⟩
  · rw [hu]
  · intro n _; rw [hu]
  · rw [show ({ u with told := t'.told } : State).quires = u.quires from rfl, hfind, if_neg (Ne.symm hn)]
  · rw [hu]; exact ⟨fun _ => rfl, fun _ => rfl, rfl, rfl⟩
  · rw [hu]
  · rw [hu]; exact hblocks ▸ hI.block
  · rw [hfind, if_pos rfl]

/-! ## The cause word -/

theorem code_le (c : Cause) : c.code ≤ 0x19 := by cases c <;> decide

theorem levelNum_lt (l : Level) : l.num < 4 := by cases l <;> decide

/-- The fields of R363. -/
theorem trapCauseWord_fields (t : Trap) (prev : Level) (sl : Nat) (esc : Bool) (hsl : sl < 2) :
    let c := (trapCauseWord t prev sl esc).toNat
    bits c 0 8 = t.cause.code ∧ bits c 8 2 = prev.num ∧ bits c 10 1 = sl ∧
    bits c 11 1 = (if esc then 1 else 0) ∧ bits c 12 4 = 0 ∧ bits c 16 16 = t.detail.toNat := by
  have hcode := code_le t.cause
  have hlevel := levelNum_lt prev
  have hdetail := t.detail.isLt
  have hesc : (if esc then 2048 else 0) = (if esc then 1 else 0) * 2048 := by cases esc <;> rfl
  have hbit : (if esc then 1 else 0) < 2 := by cases esc <;> decide
  simp only [trapCauseWord, bits, BitVec.toNat_ofNat, Nat.shiftLeft_eq, Nat.shiftRight_eq_div_pow, hesc]
  generalize (if esc then 1 else 0) = e at hbit
  omega

/-! ## The statement -/

theorem trapEntry_slot {s : State} {I : Issuer} {t : Trap} (hI : Stands s I) (hmask : I.mask = (I.qr.slot I.sl).mask)
    (ht : ¬ (t.cause = .memerr ∧ t.detail = 3)) :
    let u := takeTrap s I.u t
    let T := targetOf s I t
    let s' := trapBase s I t
    SameStores s' u ∧
    ∃ Q, Tab.find u.quires I.key = some Q ∧ Tab.find u.blocks I.b = some I.blk ∧
      (Q.slot I.sl).mask = I.mask ∧ (if I.sl == 0 then Q.s1 = I.qr.s1 else Q.s0 = I.qr.s0) ∧
      { Q with s0 := I.qr.s0, s1 := I.qr.s1, k := I.qr.k, lastPage := I.qr.lastPage } = I.qr ∧
      (T.1 ≠ .h → SameElsewhere s' u I.b I.key ∧
        EntersAt T (regsTaken s I t) (Tab.get { val := 0 } I.qr.k 15).val I.st (Q.slot I.sl).ctl ∧
        Tab.find Q.k 15 = some { val := maskTaken I t } ∧ ∀ n, n ≠ 15 → Tab.find Q.k n = Tab.find I.qr.k n) ∧
      (T.1 = .h → SameElsewhere s' { u with told := s'.told } I.b I.key ∧ u.told = s'.told ++ [.trapAtH I.u t.cause T.2.2] ∧
        Q.slot I.sl = { I.qr.slot I.sl with ctl := heldStrand I.st t (regsTaken s I t) } ∧ Q.k = I.qr.k) := by
  intro u T s'
  have hsame : Same s s' := same_trapBase s I t
  have hu : u = if T.1 == .h then heldAt s' I t T.2.2 (regsTaken s I t)
      else s'.updQuire I.key (enterQuire I T (regsTaken s I t)) := takeTrap_slot hI hmask ht
  by_cases hH : T.1 = .h
  · rw [hH, beq_self_eq_true, if_pos rfl] at hu
    obtain ⟨helse, hstores, htold, hB, hQ⟩ := heldAt_slot hI hsame t T.2.2 (regsTaken s I t)
    rw [← hu] at helse hstores htold hB hQ
    obtain ⟨hslot, hother, hrest, hk⟩ := heldQuire_rest I t (regsTaken s I t) I.qr
    refine ⟨hstores, _, hQ, hB, ?_, hother, ?_, fun h => absurd hH h, fun _ => ⟨helse, htold, ?_, hk⟩⟩
    · rw [hslot, hmask]
    · exact congrArg (fun Q : Quire => { Q with k := I.qr.k }) hrest
    · rw [hslot, hI.strand]
  · rw [if_neg (by rwa [beq_iff_eq])] at hu
    have hfind : ∀ n, Tab.find u.quires n =
        if I.key = n then some (enterQuire I T (regsTaken s I t) I.qr) else Tab.find s'.quires n := by
      intro n
      rw [hu, State.updQuire_quires, Tab.find_modify, hsame.2.1, hI.found]
      rfl
    refine ⟨?_, _, (hfind I.key).trans (if_pos rfl), ?_, ?_, enterQuire_otherSlot .., enterQuire_rest .., fun _ => ⟨⟨?_, ?_, ?_⟩, ?_, ?_, ?_⟩,
      fun h => absurd h hH⟩
    · rw [hu]; exact ⟨fun _ => rfl, fun _ => rfl, rfl, rfl⟩
    · rw [hu]; exact hsame.1 ▸ hI.block
    · rw [enterQuire_slot, hmask]
    · rw [hu]; rfl
    · intro n _; rw [hu]; rfl
    · intro n hn; rw [hfind, if_neg (Ne.symm hn)]
    · rw [enterQuire_slot, hI.strand]; exact enterStrand_enters hH ..
    · rw [enterQuire_k, Tab.find_set_self]; rfl
    · intro n hn; rw [enterQuire_k, Tab.find_set, if_neg (Ne.symm hn)]

theorem trapEntry_front {s : State} {I : Issuer} {t : Trap} (hI : FrontStands s I) (hrun : I.blk.front.done = false)
    (hsl : I.sl = 0) (ht : ¬ (t.cause = .memerr ∧ t.detail = 3)) :
    let u := takeTrap s I.u t
    let T := targetOf s I t
    let s' := trapBase s I t
    SameStores s' u ∧
    ∃ c, Tab.find u.blocks I.b = some { I.blk with front := { I.blk.front with ctl := c } } ∧
      (∀ n, n ≠ I.b → Tab.find u.blocks n = Tab.find s'.blocks n) ∧
      (T.1 ≠ .h → { u with blocks := s'.blocks } = s' ∧ EntersAt T (regsTaken s I t) 0 I.st c) ∧
      (T.1 = .h → { u with blocks := s'.blocks, told := s'.told } = s' ∧ u.told = s'.told ++ [.trapAtH I.u t.cause T.2.2] ∧
        c = heldStrand I.st t (regsTaken s I t)) := by
  intro u T s'
  have hsame : Same s s' := same_trapBase s I t
  have hu : u = if T.1 == .h then heldAt s' I t T.2.2 (regsTaken s I t)
      else updStrand s' I.u fun c => enterStrand c T.1 T.2.1 (regsTaken s I t) 0 0 := takeTrap_front hI hrun hsl ht
  have hwrite : ∀ g : Strand → Strand, ∀ n, Tab.find (updStrand s' I.u g).blocks n =
      if I.b = n then some { I.blk with front := { I.blk.front with ctl := g I.st } } else Tab.find s'.blocks n := by
    intro g n
    rw [hI.unit, hI.strand, updStrand, State.updBlock_blocks, Tab.find_modify, hsame.1, hI.block]
    rfl
  by_cases hH : T.1 = .h
  · rw [hH, beq_self_eq_true, if_pos rfl, heldAt] at hu
    rw [hI.unit, dropPages] at hu
    rw [← hI.unit] at hu
    have hblocks := hwrite fun c => { c with
      wait := .heldAtH { t with mask := some (regsTaken s I t).mask } I.st.pc, trapH := regsTaken s I t }
    have hu' : u.blocks = (updStrand s' I.u fun c => { c with
      wait := .heldAtH { t with mask := some (regsTaken s I t).mask } I.st.pc, trapH := regsTaken s I t }).blocks := by rw [hu]; rfl
    refine ⟨?_, heldStrand I.st t (regsTaken s I t), ?_, fun n hn => ?_, fun h => absurd hH h, fun _ => ⟨?_, ?_, ?_⟩⟩
    · rw [hu, hI.unit]; exact ⟨fun _ => rfl, fun _ => rfl, rfl, rfl⟩
    · rw [hu', hblocks, if_pos rfl]; rfl
    · rw [hu', hblocks, if_neg (Ne.symm hn)]
    · rw [hu, hI.unit]; rfl
    · rw [hu, hI.unit]; rfl
    · rfl
  · rw [if_neg (by rwa [beq_iff_eq])] at hu
    refine ⟨?_, enterStrand I.st T.1 T.2.1 (regsTaken s I t) 0 0, ?_, fun n hn => ?_, fun _ => ⟨?_, ?_⟩,
      fun h => absurd h hH⟩
    · rw [hu, hI.unit]; exact ⟨fun _ => rfl, fun _ => rfl, rfl, rfl⟩
    · rw [hu, hwrite, if_pos rfl]
    · rw [hu, hwrite, if_neg (Ne.symm hn)]
    · rw [hu, hI.unit]; rfl
    · exact enterStrand_enters hH ..

/-- An issuer stands in its state, as a front-end context or as a slot. -/
theorem stands_of_issuerOf {s : State} {u : UnitId} {w : Word} {I : Issuer} (h : issuerOf s u w = some I) :
    (FrontStands s I ∧ I.blk.front.done = false ∧ I.sl = 0) ∨ (Stands s I ∧ I.mask = (I.qr.slot I.sl).mask) := by
  obtain ⟨b, B, hu, hB, hrun, rfl⟩ | ⟨b, q, sl, B, Q, hu, hB, hQ, rfl⟩ := issuerOf_cases h
  · exact .inl ⟨⟨hu, rfl, hB, rfl⟩, hrun, rfl⟩
  · exact .inr ⟨⟨hu, rfl, hB, hQ, rfl⟩, rfl⟩

/-- Settles O22: the state that a trap leaves, for a slot and for a front-end context, and the fields of TRAPCAUSE. -/
theorem trapEntry : Obligations.TrapEntry := by
  refine ⟨fun s I w t hI ht => ?entry, fun t prev sl esc hsl => ?fields⟩
  case fields =>
    have h := trapCauseWord_fields t prev sl esc hsl
    exact h
  obtain ⟨hS, hrun, hsl⟩ | ⟨hS, hmask⟩ := stands_of_issuerOf hI
  · obtain ⟨hstores, h⟩ := trapEntry_front hS hrun hsl ht
    exact ⟨hstores, fun hfe => absurd (hfe.symm.trans hS.front) (by decide), fun _ => h⟩
  · obtain ⟨hstores, h⟩ := trapEntry_slot hS hmask ht
    exact ⟨hstores, fun _ => h, fun hfe => absurd (hS.quire.symm.trans hfe) (by decide)⟩

end Sys2Proof.TrapProofs
end


section
/-! PROOFS. Where a trap goes, when a source traps, and the return from a handler (16_traps.md R362, R365, R367, R370, R371;
12_vector.md R255). -/

namespace Sys2Proof.TrapProofs

open Sys2Proof.Machine Sys2Proof.Safety Sys2Proof.Laws Sys2Proof.VectorProofs Sys2Proof.ControlProofs Sys2Proof.SystemProofs
open Sys2Proof.FrameProofs

/-! ## The target of a trap -/

theorem trapTarget_levels (R : CtxRec) (fe : Bool) (st : Strand) (c : Cause) (hst : st.level ≠ .h) (hc : c.level ≠ .h) :
    let uvec := if fe then R.uvecf else R.uvecq
    let svec := if fe then R.svecf else R.svecq
    let toU := c.level = .u ∧ st.level = .u ∧ uvec ≠ 0 ∧ st.trapU.inHandler = false
    let toS := ¬ toU ∧ svec ≠ 0 ∧ st.trapS.inHandler = false
    (toU → trapTarget (some R) fe st c = (.u, uvec, false)) ∧
    (toS → (trapTarget (some R) fe st c).1 = .s ∧ (trapTarget (some R) fe st c).2.1 = svec) ∧
    (¬ toU ∧ ¬ toS → (trapTarget (some R) fe st c).1 = .h ∧ (trapTarget (some R) fe st c).2.2 = true) := by
  intro uvec svec toU toS
  simp only [trapTarget, toU, toS, uvec, svec]
  generalize (if fe then R.uvecf else R.uvecq) = uvec
  generalize (if fe then R.svecf else R.svecq) = svec
  have hS : svec ≠ 0 ∧ st.trapS.inHandler = false ↔ (svec == 0 || st.trapS.inHandler) = false := by
    rw [Bool.or_eq_false_iff, beq_eq_false_iff_ne]
  have hU : uvec ≠ 0 ∧ st.trapU.inHandler = false ↔ (uvec == 0 || st.trapU.inHandler) = false := by
    rw [Bool.or_eq_false_iff, beq_eq_false_iff_ne]
  simp only [hS, hU]
  generalize (uvec == 0 || st.trapU.inHandler) = noU
  generalize (svec == 0 || st.trapS.inHandler) = noS
  generalize c.level = lc at hc ⊢
  generalize st.level = ls at hst ⊢
  cases lc with
  | h => exact absurd rfl hc
  | u | s =>
    cases ls with
    | h => exact absurd rfl hst
    | u | s => cases noU <;> cases noS <;> simp [Level.top, Level.num]

theorem causeTable : (∀ (c : Cause) (n : Nat), (c, n) ∈ [(Cause.illegalClause, 0x01), (.illegalOp, 0x02), (.illegalOperand, 0x03),
       (.illegalConvergence, 0x04), (.modeMismatch, 0x05), (.emptySource, 0x06), (.pageFault, 0x07), (.protection, 0x08),
       (.secondStage, 0x09), (.memerr, 0x0A), (.align, 0x0B), (.bounds, 0x0C), (.instabCancel, 0x0D), (.instabCompare, 0x0E),
       (.instabZdiv, 0x0F), (.detviol, 0x10), (.sigMismatch, 0x11), (.accOwner, 0x12), (.xlockViol, 0x13), (.xlockStall, 0x14),
       (.gateDenied, 0x15), (.gateRate, 0x16), (.gateClosed, 0x17), (.gateBad, 0x18), (.trap, 0x19)] → c.code = n) ∧
   (∀ a b : Cause, a.code = b.code → a = b) ∧
   (∀ a : Cause, a.level = .u ↔ a ∈ [Cause.instabCancel, .instabCompare, .instabZdiv, .sigMismatch, .trap]) ∧
   (∀ a : Cause, a.level = .h ↔ a = .secondStage) := by
  refine ⟨fun c n h => ?_, fun a b h => ?_, fun a => ?_, fun a => ?_⟩
  · simp only [List.mem_cons, Prod.mk.injEq, List.not_mem_nil, or_false] at h
    rcases h with ⟨rfl, rfl⟩ | ⟨rfl, rfl⟩ | ⟨rfl, rfl⟩ | ⟨rfl, rfl⟩ | ⟨rfl, rfl⟩ | ⟨rfl, rfl⟩ | ⟨rfl, rfl⟩ | ⟨rfl, rfl⟩ | ⟨rfl, rfl⟩ |
      ⟨rfl, rfl⟩ | ⟨rfl, rfl⟩ | ⟨rfl, rfl⟩ | ⟨rfl, rfl⟩ | ⟨rfl, rfl⟩ | ⟨rfl, rfl⟩ | ⟨rfl, rfl⟩ | ⟨rfl, rfl⟩ | ⟨rfl, rfl⟩ | ⟨rfl, rfl⟩ |
      ⟨rfl, rfl⟩ | ⟨rfl, rfl⟩ | ⟨rfl, rfl⟩ | ⟨rfl, rfl⟩ | ⟨rfl, rfl⟩ | ⟨rfl, rfl⟩ <;> rfl
  · cases a <;> cases b <;> first | rfl | cases h
  · cases a <;> decide
  · cases a <;> decide

/-! ## Sources that are empty -/

/-- Instruction i of operand form h does nothing before its operands have been checked. -/
def Framed (i : Instr) (h : Shape) (f : VV) : Prop :=
  ∀ s, ∃ k : Issuer → Unit → Act, exec i s = onQuire i s fun I => vvFrame h I f (k I)

theorem sourceWords_framed {I : Issuer} {f : VV} {x : Instr × Bool × List SrcSt} (hx : x ∈ sourceWords I f) :
    ∃ h : Shape, Framed x.1 h f ∧ x.2.1 = h.ok I f ∧ x.2.2 = h.srcs I f := by
  simp only [sourceWords, List.mem_append, List.mem_map] at hx
  obtain ((⟨y, hy, rfl⟩ | ⟨y, hy, rfl⟩) | ⟨y, hy, rfl⟩) | ⟨y, hy, rfl⟩ := hx
  · exact ⟨y.2.1, fun s => ⟨_, (wordOps_wordOp f y hy).1 s⟩, rfl, rfl⟩
  · obtain ⟨g, hexec, -, -⟩ := laneOps_laneOp f y hy
    exact ⟨y.2.1, fun s => ⟨_, hexec s⟩, rfl, rfl⟩
  · exact ⟨y.2.1, fun s => ⟨_, roundedOps_exec f s y hy⟩, rfl, rfl⟩
  · exact ⟨{ wide := y.2.1 }, fun s => ⟨_, minMaxOps_exec f s y hy⟩, rfl, rfl⟩

theorem checkSrcs_hit {I : Issuer} {l : List SrcSt} (h : ∃ x ∈ l, x.full = false ∧ x.note = none ∧ x.e = true) :
    checkSrcs I l = .trap { cause := .emptySource, info := I.word.setWidth 64 } := by
  obtain ⟨x, hx, hfull, hnote, he⟩ := h
  rw [checkSrcs, if_pos (List.any_eq_true.mpr ⟨x, hx, by simp [hfull, hnote, he]⟩)]

theorem checkSrcs_noHit {I : Issuer} {l : List SrcSt} (h : ¬ ∃ x ∈ l, x.full = false ∧ x.note = none ∧ x.e = true) :
    checkSrcs I l = match (l.filterMap fun x => if x.full then none else x.note) with
      | n :: _ => .trap (noteTrap I.mask n)
      | [] => if l.all (·.full) then .ok else .stall := by
  have hany : (l.any fun x => !x.full && x.note.isNone && x.e) = false := by
    refine List.any_eq_false.mpr fun x hx hhit => h ⟨x, hx, ?_⟩
    simpa [and_assoc] using hhit
  simp only [checkSrcs, hany, Bool.false_eq_true, if_false] <;> rfl

theorem not_all_full {l : List SrcSt} (h : ∃ x ∈ l, x.full = false) : l.all (·.full) = false := by
  obtain ⟨x, hx, hfull⟩ := h
  exact List.all_eq_false.mpr ⟨x, hx, by rw [hfull]; decide⟩

/-- What a word of the operand form h does whose sources are not all full. -/
theorem framed_sources {f : VV} {s : State} {I : Issuer} {i : Instr} {h : Shape} (hfr : Framed i h f) (hi : QuireIssues s i I)
    (hok : h.ok I f = true) :
    let srcs := h.srcs I f
    let hit := ∃ x ∈ srcs, x.full = false ∧ x.note = none ∧ x.e = true
    let notes := srcs.filterMap fun x => if x.full then none else x.note
    (hit → Traps i s (wordTrap .emptySource i)) ∧
    (¬ hit → ∀ n l, notes = n :: l → Traps i s (noteTrap I.mask n)) ∧
    (¬ hit → notes = [] → (∃ x ∈ srcs, x.full = false) → exec i s = .next s) := by
  obtain ⟨k, hexec⟩ := hfr s
  obtain ⟨hunit, hword⟩ := issuerOf_unit hi.1.1
  have hend : exec i s = (withSrcs I (h.srcs I f) (I.srcV2 h.wide f.vd.toNat) (k I)).finish s I := by
    rw [hexec, onQuire_eq hi, vvFrame, hok]
    rfl
  intro srcs hit notes
  refine ⟨fun hhit => ?_, fun hno n l hn => ?_, fun hno hn hempty => ?_⟩
  · rw [Traps, hend, withSrcs, checkSrcs_hit hhit, wordTrap, ← hword, ← hunit]
    rfl
  · rw [Traps, hend, withSrcs, checkSrcs_noHit hno]
    simp only [srcs, notes] at hn
    rw [hn, ← hunit]
    rfl
  · rw [hend, withSrcs, checkSrcs_noHit hno]
    simp only [srcs, notes] at hn hempty
    rw [hn, not_all_full hempty]
    rfl

/-! ## The trap of a note -/

theorem noteTrap_fields (m : Mask) (n : Note) : let t := noteTrap m n
    (n.kind = .memerr → t.cause = .memerr ∧ t.info = n.addr &&& 0xFFFFFFFFFFFFF#64 ∧ t.detail = BitVec.ofNat 16 n.memkind) ∧
    (n.kind = .gpaRefused → t.cause = .pageFault ∧ t.info = (n.addr &&& 0xFFFFFFFFFFFFF#64) ||| (5#64 <<< 52) ||| (3#64 <<< 55) ∧
      (n.lanes &&& m ≠ 0 → t.mask = some (n.lanes &&& m))) ∧
    (n.kind = .align → t.cause = .align ∧ t.info = n.addr &&& 0xFFFFFFFFFFFFF#64) ∧
    (n.kind = .protection → t.cause = .protection ∧ t.info = n.addr) := by
  intro t
  refine ⟨fun h => ?_, fun h => ?_, fun h => ?_, fun h => ?_⟩
  · simp [t, noteTrap, h]
  · simp +contextual [t, noteTrap, h]
  · simp [t, noteTrap, h]
  · simp [t, noteTrap, h]

/-- Settles O23: the target by the four levels of unit and cause, the table of causes, and the sources of an F.VV word, which the
frame of its operand form checks before anything else. -/
theorem trapTargetsAndCodes : Obligations.TrapTargetsAndCodes := by
  refine ⟨trapTarget_levels, causeTable, fun f s I i ok srcs hmem hi hok => ?_, noteTrap_fields⟩
  obtain ⟨h, hfr, rfl, rfl⟩ := sourceWords_framed hmem
  exact framed_sources hfr hi hok

/-! ## The return -/

/-- TRAPCAUSE holds the level before the trap, whatever the slot. -/
theorem levelOfPrev_trapCauseWord (t : Trap) (prev : Level) (sl : Nat) (esc : Bool) :
    levelOfPrev (trapCauseWord t prev sl esc) = prev := by
  have hlevel : bits (trapCauseWord t prev sl esc).toNat 8 2 = prev.num := by
    have hcode := code_le t.cause
    have hnum := levelNum_lt prev
    have hesc : (if esc then 2048 else 0) = (if esc then 1 else 0) * 2048 := by cases esc <;> rfl
    simp only [trapCauseWord, bits, BitVec.toNat_ofNat, Nat.shiftLeft_eq, Nat.shiftRight_eq_div_pow, hesc]
    generalize (if esc then 1 else 0) = e
    omega
  unfold levelOfPrev
  rw [hlevel]
  cases prev <;> rfl

/-- A return from the handler that the strand has entered gives the strand back, but for its wait and the bank of level S. -/
theorem returnStrand_enterStrand {T : Level × DWord × Bool} (hT : T.1 ≠ .h) (c : Strand) (regs : TrapRegs) (k15 mask : Mask)
    (hpc : regs.pc = c.pc) (hprev : levelOfPrev regs.cause = c.level) :
    let r := returnStrand (enterStrand c T.1 T.2.1 regs k15 mask)
    (enterStrand c T.1 T.2.1 regs k15 mask).trapOf.savedK15 = k15 ∧
    r.pc = c.pc ∧ r.left = c.left ∧ r.hdr = c.hdr ∧ r.cls = c.cls ∧ r.level = c.level ∧
    (if T.1 = .u then r.trapU.regs = c.trapU.regs ∧ r.trapU.inHandler = false
      else r.trapS.regs = c.trapS.regs ∧ r.trapS.inHandler = false) := by
  obtain ⟨lvl, vec, esc⟩ := T
  cases lvl with
  | u =>
    refine ⟨rfl, hpc, ?_, rfl, rfl, hprev, rfl, rfl⟩
    exact if_pos (beq_iff_eq.mpr hpc)
  | s =>
    refine ⟨rfl, hpc, ?_, rfl, rfl, hprev, rfl, rfl⟩
    exact if_pos (beq_iff_eq.mpr hpc)
  | h => exact absurd rfl hT

/-- What takeReturn leaves of a quire whose slot it returns. -/
def returnQuire (sl : Nat) (Q : Quire) : Quire :=
  let st := (Q.slot sl).ctl
  let Q' := Q.setSlot sl { Q.slot sl with ctl := returnStrand st, popTrap := false }
  let Q' := { Q' with k := Tab.set Q'.k 15 { val := fitTriples Q.ter st.trapOf.savedK15 } }
  if st.level == .s then dropLastPages Q' (Q.slot sl).mask else Q'

theorem returnQuire_slot (sl : Nat) (Q : Quire) : (returnQuire sl Q).slot sl =
    { Q.slot sl with ctl := returnStrand (Q.slot sl).ctl, popTrap := false } := by
  unfold returnQuire Quire.setSlot Quire.slot
  cases sl == 0 <;> simp only [Bool.false_eq_true, if_true, if_false] <;> split <;> rfl

theorem returnQuire_k (sl : Nat) (Q : Quire) : (returnQuire sl Q).k =
    Tab.set Q.k 15 { val := fitTriples Q.ter (Q.slot sl).ctl.trapOf.savedK15 } := by
  unfold returnQuire Quire.setSlot Quire.slot
  cases sl == 0 <;> simp only [Bool.false_eq_true, if_true, if_false] <;> split <;> rfl

/-- Settles O24: ERET reads the level's registers that the entry wrote, and restores what it saved. -/
theorem trapReturnRestores : Obligations.TrapReturnRestores := by
  intro s I w t hI hfe ht T hT
  obtain ⟨hS, -⟩ | ⟨hS, hmask⟩ := stands_of_issuerOf hI
  · exact absurd (hfe.symm.trans hS.front) (by decide)
  have hT' : targetOf s I t = T := by rw [targetOf, hfe]
  have hentry := takeTrap_slot hS hmask ht
  rw [hT', if_neg (by rwa [beq_iff_eq])] at hentry
  have hfind : Tab.find (takeReturn (takeTrap s I.u t) I.u).quires I.key =
      some (returnQuire I.sl (enterQuire I T (regsTaken s I t) I.qr)) := by
    rw [hentry, hS.unit, takeReturn]
    change Tab.find (Tab.modify (Tab.modify (trapBase s I t).quires I.key _) I.key _) I.key = _
    rw [Tab.find_modify, if_pos rfl, Tab.find_modify, if_pos rfl, (same_trapBase s I t).2.1, hS.found]
    rfl
  have hslot := returnQuire_slot I.sl (enterQuire I T (regsTaken s I t) I.qr)
  have hk := returnQuire_k I.sl (enterQuire I T (regsTaken s I t) I.qr)
  have henter := enterQuire_slot I T (regsTaken s I t) I.qr
  have hter : (enterQuire I T (regsTaken s I t) I.qr).ter = I.qr.ter :=
    (congrArg Quire.ter (enterQuire_rest I T (regsTaken s I t) I.qr) :)
  obtain ⟨hsaved, hback⟩ := returnStrand_enterStrand hT I.st (regsTaken s I t) (Tab.get { val := 0 } I.qr.k 15).val I.mask
    rfl (levelOfPrev_trapCauseWord ..)
  rw [henter, ← hS.strand] at hslot hk
  refine ⟨_, hfind, ?_, ?_, ?_⟩
  · rw [hslot]; exact hback
  · rw [hk, hter, hsaved, Tab.get_set_self]
  · rw [hslot, hmask]

/-! ## TRAP and ERET -/

theorem exec_trap (f : YT) (s : State) : exec (.trap f) s = execTrap f s := rfl

theorem exec_eret (s : State) : exec .eret s = execEret s := rfl

theorem answers_trap {i : Instr} {s : State} {I : Issuer} {c : Cause} (hi : Issues s i I) (h : exec i s = (I.bad c).finish s I) :
    Traps i s (wordTrap c i) := by
  obtain ⟨hunit, hword⟩ := issuerOf_unit hi.1
  rw [Traps, h, Issuer.bad, finish_trap, hunit, hword, wordTrap]

/-- Settles O25: TRAP and ERET, by the tests that ERET makes of its level and mask. -/
theorem trapAndEret : Obligations.TrapAndEret := by
  refine ⟨fun f s I hi => ?_, fun s I hi hlevel hin hmask hbank => ?_, fun s I hi hout => ?_,
    fun s I hi hlevel hin hfe hmask => ?_⟩
  · rw [exec_trap, execTrap, onUnit_eq hi, finish_after]
  · have h1 : (I.st.level == .h || !I.st.trapOf.inHandler) = false := by simp [hlevel, hin]
    have h2 : (!I.fe && I.mask != I.st.trapOf.entryMask) = false := by
      rcases hmask with hfe | ⟨hm, -⟩
      · simp [hfe]
      · simp [hm]
    have h3 : (I.st.level == .s && bankOwed s I) = false := by
      by_cases hs : I.st.level = .s
      · rw [hbank hs, Bool.and_false]
      · rw [beq_eq_false_iff_ne.mpr hs, Bool.false_and]
    rw [Answers, exec_eret, execEret, onUnit_eq hi]
    simp only [h1, h2, h3, Bool.false_eq_true, if_false, finish_fixed]
  · have h1 : (I.st.level == .h || !I.st.trapOf.inHandler) = true := by simpa using hout
    refine answers_trap hi ?_
    rw [exec_eret, execEret, onUnit_eq hi]
    simp only [h1, if_true]
  · have h1 : (I.st.level == .h || !I.st.trapOf.inHandler) = false := by simp [hlevel, hin]
    have h2 : (!I.fe && I.mask != I.st.trapOf.entryMask) = true := by simp [hfe, hmask]
    refine answers_trap hi ?_
    rw [exec_eret, execEret, onUnit_eq hi]
    simp only [h1, h2, Bool.false_eq_true, if_false, if_true]

end Sys2Proof.TrapProofs
end


section
/-! PROOFS. Memory stays canonical (03_memory.md, 07_local_memory.md): each function that a step goes through is gone through
once, in the order of the model's files, and keeps the canonical form. The functions of Laws/Frames.lean are cited; those that
write bytes themselves end in wf_write, wf_writeBytes or wf_zeroRange of Laws/Memory.lean. -/
namespace Sys2Proof.CanonicalProofs
open Sys2Proof.Machine Sys2Proof.Safety Sys2Proof.Laws

set_option Elab.async false

/-! ## Canonical results -/

def CanonFst {α : Type} (r : State × α) : Prop := MemoryCanonical r.1

def CanonSnd {α : Type} (r : α × State) : Prop := MemoryCanonical r.2

def CanonOpt : Option State → Prop
  | some s => MemoryCanonical s
  | none => True

def CanonOptFst {α : Type} : Option (State × α) → Prop
  | some r => CanonFst r
  | none => True

def CanonDev : Dev State → Prop
  | .ok s => MemoryCanonical s
  | _ => True

def CanonDevFst {α : Type} : Dev (State × α) → Prop
  | .ok r => CanonFst r
  | _ => True

def CanonInl {α : Type} : State ⊕ α → Prop
  | .inl s => MemoryCanonical s
  | .inr _ => True

def CanonOut : Host.Outcome State Fault Refusal → Prop
  | .next s => MemoryCanonical s
  | _ => True

def CanonAct : Act → Prop
  | .done s => MemoryCanonical s
  | .wait s _ => MemoryCanonical s
  | .trapIn s _ => MemoryCanonical s
  | .after s _ => MemoryCanonical s
  | .jump s _ => MemoryCanonical s
  | .fixed s => MemoryCanonical s
  | .stall => True
  | .trap _ => True

theorem fst_mk {α : Type} {s : State} {a : α} (h : MemoryCanonical s) : CanonFst (s, a) := h
theorem fst_of {α : Type} {r : State × α} {s : State} {a : α} (h : CanonFst r) (hr : r = (s, a)) : MemoryCanonical s := by
  subst hr; exact h

theorem snd_of {α : Type} {r : α × State} {s : State} {a : α} (h : CanonSnd r) (hr : r = (a, s)) : MemoryCanonical s := by
  subst hr; exact h

theorem opt_of {r : Option State} {s : State} (h : CanonOpt r) (hr : r = some s) : MemoryCanonical s := by subst hr; exact h
theorem optFst_of {α : Type} {r : Option (State × α)} {s : State × α} (h : CanonOptFst r) (hr : r = some s) : CanonFst s := by
  subst hr; exact h

theorem dev_of {r : Dev State} {s : State} (h : CanonDev r) (hr : r = .ok s) : MemoryCanonical s := by subst hr; exact h
theorem devFst_of {α : Type} {r : Dev (State × α)} {s : State × α} (h : CanonDevFst r) (hr : r = .ok s) : CanonFst s := by
  subst hr; exact h

theorem inl_of {α : Type} {r : State ⊕ α} {s : State} (h : CanonInl r) (hr : r = .inl s) : MemoryCanonical s := by subst hr; exact h
theorem out_of {r : Host.Outcome State Fault Refusal} {s : State} (h : CanonOut r) (hr : r = .next s) : MemoryCanonical s := by
  subst hr; exact h

theorem ite_of {α : Type} {p : α → Prop} {c : Prop} [Decidable c] {a b : α} (ha : p a) (hb : p b) : p (if c then a else b) := by
  split <;> assumption

theorem getD_of {o : Option State} {d : State} (ho : CanonOpt o) (hd : MemoryCanonical d) : MemoryCanonical (o.getD d) := by
  cases o with
  | none => exact hd
  | some s => exact ho

theorem foldl_of {α β : Type} {p : β → Prop} {f : β → α → β} {l : List α} {b : β} (hb : p b) (hf : ∀ b a, p b → p (f b a)) :
    p (l.foldl f b) := by
  induction l generalizing b with
  | nil => exact hb
  | cons a l ih => exact ih (hf b a hb)

theorem canonical_of {s t : State} (h : MemoryCanonical s) (hm : t.mem = s.mem := by rfl) (hh : t.hostMem = s.hostMem := by rfl)
    (hc : t.cores = s.cores := by rfl) : MemoryCanonical t := (Canon.same hm hh hc).keep h

def CanonSending (r : Sending) : Prop := MemoryCanonical r.s

def CanonSync {α : Type} : Sync α → Prop
  | .ok s _ => MemoryCanonical s
  | .no a => CanonAct a

def CanonEngR {α : Type} : EngR α → Prop
  | .ok s _ => MemoryCanonical s
  | .no s _ => MemoryCanonical s

def CanonWin : WinRes → Prop
  | .ok s => MemoryCanonical s
  | .bad _ => True

def CanonSel : Sel → Prop
  | .idle => True
  | .meets _ a => CanonAct a
  | .stops _ s _ => MemoryCanonical s
  | .exits _ s => MemoryCanonical s
  | .clause _ s _ _ _ => MemoryCanonical s

def CanonResume : Resume → Prop
  | .took s => MemoryCanonical s
  | .unread s => MemoryCanonical s
  | .later => True

def CanonIssue : Issue → Prop
  | .idle => True
  | .meets r => CanonOut r
  | .runs s _ => MemoryCanonical s

def CanonStop : PgWalk → Prop
  | .stop a => CanonAct a
  | _ => True

def CanonWalk (r : State × PgWalk) : Prop := MemoryCanonical r.1 ∧ CanonStop r.2

def CanonStore (r : State × Option (Dev State)) : Prop := MemoryCanonical r.1 ∧ ∀ d, r.2 = some d → CanonDev d

def CanonSeal : Act ⊕ State × List Nat → Prop
  | .inl a => CanonAct a
  | .inr r => CanonFst r

def CanonDispatch (r : Option (State × Nat) × List Nat) : Prop := CanonOptFst r.1

theorem syncOk_of {α : Type} {r : Sync α} {s : State} {a : α} (h : CanonSync r) (hr : r = .ok s a) : MemoryCanonical s := by
  subst hr; exact h

theorem syncNo_of {α : Type} {r : Sync α} {a : Act} (h : CanonSync r) (hr : r = .no a) : CanonAct a := by subst hr; exact h
theorem engOk_of {α : Type} {r : EngR α} {s : State} {a : α} (h : CanonEngR r) (hr : r = .ok s a) : MemoryCanonical s := by
  subst hr; exact h

theorem engNo_of {α : Type} {r : EngR α} {s : State} {x : EngStop} (h : CanonEngR r) (hr : r = .no s x) : MemoryCanonical s := by
  subst hr; exact h

theorem win_of {r : WinRes} {s : State} (h : CanonWin r) (hr : r = .ok s) : MemoryCanonical s := by subst hr; exact h
theorem selMeets_of {r : Sel} {I : Issuer} {a : Act} (h : CanonSel r) (hr : r = .meets I a) : CanonAct a := by subst hr; exact h
theorem selStops_of {r : Sel} {I : Issuer} {s : State} {n : Nat} (h : CanonSel r) (hr : r = .stops I s n) : MemoryCanonical s := by
  subst hr; exact h

theorem selExits_of {r : Sel} {I : Issuer} {s : State} (h : CanonSel r) (hr : r = .exits I s) : MemoryCanonical s := by
  subst hr; exact h

theorem selClause_of {r : Sel} {I : Issuer} {s : State} {c : Cls} {w : Word} {ws : List Word} (h : CanonSel r)
    (hr : r = .clause I s c w ws) : MemoryCanonical s := by subst hr; exact h

theorem took_of {r : Resume} {s : State} (h : CanonResume r) (hr : r = .took s) : MemoryCanonical s := by subst hr; exact h
theorem unread_of {r : Resume} {s : State} (h : CanonResume r) (hr : r = .unread s) : MemoryCanonical s := by subst hr; exact h
theorem runs_of {r : Issue} {s : State} {i : Instr} (h : CanonIssue r) (hr : r = .runs s i) : MemoryCanonical s := by
  subst hr; exact h

theorem meets_of {r : Issue} {o : Host.Outcome State Fault Refusal} (h : CanonIssue r) (hr : r = .meets o) : CanonOut o := by
  subst hr; exact h

theorem walkFst_of {r : State × PgWalk} {s : State} {p : PgWalk} (h : CanonWalk r) (hr : r = (s, p)) : MemoryCanonical s := by
  subst hr; exact h.1

theorem walkStop_of {r : State × PgWalk} {s : State} {a : Act} (h : CanonWalk r) (hr : r = (s, .stop a)) : CanonAct a := by
  subst hr; exact h.2

theorem walk_stop {s : State} {a : Act} (h : MemoryCanonical s) (ha : CanonAct a) : CanonWalk (s, .stop a) := ⟨h, ha⟩
theorem walk_other {s : State} {p : PgWalk} (h : MemoryCanonical s) (hp : CanonStop p := by trivial) : CanonWalk (s, p) := ⟨h, hp⟩
theorem storeFst_of {r : State × Option (Dev State)} {s : State} {o : Option (Dev State)} (h : CanonStore r) (hr : r = (s, o)) :
    MemoryCanonical s := by subst hr; exact h.1

theorem storeSnd_of {r : State × Option (Dev State)} {s : State} {d : Dev State} (h : CanonStore r) (hr : r = (s, some d)) :
    CanonDev d := by subst hr; exact h.2 d rfl

theorem sealAct_of {r : Act ⊕ State × List Nat} {a : Act} (h : CanonSeal r) (hr : r = .inl a) : CanonAct a := by subst hr; exact h
theorem sealState_of {r : Act ⊕ State × List Nat} {x : State × List Nat} (h : CanonSeal r) (hr : r = .inr x) : CanonFst x := by
  subst hr; exact h

theorem dispatched_of {r : Option (State × Nat) × List Nat} {o : Option (State × Nat)} {l : List Nat} (h : CanonDispatch r)
    (hr : r = (o, l)) : CanonOptFst o := by subst hr; exact h

theorem optPair_of {α : Type} {r : Option (State × α)} {s : State} {a : α} (h : CanonOptFst r) (hr : r = some (s, a)) :
    MemoryCanonical s := by subst hr; exact h

theorem devPair_of {α : Type} {r : Dev (State × α)} {s : State} {a : α} (h : CanonDevFst r) (hr : r = .ok (s, a)) :
    MemoryCanonical s := by subst hr; exact h

theorem syncWait_of {α : Type} {r : Sync α} {s : State} {w : Wait} (h : CanonSync r) (hr : r = .no (.wait s w)) :
    MemoryCanonical s := by subst hr; exact h

theorem canonSeal_act {a : Act} (h : CanonAct a) : CanonSeal (.inl a) := h
theorem actDone_of {a : Act} {s : State} (h : CanonAct a) (ha : a = .done s) : MemoryCanonical s := by subst ha; exact h
theorem bind_of {α : Type} {o : Option α} {f : α → Option State} (h : ∀ a, CanonOpt (f a)) : CanonOpt (o.bind f) := by
  cases o with
  | none => trivial
  | some a => exact h a

theorem elim_of {α β : Type} {p : β → Prop} {o : Option α} {d : β} {f : α → β} (hd : p d) (hf : ∀ a, p (f a)) : p (o.elim d f) := by
  cases o with
  | none => exact hd
  | some a => exact hf a

theorem map_of {α : Type} {o : Option α} {f : α → State} (h : ∀ a, MemoryCanonical (f a)) : CanonOpt (o.map f) := by
  cases o with
  | none => trivial
  | some a => exact h a

theorem canonDev_of {r : Dev State} (h : ∀ t, r = .ok t → MemoryCanonical t) : CanonDev r := by
  cases r with
  | ok t => exact h t rfl
  | _ => trivial

theorem canonDevFst_of {α : Type} {r : Dev (State × α)} (h : ∀ t, r = .ok t → MemoryCanonical t.1) : CanonDevFst r := by
  cases r with
  | ok t => exact h t rfl
  | _ => trivial

theorem canonWin_of {r : WinRes} (h : ∀ t, r = .ok t → MemoryCanonical t) : CanonWin r := by
  cases r with
  | ok t => exact h t rfl
  | bad _ => trivial

/-- Entries of a table, each with a core of the same scratchpad. -/
theorem wf_cores {s : State} (h : MemoryCanonical s) {f : Nat × Core → Nat × Core}
    (hf : ∀ e : Nat × Core, Memory.wf e.2.sram = true → Memory.wf (f e).2.sram = true) :
    ∀ e ∈ s.cores.map f, Memory.wf e.2.sram = true := by
  intro e he
  obtain ⟨x, hx, rfl⟩ := List.mem_map.mp he
  exact hf x (h.2.2 x hx)

theorem canonical_cores {s t : State} (h : MemoryCanonical s) {f : Nat × Core → Nat × Core}
    (hf : ∀ e : Nat × Core, Memory.wf e.2.sram = true → Memory.wf (f e).2.sram = true) (hm : t.mem = s.mem := by rfl)
    (hh : t.hostMem = s.hostMem := by rfl) (hc : t.cores = s.cores.map f := by rfl) : MemoryCanonical t := by
  refine ⟨hm ▸ h.1, hh ▸ h.2.1, ?_⟩
  rw [hc]
  exact wf_cores h hf

theorem canonical_mem {s t : State} (h : MemoryCanonical s) (hm : Memory.wf t.mem = true) (hh : t.hostMem = s.hostMem := by rfl)
    (hc : t.cores = s.cores := by rfl) : MemoryCanonical t := ⟨hm, hh ▸ h.2.1, hc ▸ h.2.2⟩

theorem canonical_hostMem {s t : State} (h : MemoryCanonical s) (hh : Memory.wf t.hostMem = true) (hm : t.mem = s.mem := by rfl)
    (hc : t.cores = s.cores := by rfl) : MemoryCanonical t := ⟨hm ▸ h.1, hh, hc ▸ h.2.2⟩

/-! ## Scratchpad writes -/

theorem wf_sramStore {c : Core} (h : Memory.wf c.sram = true) (a : Nat) (bs : List Byte) : Memory.wf (c.sramStore a bs).1.sram = true := by
  unfold Core.sramStore
  simp only
  split
  · refine foldl_of (p := fun c : Core => Memory.wf c.sram = true) h fun c x hc => ?_
    split
    · exact hc
    · exact wf_write hc ..
  · exact wf_writeBytes h ..

theorem wf_sramScatter {c : Core} (h : Memory.wf c.sram = true) (l : List (Nat × Byte)) : Memory.wf (sramScatter c l).1.sram = true := by
  unfold sramScatter
  simp only
  refine foldl_of (p := fun m => Memory.wf m = true) ?_ fun m x hm => wf_write hm ..
  split <;> exact h

theorem wf_sramLane {acc : Core × Answer × Bool} (h : Memory.wf acc.1.sram = true) (key a : Nat) (act : LaneAct) :
    Memory.wf (sramLane acc key a act).1.sram = true := by
  unfold sramLane
  cases act with
  | rd n => dsimp only; split <;> exact h
  | wr bs => exact wf_sramStore h ..
  | amo op =>
    dsimp only
    split
    · exact h
    · dsimp only
      split
      · exact wf_writeBytes h ..
      · exact h

/-! ## The functions of the model -/

variable {s : State}

/-! ### The functions of Machine/Memory.lean -/

theorem canonical_updPkg {p} {f : Pkg → Pkg} (h : MemoryCanonical s) : MemoryCanonical (State.updPkg s p f) :=
  canonical_of h

theorem canonical_updCore {s : State} {g f} (h : MemoryCanonical s)
    (hf : ∀ c : Core, Memory.wf c.sram = true → Memory.wf (f c).sram = true := by intro c hc; (try dsimp only); (repeat' split) <;> exact hc) :
    MemoryCanonical (s.updCore g f) := (Canon.core s g f (hf _)).keep h

theorem canonical_updPart {n} {f : Part → Part} (h : MemoryCanonical s) : MemoryCanonical (State.updPart s n f) :=
  canonical_of h

theorem canonical_updBlock {b} {f : Block → Block} (h : MemoryCanonical s) : MemoryCanonical (State.updBlock s b f) :=
  canonical_of h

theorem canonical_updQuire {k} {f : Quire → Quire} (h : MemoryCanonical s) : MemoryCanonical (State.updQuire s k f) :=
  canonical_of h

theorem canonical_tell {e} (h : MemoryCanonical s) : MemoryCanonical (State.tell s e) :=
  canonical_of h

theorem canonical_updCounts {pkg part} {f : PageCounts → PageCounts} (h : MemoryCanonical s) :
    MemoryCanonical (State.updCounts s pkg part f) :=
  canonical_updPkg h

theorem canonical_l2Fill {pkg part line dline} (h : MemoryCanonical s) : MemoryCanonical (l2Fill s pkg part line dline) :=
  (kept_l2Fill Kept.canon ..).keep h

theorem canonical_l2Update {pkg part line} {f : L2Line → L2Line} (h : MemoryCanonical s) :
    MemoryCanonical (l2Update s pkg part line f) :=
  canonical_updPkg h

theorem canonical_performHost {ha ops} (h : MemoryCanonical s) : CanonFst (performHost s ha ops) :=
  (kept_performHost Kept.canon ..).keep h

theorem canonical_pageWrite {pkg i o v mask lvl u} (h : MemoryCanonical s) : CanonWin (pageWrite s pkg i o v mask lvl u) := by
  unfold pageWrite
  split
  · exact h
  · refine ite_of h ?_
    extract_lets +onlyGivenNames _ _
    refine ite_of ?_ ?_
    · refine ite_of trivial ?_
      extract_lets +onlyGivenNames s1
      have h1 : MemoryCanonical s1 := canonical_updPart h
      split
      · exact ite_of (canonical_updPkg h1) h1
      · exact h1
    · refine ite_of (ite_of (canonical_updPart h) h) ?_
      refine ite_of ?_ h
      extract_lets +onlyGivenNames _ _ _
      split
      · exact ite_of (canonical_updPart h) h
      · exact ite_of (canonical_updPart h) h
      · exact ite_of (canonical_updPart h) h
      · exact ite_of (canonical_updPart h) h
      · exact h

theorem canonical_performAt {home part line dline ctx lvl u ops} (h : MemoryCanonical s) :
    CanonFst (performAt s home part line dline ctx lvl u ops) :=
  (kept_performAt Kept.canon ..).keep h

/-! ### The functions of Machine/Journey.lean -/

theorem canonical_takeSeq {pkg plane} (h : MemoryCanonical s) : CanonSnd (takeSeq s pkg plane) :=
  canonical_updPkg h

theorem canonical_trip {pkg d a} (h : MemoryCanonical s) : MemoryCanonical (trip s pkg d a) :=
  (kept_trip Kept.canon ..).keep h

theorem canonical_lineTrip {pkg part gpa got} (h : MemoryCanonical s) : MemoryCanonical (lineTrip s pkg part gpa got) := by
  unfold lineTrip
  split
  · exact ite_of h (canonical_trip h)
  · exact h

theorem canonical_readTrips {pkg part gpa got} (h : MemoryCanonical s) : MemoryCanonical (readTrips s pkg part gpa got) :=
  (kept_readTrips Kept.canon ..).keep h

theorem canonical_linePut {pkg part gpa bs ctx lvl u} (h : MemoryCanonical s) :
    CanonDevFst (linePut s pkg part gpa bs ctx lvl u) :=
  canonDevFst_of fun t ht => (kept_linePut Kept.canon s _ _ _ _ _ _ _ t ht).keep h

theorem canonical_gpaPut {pkg part gpa bs ctx lvl u} (h : MemoryCanonical s) : CanonDev (gpaPut s pkg part gpa bs ctx lvl u) :=
  canonDev_of fun t ht => (kept_gpaPut Kept.canon s _ _ _ _ _ _ _ t ht).keep h

theorem canonical_noteStore {part line w page off bs} (h : MemoryCanonical s) :
    MemoryCanonical (noteStore s part line w page off bs) :=
  (kept_noteStore Kept.canon ..).keep h

theorem canonical_noteStored {part gpa w page bs} (h : MemoryCanonical s) : MemoryCanonical (noteStored s part gpa w page bs) :=
  (kept_noteStored Kept.canon ..).keep h

theorem canonical_gpaWrite {pkg part gpa bs ctx lvl u} (h : MemoryCanonical s) :
    CanonDev (gpaWrite s pkg part gpa bs ctx lvl u) :=
  canonDev_of fun t ht => (kept_gpaWrite Kept.canon s _ _ _ _ _ _ _ t ht).keep h

theorem canonical_gpaWriteAll {pkg part gpa bs ctx} (h : MemoryCanonical s) : CanonDev (gpaWriteAll s pkg part gpa bs ctx) :=
  canonDev_of fun t ht => (kept_gpaWriteAll Kept.canon s _ _ _ _ _ t ht).keep h

theorem canonical_bar {pkg part want} (h : MemoryCanonical s) : MemoryCanonical (State.bar s pkg part want) :=
  canonical_of h

theorem canonical_wantPage {w} (h : MemoryCanonical s) : MemoryCanonical (State.wantPage s w) :=
  canonical_updPkg h

theorem canonical_settled {t : State} (h : MemoryCanonical s) (ht : MemoryCanonical t) : MemoryCanonical (settled s t) :=
  ite_of ht (foldl_of h fun _ _ h1 => (canonical_wantPage h1))

/-! ### The functions of Machine/Translate.lean -/

theorem canonical_walk {pkg part ctx va} (h : MemoryCanonical s) : CanonFst (walk s pkg part ctx va) :=
  (kept_walk Kept.canon ..).keep h

theorem canonical_markLeaf {pkg part ctx e place write} (h : MemoryCanonical s) :
    CanonDev (markLeaf s pkg part ctx e place write) :=
  canonDev_of fun t ht => (kept_markLeaf Kept.canon s _ _ _ _ _ _ t ht).keep h

theorem canonical_translate {w va write} (h : MemoryCanonical s) : CanonFst (Machine.translate s w va write) :=
  (canon_translate ..).keep h

theorem canonical_noThread {part gpa} (h : MemoryCanonical s) : MemoryCanonical (noThread s part gpa) :=
  (kept_noThread Kept.canon ..).keep h

theorem canonical_quietRead {pkg part gpa n} (h : MemoryCanonical s) : CanonFst (quietRead s pkg part gpa n) := by
  unfold quietRead
  split
  · exact canonical_readTrips h
  · exact canonical_bar h
  · exact canonical_noThread h
  · exact canonical_noThread h
  · exact canonical_noThread h

theorem canonical_quietWrite {pkg part gpa bs} (h : MemoryCanonical s) : CanonFst (quietWrite s pkg part gpa bs) := by
  unfold quietWrite
  split
  · exact dev_of (canonical_gpaWriteAll h) (by assumption)
  · exact canonical_bar h
  · exact canonical_noThread h
  · exact canonical_noThread h
  · exact canonical_noThread h

theorem canonical_bumpLost {pkg part rec_} (h : MemoryCanonical s) : MemoryCanonical (bumpLost s pkg part rec_) := by
  unfold bumpLost
  split
  · exact fst_of (canonical_quietRead h) (by assumption)
  · exact canonical_quietWrite (fst_of (canonical_quietRead h) (by assumption))

theorem canonical_postEvent {part cls v} (h : MemoryCanonical s) : MemoryCanonical (postEvent s part cls v) :=
  foldl_of h fun _ _ h1 => (canonical_updPart h1)

theorem canonical_queueFields {pkg part r} (h : MemoryCanonical s) : CanonFst (queueFields s pkg part r) := by
  unfold queueFields
  refine foldl_of h fun _ _ h1 => ?_
  split
  · exact h1
  · split
    · exact fst_of (canonical_quietRead h1) (by assumption)
    · exact fst_of (canonical_quietRead h1) (by assumption)

theorem canonical_notify {pkg part entry} (h : MemoryCanonical s) : CanonFst (notify s pkg part entry) := by
  unfold notify
  split
  · exact h
  · extract_lets +onlyGivenNames r
    have hq : CanonFst (queueFields s pkg part r) := canonical_queueFields h
    split
    · next s' _ _ _ _ heq =>
      have hs' : MemoryCanonical s' := fst_of hq heq
      refine ite_of (canonical_bumpLost hs') ?_
      extract_lets +onlyGivenNames w1
      have h1 : CanonFst w1 := canonical_quietWrite hs'
      extract_lets +onlyGivenNames w2
      have h2 : CanonFst w2 := ite_of (canonical_quietWrite h1) h1
      clear_value w2
      split
      · exact fst_mk (canonical_postEvent h2)
      · exact fst_mk (canonical_bumpLost h2)
    · next s' _ _ heq =>
      exact fst_mk (canonical_bumpLost (fst_of hq heq))

theorem canonical_countAccess {pkg die part gpa} (h : MemoryCanonical s) :
    MemoryCanonical (countAccess s pkg die part gpa) := by
  unfold countAccess
  refine ite_of h ?_
  split
  · exact h
  · split
    · exact fst_of (canonical_quietRead h) (by assumption)
    · extract_lets +onlyGivenNames _ _ _ _ s1
      have h1 : MemoryCanonical s1 := canonical_updPkg (fst_of (canonical_quietRead h) (by assumption))
      exact ite_of h1 (canonical_updPkg (canonical_notify h1))

/-! ### The functions of Machine/Nodes.lean -/

theorem canonical_ctxGpa {part ctx lvl va write} (h : MemoryCanonical s) : CanonFst (ctxGpa s part ctx lvl va write) :=
  (kept_ctxGpa Kept.canon ..).keep h

theorem canonical_ctxReadAt {part ctx lvl va n} (h : MemoryCanonical s) : CanonFst (ctxReadAt s part ctx lvl va n) :=
  (kept_ctxReadAt Kept.canon ..).keep h

theorem canonical_ctxWriteAt {part ctx lvl va bs} (h : MemoryCanonical s) : CanonFst (ctxWriteAt s part ctx lvl va bs) :=
  (kept_ctxWriteAt Kept.canon ..).keep h

theorem canonical_updNode {part seq} {f : Node → Node} (h : MemoryCanonical s) : MemoryCanonical (updNode s part seq f) :=
  canonical_updPart h

theorem canonical_putStatus {part seq} (h : MemoryCanonical s) : MemoryCanonical (putStatus s part seq) := by
  unfold putStatus
  split
  · exact h
  · exact canonical_ctxWriteAt h

theorem canonical_toldOnce {t : State} (_h : MemoryCanonical s) (ht : MemoryCanonical t) : MemoryCanonical (toldOnce s t) :=
  ite_of (canonical_of ht) ht

theorem canonical_edgeState {part n i pred} (h : MemoryCanonical s) : CanonFst (edgeState s part n i pred) := by
  unfold edgeState
  split
  · exact h
  · exact canonical_toldOnce h (canonical_ctxReadAt h)

theorem canonical_edges {part n} (h : MemoryCanonical s) : CanonFst (edges s part n) :=
  foldl_of h fun _ _ h1 => (canonical_edgeState h1)

theorem canonical_nodeStep {part seq} (h : MemoryCanonical s) : MemoryCanonical (nodeStep s part seq) := by
  unfold nodeStep
  split
  · exact h
  · exact ite_of h (ite_of (canonical_edges h) (canonical_putStatus (canonical_updNode (canonical_edges h))))

theorem canonical_settleNodes {part} (h : MemoryCanonical s) : MemoryCanonical (settleNodes s part) :=
  foldl_of h fun _ _ h1 => (foldl_of h1 fun _ _ h2 => (canonical_nodeStep h2))

theorem canonical_ctxRecord {part ctx} (h : MemoryCanonical s) : CanonFst (ctxRecord s part ctx) := by
  unfold ctxRecord
  extract_lets +onlyGivenNames _
  split
  · exact canonical_readTrips h
  · exact canonical_bar h
  · exact h

theorem canonical_saveBit {part ctx savebase i on} (h : MemoryCanonical s) :
    MemoryCanonical (saveBit s part ctx savebase i on) := by
  unfold saveBit
  extract_lets +onlyGivenNames _
  split
  · exact canonical_ctxWriteAt (fst_of (canonical_ctxReadAt h) (by assumption))
  · exact fst_of (canonical_ctxReadAt h) (by assumption)

theorem canonical_clearWb {e} (h : MemoryCanonical s) : MemoryCanonical (clearWb s e) := by
  unfold clearWb
  split
  · split
    · exact dev_of (canonical_gpaWrite h) (by assumption)
    · exact canonical_bar h
    · exact canonical_tell h
  · exact canonical_bar h
  · exact canonical_tell h

theorem canonical_abortPeers {n gone} (h : MemoryCanonical s) : MemoryCanonical (abortPeers s n gone) := by
  induction n generalizing s gone with
  | zero => exact h
  | succ n ih =>
    rw [abortPeers]
    exact ite_of h (ih (canonical_of h))

theorem canonical_stopEngines {f : EngOp → Bool} (h : MemoryCanonical s) : MemoryCanonical (stopEngines s f) := by
  unfold stopEngines
  extract_lets +onlyGivenNames _ s1
  have h1 : MemoryCanonical s1 := foldl_of h fun _ _ h2 => (ite_of (canonical_clearWb h2) h2)
  extract_lets +onlyGivenNames s2
  have h3 : MemoryCanonical s2 := canonical_abortPeers (canonical_of h1)
  extract_lets +onlyGivenNames s3
  have h4 : MemoryCanonical s3 := canonical_of h3
  exact canonical_of h4

theorem canonical_countWaiters {a} (h : MemoryCanonical s) : MemoryCanonical (countWaiters s a) :=
  canonical_mem h (wf_writeBytes h.1 ..)

theorem canonical_recount {before : State} (_hbefore : MemoryCanonical before) (h : MemoryCanonical s) :
    MemoryCanonical (recount before s) :=
  foldl_of h fun _ _ h1 => (canonical_countWaiters h1)

theorem canonical_dropBlock {b keepScratch} (h : MemoryCanonical s) : MemoryCanonical (dropBlock s b keepScratch) := by
  unfold dropBlock
  split
  · exact h
  · extract_lets +onlyGivenNames _ old
    have hold : MemoryCanonical old := h
    extract_lets +onlyGivenNames _ s1
    have h1 : MemoryCanonical s1 := canonical_updCore h fun c hc => by
      dsimp only
      split
      · exact hc
      · exact wf_zeroRange hc ..
    extract_lets +onlyGivenNames s2
    have h2 : MemoryCanonical s2 := canonical_of h1
    extract_lets +onlyGivenNames s3
    have h3 : MemoryCanonical s3 := ite_of h2 (canonical_recount hold h2)
    extract_lets +onlyGivenNames s4
    have h4 : MemoryCanonical s4 := canonical_of h3
    exact canonical_updCore h4

theorem canonical_journalErr {B t} (h : MemoryCanonical s) : MemoryCanonical (journalErr s B t) :=
  canonical_updPkg h

theorem canonical_journalRetire {B} (h : MemoryCanonical s) : MemoryCanonical (journalRetire s B) :=
  canonical_of h

theorem canonical_journalPut {B} (h : MemoryCanonical s) : MemoryCanonical (journalPut s B) :=
  canonical_updPkg (canonical_of h)

theorem canonical_failBlock {b unit} (h : MemoryCanonical s) : MemoryCanonical (failBlock s b unit) := by
  unfold failBlock
  split
  · exact h
  · extract_lets +onlyGivenNames _ _ s1
    have h1 : MemoryCanonical s1 := canonical_stopEngines h
    extract_lets +onlyGivenNames s2
    have h2 : MemoryCanonical s2 := canonical_updCore h1
    extract_lets +onlyGivenNames s3
    have h3 : MemoryCanonical s3 := by
      unfold s3
      split
      · exact canonical_saveBit h2
      · exact h2
    extract_lets +onlyGivenNames s4
    have h4 : MemoryCanonical s4 := canonical_dropBlock h3
    extract_lets +onlyGivenNames s5
    have h5 : MemoryCanonical s5 := canonical_updNode h4
    exact canonical_settleNodes (ite_of h5 (canonical_journalRetire h5))

theorem canonical_scrubStores {part ctx} (h : MemoryCanonical s) : MemoryCanonical (scrubStores s part ctx) :=
  foldl_of h fun _ _ h1 => (canonical_updPkg (canonical_updCore h1))

theorem canonical_scrubContext {part ctx} (h : MemoryCanonical s) : MemoryCanonical (scrubContext s part ctx) :=
  canonical_cores h fun _ hc => foldl_of (p := fun m => Memory.wf m = true) hc fun _ _ hm => wf_zeroRange hm ..

theorem canonical_killBlock {b} (h : MemoryCanonical s) : MemoryCanonical (killBlock s b) := by
  unfold killBlock
  split
  · exact h
  · exact canonical_updPkg (canonical_updCore (canonical_journalRetire (canonical_dropBlock (canonical_stopEngines h))))

theorem canonical_killContext {part ctx status} (h : MemoryCanonical s) : MemoryCanonical (killContext s part ctx status) := by
  unfold killContext
  extract_lets +onlyGivenNames _ _ _ s1
  have h1 : MemoryCanonical s1 := foldl_of h fun _ _ h => canonical_journalRetire h
  clear_value s1
  extract_lets +onlyGivenNames s2
  have h2 : MemoryCanonical s2 := foldl_of h1 fun _ _ h => canonical_saveBit h
  clear_value s2
  extract_lets +onlyGivenNames s3
  have h3 : MemoryCanonical s3 := foldl_of h2 fun _ _ h => canonical_killBlock h
  clear_value s3
  extract_lets +onlyGivenNames s4
  have h4 : MemoryCanonical s4 := canonical_scrubContext (canonical_scrubStores (canonical_stopEngines h3))
  clear_value s4
  extract_lets +onlyGivenNames s5
  have h5 : MemoryCanonical s5 := canonical_updPart h4
  clear_value s5
  extract_lets +onlyGivenNames s6
  have h6 : MemoryCanonical s6 := canonical_of h5
  clear_value s6
  exact canonical_tell (canonical_settleNodes (foldl_of h6 fun _ _ h => canonical_putStatus h))

/-! ### The functions of Machine/Ops.lean -/

theorem canonical_updStrand {u} {f : Strand → Strand} (h : MemoryCanonical s) : MemoryCanonical (updStrand s u f) := by
  unfold updStrand
  split
  · exact canonical_updBlock h
  · exact canonical_updQuire h

theorem canonical_putV {I r v} (h : MemoryCanonical s) : MemoryCanonical (putV s I r v) :=
  ite_of (canonical_updQuire h) (canonical_updBlock h)

theorem canonical_writeV {I r m} {f : Nat → Word} (h : MemoryCanonical s) : MemoryCanonical (writeV s I r m f) :=
  canonical_putV h

theorem canonical_putS {I r v} (h : MemoryCanonical s) : MemoryCanonical (putS s I r v) :=
  ite_of (canonical_updStrand h) (canonical_updQuire h)

theorem canonical_writeS {I r v} (h : MemoryCanonical s) : MemoryCanonical (writeS s I r v) :=
  canonical_putS h

theorem canonical_writeS2 {I r v} (h : MemoryCanonical s) : MemoryCanonical (writeS2 s I r v) :=
  canonical_writeS (canonical_writeS h)

theorem canonical_writeK {I r v} (h : MemoryCanonical s) : MemoryCanonical (writeK s I r v) :=
  ite_of h (canonical_updQuire h)

theorem canonical_writeC {I r v} (h : MemoryCanonical s) : MemoryCanonical (writeC s I r v) :=
  ite_of (canonical_updBlock h) (canonical_updQuire h)

theorem canonical_putX {I r v} (h : MemoryCanonical s) : MemoryCanonical (putX s I r v) :=
  ite_of h (ite_of (canonical_updStrand h) (canonical_updBlock h))

theorem canonical_writeX {I r v} (h : MemoryCanonical s) : MemoryCanonical (writeX s I r v) :=
  canonical_putX h

theorem canonical_write64 {I r v} (h : MemoryCanonical s) : MemoryCanonical (write64 s I r v) :=
  ite_of (canonical_writeX h) (canonical_writeS2 h)

theorem canonical_emptyV {I r} (h : MemoryCanonical s) : MemoryCanonical (emptyV s I r) :=
  canonical_putV h

theorem canonical_emptyS {I r} (h : MemoryCanonical s) : MemoryCanonical (emptyS s I r) :=
  canonical_putS h

theorem canonical_emptyX {I r} (h : MemoryCanonical s) : MemoryCanonical (emptyX s I r) :=
  ite_of h (canonical_putX h)

theorem canonical_empty64 {I r} (h : MemoryCanonical s) : MemoryCanonical (empty64 s I r) :=
  ite_of (canonical_emptyX h) (canonical_emptyS (canonical_emptyS h))

theorem canonical_unempty64 {I r old} (h : MemoryCanonical s) : MemoryCanonical (unempty64 s I r old) :=
  ite_of (canonical_putX h) (canonical_putS (canonical_putS h))

theorem canonical_dropPages {u mask} (h : MemoryCanonical s) : MemoryCanonical (dropPages s u mask) := by
  unfold dropPages
  split
  · exact h
  · exact canonical_updQuire h

theorem canonical_takeTrap {u t} (h : MemoryCanonical s) : MemoryCanonical (takeTrap s u t) := by
  unfold takeTrap
  split
  · refine ite_of (canonical_failBlock (canonical_journalErr h)) ?_
    extract_lets +onlyGivenNames _ _ _ _ _ R
    have hR : CanonFst R := canonical_ctxRecord h
    extract_lets +onlyGivenNames _ s1
    have h1 : MemoryCanonical s1 := hR
    extract_lets +onlyGivenNames s2
    have h2 : MemoryCanonical s2 := ite_of (canonical_journalErr h1) h1
    extract_lets +onlyGivenNames _
    refine ite_of (canonical_dropPages (canonical_tell (canonical_updStrand h2))) ?_
    split
    · exact canonical_updStrand h2
    · exact canonical_updQuire h2
  · exact h

theorem canonical_takeReturn {u} (h : MemoryCanonical s) : MemoryCanonical (takeReturn s u) := by
  unfold takeReturn
  split
  · exact canonical_updStrand h
  · exact canonical_updQuire h

theorem canonical_countIcnt {I} (h : MemoryCanonical s) : MemoryCanonical (countIcnt s I) :=
  ite_of h (canonical_updQuire h)

theorem canonical_nextWord {u} (h : MemoryCanonical s) : MemoryCanonical (nextWord s u) :=
  canonical_updStrand h

theorem canonical_touchLock {u} (h : MemoryCanonical s) : MemoryCanonical (touchLock s u) := by
  unfold touchLock
  split
  · exact h
  · exact canonical_updBlock h

theorem canonical_complete {I} (h : MemoryCanonical s) : MemoryCanonical (complete s I) :=
  canonical_nextWord (canonical_countIcnt h)

theorem canonical_Act_finish {a : Act} {s0 : State} {I} (ha : CanonAct a) (hs0 : MemoryCanonical s0) :
    CanonOut (Act.finish a s0 I) := by
  unfold Act.finish
  split
  · exact canonical_complete ha
  · exact hs0
  · exact canonical_updStrand ha
  · exact canonical_takeTrap hs0
  · exact canonical_takeTrap ha
  · exact canonical_takeTrap (canonical_complete ha)
  · exact canonical_updStrand (canonical_countIcnt ha)
  · exact ha

theorem canonical_Issuer_bad {I c} : CanonAct (Issuer.bad I c) :=
  trivial

theorem canonical_withSrcs {I srcs dsts} {k : Unit → Act} (hk : ∀ a0, CanonAct (k a0)) : CanonAct (withSrcs I srcs dsts k) := by
  unfold withSrcs
  split
  · exact trivial
  · exact trivial
  · exact ite_of trivial (hk _)

theorem canonical_onQuire {i} {k : Issuer → Act} (h : MemoryCanonical s) (hk : ∀ a0, CanonAct (k a0)) :
    CanonOut (onQuire i s k) := by
  unfold onQuire
  split
  · exact trivial
  · exact ite_of trivial (ite_of (canonical_Act_finish canonical_Issuer_bad h) (canonical_Act_finish (hk _) h))

theorem canonical_onFront {i} {k : Issuer → Act} (h : MemoryCanonical s) (hk : ∀ a0, CanonAct (k a0)) :
    CanonOut (onFront i s k) := by
  unfold onFront
  split
  · exact trivial
  · exact ite_of trivial (ite_of (canonical_Act_finish canonical_Issuer_bad h) (canonical_Act_finish (hk _) h))

theorem canonical_onUnit {i} {k : Issuer → Act} (h : MemoryCanonical s) (hk : ∀ a0, CanonAct (k a0)) :
    CanonOut (onUnit i s k) := by
  unfold onUnit
  split
  · exact trivial
  · exact ite_of (canonical_Act_finish canonical_Issuer_bad h) (canonical_Act_finish (hk _) h)

theorem canonical_addStat {b tensor k n} (h : MemoryCanonical s) : MemoryCanonical (addStat s b tensor k n) :=
  ite_of h (canonical_updBlock h)

theorem canonical_setOvf {b m} (h : MemoryCanonical s) : MemoryCanonical (setOvf s b m) :=
  ite_of h (canonical_updBlock h)

theorem canonical_drawBool (h : MemoryCanonical s) : CanonSnd (drawBool s) :=
  canonical_of h

theorem canonical_drawWord (h : MemoryCanonical s) : CanonSnd (drawWord s) :=
  canonical_of h

/-! ### The functions of Machine/Flags.lean -/

theorem canonical_Issuer_badThreads {I l} : CanonAct (Issuer.badThreads I l) :=
  trivial

theorem canonical_countEvents {I r} (h : MemoryCanonical s) : MemoryCanonical (countEvents s I r) := by
  unfold countEvents
  extract_lets +onlyGivenNames s1
  have h1 : MemoryCanonical s1 := canonical_addStat h
  extract_lets +onlyGivenNames s2
  have h2 : MemoryCanonical s2 := canonical_addStat h1
  extract_lets +onlyGivenNames s3
  have h3 : MemoryCanonical s3 := canonical_addStat h2
  exact ite_of (canonical_setOvf h3) h3

theorem canonical_instability {I n met digits} (h : MemoryCanonical s) : CanonAct (instability s I n met digits) := by
  unfold instability
  refine ite_of h ?_
  extract_lets +onlyGivenNames _ _
  refine ite_of h ?_
  extract_lets +onlyGivenNames s1
  have h1 : MemoryCanonical s1 := canonical_addStat h
  exact ite_of (canonical_updQuire h1) h1

/-! ### The functions of Machine/Operands.lean -/

theorem canonical_writeLanes {I wide r m} {f : Nat → Nat} (h : MemoryCanonical s) :
    MemoryCanonical (writeLanes s I wide r m f) := by
  unfold writeLanes
  extract_lets +onlyGivenNames s1
  have h1 : MemoryCanonical s1 := canonical_writeV h
  exact ite_of (canonical_writeV h1) h1

theorem canonical_vvFrame {x0 : Shape} {I f} {k : Unit → Act} (hk : ∀ a0, CanonAct (k a0)) : CanonAct (vvFrame x0 I f k) :=
  ite_of canonical_Issuer_bad (canonical_withSrcs (fun _ => (hk _)))

theorem canonical_vvInt {i} {x1 : Shape} {f} {g : Word → Word → Word → Word} (h : MemoryCanonical s) :
    CanonOut (vvInt i x1 f s g) :=
  canonical_onQuire h (fun _ => (canonical_vvFrame (fun _ => (canonical_writeV h))))

theorem canonical_viInt {i f} {g : Word → Word → Word} (h : MemoryCanonical s) : CanonOut (viInt i f s g) :=
  canonical_onQuire h (fun _ => (ite_of canonical_Issuer_bad (canonical_withSrcs (fun _ => (canonical_writeV h)))))

theorem canonical_vvFp {i} {x1 : Shape} {F w f} {op : List FV → Exact} (h : MemoryCanonical s) :
    CanonOut (vvFp i x1 F w f s op) :=
  canonical_onQuire h (fun _ => (canonical_vvFrame (fun _ => (canonical_instability (canonical_countEvents
    (canonical_writeLanes h))))))

theorem canonical_vvMinMax {i wide F mx f} (h : MemoryCanonical s) : CanonOut (vvMinMax i wide F mx f s) :=
  canonical_onQuire h (fun _ => (canonical_vvFrame (fun _ => (canonical_countEvents (canonical_writeLanes h)))))

/-! ### The functions of Machine/Float.lean -/

theorem canonical_compare {i f} {wide} {rel : Issuer → Nat → Bool} {flushes : Issuer → Nat → List Bool} {digits : Issuer → Nat → Nat}
  (h : MemoryCanonical s) : CanonOut (Machine.compare i f s wide rel flushes digits) :=
  canonical_onQuire h (fun _ => (ite_of canonical_Issuer_bad (canonical_withSrcs (fun _ => (canonical_instability
    (canonical_addStat (canonical_writeK h)))))))

theorem canonical_intCompare {i sg f} (h : MemoryCanonical s) : CanonOut (intCompare i sg f s) :=
  canonical_compare h

theorem canonical_fpCompare {i F wide f} (h : MemoryCanonical s) : CanonOut (fpCompare i F wide f s) :=
  canonical_compare h

theorem canonical_execIcmp {f} (h : MemoryCanonical s) : CanonOut (execIcmp f s) :=
  canonical_intCompare h

theorem canonical_execUcmp {f} (h : MemoryCanonical s) : CanonOut (execUcmp f s) :=
  canonical_intCompare h

theorem canonical_execFcmp {f} (h : MemoryCanonical s) : CanonOut (execFcmp f s) :=
  canonical_fpCompare h

theorem canonical_execDcmp {f} (h : MemoryCanonical s) : CanonOut (execDcmp f s) :=
  canonical_fpCompare h

theorem canonical_execFadd {f} (h : MemoryCanonical s) : CanonOut (execFadd f s) :=
  canonical_vvFp h

theorem canonical_execFsub {f} (h : MemoryCanonical s) : CanonOut (execFsub f s) :=
  canonical_vvFp h

theorem canonical_execFmul {f} (h : MemoryCanonical s) : CanonOut (execFmul f s) :=
  canonical_vvFp h

theorem canonical_execFfma {f} (h : MemoryCanonical s) : CanonOut (execFfma f s) :=
  canonical_vvFp h

theorem canonical_execFmin {f} (h : MemoryCanonical s) : CanonOut (execFmin f s) :=
  canonical_vvMinMax h

theorem canonical_execFmax {f} (h : MemoryCanonical s) : CanonOut (execFmax f s) :=
  canonical_vvMinMax h

theorem canonical_execFabs {f} (h : MemoryCanonical s) : CanonOut (execFabs f s) :=
  canonical_vvInt h

theorem canonical_execFneg {f} (h : MemoryCanonical s) : CanonOut (execFneg f s) :=
  canonical_vvInt h

theorem canonical_execFdiv {f} (h : MemoryCanonical s) : CanonOut (execFdiv f s) :=
  canonical_vvFp h

theorem canonical_execFsqrt {f} (h : MemoryCanonical s) : CanonOut (execFsqrt f s) :=
  canonical_vvFp h

theorem canonical_execFrcp {f} (h : MemoryCanonical s) : CanonOut (execFrcp f s) :=
  canonical_vvFp h

theorem canonical_execFrsq {f} (h : MemoryCanonical s) : CanonOut (execFrsq f s) :=
  canonical_vvFp h

theorem canonical_execFexp2 {f} (h : MemoryCanonical s) : CanonOut (execFexp2 f s) :=
  canonical_vvFp h

theorem canonical_execFlog2 {f} (h : MemoryCanonical s) : CanonOut (execFlog2 f s) :=
  canonical_vvFp h

theorem canonical_execFtanh {f} (h : MemoryCanonical s) : CanonOut (execFtanh f s) :=
  canonical_vvFp h

theorem canonical_execDadd {f} (h : MemoryCanonical s) : CanonOut (execDadd f s) :=
  canonical_vvFp h

theorem canonical_execDsub {f} (h : MemoryCanonical s) : CanonOut (execDsub f s) :=
  canonical_vvFp h

theorem canonical_execDmul {f} (h : MemoryCanonical s) : CanonOut (execDmul f s) :=
  canonical_vvFp h

theorem canonical_execDfma {f} (h : MemoryCanonical s) : CanonOut (execDfma f s) :=
  canonical_vvFp h

theorem canonical_execDmin {f} (h : MemoryCanonical s) : CanonOut (execDmin f s) :=
  canonical_vvMinMax h

theorem canonical_execDmax {f} (h : MemoryCanonical s) : CanonOut (execDmax f s) :=
  canonical_vvMinMax h

theorem canonical_execDdiv {f} (h : MemoryCanonical s) : CanonOut (execDdiv f s) :=
  canonical_vvFp h

theorem canonical_execDsqrt {f} (h : MemoryCanonical s) : CanonOut (execDsqrt f s) :=
  canonical_vvFp h

theorem canonical_execFrnd {f} (h : MemoryCanonical s) : CanonOut (execFrnd f s) :=
  canonical_onQuire h (fun _ => (canonical_vvFrame (fun _ => (canonical_countEvents (canonical_writeLanes h)))))

theorem canonical_execFclass {f} (h : MemoryCanonical s) : CanonOut (execFclass f s) :=
  canonical_vvInt h

theorem canonical_execCvt {f} (h : MemoryCanonical s) : CanonOut (execCvt f s) :=
  canonical_onQuire h (fun _ => (ite_of canonical_Issuer_bad (ite_of canonical_Issuer_bad (canonical_withSrcs (fun _ =>
    (canonical_countEvents (canonical_writeLanes h)))))))

theorem canonical_execPack2 {f} (h : MemoryCanonical s) : CanonOut (execPack2 f s) :=
  canonical_onQuire h (fun _ => (ite_of canonical_Issuer_bad (ite_of canonical_Issuer_bad (canonical_withSrcs (fun _ =>
    (canonical_countEvents (canonical_countEvents (canonical_writeLanes h))))))))

theorem canonical_execUnpack2 {f} (h : MemoryCanonical s) : CanonOut (execUnpack2 f s) :=
  canonical_onQuire h (fun _ => (ite_of canonical_Issuer_bad (ite_of canonical_Issuer_bad (canonical_withSrcs (fun _ =>
    (canonical_countEvents (canonical_countEvents (canonical_writeV (canonical_writeV h)))))))))

theorem canonical_reduce {i f} {plane : Issuer → Bool → Nat → List Nat → PlaneRes} (h : MemoryCanonical s) :
    CanonOut (Machine.reduce i f s plane) := by
  unfold Machine.reduce
  refine canonical_onQuire h fun _ => ?_
  extract_lets +onlyGivenNames _ _
  refine ite_of canonical_Issuer_bad ?_
  refine canonical_withSrcs fun _ => ?_
  extract_lets +onlyGivenNames _ _ s1
  have h1 : MemoryCanonical s1 := foldl_of h fun _ _ h2 => (ite_of (canonical_writeS2 h2) (canonical_writeS h2))
  extract_lets +onlyGivenNames s2
  have h3 : MemoryCanonical s2 := canonical_addStat h1
  extract_lets +onlyGivenNames s3
  have h4 : MemoryCanonical s3 := canonical_addStat h3
  exact ite_of (canonical_setOvf h4) h4

theorem canonical_execRedf {f} (h : MemoryCanonical s) : CanonOut (execRedf f s) :=
  canonical_reduce h

theorem canonical_execRedfmin {f} (h : MemoryCanonical s) : CanonOut (execRedfmin f s) :=
  canonical_reduce h

theorem canonical_execRedfmax {f} (h : MemoryCanonical s) : CanonOut (execRedfmax f s) :=
  canonical_reduce h

theorem canonical_execRedi {f} (h : MemoryCanonical s) : CanonOut (execRedi f s) :=
  canonical_reduce h

theorem canonical_terUnary {i f} {dwide} {res : Issuer → Nat → LaneRes} (h : MemoryCanonical s) :
    CanonOut (terUnary i f s dwide res) :=
  canonical_onQuire h (fun _ => (ite_of canonical_Issuer_bad (canonical_withSrcs (fun _ => (canonical_countEvents
    (canonical_writeLanes h))))))

theorem canonical_terCount {i f} {dwide} {res : Issuer → Nat → Nat → LaneRes} (h : MemoryCanonical s) :
    CanonOut (terCount i f s dwide res) :=
  canonical_onQuire h (fun _ => (ite_of canonical_Issuer_bad (canonical_withSrcs (fun _ => (canonical_countEvents
    (canonical_writeLanes h))))))

theorem canonical_execDig {f} (h : MemoryCanonical s) : CanonOut (execDig f s) :=
  canonical_terUnary h

theorem canonical_execTmean {f} (h : MemoryCanonical s) : CanonOut (execTmean f s) :=
  canonical_terUnary h

theorem canonical_execTspread {f} (h : MemoryCanonical s) : CanonOut (execTspread f s) :=
  canonical_terCount h

theorem canonical_execSibsel {f} (h : MemoryCanonical s) : CanonOut (execSibsel f s) :=
  canonical_terUnary h

theorem canonical_execTchk {f} (h : MemoryCanonical s) : CanonOut (execTchk f s) :=
  canonical_terCount h

/-! ### The functions of Machine/Alias.lean -/

theorem canonical_fenceAlias {ts base len} (h : MemoryCanonical s) : MemoryCanonical (fenceAlias s ts base len) :=
  ite_of h (canonical_of h)

theorem canonical_joinEngines {ts} {f : View → Nat → Bool} (h : MemoryCanonical s) : MemoryCanonical (joinEngines s ts f) :=
  ite_of h (canonical_of h)

theorem canonical_joinAt {t g n} (h : MemoryCanonical s) : MemoryCanonical (joinAt s t g n) :=
  canonical_joinEngines h

theorem canonical_performLine {r d} (h : MemoryCanonical s) : CanonFst (performLine s r d) :=
  (canon_performLine ..).keep h

theorem canonical_performHostLine {r ha} (h : MemoryCanonical s) : CanonFst (performHostLine s r ha) :=
  (canon_performHostLine ..).keep h

theorem canonical_keepView {t pkg part ctx vpage line lo n} (h : MemoryCanonical s) :
    MemoryCanonical (keepView s t pkg part ctx vpage line lo n) := by
  unfold keepView
  extract_lets +onlyGivenNames _
  refine ite_of h ?_
  split
  · exact h
  · exact ite_of h (canonical_of h)
  · exact canonical_of h

/-! ### The functions of Machine/Access.lean -/

theorem canonical_countClamp {I scope} (h : MemoryCanonical s) : MemoryCanonical (countClamp s I scope) :=
  ite_of (canonical_updCounts h) h

theorem canonical_translateAll {I write rs} (h : MemoryCanonical s) : CanonFst (translateAll s I write rs) :=
  foldl_of h fun _ _ h1 => (canonical_translate h1)

theorem canonical_holdWalk {I g level va write mask} (h : MemoryCanonical s) : CanonAct (holdWalk s I g level va write mask) :=
  canonical_tell (canonical_of h)

theorem canonical_wantAts {I gpa ha} (h : MemoryCanonical s) : CanonAct (wantAts s I gpa ha) :=
  canonical_updPkg h

theorem canonical_barredAct {I want} (h : MemoryCanonical s) : CanonAct (barredAct s I want) := by
  unfold barredAct
  split
  · exact canonical_wantAts h
  · exact trivial

theorem canonical_XlVerdict_meets {v} {I write} (h : MemoryCanonical s) : CanonAct (XlVerdict.meets v s I write) := by
  unfold XlVerdict.meets
  split
  · exact trivial
  · exact trivial
  · exact trivial
  · exact canonical_holdWalk h
  · exact canonical_wantAts h

theorem canonical_putMsg {id m} (h : MemoryCanonical s) : MemoryCanonical (putMsg s id m) :=
  canonical_of h

theorem canonical_inject {id} (h : MemoryCanonical s) : MemoryCanonical (inject s id) := by
  unfold inject
  split
  · exact h
  · split
    · exact canonical_of h
    · extract_lets +onlyGivenNames _
      refine ite_of (canonical_putMsg h) ?_
      extract_lets +onlyGivenNames q
      have hq : CanonSnd q := canonical_takeSeq h
      exact canonical_putMsg (canonical_of hq)

theorem canonical_queueBehind {acc : Sending} {r} (hacc : CanonSending acc) : CanonSending (queueBehind acc r) :=
  canonical_of hacc

theorem canonical_countLine {r} (h : MemoryCanonical s) : MemoryCanonical (countLine s r) := by
  unfold countLine
  split
  · exact canonical_countAccess h
  · exact h

theorem canonical_sendLine {acc : Sending} {r} (hacc : CanonSending acc) : CanonSending (sendLine acc r) := by
  unfold sendLine
  extract_lets +onlyGivenNames s1
  have h1 : MemoryCanonical s1 := hacc
  extract_lets +onlyGivenNames _ _
  split
  · exact canonical_tell (canonical_of h1)
  · exact ite_of (canonical_queueBehind hacc) (ite_of (canonical_performLine (canonical_countLine h1)) (ite_of hacc
      (canonical_inject (canonical_of (canonical_countLine h1)))))
  · exact ite_of hacc (ite_of hacc (canonical_of (canonical_countLine h1)))

theorem canonical_addDue {u ns} (h : MemoryCanonical s) : MemoryCanonical (addDue s u ns) := by
  unfold addDue
  split
  · exact h
  · exact canonical_updStrand h

theorem canonical_countLines {I ls} (h : MemoryCanonical s) : MemoryCanonical (countLines s I ls) :=
  foldl_of h fun _ _ h1 => (ite_of (canonical_countAccess h1) h1)

theorem canonical_queueSlow {acc : Sending} {r} (hacc : CanonSending acc) : CanonSending (queueSlow acc r) :=
  canonical_of hacc

theorem canonical_postLine {acc : Sending} {r} (hacc : CanonSending acc) : CanonSending (postLine acc r) :=
  ite_of (canonical_queueSlow hacc) (canonical_sendLine hacc)

theorem canonical_sendLines {I write id lines} (h : MemoryCanonical s) : CanonSending (sendLines s I write id lines) :=
  foldl_of h fun _ _ h1 => (ite_of (canonical_queueBehind h1) (canonical_postLine h1))

theorem canonical_memIssue {I write whole rs dest acq} {mark : State → State} (h : MemoryCanonical s) (hmark
  : ∀ a0, MemoryCanonical a0 → MemoryCanonical (mark a0)) : CanonAct (memIssue s I write whole rs dest acq mark) := by
  unfold memIssue
  extract_lets +onlyGivenNames t
  have ht : CanonFst t := canonical_translateAll h
  split
  · split
    · exact trivial
    · extract_lets +onlyGivenNames _
      refine ite_of trivial ?_
      extract_lets +onlyGivenNames _ _ r
      have hr : CanonSending r := canonical_sendLines (canonical_of ((hmark _) ht))
      exact ite_of (canonical_addDue hr) (canonical_of hr)
  · exact canonical_XlVerdict_meets ht

theorem canonical_Sync_andThen {α : Type} {r : Sync α} {k : State → α → Act} (hr : CanonSync r) (hk
  : ∀ a0 a1, MemoryCanonical a0 → CanonAct (k a0 a1)) : CanonAct (Sync.andThen r k) := by
  unfold Sync.andThen
  split
  · exact (hk _ _) hr
  · exact hr

theorem canonical_holdSync {I g va write} (h : MemoryCanonical s) : CanonAct (holdSync s I g va write) :=
  canonical_tell (canonical_of h)

theorem canonical_syncXlate {I write va n} (h : MemoryCanonical s) : CanonSync (syncXlate s I write va n) := by
  unfold syncXlate
  refine ite_of trivial ?_
  extract_lets +onlyGivenNames t
  have ht : CanonFst t := canonical_translateAll h
  split
  · extract_lets +onlyGivenNames _
    refine ite_of trivial ?_
    split
    · exact canonical_wantAts ht
    · exact ht
  · exact canonical_XlVerdict_meets ht

theorem canonical_syncGather {I ps} (h : MemoryCanonical s) : CanonSync (syncGather s I ps) := by
  unfold syncGather
  extract_lets +onlyGivenNames r
  have hr : CanonSync r := by
    unfold r
    refine foldl_of h fun _ _ h1 => ?_
    split
    · exact h1
    · split
      · exact canonical_readTrips h1
      · exact canonical_holdSync h1
      · exact trivial
      · exact trivial
      · exact canonical_barredAct h1
  clear_value r
  split
  · exact canonical_countLines hr
  · exact hr

theorem canonical_syncRead {I va n} (h : MemoryCanonical s) : CanonSync (syncRead s I va n) := by
  unfold syncRead
  split
  · exact syncNo_of (canonical_syncXlate h) (by assumption)
  · exact canonical_syncGather (syncOk_of (canonical_syncXlate h) (by assumption))

theorem canonical_syncPut {I va gpa bs} (h : MemoryCanonical s) : MemoryCanonical (syncPut s I va gpa bs) := by
  unfold syncPut
  split
  · exact canonical_noteStored (dev_of (canonical_gpaPut h) (by assumption))
  · exact h
  · exact canonical_bar h
  · exact canonical_addDue h
  · exact canonical_addDue h

theorem canonical_syncScatter {I va ps bs} (h : MemoryCanonical s) : CanonSync (syncScatter s I va ps bs) := by
  unfold syncScatter
  split
  · exact canonical_holdSync h
  · exact foldl_of (canonical_countLines h) fun _ _ h1 => (canonical_syncPut h1)

theorem canonical_syncWrite {I va bs} (h : MemoryCanonical s) : CanonSync (syncWrite s I va bs) := by
  unfold syncWrite
  split
  · exact syncNo_of (canonical_syncXlate h) (by assumption)
  · exact canonical_syncScatter (syncOk_of (canonical_syncXlate h) (by assumption))

/-! ### The functions of Machine/MemOps.lean -/

theorem canonical_emptyGroup {I r n} (h : MemoryCanonical s) : MemoryCanonical (emptyGroup s I r n) :=
  foldl_of h fun _ _ h1 => (canonical_emptyV h1)

theorem canonical_perThread {I write b} {addr : Nat → Nat} {vals det} {act : Nat → LaneAct} {dest acq} {mark : State → State} (h
  : MemoryCanonical s) (hmark : ∀ a0, MemoryCanonical a0 → MemoryCanonical (mark a0)) : CanonAct
  (perThread s I write b addr vals det act dest acq mark) := by
  unfold perThread
  split
  · exact canonical_Issuer_badThreads
  · refine ite_of canonical_Issuer_bad ?_
    split
    · exact trivial
    · exact canonical_memIssue h (fun _ h1 => ((hmark _) h1))

theorem canonical_execLd {f} (h : MemoryCanonical s) : CanonOut (execLd f s) :=
  canonical_onQuire h (fun _ => (ite_of canonical_Issuer_bad (canonical_withSrcs (fun _ => (canonical_perThread h (fun _ h1 =>
    (canonical_emptyGroup h1)))))))

theorem canonical_execSt {f} (h : MemoryCanonical s) : CanonOut (execSt f s) :=
  canonical_onQuire h (fun _ => (ite_of canonical_Issuer_bad (canonical_withSrcs (fun _ => (canonical_perThread h
    (fun _ h1 => h1))))))

theorem canonical_tripleFrame {i f} {write} {k : Issuer → List (Nat × Option Nat) → Act} (h : MemoryCanonical s) (hk
  : ∀ a0 a1, CanonAct (k a0 a1)) : CanonOut (tripleFrame i f s write k) := by
  unfold tripleFrame
  refine canonical_onQuire h fun _ => ?_
  extract_lets +onlyGivenNames _ _
  refine ite_of canonical_Issuer_bad ?_
  refine canonical_withSrcs fun _ => ?_
  split
  · exact canonical_Issuer_badThreads
  · extract_lets +onlyGivenNames _ _
    split
    · exact trivial
    · exact hk _ _

theorem canonical_execLdt {f} (h : MemoryCanonical s) : CanonOut (execLdt f s) :=
  canonical_tripleFrame h (fun _ _ => (canonical_memIssue h (fun _ h1 => (canonical_emptyGroup h1))))

theorem canonical_execStt {f} (h : MemoryCanonical s) : CanonOut (execStt f s) :=
  canonical_tripleFrame h (fun _ _ => (canonical_memIssue h (fun _ h1 => h1)))

theorem canonical_scratchRun {I l} {act : Nat → LaneAct} (h : MemoryCanonical s) : CanonFst (scratchRun s I l act) := by
  unfold scratchRun
  extract_lets +onlyGivenNames _ s1
  have h1 : MemoryCanonical s1 := canonical_updCore h fun c _ =>
    foldl_of (p := fun r : Core × Answer × Bool => Memory.wf r.1.sram = true) (wf_coreOf h _) fun _ _ hr => wf_sramLane hr ..
  exact ite_of (canonical_tell h1) h1

theorem canonical_scratchFrame {i f} {b n rdData wrData} {act : Issuer → Nat → LaneAct} {dest} (h : MemoryCanonical s) :
    CanonOut (scratchFrame i f s b n rdData wrData act dest) := by
  unfold scratchFrame
  refine canonical_onQuire h fun _ => ?_
  extract_lets +onlyGivenNames _ _ _ _
  refine ite_of canonical_Issuer_bad ?_
  refine canonical_withSrcs fun _ => ?_
  split
  · exact canonical_Issuer_badThreads
  · extract_lets +onlyGivenNames _ _
    split
    · exact trivial
    · split
      · exact trivial
      · refine ite_of trivial ?_
        extract_lets +onlyGivenNames _ _ r
        have hr : CanonFst r := canonical_scratchRun (ite_of (canonical_of (canonical_emptyGroup h)) h)
        exact ite_of (canonical_of hr) hr

theorem canonical_execLds {f} (h : MemoryCanonical s) : CanonOut (execLds f s) :=
  canonical_scratchFrame h

theorem canonical_execSts {f} (h : MemoryCanonical s) : CanonOut (execSts f s) :=
  canonical_scratchFrame h

theorem canonical_execAtoms {f} (h : MemoryCanonical s) : CanonOut (execAtoms f s) :=
  canonical_scratchFrame h

theorem canonical_onceForSlot {I write b a act dest} {mark : State → State} (h : MemoryCanonical s) (hmark
  : ∀ a0, MemoryCanonical a0 → MemoryCanonical (mark a0)) : CanonAct (onceForSlot s I write b a act dest mark) := by
  unfold onceForSlot
  split
  · exact trivial
  · exact canonical_memIssue h (fun _ h1 => ((hmark _) h1))

theorem canonical_execLdu {f} (h : MemoryCanonical s) : CanonOut (execLdu f s) :=
  canonical_onQuire h (fun _ => (ite_of canonical_Issuer_bad (canonical_withSrcs (fun _ => (canonical_onceForSlot h
    (fun _ h1 => (ite_of (canonical_emptyS (canonical_emptyS h1)) (canonical_emptyS h1))))))))

theorem canonical_execStu {f} (h : MemoryCanonical s) : CanonOut (execStu f s) :=
  canonical_onQuire h (fun _ => (ite_of canonical_Issuer_bad (canonical_withSrcs (fun _ => (canonical_onceForSlot h
    (fun _ h1 => h1))))))

theorem canonical_atomFrame {i f} {kind two} (h : MemoryCanonical s) : CanonOut (atomFrame i f s kind two) := by
  unfold atomFrame
  refine canonical_onQuire h fun _ => ?_
  extract_lets +onlyGivenNames _ _ _ _ _ _ _ _ _ _
  refine ite_of canonical_Issuer_bad ?_
  refine canonical_withSrcs fun _ => ?_
  refine ite_of trivial ?_
  extract_lets +onlyGivenNames act
  have hact : CanonAct act := canonical_perThread h (fun _ h1 => (ite_of (canonical_emptyGroup h1) h1))
  clear_value act
  split
  · exact canonical_countClamp hact
  · exact hact

theorem canonical_execAtom {f} (h : MemoryCanonical s) : CanonOut (execAtom f s) :=
  canonical_atomFrame h

theorem canonical_execAcas {f} (h : MemoryCanonical s) : CanonOut (execAcas f s) :=
  canonical_atomFrame h

theorem canonical_execFatom {f} (h : MemoryCanonical s) : CanonOut (execFatom f s) :=
  canonical_atomFrame h

theorem canonical_prefLines {I l} (h : MemoryCanonical s) : CanonFst (prefLines s I l) := by
  unfold prefLines
  refine foldl_of h fun _ _ h1 => ?_
  split
  · exact fst_of (canonical_translate h1) (by assumption)
  · exact h1

theorem canonical_prefLine {I line} (h : MemoryCanonical s) : MemoryCanonical (prefLine s I line) := by
  unfold prefLine
  split
  · exact ite_of (canonical_l2Fill h) h
  · exact h

theorem canonical_execPref {f} (h : MemoryCanonical s) : CanonOut (execPref f s) := by
  unfold execPref
  refine canonical_onQuire h fun _ => ?_
  refine ite_of canonical_Issuer_bad ?_
  split
  · exact trivial
  · exact h
  · exact ite_of trivial (foldl_of (canonical_countLines (canonical_prefLines h)) fun _ _ h1 => (canonical_prefLine h1))

theorem canonical_cleanLine {I} {x : Located} (h : MemoryCanonical s) : MemoryCanonical (cleanLine s I x) := by
  unfold cleanLine
  split
  · split
    · exact canonical_l2Update h
    · exact h
  · exact h

theorem canonical_execClean {f} (h : MemoryCanonical s) : CanonOut (execClean f s) := by
  unfold execClean
  refine canonical_onQuire h fun _ => ?_
  refine ite_of canonical_Issuer_bad ?_
  refine canonical_withSrcs fun _ => ?_
  split
  · exact canonical_Issuer_badThreads
  · extract_lets +onlyGivenNames t
    have ht : CanonFst t := canonical_translateAll h
    split
    · exact foldl_of (canonical_countLines ht) fun _ _ h1 => (canonical_cleanLine h1)
    · exact canonical_XlVerdict_meets ht

theorem canonical_execFence {f} (h : MemoryCanonical s) : CanonOut (execFence f s) :=
  canonical_onQuire h (fun _ => h)

theorem canonical_execPfence (h : MemoryCanonical s) : CanonOut (execPfence s) :=
  canonical_onQuire h (fun _ => h)

theorem canonical_regionFrame {i f} {k : Issuer → Nat → Nat → Act} (h : MemoryCanonical s) (hk : ∀ a0 a1 a2, CanonAct
  (k a0 a1 a2)) : CanonOut (regionFrame i f s k) :=
  canonical_onQuire h (fun _ => (ite_of canonical_Issuer_bad (canonical_withSrcs (fun _ => (hk _ _ _)))))

theorem canonical_execAfence {f} (h : MemoryCanonical s) : CanonOut (execAfence f s) :=
  canonical_regionFrame h (fun _ _ _ => (ite_of canonical_Issuer_bad h))

theorem canonical_sealCheck {I base len} (h : MemoryCanonical s) : CanonSeal (sealCheck s I base len) := by
  unfold sealCheck
  refine ite_of (canonSeal_act canonical_Issuer_bad) ?_
  extract_lets +onlyGivenNames t
  have ht : CanonFst t := canonical_translateAll h
  split
  · exact ite_of (canonSeal_act canonical_Issuer_bad) ht
  · exact canonSeal_act (canonical_XlVerdict_meets ht)

theorem canonical_execSeal {f} (h : MemoryCanonical s) : CanonOut (execSeal f s) := by
  unfold execSeal
  refine canonical_regionFrame h fun _ _ _ => ?_
  split
  · exact sealAct_of (canonical_sealCheck h) (by assumption)
  · exact sealState_of (canonical_sealCheck h) (by assumption)

theorem canonical_execUnseal {f} (h : MemoryCanonical s) : CanonOut (execUnseal f s) :=
  canonical_regionFrame h (fun _ _ _ => (ite_of canonical_Issuer_bad h))

theorem canonical_execFenceComplete (h : MemoryCanonical s) : CanonOut (execFenceComplete s) := by
  unfold execFenceComplete
  split
  · exact h
  · split
    · exact ite_of h (canonical_Act_finish (ite_of (p := MemoryCanonical) (canonical_fenceAlias h) (canonical_countClamp h)) h)
    · exact h

theorem canonical_execSealEffect (h : MemoryCanonical s) : CanonOut (execSealEffect s) := by
  unfold execSealEffect
  split
  · exact h
  · split
    · refine ite_of h ?_
      split
      · exact canonical_Act_finish (sealAct_of (canonical_sealCheck h) (by assumption)) h
      · exact ite_of h (canonical_Act_finish (canonical_updPart (sealState_of (canonical_sealCheck h) (by assumption))) h)
    · exact h

theorem canonical_execUnsealEffect (h : MemoryCanonical s) : CanonOut (execUnsealEffect s) := by
  unfold execUnsealEffect
  split
  · exact h
  · split
    · refine ite_of h ?_
      refine canonical_Act_finish ?_ h
      split
      · exact canonical_Issuer_bad
      · exact canonical_updPart h
    · exact h

theorem canonical_setVreg {b q r} {f : VReg → VReg} (h : MemoryCanonical s) : MemoryCanonical (setVreg s b q r f) :=
  ite_of (canonical_updQuire h) (canonical_updBlock h)

theorem canonical_deliverV {op b q r n div} {val : Nat → Nat → Word} (h : MemoryCanonical s) :
    MemoryCanonical (deliverV s op b q r n div val) :=
  foldl_of h fun _ _ h1 => (canonical_setVreg h1)

theorem canonical_deliverS {u bank r v} (h : MemoryCanonical s) : MemoryCanonical (deliverS s u bank r v) := by
  unfold deliverS
  split
  · exact ite_of (canonical_updStrand h) (canonical_updQuire h)
  · exact h

theorem canonical_deliverX {u bank r v} (h : MemoryCanonical s) : MemoryCanonical (deliverX s u bank r v) :=
  ite_of h (ite_of (canonical_updStrand h) (canonical_updBlock h))

theorem canonical_sigMismatch {u addr} (h : MemoryCanonical s) : MemoryCanonical (sigMismatch s u addr) := by
  unfold sigMismatch
  split
  · exact canonical_notify (canonical_updQuire h)
  · exact h

theorem canonical_deliver {op} (h : MemoryCanonical s) : MemoryCanonical (deliver s op) := by
  unfold deliver
  split
  · split
    · exact canonical_deliverX h
    · exact h
  · split
    · exact canonical_deliverV h
    · exact canonical_deliverV h
    · extract_lets +onlyGivenNames _ _ _ _ s1
      have h1 : MemoryCanonical s1 := canonical_deliverS h
      exact ite_of (canonical_deliverS h1) h1
    · exact h

theorem canonical_execLoadReturn (h : MemoryCanonical s) : CanonOut (execLoadReturn s) := by
  unfold execLoadReturn
  split
  · refine ite_of h ?_
    split
    · exact h
    · exact canonical_of (canonical_deliver h)
  · exact h

/-! ### The functions of Machine/Control.lean -/

theorem canonical_branchIf {I f} (h : MemoryCanonical s) : CanonAct (branchIf I f s) :=
  canonical_withSrcs (fun _ => (ite_of h h))

theorem canonical_execB {f} (h : MemoryCanonical s) : CanonOut (execB f s) :=
  canonical_onQuire h (fun _ => (canonical_branchIf h))

theorem canonical_execBra {f} (h : MemoryCanonical s) : CanonOut (execBra f s) :=
  canonical_onQuire h (fun _ => h)

theorem canonical_setLock {b pair L} (h : MemoryCanonical s) : MemoryCanonical (setLock s b pair L) :=
  canonical_updBlock h

theorem canonical_freeLock {b q} (h : MemoryCanonical s) : MemoryCanonical (freeLock s b q) :=
  canonical_setLock h

theorem canonical_dropLock {b q} (h : MemoryCanonical s) : MemoryCanonical (dropLock s b q) := by
  unfold dropLock
  split
  · exact ite_of (canonical_freeLock h) h
  · exact h

theorem canonical_quireEnd {b q} (h : MemoryCanonical s) : MemoryCanonical (quireEnd s b q) := by
  unfold quireEnd
  split
  · exact ite_of h (ite_of (canonical_killContext h) (canonical_dropLock h))
  · exact h

theorem canonical_popFault {I t} (h : MemoryCanonical s) : MemoryCanonical (popFault s I t) :=
  canonical_takeTrap (canonical_updQuire h)

theorem canonical_popStack {b q sl} (h : MemoryCanonical s) : MemoryCanonical (popStack s b q sl) := by
  unfold popStack
  split
  · exact h
  · extract_lets +onlyGivenNames _
    refine ite_of h ?_
    extract_lets +onlyGivenNames _
    split
    · exact ite_of (canonical_killContext h) (canonical_quireEnd (canonical_updQuire (syncOk_of (canonical_syncRead h)
        (by assumption))))
    · exact canonical_popFault h
    · exact canonical_updStrand (syncWait_of (canonical_syncRead h) (by assumption))
    · exact h

theorem canonical_takeRecord {b q sl r} (h : MemoryCanonical s) : MemoryCanonical (takeRecord s b q sl r) := by
  unfold takeRecord
  extract_lets +onlyGivenNames _
  split
  · exact h
  · extract_lets +onlyGivenNames _
    refine ite_of ?_ (canonical_updQuire h)
    extract_lets +onlyGivenNames s1
    have h1 : MemoryCanonical s1 := by
      unfold s1
      split
      · exact canonical_countIcnt h
      · exact h
    exact canonical_updQuire h1

theorem canonical_takeWork {b q sl} (h : MemoryCanonical s) : MemoryCanonical (takeWork s b q sl) := by
  unfold takeWork
  split
  · exact h
  · refine ite_of h ?_
    split
    · exact canonical_takeRecord h
    · exact canonical_popStack h

theorem canonical_takeAllWork (h : MemoryCanonical s) : MemoryCanonical (takeAllWork s) :=
  foldl_of h fun _ _ h1 => (canonical_takeWork (canonical_takeWork h1))

theorem canonical_arrive {I r} (h : MemoryCanonical s) : MemoryCanonical (arrive s I r) :=
  ite_of (canonical_takeRecord h) (canonical_updQuire h)

theorem canonical_joinAct {I call} {k : JoinRec → Act} (hk : ∀ a0, CanonAct (k a0)) : CanonAct (joinAct I call k) := by
  unfold joinAct
  split
  · exact canonical_Issuer_bad
  · exact ite_of (hk _) canonical_Issuer_bad

theorem canonical_execJoin (h : MemoryCanonical s) : CanonOut (execJoin s) :=
  canonical_onQuire h (fun _ => (canonical_joinAct (fun _ => (canonical_arrive (canonical_countIcnt h)))))

theorem canonical_execRet (h : MemoryCanonical s) : CanonOut (execRet s) :=
  canonical_onQuire h (fun _ => (canonical_joinAct (fun _ => (canonical_arrive (canonical_countIcnt h)))))

theorem canonical_execWaitj {f} (h : MemoryCanonical s) : CanonOut (execWaitj f s) :=
  canonical_onQuire h (fun _ => (canonical_joinAct (fun _ => (ite_of (canonical_arrive (canonical_countIcnt h))
    (canonical_updQuire h)))))

theorem canonical_tableFull : CanonAct (tableFull) :=
  trivial

theorem canonical_pushStack {I es} (h : MemoryCanonical s) : CanonSync (pushStack s I es) := by
  unfold pushStack
  extract_lets +onlyGivenNames _
  refine ite_of h ?_
  refine ite_of canonical_tableFull ?_
  split
  · exact syncNo_of (canonical_syncWrite h) (by assumption)
  · exact canonical_updQuire (syncOk_of (canonical_syncWrite h) (by assumption))

theorem canonical_execSplit {f} (h : MemoryCanonical s) : CanonOut (execSplit f s) :=
  canonical_onQuire h (fun _ => (canonical_withSrcs (fun _ => (ite_of canonical_tableFull (ite_of (canonical_updQuire
    (canonical_countIcnt (canonical_updQuire h))) (ite_of (canonical_updQuire (canonical_countIcnt (canonical_updQuire h)))
    (ite_of (canonical_updQuire (canonical_countIcnt (canonical_updQuire h))) (canonical_Sync_andThen (canonical_pushStack h)
    (fun _ _ h1 => (canonical_updQuire (canonical_countIcnt (canonical_updQuire h1))))))))))))

theorem canonical_execCall {f} (h : MemoryCanonical s) : CanonOut (execCall f s) :=
  canonical_onQuire h (fun _ => (ite_of canonical_tableFull (canonical_updQuire h)))

theorem canonical_jtabRead {I base idx} (h : MemoryCanonical s) : CanonSync (jtabRead s I base idx) := by
  unfold jtabRead
  refine foldl_of h fun _ _ h1 => ?_
  split
  · exact h1
  · split
    · exact syncNo_of (canonical_syncRead h1) (by assumption)
    · exact syncOk_of (canonical_syncRead h1) (by assumption)

theorem canonical_jtabRun {I jpc gs} (h : MemoryCanonical s) : CanonAct (jtabRun s I jpc gs) :=
  canonical_Sync_andThen (canonical_pushStack h) (fun _ _ h1 => (canonical_updQuire (canonical_updQuire
    (canonical_countIcnt h1))))

theorem canonical_execJtab {f} (h : MemoryCanonical s) : CanonOut (execJtab f s) := by
  unfold execJtab
  refine canonical_onQuire h fun _ => ?_
  extract_lets +onlyGivenNames _ _
  refine ite_of canonical_Issuer_bad ?_
  refine canonical_withSrcs fun _ => ?_
  split
  · exact canonical_Issuer_badThreads
  · split
    · exact trivial
    · extract_lets +onlyGivenNames _
      refine ite_of canonical_tableFull ?_
      split
      · exact trivial
      · exact canonical_Sync_andThen (canonical_jtabRead h) (fun _ _ h1 => (canonical_jtabRun h1))

theorem canonical_execYield (h : MemoryCanonical s) : CanonOut (execYield s) :=
  canonical_onQuire h (fun _ => (canonical_updStrand h))

theorem canonical_exitLanes {b q sl} (h : MemoryCanonical s) : MemoryCanonical (exitLanes s b q sl) := by
  unfold exitLanes
  split
  · exact h
  · extract_lets +onlyGivenNames _ _ s1
    have h1 : MemoryCanonical s1 := canonical_updQuire h
    split
    · exact h1
    · refine ite_of (canonical_quireEnd h1) ?_
      split
      · exact canonical_takeRecord h1
      · exact h1

theorem canonical_execExit (h : MemoryCanonical s) : CanonOut (execExit s) :=
  canonical_onQuire h (fun _ => (canonical_exitLanes (canonical_countIcnt h)))

theorem canonical_execTmode {f} (h : MemoryCanonical s) : CanonOut (execTmode f s) :=
  canonical_onQuire h (fun _ => (ite_of canonical_Issuer_bad (ite_of h (canonical_nextWord (canonical_updQuire h)))))

theorem canonical_pushQueue {b q n v} (h : MemoryCanonical s) : MemoryCanonical (pushQueue s b q n v) :=
  ite_of (canonical_updQuire h) (ite_of (canonical_updBlock h) (canonical_updBlock h))

theorem canonical_dropHead {b q n} (h : MemoryCanonical s) : MemoryCanonical (dropHead s b q n) := by
  unfold dropHead
  extract_lets +onlyGivenNames s1
  have h1 : MemoryCanonical s1 := canonical_updBlock h
  exact ite_of (canonical_updQuire h1) (ite_of (canonical_updBlock h1) (canonical_updBlock h1))

theorem canonical_pushOr {I q n v w} (h : MemoryCanonical s) : CanonAct (pushOr s I q n v w) :=
  ite_of trivial (ite_of (canonical_pushQueue h) h)

theorem canonical_execToken {f} (h : MemoryCanonical s) : CanonOut (execToken f s) :=
  canonical_onQuire h (fun _ => (ite_of canonical_Issuer_bad (canonical_pushOr h)))

theorem canonical_execQpush {f} (h : MemoryCanonical s) : CanonOut (execQpush f s) :=
  canonical_onQuire h (fun _ => (ite_of canonical_Issuer_bad (canonical_withSrcs (fun _ => (canonical_pushOr h)))))

theorem canonical_popTo {I n rd} (h : MemoryCanonical s) : CanonAct (popTo s I n rd) :=
  ite_of trivial (canonical_writeS2 (canonical_dropHead h))

theorem canonical_execQpop {f} (h : MemoryCanonical s) : CanonOut (execQpop f s) :=
  canonical_onQuire h (fun _ => (ite_of canonical_Issuer_bad (ite_of canonical_Issuer_bad (ite_of canonical_Issuer_bad
    (canonical_withSrcs (fun _ => (ite_of (canonical_popTo h) (canonical_of (canonical_empty64 h)))))))))

theorem canonical_pastBlocks {I p} (h : MemoryCanonical s) : CanonFst (pastBlocks s I p) := by
  unfold pastBlocks
  split
  · exact fst_of (canonical_ctxReadAt h) (by assumption)
  · exact fst_of (canonical_ctxReadAt h) (by assumption)

theorem canonical_execWaitb {f} (h : MemoryCanonical s) : CanonOut (execWaitb f s) := by
  unfold execWaitb
  refine canonical_onQuire h fun _ => ?_
  extract_lets +onlyGivenNames _
  refine ite_of canonical_Issuer_bad ?_
  refine canonical_withSrcs fun _ => ?_
  extract_lets +onlyGivenNames _ _ _ _
  refine ite_of canonical_Issuer_bad ?_
  refine ite_of canonical_Issuer_bad ?_
  refine ite_of canonical_Issuer_bad ?_
  split
  · exact ite_of canonical_Issuer_bad (canonical_pastBlocks h)
  · exact ite_of canonical_Issuer_bad (ite_of canonical_Issuer_bad (ite_of h h))

theorem canonical_execBar {f} (h : MemoryCanonical s) : CanonOut (execBar f s) :=
  canonical_onQuire h (fun _ => (ite_of canonical_Issuer_bad (ite_of canonical_Issuer_bad (ite_of canonical_Issuer_bad
    (ite_of h (canonical_countClamp (canonical_updQuire h)))))))

theorem canonical_execXacq (h : MemoryCanonical s) : CanonOut (execXacq s) :=
  canonical_onQuire h (fun _ => (ite_of canonical_Issuer_bad (ite_of canonical_Issuer_bad (ite_of (canonical_setLock h) h))))

theorem canonical_execXrel (h : MemoryCanonical s) : CanonOut (execXrel s) :=
  canonical_onQuire h (fun _ => (ite_of canonical_Issuer_bad (ite_of trivial (canonical_freeLock h))))

theorem canonical_withdrawGate {I id} (h : MemoryCanonical s) : MemoryCanonical (withdrawGate s I id) := by
  unfold withdrawGate
  split
  · exact h
  · exact canonical_recount h (canonical_of (foldl_of h fun _ _ h1 => (canonical_unempty64 h1)))

theorem canonical_cancelWait {u} (h : MemoryCanonical s) : MemoryCanonical (cancelWait s u) := by
  unfold cancelWait
  split
  · extract_lets +onlyGivenNames s1
    have h1 : MemoryCanonical s1 := by
      unfold s1
      split
      · exact canonical_unempty64 h
      · exact canonical_withdrawGate h
      · exact canonical_updQuire h
      · exact h
    exact canonical_updStrand h1
  · extract_lets +onlyGivenNames s2
    have h2 : MemoryCanonical s2 := by
      unfold s2
      split
      · exact canonical_unempty64 h
      · exact canonical_withdrawGate h
      · exact h
    exact canonical_updStrand h2
  · exact h

theorem canonical_execQueuePushAccept (h : MemoryCanonical s) : CanonOut (execQueuePushAccept s) := by
  unfold execQueuePushAccept
  split
  · exact ite_of (canonical_Act_finish (canonical_pushQueue h) h) h
  · exact ite_of (canonical_Act_finish canonical_Issuer_bad h) (ite_of (canonical_Act_finish (canonical_pushQueue h) h) h)
  · exact ite_of (canonical_Act_finish (canonical_pushQueue h) h) h
  · exact h

theorem canonical_execQpopDeliver (h : MemoryCanonical s) : CanonOut (execQpopDeliver s) := by
  unfold execQpopDeliver
  split
  · exact ite_of h (ite_of (canonical_Act_finish (canonical_popTo h) h) (ite_of (canonical_Act_finish canonical_Issuer_bad
      (canonical_cancelWait h)) h))
  · exact h

theorem canonical_execXacqGrant (h : MemoryCanonical s) : CanonOut (execXacqGrant s) := by
  unfold execXacqGrant
  split
  · exact ite_of (canonical_Act_finish (canonical_setLock h) h) h
  · exact h

theorem canonical_execXlockStall (h : MemoryCanonical s) : CanonOut (execXlockStall s) := by
  unfold execXlockStall
  split
  · exact h
  · extract_lets +onlyGivenNames _
    split
    · refine ite_of h ?_
      extract_lets +onlyGivenNames _
      refine ite_of h ?_
      extract_lets +onlyGivenNames s1
      have h1 : MemoryCanonical s1 := canonical_freeLock h
      exact ite_of (canonical_updStrand h1) (canonical_takeTrap (canonical_cancelWait h1))
    · exact h

theorem canonical_barNext {key} (h : MemoryCanonical s) : MemoryCanonical (barNext s key) := by
  unfold barNext
  refine foldl_of h fun _ _ h1 => ?_
  split
  · split
    · exact canonical_complete (canonical_countClamp (canonical_updQuire h1))
    · exact h1
  · exact h1

theorem canonical_execBarrierRelease (h : MemoryCanonical s) : CanonOut (execBarrierRelease s) :=
  ite_of h (foldl_of (foldl_of h fun _ _ h1 => (canonical_updQuire h1)) fun _ _ h2 => (canonical_barNext h2))

theorem canonical_execWaitbComplete (h : MemoryCanonical s) : CanonOut (execWaitbComplete s) := by
  unfold execWaitbComplete
  split
  · split
    · exact ite_of (canonical_Act_finish h h) h
    · exact h
  · exact h

theorem canonical_stopBlock {b} (h : MemoryCanonical s) : MemoryCanonical (stopBlock s b) :=
  canonical_updBlock (canonical_of h)

theorem canonical_execWaitbUnsatisfiable (h : MemoryCanonical s) : CanonOut (execWaitbUnsatisfiable s) := by
  unfold execWaitbUnsatisfiable
  split
  · split
    · exact h
    · exact ite_of h (canonical_stopBlock (canonical_updNode h))
  · exact h

theorem canonical_execWaitjExpiry (h : MemoryCanonical s) : CanonOut (execWaitjExpiry s) := by
  unfold execWaitjExpiry
  split
  · refine ite_of h ?_
    split
    · exact h
    · exact canonical_updQuire (canonical_countIcnt h)
  · exact h

/-! ### The functions of Machine/Front.lean -/

theorem canonical_xrInt {i f} {g : DWord → DWord → DWord} (h : MemoryCanonical s) : CanonOut (xrInt i f s g) :=
  canonical_onFront h (fun _ => (canonical_withSrcs (fun _ => (canonical_writeX h))))

theorem canonical_xiInt {i f} {g : DWord → DWord → DWord} (h : MemoryCanonical s) : CanonOut (xiInt i f s g) :=
  canonical_onFront h (fun _ => (canonical_withSrcs (fun _ => (canonical_writeX h))))

theorem canonical_execAdd {f} (h : MemoryCanonical s) : CanonOut (execAdd f s) :=
  canonical_xrInt h

theorem canonical_execSub {f} (h : MemoryCanonical s) : CanonOut (execSub f s) :=
  canonical_xrInt h

theorem canonical_execMul {f} (h : MemoryCanonical s) : CanonOut (execMul f s) :=
  canonical_xrInt h

theorem canonical_execMulh {f} (h : MemoryCanonical s) : CanonOut (execMulh f s) :=
  canonical_xrInt h

theorem canonical_execDivu {f} (h : MemoryCanonical s) : CanonOut (execDivu f s) :=
  canonical_xrInt h

theorem canonical_execRemu {f} (h : MemoryCanonical s) : CanonOut (execRemu f s) :=
  canonical_xrInt h

theorem canonical_execFrontAnd {f} (h : MemoryCanonical s) : CanonOut (execFrontAnd f s) :=
  canonical_xrInt h

theorem canonical_execFrontOr {f} (h : MemoryCanonical s) : CanonOut (execFrontOr f s) :=
  canonical_xrInt h

theorem canonical_execFrontXor {f} (h : MemoryCanonical s) : CanonOut (execFrontXor f s) :=
  canonical_xrInt h

theorem canonical_execFrontShl {f} (h : MemoryCanonical s) : CanonOut (execFrontShl f s) :=
  canonical_xrInt h

theorem canonical_execFrontShr {f} (h : MemoryCanonical s) : CanonOut (execFrontShr f s) :=
  canonical_xrInt h

theorem canonical_execFrontSar {f} (h : MemoryCanonical s) : CanonOut (execFrontSar f s) :=
  canonical_xrInt h

theorem canonical_execMin {f} (h : MemoryCanonical s) : CanonOut (execMin f s) :=
  canonical_xrInt h

theorem canonical_execMax {f} (h : MemoryCanonical s) : CanonOut (execMax f s) :=
  canonical_xrInt h

theorem canonical_execAddi {f} (h : MemoryCanonical s) : CanonOut (execAddi f s) :=
  canonical_xiInt h

theorem canonical_execFrontAndi {f} (h : MemoryCanonical s) : CanonOut (execFrontAndi f s) :=
  canonical_xiInt h

theorem canonical_execFrontOri {f} (h : MemoryCanonical s) : CanonOut (execFrontOri f s) :=
  canonical_xiInt h

theorem canonical_execFrontShli {f} (h : MemoryCanonical s) : CanonOut (execFrontShli f s) :=
  canonical_xiInt h

theorem canonical_execFrontShri {f} (h : MemoryCanonical s) : CanonOut (execFrontShri f s) :=
  canonical_xiInt h

theorem canonical_execLi {f} (h : MemoryCanonical s) : CanonOut (execLi f s) :=
  canonical_onFront h (fun _ => (canonical_withSrcs (fun _ => (canonical_writeX h))))

theorem canonical_execLih {f} (h : MemoryCanonical s) : CanonOut (execLih f s) :=
  canonical_onFront h (fun _ => (canonical_withSrcs (fun _ => (canonical_writeX h))))

theorem canonical_execCmp {f} (h : MemoryCanonical s) : CanonOut (execCmp f s) :=
  canonical_onFront h (fun _ => (canonical_withSrcs (fun _ => (canonical_writeC h))))

theorem canonical_execCmpi {f} (h : MemoryCanonical s) : CanonOut (execCmpi f s) :=
  canonical_onFront h (fun _ => (canonical_withSrcs (fun _ => (canonical_writeC h))))

theorem canonical_countFront {I r} (h : MemoryCanonical s) : MemoryCanonical (countFront s I r) := by
  unfold countFront
  extract_lets +onlyGivenNames _ s1
  have h1 : MemoryCanonical s1 := canonical_addStat h
  extract_lets +onlyGivenNames s2
  have h2 : MemoryCanonical s2 := canonical_addStat h1
  extract_lets +onlyGivenNames s3
  have h3 : MemoryCanonical s3 := canonical_addStat h2
  exact ite_of (canonical_setOvf h3) h3

theorem canonical_xrFp {i f three} {op : List FV → Exact} (h : MemoryCanonical s) : CanonOut (xrFp i f three s op) :=
  canonical_onFront h (fun _ => (canonical_withSrcs (fun _ => (canonical_countFront (canonical_writeX h)))))

theorem canonical_execFadds {f} (h : MemoryCanonical s) : CanonOut (execFadds f s) :=
  canonical_xrFp h

theorem canonical_execFmuls {f} (h : MemoryCanonical s) : CanonOut (execFmuls f s) :=
  canonical_xrFp h

theorem canonical_execFfmas {f} (h : MemoryCanonical s) : CanonOut (execFfmas f s) :=
  canonical_xrFp h

theorem canonical_execFdivs {f} (h : MemoryCanonical s) : CanonOut (execFdivs f s) :=
  canonical_xrFp h

theorem canonical_execFcmps {f} (h : MemoryCanonical s) : CanonOut (execFcmps f s) :=
  canonical_onFront h (fun _ => (canonical_withSrcs (fun _ => (canonical_addStat (canonical_writeC h)))))

theorem canonical_execFcvts {f} (h : MemoryCanonical s) : CanonOut (execFcvts f s) :=
  canonical_onFront h (fun _ => (canonical_withSrcs (fun _ => (canonical_countFront (canonical_writeX h)))))

theorem canonical_frontAccess {I write a act dest acq} {mark : State → State} (h : MemoryCanonical s) (hmark
  : ∀ a0, MemoryCanonical a0 → MemoryCanonical (mark a0)) : CanonAct (frontAccess s I write a act dest acq mark) := by
  unfold frontAccess
  split
  · exact trivial
  · exact canonical_memIssue h (fun _ h1 => ((hmark _) h1))

theorem canonical_execLdx {f} (h : MemoryCanonical s) : CanonOut (execLdx f s) :=
  canonical_onFront h (fun _ => (canonical_withSrcs (fun _ => (canonical_frontAccess h (fun _ h1 => (canonical_emptyX h1))))))

theorem canonical_execStx {f} (h : MemoryCanonical s) : CanonOut (execStx f s) :=
  canonical_onFront h (fun _ => (canonical_withSrcs (fun _ => (canonical_frontAccess h (fun _ h1 => h1)))))

theorem canonical_execAtmx {f} (h : MemoryCanonical s) : CanonOut (execAtmx f s) := by
  unfold execAtmx
  refine canonical_onFront h fun _ => ?_
  refine canonical_withSrcs fun _ => ?_
  extract_lets +onlyGivenNames _ _ _
  refine ite_of trivial ?_
  split
  · exact canonical_countClamp (actDone_of (canonical_frontAccess h (fun _ h1 => (canonical_emptyX h1))) (by assumption))
  · exact canonical_frontAccess h (fun _ h1 => (canonical_emptyX h1))

theorem canonical_execBc {f} (h : MemoryCanonical s) : CanonOut (execBc f s) :=
  canonical_onFront h (fun _ => (canonical_branchIf h))

theorem canonical_execJ {f} (h : MemoryCanonical s) : CanonOut (execJ f s) :=
  canonical_onFront h (fun _ => h)

theorem canonical_execJal {f} (h : MemoryCanonical s) : CanonOut (execJal f s) :=
  canonical_onFront h (fun _ => (canonical_withSrcs (fun _ => (canonical_writeX h))))

theorem canonical_execJr {f} (h : MemoryCanonical s) : CanonOut (execJr f s) :=
  canonical_onFront h (fun _ => (canonical_withSrcs (fun _ => h)))

theorem canonical_takeToken {I v} (h : MemoryCanonical s) : CanonAct (takeToken s I v) :=
  ite_of trivial (canonical_writeX (canonical_dropHead h))

theorem canonical_execBtok (h : MemoryCanonical s) : CanonOut (execBtok s) := by
  unfold execBtok
  refine canonical_onFront h fun _ => ?_
  refine canonical_withSrcs fun _ => ?_
  split
  · exact canonical_takeToken h
  · exact canonical_emptyX h

theorem canonical_execBtokPop (h : MemoryCanonical s) : CanonOut (execBtokPop s) := by
  unfold execBtokPop
  split
  · split
    · exact canonical_Act_finish (canonical_takeToken h) h
    · exact h
  · exact h

theorem canonical_execFexit (h : MemoryCanonical s) : CanonOut (execFexit s) :=
  canonical_onFront h (fun _ => (ite_of trivial (canonical_updBlock h)))

theorem canonical_setMap {I n v} (h : MemoryCanonical s) : MemoryCanonical (setMap s I n v) :=
  canonical_updCore h

theorem canonical_execTmset {f} (h : MemoryCanonical s) : CanonOut (execTmset f s) :=
  canonical_onFront h (fun _ => (ite_of canonical_Issuer_bad (canonical_withSrcs (fun _ => (canonical_setMap h)))))

theorem canonical_execTmadv {f} (h : MemoryCanonical s) : CanonOut (execTmadv f s) :=
  canonical_onFront h (fun _ => (ite_of canonical_Issuer_bad (canonical_withSrcs (fun _ => (ite_of canonical_Issuer_bad
    (canonical_setMap h))))))

theorem canonical_execTmget {f} (h : MemoryCanonical s) : CanonOut (execTmget f s) :=
  canonical_onFront h (fun _ => (ite_of canonical_Issuer_bad (canonical_withSrcs (fun _ => (canonical_writeX h)))))

theorem canonical_execDqpush {f} (h : MemoryCanonical s) : CanonOut (execDqpush f s) :=
  canonical_onFront h (fun _ => (ite_of canonical_Issuer_bad (canonical_withSrcs (fun _ => (canonical_pushOr h)))))

theorem canonical_execOvfget {f} (h : MemoryCanonical s) : CanonOut (execOvfget f s) :=
  canonical_onFront h (fun _ => (canonical_withSrcs (fun _ => (ite_of trivial (canonical_writeX h)))))

theorem canonical_execLsupd {f} (h : MemoryCanonical s) : CanonOut (execLsupd f s) := by
  unfold execLsupd
  refine canonical_onFront h fun _ => ?_
  refine canonical_withSrcs fun _ => ?_
  split
  · exact canonical_Issuer_bad
  · exact ite_of trivial (canonical_writeX (canonical_updBlock h))

/-! ### The functions of Machine/System.lean -/

theorem canonical_execNop (h : MemoryCanonical s) : CanonOut (execNop s) :=
  canonical_onUnit h (fun _ => h)

theorem canonical_execTrap {f} (h : MemoryCanonical s) : CanonOut (execTrap f s) :=
  canonical_onUnit h (fun _ => h)

theorem canonical_execEret (h : MemoryCanonical s) : CanonOut (execEret s) :=
  canonical_onUnit h (fun _ => (ite_of canonical_Issuer_bad (ite_of canonical_Issuer_bad (ite_of trivial (canonical_takeReturn
    (canonical_countIcnt h))))))

theorem canonical_captureSr (h : MemoryCanonical s) : MemoryCanonical (captureSr s) :=
  ite_of (canonical_of h) h

theorem canonical_sweepApply {w} (h : MemoryCanonical s) : MemoryCanonical (sweepApply s w) := by
  unfold sweepApply
  extract_lets +onlyGivenNames _ s1
  have h1 : MemoryCanonical s1 := ⟨h.1, h.2.1, wf_cores h fun _ hc => hc⟩
  split
  · exact canonical_of h1
  · exact canonical_of h1
  · exact canonical_of h1
  · exact h1

theorem canonical_renameCtx {part old new} (h : MemoryCanonical s) : MemoryCanonical (renameCtx s part old new) := by
  refine canonical_cores h fun e hc => ?_
  split
  · exact hc
  · exact hc

theorem canonical_writeEnabled {pkg v} (h : MemoryCanonical s) : MemoryCanonical (writeEnabled s pkg v) :=
  ite_of (canonical_tell h) (canonical_updPkg h)

theorem canonical_writeGateDir {part v} (h : MemoryCanonical s) : MemoryCanonical (writeGateDir s part v) :=
  canonical_updPart h

theorem canonical_srWrite {I n v} (h : MemoryCanonical s) : CanonOpt (srWrite s I n v) := by
  unfold srWrite
  extract_lets +onlyGivenNames _ _ _
  split
  · exact canonical_updQuire h
  · exact canonical_updQuire h
  · exact canonical_updQuire h
  · exact ite_of (canonical_updBlock h) (canonical_updQuire h)
  · extract_lets +onlyGivenNames s1
    have h1 : MemoryCanonical s1 := canonical_updNode h
    extract_lets +onlyGivenNames s2
    have h2 : MemoryCanonical s2 := canonical_updPart h1
    exact canonical_of h2
  · exact canonical_updQuire h
  · exact canonical_updQuire h
  · exact canonical_updBlock h
  · exact canonical_updStrand h
  · exact canonical_updCore h
  · exact canonical_updCore h
  · exact h
  · exact canonical_writeGateDir h
  · exact canonical_writeEnabled h
  · exact canonical_tell h
  · exact ite_of trivial (canonical_updCore h)

theorem canonical_srFrame {i f} {write r} {k : Issuer → SysReg → Act} (h : MemoryCanonical s) (hk : ∀ a0 a1, CanonAct
  (k a0 a1)) : CanonOut (srFrame i f s write r k) := by
  unfold srFrame
  refine canonical_onUnit h fun _ => ?_
  extract_lets +onlyGivenNames _
  split
  · exact canonical_Issuer_bad
  · exact ite_of canonical_Issuer_bad (ite_of canonical_Issuer_bad (hk _ _))

theorem canonical_startSweep {I part kind} (h : MemoryCanonical s) : CanonAct (startSweep s I part kind) :=
  canonical_of h

theorem canonical_renameAct {I new} (h : MemoryCanonical s) : CanonAct (renameAct s I new) :=
  ite_of canonical_Issuer_bad (ite_of trivial (canonical_startSweep h))

theorem canonical_execMfsr {f} (h : MemoryCanonical s) : CanonOut (execMfsr f s) :=
  canonical_srFrame h (fun _ _ => (canonical_withSrcs (fun _ => (ite_of (canonical_of (ite_of (canonical_empty64 h)
    (canonical_emptyS h))) (ite_of (canonical_write64 h) (canonical_writeS h))))))

theorem canonical_execMtsr {f} (h : MemoryCanonical s) : CanonOut (execMtsr f s) := by
  unfold execMtsr
  refine canonical_srFrame h fun _ _ => ?_
  extract_lets +onlyGivenNames _
  refine canonical_withSrcs fun _ => ?_
  extract_lets +onlyGivenNames _
  refine ite_of canonical_Issuer_bad ?_
  refine ite_of trivial ?_
  refine ite_of (canonical_renameAct h) ?_
  split
  · exact opt_of (canonical_srWrite h) (by assumption)
  · exact canonical_Issuer_bad

theorem canonical_walkRead {I va gpa n} (h : MemoryCanonical s) : CanonSync (walkRead s I va gpa n) := by
  unfold walkRead
  split
  · exact canonical_readTrips h
  · exact canonical_holdWalk h
  · exact trivial
  · exact trivial
  · exact canonical_barredAct h

theorem canonical_storeFails {I va} {r : Dev State} (h : MemoryCanonical s) (hr : CanonDev r) :
    CanonAct (storeFails s I va r) := by
  unfold storeFails
  split
  · exact trivial
  · exact canonical_holdSync h
  · exact h
  · exact h
  · exact canonical_barredAct h

theorem canonical_storeAll {I ws} (h : MemoryCanonical s) : CanonStore (storeAll s I ws) := by
  unfold storeAll
  refine foldl_of ⟨h, fun _ hd => nomatch hd⟩ fun r w hr => ?_
  split
  · exact hr
  · split
    · next t ht => exact ⟨dev_of (canonical_gpaWriteAll hr.1) ht, fun _ hd => nomatch hd⟩
    · next hno => exact ⟨hr.1, fun d hd => (Option.some.inj hd) ▸ canonical_gpaWriteAll hr.1⟩

theorem canonical_placeStores {I va zero put} (h : MemoryCanonical s) : CanonSync (placeStores s I va zero put) := by
  unfold placeStores
  split
  · exact canonical_storeFails (storeFst_of (canonical_storeAll h) (by assumption)) (storeSnd_of (canonical_storeAll h)
      (by assumption))
  · split
    · exact canonical_storeFails (storeFst_of (canonical_storeAll h) (by assumption)) (storeSnd_of (canonical_storeAll
        (storeFst_of (canonical_storeAll h) (by assumption))) (by assumption))
    · exact storeFst_of (canonical_storeAll (storeFst_of (canonical_storeAll h) (by assumption))) (by assumption)

theorem canonical_pgWalk {I va} (h : MemoryCanonical s) : CanonWalk (pgWalk s I va) := by
  unfold pgWalk
  split
  · exact walk_other (fst_of (canonical_walk h) (by assumption))
  · exact walk_other (fst_of (canonical_walk h) (by assumption))
  · exact walk_stop (fst_of (canonical_walk h) (by assumption)) trivial
  · exact walk_stop (fst_of (canonical_walk h) (by assumption)) (canonical_holdWalk (fst_of (canonical_walk h) (by assumption)))
  · exact walk_stop (fst_of (canonical_walk h) (by assumption)) trivial
  · exact walk_stop (fst_of (canonical_walk h) (by assumption)) trivial
  · exact walk_stop (fst_of (canonical_walk h) (by assumption)) (canonical_barredAct (fst_of (canonical_walk h)
      (by assumption)))

theorem canonical_pgTake {I ra va place} {k : State → DWord → Act} (h : MemoryCanonical s) (hk
  : ∀ a0 a1, MemoryCanonical a0 → CanonAct (k a0 a1)) : CanonAct (pgTake s I ra va place k) := by
  unfold pgTake
  split
  · exact (hk _ _) h
  · exact canonical_Sync_andThen (canonical_walkRead h) (fun _ _ h1 => (canonical_Sync_andThen (canonical_walkRead h1)
      (fun _ _ h2 => (ite_of ((hk _ _) h2) (canonical_Sync_andThen (canonical_walkRead h2) (fun _ _ h3 =>
      (canonical_Sync_andThen (canonical_walkRead h3) (fun _ _ h4 => (canonical_Sync_andThen (canonical_placeStores h4)
      (fun _ _ h5 => ((hk _ _) h5)))))))))))

theorem canonical_execPgmap {f} (h : MemoryCanonical s) : CanonOut (execPgmap f s) := by
  unfold execPgmap
  refine canonical_onUnit h fun _ => ?_
  extract_lets +onlyGivenNames _ _
  refine ite_of canonical_Issuer_bad ?_
  refine ite_of canonical_Issuer_bad ?_
  refine canonical_withSrcs fun _ => ?_
  extract_lets +onlyGivenNames _ _
  refine ite_of canonical_Issuer_bad ?_
  split
  · exact walkStop_of (canonical_pgWalk h) (by assumption)
  · exact canonical_write64 (walkFst_of (canonical_pgWalk h) (by assumption))
  · exact ite_of (canonical_write64 (walkFst_of (canonical_pgWalk h) (by assumption))) (canonical_pgTake (walkFst_of
      (canonical_pgWalk h) (by assumption)) (fun _ _ h1 => (canonical_write64 h1)))

theorem canonical_execPgunmap {f} (h : MemoryCanonical s) : CanonOut (execPgunmap f s) := by
  unfold execPgunmap
  refine canonical_onUnit h fun _ => ?_
  extract_lets +onlyGivenNames _
  refine ite_of canonical_Issuer_bad ?_
  refine ite_of canonical_Issuer_bad ?_
  refine canonical_withSrcs fun _ => ?_
  extract_lets +onlyGivenNames _
  refine ite_of canonical_Issuer_bad ?_
  refine ite_of trivial ?_
  split
  · exact fst_of (canonical_walk h) (by assumption)
  · exact canonical_holdWalk (fst_of (canonical_walk h) (by assumption))
  · exact trivial
  · exact trivial
  · exact canonical_barredAct (fst_of (canonical_walk h) (by assumption))
  · exact canonical_Sync_andThen (canonical_placeStores (fst_of (canonical_walk h) (by assumption))) (fun _ _ h1 =>
      (canonical_startSweep h1))

theorem canonical_tlbinvFrame {i f} {x3 : Bool} {mz} {k : Issuer → Nat → Nat × SweepKind} (h : MemoryCanonical s) :
    CanonOut (tlbinvFrame i f s x3 mz k) :=
  canonical_onUnit h (fun _ => (ite_of canonical_Issuer_bad (ite_of canonical_Issuer_bad (canonical_withSrcs (fun _ =>
    (ite_of canonical_Issuer_bad (ite_of trivial (canonical_startSweep h))))))))

theorem canonical_execTlbinvPage {f} (h : MemoryCanonical s) : CanonOut (execTlbinvPage f s) :=
  canonical_tlbinvFrame h

theorem canonical_execTlbinvGpage {f} (h : MemoryCanonical s) : CanonOut (execTlbinvGpage f s) :=
  canonical_tlbinvFrame h

theorem canonical_execTlbinvS2 {f} (h : MemoryCanonical s) : CanonOut (execTlbinvS2 f s) :=
  canonical_tlbinvFrame h

theorem canonical_execTlbinvS2all {f} (h : MemoryCanonical s) : CanonOut (execTlbinvS2all f s) :=
  canonical_tlbinvFrame h

theorem canonical_tlbinvBare {i} {k : Issuer → SweepKind} (h : MemoryCanonical s) : CanonOut (tlbinvBare i s k) :=
  canonical_onUnit h (fun _ => (ite_of canonical_Issuer_bad (ite_of trivial (canonical_startSweep h))))

theorem canonical_execTlbinvCtx (h : MemoryCanonical s) : CanonOut (execTlbinvCtx s) :=
  canonical_tlbinvBare h

theorem canonical_execTlbinvPart (h : MemoryCanonical s) : CanonOut (execTlbinvPart s) :=
  canonical_tlbinvBare h

theorem canonical_syncWrites {I ws} (h : MemoryCanonical s) : CanonSync (syncWrites s I ws) := by
  unfold syncWrites
  extract_lets +onlyGivenNames x
  have hx : CanonSync x := by
    unfold x
    refine foldl_of h fun _ _ h1 => ?_
    split
    · exact h1
    · split
      · exact syncNo_of (canonical_syncXlate h1) (by assumption)
      · exact syncOk_of (canonical_syncXlate h1) (by assumption)
  clear_value x
  split
  · exact hx
  · split
    · exact canonical_holdSync hx
    · refine foldl_of hx fun _ _ h2 => ?_
      split
      · exact h2
      · exact canonical_syncScatter h2

theorem canonical_syncReads {I rs} (h : MemoryCanonical s) : CanonSync (syncReads s I rs) := by
  unfold syncReads
  refine foldl_of h fun _ _ h1 => ?_
  split
  · exact h1
  · split
    · exact syncNo_of (canonical_syncRead h1) (by assumption)
    · exact syncOk_of (canonical_syncRead h1) (by assumption)

theorem canonical_tileFrame {i f} {k : Issuer → Nat → Act} (h : MemoryCanonical s) (hk : ∀ a0 a1, CanonAct (k a0 a1)) :
    CanonOut (tileFrame i f s k) := by
  unfold tileFrame
  refine canonical_onUnit h fun _ => ?_
  extract_lets +onlyGivenNames _
  refine ite_of canonical_Issuer_bad ?_
  refine ite_of canonical_Issuer_bad ?_
  refine canonical_withSrcs fun _ => ?_
  extract_lets +onlyGivenNames _
  split
  · exact trivial
  · exact ite_of (hk _ _) trivial

theorem canonical_execSpilla {f} (h : MemoryCanonical s) : CanonOut (execSpilla f s) :=
  canonical_tileFrame h (fun _ _ => (ite_of trivial (canonical_Sync_andThen (canonical_syncWrites h) (fun _ _ h1 => h1))))

theorem canonical_setTile {core p t used} (h : MemoryCanonical s) : MemoryCanonical (setTile s core p t used) :=
  canonical_updCore h

theorem canonical_execFilla {f} (h : MemoryCanonical s) : CanonOut (execFilla f s) :=
  canonical_tileFrame h (fun _ _ => (canonical_Sync_andThen (canonical_syncRead h) (fun _ _ h1 => (ite_of canonical_Issuer_bad
    (ite_of (canonical_setTile h1) (canonical_Sync_andThen (canonical_syncRead h1) (fun _ _ h2 => (canonical_setTile h2))))))))

theorem canonical_saveFrame {i f} {k : State → Issuer → Named → Nat → Act} (h : MemoryCanonical s) (hk
  : ∀ a0 a1 a2 a3, MemoryCanonical a0 → CanonAct (k a0 a1 a2 a3)) : CanonOut (saveFrame i f s k) := by
  unfold saveFrame
  refine canonical_onUnit h fun _ => ?_
  extract_lets +onlyGivenNames _ _
  refine ite_of canonical_Issuer_bad ?_
  refine canonical_withSrcs fun _ => ?_
  extract_lets +onlyGivenNames _ r
  have hr : CanonFst r := canonical_ctxReadAt h
  split
  · exact canonical_Issuer_bad
  · refine ite_of canonical_Issuer_bad ?_
    split
    · exact trivial
    · exact ite_of trivial ((hk _ _ _ _) hr)

theorem canonical_execSavel {f} (h : MemoryCanonical s) : CanonOut (execSavel f s) :=
  canonical_saveFrame h (fun _ _ _ _ h1 => (canonical_Sync_andThen (ite_of (p := CanonSync) h1 (canonical_syncRead h1))
    (fun _ _ h2 => (canonical_Sync_andThen (canonical_syncWrites h2) (fun _ _ h3 => h3)))))

theorem canonical_loadRegs {I n} {x3 : List Byte} {notes} {data : Nat → List Byte} (h : MemoryCanonical s) :
    MemoryCanonical (loadRegs s I n x3 notes data) :=
  foldl_of (foldl_of (foldl_of (foldl_of (foldl_of h fun _ _ h1 => (ite_of (canonical_updBlock h1)
    (canonical_updQuire h1))) fun _ _ h2 => (canonical_putX h2)) fun _ _ h3 => (canonical_updQuire h3)) fun _ _ h4 =>
    (canonical_putS h4)) fun _ _ h5 => (canonical_putV h5)

theorem canonical_execLoadl {f} (h : MemoryCanonical s) : CanonOut (execLoadl f s) := by
  unfold execLoadl
  refine canonical_saveFrame h fun _ _ _ _ h1 => ?_
  refine canonical_Sync_andThen (canonical_syncRead h1) fun _ _ h2 => ?_
  extract_lets +onlyGivenNames _
  refine ite_of canonical_Issuer_bad ?_
  refine canonical_Sync_andThen (canonical_syncRead h2) fun _ _ h3 => ?_
  split
  · exact canonical_Issuer_bad
  · exact canonical_Sync_andThen (canonical_syncReads h3) (fun _ _ h4 => (ite_of (canonical_loadRegs h4) canonical_Issuer_bad))

theorem canonical_execWaitev {f} (h : MemoryCanonical s) : CanonOut (execWaitev f s) :=
  canonical_onUnit h (fun _ => (ite_of canonical_Issuer_bad (ite_of canonical_Issuer_bad (canonical_withSrcs (fun _ => h)))))

theorem canonical_execWaitevDeliver (h : MemoryCanonical s) : CanonOut (execWaitevDeliver s) := by
  unfold execWaitevDeliver
  split
  · split
    · exact h
    · exact canonical_Act_finish (canonical_write64 (canonical_updPart h)) h
  · exact h

/-! ### The functions of Machine/Vector.lean -/

theorem canonical_execIadd {f} (h : MemoryCanonical s) : CanonOut (execIadd f s) :=
  canonical_vvInt h

theorem canonical_execIsub {f} (h : MemoryCanonical s) : CanonOut (execIsub f s) :=
  canonical_vvInt h

theorem canonical_execImul {f} (h : MemoryCanonical s) : CanonOut (execImul f s) :=
  canonical_vvInt h

theorem canonical_execImulh {f} (h : MemoryCanonical s) : CanonOut (execImulh f s) :=
  canonical_vvInt h

theorem canonical_execUmulh {f} (h : MemoryCanonical s) : CanonOut (execUmulh f s) :=
  canonical_vvInt h

theorem canonical_execImad {f} (h : MemoryCanonical s) : CanonOut (execImad f s) :=
  canonical_vvInt h

theorem canonical_execIabs {f} (h : MemoryCanonical s) : CanonOut (execIabs f s) :=
  canonical_vvInt h

theorem canonical_execIneg {f} (h : MemoryCanonical s) : CanonOut (execIneg f s) :=
  canonical_vvInt h

theorem canonical_execImin {f} (h : MemoryCanonical s) : CanonOut (execImin f s) :=
  canonical_vvInt h

theorem canonical_execImax {f} (h : MemoryCanonical s) : CanonOut (execImax f s) :=
  canonical_vvInt h

theorem canonical_execUmin {f} (h : MemoryCanonical s) : CanonOut (execUmin f s) :=
  canonical_vvInt h

theorem canonical_execUmax {f} (h : MemoryCanonical s) : CanonOut (execUmax f s) :=
  canonical_vvInt h

theorem canonical_execAnd {f} (h : MemoryCanonical s) : CanonOut (execAnd f s) :=
  canonical_vvInt h

theorem canonical_execOr {f} (h : MemoryCanonical s) : CanonOut (execOr f s) :=
  canonical_vvInt h

theorem canonical_execXor {f} (h : MemoryCanonical s) : CanonOut (execXor f s) :=
  canonical_vvInt h

theorem canonical_execAndn {f} (h : MemoryCanonical s) : CanonOut (execAndn f s) :=
  canonical_vvInt h

theorem canonical_execShl {f} (h : MemoryCanonical s) : CanonOut (execShl f s) :=
  canonical_vvInt h

theorem canonical_execShr {f} (h : MemoryCanonical s) : CanonOut (execShr f s) :=
  canonical_vvInt h

theorem canonical_execSar {f} (h : MemoryCanonical s) : CanonOut (execSar f s) :=
  canonical_vvInt h

theorem canonical_execClz {f} (h : MemoryCanonical s) : CanonOut (execClz f s) :=
  canonical_vvInt h

theorem canonical_execPopc {f} (h : MemoryCanonical s) : CanonOut (execPopc f s) :=
  canonical_vvInt h

theorem canonical_execBrev {f} (h : MemoryCanonical s) : CanonOut (execBrev f s) :=
  canonical_vvInt h

theorem canonical_execBfx {f} (h : MemoryCanonical s) : CanonOut (execBfx f s) :=
  canonical_vvInt h

theorem canonical_execBfxu {f} (h : MemoryCanonical s) : CanonOut (execBfxu f s) :=
  canonical_vvInt h

theorem canonical_execBfi {f} (h : MemoryCanonical s) : CanonOut (execBfi f s) :=
  canonical_vvInt h

theorem canonical_execIdiv {f} (h : MemoryCanonical s) : CanonOut (execIdiv f s) :=
  canonical_vvInt h

theorem canonical_execUdiv {f} (h : MemoryCanonical s) : CanonOut (execUdiv f s) :=
  canonical_vvInt h

theorem canonical_execIrem {f} (h : MemoryCanonical s) : CanonOut (execIrem f s) :=
  canonical_vvInt h

theorem canonical_execUrem {f} (h : MemoryCanonical s) : CanonOut (execUrem f s) :=
  canonical_vvInt h

theorem canonical_execIaddi {f} (h : MemoryCanonical s) : CanonOut (execIaddi f s) :=
  canonical_viInt h

theorem canonical_execAndi {f} (h : MemoryCanonical s) : CanonOut (execAndi f s) :=
  canonical_viInt h

theorem canonical_execOri {f} (h : MemoryCanonical s) : CanonOut (execOri f s) :=
  canonical_viInt h

theorem canonical_execXori {f} (h : MemoryCanonical s) : CanonOut (execXori f s) :=
  canonical_viInt h

theorem canonical_execShli {f} (h : MemoryCanonical s) : CanonOut (execShli f s) :=
  canonical_viInt h

theorem canonical_execShri {f} (h : MemoryCanonical s) : CanonOut (execShri f s) :=
  canonical_viInt h

theorem canonical_execSari {f} (h : MemoryCanonical s) : CanonOut (execSari f s) :=
  canonical_viInt h

theorem canonical_execMovi {f} (h : MemoryCanonical s) : CanonOut (execMovi f s) :=
  canonical_onQuire h (fun _ => (ite_of canonical_Issuer_bad (canonical_withSrcs (fun _ => (canonical_writeV h)))))

theorem canonical_execMovhi {f} (h : MemoryCanonical s) : CanonOut (execMovhi f s) :=
  canonical_onQuire h (fun _ => (ite_of canonical_Issuer_bad (canonical_withSrcs (fun _ => (canonical_writeV h)))))

theorem canonical_execMov {f} (h : MemoryCanonical s) : CanonOut (execMov f s) :=
  canonical_vvInt h

theorem canonical_execSel {f} (h : MemoryCanonical s) : CanonOut (execSel f s) :=
  canonical_onQuire h (fun _ => (ite_of canonical_Issuer_bad (canonical_withSrcs (fun _ => (canonical_writeV h)))))

theorem canonical_permute {i f} {needed : Issuer → List Nat} {src : Issuer → Nat → Int} (h : MemoryCanonical s) :
    CanonOut (permute i f s needed src) :=
  canonical_onQuire h (fun _ => (canonical_vvFrame (fun _ => (ite_of canonical_Issuer_badThreads (canonical_writeV h)))))

theorem canonical_execShfl {f} (h : MemoryCanonical s) : CanonOut (execShfl f s) :=
  canonical_permute h

theorem canonical_execShflup {f} (h : MemoryCanonical s) : CanonOut (execShflup f s) :=
  canonical_permute h

theorem canonical_execShfldn {f} (h : MemoryCanonical s) : CanonOut (execShfldn f s) :=
  canonical_permute h

theorem canonical_execShflx {f} (h : MemoryCanonical s) : CanonOut (execShflx f s) :=
  canonical_permute h

theorem canonical_execBcast {f} (h : MemoryCanonical s) : CanonOut (execBcast f s) :=
  canonical_permute h

theorem canonical_execLaneid {f} (h : MemoryCanonical s) : CanonOut (execLaneid f s) :=
  canonical_onQuire h (fun _ => (ite_of canonical_Issuer_bad (canonical_withSrcs (fun _ => (canonical_writeV h)))))

theorem canonical_execS2v {f} (h : MemoryCanonical s) : CanonOut (execS2v f s) :=
  canonical_onQuire h (fun _ => (ite_of canonical_Issuer_bad (canonical_withSrcs (fun _ => (canonical_writeV h)))))

theorem canonical_execS2vSib {f} (h : MemoryCanonical s) : CanonOut (execS2vSib f s) :=
  canonical_onQuire h (fun _ => (ite_of canonical_Issuer_bad (canonical_withSrcs (fun _ => (canonical_writeV h)))))

theorem canonical_execV2s {f} (h : MemoryCanonical s) : CanonOut (execV2s f s) := by
  unfold execV2s
  refine canonical_onQuire h fun _ => ?_
  extract_lets +onlyGivenNames _
  refine ite_of canonical_Issuer_bad ?_
  refine canonical_withSrcs fun _ => ?_
  split
  · exact canonical_Issuer_badThreads
  · exact canonical_writeS h

theorem canonical_kBinary {i f} {g : Mask → Mask → Mask} (h : MemoryCanonical s) : CanonOut (kBinary i f s g) :=
  canonical_onQuire h (fun _ => (ite_of canonical_Issuer_bad (canonical_withSrcs (fun _ => (canonical_writeK h)))))

theorem canonical_execKand {f} (h : MemoryCanonical s) : CanonOut (execKand f s) :=
  canonical_kBinary h

theorem canonical_execKor {f} (h : MemoryCanonical s) : CanonOut (execKor f s) :=
  canonical_kBinary h

theorem canonical_execKxor {f} (h : MemoryCanonical s) : CanonOut (execKxor f s) :=
  canonical_kBinary h

theorem canonical_execKnot {f} (h : MemoryCanonical s) : CanonOut (execKnot f s) :=
  canonical_kBinary h

theorem canonical_execKmov {f} (h : MemoryCanonical s) : CanonOut (execKmov f s) :=
  canonical_kBinary h

theorem canonical_execKpop {f} (h : MemoryCanonical s) : CanonOut (execKpop f s) :=
  canonical_onQuire h (fun _ => (canonical_withSrcs (fun _ => (canonical_writeS h))))

theorem canonical_execKany {f} (h : MemoryCanonical s) : CanonOut (execKany f s) :=
  canonical_onQuire h (fun _ => (canonical_withSrcs (fun _ => (canonical_writeC h))))

theorem canonical_execKall {f} (h : MemoryCanonical s) : CanonOut (execKall f s) :=
  canonical_onQuire h (fun _ => (canonical_withSrcs (fun _ => (canonical_writeC h))))

theorem canonical_execKfirst {f} (h : MemoryCanonical s) : CanonOut (execKfirst f s) := by
  unfold execKfirst
  refine canonical_onQuire h fun _ => ?_
  refine ite_of canonical_Issuer_bad ?_
  refine canonical_withSrcs fun _ => ?_
  split
  · exact canonical_writeS (canonical_writeK h)
  · exact canonical_writeS (canonical_writeK h)

theorem canonical_sBinary {i f} {g : Word → Word → Word} (h : MemoryCanonical s) : CanonOut (sBinary i f s g) :=
  canonical_onQuire h (fun _ => (canonical_withSrcs (fun _ => (canonical_writeS h))))

theorem canonical_execSadd {f} (h : MemoryCanonical s) : CanonOut (execSadd f s) :=
  canonical_sBinary h

theorem canonical_execSsub {f} (h : MemoryCanonical s) : CanonOut (execSsub f s) :=
  canonical_sBinary h

theorem canonical_execSmul {f} (h : MemoryCanonical s) : CanonOut (execSmul f s) :=
  canonical_sBinary h

theorem canonical_execSand {f} (h : MemoryCanonical s) : CanonOut (execSand f s) :=
  canonical_sBinary h

theorem canonical_execSor {f} (h : MemoryCanonical s) : CanonOut (execSor f s) :=
  canonical_sBinary h

theorem canonical_execSxor {f} (h : MemoryCanonical s) : CanonOut (execSxor f s) :=
  canonical_sBinary h

theorem canonical_execSshl {f} (h : MemoryCanonical s) : CanonOut (execSshl f s) :=
  canonical_sBinary h

theorem canonical_execSshr {f} (h : MemoryCanonical s) : CanonOut (execSshr f s) :=
  canonical_sBinary h

theorem canonical_execSmov {f} (h : MemoryCanonical s) : CanonOut (execSmov f s) :=
  canonical_onQuire h (fun _ => (canonical_withSrcs (fun _ => (canonical_writeS h))))

theorem canonical_execSmovi {f} (h : MemoryCanonical s) : CanonOut (execSmovi f s) :=
  canonical_onQuire h (fun _ => (canonical_withSrcs (fun _ => (canonical_writeS h))))

theorem canonical_execScmp {f} (h : MemoryCanonical s) : CanonOut (execScmp f s) :=
  canonical_onQuire h (fun _ => (canonical_withSrcs (fun _ => (canonical_writeC h))))

theorem canonical_execScani {f} (h : MemoryCanonical s) : CanonOut (execScani f s) :=
  canonical_onQuire h (fun _ => (ite_of canonical_Issuer_bad (canonical_withSrcs (fun _ => (canonical_writeV h)))))

/-! ### The functions of Machine/Select.lean -/

theorem canonical_fetchWord {I va} (h : MemoryCanonical s) : CanonSync (fetchWord s I va) := by
  unfold fetchWord
  extract_lets +onlyGivenNames t
  have ht : CanonFst t := canonical_translate h
  split
  · split
    · exact canonical_readTrips ht
    · exact canonical_holdSync ht
    · exact trivial
    · exact trivial
    · exact canonical_barredAct ht
  · exact trivial
  · exact trivial
  · exact trivial
  · exact canonical_holdWalk h
  · exact trivial
  · exact canonical_wantAts h

theorem canonical_peekWord {I va} (h : MemoryCanonical s) : CanonSync (peekWord s I va) := by
  unfold peekWord
  split
  · exact ite_of h trivial
  · exact canonical_fetchWord h

theorem canonical_fetchWords {I va n} (h : MemoryCanonical s) : CanonSync (fetchWords s I va n) := by
  unfold fetchWords
  refine foldl_of h fun _ _ h1 => ?_
  split
  · exact h1
  · split
    · exact syncNo_of (canonical_peekWord h1) (by assumption)
    · exact syncOk_of (canonical_peekWord h1) (by assumption)

theorem canonical_selection {u} (h : MemoryCanonical s) : CanonSel (selection s u) := by
  unfold selection
  split
  · exact trivial
  · refine ite_of trivial ?_
    split
    · exact canonical_takeTrap (canonical_updStrand h)
    · exact canonical_takeTrap (canonical_updStrand h)
    · split
      · exact trivial
      · exact syncNo_of (canonical_fetchWord h) (by assumption)
      · refine ite_of trivial ?_
        split
        · exact trivial
        · refine ite_of trivial ?_
          refine ite_of trivial ?_
          refine ite_of trivial ?_
          split
          · exact trivial
          · exact syncNo_of (canonical_fetchWords (syncOk_of (canonical_fetchWord h) (by assumption))) (by assumption)
          · split
            · exact trivial
            · exact ite_of (syncOk_of (canonical_fetchWords (syncOk_of (canonical_fetchWord h) (by assumption)))
                (by assumption)) (ite_of (syncOk_of (canonical_fetchWords (syncOk_of (canonical_fetchWord h) (by assumption)))
                (by assumption)) (syncOk_of (canonical_fetchWords (syncOk_of (canonical_fetchWord h) (by assumption)))
                (by assumption)))

theorem canonical_takePort {I} (h : MemoryCanonical s) : MemoryCanonical (takePort s I) :=
  ite_of h (canonical_updCore h)

theorem canonical_noteIssue {core c u} (h : MemoryCanonical s) : MemoryCanonical (noteIssue s core c u) := by
  unfold noteIssue
  refine foldl_of h fun _ _ h1 => ?_
  split
  · exact canonical_updStrand h1
  · exact h1

theorem canonical_enterClause {I c} {x3 : Word} {cs} (h : MemoryCanonical s) : MemoryCanonical (enterClause s I c x3 cs) := by
  unfold enterClause
  extract_lets +onlyGivenNames s1
  have h1 : MemoryCanonical s1 := canonical_noteIssue h
  exact canonical_updStrand (canonical_updCore (ite_of (canonical_joinEngines h1) h1))

theorem canonical_stopExit {I} (h : MemoryCanonical s) : MemoryCanonical (stopExit s I) := by
  unfold stopExit
  extract_lets +onlyGivenNames s1
  have h1 : MemoryCanonical s1 := canonical_updBlock h
  exact ite_of (canonical_updBlock h1) (canonical_exitLanes h1)

theorem canonical_kindClash {I} {x2 : Word} (h : MemoryCanonical s) : CanonFst (kindClash s I x2) :=
  ite_of h (canonical_toldOnce h (canonical_ctxReadAt h))

theorem canonical_refuseKind {I} (h : MemoryCanonical s) : MemoryCanonical (refuseKind s I) :=
  canonical_stopExit (canonical_updNode h)

theorem canonical_execClauseSelect (h : MemoryCanonical s) : CanonOut (execClauseSelect s) := by
  unfold execClauseSelect
  split
  · exact h
  · exact canonical_Act_finish (selMeets_of (canonical_selection h) (by assumption)) h
  · exact canonical_updStrand (selStops_of (canonical_selection h) (by assumption))
  · exact canonical_stopExit (selExits_of (canonical_selection h) (by assumption))
  · extract_lets +onlyGivenNames k
    have hk : CanonFst k := canonical_kindClash (selClause_of (canonical_selection h) (by assumption))
    exact ite_of (canonical_refuseKind hk) (ite_of h (ite_of (canonical_takeTrap hk) (canonical_enterClause hk)))

/-! ### The functions of Machine/Scheduler.lean -/

theorem canonical_imageOk {part ctx n} (h : MemoryCanonical s) : CanonFst (imageOk s part ctx n) := by
  unfold imageOk
  split
  · exact fst_of (canonical_ctxReadAt h) (by assumption)
  · exact fst_of (canonical_ctxReadAt h) (by assumption)

theorem canonical_checkRecord {part ctx byH earlier va} (h : MemoryCanonical s) :
    CanonFst (checkRecord s part ctx byH earlier va) := by
  unfold checkRecord
  split
  · exact fst_of (canonical_ctxReadAt h) (by assumption)
  · exact ite_of (fst_of (canonical_ctxReadAt h) (by assumption)) (canonical_imageOk (fst_of (canonical_ctxReadAt h)
      (by assumption)))

theorem canonical_checkRecords {part ctx byH vas} (h : MemoryCanonical s) : CanonFst (checkRecords s part ctx byH vas) :=
  foldl_of h fun _ _ h1 => (canonical_checkRecord h1)

theorem canonical_writeStatus {part ctx va v} (h : MemoryCanonical s) : MemoryCanonical (writeStatus s part ctx va v) :=
  canonical_ctxWriteAt h

theorem canonical_refuseGraph {part ctx cs} (h : MemoryCanonical s) : MemoryCanonical (refuseGraph s part ctx cs) :=
  foldl_of h fun _ _ h1 => (canonical_writeStatus h1)

theorem canonical_acceptWrites {part ctx seq c} (h : MemoryCanonical s) : CanonFst (acceptWrites s part ctx seq c) := by
  unfold acceptWrites
  extract_lets +onlyGivenNames w
  have h1 : CanonFst w := canonical_ctxWriteAt h
  extract_lets +onlyGivenNames w1
  have h2 : CanonFst w1 := ite_of (canonical_ctxWriteAt h1) h1
  exact ite_of (canonical_ctxWriteAt h2) h2

theorem canonical_addNode {part ctx seq c cap} (h : MemoryCanonical s) : MemoryCanonical (addNode s part ctx seq c cap) :=
  canonical_updPart h

theorem canonical_acceptGraph {part ctx byH cap vas} (h : MemoryCanonical s) :
    CanonFst (acceptGraph s part ctx byH cap vas) := by
  unfold acceptGraph
  refine ite_of h ?_
  extract_lets +onlyGivenNames r
  have hr : CanonFst r := canonical_checkRecords h
  extract_lets +onlyGivenNames _
  refine ite_of (canonical_refuseGraph hr) ?_
  refine ite_of (canonical_refuseGraph hr) ?_
  extract_lets +onlyGivenNames _ w
  have hw : CanonFst w := foldl_of hr fun _ _ h1 => (ite_of (canonical_acceptWrites h1) h1)
  exact ite_of (canonical_refuseGraph hw) (canonical_settleNodes (foldl_of hw fun _ _ h2 => (canonical_addNode h2)))

theorem canonical_updQueue {part n} {f : LaunchQ → LaunchQ} (h : MemoryCanonical s) : MemoryCanonical (updQueue s part n f) :=
  canonical_updPart h

theorem canonical_execLaunchQueueTail (h : MemoryCanonical s) : CanonOut (execLaunchQueueTail s) :=
  ite_of h (canonical_updQueue h)

theorem canonical_execGraphAccept (h : MemoryCanonical s) : CanonOut (execGraphAccept s) := by
  unfold execGraphAccept
  extract_lets +onlyGivenNames _ _
  refine ite_of h ?_
  split
  · exact canonical_updQueue (fst_of (canonical_ctxReadAt h) (by assumption))
  · exact ite_of (canonical_updQueue (fst_of (canonical_ctxReadAt h) (by assumption))) (ite_of h (canonical_updQueue
      (canonical_acceptGraph (fst_of (canonical_ctxReadAt h) (by assumption)))))

theorem canonical_takeSteps {g part ctx b step0 n} (h : MemoryCanonical s) :
    MemoryCanonical (takeSteps s g part ctx b step0 n) := by
  unfold takeSteps
  refine foldl_of h fun _ _ h1 => canonical_updCore (ite_of (canonical_drawBool h1) h1) fun c hc => ?_
  dsimp only
  split
  · exact hc
  · exact wf_zeroRange hc ..

theorem canonical_takeTiles {g part ctx abase n} (h : MemoryCanonical s) :
    MemoryCanonical (takeTiles s g part ctx abase n) := by
  unfold takeTiles
  refine ite_of (canonical_updCore h) ?_
  split
  · exact fst_of (canonical_ctxRecord h) (by assumption)
  · exact foldl_of (fst_of (canonical_ctxRecord h) (by assumption)) fun _ _ h1 => (canonical_ctxWriteAt h1)

theorem canonical_residentBlock {b B qs} (h : MemoryCanonical s) : MemoryCanonical (residentBlock s b B qs) := by
  unfold residentBlock
  extract_lets +onlyGivenNames s1
  have h1 : MemoryCanonical s1 := canonical_takeSteps h
  extract_lets +onlyGivenNames s2
  have h2 : MemoryCanonical s2 := canonical_updCore h1
  extract_lets +onlyGivenNames s3
  have h3 : MemoryCanonical s3 := canonical_journalPut h2
  exact canonical_of h3

theorem canonical_placeBlock {part seq N idx attempt g step0 abase} (h : MemoryCanonical s) :
    MemoryCanonical (placeBlock s part seq N idx attempt g step0 abase) :=
  canonical_residentBlock (canonical_takeTiles (canonical_of h))

theorem canonical_placeNext {part seq barred} (h : MemoryCanonical s) : CanonOpt (placeNext s part seq barred) :=
  bind_of fun _ => map_of fun _ => canonical_updNode (canonical_placeBlock h)

theorem canonical_placeNode {part n barred} (h : MemoryCanonical s) : CanonOpt (placeNode s part n barred) := by
  unfold placeNode
  refine ite_of (foldl_of (p := CanonOpt) h fun o _ ho => ?_) (canonical_placeNext h)
  cases o with
  | none => trivial
  | some s' => exact canonical_placeNext ho

theorem canonical_dispatchFirst {part l above} (h : MemoryCanonical s) : CanonDispatch (dispatchFirst s part l above) := by
  induction l generalizing above with
  | nil => trivial
  | cons n t ih =>
    rw [dispatchFirst]
    split
    · exact opt_of (canonical_placeNode h) (by assumption)
    · exact ih

theorem canonical_markPassed {part seqs} (h : MemoryCanonical s) : MemoryCanonical (markPassed s part seqs) :=
  foldl_of h fun _ _ h1 => (canonical_updNode h1)

theorem canonical_readRecords {part} (h : MemoryCanonical s) : MemoryCanonical (readRecords s part) :=
  foldl_of h fun _ _ h1 => (canonical_ctxRecord h1)

theorem canonical_execBlockDispatch (h : MemoryCanonical s) : CanonOut (execBlockDispatch s) := by
  unfold execBlockDispatch
  extract_lets +onlyGivenNames _ t
  have ht : MemoryCanonical t := canonical_readRecords h
  extract_lets +onlyGivenNames r
  have hr : CanonDispatch r := canonical_dispatchFirst ht
  refine ite_of ht ?_
  split
  · exact canonical_settleNodes (canonical_putStatus (canonical_markPassed (optPair_of hr (by assumption))))
  · exact ite_of (canonical_markPassed ht) h

theorem canonical_execNodeReserve (h : MemoryCanonical s) : CanonOut (execNodeReserve s) := by
  unfold execNodeReserve
  split
  · exact h
  · split
    · exact h
    · exact ite_of h (canonical_updNode h)

theorem canonical_ctxAtomic {part ctx va w64 op v} (h : MemoryCanonical s) : CanonFst (ctxAtomic s part ctx va w64 op v) := by
  unfold ctxAtomic
  extract_lets +onlyGivenNames _ _ _
  refine ite_of h ?_
  split
  · exact fst_of (canonical_ctxGpa h) (by assumption)
  · split
    · exact canonical_noThread (fst_of (canonical_ctxGpa h) (by assumption))
    · exact ite_of (fst_of (canonical_ctxGpa h) (by assumption)) (ite_of (canonical_bar (fst_of (canonical_ctxGpa h)
        (by assumption))) (canonical_noteStored (canonical_performHost (fst_of (canonical_ctxGpa h) (by assumption)))))
    · refine ite_of (fst_of (canonical_ctxGpa h) (by assumption)) ?_
      refine ite_of (canonical_bar (fst_of (canonical_ctxGpa h) (by assumption))) ?_
      extract_lets +onlyGivenNames r
      have hr : CanonFst r := canonical_performAt (fst_of (canonical_ctxGpa h) (by assumption))
      extract_lets +onlyGivenNames t
      have ht : MemoryCanonical t := canonical_trip hr
      exact ite_of (canonical_noteStored ht) ht

theorem canonical_addStats {B} (h : MemoryCanonical s) : CanonFst (addStats s B) :=
  ite_of h (foldl_of h fun _ _ h1 => (foldl_of h1 fun _ _ h2 => (ite_of h2 (canonical_ctxAtomic h2))))

theorem canonical_setBit {B} (h : MemoryCanonical s) : CanonFst (setBit s B) :=
  canonical_ctxAtomic h

theorem canonical_execBlockRetire (h : MemoryCanonical s) : CanonOut (execBlockRetire s) := by
  unfold execBlockRetire
  extract_lets +onlyGivenNames _
  split
  · exact h
  · refine ite_of h ?_
    extract_lets +onlyGivenNames st
    have hst : CanonFst st := canonical_addStats h
    extract_lets +onlyGivenNames s1
    have h1 : MemoryCanonical s1 := ite_of hst (canonical_updNode hst)
    extract_lets +onlyGivenNames bit
    have hbit : CanonFst bit := ite_of h1 (canonical_setBit h1)
    extract_lets +onlyGivenNames s2
    have h2 : MemoryCanonical s2 := by
      unfold s2
      split
      · exact canonical_saveBit hbit
      · exact hbit
    exact canonical_settleNodes (canonical_updNode (canonical_journalRetire (canonical_dropBlock h2)))

theorem canonical_execNadd {f} (h : MemoryCanonical s) : CanonOut (execNadd f s) :=
  canonical_onFront h (fun _ => (canonical_withSrcs (fun _ => (ite_of canonical_Issuer_bad (ite_of trivial (canonical_writeX
    (canonical_acceptGraph h)))))))

theorem canonical_withdrawNode {part seq} (h : MemoryCanonical s) : MemoryCanonical (withdrawNode s part seq) :=
  canonical_updNode h

theorem canonical_withdrawAll {part ctx n seqs} (h : MemoryCanonical s) : MemoryCanonical (withdrawAll s part ctx n seqs) := by
  induction n generalizing s seqs with
  | zero => exact h
  | succ n ih =>
    rw [withdrawAll]
    exact ite_of h (ih (foldl_of h fun _ _ h => canonical_withdrawNode h))

theorem canonical_execNwdraw {f} (h : MemoryCanonical s) : CanonOut (execNwdraw f s) :=
  canonical_onFront h (fun _ => (canonical_withSrcs (fun _ => (canonical_writeX (canonical_settleNodes
    (canonical_withdrawAll h))))))

theorem canonical_execNstat {f} (h : MemoryCanonical s) : CanonOut (execNstat f s) := by
  unfold execNstat
  refine canonical_onFront h fun _ => ?_
  refine canonical_withSrcs fun _ => ?_
  extract_lets +onlyGivenNames _
  split
  · exact canonical_writeX h
  · exact canonical_frontAccess h (fun _ h1 => (canonical_emptyX h1))

/-! ### The functions of Machine/Engines.lean -/

theorem canonical_forkEngine {I q opc ra rb rc tag map} (h : MemoryCanonical s) :
    MemoryCanonical (forkEngine s I q opc ra rb rc tag map) :=
  canonical_updBlock (canonical_of h)

theorem canonical_engFrame {i f} {opc regs hOnly} {ok : Issuer → Bool} {cmd : Issuer → DWord × DWord × DWord × DWord × DWord}
  (h : MemoryCanonical s) : CanonOut (engFrame i f s opc regs hOnly ok cmd) :=
  canonical_onUnit h (fun _ => (ite_of canonical_Issuer_bad (ite_of canonical_Issuer_bad (canonical_withSrcs (fun _ =>
    (ite_of canonical_Issuer_bad (ite_of trivial (canonical_forkEngine h))))))))

theorem canonical_execCpy {f} (h : MemoryCanonical s) : CanonOut (execCpy f s) :=
  canonical_engFrame h

theorem canonical_execFill {f} (h : MemoryCanonical s) : CanonOut (execFill f s) :=
  canonical_engFrame h

theorem canonical_descCommand {i f} {opc} (h : MemoryCanonical s) : CanonOut (descCommand i f s opc) :=
  canonical_engFrame h

theorem canonical_execCpy2 {f} (h : MemoryCanonical s) : CanonOut (execCpy2 f s) :=
  canonical_descCommand h

theorem canonical_execCpyr {f} (h : MemoryCanonical s) : CanonOut (execCpyr f s) :=
  canonical_descCommand h

theorem canonical_execCpym {f} (h : MemoryCanonical s) : CanonOut (execCpym f s) :=
  canonical_descCommand h

theorem canonical_execGthr {f} (h : MemoryCanonical s) : CanonOut (execGthr f s) :=
  canonical_descCommand h

theorem canonical_execSctr {f} (h : MemoryCanonical s) : CanonOut (execSctr f s) :=
  canonical_descCommand h

theorem canonical_execCpyt {f} (h : MemoryCanonical s) : CanonOut (execCpyt f s) :=
  canonical_engFrame h

theorem canonical_execColl {f} (h : MemoryCanonical s) : CanonOut (execColl f s) :=
  canonical_engFrame h

theorem canonical_execMigr {f} (h : MemoryCanonical s) : CanonOut (execMigr f s) :=
  canonical_engFrame h

theorem canonical_execCarb {f} (h : MemoryCanonical s) : CanonOut (execCarb f s) :=
  canonical_onUnit h (fun _ => (ite_of canonical_Issuer_bad (ite_of canonical_Issuer_bad (canonical_withSrcs (fun _ =>
    (ite_of canonical_Issuer_bad (canonical_updPart h)))))))

theorem canonical_EngR_andThen {α : Type} {β : Type} {r : EngR α} {k : State → α → EngR β} (hr : CanonEngR r) (hk
  : ∀ a0 a1, MemoryCanonical a0 → CanonEngR (k a0 a1)) : CanonEngR (EngR.andThen r k) := by
  unfold EngR.andThen
  split
  · exact (hk _ _) hr
  · exact hr

theorem canonical_engXlate {e va write} (h : MemoryCanonical s) : CanonEngR (engXlate s e va write) := by
  unfold engXlate
  split
  · exact ite_of (fst_of (canonical_translate h) (by assumption)) (fst_of (canonical_translate h) (by assumption))
  · exact h
  · exact h
  · exact h
  · exact h
  · exact h
  · exact h

theorem canonical_engMade {e g cnt} (h : MemoryCanonical s) : MemoryCanonical (engMade s e g cnt) :=
  ite_of (canonical_countAccess h) h

theorem canonical_engLineRead {e va n} (h : MemoryCanonical s) : CanonEngR (engLineRead s e va n) := by
  unfold engLineRead
  refine canonical_EngR_andThen (canonical_engXlate h) fun _ _ h1 => ?_
  split
  · exact h1
  · split
    · exact canonical_engMade (canonical_lineTrip h1)
    · exact h1

theorem canonical_engSend {e va g d bs} (h : MemoryCanonical s) : MemoryCanonical (engSend s e va g d bs) :=
  canonical_inject (canonical_of h)

theorem canonical_engLinePut {e va bs counted} (h : MemoryCanonical s) : CanonEngR (engLinePut s e va bs counted) := by
  unfold engLinePut
  refine canonical_EngR_andThen (canonical_engXlate h) fun _ _ h1 => ?_
  split
  · exact h1
  · extract_lets +onlyGivenNames remote
    clear_value remote
    split
    · exact canonical_engMade (canonical_engSend h1)
    · split
      · extract_lets +onlyGivenNames t'
        have ht' : MemoryCanonical t' := canonical_engMade (devFst_of (canonical_linePut h1) (by assumption))
        exact ite_of ht' (canonical_noteStore ht')
      · exact h1

theorem canonical_engTry {e p} (h : MemoryCanonical s) : CanonEngR (engTry s e p) := by
  unfold engTry
  refine canonical_EngR_andThen (canonical_engXlate h) fun _ _ h1 => ?_
  split
  · exact h1
  · exact h1

theorem canonical_engRead {e va n} (h : MemoryCanonical s) : CanonEngR (engRead s e va n) :=
  foldl_of h fun _ _ h1 => (canonical_EngR_andThen h1 (fun _ _ h2 => (canonical_EngR_andThen (canonical_engLineRead h2)
    (fun _ _ h3 => h3))))

theorem canonical_engTryAll {e ps} (h : MemoryCanonical s) : CanonFst (engTryAll s e ps) := by
  unfold engTryAll
  refine foldl_of h fun _ _ h1 => ?_
  split
  · exact engOk_of (canonical_engTry h1) (by assumption)
  · exact engNo_of (canonical_engTry h1) (by assumption)

theorem canonical_putScratch {part} {x : Nat × Block} {off bs} (h : MemoryCanonical s) :
    MemoryCanonical (putScratch s part x off bs) := by
  unfold putScratch
  extract_lets +onlyGivenNames _
  split
  · exact canonical_updCore h fun _ hc => wf_sramStore hc ..
  · exact canonical_updPart h

theorem canonical_bumpScratch {part} {x : Nat × Block} {off} (h : MemoryCanonical s) :
    MemoryCanonical (bumpScratch s part x off) := by
  unfold bumpScratch
  split
  · exact canonical_updCore h fun _ hc => wf_sramLane hc ..
  · exact canonical_updPart h

theorem canonical_setEng {id e} (h : MemoryCanonical s) : MemoryCanonical (setEng s id e) :=
  canonical_of h

theorem canonical_engDesc {e} (h : MemoryCanonical s) : CanonEngR (engDesc s e) := by
  unfold engDesc
  extract_lets +onlyGivenNames _ _
  refine ite_of h ?_
  split
  · exact canonical_EngR_andThen (canonical_engRead h) (fun _ _ h1 => (ite_of h1 h1))
  · exact canonical_EngR_andThen (canonical_engRead h) (fun _ _ h2 => (ite_of h2 (canonical_EngR_andThen
      (canonical_engRead h2) (fun _ _ h3 => h3))))
  · exact canonical_EngR_andThen (canonical_engRead h) (fun _ _ h4 => (ite_of h4 (canonical_EngR_andThen
      (canonical_engRead h4) (fun _ _ h5 => h5))))
  · exact canonical_EngR_andThen (canonical_engRead h) (fun _ _ h6 => (ite_of h6 (ite_of h6 (canonical_EngR_andThen
      (canonical_engRead h6) (fun _ _ h7 => h7)))))
  · exact canonical_EngR_andThen (canonical_engRead h) (fun _ _ h8 => (ite_of h8 (ite_of h8 (canonical_EngR_andThen
      (canonical_engRead h8) (fun _ _ h9 => h9)))))
  · exact h

theorem canonical_engFetchOne {e p} (h : MemoryCanonical s) : CanonEngR (engFetchOne s e p) :=
  ite_of h (canonical_EngR_andThen (canonical_engLineRead h) (fun _ _ h1 => h1))

theorem canonical_engFetch {e} (h : MemoryCanonical s) : CanonFst (engFetch s e) := by
  unfold engFetch
  refine foldl_of h fun _ _ h1 => ?_
  split
  · exact engOk_of (canonical_engFetchOne h1) (by assumption)
  · exact engNo_of (canonical_engFetchOne h1) (by assumption)

theorem canonical_engPutOne {e k} (h : MemoryCanonical s) : CanonEngR (engPutOne s e k) := by
  unfold engPutOne
  extract_lets +onlyGivenNames _
  split
  · exact h
  · split
    · exact canonical_EngR_andThen (canonical_engLinePut h) (fun _ _ h1 => h1)
    · split
      · exact canonical_putScratch h
      · exact h

theorem canonical_engPutRun {e ks} (h : MemoryCanonical s) : CanonEngR (engPutRun s e ks) := by
  unfold engPutRun
  split
  · exact h
  · exact canonical_engPutOne h
  · split
    · exact h
    · exact canonical_EngR_andThen (canonical_engLinePut h) (fun _ _ h1 => h1)

theorem canonical_engPutAll {e ks} (h : MemoryCanonical s) : CanonFst (engPutAll s e ks) := by
  unfold engPutAll
  refine foldl_of h fun _ _ h1 => ?_
  split
  · exact h1
  · split
    · exact engOk_of (canonical_engPutRun h1) (by assumption)
    · exact engNo_of (canonical_engPutRun h1) (by assumption)

theorem canonical_engMixOf {e ks} (h : MemoryCanonical s) : MemoryCanonical (engMixOf s e ks) := by
  unfold engMixOf
  refine foldl_of (p := CanonFst) h fun _ _ h1 => ?_
  extract_lets +onlyGivenNames d
  have hd : CanonSnd d := canonical_drawBool h1
  refine ite_of hd ?_
  split
  · exact engOk_of (canonical_engPutOne hd) (by assumption)
  · exact engNo_of (canonical_engPutOne hd) (by assumption)

theorem canonical_engMix {e} (h : MemoryCanonical s) : MemoryCanonical (engMix s e) :=
  canonical_engMixOf h

theorem canonical_engWriteOut {e} {x : EngEnd} (h : MemoryCanonical s) : CanonFst (engWriteOut s e x) := by
  unfold engWriteOut
  extract_lets +onlyGivenNames _
  split
  · exact h
  · exact canonical_engPutAll h

theorem canonical_engWrite {e ws} (h : MemoryCanonical s) : CanonEngR (engWrite s e ws) := by
  unfold engWrite
  extract_lets +onlyGivenNames _ t
  have ht : CanonFst t := canonical_engTryAll h
  split
  · exact ht
  · exact foldl_of ht fun _ _ h1 => (canonical_EngR_andThen h1 (fun _ _ h2 => (canonical_EngR_andThen
      (canonical_engLinePut h2) (fun _ _ h3 => h3))))

theorem canonical_serialOne {e} (h : MemoryCanonical s) : CanonEngR (serialOne s e) :=
  canonical_EngR_andThen (canonical_engRead h) (fun _ _ h1 => (ite_of h1 (canonical_EngR_andThen (canonical_engRead h1)
    (fun _ _ h2 => (canonical_EngR_andThen (canonical_engWrite h2) (fun _ _ h3 => h3))))))

theorem canonical_engSerial {e} (h : MemoryCanonical s) : CanonFst (engSerial s e) := by
  unfold engSerial
  extract_lets +onlyGivenNames r
  have hr : CanonFst r := by
    unfold r
    refine foldl_of h fun _ _ h1 => ?_
    split
    · exact h1
    · split
      · exact engOk_of (canonical_serialOne h1) (by assumption)
      · exact engNo_of (canonical_serialOne h1) (by assumption)
  exact hr

theorem canonical_cpymEnds {e src} (h : MemoryCanonical s) : CanonFst (cpymEnds s e src) := by
  unfold cpymEnds
  extract_lets +onlyGivenNames _ _ s1
  have h1 : MemoryCanonical s1 := by
    unfold s1
    refine foldl_of h fun _ _ h2 => ?_
    refine ite_of (canonical_engMixOf h2) ?_
    extract_lets +onlyGivenNames s2
    have h3 : MemoryCanonical s2 := canonical_engPutAll h2
    split
    · exact canonical_bumpScratch h3
    · exact h3
  exact h1

theorem canonical_engRun {e} (h : MemoryCanonical s) : CanonFst (engRun s e) := by
  unfold engRun
  split
  · exact engNo_of (canonical_engDesc h) (by assumption)
  · refine ite_of (canonical_engSerial (engOk_of (canonical_engDesc h) (by assumption))) ?_
    extract_lets +onlyGivenNames f
    have hf : CanonFst f := canonical_engFetch (engOk_of (canonical_engDesc h) (by assumption))
    refine ite_of ?_ ?_
    · split
      · exact canonical_cpymEnds hf
      · exact hf
      · exact canonical_cpymEnds hf
    · extract_lets +onlyGivenNames t
      have ht : CanonFst t := canonical_engTryAll hf
      split
      · exact ht
      · exact canonical_engWriteOut ht

theorem canonical_engHold {id e gpa addr write} (h : MemoryCanonical s) : MemoryCanonical (engHold s id e gpa addr write) := by
  unfold engHold
  extract_lets +onlyGivenNames _
  refine canonical_tell ?_
  extract_lets +onlyGivenNames src
  have hsrc : MemoryCanonical src := canonical_setEng h
  exact canonical_of hsrc

theorem canonical_engHoldWalk {id e gpa level addr write} (h : MemoryCanonical s) :
    MemoryCanonical (engHoldWalk s id e gpa level addr write) := by
  unfold engHoldWalk
  extract_lets +onlyGivenNames _
  refine canonical_tell ?_
  extract_lets +onlyGivenNames src
  have hsrc : MemoryCanonical src := canonical_setEng h
  exact canonical_of hsrc

theorem canonical_engWant {id e ha gpa} (h : MemoryCanonical s) : MemoryCanonical (engWant s id e ha gpa) :=
  canonical_updPkg (canonical_setEng h)

theorem canonical_engWaits {id e} {x : EngStop} (h : MemoryCanonical s) : CanonOpt (engWaits s id e x) := by
  unfold engWaits
  split
  · exact canonical_engHold h
  · exact canonical_engHoldWalk h
  · exact canonical_engWant h
  · exact ite_of trivial (canonical_setEng h)
  · exact trivial

theorem canonical_queueRecord {e id r} (h : MemoryCanonical s) : MemoryCanonical (queueRecord s e id r) := by
  unfold queueRecord
  split
  · exact canonical_updBlock h
  · split
    · exact h
    · exact canonical_ctxWriteAt (canonical_updPart h)

theorem canonical_nameWord {e id g} (h : MemoryCanonical s) : MemoryCanonical (nameWord s e id g) :=
  ite_of h (canonical_of h)

theorem canonical_engFinish {id e} (h : MemoryCanonical s) : MemoryCanonical (engFinish s id e) := by
  unfold engFinish
  extract_lets +onlyGivenNames _ _ _ named
  refine ite_of (canonical_setEng h) ?_
  refine ite_of (canonical_of (canonical_queueRecord h)) ?_
  refine ite_of (canonical_of (canonical_queueRecord h)) ?_
  refine ite_of ?_ ?_
  · dsimp only [named]
    split
    · exact canonical_of (canonical_queueRecord (canonical_nameWord h))
    · exact canonical_of (canonical_queueRecord h)
  · split
    · exact canonical_of (canonical_queueRecord (engOk_of (canonical_engLinePut h) (by assumption)))
    · refine ite_of (canonical_setEng (engOk_of (canonical_engLinePut h) (by assumption))) ?_
      dsimp only [named]
      split
      · exact canonical_of (canonical_queueRecord (canonical_nameWord (engOk_of (canonical_engLinePut h) (by assumption))))
      · exact canonical_of (canonical_queueRecord (engOk_of (canonical_engLinePut h) (by assumption)))
    · exact canonical_of (canonical_queueRecord h)
    · exact getD_of (canonical_engWaits (engNo_of (canonical_engLinePut h) (by assumption))) (canonical_setEng h)

theorem canonical_collFail {id e cause reason addr} (h : MemoryCanonical s) :
    MemoryCanonical (collFail s id e cause reason addr) :=
  canonical_abortPeers (canonical_setEng h)

theorem canonical_migrEnds {id e cause addr} (h : MemoryCanonical s) : MemoryCanonical (migrEnds s id e cause addr) :=
  canonical_setEng h

theorem canonical_migrFails {id e cause} (h : MemoryCanonical s) : MemoryCanonical (migrFails s id e cause) :=
  canonical_migrEnds (canonical_clearWb h)

theorem canonical_engBreak {id e cause reason addr} (h : MemoryCanonical s) :
    MemoryCanonical (engBreak s id e cause reason addr) :=
  ite_of (canonical_setEng h) (ite_of (canonical_migrFails h) (ite_of (canonical_collFail h) (ite_of (canonical_setEng
    (canonical_cpymEnds h)) (canonical_setEng (canonical_engMix h)))))

theorem canonical_execEngineCompletion (h : MemoryCanonical s) : CanonOut (execEngineCompletion s) := by
  unfold execEngineCompletion
  extract_lets +onlyGivenNames _
  split
  · exact h
  · refine ite_of h ?_
    split
    · exact ite_of h (canonical_engFinish h)
    · extract_lets +onlyGivenNames r
      have hr : CanonFst r := canonical_engRun h
      split
      · exact canonical_engFinish hr
      · exact canonical_engFinish (canonical_engMix hr)
      · split
        · exact opt_of (canonical_engWaits hr) (by assumption)
        · exact h
    · exact h

theorem canonical_engAnswered {id e a} (h : MemoryCanonical s) : MemoryCanonical (engAnswered s id e a) := by
  unfold engAnswered
  refine ite_of (ite_of h (canonical_setEng h)) ?_
  split
  · exact canonical_engBreak h
  · exact h

theorem canonical_movePiece {id k e} (h : MemoryCanonical s) : MemoryCanonical (movePiece s id k e) := by
  unfold movePiece
  extract_lets +onlyGivenNames put
  have hput : ∀ r : EngR EngOp, CanonEngR r → MemoryCanonical (put r) := by
    intro r hr
    cases r with
    | ok s e => exact canonical_setEng hr
    | no _ _ => exact h
  clear_value put
  refine ite_of (hput _ (canonical_engDesc h)) (ite_of (hput _ (ite_of (p := CanonEngR) h (canonical_serialOne h))) ?_)
  split
  · exact hput _ (canonical_engFetchOne h)
  · extract_lets +onlyGivenNames _
    split
    · exact h
    · exact ite_of h (hput _ (canonical_engPutOne h))

theorem canonical_popWrite {p ws note} (h : MemoryCanonical s) : MemoryCanonical (popWrite s p ws note) := by
  unfold popWrite
  refine foldl_of h fun _ _ h1 => ?_
  split
  · exact canonical_deliverX h1
  · exact canonical_deliverS (canonical_deliverS h1)

theorem canonical_joinPop {p op} (h : MemoryCanonical s) : MemoryCanonical (joinPop s p op) :=
  canonical_joinEngines h

theorem canonical_popRecord {b q} (h : MemoryCanonical s) : CanonOpt (popRecord s b q) := by
  unfold popRecord
  refine bind_of fun _ => ?_
  refine bind_of fun _ => ?_
  extract_lets +onlyGivenNames _ _
  split
  · exact canonical_popWrite (canonical_updBlock (canonical_joinPop h))
  · exact ite_of (canonical_popWrite (canonical_updBlock h)) trivial

theorem canonical_execCwaitPop (h : MemoryCanonical s) : CanonOut (execCwaitPop s) := by
  unfold execCwaitPop
  split
  · exact opt_of (canonical_popRecord h) (by assumption)
  · exact h

theorem canonical_popFrame {i f} {poll} (h : MemoryCanonical s) : CanonOut (popFrame i f s poll) :=
  canonical_onUnit h (fun _ => (ite_of canonical_Issuer_bad (canonical_withSrcs (fun _ => (canonical_updBlock
    (foldl_of h fun _ _ h1 => (canonical_empty64 h1)))))))

theorem canonical_execCwait {f} (h : MemoryCanonical s) : CanonOut (execCwait f s) :=
  canonical_popFrame h

theorem canonical_execCpoll {f} (h : MemoryCanonical s) : CanonOut (execCpoll f s) :=
  canonical_popFrame h

theorem canonical_migrLeaf {e} {f : Nat → Nat} (h : MemoryCanonical s) : CanonInl (migrLeaf s e f) := by
  unfold migrLeaf
  split
  · split
    · exact dev_of (canonical_gpaWriteAll (canonical_readTrips h)) (by assumption)
    · exact trivial
  · exact trivial

theorem canonical_migrSweep {id e} (h : MemoryCanonical s) : MemoryCanonical (migrSweep s id e) :=
  canonical_of h

theorem canonical_migrStops {id e} {x : CopyStop} (h : MemoryCanonical s) : CanonOpt (migrStops s id e x) := by
  unfold migrStops
  split
  · exact canonical_engHold h
  · exact trivial
  · exact trivial
  · exact canonical_engWant h

theorem canonical_migrStart {id e} (h : MemoryCanonical s) : MemoryCanonical (migrStart s id e) := by
  unfold migrStart
  split
  · exact canonical_engHoldWalk (fst_of (canonical_walk h) (by assumption))
  · exact canonical_migrEnds (fst_of (canonical_walk h) (by assumption))
  · exact canonical_migrEnds (fst_of (canonical_walk h) (by assumption))
  · exact canonical_migrEnds (fst_of (canonical_walk h) (by assumption))
  · exact fst_of (canonical_walk h) (by assumption)
  · exact canonical_engWant (fst_of (canonical_walk h) (by assumption))
  · refine ite_of (canonical_migrEnds (fst_of (canonical_walk h) (by assumption))) ?_
    extract_lets +onlyGivenNames _
    split
    · refine ite_of (canonical_migrEnds (dev_of (canonical_markLeaf (fst_of (canonical_walk h) (by assumption)))
        (by assumption))) ?_
      split
      · split
        · exact canonical_migrEnds (dev_of (canonical_markLeaf (fst_of (canonical_walk h) (by assumption))) (by assumption))
        · exact getD_of (canonical_migrStops (dev_of (canonical_markLeaf (fst_of (canonical_walk h) (by assumption)))
            (by assumption))) (dev_of (canonical_markLeaf (fst_of (canonical_walk h) (by assumption))) (by assumption))
        · exact canonical_migrSweep (canonical_setEng (inl_of (canonical_migrLeaf (dev_of (canonical_markLeaf (fst_of
            (canonical_walk h) (by assumption))) (by assumption))) (by assumption)))
      · exact canonical_migrEnds (dev_of (canonical_markLeaf (fst_of (canonical_walk h) (by assumption))) (by assumption))
    · exact fst_of (canonical_walk h) (by assumption)
    · exact canonical_engWant (fst_of (canonical_walk h) (by assumption))
    · exact canonical_migrEnds (fst_of (canonical_walk h) (by assumption))

theorem canonical_dropCounters {part frame} (h : MemoryCanonical s) : MemoryCanonical (dropCounters s part frame) :=
  canonical_of h

theorem canonical_migrLine {e off} (h : MemoryCanonical s) : CanonInl (migrLine s e off) := by
  unfold migrLine
  extract_lets +onlyGivenNames _ _
  split
  · split
    · exact canonical_noteStored (devFst_of (canonical_linePut (canonical_lineTrip h)) (by assumption))
    · exact trivial
    · exact trivial
  · exact trivial
  · exact trivial

theorem canonical_migrLines {e} (h : MemoryCanonical s) : CanonFst (migrLines s e) := by
  unfold migrLines
  refine foldl_of h fun _ _ h1 => ?_
  split
  · exact h1
  · split
    · exact inl_of (canonical_migrLine h1) (by assumption)
    · exact h1

theorem canonical_migrCopy {id e} (h : MemoryCanonical s) : CanonOpt (migrCopy s id e) := by
  unfold migrCopy
  refine ite_of (canonical_migrFails h) ?_
  extract_lets +onlyGivenNames r
  have hr : CanonFst r := canonical_migrLines h
  extract_lets +onlyGivenNames _
  split
  · exact canonical_migrFails hr
  · split
    · exact opt_of (canonical_migrStops hr) (by assumption)
    · exact ite_of trivial (canonical_setEng hr)
  · split
    · exact canonical_migrFails hr
    · split
      · exact opt_of (canonical_migrStops hr) (by assumption)
      · exact ite_of trivial (canonical_setEng hr)
    · exact canonical_migrSweep (canonical_setEng (inl_of (canonical_migrLeaf hr) (by assumption)))

theorem canonical_migrClear {id e} (h : MemoryCanonical s) : MemoryCanonical (migrClear s id e) := by
  unfold migrClear
  split
  · exact canonical_migrEnds (inl_of (canonical_migrLeaf h) (by assumption))
  · exact canonical_migrFails h
  · exact getD_of (canonical_migrStops h) (canonical_setEng h)

theorem canonical_execMigrDrainDone (h : MemoryCanonical s) : CanonOut (execMigrDrainDone s) := by
  unfold execMigrDrainDone
  extract_lets +onlyGivenNames _
  split
  · exact h
  · refine ite_of (canonical_migrClear h) ?_
    refine ite_of h ?_
    split
    · exact opt_of (canonical_migrCopy h) (by assumption)
    · exact h

theorem canonical_sweepThen {id w} (h : MemoryCanonical s) : MemoryCanonical (sweepThen s id w) := by
  unfold sweepThen
  extract_lets +onlyGivenNames s1
  have h1 : MemoryCanonical s1 := by
    unfold s1
    split
    · refine ite_of ?_ h
      refine canonical_complete ?_
      split
      · exact canonical_renameCtx h
      · exact h
    · exact h
  split
  · exact h1
  · split
    · exact canonical_setEng h1
    · exact canonical_migrClear (canonical_dropCounters (canonical_dropCounters h1))
    · exact h1

theorem canonical_execSweepComplete (h : MemoryCanonical s) : CanonOut (execSweepComplete s) := by
  unfold execSweepComplete
  extract_lets +onlyGivenNames _
  split
  · exact h
  · exact ite_of h (canonical_sweepThen (canonical_of (canonical_sweepApply h)))

/-! ### The functions of Machine/Collectives.lean -/

theorem canonical_collStops {id e} {x : EngStop} (h : MemoryCanonical s) : CanonOpt (collStops s id e x) := by
  unfold collStops
  split
  · exact canonical_collFail (canonical_engMix h)
  · exact canonical_engWaits h

theorem canonical_collAccess {α : Type} {id e} {r : EngR α} {k : State → α → Option State} (h : MemoryCanonical s) (hr
  : CanonEngR r) (hk : ∀ a0 a1, MemoryCanonical a0 → CanonOpt (k a0 a1)) : CanonOpt (collAccess s id e r k) := by
  unfold collAccess
  split
  · exact (hk _ _) hr
  · exact canonical_collStops h

theorem canonical_collEnter {id e} (h : MemoryCanonical s) : CanonOpt (collEnter s id e) :=
  canonical_collAccess h (canonical_engWrite h) (fun _ _ h1 => (canonical_setEng h1))

theorem canonical_collStage2 {id e} (h : MemoryCanonical s) : CanonOpt (collStage2 s id e) :=
  ite_of (ite_of (canonical_setEng h) (canonical_collEnter h)) (canonical_collAccess h (canonical_engRead h) (fun _ _ h1 =>
    (ite_of (canonical_collFail h1) (ite_of (canonical_setEng h1) (canonical_collEnter h1)))))

theorem canonical_collHand {id e g} (h : MemoryCanonical s) : CanonOpt (collHand s id e g) := by
  unfold collHand
  refine ite_of trivial ?_
  extract_lets +onlyGivenNames _ s1
  have h1 : MemoryCanonical s1 := canonical_setEng (canonical_of h)
  exact getD_of (canonical_collStage2 h1) h1

theorem canonical_collStage1 {id e} (h : MemoryCanonical s) : CanonOpt (collStage1 s id e) := by
  unfold collStage1
  refine canonical_collAccess h (canonical_engRead h) fun _ _ h1 => ?_
  extract_lets +onlyGivenNames _ _
  refine ite_of (canonical_collFail h1) ?_
  refine canonical_collAccess h1 (canonical_engRead h1) fun _ _ h2 => ?_
  split
  · exact canonical_collFail h2
  · exact ite_of (canonical_collFail h2) (canonical_collHand h2)

theorem canonical_engBegin {id e} (h : MemoryCanonical s) : MemoryCanonical (engBegin s id e) := by
  unfold engBegin
  extract_lets +onlyGivenNames _ s1
  have h1 : MemoryCanonical s1 := canonical_setEng (canonical_of h)
  exact ite_of (canonical_setEng h1) (ite_of (canonical_migrStart h1) (ite_of (getD_of (canonical_collStage1 h1) h1) h1))

theorem canonical_execEngineCommandStart (h : MemoryCanonical s) : CanonOut (execEngineCommandStart s) := by
  unfold execEngineCommandStart
  extract_lets +onlyGivenNames _ due
  split
  · exact h
  · refine ite_of h ?_
    split
    · exact ite_of h (canonical_engBegin h)
    · refine ite_of ?_ (ite_of (canonical_migrStart h) h)
      dsimp only [due]
      split
      · exact opt_of (canonical_collStage1 h) (by assumption)
      · exact h
    · dsimp only [due]
      split
      · exact opt_of (canonical_collStage2 h) (by assumption)
      · exact h
    · exact h

theorem canonical_execCollReadyStart (h : MemoryCanonical s) : CanonOut (execCollReadyStart s) := by
  unfold execCollReadyStart
  extract_lets +onlyGivenNames _
  split
  · exact h
  · refine ite_of h ?_
    extract_lets +onlyGivenNames r
    have hr : CanonOpt r := by
      unfold r
      refine canonical_collAccess h (canonical_engRead h) fun _ _ h1 => ?_
      refine ite_of trivial ?_
      extract_lets +onlyGivenNames s1
      have h2 : MemoryCanonical s1 := by
        unfold s1
        split
        · exact canonical_joinAt (engOk_of (canonical_engXlate h1) (by assumption))
        · exact h1
      exact canonical_collEnter h2
    clear_value r
    split
    · exact hr
    · exact h

theorem canonical_collSettle {id} (h : MemoryCanonical s) : MemoryCanonical (collSettle s id) := by
  unfold collSettle
  split
  · exact h
  · exact ite_of (canonical_setEng h) h

theorem canonical_exchangeSide {id toLeft} (h : MemoryCanonical s) : CanonOpt (exchangeSide s id toLeft) := by
  unfold exchangeSide
  refine bind_of fun _ => ?_
  refine ite_of trivial ?_
  refine bind_of fun _ => ?_
  refine ite_of trivial ?_
  extract_lets +onlyGivenNames _ _ _ s1
  have h1 : MemoryCanonical s1 := canonical_setEng (canonical_setEng h)
  exact ite_of (canonical_collSettle (canonical_collSettle h1)) (canonical_abortPeers (canonical_setEng (canonical_setEng h1)))

theorem canonical_execCollExchange (h : MemoryCanonical s) : CanonOut (execCollExchange s) := by
  unfold execCollExchange
  split
  · exact opt_of (canonical_exchangeSide h) (by assumption)
  · exact h

theorem canonical_collDone {id e} (h : MemoryCanonical s) : MemoryCanonical (collDone s id e) :=
  ite_of (canonical_setEng h) (canonical_setEng h)

theorem canonical_updQp {l} {f : QPair → QPair} (h : MemoryCanonical s) : MemoryCanonical (updQp s l f) :=
  canonical_updPkg h

theorem canonical_collSend {id e} (h : MemoryCanonical s) : CanonOpt (collSend s id e) := by
  unfold collSend
  extract_lets +onlyGivenNames _ _ _ _ _
  refine ite_of trivial ?_
  extract_lets +onlyGivenNames _
  split
  · exact ite_of trivial (canonical_collAccess h (ite_of (p := CanonEngR) h (canonical_EngR_andThen (canonical_engRead h)
      (fun _ _ h1 => h1))) (fun _ _ h2 => (canonical_collDone (canonical_updQp h2))))
  · exact ite_of (ite_of trivial (canonical_collAccess h (canonical_engWrite h) (fun _ _ h3 => (canonical_collDone h3))))
      (canonical_collAccess h (ite_of (p := CanonEngR) h (canonical_engRead h)) (fun _ _ h4 => (ite_of trivial
      (canonical_collAccess h4 (canonical_EngR_andThen (ite_of (p := CanonEngR) h4 (canonical_EngR_andThen
      (canonical_engRead h4) (fun _ _ h5 => h5))) (fun _ _ h6 => (canonical_engWrite h6))) (fun _ _ h7 =>
      (canonical_setEng h7))))))

theorem canonical_sentWord {e} (h : MemoryCanonical s) : CanonEngR (sentWord s e) :=
  ite_of h (canonical_EngR_andThen (canonical_engRead h) (fun _ _ h1 => h1))

theorem canonical_collTake {id e} {go : State → EngOp → Option State} (h : MemoryCanonical s) (hgo
  : ∀ a0 a1, MemoryCanonical a0 → CanonOpt (go a0 a1)) : CanonOpt (collTake s id e go) :=
  ite_of ((hgo _ _) h) (ite_of trivial (canonical_collAccess h (canonical_sentWord h) (fun _ _ h1 => (ite_of trivial
    (canonical_collAccess h1 (canonical_engRead h1) (fun _ _ h2 => (canonical_collAccess h2 (ite_of (p := CanonEngR)
    (canonical_engRead h2) h2) (fun _ _ h3 => ((hgo _ _) h3)))))))))

theorem canonical_collRecv {id} {e} (h : MemoryCanonical s) : CanonOpt (collRecv s id e) := by
  unfold collRecv
  refine canonical_collTake h fun _ _ h1 => ?_
  extract_lets +onlyGivenNames _ _ t
  have ht : CanonFst t := canonical_engTryAll h1
  clear_value t
  split
  · exact canonical_collStops ht
  · extract_lets +onlyGivenNames r
    have hr : CanonFst r := canonical_engPutAll ht
    clear_value r
    split
    · exact canonical_collStops hr
    · split
      · exact ite_of trivial (canonical_setEng hr)
      · refine canonical_collAccess hr ?_ fun _ _ h2 => canonical_collDone h2
        exact ite_of (p := CanonEngR) hr (canonical_engWrite hr)

theorem canonical_engPiece {id k} (h : MemoryCanonical s) : MemoryCanonical (engPiece s id k) := by
  unfold engPiece
  split
  · exact h
  · next e _ =>
    refine ite_of h ?_
    split
    · exact ite_of (canonical_movePiece h) h
    · split
      · split
        · next t ht =>
          have hgo : CanonOpt (collTake s id e fun s e => some (setEng s id e)) := by
            refine canonical_collTake h fun s e h1 => ?_
            exact canonical_setEng h1
          exact ite_of (opt_of hgo ht) h
        · exact h
      · refine ite_of h ?_
        split
        · exact canonical_setEng (engOk_of (canonical_engPutOne h) (by assumption))
        · exact h
    · exact h

theorem canonical_execCollStep (h : MemoryCanonical s) : CanonOut (execCollStep s) := by
  unfold execCollStep
  extract_lets +onlyGivenNames _
  split
  · exact h
  · split
    · refine ite_of h ?_
      split
      · exact opt_of (ite_of (p := CanonOpt) (canonical_collRecv h) (canonical_collSend h)) (by assumption)
      · exact h
    · exact h

theorem canonical_execPeerTimeout (h : MemoryCanonical s) : CanonOut (execPeerTimeout s) := by
  unfold execPeerTimeout
  extract_lets +onlyGivenNames _
  split
  · exact h
  · exact ite_of h (canonical_collFail h)

theorem canonical_leftWay {id e} (h : MemoryCanonical s) : MemoryCanonical (leftWay s id e) := by
  unfold leftWay
  split
  · exact canonical_collDone h
  · exact canonical_setEng h

theorem canonical_execRoceRdmaWriteImm (h : MemoryCanonical s) : CanonOut (execRoceRdmaWriteImm s) := by
  unfold execRoceRdmaWriteImm
  split
  · exact h
  · split
    · refine ite_of h ?_
      extract_lets +onlyGivenNames _ took
      have htook : ∀ s, MemoryCanonical s → MemoryCanonical (took s) := fun s h => canonical_updQp (canonical_leftWay h)
      clear_value took
      split
      · next ht =>
        refine opt_of (canonical_collAccess h (canonical_engWrite h) fun s _ h1 => ?_) ht
        exact htook _ (canonical_of h1)
      · exact h
    · exact h

theorem canonical_execRoceSend (h : MemoryCanonical s) : CanonOut (execRoceSend s) := by
  unfold execRoceSend
  split
  · exact h
  · split
    · exact ite_of h (canonical_of (canonical_leftWay h))
    · exact h

theorem canonical_rocePacket {k : Nat → QPair → Option State} (h : MemoryCanonical s) (hk : ∀ a0 a1, CanonOpt (k a0 a1)) :
    CanonOut (rocePacket s k) := by
  unfold rocePacket
  extract_lets +onlyGivenNames _ _
  split
  · refine ite_of h ?_
    split
    · exact opt_of (hk _ _) (by assumption)
    · exact h
  · exact h

theorem canonical_execRoceRdmaWrite (h : MemoryCanonical s) : CanonOut (execRoceRdmaWrite s) :=
  canonical_rocePacket h (fun _ _ => (canonical_ctxWriteAt h))

theorem canonical_execRoceRdmaRead (h : MemoryCanonical s) : CanonOut (execRoceRdmaRead s) := by
  unfold execRoceRdmaRead
  refine canonical_rocePacket h fun _ _ => ?_
  extract_lets +onlyGivenNames _
  split
  · exact canonical_updQp (fst_of (canonical_ctxReadAt h) (by assumption))
  · exact fst_of (canonical_ctxReadAt h) (by assumption)

theorem canonical_updPort {f : EthPort → EthPort} (h : MemoryCanonical s) : MemoryCanonical (updPort s f) :=
  canonical_updPkg h

theorem canonical_execRoceUnsupported (h : MemoryCanonical s) : CanonOut (execRoceUnsupported s) :=
  ite_of h (canonical_updPort h)

theorem canonical_execPfcPause (h : MemoryCanonical s) : CanonOut (execPfcPause s) :=
  ite_of h (canonical_updPort h)

theorem canonical_execEcnMark (h : MemoryCanonical s) : CanonOut (execEcnMark s) :=
  canonical_rocePacket h (fun _ _ => (canonical_updQp h))

theorem canonical_failNetwork {f : EngOp → Bool} (h : MemoryCanonical s) : MemoryCanonical (failNetwork s f) :=
  canonical_abortPeers (canonical_of h)

theorem canonical_execEthernetLinkFail (h : MemoryCanonical s) : CanonOut (execEthernetLinkFail s) :=
  ite_of h (canonical_updPort (canonical_failNetwork h))

theorem canonical_execRoceRetransmitTimeout (h : MemoryCanonical s) : CanonOut (execRoceRetransmitTimeout s) :=
  canonical_rocePacket h (fun _ _ => (ite_of trivial (ite_of (canonical_failNetwork (canonical_updQp h)) (canonical_updQp h))))

theorem canonical_makeQp {pkg die qp q} (h : MemoryCanonical s) : MemoryCanonical (makeQp s pkg die qp q) :=
  ite_of h (canonical_updPkg h)

/-! ### The functions of Machine/Gates.lean -/

theorem canonical_putGate {g o bs} (h : MemoryCanonical s) : MemoryCanonical (putGate s g o bs) :=
  canonical_mem h (wf_writeBytes h.1 ..)

theorem canonical_setGateOp {id g} (h : MemoryCanonical s) : MemoryCanonical (setGateOp s id g) :=
  canonical_of h

theorem canonical_injectGate {id g a} (h : MemoryCanonical s) : MemoryCanonical (injectGate s id g a) := by
  unfold injectGate
  extract_lets +onlyGivenNames _ _
  refine ite_of (canonical_setGateOp h) ?_
  refine ite_of (canonical_setGateOp h) ?_
  extract_lets +onlyGivenNames q
  have hq : CanonSnd q := canonical_takeSeq h
  exact canonical_setGateOp (canonical_of hq)

theorem canonical_sendGate {I g} (h : MemoryCanonical s) : CanonAct (sendGate s I g) := by
  unfold sendGate
  extract_lets +onlyGivenNames _ _ s1
  have h1 : MemoryCanonical s1 := foldl_of h fun _ _ h2 => (canonical_empty64 h2)
  extract_lets +onlyGivenNames s2
  have h3 : MemoryCanonical s2 := canonical_setGateOp (canonical_of h1)
  split
  · exact canonical_injectGate h3
  · exact h3

theorem canonical_gateFrame {i} {srcs dsts} {k : Issuer → List DWord → Act} (h : MemoryCanonical s) (hk : ∀ a0 a1, CanonAct
  (k a0 a1)) : CanonOut (gateFrame i s srcs dsts k) :=
  canonical_onUnit h (fun _ => (ite_of canonical_Issuer_bad (canonical_withSrcs (fun _ => (ite_of canonical_Issuer_bad
    (hk _ _))))))

theorem canonical_execHgsend {f} (h : MemoryCanonical s) : CanonOut (execHgsend f s) :=
  canonical_gateFrame h (fun _ _ => (ite_of canonical_Issuer_bad (ite_of trivial (canonical_Sync_andThen
    (canonical_syncRead h) (fun _ _ h1 => (canonical_sendGate h1))))))

theorem canonical_execHgsig {f} (h : MemoryCanonical s) : CanonOut (execHgsig f s) :=
  canonical_gateFrame h (fun _ _ => (ite_of canonical_Issuer_bad (ite_of trivial (canonical_sendGate h))))

theorem canonical_execHgwait {f} (h : MemoryCanonical s) : CanonOut (execHgwait f s) :=
  canonical_gateFrame h (fun _ _ => (ite_of canonical_Issuer_bad (canonical_sendGate h)))

theorem canonical_execHgtake {f} (h : MemoryCanonical s) : CanonOut (execHgtake f s) :=
  canonical_gateFrame h (fun _ _ => (ite_of canonical_Issuer_bad (canonical_Sync_andThen (canonical_syncXlate h)
    (fun _ _ h1 => (canonical_sendGate h1)))))

theorem canonical_execHgqry {f} (h : MemoryCanonical s) : CanonOut (execHgqry f s) :=
  canonical_gateFrame h (fun _ _ => (canonical_sendGate h))

theorem canonical_takeNumber {G} (h : MemoryCanonical s) : MemoryCanonical (takeNumber s G) :=
  canonical_putGate h

theorem canonical_answer {id g rs} (h : MemoryCanonical s) : MemoryCanonical (answer s id g rs) :=
  canonical_setGateOp (ite_of h (canonical_updPkg h))

theorem canonical_deposit {G g} (h : MemoryCanonical s) : MemoryCanonical (deposit s G g) :=
  canonical_putGate (canonical_takeNumber (canonical_putGate (canonical_putGate h)))

theorem canonical_withdraw {G} (h : MemoryCanonical s) : CanonFst (withdraw s G) :=
  canonical_putGate (canonical_putGate (canonical_takeNumber h))

theorem canonical_performGate {id g a} (h : MemoryCanonical s) : MemoryCanonical (performGate s id g a) := by
  unfold performGate
  extract_lets +onlyGivenNames _
  split
  · exact ite_of (canonical_answer (canonical_deposit h)) (ite_of (canonical_answer (canonical_takeNumber h))
      (canonical_setGateOp h))
  · exact canonical_answer (canonical_putGate (canonical_takeNumber h))
  · exact ite_of (canonical_answer (canonical_takeNumber h)) (canonical_setGateOp h)
  · exact ite_of (ite_of (canonical_answer (canonical_takeNumber h)) (canonical_setGateOp h)) (ite_of (canonical_setGateOp h)
      (canonical_answer (canonical_withdraw h)))
  · exact canonical_answer h

theorem canonical_admitGate {id g a} (h : MemoryCanonical s) : MemoryCanonical (admitGate s id g a) := by
  unfold admitGate
  extract_lets +onlyGivenNames _
  split
  · exact canonical_performGate h
  · exact ite_of (canonical_performGate h) (ite_of (ite_of (canonical_setGateOp h) (canonical_setGateOp h))
      (canonical_performGate (canonical_putGate h)))

theorem canonical_serveGate {a n} (h : MemoryCanonical s) : MemoryCanonical (serveGate s a n) := by
  induction n generalizing s with
  | zero => exact h
  | succ n ih =>
    rw [serveGate]
    split
    · exact h
    · exact ih (canonical_performGate h)

theorem canonical_admitWaiting {a} (h : MemoryCanonical s) : MemoryCanonical (admitWaiting s a) := by
  unfold admitWaiting
  refine foldl_of h fun _ _ h1 => ?_
  extract_lets +onlyGivenNames _
  split
  · exact ite_of (canonical_serveGate (canonical_admitGate h1)) h1
  · exact h1

theorem canonical_admitNew {id g a} (h : MemoryCanonical s) : MemoryCanonical (admitNew s id g a) := by
  unfold admitNew
  extract_lets +onlyGivenNames s1
  have h1 : MemoryCanonical s1 := canonical_admitWaiting h
  exact ite_of (canonical_setGateOp h1) (canonical_serveGate (canonical_admitGate h1))

theorem canonical_arriveGate {id g a} (h : MemoryCanonical s) : MemoryCanonical (arriveGate s id g a) := by
  unfold arriveGate
  extract_lets +onlyGivenNames _ _ s1
  have h1 : MemoryCanonical s1 := canonical_of h
  extract_lets +onlyGivenNames _
  split
  · exact canonical_setGateOp h1
  · exact ite_of (canonical_setGateOp h1) (ite_of (canonical_setGateOp h1) (ite_of (canonical_setGateOp h1) (ite_of
      (canonical_setGateOp h1) (canonical_admitNew h1))))

theorem canonical_injectQueued {pkg} (h : MemoryCanonical s) : MemoryCanonical (injectQueued s pkg) := by
  unfold injectQueued
  extract_lets +onlyGivenNames _ _ one
  refine foldl_of h fun _ _ h1 => ?_
  dsimp only [one]
  split
  · exact ite_of (canonical_inject h1) (canonical_injectGate h1)
  · exact canonical_inject h1

theorem canonical_gateMapped {id g a} (h : MemoryCanonical s) : MemoryCanonical (gateMapped s id g a) := by
  unfold gateMapped
  extract_lets +onlyGivenNames _
  split
  · exact canonical_setGateOp h
  · exact ite_of (canonical_countWaiters (canonical_arriveGate h)) (ite_of (canonical_setGateOp h) (canonical_setGateOp h))

theorem canonical_execGate (h : MemoryCanonical s) : CanonOut (execGate s) := by
  unfold execGate
  extract_lets +onlyGivenNames _
  split
  · exact h
  · split
    · exact h
    · split
      · exact ite_of h (canonical_setGateOp h)
      · exact ite_of (canonical_injectGate h) (ite_of h (ite_of (canonical_setGateOp h) (ite_of (canonical_injectGate h)
          (ite_of h (canonical_gateMapped h)))))

theorem canonical_storeTaken {I g} (h : MemoryCanonical s) : MemoryCanonical (storeTaken s I g) := by
  unfold storeTaken
  extract_lets +onlyGivenNames _ _ r
  have hr : CanonSending r := canonical_sendLines (canonical_of h)
  exact ite_of (canonical_addDue hr) (canonical_of hr)

theorem canonical_execGateAnswer (h : MemoryCanonical s) : CanonOut (execGateAnswer s) := by
  unfold execGateAnswer
  extract_lets +onlyGivenNames _
  split
  · exact h
  · split
    · exact h
    · refine ite_of h ?_
      split
      · extract_lets +onlyGivenNames s1
        have h1 : MemoryCanonical s1 := canonical_injectQueued (canonical_of h)
        exact canonical_complete (foldl_of (ite_of (canonical_storeTaken h1) h1) fun _ _ h2 => (canonical_write64 h2))
      · exact canonical_takeTrap (canonical_updStrand (canonical_injectQueued (canonical_withdrawGate h)))
      · exact h

theorem canonical_refillGate {a} (h : MemoryCanonical s) : MemoryCanonical (refillGate s a) :=
  canonical_countWaiters (canonical_admitWaiting (foldl_of h fun _ _ h1 => (ite_of h1 (canonical_putGate h1))))

theorem canonical_execGateTokenRefill (h : MemoryCanonical s) : CanonOut (execGateTokenRefill s) := by
  unfold execGateTokenRefill
  extract_lets +onlyGivenNames _
  split
  · exact h
  · exact ite_of h (foldl_of (canonical_updPkg h) fun _ _ h1 => (canonical_refillGate h1))

theorem canonical_execHgwaitTimeout (h : MemoryCanonical s) : CanonOut (execHgwaitTimeout s) := by
  unfold execHgwaitTimeout
  extract_lets +onlyGivenNames _
  split
  · exact h
  · exact ite_of h (canonical_countWaiters (canonical_answer (canonical_takeNumber h)))

theorem canonical_execGateTableRetry (h : MemoryCanonical s) : CanonOut (execGateTableRetry s) := by
  unfold execGateTableRetry
  extract_lets +onlyGivenNames _
  split
  · exact h
  · exact ite_of h (canonical_setGateOp h)

theorem canonical_moveGate {old a} (h : MemoryCanonical s) : MemoryCanonical (moveGate s old a) :=
  canonical_countWaiters (foldl_of (canonical_serveGate (foldl_of h fun _ _ h1 => (canonical_setGateOp h1))) fun _ _ h2 =>
    (canonical_injectGate h2))

theorem canonical_execGateRedirect (h : MemoryCanonical s) : CanonOut (execGateRedirect s) := by
  unfold execGateRedirect
  split
  · exact h
  · split
    · exact h
    · exact ite_of h (canonical_moveGate h)

theorem canonical_execGateClose (h : MemoryCanonical s) : CanonOut (execGateClose s) := by
  unfold execGateClose
  split
  · exact h
  · exact canonical_countWaiters (canonical_of (canonical_putGate h))

/-! ### The functions of Machine/Preempt.lean -/

theorem canonical_freeSlots {part ctx R n} (h : MemoryCanonical s) : CanonFst (freeSlots s part ctx R n) := by
  unfold freeSlots
  split
  · exact fst_of (canonical_ctxReadAt h) (by assumption)
  · exact fst_of (canonical_ctxReadAt h) (by assumption)

theorem canonical_giveSlots {part ctx R bs} (h : MemoryCanonical s) : MemoryCanonical (giveSlots s part ctx R bs) :=
  foldl_of h fun _ _ h1 => (canonical_updBlock (canonical_saveBit h1))

theorem canonical_standRequest {part ctx cores layout} (h : MemoryCanonical s) :
    MemoryCanonical (standRequest s part ctx cores layout) := by
  unfold standRequest
  split
  · exact canonical_of h
  · exact canonical_of h

theorem canonical_requestPreempt {part ctx cores layout} (h : MemoryCanonical s) :
    MemoryCanonical (requestPreempt s part ctx cores layout) := by
  unfold requestPreempt
  extract_lets +onlyGivenNames _ _ _
  refine ite_of h ?_
  split
  · exact canonical_tell (fst_of (canonical_ctxRecord h) (by assumption))
  · split
    · exact canonical_tell (fst_of (canonical_freeSlots (fst_of (canonical_ctxRecord h) (by assumption))) (by assumption))
    · exact canonical_standRequest (canonical_giveSlots (fst_of (canonical_freeSlots (fst_of (canonical_ctxRecord h)
        (by assumption))) (by assumption)))

theorem canonical_execSliceExpiry (h : MemoryCanonical s) : CanonOut (execSliceExpiry s) := by
  unfold execSliceExpiry
  extract_lets +onlyGivenNames _
  split
  · exact h
  · split
    · exact h
    · exact ite_of h (ite_of (canonical_requestPreempt (canonical_updCore h)) (canonical_updCore h))

theorem canonical_execHPreemptionRequest (h : MemoryCanonical s) : CanonOut (execHPreemptionRequest s) :=
  ite_of h (canonical_requestPreempt h)

theorem canonical_dropHeld {u} (h : MemoryCanonical s) : MemoryCanonical (dropHeld s u) :=
  canonical_of h

theorem canonical_clearPopTrap {u} (h : MemoryCanonical s) : MemoryCanonical (clearPopTrap s u) := by
  unfold clearPopTrap
  split
  · exact canonical_updQuire h
  · exact h

theorem canonical_keepHeld {u w} (h : MemoryCanonical s) : MemoryCanonical (keepHeld s u w) := by
  unfold keepHeld
  split
  · exact canonical_clearPopTrap (canonical_updStrand h)
  · exact h

theorem canonical_haltUnit {u} (h : MemoryCanonical s) : MemoryCanonical (haltUnit s u) := by
  unfold haltUnit
  split
  · exact h
  · exact ite_of h (canonical_updStrand (canonical_keepHeld (canonical_cancelWait (canonical_dropHeld h))))

theorem canonical_execGraceHalt (h : MemoryCanonical s) : CanonOut (execGraceHalt s) := by
  unfold execGraceHalt
  split
  · exact h
  · exact ite_of h (ite_of h (foldl_of (canonical_of h) fun _ _ h1 => (canonical_haltUnit h1)))

theorem canonical_execKill (h : MemoryCanonical s) : CanonOut (execKill s) := by
  unfold execKill
  extract_lets +onlyGivenNames _
  refine ite_of (ite_of (canonical_killContext h) h) ?_
  split
  · exact h
  · exact ite_of h (canonical_killContext h)

theorem canonical_keepOf {B u} (h : MemoryCanonical s) : CanonFst (keepOf s B u) := by
  unfold keepOf
  split
  · exact h
  · split
    · exact canonical_ctxReadAt h
    · exact h

theorem canonical_keepsOf {B us} (h : MemoryCanonical s) : CanonFst (keepsOf s B us) :=
  foldl_of h fun _ _ h1 => (canonical_keepOf h1)

theorem canonical_writeParts {part ctx base ps} (h : MemoryCanonical s) : CanonFst (writeParts s part ctx base ps) :=
  foldl_of h fun _ _ h1 => (ite_of (canonical_ctxWriteAt h1) h1)

theorem canonical_spillTiles {B v} (h : MemoryCanonical s) : CanonFst (spillTiles s B v) := by
  unfold spillTiles
  refine ite_of h ?_
  extract_lets +onlyGivenNames _ r
  have hr : CanonFst r := foldl_of h fun _ _ h1 => (ite_of h1 (ite_of (canonical_writeParts h1) (canonical_writeParts h1)))
  exact ite_of (canonical_updCore hr) hr

theorem canonical_badLiveMap {b B} (h : MemoryCanonical s) : MemoryCanonical (badLiveMap s b B) :=
  canonical_stopBlock (canonical_updNode h)

theorem canonical_execBlockSave (h : MemoryCanonical s) : CanonOut (execBlockSave s) := by
  unfold execBlockSave
  extract_lets +onlyGivenNames _
  split
  · exact h
  · split
    · refine ite_of h ?_
      split
      · exact canonical_badLiveMap (fst_of (canonical_keepsOf h) (by assumption))
      · extract_lets +onlyGivenNames _ w
        have hw : CanonFst w := canonical_writeParts (fst_of (canonical_keepsOf h) (by assumption))
        extract_lets +onlyGivenNames t
        have ht : CanonFst t := ite_of (canonical_spillTiles hw) hw
        exact ite_of ht (canonical_updPart (canonical_dropBlock ht))
    · exact h

theorem canonical_moveTiles {v oldLogical g abase} (h : MemoryCanonical s) : CanonFst (moveTiles s v oldLogical g abase) := by
  unfold moveTiles
  extract_lets +onlyGivenNames _
  refine foldl_of h fun _ _ h1 => ?_
  refine ite_of h1 ?_
  split
  · exact fst_of (canonical_ctxReadAt h1) (by assumption)
  · exact ite_of (ite_of (canonical_setTile (fst_of (canonical_ctxReadAt h1) (by assumption))) (canonical_setTile (fst_of
      (canonical_ctxReadAt h1) (by assumption)))) (canonical_ctxWriteAt (fst_of (canonical_ctxReadAt h1) (by assumption)))

theorem canonical_slotRead {v o n} (h : MemoryCanonical s) : CanonFst (slotRead s v o n) :=
  canonical_ctxReadAt h

theorem canonical_slotReads {v rs} (h : MemoryCanonical s) : CanonFst (slotReads s v rs) := by
  unfold slotReads
  refine foldl_of h fun _ _ h1 => ?_
  split
  · exact h1
  · exact canonical_slotRead h1

theorem canonical_readImages {v} (h : MemoryCanonical s) : CanonFst (readImages s v) := by
  unfold readImages
  extract_lets +onlyGivenNames _ _ _ _ first
  have hfirst : CanonFst first := canonical_slotRead h
  split
  · exact hfirst
  · extract_lets +onlyGivenNames _ r
    have h1 : CanonFst r := canonical_slotReads hfirst
    extract_lets +onlyGivenNames r1
    have h2 : CanonFst r1 := canonical_slotReads h1
    extract_lets +onlyGivenNames r2
    have h3 : CanonFst r2 := canonical_slotReads h2
    extract_lets +onlyGivenNames r3
    have h4 : CanonFst r3 := canonical_slotReads h3
    split
    · exact h4
    · exact h4

theorem canonical_putRestored {v R g step0 abase} (h : MemoryCanonical s) :
    MemoryCanonical (putRestored s v R g step0 abase) := by
  unfold putRestored
  extract_lets +onlyGivenNames _ _ s1
  have h1 : MemoryCanonical s1 := canonical_residentBlock h
  extract_lets +onlyGivenNames s2
  have h2 : MemoryCanonical s2 := canonical_of h1
  extract_lets +onlyGivenNames s3
  have h3 : MemoryCanonical s3 := canonical_updCore h2 fun _ hc =>
    foldl_of (p := fun m => Memory.wf m = true) (wf_zeroRange hc ..) fun _ _ hm => wf_write hm ..
  extract_lets +onlyGivenNames _ _ s4
  have h4 : MemoryCanonical s4 := foldl_of h3 fun _ _ h5 => (canonical_loadRegs h5)
  exact canonical_loadRegs h4

theorem canonical_resumePops {b} (h : MemoryCanonical s) : MemoryCanonical (resumePops s b) := by
  unfold resumePops
  refine foldl_of h fun _ _ h1 => ?_
  refine foldl_of h1 fun _ _ h2 => ?_
  split
  · exact opt_of (canonical_popRecord h2) (by assumption)
  · exact h2

theorem canonical_resumeOne {part v} (h : MemoryCanonical s) : CanonResume (resumeOne s part v) := by
  unfold resumeOne
  split
  · exact trivial
  · split
    · exact fst_of (canonical_readImages h) (by assumption)
    · exact canonical_killContext (fst_of (canonical_readImages h) (by assumption))
    · extract_lets +onlyGivenNames m
      have hm : CanonFst m := ite_of (canonical_moveTiles (fst_of (canonical_readImages h) (by assumption))) (fst_of
        (canonical_readImages h) (by assumption))
      exact ite_of hm (canonical_resumePops (canonical_putRestored (canonical_updPart (canonical_saveBit hm))))

theorem canonical_execBlockResume (h : MemoryCanonical s) : CanonOut (execBlockResume s) := by
  unfold execBlockResume
  extract_lets +onlyGivenNames _
  split
  · exact h
  · extract_lets +onlyGivenNames _ _ r
    have hr : CanonResume r := by
      unfold r
      refine foldl_of h fun _ _ h1 => ?_
      split
      · exact ite_of (canonical_resumeOne h1) h1
      · exact h1
    split
    · exact took_of (ite_of (p := CanonResume) (a := .later) trivial hr) (by assumption)
    · exact h
    · exact canonical_of h

theorem canonical_injectedInfo {t} (h : MemoryCanonical s) : CanonSnd (injectedInfo s t) :=
  ite_of h (canonical_drawWord (canonical_drawWord h))

theorem canonical_execHeldSlotAnswer (h : MemoryCanonical s) : CanonOut (execHeldSlotAnswer s) := by
  unfold execHeldSlotAnswer
  split
  · extract_lets +onlyGivenNames _
    split
    · exact canonical_clearPopTrap (canonical_dropPages (canonical_updStrand h))
    · exact canonical_takeTrap (canonical_updStrand (canonical_injectedInfo h))
    · exact canonical_killContext h
    · exact h
  · exact h

/-! ### The functions of Machine/Layout.lean -/

theorem canonical_mergeOne {op done more a} (h : MemoryCanonical s) : MemoryCanonical (mergeOne s op done more a) := by
  unfold mergeOne
  split
  · split
    · exact canonical_engAnswered h
    · exact h
  · exact ite_of (canonical_addDue (canonical_of h)) (canonical_of h)

theorem canonical_sendBehind {x1 : Held} (h : MemoryCanonical s) : MemoryCanonical (sendBehind s x1) := by
  unfold sendBehind
  split
  · split
    · exact h
    · exact ite_of h (canonical_mergeOne (canonical_postLine (canonical_of h)))
  · exact h

theorem canonical_wakeBehind (h : MemoryCanonical s) : MemoryCanonical (wakeBehind s) :=
  foldl_of h fun _ _ h1 => (canonical_sendBehind h1)

theorem canonical_mergeAnswer {op done more a} (h : MemoryCanonical s) : MemoryCanonical (mergeAnswer s op done more a) :=
  canonical_wakeBehind (canonical_mergeOne h)

theorem canonical_letGo {n} (h : MemoryCanonical s) : MemoryCanonical (letGo s n) := by
  unfold letGo
  split
  · split
    · exact ite_of h (canonical_mergeAnswer (canonical_sendLine (canonical_of h)))
    · exact h
  · exact h

theorem canonical_unhold {u} (h : MemoryCanonical s) : MemoryCanonical (unhold s u) := by
  unfold unhold
  split
  · split
    · exact canonical_updStrand h
    · exact canonical_updStrand h
    · exact h
  · exact h

theorem canonical_releaseOne {x1 : Held} (h : MemoryCanonical s) : MemoryCanonical (releaseOne s x1) := by
  unfold releaseOne
  split
  · exact canonical_mergeOne (ite_of (p := CanonSending) (canonical_queueSlow h) (canonical_sendLine h))
  · exact h
  · exact h
  · exact canonical_unhold h
  · exact canonical_unhold h
  · exact h
  · exact h

theorem canonical_refuseUnit {u t} (h : MemoryCanonical s) : MemoryCanonical (refuseUnit s u t) := by
  unfold refuseUnit
  extract_lets +onlyGivenNames s1
  have h1 : MemoryCanonical s1 := canonical_unhold h
  split
  · split
    · exact canonical_popFault h1
    · exact h1
  · exact canonical_takeTrap h1

theorem canonical_refuseOne {x1 : Held} (h : MemoryCanonical s) : MemoryCanonical (refuseOne s x1) := by
  unfold refuseOne
  split
  · exact canonical_mergeOne h
  · exact h
  · exact h
  · exact canonical_refuseUnit h
  · exact canonical_refuseUnit h
  · split
    · exact canonical_engBreak h
    · exact h
  · split
    · exact canonical_engBreak h
    · exact h

theorem canonical_answerHeld {pkg part granule refuse} (h : MemoryCanonical s) :
    MemoryCanonical (answerHeld s pkg part granule refuse) := by
  unfold answerHeld
  cases refuse
  · exact canonical_wakeBehind (foldl_of (canonical_of h) fun _ _ h1 => canonical_releaseOne h1)
  · exact canonical_wakeBehind (foldl_of (canonical_of h) fun _ _ h1 => canonical_refuseOne h1)

theorem canonical_execS2respRelease (h : MemoryCanonical s) : CanonOut (execS2respRelease s) :=
  ite_of h (canonical_answerHeld h)

theorem canonical_execS2respRefuse (h : MemoryCanonical s) : CanonOut (execS2respRefuse s) :=
  ite_of h (canonical_answerHeld h)

theorem canonical_preemptCores {cores} (h : MemoryCanonical s) : MemoryCanonical (preemptCores s cores) :=
  foldl_of h fun _ _ h1 => (canonical_requestPreempt h1)

theorem canonical_startCommit {pkg} (h : MemoryCanonical s) : MemoryCanonical (startCommit s pkg) :=
  ite_of h (ite_of (canonical_updPkg h) (canonical_preemptCores (canonical_updPkg h)))

theorem canonical_execLayoutCommit (h : MemoryCanonical s) : CanonOut (execLayoutCommit s) :=
  ite_of h (canonical_startCommit h)

theorem canonical_moveMemory {pkg old new} (h : MemoryCanonical s) : MemoryCanonical (moveMemory s pkg old new) := by
  unfold moveMemory
  split
  · exact h
  · exact canonical_mem h (foldl_of (p := fun m => Memory.wf m = true) rfl fun _ _ hm => wf_write hm ..)

theorem canonical_loseUnit {a} (h : MemoryCanonical s) : MemoryCanonical (loseUnit s a) :=
  foldl_of h fun _ _ h1 => canonical_mem (canonical_drawWord h1) (wf_writeBytes (canonical_drawWord h1).1 ..)

theorem canonical_dropLines {pkg} {f : L2Line → Bool} (h : MemoryCanonical s) : MemoryCanonical (dropLines s pkg f) := by
  unfold dropLines
  extract_lets +onlyGivenNames _ s1
  have h1 : MemoryCanonical s1 := canonical_updPkg h
  refine foldl_of h1 fun _ _ h2 => ?_
  extract_lets +onlyGivenNames s2
  have h3 : MemoryCanonical s2 := ite_of (canonical_loseUnit h2) h2
  exact ite_of (canonical_loseUnit h3) h3

theorem canonical_raiseDevstat {pkg bit} (h : MemoryCanonical s) : MemoryCanonical (raiseDevstat s pkg bit) := by
  unfold raiseDevstat
  extract_lets +onlyGivenNames _ s'
  have hs' : MemoryCanonical s' := canonical_updPkg h
  exact ite_of hs' (canonical_tell hs')

theorem canonical_endCommit {pkg} (h : MemoryCanonical s) : MemoryCanonical (endCommit s pkg) := by
  unfold endCommit
  extract_lets +onlyGivenNames s1
  have h1 : MemoryCanonical s1 := canonical_updPkg h
  extract_lets +onlyGivenNames _ s2
  have h2 : MemoryCanonical s2 := foldl_of h1 fun _ _ h3 => (canonical_postEvent h3)
  exact ite_of h2 (canonical_startCommit h2)

theorem canonical_layoutTick {pkg} (h : MemoryCanonical s) : MemoryCanonical (layoutTick s pkg) := by
  unfold layoutTick
  extract_lets +onlyGivenNames _ _ _ _ s1
  have h1 : MemoryCanonical s1 := canonical_dropLines h
  extract_lets +onlyGivenNames _ _ s2
  have h2 : MemoryCanonical s2 := canonical_moveMemory (canonical_updPkg h1)
  extract_lets +onlyGivenNames s3
  have h3 : MemoryCanonical s3 := foldl_of h2 fun _ _ h4 => (canonical_updCounts h4)
  extract_lets +onlyGivenNames s4
  have h5 : MemoryCanonical s4 := canonical_of h3
  extract_lets +onlyGivenNames s5
  have h6 : MemoryCanonical s5 := ite_of (canonical_raiseDevstat h5) h5
  exact ite_of (canonical_endCommit h6) h6

theorem canonical_moveSaved {cores} (h : MemoryCanonical s) : CanonFst (moveSaved s cores) := by
  unfold moveSaved
  refine foldl_of h fun _ _ h1 => ?_
  refine foldl_of h1 fun _ _ h2 => ?_
  refine ite_of h2 ?_
  extract_lets +onlyGivenNames _ t
  have ht : CanonFst t := canonical_spillTiles h2
  exact ite_of ht (canonical_updPart ht)

theorem canonical_execLayoutTick (h : MemoryCanonical s) : CanonOut (execLayoutTick s) := by
  unfold execLayoutTick
  extract_lets +onlyGivenNames _ _ _
  refine ite_of h ?_
  split
  · exact canonical_layoutTick (fst_of (canonical_moveSaved h) (by assumption))
  · exact fst_of (canonical_moveSaved h) (by assumption)

theorem canonical_dropEngTlb {pkg n} (h : MemoryCanonical s) : MemoryCanonical (dropEngTlb s pkg n) :=
  canonical_updPkg h

theorem canonical_execScrubComplete (h : MemoryCanonical s) : CanonOut (execScrubComplete s) := by
  unfold execScrubComplete
  extract_lets +onlyGivenNames _
  split
  · exact h
  · extract_lets +onlyGivenNames _ s'
    have hs' : MemoryCanonical s' := canonical_updPkg h
    extract_lets +onlyGivenNames _ _
    split
    · exact ite_of h (canonical_wakeBehind (ite_of (canonical_endCommit (foldl_of hs' fun _ _ h1 =>
        (canonical_updCore h1 fun _ _ => rfl))) (foldl_of hs' fun _ _ h2 => (canonical_updCore h2 fun _ _ => rfl))))
    · exact canonical_wakeBehind (ite_of (canonical_endCommit hs') hs')
    · exact canonical_wakeBehind (ite_of (canonical_endCommit (canonical_dropEngTlb hs')) (canonical_dropEngTlb hs'))
    · exact canonical_wakeBehind (ite_of (canonical_endCommit (canonical_dropEngTlb hs')) (canonical_dropEngTlb hs'))
    · exact canonical_wakeBehind (ite_of (canonical_endCommit hs') hs')

theorem canonical_clearErr {pkg} (h : MemoryCanonical s) : MemoryCanonical (clearErr s pkg) :=
  canonical_updPkg h

theorem canonical_execErrclr (h : MemoryCanonical s) : CanonOut (execErrclr s) :=
  ite_of h (canonical_clearErr h)

theorem canonical_writeFrgo {pkg v} (h : MemoryCanonical s) : MemoryCanonical (writeFrgo s pkg v) := by
  unfold writeFrgo
  extract_lets +onlyGivenNames _ s1
  have h1 : MemoryCanonical s1 := canonical_updPkg h
  exact ite_of h1 (ite_of (canonical_updPkg h1) (canonical_updPkg h1))

theorem canonical_execFrameRelease (h : MemoryCanonical s) : CanonOut (execFrameRelease s) :=
  ite_of h (canonical_writeFrgo h)

theorem canonical_scrubFrame {pkg r} (h : MemoryCanonical s) : MemoryCanonical (scrubFrame s pkg r) :=
  canonical_mem h (wf_zeroRange h.1 ..)

theorem canonical_execFrameReleaseDone (h : MemoryCanonical s) : CanonOut (execFrameReleaseDone s) := by
  unfold execFrameReleaseDone
  split
  · exact h
  · exact ite_of h (canonical_scrubFrame h)

theorem canonical_placeOne {pkg n b} (h : MemoryCanonical s) : MemoryCanonical (placeOne s pkg n b) :=
  ite_of h (ite_of (canonical_updPkg h) (canonical_tell h))

theorem canonical_writePlace {pkg n bs} (h : MemoryCanonical s) : MemoryCanonical (writePlace s pkg n bs) :=
  foldl_of h fun _ _ h1 => (canonical_placeOne h1)

theorem canonical_execPlaceWrite (h : MemoryCanonical s) : CanonOut (execPlaceWrite s) :=
  ite_of h (canonical_writePlace h)

theorem canonical_failCores {cores u} (h : MemoryCanonical s) : MemoryCanonical (failCores s cores u) :=
  foldl_of h fun _ _ h1 => (canonical_failBlock h1)

theorem canonical_addScrub {pkg w} (h : MemoryCanonical s) : MemoryCanonical (addScrub s pkg w) :=
  canonical_updPkg h

theorem canonical_useSpare {pkg q} (h : MemoryCanonical s) : MemoryCanonical (useSpare s pkg q) :=
  canonical_addScrub (canonical_updPkg h)

theorem canonical_retireQuads {pkg qs} {f : Tab LayoutEnt → Tab LayoutEnt} (h : MemoryCanonical s) :
    MemoryCanonical (retireQuads s pkg qs f) := by
  unfold retireQuads
  extract_lets +onlyGivenNames _ s1
  have h1 : MemoryCanonical s1 := canonical_updPkg h
  extract_lets +onlyGivenNames s2
  have h2 : MemoryCanonical s2 := ite_of h1 (canonical_raiseDevstat h1)
  exact ite_of h2 (canonical_startCommit h2)

theorem canonical_loseQuad {pkg q cores u} (h : MemoryCanonical s) : MemoryCanonical (loseQuad s pkg q cores u) := by
  unfold loseQuad
  extract_lets +onlyGivenNames s1
  have h1 : MemoryCanonical s1 := canonical_failCores h
  extract_lets +onlyGivenNames s2
  have h2 : MemoryCanonical s2 := canonical_preemptCores h1
  exact ite_of (canonical_useSpare h2) (canonical_retireQuads h2)

/-! ### The functions of Machine/Fabric.lean -/

theorem canonical_setMsgState {id m st} (h : MemoryCanonical s) : MemoryCanonical (setMsgState s id m st) :=
  canonical_putMsg h

theorem canonical_serveMsg {id m d} (h : MemoryCanonical s) : MemoryCanonical (serveMsg s id m d) := by
  unfold serveMsg
  extract_lets +onlyGivenNames _
  split
  · exact canonical_setMsgState h
  · exact canonical_setMsgState (canonical_updPkg (canonical_performLine h))

theorem canonical_arriveMsg {id m d} (h : MemoryCanonical s) : MemoryCanonical (arriveMsg s id m d) :=
  ite_of (canonical_serveMsg h) (ite_of (canonical_setMsgState h) (canonical_setMsgState h))

theorem canonical_homeStep {kind} (h : MemoryCanonical s) : CanonOut (homeStep s kind) := by
  unfold homeStep
  extract_lets +onlyGivenNames _
  split
  · exact h
  · split
    · exact ite_of h (canonical_arriveMsg h)
    · exact h

theorem canonical_execRead (h : MemoryCanonical s) : CanonOut (execRead s) :=
  canonical_homeStep h

theorem canonical_execWrite (h : MemoryCanonical s) : CanonOut (execWrite s) :=
  canonical_homeStep h

theorem canonical_execAtomic (h : MemoryCanonical s) : CanonOut (execAtomic s) :=
  canonical_homeStep h

theorem canonical_settleMsg {id m a} (h : MemoryCanonical s) : MemoryCanonical (settleMsg s id m a) :=
  canonical_mergeAnswer (canonical_injectQueued (canonical_of h))

theorem canonical_answerStep {data} (h : MemoryCanonical s) : CanonOut (answerStep s data) := by
  unfold answerStep
  extract_lets +onlyGivenNames _
  split
  · exact h
  · split
    · exact ite_of (canonical_settleMsg h) h
    · exact h

theorem canonical_execResp (h : MemoryCanonical s) : CanonOut (execResp s) :=
  canonical_answerStep h

theorem canonical_execAck (h : MemoryCanonical s) : CanonOut (execAck s) :=
  canonical_answerStep h

theorem canonical_execRetryMap (h : MemoryCanonical s) : CanonOut (execRetryMap s) := by
  unfold execRetryMap
  extract_lets +onlyGivenNames _
  split
  · split
    · extract_lets +onlyGivenNames s1
      have h1 : MemoryCanonical s1 := canonical_setMsgState h
      exact canonical_injectQueued (ite_of (canonical_inject h1) h1)
    · exact h
  · split
    · extract_lets +onlyGivenNames _ s2
      have h2 : MemoryCanonical s2 := canonical_setGateOp h
      exact canonical_injectQueued (ite_of (canonical_injectGate h2) h2)
    · exact h
  · exact h

theorem canonical_execFlitCrcReplay (h : MemoryCanonical s) : CanonOut (execFlitCrcReplay s) :=
  ite_of h (canonical_updPkg h)

theorem canonical_execDieLaneReplace (h : MemoryCanonical s) : CanonOut (execDieLaneReplace s) := by
  unfold execDieLaneReplace
  extract_lets +onlyGivenNames _ _
  split
  · exact h
  · exact ite_of h (ite_of (canonical_tell (canonical_updPkg h)) (canonical_tell (canonical_raiseDevstat (canonical_updPkg h))))

theorem canonical_writeShadow {pkg b v mask} (h : MemoryCanonical s) : MemoryCanonical (writeShadow s pkg b v mask) := by
  unfold writeShadow
  extract_lets +onlyGivenNames _ _ s1
  have h1 : MemoryCanonical s1 := canonical_updPkg h
  exact ite_of (canonical_tell h1) h1

theorem canonical_execPlaneShadowWrite (h : MemoryCanonical s) : CanonOut (execPlaneShadowWrite s) :=
  ite_of h (canonical_writeShadow h)

theorem canonical_setFrozen {pkg f} (h : MemoryCanonical s) : MemoryCanonical (setFrozen s pkg f) := by
  unfold setFrozen
  extract_lets +onlyGivenNames _ s1
  have h1 : MemoryCanonical s1 := canonical_updPkg h
  exact ite_of (canonical_injectQueued h1) h1

theorem canonical_writeLive {pkg v} (h : MemoryCanonical s) : MemoryCanonical (writeLive s pkg v) :=
  canonical_setFrozen (canonical_updPkg h)

theorem canonical_execPlaneFreeze (h : MemoryCanonical s) : CanonOut (execPlaneFreeze s) := by
  unfold execPlaneFreeze
  extract_lets +onlyGivenNames _
  split
  · exact h
  · exact ite_of h (canonical_writeLive h)

theorem canonical_failMsgs {kind} {f : Msg → Bool} (h : MemoryCanonical s) : MemoryCanonical (failMsgs s kind f) :=
  foldl_of h fun _ _ h1 => (canonical_mergeAnswer (canonical_of h1))

theorem canonical_failGates {pkg} (h : MemoryCanonical s) : MemoryCanonical (failGates s pkg) :=
  canonical_recount h (canonical_of h)

theorem canonical_leavePod {pkg} (h : MemoryCanonical s) : MemoryCanonical (leavePod s pkg) :=
  canonical_tell (canonical_failGates (canonical_failMsgs (canonical_updPkg h)))

theorem canonical_replayOne {pkg id} (h : MemoryCanonical s) : MemoryCanonical (replayOne s pkg id) := by
  unfold replayOne
  extract_lets +onlyGivenNames _ next
  have hnext : MemoryCanonical next := canonical_of h
  split
  · split
    · exact canonical_putMsg hnext
    · exact h
  · exact canonical_setGateOp hnext
  · exact h

theorem canonical_replayMsgs {pkg dead} (h : MemoryCanonical s) : MemoryCanonical (replayMsgs s pkg dead) :=
  foldl_of h fun _ _ h1 => (canonical_replayOne h1)

theorem canonical_startQuiesce {plane loaded pkg} (h : MemoryCanonical s) :
    MemoryCanonical (startQuiesce s plane loaded pkg) := by
  unfold startQuiesce
  extract_lets +onlyGivenNames _ _ _ _ _ _ s1
  have h1 : MemoryCanonical s1 := ite_of h (canonical_raiseDevstat h)
  extract_lets +onlyGivenNames s2
  have h2 : MemoryCanonical s2 := canonical_updPkg h1
  exact ite_of (canonical_leavePod h2) (canonical_replayMsgs (canonical_setFrozen h2))

theorem canonical_tryResume {pkg} (h : MemoryCanonical s) : MemoryCanonical (tryResume s pkg) := by
  unfold tryResume
  split
  · exact h
  · exact ite_of (canonical_setFrozen (canonical_updPkg h)) h

theorem canonical_fabricEvent {dead ver} (h : MemoryCanonical s) : MemoryCanonical (fabricEvent s dead ver) :=
  foldl_of h fun _ _ h1 => (foldl_of h1 fun _ _ h2 => (canonical_postEvent h2))

theorem canonical_recheckHeld {pkg} (h : MemoryCanonical s) : MemoryCanonical (recheckHeld s pkg) :=
  foldl_of (foldl_of (canonical_of h) fun _ _ h1 => (canonical_inject h1)) fun _ _ h2 => (canonical_injectGate h2)

theorem canonical_copyMap {pkg} (h : MemoryCanonical s) : MemoryCanonical (copyMap s pkg) :=
  canonical_recheckHeld (canonical_updPkg h)

theorem canonical_tickRest {ps} (h : MemoryCanonical s) : MemoryCanonical (tickRest s ps) :=
  ite_of h (foldl_of h fun _ _ h1 => (canonical_copyMap h1))

theorem canonical_planeDead {plane loaded} (h : MemoryCanonical s) : MemoryCanonical (planeDead s plane loaded) :=
  ite_of h (canonical_tell (foldl_of (canonical_tickRest h) fun _ _ h1 => (canonical_startQuiesce h1)))

theorem canonical_execPlaneDead (h : MemoryCanonical s) : CanonOut (execPlaneDead s) :=
  canonical_planeDead h

theorem canonical_commitMap {pkg} (h : MemoryCanonical s) : MemoryCanonical (commitMap s pkg) := by
  unfold commitMap
  extract_lets +onlyGivenNames _
  refine ite_of (canonical_tell h) ?_
  extract_lets +onlyGivenNames s1
  have h1 : MemoryCanonical s1 := canonical_copyMap h
  split
  · exact h1
  · refine ite_of h1 ?_
    extract_lets +onlyGivenNames s2
    have h2 : MemoryCanonical s2 := canonical_updPkg h1
    extract_lets +onlyGivenNames _ s3
    have h3 : MemoryCanonical s3 := foldl_of h2 fun _ _ h4 => (canonical_updPkg h4)
    extract_lets +onlyGivenNames _ s4
    have h5 : MemoryCanonical s4 := ite_of (canonical_fabricEvent h3) h3
    exact canonical_tryResume (ite_of (canonical_of h5) h5)

theorem canonical_execPlaneMapCommit (h : MemoryCanonical s) : CanonOut (execPlaneMapCommit s) := by
  unfold execPlaneMapCommit
  extract_lets +onlyGivenNames _
  split
  · exact h
  · exact ite_of h (canonical_commitMap h)

theorem canonical_execQuiesceReport (h : MemoryCanonical s) : CanonOut (execQuiesceReport s) := by
  unfold execQuiesceReport
  extract_lets +onlyGivenNames _ _
  split
  · exact h
  · exact ite_of h (canonical_tryResume (canonical_updPkg h))

theorem canonical_execPackageFenceOut (h : MemoryCanonical s) : CanonOut (execPackageFenceOut s) := by
  unfold execPackageFenceOut
  extract_lets +onlyGivenNames _ _
  split
  · exact h
  · exact ite_of h (canonical_tryResume (canonical_tell (canonical_failGates (canonical_failMsgs (canonical_updPkg h)))))

theorem canonical_loseEngines {pkg d} (h : MemoryCanonical s) : MemoryCanonical (loseEngines s pkg d) :=
  canonical_updPkg (canonical_failNetwork (foldl_of h fun _ _ h1 => (elim_of h1 fun _ => (ite_of h1 (canonical_engBreak h1)))))

theorem canonical_loseDie {pkg d} (h : MemoryCanonical s) : MemoryCanonical (loseDie s pkg d) :=
  canonical_planeDead (canonical_retireQuads (canonical_loseEngines (canonical_updPkg (canonical_failCores h))))

theorem canonical_execUnitLoss (h : MemoryCanonical s) : CanonOut (execUnitLoss s) := by
  unfold execUnitLoss
  extract_lets +onlyGivenNames _ _
  refine ite_of h ?_
  extract_lets +onlyGivenNames _
  split
  · exact ite_of h (canonical_tell (canonical_loseQuad h))
  · exact ite_of h (canonical_tell (canonical_loseQuad h))
  · exact ite_of h (canonical_tell (canonical_loseDie h))
  · exact ite_of h (canonical_tell (canonical_updPkg h))
  · exact ite_of h (canonical_tell (canonical_updPkg h))

theorem canonical_countCorrected {pkg n} (h : MemoryCanonical s) : MemoryCanonical (countCorrected s pkg n) := by
  unfold countCorrected
  extract_lets +onlyGivenNames _ s1
  have h1 : MemoryCanonical s1 := canonical_updPkg h
  exact ite_of (canonical_tell h1) h1

theorem canonical_execBackgroundScrub (h : MemoryCanonical s) : CanonOut (execBackgroundScrub s) := by
  unfold execBackgroundScrub
  extract_lets +onlyGivenNames _ _
  split
  · exact h
  · refine ite_of h ?_
    extract_lets +onlyGivenNames s1
    have h1 : MemoryCanonical s1 := canonical_updPkg h
    exact foldl_of (ite_of (canonical_countCorrected h1) h1) fun _ _ h2 => (ite_of (canonical_tell h2) h2)

theorem canonical_writeLayout {pkg o v mask} (h : MemoryCanonical s) : MemoryCanonical (writeLayout s pkg o v mask) := by
  unfold writeLayout
  extract_lets +onlyGivenNames _ _
  refine ite_of (ite_of h (canonical_updPkg h)) ?_
  refine ite_of (canonical_writePlace h) ?_
  refine ite_of (canonical_updPkg h) ?_
  split
  · exact ite_of (canonical_startCommit h) h
  · exact ite_of (canonical_clearErr h) h
  · exact canonical_updPkg h
  · exact canonical_writeFrgo h
  · exact canonical_updPkg h
  · exact ite_of h (canonical_answerHeld h)
  · exact h

theorem canonical_writePlane {pkg o v mask} (h : MemoryCanonical s) : MemoryCanonical (writePlane s pkg o v mask) := by
  unfold writePlane
  refine ite_of (canonical_writeShadow h) ?_
  split
  · exact ite_of (canonical_commitMap h) h
  · exact canonical_writeLive h
  · exact h

theorem canonical_writeRegister {pkg off v mask} (h : MemoryCanonical s) :
    MemoryCanonical (writeRegister s pkg off v mask) := by
  unfold writeRegister
  refine ite_of (canonical_writeLayout h) ?_
  refine ite_of (canonical_writePlane h) ?_
  refine ite_of ?_ h
  split
  · exact win_of (canonical_pageWrite h) (by assumption)
  · exact canonical_tell h

theorem canonical_execRegisterWrite (h : MemoryCanonical s) : CanonOut (execRegisterWrite s) := by
  unfold execRegisterWrite
  extract_lets +onlyGivenNames _
  split
  · exact h
  · refine ite_of ?_ (ite_of h (ite_of (canonical_tell h) (ite_of (canonical_writeRegister h) (ite_of
      (canonical_writeRegister h) (canonical_writeRegister h)))))
    split
    · exact h
    · exact canonical_writeRegister (canonical_updPkg h)

/-! ### The functions of Machine/HostLink.lean -/

theorem canonical_updFunc {pkg part} {f : Func → Func} (h : MemoryCanonical s) : MemoryCanonical (updFunc s pkg part f) :=
  canonical_updPkg h

theorem canonical_execPriDoorbell (h : MemoryCanonical s) : CanonOut (execPriDoorbell s) := by
  unfold execPriDoorbell
  extract_lets +onlyGivenNames _
  split
  · exact h
  · split
    · exact h
    · exact canonical_updFunc (canonical_updPkg h)

theorem canonical_execPageRequestResponse (h : MemoryCanonical s) : CanonOut (execPageRequestResponse s) := by
  unfold execPageRequestResponse
  extract_lets +onlyGivenNames _
  split
  · exact h
  · extract_lets +onlyGivenNames _ _
    split
    · exact canonical_updCounts h
    · extract_lets +onlyGivenNames s1
      have h1 : MemoryCanonical s1 := canonical_updFunc h
      split
      · exact h1
      · exact canonical_updPart h1

theorem canonical_failHost {id m} (h : MemoryCanonical s) : MemoryCanonical (failHost s id m) :=
  canonical_mergeAnswer (canonical_of h)

theorem canonical_putAtc {pkg part e} (h : MemoryCanonical s) : MemoryCanonical (putAtc s pkg part e) :=
  canonical_updFunc h

theorem canonical_wantMet {pkg w} (h : MemoryCanonical s) : MemoryCanonical (wantMet s pkg w) := by
  unfold wantMet
  extract_lets +onlyGivenNames s1
  have h1 : MemoryCanonical s1 := canonical_updPkg h
  split
  · exact canonical_unhold h1
  · exact h1

theorem canonical_wantFails {pkg w} (h : MemoryCanonical s) : MemoryCanonical (wantFails s pkg w) := by
  unfold wantFails
  extract_lets +onlyGivenNames s1
  have h1 : MemoryCanonical s1 := canonical_updPkg h
  split
  · exact canonical_refuseUnit h1
  · exact canonical_engBreak h1
  · exact h1

theorem canonical_execAtsTranslationCompletion (h : MemoryCanonical s) : CanonOut (execAtsTranslationCompletion s) := by
  unfold execAtsTranslationCompletion
  extract_lets +onlyGivenNames _
  refine ite_of h ?_
  split
  · split
    · exact h
    · exact ite_of h (ite_of (canonical_failHost h) (canonical_putMsg (canonical_putAtc h)))
  · exact ite_of h (ite_of (canonical_wantFails h) (canonical_wantMet (canonical_putAtc h)))
  · exact h

theorem canonical_engHostFails {id e} (h : MemoryCanonical s) : CanonOut (engHostFails s id e) := by
  unfold engHostFails
  refine ite_of h ?_
  split
  · exact canonical_engBreak h
  · exact h

theorem canonical_execHostCompletion (h : MemoryCanonical s) : CanonOut (execHostCompletion s) := by
  unfold execHostCompletion
  extract_lets +onlyGivenNames _
  split
  · split
    · exact h
    · exact ite_of h (ite_of (canonical_failHost h) (ite_of h (canonical_mergeAnswer (canonical_performHostLine
        (canonical_of h)))))
  · exact ite_of (canonical_engHostFails h) h
  · exact h

theorem canonical_execCompletionTimeout (h : MemoryCanonical s) : CanonOut (execCompletionTimeout s) := by
  unfold execCompletionTimeout
  extract_lets +onlyGivenNames _
  split
  · split
    · exact h
    · exact ite_of h (canonical_failHost h)
  · exact ite_of (canonical_engHostFails h) h
  · exact ite_of h (canonical_wantFails h)
  · exact h

theorem canonical_beginInval {pkg part v} (h : MemoryCanonical s) : CanonFst (beginInval s pkg part v) := by
  unfold beginInval
  extract_lets +onlyGivenNames _
  refine ite_of (canonical_updFunc h) ?_
  split
  · exact h
  · exact canonical_of h

theorem canonical_nextInval {pkg part} (h : MemoryCanonical s) : MemoryCanonical (nextInval s pkg part) := by
  unfold nextInval
  split
  · exact h
  · exact ite_of h (canonical_updFunc (canonical_beginInval h))

theorem canonical_execAtsInvalidationRequest (h : MemoryCanonical s) : CanonOut (execAtsInvalidationRequest s) :=
  ite_of h (canonical_nextInval (canonical_updFunc h))

theorem canonical_invalDone {pkg part} (h : MemoryCanonical s) : MemoryCanonical (invalDone s pkg part) := by
  unfold invalDone
  split
  · exact h
  · exact ite_of h (canonical_nextInval (canonical_updFunc h))

theorem canonical_barWrite {pkg part off v halves} (h : MemoryCanonical s) :
    MemoryCanonical (barWrite s pkg part off v halves) := by
  unfold barWrite
  extract_lets +onlyGivenNames _
  refine ite_of h ?_
  split
  · exact h
  · split
    · exact win_of (canonical_pageWrite h) (by assumption)
    · exact h

theorem canonical_cxlWrite {pkg addr bs} (h : MemoryCanonical s) : MemoryCanonical (cxlWrite s pkg addr bs) := by
  unfold cxlWrite
  split
  · exact h
  · split
    · exact h
    · split
      · exact canonical_updCounts h
      · exact foldl_of h fun _ _ h1 => ite_of (canonical_tell h1) (canonical_mem h1 (wf_writeBytes h1.1 ..))

theorem canonical_execInboundWrite (h : MemoryCanonical s) : CanonOut (execInboundWrite s) := by
  unfold execInboundWrite
  extract_lets +onlyGivenNames _
  refine ite_of h ?_
  refine ite_of (canonical_updCounts h) ?_
  split
  · exact dev_of (canonical_gpaWrite h) (by assumption)
  · exact canonical_noThread h
  · exact canonical_noThread h
  · exact canonical_noThread h
  · exact canonical_bar h

theorem canonical_execPeerToPeerRequest (h : MemoryCanonical s) : CanonOut (execPeerToPeerRequest s) :=
  ite_of h (canonical_updPkg h)

theorem canonical_failHosts {f : Msg → Bool} (h : MemoryCanonical s) : MemoryCanonical (failHosts s f) :=
  foldl_of h fun _ _ h1 => (canonical_failHost h1)

theorem canonical_restartFunc {pkg part} (h : MemoryCanonical s) : MemoryCanonical (restartFunc s pkg part) :=
  foldl_of (canonical_failHosts (canonical_updFunc h)) fun _ _ h1 => (canonical_wantFails h1)

theorem canonical_execLinkDown (h : MemoryCanonical s) : CanonOut (execLinkDown s) := by
  unfold execLinkDown
  extract_lets +onlyGivenNames _
  split
  · exact h
  · exact ite_of h (foldl_of (canonical_updPkg h) fun _ _ h1 => (canonical_restartFunc h1))

theorem canonical_execFunctionReset (h : MemoryCanonical s) : CanonOut (execFunctionReset s) :=
  ite_of h (canonical_restartFunc h)

theorem canonical_moveFunc {pkg old part} (h : MemoryCanonical s) : MemoryCanonical (moveFunc s pkg old part) :=
  canonical_updPkg (canonical_restartFunc h)

theorem canonical_bindVf {pkg vf part} (h : MemoryCanonical s) : MemoryCanonical (bindVf s pkg vf part) := by
  unfold bindVf
  refine ite_of h ?_
  extract_lets +onlyGivenNames s1
  have h1 : MemoryCanonical s1 := by
    unfold s1
    split
    · exact ite_of h (canonical_moveFunc h)
    · exact h
  exact canonical_updPkg h1

theorem canonical_setAts {pkg part on} (h : MemoryCanonical s) : MemoryCanonical (setAts s pkg part on) :=
  ite_of (canonical_updFunc h) h

theorem canonical_clearPackage {pkg} (h : MemoryCanonical s) : MemoryCanonical (clearPackage s pkg) := by
  unfold clearPackage
  extract_lets +onlyGivenNames _ s1 s2
  have h1 : MemoryCanonical s1 := foldl_of h fun _ _ h => canonical_dropBlock (canonical_stopEngines h)
  have h2 : MemoryCanonical s2 := canonical_stopEngines h1
  exact ⟨h2.1, h2.2.1, fun e he => h2.2.2 e ((List.mem_filter.mp he).1)⟩

theorem canonical_clearParts (h : MemoryCanonical s) : MemoryCanonical (clearParts s) :=
  canonical_of h

theorem canonical_execColdReset (h : MemoryCanonical s) : CanonOut (execColdReset s) :=
  ite_of h (canonical_clearParts (canonical_moveMemory (canonical_updPkg (canonical_clearPackage h))))

theorem canonical_execPowerOn (h : MemoryCanonical s) : CanonOut (execPowerOn s) := by
  unfold execPowerOn
  extract_lets +onlyGivenNames _
  split
  · exact h
  · exact ite_of h (ite_of (canonical_updPkg h) (canonical_tell (canonical_updPkg h)))

theorem canonical_answerSpdm {f : Pkg → SpdmAnswer} (h : MemoryCanonical s) : CanonOut (answerSpdm s f) := by
  unfold answerSpdm
  extract_lets +onlyGivenNames _
  split
  · exact h
  · exact ite_of h (canonical_updPkg h)

theorem canonical_execGetVersion (h : MemoryCanonical s) : CanonOut (execGetVersion s) :=
  canonical_answerSpdm h

theorem canonical_execGetCapabilities (h : MemoryCanonical s) : CanonOut (execGetCapabilities s) :=
  canonical_answerSpdm h

theorem canonical_execNegotiateAlgorithms (h : MemoryCanonical s) : CanonOut (execNegotiateAlgorithms s) :=
  canonical_answerSpdm h

theorem canonical_execGetDigests (h : MemoryCanonical s) : CanonOut (execGetDigests s) :=
  canonical_answerSpdm h

theorem canonical_execGetCertificate (h : MemoryCanonical s) : CanonOut (execGetCertificate s) :=
  canonical_answerSpdm h

theorem canonical_execChallenge (h : MemoryCanonical s) : CanonOut (execChallenge s) :=
  canonical_answerSpdm h

theorem canonical_execGetMeasurements (h : MemoryCanonical s) : CanonOut (execGetMeasurements s) :=
  canonical_answerSpdm h

theorem canonical_execThrottle (h : MemoryCanonical s) : CanonOut (execThrottle s) := by
  unfold execThrottle
  extract_lets +onlyGivenNames _ _
  split
  · exact h
  · exact ite_of h (canonical_updPkg h)

theorem canonical_execCriticalTemperature (h : MemoryCanonical s) : CanonOut (execCriticalTemperature s) := by
  unfold execCriticalTemperature
  extract_lets +onlyGivenNames _
  split
  · exact h
  · exact canonical_tell (canonical_updPkg (foldl_of h fun _ _ h1 => (canonical_killContext h1)))

/-! ### The functions of Machine/Cycle.lean -/

theorem canonical_aim {u} (h : MemoryCanonical s) : MemoryCanonical (aim s u) :=
  canonical_of h

theorem canonical_issueWord {u} (h : MemoryCanonical s) : CanonIssue (issueWord s u) := by
  unfold issueWord
  split
  · exact trivial
  · refine ite_of trivial ?_
    split
    · exact canonical_takeTrap (canonical_updStrand h)
    · split
      · exact canonical_Act_finish (syncNo_of (canonical_fetchWord h) (by assumption)) h
      · split
        · exact canonical_aim (canonical_takePort (syncOk_of (canonical_fetchWord h) (by assumption)))
        · exact canonical_takeTrap h

theorem canonical_afterIssue {s' : State} {u} (_h : MemoryCanonical s) (hs' : MemoryCanonical s') :
    MemoryCanonical (afterIssue s s' u) :=
  ite_of hs' (canonical_touchLock hs')

theorem canonical_passTime {ps} (h : MemoryCanonical s) : MemoryCanonical (passTime s ps) := by
  unfold passTime
  extract_lets +onlyGivenNames s1 s2 t ran
  have h1 : MemoryCanonical s1 := canonical_takeAllWork h
  have ht : MemoryCanonical t := canonical_of h1
  refine canonical_cores ht fun e hc => ?_
  dsimp only
  split
  · exact hc
  · exact hc

theorem canonical_spoilReg {u cls r} (h : MemoryCanonical s) : MemoryCanonical (spoilReg s u cls r) := by
  unfold spoilReg
  split
  · exact h
  · extract_lets +onlyGivenNames _
    split
    · exact canonical_putV h
    · exact canonical_putS h
    · exact canonical_putX h
    · exact ite_of h (canonical_updQuire h)
    · exact ite_of h (ite_of (canonical_updBlock h) (canonical_updQuire h))
    · exact h

theorem canonical_spoilL2 {pkg n second} (h : MemoryCanonical s) : MemoryCanonical (spoilL2 s pkg n second) := by
  unfold spoilL2
  split
  · exact h
  · exact ite_of (canonical_l2Update h) (canonical_updPkg h)

theorem canonical_evictL2 {pkg n} (h : MemoryCanonical s) : MemoryCanonical (evictL2 s pkg n) := by
  unfold evictL2
  split
  · exact h
  · exact ite_of h (canonical_updPkg h)

theorem canonical_spoilQueue {b q quire place} (h : MemoryCanonical s) : MemoryCanonical (spoilQueue s b q quire place) :=
  canonical_updBlock h

theorem canonical_forgetNode {part seq} (h : MemoryCanonical s) : MemoryCanonical (forgetNode s part seq) :=
  canonical_updPart h

theorem canonical_setScrub {pkg threshold hours} (h : MemoryCanonical s) : MemoryCanonical (setScrub s pkg threshold hours) :=
  ite_of h (canonical_updPkg h)

theorem canonical_otherMove {m} (h : MemoryCanonical s) : MemoryCanonical (otherMove s m) := by
  unfold otherMove
  split
  · exact canonical_passTime h
  · exact canonical_updCore h
  · exact ite_of h (canonical_of h)
  · exact canonical_spoilL2 h
  · exact canonical_updCore h
  · exact canonical_updCore h
  · exact canonical_spoilReg h
  · exact canonical_evictL2 h
  · exact canonical_keepView h
  · exact canonical_of h
  · exact canonical_letGo h
  · exact ite_of h (canonical_takeWork h)
  · exact canonical_of h
  · exact canonical_updPkg h
  · exact canonical_spoilQueue h
  · exact canonical_countCorrected h
  · exact canonical_setScrub h
  · exact ite_of (canonical_writeEnabled h) h
  · exact canonical_writeGateDir h
  · exact canonical_forgetNode h
  · exact canonical_invalDone h
  · exact canonical_bindVf h
  · exact canonical_updPkg h
  · exact canonical_barWrite h
  · exact canonical_cxlWrite h
  · exact canonical_engPiece h
  · exact canonical_updPart h
  · exact canonical_setAts h
  · exact canonical_makeQp h
  · exact h
  · exact h

theorem canonical_nextMove (h : MemoryCanonical s) : CanonFst (nextMove s) := by
  unfold nextMove
  split
  · exact canonical_of h
  · split
    · exact h
    · exact h

/-! ### The functions of Machine/Matrix.lean -/

theorem canonical_issueMat {I m} (h : MemoryCanonical s) : CanonAct (issueMat s I m) :=
  canonical_updCore (canonical_of h)

theorem canonical_matFrame {i} {ad} {ok : Issuer → Bool} {srcs : Issuer → List SrcSt} {dsts : Issuer → List SrcSt} {tileOk
  : Issuer → Tile → Bool} {k : Issuer → Core → Tile → Act} (h : MemoryCanonical s) (hk : ∀ a0 a1 a2, CanonAct
  (k a0 a1 a2)) : CanonOut (matFrame i s ad ok srcs dsts tileOk k) :=
  canonical_onQuire h (fun _ => (ite_of canonical_Issuer_bad (ite_of canonical_Issuer_bad (ite_of trivial
    (ite_of canonical_Issuer_bad (canonical_withSrcs (fun _ => (hk _ _ _))))))))

theorem canonical_mmFloat {i f} {F code} (h : MemoryCanonical s) : CanonOut (mmFloat i f s F code) := by
  unfold mmFloat
  exact canonical_matFrame h (fun _ _ _ => (canonical_issueMat h))

theorem canonical_execMmab {f} (h : MemoryCanonical s) : CanonOut (execMmab f s) :=
  canonical_mmFloat h

theorem canonical_execMmah {f} (h : MemoryCanonical s) : CanonOut (execMmah f s) :=
  canonical_mmFloat h

theorem canonical_mmInt {i f} {w K code} (h : MemoryCanonical s) : CanonOut (mmInt i f s w K code) := by
  unfold mmInt
  exact canonical_matFrame h (fun _ _ _ => (canonical_issueMat h))

theorem canonical_execMmas8 {f} (h : MemoryCanonical s) : CanonOut (execMmas8 f s) :=
  canonical_mmInt h

theorem canonical_execMmas4 {f} (h : MemoryCanonical s) : CanonOut (execMmas4 f s) :=
  canonical_mmInt h

theorem canonical_execMcvt {f} (h : MemoryCanonical s) : CanonOut (execMcvt f s) :=
  canonical_matFrame h (fun _ _ _ => (canonical_issueMat h))

theorem canonical_execMzero {f} (h : MemoryCanonical s) : CanonOut (execMzero f s) :=
  canonical_matFrame h (fun _ _ _ => (canonical_issueMat h))

theorem canonical_execMlda {f} (h : MemoryCanonical s) : CanonOut (execMlda f s) := by
  unfold execMlda
  exact canonical_matFrame h (fun _ _ _ => (canonical_issueMat h))

theorem canonical_execMsta {f} (h : MemoryCanonical s) : CanonOut (execMsta f s) := by
  unfold execMsta
  exact canonical_matFrame h (fun _ _ _ => (canonical_issueMat h))

theorem canonical_execMdrv {f} (h : MemoryCanonical s) : CanonOut (execMdrv f s) := by
  unfold execMdrv
  exact canonical_matFrame h (fun _ _ _ => (canonical_issueMat (foldl_of h fun _ _ h1 => (canonical_emptyV h1))))

theorem canonical_execMdrs {f} (h : MemoryCanonical s) : CanonOut (execMdrs f s) := by
  unfold execMdrs
  exact canonical_matFrame h (fun _ _ _ => (canonical_issueMat h))

theorem canonical_execMsig {f} (h : MemoryCanonical s) : CanonOut (execMsig f s) :=
  canonical_matFrame h (fun _ _ _ => (canonical_issueMat h))

theorem canonical_execMtrip {f} (h : MemoryCanonical s) : CanonOut (execMtrip f s) :=
  canonical_onQuire h (fun _ => (ite_of canonical_Issuer_bad (canonical_updQuire h)))

theorem canonical_msigx {i f} {cmp} (h : MemoryCanonical s) : CanonOut (msigx i f s cmp) := by
  unfold msigx
  refine canonical_onQuire h fun _ => ?_
  extract_lets +onlyGivenNames _
  refine ite_of canonical_Issuer_bad ?_
  refine ite_of canonical_Issuer_bad ?_
  refine canonical_withSrcs fun _ => ?_
  extract_lets +onlyGivenNames _
  split
  · exact trivial
  · exact ite_of trivial (canonical_memIssue h (fun _ h1 => (canonical_updCore h1)))

theorem canonical_execMsigxSt {f} (h : MemoryCanonical s) : CanonOut (execMsigxSt f s) :=
  canonical_msigx h

theorem canonical_execMsigxCmp {f} (h : MemoryCanonical s) : CanonOut (execMsigxCmp f s) :=
  canonical_msigx h

theorem canonical_matEffects {core m} (h : MemoryCanonical s) : MemoryCanonical (matEffects s core m) := by
  unfold matEffects
  extract_lets +onlyGivenNames s1
  have h1 : MemoryCanonical s1 := canonical_updCore h
  extract_lets +onlyGivenNames _ s2
  have h2 : MemoryCanonical s2 := canonical_updCore h1 fun _ _ => wf_sramScatter (wf_coreOf h1 _) _
  extract_lets +onlyGivenNames s3
  have h3 : MemoryCanonical s3 := by
    unfold s3
    split
    · exact canonical_tell h2
    · exact h2
  extract_lets +onlyGivenNames s4
  have h4 : MemoryCanonical s4 := foldl_of h3 fun _ _ h5 => (canonical_setVreg h5)
  extract_lets +onlyGivenNames s5
  have h6 : MemoryCanonical s5 := by
    unfold s5
    split
    · exact canonical_updQuire h4
    · exact h4
  extract_lets +onlyGivenNames s6
  have h7 : MemoryCanonical s6 := by
    unfold s6
    split
    · exact canonical_addStat (canonical_addStat h6)
    · exact h6
  exact canonical_setOvf h7

theorem canonical_matFails {m} (h : MemoryCanonical s) : MemoryCanonical (matFails s m) :=
  canonical_updStrand (foldl_of h fun _ _ h1 => (canonical_setVreg h1))

theorem canonical_msigxReturn {m trapOn op} (h : MemoryCanonical s) : MemoryCanonical (msigxReturn s m trapOn op) := by
  unfold msigxReturn
  extract_lets +onlyGivenNames _
  split
  · exact canonical_updStrand h
  · refine ite_of h ?_
    extract_lets +onlyGivenNames s1
    have h1 : MemoryCanonical s1 := canonical_sigMismatch h
    exact ite_of (canonical_updStrand h1) h1
  · exact h

theorem canonical_popMat {core n} (h : MemoryCanonical s) : MemoryCanonical (popMat s core n) :=
  canonical_updCore h

theorem canonical_execMatRetire (h : MemoryCanonical s) : CanonOut (execMatRetire s) := by
  unfold execMatRetire
  extract_lets +onlyGivenNames _ _
  split
  · exact h
  · split
    · split
      · exact canonical_captureSr (canonical_popMat h)
      · exact ite_of h (canonical_captureSr (canonical_popMat (canonical_msigxReturn (canonical_of h))))
    · refine ite_of h ?_
      extract_lets +onlyGivenNames s'
      have hs' : MemoryCanonical s' := canonical_popMat h
      exact canonical_captureSr (ite_of (canonical_matFails hs') (canonical_matEffects hs'))

/-! ### The functions of Machine/Dispatch.lean -/

theorem canonical_exec {i} (h : MemoryCanonical s) : CanonOut (exec i s) := by
  unfold exec
  split
  · exact canonical_execIadd h
  · exact canonical_execIsub h
  · exact canonical_execImul h
  · exact canonical_execImulh h
  · exact canonical_execUmulh h
  · exact canonical_execImad h
  · exact canonical_execIabs h
  · exact canonical_execIneg h
  · exact canonical_execImin h
  · exact canonical_execImax h
  · exact canonical_execUmin h
  · exact canonical_execUmax h
  · exact canonical_execAnd h
  · exact canonical_execOr h
  · exact canonical_execXor h
  · exact canonical_execAndn h
  · exact canonical_execShl h
  · exact canonical_execShr h
  · exact canonical_execSar h
  · exact canonical_execClz h
  · exact canonical_execPopc h
  · exact canonical_execBrev h
  · exact canonical_execBfx h
  · exact canonical_execBfxu h
  · exact canonical_execBfi h
  · exact canonical_execIdiv h
  · exact canonical_execUdiv h
  · exact canonical_execIrem h
  · exact canonical_execUrem h
  · exact canonical_execIaddi h
  · exact canonical_execAndi h
  · exact canonical_execOri h
  · exact canonical_execXori h
  · exact canonical_execShli h
  · exact canonical_execShri h
  · exact canonical_execSari h
  · exact canonical_execMovi h
  · exact canonical_execMovhi h
  · exact canonical_execMov h
  · exact canonical_execSel h
  · exact canonical_execShfl h
  · exact canonical_execShflup h
  · exact canonical_execShfldn h
  · exact canonical_execShflx h
  · exact canonical_execBcast h
  · exact canonical_execLaneid h
  · exact canonical_execS2v h
  · exact canonical_execS2vSib h
  · exact canonical_execV2s h
  · exact canonical_execIcmp h
  · exact canonical_execUcmp h
  · exact canonical_execFcmp h
  · exact canonical_execDcmp h
  · exact canonical_execFadd h
  · exact canonical_execFsub h
  · exact canonical_execFmul h
  · exact canonical_execFfma h
  · exact canonical_execFmin h
  · exact canonical_execFmax h
  · exact canonical_execFabs h
  · exact canonical_execFneg h
  · exact canonical_execFdiv h
  · exact canonical_execFsqrt h
  · exact canonical_execFrcp h
  · exact canonical_execFrsq h
  · exact canonical_execFexp2 h
  · exact canonical_execFlog2 h
  · exact canonical_execFtanh h
  · exact canonical_execFrnd h
  · exact canonical_execFclass h
  · exact canonical_execDadd h
  · exact canonical_execDsub h
  · exact canonical_execDmul h
  · exact canonical_execDfma h
  · exact canonical_execDmin h
  · exact canonical_execDmax h
  · exact canonical_execDdiv h
  · exact canonical_execDsqrt h
  · exact canonical_execCvt h
  · exact canonical_execPack2 h
  · exact canonical_execUnpack2 h
  · exact canonical_execRedf h
  · exact canonical_execRedfmin h
  · exact canonical_execRedfmax h
  · exact canonical_execRedi h
  · exact canonical_execScani h
  · exact canonical_execKand h
  · exact canonical_execKor h
  · exact canonical_execKxor h
  · exact canonical_execKnot h
  · exact canonical_execKmov h
  · exact canonical_execKpop h
  · exact canonical_execKany h
  · exact canonical_execKall h
  · exact canonical_execKfirst h
  · exact canonical_execSadd h
  · exact canonical_execSsub h
  · exact canonical_execSmul h
  · exact canonical_execSand h
  · exact canonical_execSor h
  · exact canonical_execSxor h
  · exact canonical_execSshl h
  · exact canonical_execSshr h
  · exact canonical_execSmov h
  · exact canonical_execSmovi h
  · exact canonical_execScmp h
  · exact canonical_execDig h
  · exact canonical_execTmean h
  · exact canonical_execTspread h
  · exact canonical_execSibsel h
  · exact canonical_execTchk h
  · exact canonical_execLd h
  · exact canonical_execSt h
  · exact canonical_execLdt h
  · exact canonical_execStt h
  · exact canonical_execLds h
  · exact canonical_execSts h
  · exact canonical_execLdu h
  · exact canonical_execStu h
  · exact canonical_execAtom h
  · exact canonical_execAcas h
  · exact canonical_execFatom h
  · exact canonical_execAtoms h
  · exact canonical_execPref h
  · exact canonical_execClean h
  · exact canonical_execFence h
  · exact canonical_execAfence h
  · exact canonical_execSeal h
  · exact canonical_execUnseal h
  · exact canonical_execMmab h
  · exact canonical_execMmah h
  · exact canonical_execMmas8 h
  · exact canonical_execMmas4 h
  · exact canonical_execMzero h
  · exact canonical_execMlda h
  · exact canonical_execMsta h
  · exact canonical_execMdrv h
  · exact canonical_execMdrs h
  · exact canonical_execMcvt h
  · exact canonical_execMsig h
  · exact canonical_execMsigxSt h
  · exact canonical_execMsigxCmp h
  · exact canonical_execMtrip h
  · exact canonical_execCpy h
  · exact canonical_execCpy2 h
  · exact canonical_execCpyt h
  · exact canonical_execCpyr h
  · exact canonical_execCpym h
  · exact canonical_execGthr h
  · exact canonical_execSctr h
  · exact canonical_execFill h
  · exact canonical_execColl h
  · exact canonical_execCarb h
  · exact canonical_execCwait h
  · exact canonical_execCpoll h
  · exact canonical_execMigr h
  · exact canonical_execHgsend h
  · exact canonical_execHgsig h
  · exact canonical_execHgwait h
  · exact canonical_execHgtake h
  · exact canonical_execHgqry h
  · exact canonical_execB h
  · exact canonical_execBra h
  · exact canonical_execCall h
  · exact canonical_execSplit h
  · exact canonical_execWaitj h
  · exact canonical_execJtab h
  · exact canonical_execToken h
  · exact canonical_execBar h
  · exact canonical_execQpush h
  · exact canonical_execQpop h
  · exact canonical_execWaitb h
  · exact canonical_execTmode h
  · exact canonical_execAdd h
  · exact canonical_execSub h
  · exact canonical_execMul h
  · exact canonical_execMulh h
  · exact canonical_execDivu h
  · exact canonical_execRemu h
  · exact canonical_execFrontAnd h
  · exact canonical_execFrontOr h
  · exact canonical_execFrontXor h
  · exact canonical_execFrontShl h
  · exact canonical_execFrontShr h
  · exact canonical_execFrontSar h
  · exact canonical_execMin h
  · exact canonical_execMax h
  · exact canonical_execAddi h
  · exact canonical_execFrontAndi h
  · exact canonical_execFrontOri h
  · exact canonical_execFrontShli h
  · exact canonical_execFrontShri h
  · exact canonical_execLi h
  · exact canonical_execLih h
  · exact canonical_execCmp h
  · exact canonical_execCmpi h
  · exact canonical_execFadds h
  · exact canonical_execFmuls h
  · exact canonical_execFfmas h
  · exact canonical_execFdivs h
  · exact canonical_execFcmps h
  · exact canonical_execFcvts h
  · exact canonical_execLdx h
  · exact canonical_execStx h
  · exact canonical_execAtmx h
  · exact canonical_execBc h
  · exact canonical_execJ h
  · exact canonical_execJal h
  · exact canonical_execJr h
  · exact canonical_execTmset h
  · exact canonical_execTmadv h
  · exact canonical_execTmget h
  · exact canonical_execDqpush h
  · exact canonical_execOvfget h
  · exact canonical_execLsupd h
  · exact canonical_execNadd h
  · exact canonical_execNwdraw h
  · exact canonical_execNstat h
  · exact canonical_execTrap h
  · exact canonical_execMfsr h
  · exact canonical_execMtsr h
  · exact canonical_execPgmap h
  · exact canonical_execPgunmap h
  · exact canonical_execTlbinvPage h
  · exact canonical_execTlbinvGpage h
  · exact canonical_execTlbinvS2 h
  · exact canonical_execTlbinvS2all h
  · exact canonical_execSpilla h
  · exact canonical_execFilla h
  · exact canonical_execSavel h
  · exact canonical_execLoadl h
  · exact canonical_execWaitev h
  · exact canonical_execPfence h
  · exact canonical_execRet h
  · exact canonical_execJoin h
  · exact canonical_execXacq h
  · exact canonical_execXrel h
  · exact canonical_execYield h
  · exact canonical_execExit h
  · exact canonical_execBtok h
  · exact canonical_execFexit h
  · exact canonical_execNop h
  · exact canonical_execEret h
  · exact canonical_execTlbinvCtx h
  · exact canonical_execTlbinvPart h
  · exact canonical_execClauseSelect h
  · exact canonical_execLoadReturn h
  · exact canonical_execMatRetire h
  · exact canonical_execEngineCommandStart h
  · exact canonical_execCollReadyStart h
  · exact canonical_execCollExchange h
  · exact canonical_execCollStep h
  · exact canonical_execPeerTimeout h
  · exact canonical_execMigrDrainDone h
  · exact canonical_execEngineCompletion h
  · exact canonical_execCwaitPop h
  · exact canonical_execQpopDeliver h
  · exact canonical_execQueuePushAccept h
  · exact canonical_execBtokPop h
  · exact canonical_execXacqGrant h
  · exact canonical_execXlockStall h
  · exact canonical_execBarrierRelease h
  · exact canonical_execWaitbComplete h
  · exact canonical_execWaitbUnsatisfiable h
  · exact canonical_execWaitjExpiry h
  · exact canonical_execWaitevDeliver h
  · exact canonical_execFenceComplete h
  · exact canonical_execSealEffect h
  · exact canonical_execUnsealEffect h
  · exact canonical_execSweepComplete h
  · exact canonical_execGateAnswer h
  · exact canonical_execGateTokenRefill h
  · exact canonical_execHgwaitTimeout h
  · exact canonical_execGateTableRetry h
  · exact canonical_execGateRedirect h
  · exact canonical_execRead h
  · exact canonical_execWrite h
  · exact canonical_execAtomic h
  · exact canonical_execGate h
  · exact canonical_execResp h
  · exact canonical_execAck h
  · exact canonical_execRetryMap h
  · exact canonical_execFlitCrcReplay h
  · exact canonical_execDieLaneReplace h
  · exact canonical_execPlaneDead h
  · exact canonical_execQuiesceReport h
  · exact canonical_execPackageFenceOut h
  · exact canonical_execPlaneMapCommit h
  · exact canonical_execPlaneFreeze h
  · exact canonical_execPlaneShadowWrite h
  · exact canonical_execBackgroundScrub h
  · exact canonical_execLaunchQueueTail h
  · exact canonical_execGraphAccept h
  · exact canonical_execNodeReserve h
  · exact canonical_execBlockDispatch h
  · exact canonical_execBlockRetire h
  · exact canonical_execSliceExpiry h
  · exact canonical_execGraceHalt h
  · exact canonical_execKill h
  · exact canonical_execBlockSave h
  · exact canonical_execBlockResume h
  · exact canonical_execUnitLoss h
  · exact canonical_execLayoutCommit h
  · exact canonical_execLayoutTick h
  · exact canonical_execScrubComplete h
  · exact canonical_execErrclr h
  · exact canonical_execFrameRelease h
  · exact canonical_execFrameReleaseDone h
  · exact canonical_execS2respRelease h
  · exact canonical_execS2respRefuse h
  · exact canonical_execPlaceWrite h
  · exact canonical_execRegisterWrite h
  · exact canonical_execPriDoorbell h
  · exact canonical_execPageRequestResponse h
  · exact canonical_execAtsTranslationCompletion h
  · exact canonical_execAtsInvalidationRequest h
  · exact canonical_execInboundWrite h
  · exact canonical_execHostCompletion h
  · exact canonical_execCompletionTimeout h
  · exact canonical_execLinkDown h
  · exact canonical_execFunctionReset h
  · exact canonical_execColdReset h
  · exact canonical_execPowerOn h
  · exact canonical_execGetVersion h
  · exact canonical_execGetCapabilities h
  · exact canonical_execNegotiateAlgorithms h
  · exact canonical_execGetDigests h
  · exact canonical_execGetCertificate h
  · exact canonical_execChallenge h
  · exact canonical_execGetMeasurements h
  · exact canonical_execThrottle h
  · exact canonical_execCriticalTemperature h
  · exact canonical_execRoceSend h
  · exact canonical_execRoceRdmaWrite h
  · exact canonical_execRoceRdmaWriteImm h
  · exact canonical_execRoceRdmaRead h
  · exact canonical_execRoceUnsupported h
  · exact canonical_execRoceRetransmitTimeout h
  · exact canonical_execPfcPause h
  · exact canonical_execEcnMark h
  · exact canonical_execEthernetLinkFail h
  · exact canonical_execHeldSlotAnswer h
  · exact canonical_execGateClose h
  · exact canonical_execHPreemptionRequest h
  · exact canonical_execPeerToPeerRequest h

/-! ### The functions of Machine/Step.lean -/

theorem canonical_stepWord {u} (h : MemoryCanonical s) : CanonOut (stepWord s u) := by
  unfold stepWord
  split
  · exact h
  · exact meets_of (canonical_issueWord h) (by assumption)
  · split
    · exact canonical_afterIssue (runs_of (canonical_issueWord h) (by assumption)) (out_of (canonical_exec (runs_of
        (canonical_issueWord h) (by assumption))) (by assumption))
    · exact canonical_exec (runs_of (canonical_issueWord h) (by assumption))

theorem canonical_stepEvent {i sub} (h : MemoryCanonical s) : CanonOut (stepEvent s i sub) :=
  ite_of h (canonical_exec (canonical_of h))

theorem canonical_settle {r : Host.Outcome State Fault Refusal} (h : MemoryCanonical s) (hr : CanonOut r) :
    CanonOut (settle s r) := by
  unfold settle
  split
  · exact canonical_settled h hr
  · exact hr

theorem canonical_step (h : MemoryCanonical s) : CanonOut (step s) := by
  unfold step
  split
  · exact canonical_settle (fst_of (canonical_nextMove h) (by assumption)) (canonical_stepWord (fst_of (canonical_nextMove h)
      (by assumption)))
  · exact canonical_settle (fst_of (canonical_nextMove h) (by assumption)) (canonical_stepEvent (fst_of (canonical_nextMove h)
      (by assumption)))
  · exact canonical_settled (fst_of (canonical_nextMove h) (by assumption)) (canonical_otherMove (fst_of
      (canonical_nextMove h) (by assumption)))

/-- Settles O60: every function that a step goes through keeps the canonical form, since every byte is written by
Memory.write, Memory.writeBytes or Memory.zeroRange. -/
theorem memoryStaysCanonical : Obligations.MemoryStaysCanonical :=
  fun _ _ h hstep => out_of (canonical_step h) hstep

end Sys2Proof.CanonicalProofs
end


section
/-! PROOFS. The control words that transfer, join, and wait at queues and barriers (14_control.md R319, R323 to R325, R330, R337
to R342, 15_scheduling.md R353, R358, R359). -/

namespace Sys2Proof.TransferProofs

open Sys2Proof.Machine Sys2Proof.Safety Sys2Proof.Laws Sys2Proof.VectorProofs Sys2Proof.ControlProofs Sys2Proof.SystemProofs
open Sys2Proof.FrameProofs

/-! ## Ways a word of a quire or a front-end ends -/

section Ends

variable {i : Instr} {s t : State} {I : Issuer} {k : Issuer → Act} {pc : DWord} {w : Wait}

theorem quire_jumps (hi : QuireIssues s i I) (hexec : exec i s = onQuire i s k) (hjump : k I = .jump t pc) : JumpsTo i s I t pc := by
  rw [JumpsTo, hexec, onQuire_eq hi, hjump, finish_jump]

theorem quire_waits (hi : QuireIssues s i I) (hexec : exec i s = onQuire i s k) (hwait : k I = .wait t w) : WaitsAs i s I t w := by
  rw [WaitsAs, hexec, onQuire_eq hi, hwait, finish_wait]

theorem front_completes (hi : FrontIssues s i I) (hexec : exec i s = onFront i s k) (hdone : k I = .done t) :
    Completes i s I t := by
  rw [Completes, hexec, onFront_eq hi, hdone, finish_done]

theorem front_jumps (hi : FrontIssues s i I) (hexec : exec i s = onFront i s k) (hjump : k I = .jump t pc) : JumpsTo i s I t pc := by
  rw [JumpsTo, hexec, onFront_eq hi, hjump, finish_jump]

theorem front_waits (hi : FrontIssues s i I) (hexec : exec i s = onFront i s k) (hwait : k I = .wait t w) : WaitsAs i s I t w := by
  rw [WaitsAs, hexec, onFront_eq hi, hwait, finish_wait]

end Ends

/-! ## Branches, jumps and calls (R319, R330, R339) -/

section Branch

variable {I : Issuer} {f : CB} {s : State}

theorem branchIf_taken (hs : Full [I.srcC f.c.toNat]) (hc : (I.creg f.c.toNat).val = (f.sense == 1)) :
    branchIf I f s = .jump s (I.st.pc + 4 * f.off.signExtend 64) := by
  simp only [branchIf, withSrcs_full hs free_nil, hc, beq_self_eq_true, if_true, branchTo]

theorem branchIf_next (hs : Full [I.srcC f.c.toNat]) (hc : (I.creg f.c.toNat).val ≠ (f.sense == 1)) :
    branchIf I f s = .done s := by
  simp only [branchIf, withSrcs_full hs free_nil, beq_iff_eq, if_neg hc]

end Branch

theorem branches : (∀ (f : CB) (s : State) (I : Issuer), QuireIssues s (.b f) I → Full [I.srcC f.c.toNat] →
     ((I.creg f.c.toNat).val = (f.sense == 1) → JumpsTo (.b f) s I s (I.st.pc + 4 * f.off.signExtend 64)) ∧
     ((I.creg f.c.toNat).val ≠ (f.sense == 1) → Completes (.b f) s I s)) ∧
   (∀ (f : CB) (s : State) (I : Issuer), FrontIssues s (.bc f) I → Full [I.srcC f.c.toNat] →
     ((I.creg f.c.toNat).val = (f.sense == 1) → JumpsTo (.bc f) s I s (I.st.pc + 4 * f.off.signExtend 64)) ∧
     ((I.creg f.c.toNat).val ≠ (f.sense == 1) → Completes (.bc f) s I s)) :=
  ⟨fun _ _ _ hi hs => ⟨fun hc => quire_jumps hi rfl (branchIf_taken hs hc), fun hc => completes_of_done hi rfl (branchIf_next hs hc)⟩,
   fun _ _ _ hi hs => ⟨fun hc => front_jumps hi rfl (branchIf_taken hs hc), fun hc => front_completes hi rfl (branchIf_next hs hc)⟩⟩

/-! ## JTAB (R340) -/

/-- The groups of a jump table, placed: one here, one in the other slot where it is free. -/
def placeGroups (I : Issuer) (two : Bool) (id : Nat) (Q : Quire) : List (DWord × Mask) → Quire
  | [] => Q
  | [g] => Q.run I.sl g.2 g.1 id I.st.level
  | g :: h :: _ =>
    if two then (Q.run I.sl g.2 g.1 id I.st.level).run (1 - I.sl) h.2 h.1 id I.st.level else Q.run I.sl g.2 g.1 id I.st.level

theorem jtabRun_pushes (s : State) (I : Issuer) (jpc : DWord) (gs : List (DWord × Mask)) :
    jtabRun s I jpc gs =
      (pushStack s I (((gs.drop (if (I.qr.slot (1 - I.sl)).free then 2 else 1)).reverse).map
        fun g => (g.1, g.2, (I.qr.newRec I.sl 2 jpc I.mask).2))).andThen fun s _ =>
        .fixed (((countIcnt s I).updQuire I.key fun Q => (Q.newRec I.sl 2 jpc I.mask).1).updQuire I.key fun Q =>
          placeGroups I (I.qr.slot (1 - I.sl)).free (I.qr.newRec I.sl 2 jpc I.mask).2 Q gs) := by
  have hdrop : (if (I.qr.slot (1 - I.sl)).free then gs.drop 2 else gs.drop 1) =
      gs.drop (if (I.qr.slot (1 - I.sl)).free then 2 else 1) := by split <;> rfl
  rw [← hdrop]
  match gs with
  | [] => rfl
  | [_] => rfl
  | _ :: _ :: _ => rfl

theorem jtabRun_fixed {s s2 : State} {I : Issuer} {jpc : DWord} {gs : List (DWord × Mask)}
    (hpush : pushStack s I (((gs.drop (if (I.qr.slot (1 - I.sl)).free then 2 else 1)).reverse).map
        fun g => (g.1, g.2, (I.qr.newRec I.sl 2 jpc I.mask).2)) = .ok s2 ()) :
    jtabRun s I jpc gs = .fixed (((countIcnt s2 I).updQuire I.key fun Q => (Q.newRec I.sl 2 jpc I.mask).1).updQuire I.key fun Q =>
      placeGroups I (I.qr.slot (1 - I.sl)).free (I.qr.newRec I.sl 2 jpc I.mask).2 Q gs) := by
  rw [jtabRun_pushes, hpush, andThen_ok]

theorem jtab_answers {f : CJ} {s s1 : State} {I : Issuer} {t : Tab Nat} (hi : QuireIssues s (.jtab f) I)
    (heven : f.sb.toNat % 2 = 0) (hv : I.vOk f.va.toNat 1 = true) (hs : Full (I.srcV f.va.toNat (f.ea == 1) :: I.srcS2 f.sb.toNat)) :
    let va := I.maj fun l => ((I.vreg f.va.toNat).at l).toNat
    let base := (I.s2 f.sb.toNat).toNat
    I.split [fun l => ((I.vreg f.va.toNat).at l).toNat] = [] → (∀ i ∈ I.threads, va i ≤ f.n1.toNat) → base % 4 = 0 →
    I.qr.recs.length < 64 →
    jtabRead s I base (0 :: ((List.range (f.n1.toNat + 1)).filter fun i => I.threads.any fun j => va j == i).map (· + 1)) =
      .ok s1 t →
    exec (.jtab f) s = (jtabRun s1 I (I.blk.node.text + 4 * BitVec.ofNat 64 (Tab.get 0 t 0))
      (jtabGroups I va t (f.n1.toNat + 1))).finish s I := by
  intro va base hsplit hbound halign hroom hread
  have hin : (I.threads.filter fun i => f.n1.toNat + 1 ≤ va i) = [] := by
    refine List.filter_eq_nil_iff.mpr fun i hi' => ?_
    simp only [decide_eq_true_eq, Nat.not_le]
    exact Nat.lt_succ_of_le (hbound i hi')
  have hmis : misaligned [(0, base)] 4 = [] := by simp [misaligned, halign]
  have hok : (f.sb.toNat % 2 != 0 || !I.vOk f.va.toNat 1) = false := by simp [heven, hv]
  change execJtab f s = _
  rw [execJtab, onQuire_eq hi]
  simp only [hok, Bool.false_eq_true, if_false, withSrcs_full hs free_nil]
  rw [hsplit]
  simp only
  rw [show (I.threads.filter fun i => decide (f.n1.toNat + 1 ≤ I.maj (fun l => ((I.vreg f.va.toNat).at l).toNat) i)) = [] from hin]
  simp only [List.map_nil, boundsTrap, if_neg (Nat.not_le.mpr hroom)]
  rw [show misaligned [(0, (I.s2 f.sb.toNat).toNat)] 4 = [] from hmis]
  simp only [alignTrap]
  rw [hread, andThen_ok]

/-- Settles O26: conditional branches by their bit, jumps and calls by their target, and a jump table by its reads. -/
theorem transfersComplete : Obligations.TransfersComplete := by
  obtain ⟨hb, hbc⟩ := branches
  refine ⟨⟨hb, hbc, fun f s I hi => quire_jumps hi rfl rfl, fun f s I hi => front_jumps hi rfl rfl, fun f s I hi hd => ?jal,
    fun f s I hi hs => ?jr⟩, fun f s I hi hroom => ?call, ?jtab⟩
  case jal => exact front_jumps hi rfl (by simp only [withSrcs_full full_nil hd]; rfl)
  case jr => exact front_jumps hi rfl (by simp only [withSrcs_full hs free_nil])
  case call => exact quire_jumps hi rfl (by simp only [if_neg (Nat.not_le.mpr hroom)]; rfl)
  case jtab =>
    intro f s s1 s2 I t hi heven hv hs va base hsplit hbound halign hroom hread jpc gs two id hpush
    have hexec : exec (.jtab f) s = (jtabRun s1 I jpc gs).finish s I := jtab_answers hi heven hv hs hsplit hbound halign hroom hread
    rw [jtabRun_fixed hpush, finish_fixed] at hexec
    clear_value gs
    rcases gs with _ | ⟨g, _ | ⟨h, rest⟩⟩ <;> exact hexec

/-! ## JOIN, RET and WAITJ (R337, R338, R340) -/

theorem joinAct_hit {I : Issuer} {call : Bool} {r : JoinRec} (hr : I.qr.joinRec (I.qr.slot I.sl).innermost = some r)
    (hk : (r.kind == 3) = call) (k : JoinRec → Act) : joinAct I call k = k r := by
  rw [joinAct, hr]
  simp only [hk, beq_self_eq_true, if_true]

theorem joinAct_miss {I : Issuer} {call : Bool}
    (h : ∀ r, I.qr.joinRec (I.qr.slot I.sl).innermost = some r → (r.kind == 3) ≠ call) (k : JoinRec → Act) :
    joinAct I call k = I.bad .illegalConvergence := by
  unfold joinAct
  split
  · rfl
  · next r hr => exact if_neg (by rw [beq_iff_eq]; exact h r hr)

theorem arrive_park {s : State} {I : Issuer} {r : JoinRec} (h : r.arrived ||| I.mask ≠ r.expect) :
    arrive s I r = s.updQuire I.key fun Q => (Q.updRec r.id fun x => { x with arrived := r.arrived ||| I.mask }).freeSlot I.sl := by
  simp only [arrive, beq_iff_eq, if_neg h]

theorem arrive_last {s : State} {I : Issuer} {r : JoinRec} (h : r.arrived ||| I.mask = r.expect) :
    arrive s I r = takeRecord s I.b I.q I.sl { r with arrived := r.expect } := by
  simp only [arrive, h, beq_self_eq_true, if_true]

/-- What a word of the list does at its record: WAITJ of a node without DET may wait, the others arrive. -/
def atRecord (s : State) (I : Issuer) (i : Instr) (r : JoinRec) : Act :=
  match i with
  | .waitj f =>
    if I.blk.node.det || (r.arrived ||| I.mask) == r.expect then .fixed (arrive (countIcnt s I) I r)
    else .wait (s.updQuire I.key fun Q => Q.updRec r.id fun r => { r with arrived := r.arrived ||| I.mask })
      (.waitj r.id (coreCycles s I.blk.core + f.off.toNat))
  | _ => .fixed (arrive (countIcnt s I) I r)

theorem join_exec {i : Instr} {call : Bool} {f : CO}
    (h : (i, call) ∈ [(Instr.join, false), (Instr.ret, true), (Instr.waitj f, false)]) (s : State) :
    exec i s = onQuire i s fun I => joinAct I call (atRecord s I i) := by
  simp only [List.mem_cons, Prod.mk.injEq, List.not_mem_nil, or_false] at h
  rcases h with ⟨rfl, rfl⟩ | ⟨rfl, rfl⟩ | ⟨rfl, rfl⟩ <;> rfl

theorem atRecord_arrives {s : State} {I : Issuer} {i : Instr} {r : JoinRec}
    (h : (∀ g, i = .waitj g → I.blk.node.det = true) ∨ r.arrived ||| I.mask = r.expect) :
    atRecord s I i r = .fixed (arrive (countIcnt s I) I r) := by
  unfold atRecord
  split
  · next f =>
    have hcond : (I.blk.node.det || (r.arrived ||| I.mask) == r.expect) = true := by
      rw [Bool.or_eq_true, beq_iff_eq]
      exact h.imp_left fun hdet => hdet f rfl
    rw [if_pos hcond]
  · rfl

/-- Settles O28: by the slot's innermost record, and by whether its lanes have all arrived. -/
theorem joinsComplete : Obligations.JoinsComplete := by
  intro s I i call f hmem hi
  have hexec := join_exec hmem s
  refine ⟨fun r hr hk => ⟨fun hmore hdet => ?_, fun hlast => ?_, fun hw hmore hdet => ?_⟩, fun hmiss => ?_, rfl, rfl⟩
  · exact answers_of_fixed hi hexec (by rw [joinAct_hit hr hk, atRecord_arrives (.inl hdet), arrive_park hmore])
  · exact answers_of_fixed hi hexec (by rw [joinAct_hit hr hk, atRecord_arrives (.inr hlast), arrive_last hlast])
  · subst hw
    refine quire_waits hi hexec ?_
    rw [joinAct_hit hr hk, atRecord]
    simp only [hdet, Bool.false_or, beq_iff_eq, if_neg hmore]
  · exact traps_of_bad hi hexec (joinAct_miss hmiss _)

/-! ## YIELD, EXIT, the pair lock and TMODE (R199, R249, R341, R342) -/

section LaneState

variable {s : State} {I : Issuer}

theorem xacq_takes (hi : QuireIssues s .xacq I) (hext : I.blk.node.ext = true)
    (hfree : (Tab.get {} I.blk.locks (I.q / 2)).holder = none) (hseek : seeksLock s I.b (partnerQuire I.q) = false) :
    Completes .xacq s I (setLock s I.b (I.q / 2) { holder := some I.q }) := by
  refine completes_of_done hi rfl ?_
  simp only [hext, hfree, hseek, Bool.not_true, Bool.false_eq_true, if_false, Option.isNone_none, Bool.not_false, Bool.and_self,
    if_true, reduceCtorEq, beq_iff_eq]

theorem xacq_waits (hi : QuireIssues s .xacq I) (hext : I.blk.node.ext = true)
    (hother : (Tab.get {} I.blk.locks (I.q / 2)).holder ≠ some I.q)
    (hbusy : (Tab.get {} I.blk.locks (I.q / 2)).holder ≠ none ∨ seeksLock s I.b (partnerQuire I.q) = true) :
    WaitsAs .xacq s I s .xacq := by
  refine quire_waits hi rfl ?_
  have hnot : ((Tab.get {} I.blk.locks (I.q / 2)).holder.isNone && !seeksLock s I.b (partnerQuire I.q)) = false := by
    rcases hbusy with h | h
    · simp [h]
    · simp [h]
  simp only [hext, Bool.not_true, Bool.false_eq_true, if_false, beq_iff_eq, hother, hnot]

theorem xrel_frees (hi : QuireIssues s .xrel I) (hmine : (Tab.get {} I.blk.locks (I.q / 2)).holder = some I.q)
    (hperf : unperformed s I.u I.mask s.nextId 1 = false) : Completes .xrel s I (freeLock s I.b I.q) := by
  refine completes_of_done hi rfl ?_
  simp only [hmine, bne_self_eq_false, Bool.false_eq_true, if_false, hperf]

/-- The quire is converged and may switch: no second slot, record or stacked entry, and whole triples for ternion mode. -/
theorem tmode_permitted {f : CM} (hlive : I.mask = I.qr.live) (hfree : (I.qr.slot (1 - I.sl)).free = true) (hrecs : I.qr.recs = [])
    (hstack : dsTop I.qr.dstack = 0) (hwhole : f.mode = 1 → wholeTriples I.qr.live = true) :
    (I.mask != I.qr.live || !(I.qr.slot (1 - I.sl)).free || !I.qr.recs.isEmpty || dsTop I.qr.dstack != 0 ||
      (f.mode == 1 && !wholeTriples I.qr.live)) = false := by
  have h : (f.mode == 1 && !wholeTriples I.qr.live) = false := by
    by_cases hm : f.mode = 1
    · simp only [hwhole hm, Bool.not_true, Bool.and_false]
    · simp only [beq_eq_false_iff_ne.mpr hm, Bool.false_and]
  simp only [h, hlive, hfree, hrecs, hstack, bne_self_eq_false, Bool.not_true, List.isEmpty_nil, Bool.or_self]

end LaneState

/-- Settles O29: each word's checks pass, and the state it leaves is the model's. -/
theorem laneStateWordsComplete : Obligations.LaneStateWordsComplete := by
  refine ⟨fun s I hi => completes_of_done hi rfl rfl, fun s I hi => answers_of_fixed hi rfl rfl, fun s I hi hext => ?xacq,
    fun s I hi hmine hperf => ?xrel, fun f s I hi hlive hfree hrecs hstack hwhole => ?tmode⟩
  case xacq => exact ⟨xacq_takes hi hext, xacq_waits hi hext⟩
  case xrel => exact xrel_frees hi hmine hperf
  case tmode =>
    have hok := tmode_permitted hlive hfree hrecs hstack hwhole
    have hpass := Bool.eq_false_iff.mp hok
    exact ⟨fun hsame => completes_of_done hi rfl ((if_neg hpass).trans (if_pos (beq_iff_eq.mpr hsame))),
      fun hother => answers_of_fixed hi rfl ((if_neg hpass).trans (if_neg (hother ∘ beq_iff_eq.mp)))⟩

/-! ## Queues (R323 to R325, R359) -/

section Queues

variable {s : State} {I : Issuer} {q n : Nat} {v : DWord} {w : Wait}

theorem pushOr_done (hperf : unperformed s I.u I.mask s.nextId 1 = false) (hroom : (queueOf s I.b q n).length < 16)
    (hnone : pushWaiting s I.b q n = false) : pushOr s I q n v w = .done (pushQueue s I.b q n v) := by
  have hfifo : fifoSize = 16 := rfl
  simp only [pushOr, hperf, hfifo, hroom, hnone, Bool.false_eq_true, if_false, decide_true, Bool.not_false, Bool.and_self, if_true]

theorem pushOr_waits (hperf : unperformed s I.u I.mask s.nextId 1 = false) (hfull : 16 ≤ (queueOf s I.b q n).length) :
    pushOr s I q n v w = .wait s w := by
  have hfifo : fifoSize = 16 := rfl
  simp only [pushOr, hperf, hfifo, Nat.not_lt.mpr hfull, Bool.false_eq_true, if_false, decide_false, Bool.false_and]

/-- q1 of a unit's block is the one that the block holds. -/
theorem queueOf_q1 (hfound : Tab.find s.blocks I.b = some I.blk) : queueOf s I.b q 1 = I.blk.q1 := by
  have h : (1 == 0) = false := rfl
  simp only [queueOf, h, Bool.false_eq_true, if_false, hfound, beq_self_eq_true, if_true]

theorem pushQueue_q1 (b : Nat) : pushQueue s b q 1 v = s.updBlock b fun B => { B with q1 := B.q1 ++ [v] } := rfl

theorem pushQueue_q0 (b : Nat) : pushQueue s b q 0 v = s.updQuire (quireKey b q) fun Q => { Q with q0 := Q.q0 ++ [v] } := rfl

/-- TOKEN's word: its OFFSET, the quire from bit 20 and the slot from bit 24. -/
theorem token_word (off q sl : Nat) :
    BitVec.ofNat 64 (off + q <<< 20 + sl <<< 24) = BitVec.ofNat 64 (off + q * 2 ^ 20 + sl * 2 ^ 24) := by
  rw [Nat.shiftLeft_eq, Nat.shiftLeft_eq]

theorem feeds_iff {n : Nat} {node : NodeRec} {q : Nat} {r : Nat × Nat → Nat} {d : Nat}
    (h : n = d ∨ ∃ x, roleOf node n = some x ∧ r x = q) :
    (n == d || (match roleOf node n with
      | some x => r x == q
      | none => false)) = true := by
  rcases h with rfl | ⟨x, hx, hq⟩
  · simp
  · simp [hx, hq]

theorem popTo_done {rd : Nat} {l : List DWord} (hq : queueOf s I.b I.q n = v :: l) (hgood : headBad s I.b I.q n = false) :
    popTo s I n rd = .done (writeS2 (dropHead s I.b I.q n) I rd v) := by
  simp only [popTo, hgood, Bool.false_eq_true, if_false, hq, List.headD_cons]

end Queues

theorem token_word_of {I : Issuer} (f : CO) :
    BitVec.ofNat 64 (f.off.toNat + I.q <<< 20 + I.sl <<< 24) = BitVec.ofNat 64 (f.off.toNat + I.q * 2 ^ 20 + I.sl * 2 ^ 24) :=
  token_word ..

/-- What QPOP does once its queue is one that the quire drains and nothing forbids it. -/
theorem qpop_act {s : State} {I : Issuer} {f : CQ} (hi : QuireIssues s (.qpop f) I) (heven : f.s.toNat % 2 = 0)
    (hd : Free (I.srcS2 f.s.toNat)) (hmine : f.q.toNat = 0 ∨ ∃ r, roleOf I.blk.node f.q.toNat = some r ∧ r.2 = I.q)
    (hlock : (Tab.get {} I.blk.locks (I.q / 2)).holder ≠ some I.q)
    (hlive : f.q.toNat = 0 → I.blk.front.done = true → queueOf s I.b I.q 0 ≠ []) :
    exec (.qpop f) s = (if !(queueOf s I.b I.q f.q.toNat).isEmpty && !popWaiting I.qr f.q.toNat then popTo s I f.q.toNat f.s.toNat
      else .wait { empty64 s I f.s.toNat with nextId := s.nextId + 1 }
        (.qpop f.q.toNat f.s.toNat s.nextId (I.notes64 f.s.toNat))).finish s I := by
  have hopen : (f.q.toNat == 0 && I.blk.front.done && (queueOf s I.b I.q 0).isEmpty) = false := by
    rw [Bool.eq_false_iff]
    intro h
    simp only [Bool.and_eq_true, beq_iff_eq, List.isEmpty_iff] at h
    exact hlive h.1.1 h.1.2 h.2
  have hholds : ((Tab.get {} I.blk.locks (I.q / 2)).holder == some I.q) = false := by rwa [beq_eq_false_iff_ne]
  have hmine' := feeds_iff (d := 0) (r := Prod.snd) hmine
  change execQpop f s = _
  rw [execQpop, onQuire_eq hi]
  simp only [hholds, hopen, Bool.and_false, Bool.false_eq_true, if_false, withSrcs_full full_nil hd, heven, bne_self_eq_false,
    Bool.or_false]
  have hpass : (f.q.toNat == 0 || (match roleOf I.blk.node f.q.toNat with
      | some r => r.2 == I.q
      | none => false)) = true := hmine'
  rw [if_neg (by rw [Bool.not_eq_true]; exact congrArg not hpass)]

/-- Settles O30: a push by the room of its queue, a pop by its head. -/
theorem queueWordsComplete : Obligations.QueueWordsComplete := by
  refine ⟨fun f s I hi hdone hperf => ?token, fun f s I hi heven hs hperf => ?qpush, fun f s I hi hs hperf => ?dqpush,
    fun f s I hi heven hd => ?qpop, fun s I hi hd => ?btok⟩
  case token =>
    intro v
    have hq := queueOf_q1 (q := I.q) ((issuerOf_block hi.1.1).2 ▸ (issuerOf_block hi.1.1).1)
    refine ⟨fun hroom hnone => completes_of_done hi rfl ?_, fun hfull => quire_waits hi rfl ?_⟩
    · simp only [hdone, Bool.false_eq_true, if_false, token_word_of]
      exact pushOr_done hperf (hq ▸ hroom) hnone
    · simp only [hdone, Bool.false_eq_true, if_false, token_word_of]
      exact pushOr_waits hperf (hq ▸ hfull)
  case qpush =>
    intro n hmine
    have hok : (!(n == 1 || (match roleOf I.blk.node n with
        | some r => r.1 == I.q
        | none => false)) || f.s.toNat % 2 != 0) = false := by
      rw [feeds_iff (d := 1) (r := Prod.fst) hmine, heven]
      rfl
    have hexec : exec (.qpush f) s = (pushOr s I I.q n (I.s2 f.s.toNat) (.qpush n (I.s2 f.s.toNat))).finish s I := by
      change execQpush f s = _
      rw [execQpush, onQuire_eq hi]
      refine congrArg (Act.finish · s I) ?_
      exact (if_neg (by rw [Bool.not_eq_true]; exact hok)).trans (withSrcs_full hs free_nil _)
    refine ⟨fun hroom hnone => ?_, fun hfull => ?_⟩
    · rw [Completes, hexec, pushOr_done hperf hroom hnone, finish_done]
    · rw [WaitsAs, hexec, pushOr_waits hperf hfull, finish_wait]
  case dqpush =>
    intro q hq
    have hbits : bits f.f9.toNat 5 4 = q := congrArg (· % 16) (Nat.shiftRight_eq_div_pow f.f9.toNat 5)
    refine ⟨fun hroom hnone => front_completes hi rfl ?_, fun hfull => front_waits hi rfl ?_⟩
    · simp only [hbits, if_neg (Nat.not_le.mpr hq), withSrcs_full hs free_nil]
      exact pushOr_done hperf hroom hnone
    · simp only [hbits, if_neg (Nat.not_le.mpr hq), withSrcs_full hs free_nil]
      exact pushOr_waits hperf hfull
  case qpop =>
    intro n hmine hlock
    refine ⟨fun v l hq hnone hgood => ?_, fun hempty hopen => ?_⟩
    · have hexec := qpop_act hi heven hd hmine hlock fun hn _ h => by
        have hq' : queueOf s I.b I.q 0 = v :: l := hn ▸ hq
        simp [hq'] at h
      have hcond : (!(queueOf s I.b I.q n).isEmpty && !popWaiting I.qr n) = true := by simp [hq, hnone]
      rw [Completes, hexec, if_pos hcond, popTo_done hq hgood, finish_done]
    · have hexec := qpop_act hi heven hd hmine hlock fun hn hdone => absurd (hopen hn) (by simp [hdone])
      have hcond : ¬(!(queueOf s I.b I.q n).isEmpty && !popWaiting I.qr n) = true := by simp [hempty]
      rw [WaitsAs, hexec, if_neg hcond, finish_wait, empty64, if_neg (Bool.eq_false_iff.mp hi.2)]
  case btok =>
    refine ⟨fun v l hq hgood => front_jumps hi rfl ?_, fun hq => front_waits hi rfl ?_⟩
    · simp only [withSrcs_full full_nil hd, hq, takeToken, hgood, Bool.false_eq_true, if_false]
    · simp only [withSrcs_full full_nil hd, hq]

/-! ## BAR and WAITB (R353, R358) -/

/-- Settles O31: the checks of each word pass, and the arrival or the completion bit decides. -/
theorem barrierAndWaitbComplete : Obligations.BarrierAndWaitbComplete := by
  constructor
  case left =>
    intro f s I hi sc hsc hgang hlive hlock
    have hexec : exec (.bar f) s = (if I.qr.arrival.isSome then Act.wait s (.bar f.scope.toNat)
        else .done (countClamp (s.updQuire I.key fun Q => Q.arriveAt (barScope sc) s.nextId) I f.scope.toNat)).finish s I := by
      have hscope : ¬(sc == 0 || (1 < sc && !I.blk.node.gang)) = true := by
        simp only [Bool.or_eq_true, beq_iff_eq, Bool.and_eq_true, decide_eq_true_eq, Bool.not_eq_true', not_or, not_and,
          Bool.not_eq_false]
        exact ⟨hsc, hgang⟩
      change execBar f s = _
      rw [execBar, onQuire_eq hi]
      refine congrArg (Act.finish · s I) ?_
      exact (if_neg hscope).trans ((if_neg (by simp [hlive])).trans (if_neg (by simp [hlock])))
    refine ⟨fun hnone => ?_, fun hsome => ?_⟩
    · rw [Completes, hexec, if_neg (by simp [hnone]), finish_done]
      rfl
    · rw [WaitsAs, hexec, if_pos (Option.isSome_iff_ne_none.mpr hsome), finish_wait]
  case right =>
    intro f s I n hi heven hs c b hc hpred hnode hb hdet
    have hsrc : (if f.s.toNat % 2 == 0 then I.srcS2 f.s.toNat else [I.srcS (f.s.toNat + 1)]) = I.srcS2 f.s.toNat :=
      if_pos (beq_iff_eq.mpr heven)
    have hcode : c.toNat >>> 4 = 0 := by rw [Nat.shiftRight_eq_div_pow]; exact Nat.div_eq_of_lt hc
    have hp : bits c.toNat 0 3 = c.toNat % 8 := rfl
    have hexec : exec (.waitb f) s = (if n.2.bits.contains b then Act.done s
        else .wait s (.waitb (c.getLsbD 3) n.1 b)).finish s I := by
      change execWaitb f s = _
      rw [execWaitb, onQuire_eq hi]
      refine congrArg (Act.finish · s I) ?_
      refine (if_neg (by rw [beq_iff_eq]; omega)).trans ?_
      rw [hsrc, withSrcs_full hs free_nil]
      refine (if_neg (by simp [c, hcode])).trans ?_
      refine (if_neg (by simp [heven])).trans ?_
      refine (if_neg ?_).trans ?_
      · simp only [Bool.and_eq_true, Bool.not_eq_true', decide_eq_true_eq, not_and, Nat.not_le]
        exact hpred
      rw [show waitbNode s I ((I.sreg (f.s.toNat + 1)).val.getLsbD 3) (bits (I.sreg (f.s.toNat + 1)).val.toNat 0 3) = some n
        from hnode]
      refine (if_neg (Nat.not_le.mpr hb)).trans (if_neg ?_)
      simp only [Bool.and_eq_true, decide_eq_true_eq, not_and, Nat.not_le, and_imp]
      exact hdet
    refine ⟨fun hin => ?_, fun hout => ?_⟩
    · rw [Completes, hexec, if_pos (List.contains_iff_mem.mpr hin), finish_done]
    · rw [WaitsAs, hexec, if_neg (hout ∘ List.contains_iff_mem.mp), finish_wait]

end Sys2Proof.TransferProofs
end


section
/-! PROOFS. The front-end's arithmetic, compares, FP32 and state words (14_control.md R314 to R317, R320, R321, R327, R328). -/

namespace Sys2Proof.FrontProofs

open Sys2Proof.Machine Sys2Proof.Safety Sys2Proof.Laws Sys2Proof.VectorProofs Sys2Proof.TransferProofs

/-! ## Integer results (R314, R315) -/

theorem mulh64_eq (a b : DWord) : mulh64 a b = BitVec.ofInt 64 (a.toInt * b.toInt / 2 ^ 64) := by
  have hprod : a.signExtend 128 * b.signExtend 128 = BitVec.ofInt 128 (a.toInt * b.toInt) := (BitVec.ofInt_mul ..).symm
  apply BitVec.eq_of_toNat_eq
  simp only [mulh64, hprod, BitVec.extractLsb'_toNat, BitVec.toNat_ofInt, Nat.shiftRight_eq_div_pow]
  generalize a.toInt * b.toInt = p
  omega

theorem divu64_eq (a b : DWord) :
    divu64 a b = if b = 0 then BitVec.allOnes 64 else BitVec.ofNat 64 (a.toNat / b.toNat) := by
  simp only [divu64, beq_iff_eq]
  refine ite_congr rfl (fun _ => rfl) fun _ => ?_
  rw [← BitVec.toNat_udiv, BitVec.ofNat_toNat, BitVec.setWidth_eq]

theorem remu64_eq (a b : DWord) : remu64 a b = if b = 0 then a else BitVec.ofNat 64 (a.toNat % b.toNat) := by
  simp only [remu64, beq_iff_eq]
  refine ite_congr rfl (fun _ => rfl) fun _ => ?_
  rw [← BitVec.toNat_umod, BitVec.ofNat_toNat, BitVec.setWidth_eq]

theorem amt64_eq (b : DWord) : amt64 b = b.toNat % 256 := rfl

theorem shl64_eq (a b : DWord) : a <<< amt64 b = if b.toNat % 256 < 64 then a <<< (b.toNat % 256) else 0 := by
  rw [amt64_eq]
  split
  · rfl
  · next h => exact BitVec.shiftLeft_eq_zero (Nat.not_lt.mp h)

theorem shr64_eq (a b : DWord) : a >>> amt64 b = if b.toNat % 256 < 64 then a >>> (b.toNat % 256) else 0 := by
  rw [amt64_eq]
  split
  · rfl
  · next h => exact BitVec.ushiftRight_eq_zero (Nat.not_lt.mp h)

theorem sar64_eq (a b : DWord) : a.sshiftRight (amt64 b) = a.sshiftRight (min (b.toNat % 256) 63) := by
  rw [amt64_eq]
  refine BitVec.eq_of_getLsbD_eq fun n hn => ?_
  simp only [BitVec.getLsbD_sshiftRight, BitVec.msb_eq_getLsbD_last]
  rcases Nat.le_total (b.toNat % 256) 63 with h | h
  · rw [Nat.min_eq_left h]
  · rw [Nat.min_eq_right h]
    split <;> split
    · rw [show b.toNat % 256 + n = 63 + n by omega]
    · omega
    · rw [show 63 + n = 64 - 1 by omega]
    · rfl

theorem if_slt64 {α : Type} (a b : DWord) (x y : α) : (if a.slt b then x else y) = if a.toInt < b.toInt then x else y := by
  simp only [BitVec.slt, decide_eq_true_eq]

theorem frontOps_exec (f : XR) (s : State) : ∀ x ∈ frontOps f, exec x.1 s = xrInt x.1 f s x.2 := by
  simp only [frontOps, List.forall_mem_cons, List.not_mem_nil, false_implies, implies_true, and_true, ← mulh64_eq, ← divu64_eq,
    ← remu64_eq, ← shl64_eq, ← shr64_eq, ← sar64_eq, ← if_slt64]
  exact ⟨rfl, rfl, rfl, rfl, rfl, rfl, rfl, rfl, rfl, rfl, rfl, rfl, rfl, rfl⟩

theorem frontImmOps_exec (f : XI) (s : State) : ∀ x ∈ frontImmOps f, exec x.1 s = xiInt x.1 f s x.2 := by
  simp only [frontImmOps, List.forall_mem_cons, List.not_mem_nil, false_implies, implies_true, and_true]
  exact ⟨rfl, rfl, rfl, rfl, rfl⟩

theorem frontFpOps_exec (f : XR) (s : State) : ∀ x ∈ frontFpOps f, exec x.1 s = xrFp x.1 f x.2.1 s x.2.2 := by
  simp only [frontFpOps, List.forall_mem_cons, List.not_mem_nil, false_implies, implies_true, and_true]
  exact ⟨rfl, rfl, rfl, rfl⟩

/-- LIH replaces the 16 bits of the half that HW names. -/
theorem lih64_bits (old : DWord) (imm : BitVec 16) (hw : BitVec 2) {n : Nat} (hn : n < 64) :
    (lih64 old imm hw.toNat).getLsbD n =
      if 16 * hw.toNat ≤ n ∧ n < 16 * hw.toNat + 16 then imm.getLsbD (n - 16 * hw.toNat) else old.getLsbD n := by
  have hmask : (0xFFFF#64 <<< (16 * hw.toNat)).getLsbD n = decide (16 * hw.toNat ≤ n ∧ n < 16 * hw.toNat + 16) := by
    rw [BitVec.getLsbD_shiftLeft, BitVec.getLsbD_ofNat, show 0xFFFF = 2 ^ 16 - 1 from rfl, Nat.testBit_two_pow_sub_one,
      Bool.eq_iff_iff]
    simp only [Bool.and_eq_true, Bool.not_eq_true', decide_eq_true_eq, decide_eq_false_iff_not]
    omega
  simp only [lih64, BitVec.getLsbD_or, BitVec.getLsbD_and, BitVec.getLsbD_not, hmask, decide_eq_true hn, Bool.true_and,
    BitVec.getLsbD_shiftLeft, BitVec.getLsbD_setWidth]
  by_cases h : 16 * hw.toNat ≤ n ∧ n < 16 * hw.toNat + 16
  · rw [decide_eq_true h, if_pos h, decide_eq_false (Nat.not_lt.mpr h.1), decide_eq_true (by omega : n - 16 * hw.toNat < 64)]
    simp only [Bool.not_true, Bool.and_false, Bool.false_or, Bool.not_false, Bool.true_and]
  · rw [decide_eq_false h, if_neg h]
    by_cases hlo : n < 16 * hw.toNat
    · simp only [hlo, decide_true, Bool.not_true, Bool.false_and, Bool.or_false, Bool.not_false, Bool.and_true]
    · have hout : imm.getLsbD (n - 16 * hw.toNat) = false := BitVec.getLsbD_of_ge _ _ (by omega)
      simp only [hout, Bool.and_false, Bool.or_false, Bool.not_false, Bool.and_true]

/-! ## Conditions (R45) -/

/-- The ten conditions on 64-bit values, in the order of their codes. -/
theorem condInt_signed64 {c : Nat} (hc : c < 10) (x y : DWord) : condInt c true 64 x.toNat y.toNat =
    [decide (x = y), decide (x ≠ y), decide (x.toInt < y.toInt), decide (x.toInt ≤ y.toInt), decide (y.toInt < x.toInt),
     decide (y.toInt ≤ x.toInt), decide (x.toNat < y.toNat), decide (x.toNat ≤ y.toNat), decide (y.toNat < x.toNat),
     decide (y.toNat ≤ x.toNat)].getD c false := by
  have hlt : decide (toSigned 64 x.toNat < toSigned 64 y.toNat) = decide (x.toInt < y.toInt) := by simp only [toSigned_eq_toInt]
  have heq : (x.toNat == y.toNat) = decide (x.toInt = y.toInt) := by
    rw [Bool.eq_iff_iff, beq_iff_eq, decide_eq_true_eq, BitVec.toInt_inj, BitVec.toNat_inj]
  have hword : (x.toNat == y.toNat) = decide (x = y) := by rw [Bool.eq_iff_iff, beq_iff_eq, decide_eq_true_eq, BitVec.toNat_inj]
  have hle : (decide (x.toInt < y.toInt) || decide (x.toInt = y.toInt)) = decide (x.toInt ≤ y.toInt) := by
    rw [← Bool.decide_or, decide_eq_decide]; omega
  have hgt : (!decide (x.toInt < y.toInt) && !decide (x.toInt = y.toInt)) = decide (y.toInt < x.toInt) := by
    rw [← decide_not, ← decide_not, ← Bool.decide_and, decide_eq_decide]; omega
  have hge : (!decide (x.toInt < y.toInt)) = decide (y.toInt ≤ x.toInt) := by rw [← decide_not, decide_eq_decide]; omega
  match c, hc with
  | 0, _ => exact hword
  | 1, _ => exact (congrArg not hword).trans decide_not.symm
  | 2, _ => exact hlt
  | 3, _ => exact (congr (congrArg or hlt) heq).trans hle
  | 4, _ => exact (congr (congrArg and (congrArg not hlt)) (congrArg not heq)).trans hgt
  | 5, _ => exact (congrArg not hlt).trans hge
  | 6, _ => rfl
  | 7, _ => rfl
  | 8, _ => rfl
  | 9, _ => rfl

theorem condInt_table {c a b : Nat} (ha : a < 2 ^ 64) (hb : b < 2 ^ 64) (hc : c < 10) : condInt c true 64 a b =
     [decide (a = b), decide (a ≠ b),
      decide ((BitVec.ofNat 64 a).toInt < (BitVec.ofNat 64 b).toInt), decide ((BitVec.ofNat 64 a).toInt ≤ (BitVec.ofNat 64 b).toInt),
      decide ((BitVec.ofNat 64 b).toInt < (BitVec.ofNat 64 a).toInt), decide ((BitVec.ofNat 64 b).toInt ≤ (BitVec.ofNat 64 a).toInt),
      decide (a < b), decide (a ≤ b), decide (b < a), decide (b ≤ a)].getD c false := by
  have h := condInt_signed64 hc (BitVec.ofNat 64 a) (BitVec.ofNat 64 b)
  have heq : (BitVec.ofNat 64 a = BitVec.ofNat 64 b) = (a = b) := by
    rw [← BitVec.toNat_inj, BitVec.toNat_ofNat, BitVec.toNat_ofNat, Nat.mod_eq_of_lt ha, Nat.mod_eq_of_lt hb]
  simp only [ne_eq, heq, BitVec.toNat_ofNat, Nat.mod_eq_of_lt ha, Nat.mod_eq_of_lt hb] at h
  exact h

/-! ## Encodings -/

theorem intCond_iff (c : BitVec 4) : intCond c = true ↔ c.toNat < 10 := by
  rw [intCond, decide_eq_true_eq, Nat.lt_succ_iff]

theorem frontOps_words (f : XR) : OpcodesFrom ((frontOps f).map (·.1)) .front 0x00 (f.f9 ++ f.xb ++ f.xa ++ f.xd) ∧
    ∀ i ∈ (frontOps f).map (·.1), i.wellFormed = true ↔ f.f9 = 0 := by
  simp only [frontOps, List.map_cons, List.map_nil, opcodesFrom_cons, opcodesFrom_nil, and_true, List.forall_mem_cons,
    List.not_mem_nil, false_implies, implies_true]
  have h : (f.f9 == 0) = true ↔ f.f9 = 0 := beq_iff_eq
  exact ⟨⟨rfl, rfl, rfl, rfl, rfl, rfl, rfl, rfl, rfl, rfl, rfl, rfl, rfl, rfl⟩, h, h, h, h, h, h, h, h, h, h, h, h, h, h⟩

theorem frontImmOps_words (f : XI) : OpcodesFrom ((frontImmOps f).map (·.1)) .front 0x10 (f.imm ++ f.xa ++ f.xd) ∧
    (∀ i ∈ [Instr.addi f, .frontAndi f, .frontOri f], i.wellFormed = true) ∧
    ∀ i ∈ [Instr.frontShli f, .frontShri f], i.wellFormed = true ↔ f.imm.toNat < 64 := by
  simp only [frontImmOps, List.map_cons, List.map_nil, opcodesFrom_cons, opcodesFrom_nil, and_true, List.forall_mem_cons,
    List.not_mem_nil, false_implies, implies_true]
  exact ⟨⟨rfl, rfl, rfl, rfl, rfl⟩, ⟨rfl, rfl, rfl⟩, decide_eq_true_iff, decide_eq_true_iff⟩

theorem single_opcode {i : Instr} {c : Cls} {o : Nat} {fields : BitVec 24} (h : encode i = some (c, BitVec.ofNat 8 o ++ fields)) :
    OpcodesFrom [i] c o fields := by
  simp only [opcodesFrom_cons, opcodesFrom_nil, and_true]
  exact h

/-- Settles O32: each word is its operation in the frame of its form, and the conditions by their codes. -/
theorem frontOpsComplete : Obligations.FrontOpsComplete := by
  refine ⟨⟨?binary, ?imm, ?li, ?lih, ?cmp, ?cmpi⟩, ⟨?fp, ?fcmps, ?fcvts⟩, frontOps_words, frontImmOps_words, ?liWords, ?cmpWords,
    ?cmpiWords, fun c a b ha hb hc => condInt_table ha hb hc⟩
  case binary => exact fun f s I i g hmem hi hs hd => front_completes hi (frontOps_exec f s _ hmem) (withSrcs_full hs hd _)
  case imm => exact fun f s I i g hmem hi hs hd => front_completes hi (frontImmOps_exec f s _ hmem) (withSrcs_full hs hd _)
  case li => exact fun f s I hi hd => front_completes hi rfl (withSrcs_full full_nil hd _)
  case lih =>
    exact fun f s I hi hs => ⟨_, front_completes hi rfl (withSrcs_full hs free_nil _), fun n hn => lih64_bits _ f.imm f.hw hn⟩
  case cmp => exact fun f s I hi hs => front_completes hi rfl (withSrcs_full hs free_nil _)
  case cmpi => exact fun f s I hi hs => front_completes hi rfl (withSrcs_full hs free_nil _)
  case fp =>
    intro f s I i three op hmem hi hs hd
    exact front_completes hi (frontFpOps_exec f s _ hmem) (withSrcs_full hs hd _)
  case fcmps => exact fun f s I hi hs => front_completes hi rfl (withSrcs_full hs free_nil _)
  case fcvts => exact fun f s I hi hs hd => front_completes hi rfl (withSrcs_full hs hd _)
  case liWords =>
    intro f
    rw [opcodesFrom_cons]
    exact ⟨⟨rfl, single_opcode rfl⟩, beq_iff_eq, rfl⟩
  case cmpWords => exact fun f => ⟨single_opcode rfl, intCond_iff f.cond⟩
  case cmpiWords => exact fun f => ⟨single_opcode rfl, intCond_iff f.cond⟩

/-! ## The loss scale (R328) -/

/-- A loss-scale word: the scale, the run and the interval. -/
def lossWord (scale run interval : Nat) : DWord := BitVec.ofNat 64 (scale + run * 2 ^ 32 + interval * 2 ^ 48)

theorem lossWord_fields {scale run interval : Nat} (hs : scale < 2 ^ 31) (hr : run < 2 ^ 16) (hi : interval < 2 ^ 16) :
    bits (lossWord scale run interval).toNat 0 32 = scale ∧ bits (lossWord scale run interval).toNat 32 16 = run ∧
    bits (lossWord scale run interval).toNat 48 16 = interval := by
  have hval : (lossWord scale run interval).toNat = scale + run * 2 ^ 32 + interval * 2 ^ 48 := by
    rw [lossWord, BitVec.toNat_ofNat]; omega
  simp only [bits, hval, Nat.shiftRight_eq_div_pow]
  omega

/-- The update on a word whose scale is a positive normal number, by its fields. -/
theorem lossScale_fields {scale run interval : Nat} {f : Word} (hs : scale < 2 ^ 31) (hr : run < 2 ^ 16) (hi : interval < 2 ^ 16)
    (hlo : 1 ≤ scale / 2 ^ 23) (hhi : scale / 2 ^ 23 ≤ 254) :
    lossScale (lossWord scale run interval) f =
      some (if f ≠ 0 then lossWord (if 2 ≤ scale / 2 ^ 23 then scale - 2 ^ 23 else scale) 0 interval
        else if interval ≠ 0 ∧ interval ≤ (run + 1) % 2 ^ 16 then
          lossWord (if scale / 2 ^ 23 < 254 then scale + 2 ^ 23 else scale) 0 interval
        else lossWord scale ((run + 1) % 2 ^ 16) interval) := by
  obtain ⟨hscale, hrun, hint⟩ := lossWord_fields hs hr hi
  have hbad : (scale / 2 ^ 23 == 0 || decide (255 ≤ scale / 2 ^ 23)) = false := by
    rw [Bool.or_eq_false_iff, beq_eq_false_iff_ne, decide_eq_false_iff_not]
    omega
  simp only [lossScale, hscale, hrun, hint, Nat.shiftRight_eq_div_pow, Nat.shiftLeft_eq, hbad, Bool.false_eq_true, if_false,
    bne_iff_ne, Bool.and_eq_true, decide_eq_true_eq, ← apply_ite some]
  rfl

/-- Settles O33: the checks of each word pass; the loss scale by the fields of its word. -/
theorem frontStateWordsComplete : Obligations.FrontStateWordsComplete := by
  refine ⟨⟨?tmset, ?tmadv, ?tmget, ?ovfget, ?lsupd, ?fexit⟩, ?scale⟩
  case tmset =>
    intro f s I hi hown hs
    exact front_completes hi rfl ((if_neg (by simp [hown])).trans (withSrcs_full hs free_nil _))
  case tmadv =>
    intro f s I hi hown hs m b hal hlo hhi
    refine front_completes hi rfl ((if_neg (by simp [hown])).trans ((withSrcs_full hs free_nil _).trans (if_neg ?_)))
    simp only [hal, bne_self_eq_false, Bool.false_or, Bool.or_eq_true, decide_eq_true_eq, not_or, Int.not_lt, Int.not_le]
    exact ⟨hlo, hhi⟩
  case tmget =>
    intro f s I hi hown hd
    exact front_completes hi rfl ((if_neg (by simp [hown])).trans (withSrcs_full full_nil hd _))
  case ovfget =>
    intro f s I hi hd hbusy
    exact front_completes hi rfl ((withSrcs_full full_nil hd _).trans (if_neg (by simp [hbusy])))
  case lsupd =>
    intro f s I v hi hs hbusy hscale
    refine front_completes hi rfl ((withSrcs_full hs free_nil _).trans ?_)
    simp only [hscale, hbusy, Bool.false_eq_true, if_false]
  case fexit =>
    intro s I hi hout
    change execFexit s = _
    rw [execFexit, onFront_eq hi, if_neg (by simp [hout]), finish_fixed]
  case scale =>
    intro scale run interval f hs hr hi e w hlo hhi
    have h := lossScale_fields (f := f) hs hr hi hlo hhi
    refine ⟨fun hf => ?_, fun hf hrun => ?_, fun hf hint hrun => ?_⟩
    · exact h.trans (congrArg some (if_pos hf))
    · exact h.trans (congrArg some ((if_neg (not_not_intro hf)).trans (if_neg fun hx => by omega)))
    · exact h.trans (congrArg some ((if_neg (not_not_intro hf)).trans (if_pos ⟨hint, hrun⟩)))

end Sys2Proof.FrontProofs
end


section
/-! PROOFS. The memory words (07_local_memory.md R157 to R170, 14_control.md R318): what the translated accesses of a word meet,
then the frames that make them. -/

namespace Sys2Proof.MemoryProofs

open Sys2Proof.Machine Sys2Proof.Safety Sys2Proof.Laws Sys2Proof.VectorProofs Sys2Proof.ControlProofs Sys2Proof.TransferProofs

/-! ## What translated accesses meet, in the order of R162 -/

section Verdict

variable {s : State} {I : Issuer} {write whole : Bool} {xs : List Located} {y z : Located} {l : List Located} {c : Cause} {r lv : Nat}

/-- The trap of a cause for the accesses that meet it. -/
def metTrap (I : Issuer) (whole : Bool) (c : Cause) (info : DWord) (l : List Located) : Trap :=
  { cause := c, info := info, mask := I.faulters whole (l.map fun y : Located => y.req.thread) }

/-- An access whose walk has ended: its leaf answers it, or refuses it. -/
def Walked (z : Located) : Prop := (∃ g k c, z.xl = .ok g k c) ∨ ∃ r l, z.xl = .fault .protection r l

theorem xlFault_of_ok (h : ∃ g k c, z.xl = .ok g k c) (c : Cause) : xlFault c z = none := by
  obtain ⟨g, k, cnt, h⟩ := h
  simp only [xlFault, h]

theorem xlFault_pageFault (h : Walked z) : xlFault .pageFault z = none := by
  rcases h with h | ⟨r, l, h⟩
  · exact xlFault_of_ok h _
  · simp only [xlFault, h]
    rfl

theorem Walked.heldAt (h : Walked z) : z.heldAt = none := by
  rcases h with ⟨g, k, cnt, h⟩ | ⟨r, l, h⟩ <;> simp only [Located.heldAt, h]

theorem Walked.atsAt (h : Walked z) : z.atsAt = none := by
  rcases h with ⟨g, k, cnt, h⟩ | ⟨r, l, h⟩ <;> simp only [Located.atsAt, h]

theorem Walked.walkErr (h : Walked z) : z.walkErr = none := by
  rcases h with ⟨g, k, cnt, h⟩ | ⟨r, l, h⟩ <;> simp only [Located.walkErr, h]

theorem Walked.not_blocked (h : Walked z) : (z.xl == Xl.blocked) = false := by
  rw [beq_eq_false_iff_ne]
  rcases h with ⟨g, k, cnt, h⟩ | ⟨r, l, h⟩ <;> simp only [h, ne_eq, reduceCtorEq, not_false_eq_true]

theorem faultTrap_none (h : ∀ z ∈ xs, xlFault c z = none) : faultTrap I write whole c xs = none := by
  have hnil : (xs.filter fun x => (xlFault c x).isSome) = [] :=
    List.filter_eq_nil_iff.mpr fun z hz => by simp only [h z hz, Option.isSome_none, Bool.false_eq_true, not_false_eq_true]
  rw [faultTrap, hnil]

theorem faultTrap_first (h : xs.filter (fun x => (xlFault c x).isSome) = y :: l) (hy : y.xl = .fault c r lv) :
    faultTrap I write whole c xs = some (metTrap I whole c (faultInfo y.req.va r lv write 0) (y :: l)) := by
  have hx : xlFault c y = some (r, lv) := by simp only [xlFault, hy, beq_self_eq_true, if_true]
  rw [faultTrap, h]
  simp only [hx, Option.getD_some, metTrap]

/-- With every walk ended, the leaves' refusals, then sealed regions, then digit bytes decide. -/
theorem verdict_walked (h : ∀ z ∈ xs, Walked z) : verdict s I write whole xs =
    (([faultTrap I write whole .protection xs,
       kindTrap I write whole 1 (xs.filter fun x => write && x.sealedAt s I.blk.part),
       kindTrap I write whole 2 (xs.filter Located.notPlain)].filterMap id).head?).elim .go .trap := by
  have hfault : faultTrap I write whole .pageFault xs = none := faultTrap_none fun z hz => xlFault_pageFault (h z hz)
  have hheld : xs.filterMap Located.heldAt = [] := List.filterMap_eq_nil_iff.mpr fun z hz => (h z hz).heldAt
  have hats : xs.findSome? Located.atsAt = none := List.findSome?_eq_none_iff.mpr fun z hz => (h z hz).atsAt
  have hblocked : (xs.any fun x => x.xl == Xl.blocked) = false :=
    List.any_eq_false.mpr fun z hz => Bool.eq_false_iff.mp (h z hz).not_blocked
  have herr : (xs.filterMap Located.walkErr).head? = none := by
    rw [List.filterMap_eq_nil_iff.mpr fun z hz => (h z hz).walkErr, List.head?_nil]
  simp only [verdict, hfault, hheld, hats, hblocked, herr, Bool.false_eq_true, if_false]
  rw [List.filterMap_cons_none (show id none = none from rfl)]
  generalize List.filterMap id _ = found
  cases found <;> rfl

theorem verdict_pageFault (h : xs.filter (fun x => (xlFault .pageFault x).isSome) = y :: l) (hy : y.xl = .fault .pageFault r lv) :
    verdict s I write whole xs = .trap (metTrap I whole .pageFault (faultInfo y.req.va r lv write 0) (y :: l)) := by
  simp only [verdict, faultTrap_first h hy]

theorem verdict_protection (hw : ∀ z ∈ xs, Walked z) (h : xs.filter (fun x => (xlFault .protection x).isSome) = y :: l)
    (hy : y.xl = .fault .protection r lv) :
    verdict s I write whole xs = .trap (metTrap I whole .protection (faultInfo y.req.va r lv write 0) (y :: l)) := by
  rw [verdict_walked hw, faultTrap_first h hy]
  rfl

theorem verdict_sealed (hok : ∀ z ∈ xs, ∃ g k c, z.xl = .ok g k c)
    (h : (xs.filter fun x => write && x.sealedAt s I.blk.part) = y :: l) :
    verdict s I write whole xs = .trap (metTrap I whole .protection (faultInfo y.req.va 0 3 write 1) (y :: l)) := by
  rw [verdict_walked fun z hz => .inl (hok z hz), faultTrap_none fun z hz => xlFault_of_ok (hok z hz) _, h]
  rfl

theorem verdict_notPlain (hok : ∀ z ∈ xs, ∃ g k c, z.xl = .ok g k c)
    (hseal : (xs.filter fun x => write && x.sealedAt s I.blk.part) = []) (h : xs.filter Located.notPlain = y :: l) :
    verdict s I write whole xs = .trap (metTrap I whole .protection (faultInfo y.req.va 0 3 write 2) (y :: l)) := by
  rw [verdict_walked fun z hz => .inl (hok z hz), faultTrap_none fun z hz => xlFault_of_ok (hok z hz) _, hseal, h]
  rfl

end Verdict

theorem memIssue_trap {s : State} {I : Issuer} {write whole : Bool} {rs : List MemReq} {dest : Dest} {acq : Nat}
    {mark : State → State} {t : Trap} (h : verdict (translateAll s I write rs).1 I write whole (translateAll s I write rs).2 = .trap t) :
    memIssue s I write whole rs dest acq mark = .trap t := by
  simp only [memIssue, h, XlVerdict.meets]

/-- A word that passes on the traps of its accesses traps as their translations say. -/
theorem translation_traps {i : Instr} {s : State} {I : Issuer} {write whole : Bool} {rs : List MemReq} {dest : Dest} {acq : Nat}
    {mark : State → State} (h : ∀ t, memIssue s I write whole rs dest acq mark = .trap t → Traps i s t) :
    TranslationTraps i s I write whole rs := by
  unfold TranslationTraps
  intro x meets isOk mask
  have hmeets : ∀ c y, meets c y = (xlFault c y).isSome := by
    intro c y
    simp only [meets, xlFault]
    cases y.xl with
    | fault c' r l => simp only [apply_ite Option.isSome, Option.isSome_some, Option.isSome_none, Bool.if_false_right, Bool.and_true, Bool.decide_eq_true]
    | _ => rfl
  have hok : ∀ z, isOk z = true → ∃ g k c, z.xl = .ok g k c := by
    intro z hz
    cases hx : z.xl with
    | ok g k c => exact ⟨g, k, c, rfl⟩
    | _ => simp only [isOk, hx, Bool.false_eq_true] at hz
  have hwalked : ∀ z, isOk z = true ∨ meets .protection z = true → Walked z := by
    rintro z (hz | hz)
    · exact .inl (hok z hz)
    · cases hx : z.xl with
      | fault c' r l =>
        simp only [meets, hx, beq_iff_eq] at hz
        exact .inr ⟨r, l, hx.trans (by rw [hz])⟩
      | _ => simp only [meets, hx, Bool.false_eq_true] at hz
  have hfun : ∀ c, meets c = fun y => (xlFault c y).isSome := fun c => funext (hmeets c)
  refine ⟨fun y l r lv hfirst hy => ?_, fun y l r lv hall hfirst hy => ?_, fun y l hall hw hfirst => ?_,
    fun y l hall hunsealed hfirst => ?_⟩
  · rw [hfun] at hfirst
    exact h _ (memIssue_trap (verdict_pageFault hfirst hy))
  · rw [hfun] at hfirst
    exact h _ (memIssue_trap (verdict_protection (fun z hz => hwalked z (hall z hz)) hfirst hy))
  · refine h _ (memIssue_trap (verdict_sealed (fun z hz => hok z (hall z hz)) ?_))
    simp only [hw, Bool.true_and]
    exact hw ▸ hfirst
  · refine h _ (memIssue_trap (verdict_notPlain (fun z hz => hok z (hall z hz)) ?_ hfirst))
    refine List.filter_eq_nil_iff.mpr fun z hz => ?_
    rw [Bool.and_eq_true, not_and]
    intro hw
    rw [hunsealed hw z hz]
    exact Bool.false_ne_true

theorem faultInfo_fields {va r l p : Nat} (w : Bool) (hr : r < 8) (hl : l < 4) (hp : p < 4) :
    let v := (faultInfo va r l w p).toNat
    bits v 0 52 = va % 2 ^ 52 ∧ bits v 52 3 = r ∧ bits v 55 2 = l ∧ bits v 57 1 = (if w then 1 else 0) ∧ bits v 58 1 = 0 ∧
    bits v 59 2 = p ∧ bits v 61 3 = 0 := by
  have hva : va % 2 ^ 52 < 2 ^ 52 := Nat.mod_lt _ (by decide)
  simp only [faultInfo, bits, BitVec.toNat_ofNat, Nat.shiftRight_eq_div_pow, Nat.shiftLeft_eq]
  generalize va % 2 ^ 52 = a at hva ⊢
  cases w <;> simp only [Bool.false_eq_true, if_false, if_true] <;> omega

/-! ## The checks before the accesses (R158, R159) -/

section Checks

variable {s : State} {I : Issuer} {i : Instr} {write : Bool} {b : Nat} {addr : Nat → Nat} {vals : List (Nat → Nat)} {off : List Nat}
  {rs : List MemReq} {dest : Dest} {acq : Nat} {mark : State → State} {a : Act}

/-- Threads without a majority first, then misaligned ones, then the accesses. -/
def checked (I : Issuer) (split off : List Nat) (addr : Nat → Nat) (a : Act) : Act :=
  if split ≠ [] then I.badThreads split
  else if off ≠ [] then .trap { cause := .align, info := BitVec.ofNat 64 (I.maj addr (off.headD 0) % 2 ^ 52)
                                mask := some (maskOfThreads I.ter off) }
  else a

theorem split_nil {fs : List (Nat → Nat)} (h : Agree I fs) : I.split fs = [] := by
  refine List.filter_eq_nil_iff.mpr fun t ht => ?_
  rw [Bool.not_eq_true, List.any_eq_false]
  intro f hf
  rw [Option.isNone_eq_false_iff.mpr (h t ht f hf)]
  exact Bool.false_ne_true

theorem checked_passes (hsplit : Agree I (addr :: vals)) (hoff : off = []) : checked I (I.split (addr :: vals)) off addr a = a := by
  rw [checked, split_nil hsplit, hoff, if_neg (not_not_intro rfl), if_neg (not_not_intro rfl)]

theorem offThreads_nil (h : Aligned I b addr) : offThreads I b addr = [] :=
  List.filter_eq_nil_iff.mpr fun t ht => by simp only [h t ht, bne_self_eq_false, Bool.false_eq_true, not_false_eq_true]

/-- ALIGN of some threads at their addresses. -/
theorem alignTrap_threads (hfe : I.fe = false) (off : List Nat) : alignTrap I false (off.map fun i => (i, I.maj addr i)) =
    if off ≠ [] then some { cause := .align, info := BitVec.ofNat 64 (I.maj addr (off.headD 0) % 2 ^ 52)
                            mask := some (maskOfThreads I.ter off) }
    else none := by
  cases off with
  | nil => rfl
  | cons x t =>
    have hfst : (t.map fun i => (i, I.maj addr i)).map (·.1) = t := by rw [List.map_map]; exact List.map_id _
    simp only [alignTrap, List.map_cons, hfe, Bool.or_self, Bool.false_eq_true, if_false, ne_eq, reduceCtorEq, not_false_eq_true,
      if_true, List.headD_cons, hfst]

theorem misaligned_threads : misaligned (I.threads.map fun i => (i, I.maj addr i)) b =
    (offThreads I b addr).map fun i => (i, I.maj addr i) := by
  rw [misaligned, List.filter_map]
  rfl

/-- A list of faulting threads, then an alignment trap, then the accesses: the shape of the frames. -/
theorem checked_eq (hfe : I.fe = false) (split off : List Nat) {l : List (Nat × Nat)} (hl : l = off.map fun i => (i, I.maj addr i)) :
    (match split with
     | x :: t => I.badThreads (x :: t)
     | [] => match alignTrap I false l with
       | some t => .trap t
       | none => a) = checked I split off addr a := by
  subst hl
  rw [alignTrap_threads hfe]
  cases split with
  | cons x t => rfl
  | nil => cases off <;> rfl

theorem perThread_checked (hfe : I.fe = false) {act : Nat → LaneAct} :
    perThread s I write b addr vals false act dest acq mark =
      checked I (I.split (addr :: vals)) (offThreads I b addr) addr (memIssue s I write false (eachThread I addr act) dest acq mark) :=
  checked_eq hfe _ _ misaligned_threads

/-- A word that is its checks and accesses, but for what follows a completed access, traps as ThreadTraps says. -/
theorem thread_traps {after : Act → Act} (hi : QuireIssues s i I) (hafter : ∀ t, after (.trap t) = .trap t)
    (hexec : exec i s = (after (checked I (I.split (addr :: vals)) off addr (memIssue s I write false rs dest acq mark))).finish s I) :
    ThreadTraps i s I write off addr vals rs := by
  obtain ⟨-, hword⟩ := issuerOf_unit hi.1.1
  have htraps : ∀ t, checked I (I.split (addr :: vals)) off addr (memIssue s I write false rs dest acq mark) = .trap t →
      Traps i s t := by
    intro t ht
    rw [Traps, hexec, ht, hafter, finish_trap, QuireIssues.unit hi]
  refine ⟨fun hsplit => htraps _ ?_, fun hsplit hoff => htraps _ ?_, fun hsplit hoff =>
    translation_traps (dest := dest) (acq := acq) (mark := mark) fun t ht => htraps _ ?_⟩
  · rw [checked, if_pos (show I.split (addr :: vals) ≠ [] from hsplit), Issuer.badThreads, hword]
    rfl
  · rw [checked, if_neg (not_not_intro (show I.split (addr :: vals) = [] from hsplit)), if_pos hoff]
  · rw [checked, if_neg (not_not_intro (show I.split (addr :: vals) = [] from hsplit)), if_neg (not_not_intro hoff), ht]

/-- A word that is its accesses performs them. -/
theorem performs_of_exec {whole : Bool} (hexec : exec i s = (memIssue s I write whole rs dest acq mark).finish s I)
    (hr : Reaches s I write whole rs) : Performs i s I write whole rs dest acq mark := by
  obtain ⟨t, ht⟩ := memIssue_done (dest := dest) (acq := acq) (mark := mark) hr
  exact ⟨t, ht, by rw [Completes, hexec, ht, finish_done]⟩

theorem performs_of_checked (hexec : exec i s = (checked I (I.split (addr :: vals)) off addr
      (memIssue s I write false rs dest acq mark)).finish s I)
    (hag : Agree I (addr :: vals)) (hoff : off = []) (hr : Reaches s I write false rs) :
    Performs i s I write false rs dest acq mark :=
  performs_of_exec (by rw [hexec, checked_passes hag hoff]) hr

end Checks

/-! ## LD and ST (R163) -/

section Vector

variable {s : State} {I : Issuer} {f : MV}

theorem ld_exec (hi : QuireIssues s (.ld f) I) (hok : mvOk f I (regsOfWidth f.width.toNat) = true) (hs : Full (mvSrcs f I))
    (hd : Free (I.srcGroup f.data.toNat (regsOfWidth f.width.toNat))) :
    exec (.ld f) s = (checked I (I.split [mvAddr f I]) (offThreads I (2 ^ f.width.toNat) (mvAddr f I)) (mvAddr f I)
      (memIssue s I false false (eachThread I (mvAddr f I) fun _ => .rd (2 ^ f.width.toNat))
        (.vreg f.data.toNat (regsOfWidth f.width.toNat) (2 ^ f.width.toNat) (f.sx == 1)) 0
        (fun s => emptyGroup s I f.data.toNat (regsOfWidth f.width.toNat)))).finish s I := by
  change execLd f s = _
  rw [execLd, onQuire_eq hi]
  refine congrArg (Act.finish · s I) ?_
  exact (if_neg (by simp [hok])).trans ((withSrcs_full hs hd _).trans (perThread_checked hi.2))

theorem st_exec (hi : QuireIssues s (.st f) I) (hok : mvOk f I (regsOfWidth f.width.toNat) = true)
    (hs : Full (mvSrcs f I ++ I.srcGroup f.data.toNat (regsOfWidth f.width.toNat))) :
    let g := I.group f.data.toNat (regsOfWidth f.width.toNat)
    exec (.st f) s = (checked I (I.split [mvAddr f I, g]) (offThreads I (2 ^ f.width.toNat) (mvAddr f I)) (mvAddr f I)
      (memIssue s I true false (eachThread I (mvAddr f I) fun i => .wr (leBytes (2 ^ f.width.toNat) (I.maj g i)))
        .none 0 id)).finish s I := by
  intro g
  change execSt f s = _
  rw [execSt, onQuire_eq hi]
  refine congrArg (Act.finish · s I) ?_
  exact (if_neg (by simp [hok])).trans ((withSrcs_full hs free_nil _).trans (perThread_checked hi.2))

/-! ## LDT and STT (R164) -/

/-- The threads of misaligned elements, or of elements whose digit byte is not at a whole element. -/
def offElems (s : State) (f : MV) (I : Issuer) (write : Bool) : List (Nat × Option Nat) :=
  (elemKinds s I f write).filter fun x => I.maj (mvAddr f I) x.1 % mvEs f != 0 ||
    (x.2 == some 2 && I.maj (fun l => ((I.vreg f.va.toNat).at l).toNat) x.1 % mvEs f != 0)

theorem tripleFrame_exec {i : Instr} {write : Bool} {k : Issuer → List (Nat × Option Nat) → Act} (hi : QuireIssues s i I)
    (hok : mvOk f I (if mvF64 f then 2 else 1) = true) (hsb : f.sb.toNat ≤ 28)
    (hs : Full (mvSrcs f I ++ [I.srcS (f.sb.toNat + 2)] ++
      if write then I.srcGroup f.data.toNat (if mvF64 f then 2 else 1) else []))
    (hd : Free (if write then [] else I.srcGroup f.data.toNat (if mvF64 f then 2 else 1))) :
    tripleFrame i f s write k = (checked I (I.split [mvAddr f I]) ((offElems s f I write).map (·.1)) (mvAddr f I)
      (k I (elemKinds s I f write))).finish s I := by
  rw [tripleFrame, onQuire_eq hi]
  refine congrArg (Act.finish · s I) ?_
  refine (if_neg (by simp [hok, hsb])).trans ((withSrcs_full hs hd _).trans (checked_eq hi.2 _ _ ?_))
  rw [offElems, List.map_map]
  rfl

theorem offElems_nil {write : Bool} (h : ∀ x ∈ elemKinds s I f write, I.maj (mvAddr f I) x.1 % mvEs f = 0 ∧
      (x.2 = some 2 → I.maj (fun l => ((I.vreg f.va.toNat).at l).toNat) x.1 % mvEs f = 0)) :
    (offElems s f I write).map (·.1) = [] := by
  rw [List.map_eq_nil_iff]
  refine List.filter_eq_nil_iff.mpr fun x hx => ?_
  obtain ⟨hal, hdig⟩ := h x hx
  simp only [hal, bne_self_eq_false, Bool.false_or, Bool.and_eq_true, beq_iff_eq, bne_iff_ne, not_and, Classical.not_not]
  exact hdig

/-- LDT: the accesses of each element. -/
theorem ldt_exec (hi : QuireIssues s (.ldt f) I) (hok : mvOk f I (if mvF64 f then 2 else 1) = true) (hsb : f.sb.toNat ≤ 28)
    (hs : Full (mvSrcs f I ++ [I.srcS (f.sb.toNat + 2)])) (hd : Free (I.srcGroup f.data.toNat (if mvF64 f then 2 else 1))) :
    let ks := elemKinds s I f false
    exec (.ldt f) s = (checked I (I.split [mvAddr f I]) ((offElems s f I false).map (·.1)) (mvAddr f I)
      (memIssue s I false false (ks.flatMap fun x => elemReqs f I x.1 x.2 (.rd (mvEs f)) (fun _ k => .rd k) (.rd 1))
        (.ldt f.data.toNat (mvF64 f) (ks.map fun x => (x.1, x.2.getD 0))) 0
        (fun s => emptyGroup s I f.data.toNat (if mvF64 f then 2 else 1)))).finish s I := by
  intro ks
  have hs' : Full (mvSrcs f I ++ [I.srcS (f.sb.toNat + 2)] ++
      if false = true then I.srcGroup f.data.toNat (if mvF64 f then 2 else 1) else []) := by
    rw [if_neg Bool.false_ne_true, List.append_nil]
    exact hs
  change execLdt f s = _
  rw [execLdt, tripleFrame_exec hi hok hsb hs' hd]

/-- STT: the accesses of each element. -/
theorem stt_exec (hi : QuireIssues s (.stt f) I) (hok : mvOk f I (if mvF64 f then 2 else 1) = true) (hsb : f.sb.toNat ≤ 28)
    (hs : Full (mvSrcs f I ++ [I.srcS (f.sb.toNat + 2)] ++ I.srcGroup f.data.toNat (if mvF64 f then 2 else 1))) :
    exec (.stt f) s = (checked I (I.split [mvAddr f I]) ((offElems s f I true).map (·.1)) (mvAddr f I)
      (memIssue s I true false ((elemKinds s I f true).flatMap fun x =>
        elemReqs f I x.1 x.2 (.wr (leBytes (mvEs f) (sttMean f I x.1)))
          (fun o k => .wr ((((sttSiblings f I x.1).flatMap (leBytes (mvEs f))).drop o).take k))
          (.wr (leBytes 1 (sttDigit f I x.1)))) .none 0 id)).finish s I := by
  change execStt f s = _
  rw [execStt, tripleFrame_exec (write := true) hi hok hsb hs free_nil]

end Vector

/-! ## LDU and STU, and the front-end's words (R167, R318) -/

/-- An access made once, at an address that must be a multiple of b. -/
def onceAt (s : State) (I : Issuer) (write : Bool) (b thread a : Nat) (act : LaneAct) (dest : Dest) (acq : Nat)
    (mark : State → State) : Act :=
  if a % b ≠ 0 then .trap { cause := .align, info := BitVec.ofNat 64 (a % 2 ^ 52) }
  else memIssue s I write true [{ key := 0, thread := thread, va := a, act := act }] dest acq mark

theorem misaligned_one (a b : Nat) : misaligned [(0, a)] b = if a % b ≠ 0 then [(0, a)] else [] := by
  simp only [misaligned, List.filter, bne]
  by_cases h : a % b = 0
  · simp only [h, beq_self_eq_true, Bool.not_true, ne_eq, not_true_eq_false, if_false]
  · simp only [beq_eq_false_iff_ne.mpr h, Bool.not_false, ne_eq, h, not_false_eq_true, if_true]

theorem onceForSlot_eq (s : State) (I : Issuer) (write : Bool) (b a : Nat) (act : LaneAct) (dest : Dest) (mark : State → State) :
    onceForSlot s I write b a act dest mark = onceAt s I write b (I.threads.headD 0) a act dest 0 mark := by
  rw [onceForSlot, onceAt, misaligned_one]
  by_cases h : a % b = 0
  · rw [if_neg (not_not_intro h), if_neg (not_not_intro h)]
    rfl
  · rw [if_pos h, if_pos h]
    rfl

theorem frontAccess_eq (s : State) (I : Issuer) (write : Bool) (a : Nat) (act : LaneAct) (dest : Dest) (acq : Nat)
    (mark : State → State) : frontAccess s I write a act dest acq mark = onceAt s I write 8 0 a act dest acq mark := by
  rw [frontAccess, onceAt, misaligned_one]
  by_cases h : a % 8 = 0
  · rw [if_neg (not_not_intro h), if_neg (not_not_intro h)]
    rfl
  · rw [if_pos h, if_pos h]
    rfl

theorem onceAt_aligned {s : State} {I : Issuer} {write : Bool} {b thread a : Nat} {act : LaneAct} {dest : Dest} {acq : Nat}
    {mark : State → State} (h : a % b = 0) : onceAt s I write b thread a act dest acq mark =
      memIssue s I write true [{ key := 0, thread := thread, va := a, act := act }] dest acq mark :=
  if_neg (not_not_intro h)

section Slot

variable {s : State} {I : Issuer} {f : MU}

theorem ldu_exec (hi : QuireIssues s (.ldu f) I) (hsb : f.sb.toNat % 2 = 0) (hsd : f.width = 3 → f.sd.toNat % 2 = 0)
    (hs : Full (I.srcS2 f.sb.toNat)) (hd : Free (if f.width = 3 then I.srcS2 f.sd.toNat else [I.srcS f.sd.toNat])) :
    exec (.ldu f) s = (onceAt s I false (2 ^ f.width.toNat) (I.threads.headD 0) (muAddr f I) (.rd (2 ^ f.width.toNat))
      (.sreg f.sd.toNat (2 ^ f.width.toNat) (f.sx == 1) (I.sbank f.sd.toNat)) 0
      (fun s => if f.width == 3 then emptyS (emptyS s I f.sd.toNat) I (f.sd.toNat + 1) else emptyS s I f.sd.toNat)).finish s I := by
  change execLdu f s = _
  rw [execLdu, onQuire_eq hi]
  refine congrArg (Act.finish · s I) ?_
  refine (if_neg ?_).trans ((withSrcs_full hs ?_ _).trans (onceForSlot_eq ..))
  · simpa [hsb] using hsd
  · simpa only [beq_iff_eq] using hd

theorem stu_exec (hi : QuireIssues s (.stu f) I) (hsb : f.sb.toNat % 2 = 0) (hsd : f.width = 3 → f.sd.toNat % 2 = 0)
    (hs : Full (I.srcS2 f.sb.toNat ++ if f.width = 3 then I.srcS2 f.sd.toNat else [I.srcS f.sd.toNat])) :
    exec (.stu f) s = (onceAt s I true (2 ^ f.width.toNat) (I.threads.headD 0) (muAddr f I)
      (.wr (leBytes (2 ^ f.width.toNat) (I.sval (f.width == 3) f.sd.toNat))) .none 0 id).finish s I := by
  change execStu f s = _
  rw [execStu, onQuire_eq hi]
  refine congrArg (Act.finish · s I) ?_
  refine (if_neg ?_).trans ((withSrcs_full ?_ free_nil _).trans (onceForSlot_eq ..))
  · simpa [hsb] using hsd
  · simpa only [beq_iff_eq] using hs

end Slot

/-- An access made once for the slot traps on its address, then as its translation says. -/
theorem once_traps {i : Instr} {s : State} {I : Issuer} {write : Bool} {b thread a : Nat} {act : LaneAct} {dest : Dest} {acq : Nat}
    {mark : State → State} (hi : QuireIssues s i I) (hexec : exec i s = (onceAt s I write b thread a act dest acq mark).finish s I) :
    (a % b ≠ 0 → Traps i s { cause := .align, info := BitVec.ofNat 64 (a % 2 ^ 52) }) ∧
    (a % b = 0 → TranslationTraps i s I write true [{ key := 0, thread := thread, va := a, act := act }]) := by
  refine ⟨fun hoff => ?_, fun hal => translation_traps (dest := dest) (acq := acq) (mark := mark) fun t ht => ?_⟩
  · rw [Traps, hexec, onceAt, if_pos hoff, finish_trap, QuireIssues.unit hi]
  · rw [Traps, hexec, onceAt_aligned hal, ht, finish_trap, QuireIssues.unit hi]

/-! ## Atomics (R168 to R170, R182) -/

/-- What follows an atomic: a clamped scope is counted. -/
def thenClamp (I : Issuer) (scope : Nat) : Act → Act
  | .done s => .done (countClamp s I scope)
  | a => a

theorem thenClamp_eq (I : Issuer) (scope : Nat) (a : Act) :
    (match a with
     | .done s => .done (countClamp s I scope)
     | a => a) = thenClamp I scope a := by
  cases a <;> rfl

/-- The access of each thread of a global atomic. -/
def atomReqs (f : MA) (I : Issuer) (kind : AtomKind) (two : Bool) : List MemReq :=
  let n := if f.w64 == 1 then 2 else 1
  let cmp := I.group f.data.toNat n
  eachThread I (I.vval true f.va.toNat) fun i => .amo
    { kind := kind, op := f.op.toNat, w64 := f.w64 == 1
      v := BitVec.ofNat 64 (I.maj (if two then I.group (f.data.toNat + n) n else cmp) i)
      cmp := BitVec.ofNat 64 (I.maj cmp i), ret := f.nr == 0 }

theorem performsAtomic_of_exec {i : Instr} {s : State} {I : Issuer} {whole : Bool} {rs : List MemReq} {dest : Dest} {scope : Nat}
    {mark : State → State} (hexec : exec i s = (thenClamp I scope
      (memIssue s I true whole rs dest (acqOf (I.scope scope)) mark)).finish s I) (hr : Reaches s I true whole rs) :
    PerformsAtomic i s I whole rs dest scope mark := by
  obtain ⟨t, ht⟩ := memIssue_done (dest := dest) (acq := acqOf (I.scope scope)) (mark := mark) hr
  exact ⟨t, ht, by rw [Completes, hexec, ht, thenClamp, finish_done]⟩

section Atomic

variable {s : State} {I : Issuer} {f : MA} {i : Instr} {kind : AtomKind} {two : Bool}

/-- The three atomics share one frame. -/
theorem atom_frame (h : (i, kind, two) ∈ [(Instr.atom f, AtomKind.atom, false), (Instr.acas f, AtomKind.acas, true),
      (Instr.fatom f, AtomKind.fatom, false)]) (s : State) : exec i s = atomFrame i f s kind two := by
  simp only [List.mem_cons, Prod.mk.injEq, List.not_mem_nil, or_false] at h
  rcases h with ⟨rfl, rfl, rfl⟩ | ⟨rfl, rfl, rfl⟩ | ⟨rfl, rfl, rfl⟩ <;> rfl

theorem atom_exec (h : (i, kind, two) ∈ [(Instr.atom f, AtomKind.atom, false), (Instr.acas f, AtomKind.acas, true),
      (Instr.fatom f, AtomKind.fatom, false)]) (hi : QuireIssues s i I) :
    let n := if f.w64 == 1 then 2 else 1
    let n2 := if two then 2 * n else n
    let d := f.data.toNat
    let addr := I.vval true f.va.toNat
    let cmp := I.group d n
    let new := I.group (d + n) n
    I.vWide true f.va.toNat = true → d % (if f.w64 = 1 then n2 else 1) = 0 → I.vOk d n2 = true →
    Full (I.srcV2 true f.va.toNat (f.ea == 1) ++ I.srcGroup d n2) → (kind = .fatom → I.blk.node.det = false) →
    ReleaseDone s I f.scope.toNat →
    exec i s = (thenClamp I f.scope.toNat (checked I (I.split (addr :: cmp :: if two then [new] else []))
      (offThreads I (4 * n) addr) addr (memIssue s I true false (atomReqs f I kind two)
        (if f.nr == 0 then .vreg d n (4 * n) false else .none) (acqOf (I.scope f.scope.toNat))
        (fun s => if f.nr == 0 then emptyGroup s I d n else s)))).finish s I := by
  intro n n2 d addr cmp new hwide hal hok hs hdet hrel
  have hdetB : (kind == .fatom && I.blk.node.det) = false := by
    by_cases hk : kind = .fatom
    · rw [hdet hk, Bool.and_false]
    · rw [beq_eq_false_iff_ne.mpr hk, Bool.false_and]
  rw [atom_frame h, atomFrame, onQuire_eq hi]
  refine congrArg (Act.finish · s I) ?_
  refine (if_neg ?_).trans ((withSrcs_full hs free_nil _).trans ((if_neg ?_).trans ?_))
  · have hal' : (d % (if f.w64 == 1 then n2 else 1) == 0) = true := by simpa only [beq_iff_eq] using hal
    have hall : (I.vWide true f.va.toNat && (d % (if f.w64 == 1 then n2 else 1) == 0 && I.vOk d n2)) = true := by
      rw [hwide, hal', hok]
      rfl
    exact Bool.eq_false_iff.mp (congrArg not hall)
  · rw [show unperformed s I.u I.mask s.nextId (I.scope f.scope.toNat) = false from hrel, Bool.false_and]
    exact Bool.false_ne_true
  · rw [hdetB]
    exact (thenClamp_eq I f.scope.toNat _).trans (congrArg _ (perThread_checked hi.2))

end Atomic

/-! ## The words -/

section Front

variable {s : State} {I : Issuer}

theorem ldx_exec {f : XI} (hi : FrontIssues s (.ldx f) I) (hs : Full [I.srcX f.xa.toNat]) (hd : Free [I.srcX f.xd.toNat]) :
    exec (.ldx f) s = (onceAt s I false 8 0 ((I.xreg f.xa.toNat).val + f.imm.signExtend 64).toNat (.rd 8)
      (.xreg f.xd.toNat true (I.xbank f.xd.toNat)) 0 (fun s => emptyX s I f.xd.toNat)).finish s I := by
  change execLdx f s = _
  rw [execLdx, onFront_eq hi, withSrcs_full hs hd, frontAccess_eq]

theorem stx_exec {f : XI} (hi : FrontIssues s (.stx f) I) (hs : Full [I.srcX f.xa.toNat, I.srcX f.xd.toNat]) :
    exec (.stx f) s = (onceAt s I true 8 0 ((I.xreg f.xa.toNat).val + f.imm.signExtend 64).toNat
      (.wr (leBytes 8 (I.xreg f.xd.toNat).val.toNat)) .none 0 id).finish s I := by
  change execStx f s = _
  rw [execStx, onFront_eq hi, withSrcs_full hs free_nil, frontAccess_eq]

theorem atmx_exec {f : XR} (hi : FrontIssues s (.atmx f) I) (hs : Full [I.srcX f.xa.toNat, I.srcX f.xb.toNat])
    (hd : Free [I.srcX f.xd.toNat]) (hrel : ReleaseDone s I (bits f.f9.toNat 2 3)) :
    exec (.atmx f) s = (thenClamp I (bits f.f9.toNat 2 3) (onceAt s I true 8 0 (I.xreg f.xa.toNat).val.toNat
      (.amo { kind := .atom, op := bits f.f9.toNat 5 4, w64 := true, v := (I.xreg f.xb.toNat).val })
      (.xreg f.xd.toNat true (I.xbank f.xd.toNat)) (acqOf (I.scope (bits f.f9.toNat 2 3)))
      (fun s => emptyX s I f.xd.toNat))).finish s I := by
  have hgo : ¬ (unperformed s I.u I.mask s.nextId (I.scope (bits f.f9.toNat 2 3)) &&
      (I.xreg f.xa.toNat).val.toNat % 8 == 0) = true := by
    rw [show unperformed s I.u I.mask s.nextId (I.scope (bits f.f9.toNat 2 3)) = false from hrel, Bool.false_and]
    exact Bool.false_ne_true
  change execAtmx f s = _
  rw [execAtmx, onFront_eq hi, withSrcs_full hs hd]
  refine congrArg (Act.finish · s I) ((if_neg hgo).trans ?_)
  exact (thenClamp_eq I (bits f.f9.toNat 2 3) _).trans (congrArg _ (frontAccess_eq ..))

end Front

/-- Settles O34: each word is its checks and its accesses, which reach memory or meet the traps of R162. -/
theorem memoryWordsComplete : Obligations.MemoryWordsComplete := by
  refine ⟨?ld, ?st, ?ldt, ?stt, ?ldu, ?stu, ?atomics, ?ldx, ?stx, ?atmx, ?ldTraps, ?stTraps, ?ldtTraps, ?sttTraps, ?slotTraps,
    ?atomicTraps, fun va r l p w hr hl hp => faultInfo_fields w hr hl hp⟩
  case ld =>
    intro f s I hi n b hok hs hd hag hal hr
    exact performs_of_checked (ld_exec hi hok hs hd) hag (offThreads_nil hal) hr
  case st =>
    intro f s I hi n b g rs hok hs hag hal hr
    exact performs_of_checked (st_exec hi hok hs) hag (offThreads_nil hal) hr
  case ldt =>
    intro f s I hi n ks rs hok hsb hs hd hag hal hr
    exact performs_of_checked (ldt_exec hi hok hsb hs hd) hag (offElems_nil hal) hr
  case stt =>
    intro f s I hi n ks rs hok hsb hs hag hal hr
    exact performs_of_checked (stt_exec hi hok hsb hs) hag (offElems_nil hal) hr
  case ldu =>
    intro f s I hi b d rs hsb hsd hs hd hal hr
    exact performs_of_exec ((ldu_exec hi hsb hsd hs hd).trans (by rw [onceAt_aligned hal])) hr
  case stu =>
    intro f s I hi b d rs hsb hsd hs hal hr
    exact performs_of_exec ((stu_exec hi hsb hsd hs).trans (by rw [onceAt_aligned hal])) hr
  case atomics =>
    intro f s I i kind two hmem hi w n n2 d addr cmp new rs hwide hal hok hs hag hdet halign hrel hr
    have hal' : d % (if f.w64 = 1 then n2 else 1) = 0 := by simpa only [w, beq_iff_eq] using hal
    have hnr : ∀ {α : Type} (x y : α), (if f.nr == 0 then x else y) = if f.nr = 0 then x else y :=
      fun x y => ite_congr (propext beq_iff_eq) (fun _ => rfl) (fun _ => rfl)
    have hexec := atom_exec hmem hi hwide hal' hok hs hdet hrel
    rw [checked_passes hag (offThreads_nil halign)] at hexec
    simp only [hnr] at hexec
    exact performsAtomic_of_exec hexec hr
  case ldx =>
    intro f s I hi a rs hs hd hal hr
    exact performs_of_exec ((ldx_exec hi hs hd).trans (by rw [onceAt_aligned hal])) hr
  case stx =>
    intro f s I hi a rs hs hal hr
    exact performs_of_exec ((stx_exec hi hs).trans (by rw [onceAt_aligned hal])) hr
  case atmx =>
    intro f s I hi a scope rs hs hd hal hrel hr
    exact performsAtomic_of_exec ((atmx_exec hi hs hd hrel).trans (by rw [onceAt_aligned hal])) hr
  case ldTraps =>
    intro f s I hi n b hok hs hd
    exact thread_traps (after := id) hi (fun _ => rfl) (ld_exec hi hok hs hd)
  case stTraps =>
    intro f s I hi n b g hok hs
    exact thread_traps (after := id) hi (fun _ => rfl) (st_exec hi hok hs)
  case ldtTraps =>
    intro f s I hi n ks off hok hsb hs hd
    exact thread_traps (after := id) hi (fun _ => rfl) (ldt_exec hi hok hsb hs hd)
  case sttTraps =>
    intro f s I hi n ks off hok hsb hs
    exact thread_traps (after := id) hi (fun _ => rfl) (stt_exec hi hok hsb hs)
  case slotTraps =>
    intro f s I i write hmem hi b d hsb hsd hs hd
    simp only [List.mem_cons, Prod.mk.injEq, List.not_mem_nil, or_false] at hmem
    rcases hmem with ⟨rfl, rfl⟩ | ⟨rfl, rfl⟩
    · exact once_traps hi (ldu_exec hi hsb hsd (by simpa using hs) (hd rfl))
    · exact once_traps hi (stu_exec hi hsb hsd hs)
  case atomicTraps =>
    intro f s I i kind two hmem hi n n2 d addr cmp new hwide hal hok hs hdet hrel
    exact thread_traps hi (fun _ => rfl) (atom_exec hmem hi hwide hal hok hs hdet hrel)

end Sys2Proof.MemoryProofs
end


section
/-! PROOFS. What the accesses of a word leave outstanding, and their line requests (07_local_memory.md R160, R161). -/

namespace Sys2Proof.MemoryProofs

open Sys2Proof.Machine Sys2Proof.Safety Sys2Proof.Laws

/-! ## The operation (R160) -/

theorem updStrand_keeps (s : State) (u : UnitId) (f : Strand → Strand) :
    (updStrand s u f).ops = s.ops ∧ (updStrand s u f).mem = s.mem ∧ (updStrand s u f).hostMem = s.hostMem ∧
    (updStrand s u f).msgs = s.msgs ∧ (updStrand s u f).held = s.held := by
  cases u <;> exact ⟨rfl, rfl, rfl, rfl, rfl⟩

theorem addDue_keeps (s : State) (u : UnitId) (ns : List Note) :
    (addDue s u ns).ops = s.ops ∧ (addDue s u ns).mem = s.mem ∧ (addDue s u ns).hostMem = s.hostMem ∧
    (addDue s u ns).msgs = s.msgs ∧ (addDue s u ns).held = s.held := by
  cases ns with
  | nil => exact ⟨rfl, rfl, rfl, rfl, rfl⟩
  | cons n _ => exact updStrand_keeps ..

section Issue

variable {s : State} {I : Issuer} {write whole : Bool} {rs : List MemReq} {dest : Dest} {acq : Nat} {mark : State → State}

/-- The sends of accesses that reach memory. -/
def issueSends (s : State) (I : Issuer) (write : Bool) (rs : List MemReq) (mark : State → State) : Sending :=
  let x := translateAll s I write rs
  sendLines { mark x.1 with nextId := x.1.nextId + 1 } I write x.1.nextId (groupLines x.2)

/-- The operation that they leave outstanding. -/
def issueOp (s : State) (I : Issuer) (write : Bool) (rs : List MemReq) (dest : Dest) (acq : Nat) (mark : State → State) : PendOp :=
  let r := issueSends s I write rs mark
  { unit := I.u, dest := dest, ter := I.ter, keys := rs.map fun x : MemReq => x.key
    waiting := r.waiting, got := r.ans.got, errs := r.ans.errs, lanes := I.mask, acq := if r.waiting == 0 then 0 else acq }

theorem memIssue_reaches (h : Reaches s I write whole rs) : memIssue s I write whole rs dest acq mark =
    if dest == .none && (issueSends s I write rs mark).waiting == 0 then
      .done (addDue (issueSends s I write rs mark).s I.u ((issueSends s I write rs mark).ans.errs.map (·.2)))
    else
      .done { (issueSends s I write rs mark).s with
        ops := Tab.set (issueSends s I write rs mark).s.ops (translateAll s I write rs).1.nextId
          (issueOp s I write rs dest acq mark) } := by
  obtain ⟨hgo, hhost, hacq, hmat, hbell⟩ := h
  simp only [memIssue, hgo, hhost, hacq, hmat, hbell, Bool.or_self, Bool.false_eq_true, if_false]
  rfl

theorem memIssue_leaves (h : Reaches s I write whole rs) :
    ∃ t, memIssue s I write whole rs dest acq mark = .done t ∧
      ((∃ op, Tab.find t.ops (translateAll s I write rs).1.nextId = some op ∧ op.unit = I.u ∧ op.dest = dest ∧ op.ter = I.ter ∧
          op.keys = rs.map (fun r => r.key) ∧ op.lanes = I.mask) ∨
       (dest = .none ∧ t.ops = (issueSends s I write rs mark).s.ops)) ∧
      (let u := (issueSends s I write rs mark).s
       t.mem = u.mem ∧ t.hostMem = u.hostMem ∧ t.msgs = u.msgs ∧ t.held = u.held) := by
  rw [memIssue_reaches h]
  split
  · next hnone =>
    rw [Bool.and_eq_true, beq_iff_eq] at hnone
    obtain ⟨hops, hkept⟩ := addDue_keeps (issueSends s I write rs mark).s I.u ((issueSends s I write rs mark).ans.errs.map (·.2))
    exact ⟨_, rfl, .inr ⟨hnone.1, hops⟩, hkept⟩
  · exact ⟨_, rfl, .inl ⟨_, Tab.find_set_self .., rfl, rfl, rfl, rfl, rfl⟩, rfl, rfl, rfl, rfl⟩

end Issue

/-! ## Line requests (R161) -/

/-- The guest-physical address of a translated access. -/
def placeAt (x : Located) : Nat :=
  match x.xl with
  | .ok g _ _ => g
  | _ => 0

/-- An access within its line. -/
def laneOp (x : Located) : LaneOp :=
  { key := x.req.key, off := placeAt x % 64, act := x.req.act, va := x.req.va, thread := x.req.thread }

/-- Line parts that hold the accesses of a list, each in the part of its line, in the order of the list. -/
def Grouped (acc : List LinePart) (xs : List Located) : Prop :=
  (acc.map fun l => l.line) = (xs.map fun x => placeAt x / 64).eraseDups ∧ (acc.map fun l => l.line).Nodup ∧
  ∀ l ∈ acc, l.ops = (xs.filter fun x => placeAt x / 64 == l.line).map laneOp

theorem insertOp_last {o : LaneOp} {l : List LaneOp} (h : ∀ x ∈ l, x.key < o.key) : insertOp o l = l ++ [o] := by
  induction l with
  | nil => rfl
  | cons x t ih =>
    rw [insertOp, if_neg (Nat.lt_asymm (h x (List.mem_cons_self ..))), ih fun y hy => h y (List.mem_cons_of_mem _ hy)]
    rfl

/-- Where no part has an access of the thread, the first part of the line is looked for. -/
theorem no_earlier_piece {acc : List LinePart} {o : LaneOp} (h : ∀ l ∈ acc, ∀ x ∈ l.ops, x.thread ≠ o.thread) :
    (acc.zipIdx.filter fun e => e.1.ops.any (·.thread == o.thread)) = [] := by
  refine List.filter_eq_nil_iff.mpr fun e he => ?_
  rw [List.any_eq_true]
  rintro ⟨x, hx, hthread⟩
  exact h e.1 (List.fst_mem_of_mem_zipIdx he) x hx (beq_iff_eq.mp hthread)

theorem placeOp_begins {acc : List LinePart} {line : Nat} {cnt : Bool} {o : LaneOp}
    (h : ∀ l ∈ acc, ∀ x ∈ l.ops, x.thread ≠ o.thread) (hfind : (acc.zipIdx.find? fun e => e.1.line == line) = none) :
    placeOp acc line cnt o = acc ++ [{ line := line, cnt := cnt, ops := [o] }] := by
  simp only [placeOp, no_earlier_piece h, List.foldl_nil, Nat.zero_le, decide_true, Bool.and_true, hfind]

theorem placeOp_joins {acc : List LinePart} {line : Nat} {cnt : Bool} {o : LaneOp} {p : LinePart} {n : Nat}
    (h : ∀ l ∈ acc, ∀ x ∈ l.ops, x.thread ≠ o.thread) (hfind : (acc.zipIdx.find? fun e => e.1.line == line) = some (p, n)) :
    placeOp acc line cnt o = acc.set n { line := p.line, cnt := p.cnt || cnt, ops := insertOp o p.ops } := by
  simp only [placeOp, no_earlier_piece h, List.foldl_nil, Nat.zero_le, decide_true, Bool.and_true, hfind]

theorem eraseDups_snoc (l : List Nat) (a : Nat) : (l ++ [a]).eraseDups = if a ∈ l then l.eraseDups else l.eraseDups ++ [a] := by
  rw [List.eraseDups_append]
  by_cases h : a ∈ l
  · simp [h, List.removeAll]
  · simp [h, List.removeAll, List.eraseDups_cons]

/-- A further access, of a key above those before, joins the part of its line. -/
theorem Grouped.place {acc : List LinePart} {xs : List Located} {x : Located} {cnt : Bool} (h : Grouped acc xs)
    (hkey : ∀ y ∈ xs, y.req.key < x.req.key) (hthread : ∀ y ∈ xs, y.req.thread ≠ x.req.thread) :
    Grouped (placeOp acc (placeAt x / 64) cnt (laneOp x)) (xs ++ [x]) := by
  obtain ⟨hlines, hnodup, hops⟩ := h
  have hfresh : ∀ l ∈ acc, ∀ o ∈ l.ops, o.thread ≠ x.req.thread ∧ o.key < x.req.key := by
    intro l hl o ho
    rw [hops l hl] at ho
    obtain ⟨y, hy, rfl⟩ := List.mem_map.mp ho
    exact ⟨hthread y (List.mem_filter.mp hy).1, hkey y (List.mem_filter.mp hy).1⟩
  have hthreads : ∀ l ∈ acc, ∀ o ∈ l.ops, o.thread ≠ (laneOp x).thread := fun l hl o ho => (hfresh l hl o ho).1
  cases hfind : acc.zipIdx.find? fun e => e.1.line == placeAt x / 64 with
  | none =>
    have hnew : placeAt x / 64 ∉ acc.map fun l => l.line := by
      intro hin
      obtain ⟨l, hl, hline⟩ := List.mem_map.mp hin
      obtain ⟨n, hn, hget⟩ := List.mem_iff_getElem.mp hl
      have := List.find?_eq_none.mp hfind (l, n) (List.mk_mem_zipIdx_iff_getElem?.mpr (by rw [List.getElem?_eq_getElem hn, hget]))
      exact this (beq_iff_eq.mpr hline)
    have hnew' : placeAt x / 64 ∉ xs.map fun x => placeAt x / 64 := by rwa [← List.mem_eraseDups, ← hlines]
    rw [placeOp_begins hthreads hfind]
    refine ⟨?_, ?_, ?_⟩
    · rw [List.map_append, List.map_append, List.map_singleton, List.map_singleton, eraseDups_snoc, if_neg hnew', hlines]
    · rw [List.map_append, List.map_singleton]
      exact List.nodup_append.mpr ⟨hnodup, List.nodup_cons.mpr ⟨List.not_mem_nil, List.nodup_nil⟩, fun a ha b hb heq =>
        hnew (heq.trans (show b = placeAt x / 64 from List.mem_singleton.mp hb) ▸ ha)⟩
    · intro l hl
      rcases List.mem_append.mp hl with hl | hl
      · have hne : (placeAt x / 64 == l.line) = false :=
          beq_eq_false_iff_ne.mpr fun heq => hnew (List.mem_map.mpr ⟨l, hl, heq.symm⟩)
        rw [List.filter_append, ListFacts.filter_single, if_neg (by rw [hne]; decide), hops l hl, List.append_nil]
      · obtain rfl := List.mem_singleton.mp hl
        have hnil : (xs.filter fun y => placeAt y / 64 == placeAt x / 64) = [] :=
          List.filter_eq_nil_iff.mpr fun y hy heq => hnew' (List.mem_map.mpr ⟨y, hy, beq_iff_eq.mp heq⟩)
        rw [List.filter_append, hnil, ListFacts.filter_single, if_pos (beq_self_eq_true _)]
        rfl
  | some e =>
    obtain ⟨p, n⟩ := e
    have hp := List.mem_of_find?_eq_some hfind
    have hline : p.line = placeAt x / 64 := by simpa using List.find?_some hfind
    have hget : acc[n]? = some p := List.mk_mem_zipIdx_iff_getElem?.mp hp
    have hmem : p ∈ acc := List.mem_of_getElem? hget
    have hin : placeAt x / 64 ∈ xs.map fun x => placeAt x / 64 := by
      rw [← List.mem_eraseDups, ← hlines, ← hline]
      exact List.mem_map_of_mem hmem
    have hlast : insertOp (laneOp x) p.ops = p.ops ++ [laneOp x] := insertOp_last fun o ho => (hfresh p hmem o ho).2
    rw [placeOp_joins hthreads hfind, hlast, hops p hmem]
    have hsame : ∀ ops, ((acc.set n { line := p.line, cnt := p.cnt || cnt, ops := ops }).map fun l => l.line) =
        acc.map fun l => l.line := by
      intro ops
      rw [List.map_set]
      refine List.ext_getElem? fun m => ?_
      rw [List.getElem?_set]
      split
      · next heq =>
        subst heq
        rw [List.getElem?_map, hget, if_pos (by rw [List.length_map]; exact (List.getElem?_eq_some_iff.mp hget).1)]
        rfl
      · rfl
    refine ⟨?_, ?_, ?_⟩
    · rw [hsame, List.map_append, List.map_singleton, eraseDups_snoc, if_pos hin, hlines]
    · rw [hsame]
      exact hnodup
    · intro l hl
      obtain ⟨m, hm, hl⟩ := List.mem_iff_getElem.mp hl
      rw [List.getElem_set] at hl
      split at hl
      · subst hl
        rw [List.filter_append, List.map_append, ListFacts.filter_single, hline, if_pos (beq_self_eq_true _)]
        rfl
      · next hne =>
        have hm' : m < acc.length := by simpa using hm
        subst hl
        have hdiff : (placeAt x / 64 == acc[m].line) = false := by
          rw [beq_eq_false_iff_ne, ← hline]
          intro heq
          obtain ⟨hn, hp'⟩ := List.getElem?_eq_some_iff.mp hget
          refine hne ((List.getElem_inj (h₀ := by simpa using hn) (h₁ := by simpa using hm') hnodup).mp ?_)
          simpa [hp'] using heq
        rw [hops acc[m] (List.getElem_mem hm'), List.filter_append, ListFacts.filter_single, if_neg (by rw [hdiff]; decide), List.append_nil]

theorem grouped_nil : Grouped [] [] := ⟨rfl, List.nodup_nil, fun _ h => nomatch h⟩

/-- The accesses of a list, placed one after another. -/
def placeAll (xs : List Located) : List LinePart :=
  xs.foldl (fun acc x =>
    match x.xl with
    | .ok gpa _ cnt =>
      placeOp acc (gpa / 64) cnt { key := x.req.key, off := gpa % 64, act := x.req.act, va := x.req.va, thread := x.req.thread }
    | _ => acc) []

theorem placeAll_snoc (xs : List Located) {x : Located} {g k : Nat} {cnt : Bool} (h : x.xl = .ok g k cnt) :
    placeAll (xs ++ [x]) = placeOp (placeAll xs) (placeAt x / 64) cnt (laneOp x) := by
  have hat : placeAt x = g := by simp only [placeAt, h]
  simp only [placeAll, List.foldl_append, List.foldl_cons, List.foldl_nil, h, laneOp, hat]

/-- Where no thread has an earlier piece, the accesses are placed in their order. -/
theorem groupLines_placeAll {xs : List Located} (h : ∀ x ∈ xs, x.req.thread = x.req.key) : groupLines xs = placeAll xs := by
  have hlater : ∀ x ∈ xs, (xs.any fun y => y.req.thread == x.req.thread && decide (y.req.key < x.req.key)) = false := by
    intro x hx
    refine List.any_eq_false.mpr fun y hy => ?_
    rw [Bool.and_eq_true, beq_iff_eq, decide_eq_true_eq, h x hx, h y hy]
    omega
  have hfirst : (xs.filter fun x => !xs.any fun y => y.req.thread == x.req.thread && decide (y.req.key < x.req.key)) = xs :=
    List.filter_eq_self.mpr fun x hx => by rw [hlater x hx]; rfl
  have hrest : (xs.filter fun x => xs.any fun y => y.req.thread == x.req.thread && decide (y.req.key < x.req.key)) = [] :=
    List.filter_eq_nil_iff.mpr fun x hx => by rw [hlater x hx]; exact Bool.false_ne_true
  simp only [groupLines, hfirst, hrest, List.append_nil]
  rfl

/-- By ascending key, each access joins the part of its line. -/
theorem placeAll_grouped (xs : List Located) (hok : ∀ x ∈ xs, x.req.thread = x.req.key ∧ ∃ g k c, x.xl = .ok g k c)
    (hkeys : (xs.map fun x => x.req.key).Pairwise (· < ·)) : Grouped (placeAll xs) xs := by
  induction xs using ListFacts.snoc_induction with
  | nil => exact grouped_nil
  | snoc xs x ih =>
    rw [List.map_append, List.pairwise_append] at hkeys
    obtain ⟨hbefore, -, hlast⟩ := hkeys
    have hkey : ∀ y ∈ xs, y.req.key < x.req.key := fun y hy => hlast _ (List.mem_map_of_mem hy) _ (List.mem_singleton.mpr rfl)
    obtain ⟨hthread, g, k, cnt, hx⟩ := hok x (List.mem_append_right _ (List.mem_singleton.mpr rfl))
    rw [placeAll_snoc xs hx]
    refine (ih (fun y hy => hok y (List.mem_append_left _ hy)) hbefore).place hkey fun y hy => ?_
    rw [(hok y (List.mem_append_left _ hy)).1, hthread]
    exact Nat.ne_of_lt (hkey y hy)

/-- Settles O35: the operation by the shape of memIssue, the lines by placing one access after another. -/
theorem accessIssued : Obligations.AccessIssued := by
  refine ⟨fun s I write whole rs dest acq mark hr => memIssue_leaves hr, fun xs hok hkeys => ?_⟩
  intro at_
  have hat : at_ = placeAt := by
    funext x
    cases hx : x.xl <;> simp only [at_, placeAt, hx]
  obtain ⟨hlines, -, hops⟩ := placeAll_grouped xs hok hkeys
  rw [hat, groupLines_placeAll fun x hx => (hok x hx).1]
  exact ⟨hlines, hops⟩

end Sys2Proof.MemoryProofs
end


section
/-! PROOFS. What a line request does at its home (07_local_memory.md R161, R168 to R170, 05_fabric.md R78, R109). -/

namespace Sys2Proof.MemoryProofs

open Sys2Proof.Machine Sys2Proof.Safety Sys2Proof.Laws

/-! ## Packages of an updated state -/

section Packages

variable {s : State} {p q : Nat} {f : Pkg → Pkg}

theorem pkgOf_updPkg_self {k : Pkg} (h : Tab.find s.pkgs p = some k) : (s.updPkg p f).pkgOf p = f (s.pkgOf p) := by
  simp only [State.pkgOf, State.updPkg_pkgs, Tab.get, Tab.find_modify, if_true, h, Option.map_some, Option.getD_some]

theorem pkgOf_updPkg_other (h : p ≠ q) : (s.updPkg p f).pkgOf q = s.pkgOf q := by
  simp only [State.pkgOf, State.updPkg_pkgs, Tab.get, Tab.find_modify, if_neg h]

theorem updPkg_missing (h : Tab.find s.pkgs p = none) : s.updPkg p f = s := by
  simp only [State.updPkg, Tab.modify, h]

/-- What an update of packages does not touch is as before in every package. -/
theorem pkgField_updPkg {β : Type} (g : Pkg → β) (hg : ∀ k, g (f k) = g k) : g ((s.updPkg p f).pkgOf q) = g (s.pkgOf q) := by
  by_cases hpq : p = q
  · subst hpq
    cases h : Tab.find s.pkgs p with
    | none => rw [updPkg_missing h]
    | some k => rw [pkgOf_updPkg_self h, hg]
  · rw [pkgOf_updPkg_other hpq]

end Packages

/-! ## The L2 of the home -/

theorem l2Fill_keeps (s : State) (p q l d : Nat) : (l2Fill s p q l d).mem = s.mem ∧ (l2Fill s p q l d).hostMem = s.hostMem := by
  unfold l2Fill
  simp only
  repeat' split
  all_goals exact ⟨rfl, rfl⟩

theorem bankLost_updL2 (s : State) (p pkg part line : Nat) (f : List L2Line → List L2Line) :
    bankLost (s.updPkg p fun k => { k with l2 := f k.l2 }) pkg part line = bankLost s pkg part line := by
  have hlost : ((s.updPkg p fun k => { k with l2 := f k.l2 }).pkgOf pkg).lostBanks = (s.pkgOf pkg).lostBanks :=
    pkgField_updPkg (f := fun k => { k with l2 := f k.l2 }) (fun k => k.lostBanks) fun _ => rfl
  have hlayout : ((s.updPkg p fun k => { k with l2 := f k.l2 }).pkgOf pkg).layout = (s.pkgOf pkg).layout :=
    pkgField_updPkg (f := fun k => { k with l2 := f k.l2 }) (fun k => k.layout) fun _ => rfl
  simp only [bankLost, layoutOf, hlost, hlayout]

theorem bankLost_of_noFault {s : State} {pkg part line dline u : Nat} (h : unitFault s pkg part line dline u = none) :
    bankLost s pkg part line = false := by
  rw [Bool.eq_false_iff]
  intro hlost
  rw [unitFault, if_pos hlost] at h
  cases h

/-- A line newly brought into the L2 has no uncorrectable unit. -/
theorem unitFault_newLine {s : State} {pkg part line dline u : Nat} {kept : List L2Line → List L2Line} {dirty : Bool}
    (hclean : unitFault s pkg part line dline u = none) (hfind : l2Find s pkg part line = none)
    (hkept : ∀ x ∈ kept (s.pkgOf pkg).l2, x ∈ (s.pkgOf pkg).l2) :
    unitFault (s.updPkg pkg fun k => { k with l2 := kept k.l2 ++
      [{ part := part, gpaLine := line, dpaLine := dline, dirty := dirty }] }) pkg part line dline u = none := by
  cases hpkg : Tab.find s.pkgs pkg with
  | none => rwa [updPkg_missing hpkg]
  | some k =>
    have hnone : (kept (s.pkgOf pkg).l2).find? (·.is part line) = none :=
      List.find?_eq_none.mpr fun x hx => List.find?_eq_none.mp hfind x (hkept x hx)
    have hfound : l2Find (s.updPkg pkg fun k => { k with l2 := kept k.l2 ++
        [{ part := part, gpaLine := line, dpaLine := dline, dirty := dirty }] }) pkg part line =
        some { part := part, gpaLine := line, dpaLine := dline, dirty := dirty } := by
      rw [l2Find, pkgOf_updPkg_self hpkg, List.find?_append, hnone, Option.none_or]
      simp only [L2Line.is, List.find?_cons, beq_self_eq_true, Bool.and_self]
    rw [unitFault, bankLost_updL2 s pkg pkg part line fun l => kept l ++ _, bankLost_of_noFault hclean, hfound]
    simp only [Bool.false_eq_true, if_false, ite_self]

theorem unitFault_l2Fill {s : State} {pkg part line dline u : Nat} (h : unitFault s pkg part line dline u = none) :
    unitFault (l2Fill s pkg part line dline) pkg part line dline u = none := by
  rw [l2Fill]
  split
  · exact h
  · next hskip =>
    have hfind : l2Find s pkg part line = none := by
      simp only [Bool.or_eq_true, not_or, Bool.not_eq_true, Option.isSome_eq_false_iff, Option.isNone_iff_eq_none] at hskip
      exact hskip.1.1.1.1.1
    extract_lets new p place same
    clear_value same
    split
    · exact unitFault_newLine (kept := fun l => l) h hfind fun _ hx => hx
    · split
      · next v hv =>
        exact unitFault_newLine (kept := fun l => l.filter (· != v)) h hfind fun _ hx => (List.mem_filter.mp hx).1
      · exact h

/-! ## One lane operation at the home -/

section Lane

variable {s : State} {pkg part line dline : Nat} {ctx : Word} {acc : State × Answer} {o : LaneOp}

/-- The line has no uncorrectable unit. -/
def LineClean (s : State) (pkg part line dline : Nat) : Prop := ∀ u, u < 2 → unitFault s pkg part line dline u = none

theorem no_badUnits (h : LineClean s pkg part line dline) :
    (o.units.filterMap fun u => (unitFault s pkg part line dline u).map fun k => (k, line * 64 + 32 * u)) = [] := by
  refine List.filterMap_eq_nil_iff.mpr fun u hu => ?_
  rw [h u (List.mem_range.mp (List.mem_filter.mp hu).1), Option.map_none]

theorem laneAtHome_rd {n : Nat} (h : LineClean acc.1 pkg part line dline) (hact : o.act = .rd n) :
    laneAtHome pkg part line dline ctx acc o =
      (acc.1, { acc.2 with got := acc.2.got ++ [(o.key, o.old.getD (Memory.readBytes acc.1.mem (dline * 64 + o.off) n))] }) := by
  simp only [laneAtHome, no_badUnits h, hact]

theorem laneAtHome_wr {bs : List Byte} (h : LineClean acc.1 pkg part line dline) (hact : o.act = .wr bs) :
    laneAtHome pkg part line dline ctx acc o = (homeStore acc.1 pkg part line (dline * 64 + o.off) bs, acc.2) := by
  simp only [laneAtHome, no_badUnits h, hact]

/-- What an atomic answers: the old bytes, where it returns them. -/
def amoAnswer (ans : Answer) (o : LaneOp) (op : AtomOp) (old : List Byte) : Answer :=
  if op.ret then { ans with got := ans.got ++ [(o.key, old)] } else ans

theorem laneAtHome_amo {op : AtomOp} (h : LineClean acc.1 pkg part line dline) (hact : o.act = .amo op) :
    let old := Memory.readBytes acc.1.mem (dline * 64 + o.off) o.len
    laneAtHome pkg part line dline ctx acc o =
      if op.stores (ofLe old) then
        (homeStore acc.1 pkg part line (dline * 64 + o.off) (leBytes o.len (atomNew op (ofLe old))), amoAnswer acc.2 o op old)
      else (acc.1, (amoAnswer acc.2 o op old).drop o) := by
  simp only [laneAtHome, no_badUnits h, hact, amoAnswer]

theorem performDev_one (h : LineClean s pkg part line dline) :
    performDev s pkg part line dline ctx [o] = laneAtHome pkg part line dline ctx (l2Fill s pkg part line dline, {}) o := by
  have hbad : ((List.range 2).filter fun u => (unitFault (l2Fill s pkg part line dline) pkg part line dline u).isSome) = [] := by
    refine List.filter_eq_nil_iff.mpr fun u hu => ?_
    rw [unitFault_l2Fill (h u (List.mem_range.mp hu))]
    exact Bool.false_ne_true
  simp only [performDev, hbad, curedUnits, List.filter_nil, ite_self, List.foldl_cons, List.foldl_nil]

end Lane

/-! ## The request -/

section Request

variable {s : State} {r : LineReq} {o : LaneOp} {d : Nat}

/-- A request's one lane operation as the home takes it: a load carries what its thread's views hold. -/
theorem seen_one (hops : r.ops = [o]) (s : State) (m : List Host.Cell) (place : Nat) :
    ∃ o', r.seen s m place = [o'] ∧ o'.key = o.key ∧ o'.act = o.act ∧ o'.off = o.off ∧
      (o.old = none → ∀ n, o.act = .rd n → o'.old.getD (Memory.readBytes m (place + o.off) n) =
        overlay s (r.threadOf o) r.part r.ctx o.va (r.gpa / 64 * 64 + o.off) (Memory.readBytes m (place + o.off) n)) := by
  unfold LineReq.seen
  by_cases hv : s.views.isEmpty = true
  · refine ⟨o, by rw [if_pos hv, hops], rfl, rfl, rfl, fun hold n _ => ?_⟩
    rw [hold, Option.getD_none, overlay, if_pos hv]
  · rw [if_neg hv, hops]
    cases hact : o.act with
    | rd n =>
      refine ⟨{ o with old := some (overlay s (r.threadOf o) r.part r.ctx o.va (r.gpa / 64 * 64 + o.off)
        (Memory.readBytes m (place + o.off) n)) }, by simp only [List.map_cons, List.map_nil, hact], rfl, hact, rfl, fun _ n' hn => ?_⟩
      cases hn
      rfl
    | wr bs => exact ⟨o, by simp only [List.map_cons, List.map_nil, hact], rfl, hact, rfl, fun _ n hn => by cases hn⟩
    | amo op => exact ⟨o, by simp only [List.map_cons, List.map_nil, hact], rfl, hact, rfl, fun _ n hn => by cases hn⟩

theorem joinWords_plain (hops : r.ops = [o]) (h : ∀ op, o.act ≠ .amo op) (s : State) : joinWords s r = s := by
  unfold joinWords
  split
  · rfl
  · rw [hops, List.foldl_cons, List.foldl_nil]
    split
    · next a ha => exact absurd ha (h a)
    · rfl

theorem LineClean.views {pkg part line dline : Nat} {t : State} (h : LineClean s pkg part line dline) (hv : ViewsOnly s t) :
    LineClean t pkg part line dline := by
  intro u hu
  rw [hv]
  exact h u hu

/-- A request of one lane operation, performed at a home whose line is clean: what its lane leaves, but for the views. -/
theorem performLine_one (hops : r.ops = [o]) (hhere : PerformsHere s r d) :
    ∃ o' : LaneOp, o'.key = o.key ∧ o'.act = o.act ∧ o'.off = o.off ∧
      (o.old = none → ∀ n, o.act = .rd n → o'.old.getD (Memory.readBytes s.mem (d / 64 * 64 + o.off) n) =
        overlay s (r.threadOf o) r.part r.ctx o.va (r.gpa / 64 * 64 + o.off) (Memory.readBytes s.mem (d / 64 * 64 + o.off) n)) ∧
      ∃ f : State, f.mem = s.mem ∧ f.hostMem = s.hostMem ∧ LineClean f r.pkg r.part (r.gpa / 64) (d / 64) ∧
      let x := laneAtHome r.pkg r.part (r.gpa / 64) (d / 64) r.ctx (f, {}) o'
      ViewsOnly x.1 (performLine s r d).1 ∧ (performLine s r d).2 = x.2 := by
  obtain ⟨-, hpkg, hwin, -, hclean⟩ := hhere
  have hviews := joinWords_views s r
  have hmem : (joinWords s r).mem = s.mem := by rw [hviews]
  have hhost : (joinWords s r).hostMem = s.hostMem := by rw [hviews]
  obtain ⟨o', hseen, hkey, hact, hoff, hold⟩ := seen_one hops (joinWords s r) (joinWords s r).mem (d / 64 * 64)
  have hline : LineClean (joinWords s r) r.pkg r.part (r.gpa / 64) (d / 64) := LineClean.views hclean hviews
  obtain ⟨hfm, hfh⟩ := l2Fill_keeps (joinWords s r) r.pkg r.part (r.gpa / 64) (d / 64)
  refine ⟨o', hkey, hact, hoff, fun hnone n hn => ?_, l2Fill (joinWords s r) r.pkg r.part (r.gpa / 64) (d / 64), hfm.trans hmem,
    hfh.trans hhost, fun u hu => unitFault_l2Fill (hline u hu), ?_⟩
  · have hplain : joinWords s r = s := joinWords_plain hops (fun op h => by rw [hn] at h; cases h) s
    rw [hplain] at hold
    exact hold hnone n hn
  · simp only [performLine, hwin, Bool.false_eq_true, if_false, hpkg, hseen, performAt, performDev_one hline]
    exact ⟨noteStores_views .., trivial⟩

end Request

/-! ## Sending (R78, R89, R109) -/

section Send

variable {acc : Sending} {r : LineReq} {d : Nat}

theorem sendLine_here (h : PerformsHere acc.s r d) : sendLine acc r =
    { acc with s := (performLine (countLine acc.s r) r d).1
               ans := { got := acc.ans.got ++ (performLine (countLine acc.s r) r d).2.got
                        errs := acc.ans.errs ++ (performLine (countLine acc.s r) r d).2.errs } } := by
  obtain ⟨hloc, hpkg, -, hstops, -⟩ := h
  simp only [sendLine, hloc, hpkg, hstops, Bool.false_eq_true, if_false, beq_self_eq_true, if_true]

theorem countLine_none {s : State} (h : r.cnt = none) : countLine s r = s := by
  simp only [countLine, h]

theorem countLine_some {s : State} {die : Nat} (h : r.cnt = some die) : countLine s r = countAccess s r.pkg die r.part r.gpa := by
  simp only [countLine, h]

/-- An access to a counted page below its threshold changes the counters of its die alone. -/
theorem countAccess_below {s s1 : State} {pkg die part gpa t : Nat} {L : LayoutEnt} (hon : featureOn s pkg 11 = true)
    (hlayout : layoutOf s pkg part = some L) (hread : quietRead s pkg part (L.paging.toNat + 0x2C) 2 = (s1, some t))
    (hbelow : (countIn (Tab.get [] (s1.pkgOf pkg).counters die) part (gpa >>> 16)).2.count < if t = 0 then 256 else t) :
    countAccess s pkg die part gpa = s1.updPkg pkg fun p =>
      { p with counters := Tab.set p.counters die (countIn (Tab.get [] (s1.pkgOf pkg).counters die) part (gpa >>> 16)).1 } := by
  have hthresh : (if t == 0 then 256 else t) = if t = 0 then 256 else t := ite_congr (propext beq_iff_eq) (fun _ => rfl) (fun _ => rfl)
  simp only [countAccess, hon, Bool.not_true, Bool.false_eq_true, if_false, hlayout, hread, hthresh, hbelow, decide_true,
    Bool.or_true, if_true]

/-- A request of one lane at its home: what the lane answers and leaves. -/
theorem sendLine_one {o : LaneOp} (hops : r.ops = [o]) (hold : o.old = none) (hhere : PerformsHere acc.s r d)
    (hcounted : PerformsHere (countLine acc.s r) r d) :
    let a := d / 64 * 64 + o.off
    let s := countLine acc.s r
    let t := sendLine acc r
    t.waiting = acc.waiting ∧ t.ans.errs = acc.ans.errs ∧ t.s.hostMem = s.hostMem ∧
    (∀ n, o.act = .rd n → t.s.mem = s.mem ∧
      t.ans.got = acc.ans.got ++ [(o.key, overlay s (r.threadOf o) r.part r.ctx o.va (r.gpa / 64 * 64 + o.off)
        (Memory.readBytes s.mem a n))]) ∧
    (∀ bs, o.act = .wr bs → t.s.mem = Memory.writeBytes s.mem a bs ∧ t.ans.got = acc.ans.got) ∧
    (∀ op, o.act = .amo op →
      let old := Memory.readBytes s.mem a o.len
      t.s.mem = (if op.kind = .acas ∧ ofLe old ≠ op.cmp.toNat then s.mem
        else Memory.writeBytes s.mem a (leBytes o.len (atomNew op (ofLe old)))) ∧
      t.ans.got = acc.ans.got ++ if op.ret then [(o.key, old)] else []) := by
  intro a s t
  obtain ⟨o', hkey, hact, hoff, hseen, f, hfm, hfh, hclean, hviews, hans⟩ := performLine_one hops hcounted
  have ht : t = _ := sendLine_here hhere
  have hmem : t.s.mem = (laneAtHome r.pkg r.part (r.gpa / 64) (d / 64) r.ctx (f, {}) o').1.mem := by rw [ht, hviews]
  have hhost : t.s.hostMem = (laneAtHome r.pkg r.part (r.gpa / 64) (d / 64) r.ctx (f, {}) o').1.hostMem := by rw [ht, hviews]
  have hgot : t.ans.got = acc.ans.got ++ (laneAtHome r.pkg r.part (r.gpa / 64) (d / 64) r.ctx (f, {}) o').2.got := by rw [ht, hans]
  have herrs : t.ans.errs = acc.ans.errs ++ (laneAtHome r.pkg r.part (r.gpa / 64) (d / 64) r.ctx (f, {}) o').2.errs := by rw [ht, hans]
  have hplace : d / 64 * 64 + o'.off = a := by rw [hoff]
  have hlen : o'.len = o.len := by simp only [LaneOp.len, hact]
  cases ho : o.act with
  | rd n =>
    have hlane := laneAtHome_rd (ctx := r.ctx) (acc := (f, {})) hclean (hact.trans ho)
    rw [hlane] at hmem hhost hgot herrs
    refine ⟨by rw [ht], by rw [herrs, List.append_nil], hhost.trans hfh, ?_, ?_, ?_⟩
    · intro n' hn
      cases hn
      refine ⟨hmem.trans hfm, ?_⟩
      rw [hgot, hplace, hkey, hfm]
      exact congrArg (fun bs => acc.ans.got ++ [(o.key, bs)]) (hseen hold n ho)
    · intro _ h
      cases h
    · intro _ h
      cases h
  | wr bs =>
    have hlane := laneAtHome_wr (ctx := r.ctx) (acc := (f, {})) hclean (hact.trans ho)
    rw [hlane] at hmem hhost hgot herrs
    refine ⟨by rw [ht], by rw [herrs, List.append_nil], hhost.trans hfh, ?_, ?_, ?_⟩
    · intro _ h
      cases h
    · intro bs' hbs
      cases hbs
      refine ⟨?_, by rw [hgot, List.append_nil]⟩
      rw [hmem, hplace, ← hfm]
      rfl
    · intro _ h
      cases h
  | amo op =>
    have hlane := laneAtHome_amo (ctx := r.ctx) (acc := (f, {})) hclean (hact.trans ho)
    simp only [hplace, hlen, hfm] at hlane
    rw [hlane] at hmem hhost hgot herrs
    have hanswer : ∀ old, amoAnswer {} o' op old = { got := if op.ret then [(o.key, old)] else [] } := by
      intro old
      rw [← hkey]
      unfold amoAnswer
      split <;> rfl
    refine ⟨by rw [ht], ?_, ?_, ?_, ?_, ?_⟩
    · rw [herrs, hanswer]
      split <;> exact List.append_nil _
    · rw [hhost]
      split <;> exact hfh
    · intro _ h
      cases h
    · intro _ h
      cases h
    · intro op' hop old
      cases hop
      have hstores : op.stores (ofLe old) = true ↔ ¬ (op.kind = .acas ∧ ofLe old ≠ op.cmp.toNat) := by
        rw [AtomOp.stores, Bool.or_eq_true, bne_iff_ne, beq_iff_eq, Classical.not_and_iff_not_or_not, Classical.not_not]
      rw [hmem, hgot, hanswer]
      by_cases hs : op.stores (ofLe old) = true
      · rw [if_pos hs, if_neg (hstores.mp hs)]
        exact ⟨congrArg (Memory.writeBytes · a _) hfm, rfl⟩
      · rw [if_neg hs, if_pos (Classical.not_not.mp fun h => hs (hstores.mpr h))]
        exact ⟨hfm, rfl⟩

/-- A request to host memory over a link that is down fails as a whole. -/
theorem sendLine_hostDown {ha : Nat} (hloc : locate acc.s r.pkg r.part r.gpa r.write = some (.host ha))
    (hlink : (acc.s.pkgOf r.pkg).linkUp = false) :
    sendLine acc r = { acc with ans := { got := acc.ans.got, errs := acc.ans.errs ++ (failKind r 5).errs } } := by
  simp only [sendLine, hloc, hlink, Bool.not_false, if_true]

/-- One that the host would refuse fails as a whole. -/
theorem sendLine_hostRefused {ha : Nat} (hloc : locate acc.s r.pkg r.part r.gpa r.write = some (.host ha))
    (hlink : (acc.s.pkgOf r.pkg).linkUp = true) (href : (r.ops.any fun o => LaneOp.hostRefused o.act) = true) :
    sendLine acc r = { acc with ans := { got := acc.ans.got, errs := acc.ans.errs ++ (failAll r deniedNote).errs } } := by
  simp only [sendLine, hloc, hlink, href, Bool.not_true, Bool.false_eq_true, if_false, if_true]

/-- Others wait in a message. -/
theorem sendLine_hostWaits {ha : Nat} (hloc : locate acc.s r.pkg r.part r.gpa r.write = some (.host ha))
    (hlink : (acc.s.pkgOf r.pkg).linkUp = true) (href : (r.ops.any fun o => LaneOp.hostRefused o.act) = false) :
    ∃ m : Msg, sendLine acc r = { acc with
      s := { countLine acc.s r with nextId := (countLine acc.s r).nextId + 1
                                    msgs := Tab.set (countLine acc.s r).msgs (countLine acc.s r).nextId m }
      waiting := acc.waiting + 1 } := by
  simp only [sendLine, hloc, hlink, href, Bool.not_true, Bool.false_eq_true, if_false]
  exact ⟨_, rfl⟩

end Send

/-- Settles O36: the request's one lane at its home, the count before it, and the requests that are not performed here. -/
theorem lineRequestEffect : Obligations.LineRequestEffect := by
  refine ⟨fun acc r o d hops hold _ hhere hcounted => sendLine_one hops hold hhere hcounted, fun s r => ⟨countLine_none, fun die => countLine_some⟩,
    fun s s1 pkg die part gpa t L => ⟨fun hoff => ?off, fun hon hlayout hread => countAccess_below hon hlayout hread⟩,
    fun acc r hloc => ?held, fun acc r ha hloc => ?host⟩
  case off => simp only [countAccess, hoff, Bool.not_false, if_true]
  case held =>
    have hsend : sendLine acc r = { acc with
        s := { acc.s with held := acc.s.held ++ [({ pkg := r.pkg, part := r.part, granule := r.gpa >>> 25, what := .line r } : Held)] }.tell
          (.secondStage r.part r.gpa r.ctx r.write)
        waiting := acc.waiting + 1 } := by
      simp only [sendLine, hloc]
    rw [hsend]
    exact ⟨rfl, rfl, _, rfl, rfl⟩
  case host =>
    cases hlink : (acc.s.pkgOf r.pkg).linkUp with
    | false =>
      rw [sendLine_hostDown hloc hlink]
      refine ⟨fun _ => rfl, fun _ => rfl, (fun h => nomatch h), fun _ => ⟨rfl, ?_⟩⟩
      rfl
    | true =>
      cases href : r.ops.any fun o => LaneOp.hostRefused o.act with
      | true =>
        rw [sendLine_hostRefused hloc hlink href]
        refine ⟨fun _ => rfl, fun _ => rfl, fun _ hall => ?_, (fun h => nomatch h)⟩
        obtain ⟨o, ho, hdenied⟩ := List.any_eq_true.mp href
        exact absurd hdenied (Bool.eq_false_iff.mp (hall o ho))
      | false =>
        obtain ⟨m, hsend⟩ := sendLine_hostWaits hloc hlink href
        rw [hsend]
        refine ⟨fun hcnt => ?_, fun hcnt => ?_, fun _ _ => rfl, (fun h => nomatch h)⟩
        · rw [countLine_none hcnt]
        · rw [countLine_none hcnt]

end Sys2Proof.MemoryProofs
end


section
/-! PROOFS. Where a word may store (04_translation.md R72, 07_local_memory.md R161). -/

namespace Sys2Proof.MemoryProofs

open Sys2Proof.Machine Sys2Proof.Safety Sys2Proof.Laws

/-! ## Operations that store nothing -/

/-- Device memory, host memory and the cores are as before. -/
structure StoresNothing (s t : State) : Prop where
  mem : t.mem = s.mem
  host : t.hostMem = s.hostMem
  cores : t.cores = s.cores

theorem StoresNothing.refl {s : State} : StoresNothing s s := ⟨rfl, rfl, rfl⟩

theorem StoresNothing.trans {a b c : State} (h : StoresNothing a b) (g : StoresNothing b c) : StoresNothing a c :=
  ⟨g.mem.trans h.mem, g.host.trans h.host, g.cores.trans h.cores⟩

theorem StoresNothing.of_views {s t : State} (h : ViewsOnly s t) : StoresNothing s t := by
  rw [h]
  exact ⟨rfl, rfl, rfl⟩

theorem StoresNothing.fold {α β : Type} {f : β → α → β} {p : β → State} (h : ∀ b a, StoresNothing (p b) (p (f b a))) (l : List α)
    (b : β) : StoresNothing (p b) (p (l.foldl f b)) := by
  induction l generalizing b with
  | nil => exact StoresNothing.refl
  | cons a l ih => exact (h b a).trans (ih _)

theorem l2Fill_stores_nothing (s : State) (p q l d : Nat) : StoresNothing s (l2Fill s p q l d) := by
  unfold l2Fill
  simp only
  repeat' split
  all_goals exact ⟨rfl, rfl, rfl⟩

theorem clearUnit_stores_nothing (s : State) (p q l d u : Nat) : StoresNothing s (clearUnit s p q l d u) := ⟨rfl, rfl, rfl⟩

theorem clearUnits_store_nothing (p q l d : Nat) (us : List Nat) (s : State) :
    StoresNothing s (us.foldl (fun s u => clearUnit s p q l d u) s) :=
  StoresNothing.fold (p := id) (fun s u => clearUnit_stores_nothing s p q l d u) us s

theorem trip_stores_nothing (s : State) (p d : Nat) (a : Answer) : StoresNothing s (trip s p d a) := by
  unfold trip
  split <;> exact ⟨rfl, rfl, rfl⟩

theorem lineTrip_stores_nothing (s : State) (p q g : Nat) (bs : List Byte) : StoresNothing s (lineTrip s p q g bs) := by
  unfold lineTrip
  repeat' split
  all_goals first | exact trip_stores_nothing .. | exact StoresNothing.refl

theorem readTrips_stores_nothing (s : State) (p q g : Nat) (bs : List Byte) : StoresNothing s (readTrips s p q g bs) :=
  StoresNothing.fold (p := id) (fun s _ => lineTrip_stores_nothing s _ _ _ _) _ s

theorem inject_stores_nothing (s : State) (id : Nat) : StoresNothing s (inject s id) := by
  unfold inject
  simp only
  repeat' split
  all_goals exact ⟨rfl, rfl, rfl⟩

/-! ### The walk -/

theorem walkRead8_stores_nothing (s : State) (p q g l : Nat) : StoresNothing s (walkRead8 s p q g l).1 := by
  unfold walkRead8
  split
  · exact readTrips_stores_nothing ..
  all_goals exact StoresNothing.refl

theorem walkFrom_stores_nothing (s : State) (p q va limit fuel level table : Nat) :
    StoresNothing s (walkFrom s p q va limit fuel level table).1 := by
  induction fuel generalizing s level table with
  | zero => exact StoresNothing.refl
  | succ fuel ih =>
    have hread := walkRead8_stores_nothing s p q (table + 8 * bits va (43 - 9 * level) 9) level
    unfold walkFrom
    simp only
    split
    · next hw =>
      rw [hw] at hread
      exact hread
    · next hw =>
      rw [hw] at hread
      split
      · exact hread
      · split
        · exact hread
        · split
          · exact hread
          · exact hread.trans (ih ..)

theorem rootOf_stores_nothing (s : State) (p q : Nat) (c : Word) : StoresNothing s (rootOf s p q c).1 := by
  unfold rootOf
  split
  · exact StoresNothing.refl
  · next L _ =>
    have hrec := walkRead8_stores_nothing s p q L.paging.toNat 0
    split
    · next hw =>
      rw [hw] at hrec
      exact hrec
    · next s1 roots hw =>
      rw [hw] at hrec
      have hroot := walkRead8_stores_nothing s1 p q (roots + 8 * (c.toNat % 4096)) 0
      split
      · next hw2 =>
        rw [hw2] at hroot
        exact hrec.trans hroot
      · next hw2 =>
        rw [hw2] at hroot
        exact hrec.trans hroot

theorem walk_stores_nothing (s : State) (p q : Nat) (c : Word) (va : Nat) : StoresNothing s (walk s p q c va).1 := by
  have hroot := rootOf_stores_nothing s p q c
  unfold walk
  split
  · next hw =>
    rw [hw] at hroot
    exact hroot
  · next hw =>
    rw [hw] at hroot
    exact hroot.trans (walkFrom_stores_nothing ..)

/-! ### The register window -/

theorem pageWrite_stores_nothing {s t : State} {p i o : Nat} {v : DWord} {m : Nat} {l : Level} {u : Option UnitId}
    (h : pageWrite s p i o v m l u = .ok t) : StoresNothing s t := by
  unfold pageWrite at h
  simp only at h
  repeat' split at h
  all_goals first
    | (injection h with h; subst h; exact ⟨rfl, rfl, rfl⟩)
    | cases h

theorem windowWrite_stores_nothing {s t : State} {p off : Nat} {bs : List Byte} {l : Level} {u : Option UnitId}
    (h : windowWrite s p off bs l u = .ok t) : StoresNothing s t := by
  unfold windowWrite at h
  simp only at h
  split at h
  · injection h with h
    subst h
    exact ⟨rfl, rfl, rfl⟩
  · split at h
    · exact pageWrite_stores_nothing h
    · injection h with h
      subst h
      exact StoresNothing.refl

theorem laneAtWindow_stores_nothing (p l d : Nat) (lvl : Level) (u : Option UnitId) (acc : State × Answer) (o : LaneOp) :
    StoresNothing acc.1 (laneAtWindow p l d lvl u acc o).1 := by
  unfold laneAtWindow
  simp only
  split
  · exact StoresNothing.refl
  · exact StoresNothing.refl
  · exact StoresNothing.refl
  · split
    · next h => exact windowWrite_stores_nothing h
    · exact StoresNothing.refl

/-! ## Operations that keep a byte -/

/-- The byte at a, host memory and the cores are as before. -/
structure KeepsByte (a : Nat) (s t : State) : Prop where
  byte : Memory.read t.mem a = Memory.read s.mem a
  host : t.hostMem = s.hostMem
  cores : t.cores = s.cores

section Byte

variable {a : Nat} {s t u : State}

theorem StoresNothing.keeps (h : StoresNothing s t) : KeepsByte a s t := ⟨by rw [h.mem], h.host, h.cores⟩

theorem KeepsByte.refl : KeepsByte a s s := ⟨rfl, rfl, rfl⟩

theorem KeepsByte.trans (h : KeepsByte a s t) (g : KeepsByte a t u) : KeepsByte a s u :=
  ⟨g.byte.trans h.byte, g.host.trans h.host, g.cores.trans h.cores⟩

theorem length_leBytes (n v : Nat) : (leBytes n v).length = n := by
  induction n generalizing v with
  | zero => rfl
  | succ n ih => rw [leBytes, List.length_cons, ih]

theorem homeStore_keeps (s : State) (p q l : Nat) {x : Nat} {bs : List Byte} (h : a < x ∨ x + bs.length ≤ a) :
    KeepsByte a s (homeStore s p q l x bs) :=
  ⟨read_writeBytes_out _ _ _ _ h, rfl, rfl⟩

/-- One lane at its home keeps the bytes outside those that it writes. -/
theorem laneAtHome_keeps (p q l d : Nat) (c : Word) (acc : State × Answer) (o : LaneOp)
    (h : o.writes = true → a < d * 64 + o.off ∨ d * 64 + o.off + o.len ≤ a) :
    KeepsByte a acc.1 (laneAtHome p q l d c acc o).1 := by
  unfold laneAtHome
  simp only
  split
  · exact KeepsByte.refl
  · exact ⟨rfl, rfl, rfl⟩
  · split
    · exact KeepsByte.refl
    · exact ⟨rfl, rfl, rfl⟩
  · exact KeepsByte.refl
  · next bs _ hact =>
    exact homeStore_keeps _ _ _ _ (by simpa only [LaneOp.writes, LaneOp.len, hact, forall_const] using h)
  · next op _ hact =>
    have hw : o.writes = true := by simp only [LaneOp.writes, hact]
    split
    · exact homeStore_keeps _ _ _ _ (by rw [length_leBytes]; exact h hw)
    · exact KeepsByte.refl

theorem KeepsByte.fold {α β : Type} {f : β → α → β} {p : β → State} {l : List α}
    (h : ∀ b, ∀ x ∈ l, KeepsByte a (p b) (p (f b x))) (b : β) : KeepsByte a (p b) (p (l.foldl f b)) := by
  induction l generalizing b with
  | nil => exact KeepsByte.refl
  | cons x l ih =>
    exact (h b x (List.mem_cons_self ..)).trans (ih (fun b y hy => h b y (List.mem_cons_of_mem _ hy)) (f b x))

/-- A line performed keeps the bytes outside those that its lanes write, and every byte where it is a register window. -/
theorem performAt_keeps (s : State) (p q l d : Nat) (c : Word) (lvl : Level) (w : Option UnitId) {ops : List LaneOp}
    (h : isWindow (d * 64) = false → ∀ o ∈ ops, o.writes = true → a < d * 64 + o.off ∨ d * 64 + o.off + o.len ≤ a) :
    KeepsByte a s (performAt s p q l d c lvl w ops).1 := by
  unfold performAt
  split
  · exact (StoresNothing.fold (p := Prod.fst) (fun acc o => laneAtWindow_stores_nothing p l d lvl w acc o) ops (s, {})).keeps
  · next hwin =>
    unfold performDev
    simp only
    refine ((l2Fill_stores_nothing s p q l d).trans (clearUnits_store_nothing p q l d _ _)).keeps.trans
      (KeepsByte.fold (p := Prod.fst) (fun acc o ho => laneAtHome_keeps p q l d c acc o (h ?_ o ho)) (_, {}))
    exact Bool.eq_false_iff.mpr hwin

theorem mem_seen {r : LineReq} {m : List Host.Cell} {place : Nat} {o' : LaneOp} (h : o' ∈ r.seen s m place) :
    ∃ o ∈ r.ops, o'.act = o.act ∧ o'.off = o.off := by
  unfold LineReq.seen at h
  split at h
  · exact ⟨o', h, rfl, rfl⟩
  · obtain ⟨o, ho, rfl⟩ := List.mem_map.mp h
    refine ⟨o, ho, ?_⟩
    split <;> exact ⟨rfl, rfl⟩

theorem performLine_keeps {r : LineReq} {d : Nat} (h : isWindow (d / 64 * 64) = false → ∀ o ∈ r.ops, o.writes = true →
      a < d / 64 * 64 + o.off ∨ d / 64 * 64 + o.off + o.len ≤ a) : KeepsByte a s (performLine s r d).1 := by
  have hjoin : KeepsByte a s (joinWords s r) := (StoresNothing.of_views (joinWords_views s r)).keeps
  unfold performLine
  simp only
  split
  · next hwin => exact hjoin.trans (performAt_keeps _ _ _ _ _ _ _ _ fun hno => absurd hwin (by rw [hno]; exact Bool.false_ne_true))
  · refine hjoin.trans (KeepsByte.trans (performAt_keeps _ _ _ _ _ _ _ _ fun hno o' ho' hw => ?_)
      (StoresNothing.of_views (noteStores_views ..)).keeps)
    obtain ⟨o, ho, hact, hoff⟩ := mem_seen ho'
    have hw' : o.writes = true := by rw [← hw]; simp only [LaneOp.writes, hact]
    have hlen : o'.len = o.len := by simp only [LaneOp.len, hact]
    rw [hoff, hlen]
    exact h hno o ho hw'

/-- A line request sent keeps the bytes outside those that it stores. -/
theorem sendLine_keeps {acc : Sending} {r : LineReq} (hcnt : r.cnt = none) (h : outside a (storedLine acc.s r)) :
    KeepsByte a acc.s (sendLine acc r).s := by
  unfold sendLine
  simp only [countLine_none hcnt]
  split
  · exact ⟨rfl, rfl, rfl⟩
  · next d hloc =>
    split
    · exact ⟨rfl, rfl, rfl⟩
    · split
      · next hpkg =>
        refine performLine_keeps fun hno o ho hw => h (d / 64 * 64 + o.off, o.len) ?_
        simp only [storedLine, hloc, hpkg, hno, Bool.not_false, Bool.and_self, if_true]
        exact List.mem_map.mpr ⟨o, List.mem_filter.mpr ⟨ho, hw⟩, rfl⟩
      · split
        · exact KeepsByte.refl
        · refine KeepsByte.trans ?_ (inject_stores_nothing _ _).keeps
          exact ⟨rfl, rfl, rfl⟩
  · split
    · exact KeepsByte.refl
    · split
      · exact KeepsByte.refl
      · exact ⟨rfl, rfl, rfl⟩

/-- One line of a word, sent or queued. -/
def sendOrQueue (I : Issuer) (id : Nat) (acc : Sending) (r : LineReq) : Sending :=
  if heldBack acc.s I.u I.mask id || pieceBefore acc.s r acc.s.held.length then queueBehind acc r else postLine acc r

theorem outside_append {l m : List (Nat × Nat)} : outside a (l ++ m) ↔ outside a l ∧ outside a m := List.forall_mem_append

/-- The lines of a word, sent in order, keep the bytes outside those that they store now. -/
theorem sendAll_keeps {I : Issuer} {id : Nat} {acc : Sending} {l : List LineReq} (hcnt : ∀ r ∈ l, r.cnt = none)
    (h : outside a (storedAll I id acc l)) : KeepsByte a acc.s (l.foldl (sendOrQueue I id) acc).s := by
  induction l generalizing acc with
  | nil => exact KeepsByte.refl
  | cons r l ih =>
    have hrest := fun r hr => hcnt r (List.mem_cons_of_mem _ hr)
    rw [List.foldl_cons]
    unfold storedAll at h
    by_cases hb : (heldBack acc.s I.u I.mask id || pieceBefore acc.s r acc.s.held.length) = true
    · rw [if_pos hb] at h
      rw [sendOrQueue, if_pos hb]
      refine KeepsByte.trans ?_ (ih hrest h)
      exact ⟨rfl, rfl, rfl⟩
    · rw [if_neg hb] at h
      rw [sendOrQueue, if_neg hb, postLine]
      by_cases hslow : isSlow acc.s r = true
      · rw [if_pos hslow] at h
        rw [if_pos hslow]
        refine KeepsByte.trans ?_ (ih hrest h)
        exact ⟨rfl, rfl, rfl⟩
      · rw [if_neg hslow, outside_append] at h
        rw [if_neg hslow]
        exact (sendLine_keeps (hcnt r (List.mem_cons_self ..)) h.1).trans (ih hrest h.2)

end Byte

/-! ## Translations (R72) -/

/-- The leaf that a walk finds stands at a multiple of eight bytes. -/
theorem walkFrom_leaf_aligned {s : State} {p q va limit fuel level table e place lv : Nat} (htable : table % 8 = 0)
    (h : (walkFrom s p q va limit fuel level table).2 = .leaf e place lv) : place % 8 = 0 := by
  induction fuel generalizing s level table with
  | zero => cases h
  | succ fuel ih =>
    unfold walkFrom at h
    simp only at h
    split at h
    · next w _ hw =>
      unfold walkRead8 at hw
      split at hw <;> cases hw <;> cases h
    · split at h
      · cases h
      · split at h
        · split at h
          · cases h
          · injection h with he hplace hlv
            omega
        · split at h
          · cases h
          · refine ih ?_ h
            rw [Nat.shiftLeft_eq]
            omega

theorem walkRead8_no_leaf {s : State} {p q g l e place lv : Nat} : (walkRead8 s p q g l).2 ≠ .inl (.leaf e place lv) := by
  unfold walkRead8
  split <;> exact fun h => nomatch h

/-- The root table of a context is aligned, and its reads end in no leaf. -/
theorem rootOf_spec (s : State) (p q : Nat) (c : Word) :
    (∃ w, (rootOf s p q c).2 = .inl w ∧ ∀ e place lv, w ≠ .leaf e place lv) ∨ ∃ t, (rootOf s p q c).2 = .inr t ∧ t % 8 = 0 := by
  unfold rootOf
  split
  · exact .inl ⟨_, rfl, fun _ _ _ h => nomatch h⟩
  · next L _ =>
    split
    · next w hw => exact .inl ⟨_, rfl, fun e place lv h => walkRead8_no_leaf (by rw [hw, h])⟩
    · split
      · next w hw => exact .inl ⟨_, rfl, fun e place lv h => walkRead8_no_leaf (by rw [hw, h])⟩
      · simp only
        split
        · exact .inl ⟨_, rfl, fun _ _ _ h => nomatch h⟩
        · split
          · exact .inl ⟨_, rfl, fun _ _ _ h => nomatch h⟩
          · exact .inr ⟨_, rfl, by rw [Nat.shiftLeft_eq]; omega⟩

theorem walk_leaf_aligned {s : State} {p q va e place lv : Nat} {c : Word} (h : (walk s p q c va).2 = .leaf e place lv) :
    place % 8 = 0 := by
  have hroot := rootOf_spec s p q c
  unfold walk at h
  split at h
  · next w hw =>
    rw [hw] at hroot
    rcases hroot with ⟨w', hw', hno⟩ | ⟨t, ht, -⟩
    · cases hw'
      exact absurd h (hno e place lv)
    · cases ht
  · next t hw =>
    rw [hw] at hroot
    rcases hroot with ⟨w', hw', -⟩ | ⟨t', ht, hal⟩
    · cases hw'
    · cases ht
      exact walkFrom_leaf_aligned hal h

/-- A place of the device stands in its line where its guest-physical address does. -/
theorem locate_offset {s : State} {p q g d : Nat} {w : Bool} (h : locate s p q g w = some (.dev d)) : d % 64 = g % 64 := by
  unfold locate at h
  split at h
  · injection h with h
    injection h with h
    omega
  · unfold secondStage at h
    split at h
    · cases h
    · simp only at h
      split at h
      · cases h
      · split at h
        · cases h
        · split at h
          · cases h
          · split at h
            · cases h
            · injection h with h
              injection h with h
              rw [← h, Nat.shiftLeft_eq]
              omega

theorem noteStored_stores_nothing (s : State) (p g : Nat) (w : ThreadId) (page : Option (Word × Nat)) (bs : List Byte) :
    StoresNothing s (noteStored s p g w page bs) := by
  unfold noteStored
  split
  · exact StoresNothing.refl
  · exact StoresNothing.fold (p := id) (fun s _ => StoresNothing.of_views (noteStore_views ..)) _ s

/-- Eight bytes of a word written at an aligned address keep the bytes outside their place, where it is of device memory,
or are written to host memory. -/
theorem linePut_keeps {s : State} {p q g a : Nat} {bs : List Byte} {c : Word} {lvl : Level} {u : Option UnitId} {t : State × Bool}
    (h : linePut s p q g bs c lvl u = .ok t) (hout : ∀ d, locate s p q g true = some (.dev d) → a < d ∨ d + bs.length ≤ a) :
    Memory.read t.1.mem a = Memory.read s.mem a := by
  unfold linePut at h
  split at h
  · cases h
  · split at h
    · cases h
    · split at h
      · cases h
      · injection h with h
        rw [← h]
  · next d hloc =>
    split at h
    · cases h
    · split at h
      · cases h
      · simp only at h
        split at h
        · cases h
        · injection h with h
          subst h
          have hd := locate_offset hloc
          refine (congrArg (Memory.read · a) (trip_stores_nothing _ _ _ _).mem).trans (performAt_keeps _ _ _ _ _ _ _ _ ?_).byte
          intro _ o ho _
          obtain rfl := List.mem_singleton.mp ho
          have hplace : d / 64 * 64 + g % 64 = d := by omega
          simp only [hplace, LaneOp.len]
          exact hout d hloc

theorem gpaWrite8_keeps {s t : State} {p q g a : Nat} {bs : List Byte} {c : Word} {lvl : Level} {u : Option UnitId} (hal : g % 8 = 0)
    (hlen : bs.length = 8) (h : gpaWrite s p q g bs c lvl u = .ok t)
    (hout : ∀ d, locate s p q g true = some (.dev d) → a < d ∨ d + 8 ≤ a) : Memory.read t.mem a = Memory.read s.mem a := by
  have hpieces : pieces (bs.length / 64 + 2) g bs.length = [(g, 8)] := by
    rw [hlen]
    have hk : min 8 (64 - g % 64) = 8 := by omega
    simp [pieces, hk]
  have htake : (bs.drop (g - g)).take 8 = bs := by
    rw [Nat.sub_self, List.drop_zero, List.take_of_length_le (Nat.le_of_eq hlen)]
  unfold gpaWrite gpaPut gpaStore at h
  rw [hpieces] at h
  simp only [List.foldl_cons, List.foldl_nil, htake] at h
  cases hput : linePut s p q g bs c lvl u with
  | ok y =>
    rw [hput] at h
    injection h with h
    rw [← h, (noteStored_stores_nothing _ _ _ _ _ _).mem]
    exact linePut_keeps hput fun d hd => hlen.symm ▸ hout d hd
  | s2 _ => rw [hput] at h; cases h
  | mem _ _ => rw [hput] at h; cases h
  | win _ _ => rw [hput] at h; cases h
  | wait _ => rw [hput] at h; cases h

theorem markLeaf_keeps {s t : State} {p q e place a : Nat} {c : Word} {w : Bool} (hal : place % 8 = 0)
    (h : markLeaf s p q c e place w = .ok t) (hout : ∀ d, locate s p q place true = some (.dev d) → a < d ∨ d + 8 ≤ a) :
    Memory.read t.mem a = Memory.read s.mem a := by
  unfold markLeaf at h
  simp only at h
  generalize (e ||| 0x40 ||| (if w then 0x80 else 0)) = e' at h
  split at h
  · injection h with h
    rw [h]
  · exact gpaWrite8_keeps hal (length_leBytes ..) h hout

theorem installLast_mem (s : State) (w : Who) (e : TlbEnt) : (installLast s w e).mem = s.mem := by
  unfold installLast
  split <;> rfl

theorem installEnt_mem (s : State) (w : Who) (va : Nat) (e : TlbEnt) : (installEnt s w va e).mem = s.mem := by
  have h := installLast_mem s w (e.sub (va >>> 16))
  unfold installEnt
  simp only
  split <;> exact h

/-- A translation leaves memory alone, or sets bits of the leaf that its walk finds. -/
theorem translate_mem (s : State) (w : Who) (va : Nat) (write : Bool) :
    (Machine.translate s w va write).1.mem = s.mem ∨
    ∃ e place lv t, (walk s w.pkg w.part w.ctx va).2 = .leaf e place lv ∧
      markLeaf (walk s w.pkg w.part w.ctx va).1 w.pkg w.part w.ctx e place write = .ok t ∧ (Machine.translate s w va write).1.mem = t.mem := by
  have hwalk := (walk_stores_nothing s w.pkg w.part w.ctx va).mem
  unfold Machine.translate
  simp only
  generalize walk s w.pkg w.part w.ctx va = x at hwalk ⊢
  obtain ⟨s1, x⟩ := x
  cases x with
  | leaf e place lv =>
    simp only
    repeat' split
    all_goals first
      | exact .inl rfl
      | exact .inl hwalk
      | exact .inl (installLast_mem ..)
      | (next hmark => exact .inr ⟨e, place, lv, _, rfl, hmark, installEnt_mem ..⟩)
  | _ =>
    simp only
    repeat' split
    all_goals first
      | exact .inl rfl
      | exact .inl hwalk
      | exact .inl (installLast_mem ..)

/-- A cached translation that serves the access stores nothing. -/
theorem translate_cached {s : State} {w : Who} {va : Nat} {write : Bool} {e : TlbEnt} (h : cachedEnt s w (va >>> 16) = some e)
    (hserves : write = true → e.d = true ∧ e.wb = false ∨ e.w = false) : (Machine.translate s w va write).1.mem = s.mem := by
  have hcond : (write && (!e.d || e.wb) && e.w) = false := by
    cases write with
    | false => rfl
    | true =>
      rcases hserves rfl with ⟨hd, hwb⟩ | hw
      · rw [hd, hwb]
        rfl
      · rw [hw, Bool.and_false]
  unfold Machine.translate
  split
  · rfl
  · simp only [h, hcond, Bool.false_eq_true, if_false]
    split
    · exact installLast_mem ..
    · rfl

/-! ## A word's stores -/

theorem sendLines_eq (s : State) (I : Issuer) (write : Bool) (id : Nat) (xs : List Located) :
    sendLines s I write id (groupLines xs) = (lineRequests I write id xs).foldl (sendOrQueue I id) { s := s } := by
  rw [sendLines, lineRequests, List.foldl_map]
  rfl

/-- A word that completes at once has sent its lines, and owes its unit at most traps. -/
theorem memIssue_done_sent {s t : State} {I : Issuer} {write whole : Bool} {rs : List MemReq} {dest : Dest} {acq : Nat}
    {mark : State → State} (h : memIssue s I write whole rs dest acq mark = .done t) : t.mem = (issueSends s I write rs mark).s.mem := by
  unfold memIssue at h
  simp only at h
  split at h
  · split at h
    · cases h
    · split at h
      · cases h
      · split at h
        · injection h with h
          rw [← h, (addDue_keeps _ _ _).2.1]
          rfl
        · injection h with h
          rw [← h]
          rfl
  · generalize verdict _ _ _ _ _ = v at h
    cases v <;> cases h

/-- Settles O37: sends keep the bytes outside what they store, translations those outside their leaf. -/
theorem storeFrame : Obligations.StoreFrame := by
  refine ⟨fun I id acc l a hcnt hout => ?_, fun s w va write a hleaf => ?_, fun s w va write e h hserves => translate_cached h hserves,
    fun s I write whole rs dest acq mark t a hdone hcnt hout => ?_⟩
  · obtain ⟨hbyte, hhost, hcores⟩ := sendAll_keeps hcnt hout
    exact ⟨hbyte, hhost, hcores⟩
  · rcases translate_mem s w va write with h | ⟨e, place, lv, t, hwalk, hmark, h⟩
    · rw [h]
    · rw [h, ← (walk_stores_nothing s w.pkg w.part w.ctx va).mem]
      exact markLeaf_keeps (walk_leaf_aligned hwalk) hmark fun d hd => hleaf e place lv d hwalk hd
  · have hnone : ∀ r ∈ lineRequests I write (translateAll s I write rs).1.nextId (translateAll s I write rs).2, r.cnt = none := by
      intro r hr
      obtain ⟨l, hl, rfl⟩ := List.mem_map.mp hr
      rw [hcnt l hl]
      rfl
    rw [memIssue_done_sent hdone, issueSends, sendLines_eq]
    exact (sendAll_keeps hnone hout).byte

end Sys2Proof.MemoryProofs
end


section
/-! PROOFS. The scratchpad words, PREF and CLEAN (07_local_memory.md R149, R165, R166, R171). -/

namespace Sys2Proof.MemoryProofs

open Sys2Proof.Machine Sys2Proof.Safety Sys2Proof.Laws Sys2Proof.VectorProofs

/-! ## The frame of the scratchpad words -/

section Scratch

variable {f : MS} {s : State} {I : Issuer} {i : Instr} {b n : Nat} {rd wr : Bool} {act : Issuer → Nat → LaneAct} {dest : Dest}

/-- The threads with their scratchpad offsets. -/
def scratchThreads (I : Issuer) (f : MS) (m : DWord) : List (Nat × Nat) := I.threads.map fun i => (i, scratchAt I f m i)

/-- The operation that takes what scratchpad accesses read. -/
def scratchOp (I : Issuer) (dest : Dest) (ans : Answer) : PendOp :=
  { unit := I.u, dest := dest, ter := I.ter, keys := I.threads, waiting := 0, got := ans.got, errs := ans.errs, lanes := I.mask }

/-- What the scratchpad accesses leave. -/
def scratchDone (s : State) (I : Issuer) (l : List (Nat × Nat)) (d n : Nat) (wr : Bool) (act : Nat → LaneAct) (dest : Dest) : State :=
  if wr then
    let r := scratchRun { (emptyGroup s I d n) with nextId := s.nextId + 1 } I l act
    { r.1 with ops := Tab.set r.1.ops s.nextId (scratchOp I dest r.2) }
  else (scratchRun s I l act).1

theorem scratchFree_goes (h : ScratchFree s I) : (heldBack s I.u I.mask s.nextId || slowLocal s I.u s.nextId ||
    (outstanding s I.u I.mask).any (·.2.acq != 0) || matWrites s I.u s.nextId) = false := by
  obtain ⟨hheld, hslow, hacq, hmat⟩ := h
  have hany : (outstanding s I.u I.mask).any (·.2.acq != 0) = false := by
    refine List.any_eq_false.mpr fun e he => ?_
    rw [bne, List.all_eq_true.mp hacq e he]
    exact Bool.false_ne_true
  rw [hheld, hslow, hany, hmat]
  rfl

/-- The offsets of threads that all have one. -/
theorem good_threads {m : DWord} (h : InScratch I f m b) :
    ((I.threads.map fun i => (i, I.maj (fun l => ((I.vreg f.va.toNat).at l).toNat) i,
        msOffset f m (I.maj (fun l => ((I.vreg f.va.toNat).at l).toNat) i))).filterMap
      fun x : Nat × Nat × Option Nat => x.2.2.map fun o => (x.1, o)) = scratchThreads I f m := by
  rw [List.filterMap_map, scratchThreads, ← List.filterMap_eq_map]
  refine ListFacts.filterMap_eq_of_forall fun i hi => ?_
  obtain ⟨o, ho, -⟩ := h i hi
  simp only [Function.comp, ho, Option.map_some, scratchAt, Option.getD_some]

theorem scratch_aligned {m : DWord} (h : InScratch I f m b) : misaligned (scratchThreads I f m) b = [] := by
  refine List.filter_eq_nil_iff.mpr fun x hx => ?_
  obtain ⟨i, hi, rfl⟩ := List.mem_map.mp hx
  obtain ⟨o, ho, hal, -⟩ := h i hi
  simp only [scratchAt, ho, Option.getD_some, hal, bne_self_eq_false, Bool.false_eq_true, not_false_eq_true]

/-- Every thread's access lies in its map or in the scratchpad. -/
theorem scratch_inBounds {m : DWord} {out : Nat × Nat × Option Nat → Bool} (h : InScratch I f m b)
    (hout : ∀ i v o, (f.map = 0 → o + b ≤ I.blk.scratchLen) → out (i, v, some o) = false) :
    ((I.threads.map fun i => (i, I.maj (fun l => ((I.vreg f.va.toNat).at l).toNat) i,
        msOffset f m (I.maj (fun l => ((I.vreg f.va.toNat).at l).toNat) i))).filter out) = [] := by
  refine List.filter_eq_nil_iff.mpr fun x hx => ?_
  obtain ⟨i, hi, rfl⟩ := List.mem_map.mp hx
  obtain ⟨o, ho, -, hfits⟩ := h i hi
  rw [ho, hout i _ o hfits]
  exact Bool.false_ne_true

theorem scratchFrame_exec (hi : QuireIssues s i I) (hready : ScratchReady s I f b n rd wr) :
    scratchFrame i f s b n rd wr act dest =
      .next (complete (scratchDone s I (scratchThreads I f (Tab.get 0 (s.coreOf I.blk.core).t f.t.toNat)) f.data.toNat n wr (act I) dest) I) := by
  obtain ⟨hv, hgroup, hmap, hs, hd, hag, hin, hfree⟩ := hready
  have hmapOk : (f.map == 0 || (tmNibbles (Tab.get 0 (s.coreOf I.blk.core).t f.t.toNat) == 2 * b &&
      mapFormed (Tab.get 0 (s.coreOf I.blk.core).t f.t.toNat) I.blk.scratchLen 1)) = true := by
    rcases hmap with h | ⟨h, hformed⟩
    · rw [h]
      rfl
    · rw [h, hformed, beq_self_eq_true, Bool.and_self, Bool.or_true]
  have hpass : (I.vOk f.va.toNat 1 && I.groupOk f.data.toNat n && (f.map == 0 ||
      (tmNibbles (Tab.get 0 (s.coreOf I.blk.core).t f.t.toNat) == 2 * b &&
        mapFormed (Tab.get 0 (s.coreOf I.blk.core).t f.t.toNat) I.blk.scratchLen 1))) = true := by
    rw [hv, hgroup, hmapOk]
    rfl
  rw [scratchFrame, onQuire_eq hi]
  refine (congrArg (Act.finish · s I) ?_).trans (finish_done _ s I)
  refine (if_neg (Bool.eq_false_iff.mp (congrArg not hpass))).trans ((withSrcs_full hs hd _).trans ?_)
  simp only [split_nil hag, good_threads hin, scratch_aligned hin, alignTrap]
  rw [scratch_inBounds hin]
  · simp only [List.map_nil, boundsTrap]
    refine (if_neg (Bool.eq_false_iff.mp (scratchFree_goes hfree))).trans ?_
    cases wr <;> simp only [Bool.false_eq_true, if_false, if_true, scratchDone, scratchOp]
  · intro t v o hfits
    simp only [Bool.and_eq_false_imp, beq_iff_eq, decide_eq_false_iff_not, Nat.not_lt]
    exact hfits

end Scratch

/-! ## The accesses, thread by thread -/

theorem coreOf_scratchRun (s : State) (I : Issuer) (l : List (Nat × Nat)) (act : Nat → LaneAct) :
    (scratchRun s I l act).1.coreOf I.blk.core =
      (l.foldl (fun acc x => sramLane acc x.1 (I.blk.scratchBase + x.2) (act x.1)) (s.coreOf I.blk.core, ({} : Answer), false)).1 := by
  have hupd : ∀ c : Core, (s.updCore I.blk.core fun _ => c).coreOf I.blk.core = c := fun c => by
    simp only [State.coreOf, State.updCore_cores, Tab.get_set_self]
  simp only [scratchRun]
  split
  · exact hupd _
  · exact hupd _

theorem got_scratchRun (s : State) (I : Issuer) (l : List (Nat × Nat)) (act : Nat → LaneAct) :
    (scratchRun s I l act).2 =
      (l.foldl (fun acc x => sramLane acc x.1 (I.blk.scratchBase + x.2) (act x.1)) (s.coreOf I.blk.core, ({} : Answer), false)).2.1 := rfl

/-- What a scratchpad access leaves and answers does not depend on the answers before it. -/
theorem sramLane_split (c : Core) (ans : Answer) (dropped : Bool) (key a : Nat) (act : LaneAct) :
    (sramLane (c, ans, dropped) key a act).1 = (sramLane (c, {}, false) key a act).1 ∧
    (sramLane (c, ans, dropped) key a act).2.1.got = ans.got ++ (sramLane (c, {}, false) key a act).2.1.got := by
  cases act with
  | rd n =>
    simp only [sramLane]
    split
    · exact ⟨rfl, (List.append_nil _).symm⟩
    · exact ⟨rfl, rfl⟩
  | wr bs => exact ⟨rfl, (List.append_nil _).symm⟩
  | amo op =>
    simp only [sramLane]
    split
    · exact ⟨rfl, (List.append_nil _).symm⟩
    · exact ⟨rfl, rfl⟩

/-- A store that meets no bad word writes its bytes. -/
theorem sramStore_good {c : Core} {a : Nat} {bs : List Byte} (h : c.sramBad a bs.length = false) :
    (c.sramStore a bs).1.sram = Memory.writeBytes c.sram a bs := by
  have hfewer : ∀ ws : List Nat, ({ c with badSram := c.badSram.filter fun w => !ws.contains w } : Core).sramBad a bs.length = false := by
    intro ws
    refine List.any_eq_false.mpr fun w hw hbad => ?_
    rw [List.contains_iff_mem] at hbad
    exact List.any_eq_false.mp h w hw (List.contains_iff_mem.mpr (List.mem_filter.mp hbad).1)
  simp only [Core.sramStore, hfewer, Bool.false_eq_true, if_false]

theorem scratchRun_one (s : State) (I : Issuer) (act : Nat → LaneAct) (t o : Nat) :
    let c := s.coreOf I.blk.core
    let a := I.blk.scratchBase + o
    let r := scratchRun s I [(t, o)] act
    let m := (r.1.coreOf I.blk.core).sram
    (∀ n, act t = .rd n → c.sramBad a n = false → m = c.sram ∧ r.2.got = [(t, Memory.readBytes c.sram a n)]) ∧
    (∀ bs, act t = .wr bs → c.sramBad a bs.length = false → m = Memory.writeBytes c.sram a bs ∧ r.2.got = []) ∧
    (∀ op, act t = .amo op → op.kind = .atom → op.w64 = false → c.sramBad a 4 = false →
      let old := Memory.readBytes c.sram a 4
      m = Memory.writeBytes c.sram a (leBytes 4 (atomInt op.op 32 (ofLe old) op.v.toNat)) ∧ r.2.got = [(t, old)]) := by
  intro c a r m
  have hm : m = (sramLane (c, {}, false) t a (act t)).1.sram := congrArg Core.sram (coreOf_scratchRun s I [(t, o)] act)
  have hgot : r.2.got = (sramLane (c, {}, false) t a (act t)).2.1.got := rfl
  refine ⟨fun n hact hgood => ?_, fun bs hact hgood => ?_, fun op hact hkind hw hgood => ?_⟩
  · rw [hm, hgot, hact]
    simp only [sramLane, hgood, Bool.false_eq_true, if_false]
    exact ⟨trivial, rfl⟩
  · rw [hm, hgot, hact]
    exact ⟨sramStore_good hgood, rfl⟩
  · intro old
    rw [hm, hgot, hact]
    have hstores : op.stores (ofLe old) = true := by rw [AtomOp.stores, hkind]; rfl
    have hnew : atomNew op (ofLe old) = atomInt op.op 32 (ofLe old) op.v.toNat := by
      simp only [atomNew, hkind, hw, Bool.false_eq_true, if_false]
    simp only [sramLane, hgood, Bool.false_eq_true, if_false]
    exact ⟨(if_pos hstores).trans (congrArg (fun v => Memory.writeBytes c.sram a (leBytes 4 v)) hnew), rfl⟩

theorem scratchRun_snoc (s : State) (I : Issuer) (act : Nat → LaneAct) (l : List (Nat × Nat)) (x : Nat × Nat) :
    let r := scratchRun s I l act
    let q := scratchRun r.1 I [x] act
    let w := scratchRun s I (l ++ [x]) act
    (w.1.coreOf I.blk.core).sram = (q.1.coreOf I.blk.core).sram ∧ w.2.got = r.2.got ++ q.2.got := by
  intro r q w
  have hq := coreOf_scratchRun r.1 I [x] act
  have hqgot := got_scratchRun r.1 I [x] act
  rw [coreOf_scratchRun s I l act] at hq hqgot
  have hw := coreOf_scratchRun s I (l ++ [x]) act
  have hwgot := got_scratchRun s I (l ++ [x]) act
  rw [List.foldl_append, List.foldl_cons, List.foldl_nil] at hw hwgot
  rw [List.foldl_cons, List.foldl_nil] at hq hqgot
  have hrgot := got_scratchRun s I l act
  generalize List.foldl _ _ l = acc at hq hqgot hw hwgot hrgot
  obtain ⟨c, ans, dropped⟩ := acc
  obtain ⟨hcore, hgot⟩ := sramLane_split c ans dropped x.1 (I.blk.scratchBase + x.2) (act x.1)
  refine ⟨congrArg Core.sram (hw.trans (hcore.trans hq.symm)), ?_⟩
  rw [show w.2 = _ from hwgot, show q.2 = _ from hqgot, show r.2 = _ from hrgot]
  exact hgot

/-! ## PREF and CLEAN -/

theorem prefLine_mem (s : State) (I : Issuer) (line : Nat) : (prefLine s I line).mem = s.mem := by
  unfold prefLine
  split
  · split
    · exact (l2Fill_keeps ..).1
    · rfl
  · rfl

theorem cleanLine_mem (s : State) (I : Issuer) (x : Located) : (cleanLine s I x).mem = s.mem := by
  unfold cleanLine
  split
  · split <;> rfl
  · rfl

/-- Settles O38: the frame of the scratchpad words, its accesses one by one, and the line words. -/
theorem scratchAndLineWordsComplete : Obligations.ScratchAndLineWordsComplete := by
  refine ⟨⟨?sts, ?loads, scratchRun_one, scratchRun_snoc⟩, ?pref, prefLine_mem, ?clean, cleanLine_mem⟩
  case sts =>
    intro f s I hi b n m hready
    exact scratchFrame_exec hi hready
  case loads =>
    intro f s I i b n sx rd hmem hi hready
    simp only [List.mem_cons, Prod.mk.injEq, List.not_mem_nil, or_false] at hmem
    rcases hmem with ⟨rfl, rfl, rfl, rfl, rfl⟩ | ⟨rfl, rfl, rfl, rfl, rfl⟩
    · exact scratchFrame_exec hi hready
    · exact scratchFrame_exec hi hready
  case pref =>
    intro f s I hi heven hv hs r hscrub
    have hok : (f.sb.toNat % 2 == 0 && I.vOk f.va.toNat 1) = true := by rw [heven, hv]; rfl
    refine completes_of_done hi rfl ((if_neg (Bool.eq_false_iff.mp (congrArg not hok))).trans ?_)
    rw [checkSrcs_full hs]
    exact if_neg (Bool.eq_false_iff.mp hscrub)
  case clean =>
    intro f s I hi heven hv hs hag t hgo
    have hok : (f.sb.toNat % 2 == 0 && I.vOk f.va.toNat 1) = true := by rw [heven, hv]; rfl
    refine completes_of_done hi rfl ((if_neg (Bool.eq_false_iff.mp (congrArg not hok))).trans ((withSrcs_full hs free_nil _).trans ?_))
    rw [split_nil hag]
    simp only [t, eachThread] at hgo ⊢
    rw [hgo]

end Sys2Proof.MemoryProofs
end


section
/-! PROOFS. Fences and seals (08_ordering.md R185 to R190), and what loads through a second mapping return (R184). -/

namespace Sys2Proof.OrderProofs

open Sys2Proof.Machine Sys2Proof.Safety Sys2Proof.Laws Sys2Proof.VectorProofs Sys2Proof.TransferProofs

/-! ## Fences and seals -/

theorem regionFrame_exec {i : Instr} {f : MF} {s : State} {I : Issuer} (hi : QuireIssues s i I) (hb : f.sb.toNat % 2 = 0)
    (hl : f.sl.toNat % 2 = 0) (hs : Full (I.srcS2 f.sb.toNat ++ I.srcS2 f.sl.toNat)) (k : Issuer → Nat → Nat → Act) :
    regionFrame i f s k = (k I (I.s2 f.sb.toNat).toNat (I.s2 f.sl.toNat).toNat).finish s I := by
  have hok : ¬ (f.sb.toNat % 2 != 0 || f.sl.toNat % 2 != 0) = true := by
    rw [hb, hl]
    decide
  rw [regionFrame, onQuire_eq hi]
  exact congrArg (Act.finish · s I) ((if_neg hok).trans (withSrcs_full hs free_nil _))

section Ends

variable {s t : State} {I : Issuer} {base len : Nat}

theorem fence_ends {sc : Nat} {af : Bool} (hw : WaitsFor s I (.fence sc af base len)) (hdone : fencePending s I (I.scope sc) = false) :
    Completes .fenceComplete s I (if af then fenceAlias s I.aliasThreads base len else countClamp s I sc) := by
  change execFenceComplete s = _
  simp only [execFenceComplete, hw.1, hw.2, hdone, Bool.false_eq_true, if_false, finish_done]

theorem seal_ends {fs : List Nat} (hw : WaitsFor s I (.seal base len)) (hdone : fencePending s I 7 = false)
    (hcheck : sealCheck s I base len = .inr (t, fs)) (hflight : writesInFlight s I.blk.part fs = false) :
    Completes .sealEffect s I (t.updPart I.blk.part fun P =>
      { P with seals := P.seals ++ [{ base := base, len := len, frames := fs, ctx := I.blk.ctx }] }) := by
  change execSealEffect s = _
  simp only [execSealEffect, hw.1, hw.2, hdone, hcheck, hflight, Bool.false_eq_true, if_false, finish_done]

theorem unseal_ends {r : Seal} (hw : WaitsFor s I (.unseal base len)) (hdone : fencePending s I 7 = false)
    (hnamed : sealNamed s I.blk.part base len = some r) :
    Completes .unsealEffect s I (s.updPart I.blk.part fun P => { P with seals := P.seals.erase r }) := by
  change execUnsealEffect s = _
  simp only [execUnsealEffect, hw.1, hw.2, hdone, hnamed, Bool.false_eq_true, if_false, finish_done]

/-- Accesses to host memory alone keep no scope below SYS waiting. -/
theorem opPending_host {sc id : Nat} (hsc : sc < 7) (hheld : s.held = []) (hmsgs : ∀ m ∈ s.msgs, ∃ ha, m.2.tgt = .host ha) :
    opPending s sc id = false := by
  have hnone : (s.msgs.any fun m => m.2.req.op == id && (match m.2.tgt with
      | .dev _ => true
      | .host _ => decide (7 ≤ sc))) = false := by
    refine List.any_eq_false.mpr fun m hm => ?_
    obtain ⟨ha, htgt⟩ := hmsgs m hm
    rw [htgt]
    simp only [decide_eq_false (Nat.not_le.mpr hsc), Bool.and_false, Bool.false_eq_true, not_false_eq_true]
  have hempty : opPending s sc id = (decide (5 ≤ sc) && s.msgs.any fun m => m.2.req.op == id && (match m.2.tgt with
      | .dev _ => true
      | .host _ => decide (7 ≤ sc))) := by
    rw [opPending, hheld]
    rfl
  rw [hempty, hnone, Bool.and_false]

theorem fence_spares_host {sc : Nat} (hsc : sc < 7) (hmat : matWrites s I.u s.nextId = false) (hheld : s.held = [])
    (hmsgs : ∀ m ∈ s.msgs, ∃ ha, m.2.tgt = .host ha) (hops : ∀ e ∈ s.ops, e.2.waiting = 0 → e.2.dest = .none) :
    fencePending s I sc = false := by
  have hperf : unperformed s I.u I.mask s.nextId sc = false := by
    rw [unperformed, hmat, Bool.or_false]
    refine List.any_eq_false.mpr fun e _ => ?_
    rw [opPending_host hsc hheld hmsgs, Bool.and_false]
    exact Bool.false_ne_true
  have hback : ((outstanding s I.u I.mask).any fun e => e.2.dest != .none && e.2.waiting == 0) = false := by
    refine List.any_eq_false.mpr fun e he => ?_
    rw [Bool.and_eq_true, beq_iff_eq, bne_iff_ne]
    rintro ⟨hdest, hwait⟩
    exact hdest (hops e (List.mem_filter.mp he).1 hwait)
  rw [fencePending, hperf, hback, Bool.or_self, Bool.and_false]

end Ends

/-- Settles O39: each word waits with its region, and ends once nothing that its scope carries is owed. -/
theorem fencesAndSealsComplete : Obligations.FencesAndSealsComplete := by
  refine ⟨fun f s I hi => quire_waits hi rfl rfl, fun s I hi => quire_waits hi rfl rfl, fun f s I hi hb hl hs hbase hend => ?afence,
    fun s I sc base len af hw hdone => fence_ends hw hdone, fun f s t I fs hi hb hl hs hcheck => ?sealWaits,
    fun s t I base len fs hw hdone hcheck hflight => seal_ends hw hdone hcheck hflight, fun f s I hi hb hl hs hnamed => ?unsealWaits,
    fun s I base len r hw hdone hnamed => unseal_ends hw hdone hnamed, fun s I sc hsc => ?below,
    fun s I sc hsc hmat hheld hmsgs hops => fence_spares_host hsc hmat hheld hmsgs hops⟩
  case afence =>
    change execAfence f s = _
    rw [execAfence, regionFrame_exec hi hb hl hs, if_neg, finish_wait]
    rw [Bool.or_eq_true, decide_eq_true_eq, decide_eq_true_eq]
    omega
  case sealWaits =>
    change execSeal f s = _
    rw [execSeal, regionFrame_exec hi hb hl hs, hcheck]
    rfl
  case unsealWaits =>
    change execUnseal f s = _
    rw [execUnseal, regionFrame_exec hi hb hl hs, if_neg, finish_wait]
    rw [Option.isNone_iff_eq_none, ← ne_eq, ← Option.isSome_iff_ne_none]
    exact hnamed
  case below =>
    rw [fencePending, decide_eq_false (Nat.not_le.mpr hsc), Bool.false_and]

/-! ## Virtual aliases -/

section Alias

variable {v : View} {w : ThreadId} {ctx : Word} {va off : Nat} {b : Byte} {f : NewerStore → Bool}

/-- A store through the view's own page takes its byte's place. -/
theorem store_ownPage (hown : v.ctx = ctx ∧ v.vpage = va >>> 16) :
    v.store w (some (ctx, va)) off b = { v with bytes := v.bytes.set off b, newer := v.newer.filter (·.off != off) } := by
  have hcond : (some (ctx, va) == some (v.ctx, va) && v.vpage == va >>> 16) = true := by rw [hown.1, hown.2]; simp
  simp only [View.store, hcond, if_true]

/-- One through another page is newer than the view. -/
theorem store_otherPage (hother : v.ctx ≠ ctx ∨ v.vpage ≠ va >>> 16) :
    v.store w (some (ctx, va)) off b = { v with newer := v.newer ++ [{ off := off, val := b, writer := w, va := va }] } := by
  have hcond : (some (ctx, va) == some (v.ctx, va) && v.vpage == va >>> 16) = false := by
    rw [Bool.and_eq_false_iff, beq_eq_false_iff_ne, beq_eq_false_iff_ne]
    rcases hother with h | h
    · exact .inl fun heq => h (by injection heq with heq; injection heq with heq; exact heq.symm)
    · exact .inr h
  simp only [View.store, hcond, Bool.false_eq_true, if_false]

theorem getElem?_publish (v : View) (f : NewerStore → Bool) (i : Nat) :
    (v.publish f).bytes[i]? = v.bytes[i]?.map fun x => (((v.newer.reverse.find? fun e => e.off == i && f e).map (·.val)).getD x) := by
  by_cases h : i < v.bytes.length
  · rw [publish_get v f i h, List.getElem?_eq_getElem h, Option.map_some]
  · have hlen : (v.publish f).bytes.length = v.bytes.length := by simp [View.publish]
    rw [List.getElem?_eq_none (by omega), List.getElem?_eq_none (Nat.not_lt.mp h), Option.map_none]

/-- The last published store to a byte is the one that the view takes. -/
theorem publish_takes {old late : List NewerStore} {e : NewerStore} (hnewer : v.newer = old ++ e :: late)
    (hin : e.off < v.bytes.length) (hf : f e = true) (hlate : ∀ x ∈ late, x.off = e.off → f x = false) :
    (v.publish f).bytes[e.off]? = some e.val := by
  have hnone : late.reverse.find? (fun x => x.off == e.off && f x) = none := by
    refine List.find?_eq_none.mpr fun x hx => ?_
    rw [Bool.and_eq_true, beq_iff_eq]
    rintro ⟨hoff, hpub⟩
    rw [hlate x (List.mem_reverse.mp hx) hoff] at hpub
    exact Bool.false_ne_true hpub
  have hfind : v.newer.reverse.find? (fun x => x.off == e.off && f x) = some e := by
    rw [hnewer, List.reverse_append, List.reverse_cons, List.append_assoc, List.find?_append, hnone, Option.none_or,
      List.singleton_append, List.find?_cons, beq_self_eq_true, hf]
    rfl
  rw [getElem?_publish, hfind, List.getElem?_eq_getElem hin]
  rfl

/-- A byte that no published store wrote stays. -/
theorem publish_keeps {i : Nat} (h : ∀ x ∈ v.newer, x.off = i → f x = false) : (v.publish f).bytes[i]? = v.bytes[i]? := by
  have hfind : v.newer.reverse.find? (fun x => x.off == i && f x) = none := by
    refine List.find?_eq_none.mpr fun x hx => ?_
    rw [Bool.and_eq_true, beq_iff_eq]
    rintro ⟨hoff, hpub⟩
    rw [h x (List.mem_reverse.mp hx) hoff] at hpub
    exact Bool.false_ne_true hpub
  rw [getElem?_publish, hfind]
  cases v.bytes[i]? <;> rfl

/-- A published last store leaves none to its byte unseen. -/
theorem stillNewer_last_published {l : List NewerStore} {e : NewerStore} (hf : f e = true) :
    ∀ x ∈ stillNewer f (l ++ [e]), x.off ≠ e.off := by
  induction l with
  | nil => simp [stillNewer, hf]
  | cons y l ih =>
    rw [List.cons_append, stillNewer]
    split
    · exact ih
    · next hkeep =>
      intro x hx
      rcases List.mem_cons.mp hx with rfl | hx
      · intro hoff
        refine hkeep (List.any_eq_true.mpr ⟨e, List.mem_cons_of_mem _ (List.mem_append_right _ (List.mem_singleton.mpr rfl)), ?_⟩)
        rw [hf, hoff, beq_self_eq_true]
        rfl
      · exact ih x hx

/-- A last store that is not published stays the last. -/
theorem stillNewer_last_kept {l : List NewerStore} {e : NewerStore} (hf : f e = false) : ∃ l', stillNewer f (l ++ [e]) = l' ++ [e] := by
  induction l with
  | nil => exact ⟨[], by simp [stillNewer, hf]⟩
  | cons y l ih =>
    obtain ⟨l', ih⟩ := ih
    rw [List.cons_append, stillNewer, ih]
    split
    · exact ⟨l', rfl⟩
    · exact ⟨y :: l', rfl⟩

/-- The stores that an AFENCE over a region lets the view see. -/
def View.seesAt (v : View) (base len : Nat) (e : NewerStore) : Bool :=
  within base len (v.addr e.off) && (e.fenced || (e.writer == v.thread && within base len e.va))

theorem fence_own (v : View) (base len : Nat) : (v.fence [v.thread] base len).bytes = (v.publish (View.seesAt v base len)).bytes ∧
    (v.fence [v.thread] base len).newer = (stillNewer (View.seesAt v base len) v.newer).map fun e =>
      if [v.thread].contains e.writer && within base len e.va then { e with fenced := true } else e := by
  have hin : [v.thread].contains v.thread = true := by simp
  simp only [View.fence, hin, if_true]
  exact ⟨rfl, rfl⟩

theorem fence_other {t : ThreadId} (h : t ≠ v.thread) (base len : Nat) : (v.fence [t] base len).bytes = v.bytes ∧
    (v.fence [t] base len).newer = v.newer.map fun e =>
      if [t].contains e.writer && within base len e.va then { e with fenced := true } else e := by
  have hout : [t].contains v.thread = false := by simpa using Ne.symm h
  simp only [View.fence, hout, Bool.false_eq_true, if_false]
  exact ⟨trivial, trivial⟩

theorem fence_place (v : View) (ts : List ThreadId) (base len : Nat) : (v.fence ts base len).thread = v.thread ∧
    (v.fence ts base len).bytes.length = v.bytes.length ∧ ∀ o, (v.fence ts base len).addr o = v.addr o := by
  simp only [View.fence]
  split
  · exact ⟨rfl, by simp [View.publish], fun _ => rfl⟩
  · exact ⟨rfl, rfl, fun _ => rfl⟩

/-- The view's own thread sees its last store at its own AFENCE, and none to the byte stays unseen. -/
theorem fence_sees_own {l : List NewerStore} {e : NewerStore} {base len : Nat} (hnewer : v.newer = l ++ [e])
    (hin : e.off < v.bytes.length) (hsee : View.seesAt v base len e = true) :
    (v.fence [v.thread] base len).bytes[e.off]? = some e.val ∧ ∀ x ∈ (v.fence [v.thread] base len).newer, x.off ≠ e.off := by
  obtain ⟨hbytes, hrest⟩ := fence_own v base len
  rw [hbytes, hrest]
  refine ⟨publish_takes hnewer hin hsee fun x hx => absurd hx List.not_mem_nil, fun x hx => ?_⟩
  obtain ⟨y, hy, rfl⟩ := List.mem_map.mp hx
  rw [hnewer] at hy
  have hoff := stillNewer_last_published hsee y hy
  split <;> exact hoff

/-- The writer's AFENCE over a store that the view does not see then leaves it the last, fenced. -/
theorem fence_marks {l : List NewerStore} {e : NewerStore} {base len : Nat} (hnewer : v.newer = l ++ [e])
    (hva : within base len e.va = true) (hunseen : e.writer ≠ v.thread ∨ View.seesAt v base len e = false) :
    ∃ l', (v.fence [e.writer] base len).newer = l' ++ [{ e with fenced := true }] := by
  have hmark : (if [e.writer].contains e.writer && within base len e.va then { e with fenced := true } else e) =
      { e with fenced := true } := if_pos (by simp [hva])
  by_cases hw : e.writer = v.thread
  · obtain ⟨l', hkept⟩ := stillNewer_last_kept (l := l) (hunseen.resolve_left (not_not_intro hw))
    have hrest := (fence_own v base len).2
    rw [hnewer, hkept, List.map_append, List.map_singleton, ← hw, hmark] at hrest
    exact ⟨_, hrest⟩
  · have hrest := (fence_other hw base len).2
    rw [hnewer, List.map_append, List.map_singleton, hmark] at hrest
    exact ⟨_, hrest⟩

/-- After the writer's AFENCE and a later one of the reader the view holds the last stored byte. -/
theorem fence_fence_sees {l : List NewerStore} {e : NewerStore} {base len base' len' : Nat} (hnewer : v.newer = l ++ [e])
    (hin : e.off < v.bytes.length) (hva : within base len e.va = true) (haddr : within base' len' (v.addr e.off) = true) :
    ((v.fence [e.writer] base len).fence [v.thread] base' len').bytes[e.off]? = some e.val := by
  obtain ⟨hthread, hlen, hplace⟩ := fence_place v [e.writer] base len
  by_cases hseen : e.writer = v.thread ∧ View.seesAt v base len e = true
  · obtain ⟨hw, hsee⟩ := hseen
    obtain ⟨hbyte, hgone⟩ := fence_sees_own hnewer hin hsee
    rw [hw]
    have hagain := (fence_own (v.fence [v.thread] base len) base' len').1
    rw [hw] at hthread
    rw [hthread] at hagain
    rw [hagain, publish_keeps fun x hx hoff => absurd hoff (hgone x hx), hbyte]
  · have hunseen : e.writer ≠ v.thread ∨ View.seesAt v base len e = false := by
      rw [Classical.not_and_iff_not_or_not, Bool.not_eq_true] at hseen
      exact hseen
    obtain ⟨l', hmarked⟩ := fence_marks hnewer hva hunseen
    have hsee : View.seesAt (v.fence [e.writer] base len) base' len' { e with fenced := true } = true := by
      rw [View.seesAt, hplace, haddr]
      rfl
    have h := (fence_sees_own hmarked (by rw [hlen]; exact hin) hsee).1
    rwa [hthread] at h

end Alias

/-- Settles O40: stores by their page, publication by the last store to each byte, and AFENCEs as publications. -/
theorem aliasReads : Obligations.AliasReads := by
  refine ⟨fun s r m place hnone => if_pos (by rw [hnone]; rfl), fun v w ctx va off b hin => ⟨fun hown => ?own, fun hother => ?other⟩,
    fun v f old late e hnewer hin hf hlate => publish_takes hnewer hin hf hlate,
    fun v f => ⟨fun x hx => (stillNewer_spec f v.newer x hx).2, fun i h => publish_keeps h⟩, ?fences⟩
  case own =>
    rw [store_ownPage hown]
    refine ⟨List.getElem?_set_self hin, fun i hi => List.getElem?_set_ne (Ne.symm hi), fun e he => ?_⟩
    simpa using (List.mem_filter.mp he).2
  case other =>
    rw [store_otherPage hother]
    exact ⟨rfl, _, rfl, rfl, rfl, rfl, rfl, rfl⟩
  case fences =>
    intro v w ctx va off b base len base' len' hin hother hva haddr t
    have ht : t = _ := store_otherPage hother
    have hnewer : t.newer = v.newer ++ [{ off := off, val := b, writer := w, va := va }] := by rw [ht]
    have hbytes : t.bytes = v.bytes := by rw [ht]
    have hthread : t.thread = v.thread := by rw [ht]
    have hplace : ∀ o, t.addr o = v.addr o := fun o => by rw [ht]; rfl
    have hin' : off < t.bytes.length := by rw [hbytes]; exact hin
    refine ⟨?_, fun hw hown => ?_⟩
    · rw [← hthread]
      exact fence_fence_sees hnewer hin' hva (by rw [hplace]; exact haddr)
    · subst hw
      rw [← hthread]
      refine (fence_sees_own hnewer hin' ?_).1
      simp only [View.seesAt, hplace, hown, hthread, hva, beq_self_eq_true, Bool.and_self, Bool.or_true]

end Sys2Proof.OrderProofs
end


section
/-! PROOFS. LOAD_RETURN (07_local_memory.md R160, R163, 14_control.md R318). -/

namespace Sys2Proof.OrderProofs

open Sys2Proof.Machine Sys2Proof.Safety Sys2Proof.Laws

theorem loadReturn_exec {s : State} {op : PendOp} (hop : Tab.find s.ops s.subject.idx = some op) (hwait : op.waiting = 0)
    (hdest : op.dest ≠ .none) (hsig : ∀ a b, op.dest ≠ .msigx a b) :
    exec .loadReturn s = .next { deliver s op with ops := Tab.del s.ops s.subject.idx } := by
  have hgo : (op.waiting != 0 || op.dest == .none) = false := by
    rw [hwait, beq_eq_false_iff_ne.mpr hdest]
    rfl
  change execLoadReturn s = _
  unfold execLoadReturn
  simp only [hop, hgo, Bool.false_eq_true, if_false]

/-- The threads of a load all of whose data came. -/
theorem delivered_threads (op : PendOp) (herrs : op.errs = []) :
    ((op.keys.map (· / 1)).eraseDups.filter fun i => !(op.errs.map fun e => e.1 / 1).contains i) = op.keys.eraseDups := by
  simp only [herrs, List.map_nil, List.contains_nil, Bool.not_false, Nat.div_one, List.map_id']
  exact List.filter_eq_self.mpr fun _ _ => rfl

/-- The base register that a vector load of `op` leaves where `old` stood. -/
def deliveredV (op : PendOp) (bytes : Nat) (sx : Bool) (old : VReg) : VReg where
  lanes := mergeLanes old.lanes (maskOfThreads op.ter op.keys.eraseDups) fun l =>
    BitVec.ofNat 32 (extendLoad bytes sx (gotBytes op.got (threadOf op.ter l)))

/-- A vector load of a base register, delivered. -/
theorem deliver_vreg {s : State} {op : PendOp} {b q sl r bytes : Nat} {sx : Bool} (hunit : op.unit = .slot b q sl)
    (hdest : op.dest = .vreg r 1 bytes sx) (herrs : op.errs = []) (hr : r < 64) :
    deliver s op = s.updQuire (quireKey b q) fun Q =>
      { Q with v := Tab.set Q.v r (deliveredV op bytes sx (Tab.get {} Q.v r)) } := by
  have hthreads := delivered_threads op herrs
  have hnote : noteOf op.ter 1 op.errs = none := by rw [herrs]; rfl
  simp only [deliver, hunit, hdest, deliverV, hthreads, hnote, List.range_one, List.foldl_cons, List.foldl_nil, Nat.add_zero,
    setVreg, hr, if_true, beq_self_eq_true, Nat.mul_zero, Nat.shiftRight_zero, Option.isNone_none, deliveredV]

theorem mergeLanes_at (old : VReg) (m : Mask) (g : Nat → Word) {l : Nat} (hl : l < 96) :
    (mergeLanes old.lanes m g).getD l 0 = if m.getLsbD l then g l else old.at l := by
  rw [mergeLanes, List.getD_eq_getElem?_getD, List.getElem?_map, List.getElem?_range hl]
  rfl

/-- A load of an x register, delivered. -/
theorem deliver_xreg {s : State} {op : PendOp} {b r : Nat} (hunit : op.unit = .front b) (hdest : op.dest = .xreg r true false)
    (herrs : op.errs = []) (hr : r ≠ 0) :
    deliver s op = s.updBlock b fun B =>
      { B with front := { B.front with x := Tab.set B.front.x r { val := BitVec.ofNat 64 (gotBytes op.got 0) } } } := by
  have hnote : noteOf false 1 op.errs = none := by rw [herrs]; rfl
  have hr' : (r == 0) = false := beq_eq_false_iff_ne.mpr hr
  simp only [deliver, hunit, hdest, deliverX, hr', hnote, Bool.false_eq_true, if_false, Option.isSome_none, Option.isNone_none,
    if_true, unitBlock]

/-- Settles O41: the return runs deliver, which writes the register and nothing else. -/
theorem loadReturnDelivers : Obligations.LoadReturnDelivers := by
  refine ⟨fun s op b q sl r bytes sx Q hop hunit hdest hwait herrs hr hQ => ?_,
    fun s op b r B hop hunit hdest hwait herrs hr hB => ?_, fun s op hop hwait hdest hsig => loadReturn_exec hop hwait hdest hsig⟩
  · have hexec := loadReturn_exec hop hwait (by rw [hdest]; exact fun h => nomatch h) (by rw [hdest]; exact fun _ _ h => nomatch h)
    rw [deliver_vreg hunit hdest herrs hr] at hexec
    refine ⟨_, { Q with v := Tab.set Q.v r (deliveredV op bytes sx (Tab.get {} Q.v r)) }, hexec, rfl, rfl, ?_, rfl,
      fun n hn => ?_, ?_, ?_, fun l hl => ?_⟩
    · rw [State.updQuire_quires, Tab.find_modify, if_pos rfl, hQ, Option.map_some]
    · rw [Tab.get_set, if_neg (Ne.symm hn)]
    · simp only [Tab.get_set_self, deliveredV]
    · simp only [Tab.get_set_self, deliveredV]
    · rw [Tab.get_set_self]
      exact mergeLanes_at (Tab.get {} Q.v r) (maskOfThreads op.ter op.keys.eraseDups)
        (fun l => BitVec.ofNat 32 (extendLoad bytes sx (gotBytes op.got (threadOf op.ter l)))) hl
  · have hexec := loadReturn_exec hop hwait (by rw [hdest]; exact fun h => nomatch h) (by rw [hdest]; exact fun _ _ h => nomatch h)
    rw [deliver_xreg hunit hdest herrs hr] at hexec
    refine ⟨_, { B with front := { B.front with x := Tab.set B.front.x r { val := BitVec.ofNat 64 (gotBytes op.got 0) } } },
      hexec, rfl, rfl, ?_, rfl, fun n hn => ?_, ?_⟩
    · rw [State.updBlock_blocks, Tab.find_modify, if_pos rfl, hB, Option.map_some]
    · rw [Tab.get_set, if_neg (Ne.symm hn)]
    · rw [Tab.get_set_self]

end Sys2Proof.OrderProofs
end

section
/-! PROOFS. The MAT words (13_matrix.md R286 to R306). -/

namespace Sys2Proof.MatrixProofs

open Sys2Proof.Machine Sys2Proof.Safety Sys2Proof.Laws Sys2Proof.MemoryProofs

variable {s : State} {I : Issuer} {i : Instr} {f : MM}

/-! ## The frame (R294) -/

/-- A word that the checks of the frame let pass runs its body on the core and the tile as they stand. -/
theorem matFrame_ready {ad : BitVec 4} {ok : Issuer → Bool} {srcs dsts : Issuer → List SrcSt} {tileOk : Issuer → Tile → Bool}
    {k : Issuer → Core → Tile → Act} (hr : MatReady s i I ad) (hok : ok I = true) (htile : tileOk I (tileNow s I ad) = true)
    (hs : Full (srcs I)) (hd : Free (dsts I)) :
    matFrame i s ad ok srcs dsts tileOk k = (k I (s.coreOf I.blk.core) (tileNow s I ad)).finish s I := by
  obtain ⟨hi, hmask, hnamed, howed, hdrain, hscratch⟩ := hr
  rw [matFrame, onQuire_eq hi]
  refine congrArg (Act.finish · s I) ?_
  refine (if_neg (by simp [hmask])).trans ((if_neg (by simp [hnamed, hok])).trans ?_)
  refine (if_neg (by simp [howed, hdrain, hscratch])).trans ((if_neg ?_).trans (withSrcs_full hs hd _))
  rw [Bool.not_eq_true', Bool.not_eq_false]
  exact htile

/-- A word whose body enters the queue with m. -/
theorem completes_of_frame {ad : BitVec 4} {ok : Issuer → Bool} {srcs dsts : Issuer → List SrcSt} {tileOk : Issuer → Tile → Bool}
    {k : Issuer → Core → Tile → Act} {t : State} (hr : MatReady s i I ad) (hexec : exec i s = matFrame i s ad ok srcs dsts tileOk k)
    (hok : ok I = true) (htile : tileOk I (tileNow s I ad) = true) (hs : Full (srcs I)) (hd : Free (dsts I))
    (hk : k I (s.coreOf I.blk.core) (tileNow s I ad) = .done t) : Completes i s I t := by
  rw [Completes, hexec, matFrame_ready hr hok htile hs hd, hk, finish_done]

theorem noRegs_full : Full (noRegs I) := full_nil
theorem noRegs_free : Free (noRegs I) := free_nil

/-! ## Multiplies (R297 to R300) -/

theorem mmFloat_completes {F : Fmt} {code : Nat} (h : (i, F, code) ∈ [(Instr.mmab f, bf16, 0), (Instr.mmah f, fp16, 1)])
    (hr : MatReady s i I f.ad) (hop : OperandsOk s I f (if I.qr.mtrip == 2 then 3 else 1) 16 16 16 16 code)
    (hopen : (tileNow s I f.ad).resOpen = false) :
    Completes i s I (queueMat s I
      { b := 0, q := 0, sl := 0
        tile := some (I.phys f.ad, mmTile I (s.coreOf I.blk.core) (tileNow s I f.ad) f.ad F (I.tmap s f.ta.toNat) (I.tmap s f.tb.toNat))
        used := some (I.phys f.ad, true)
        failed := (tileNow s I f.ad).badIn ((tileNow s I f.ad).reads (if I.qr.mtrip = 0 then 1 else 3)) ||
          operandsBad s I f (if I.qr.mtrip == 2 then 3 else 1) 16 16 16 16 }) := by
  have hplanes : (if I.qr.mtrip != 0 then 3 else 1) = (if I.qr.mtrip = 0 then 1 else 3) := by
    by_cases h0 : I.qr.mtrip = 0 <;> simp [h0]
  have hexec : exec i s = mmFloat i f s F code := by
    simp only [List.mem_cons, List.not_mem_nil, Prod.mk.injEq, or_false] at h
    rcases h with ⟨rfl, rfl, rfl⟩ | ⟨rfl, rfl, rfl⟩ <;> rfl
  simp only [mmFloat] at hexec
  refine completes_of_frame hr hexec ?_ ?_ noRegs_full noRegs_free ?_
  · rw [hop.1, hop.2]
    rfl
  · rw [hopen]
    rfl
  · rw [hplanes, Bool.or_assoc]
    rfl

theorem mmInt_completes {w K code : Nat} (h : (i, w, K, code) ∈ [(Instr.mmas8 f, 8, 32, 3), (Instr.mmas4 f, 4, 64, 4)])
    (hr : MatReady s i I f.ad) (hop : OperandsOk s I f 1 16 K K 16 code) (hscale : scaleOk I f = true) (hmode : I.qr.mtrip = 0)
    (htrip : (tileNow s I f.ad).trip = false)
    (htr : code = 4 → tmTr (I.tmap s f.ta.toNat) = false ∧ tmTr (I.tmap s f.tb.toNat) = false) (hs : Full (scaleSrcs f I)) :
    let t := tileNow s I f.ad
    let res := sliceRes I (s.coreOf I.blk.core) t (I.tmap s f.ta.toNat) (I.tmap s f.tb.toNat) w K
    Completes i s I (queueMat s I
      { b := 0, q := 0, sl := 0
        tile := some (I.phys f.ad, if f.sel = 31 then
            { elems := planeElems 2 fun j e => if j == 0 then t.at 0 e else res e, count := t.bump, resOpen := true
              bad := t.bad.filter (· == 0) }
          else closeTile I f t res)
        used := some (I.phys f.ad, true)
        failed := t.badIn ((if f.sel = 31 then [] else [0]) ++ if t.resOpen then [1] else []) ||
          operandsBad s I f 1 16 K K 16 }) := by
  intro t res
  have hexec : exec i s = mmInt i f s w K code := by
    simp only [List.mem_cons, List.not_mem_nil, Prod.mk.injEq, or_false] at h
    rcases h with ⟨rfl, rfl, rfl, rfl⟩ | ⟨rfl, rfl, rfl, rfl⟩ <;> rfl
  have hs4 : (code == 4 && (tmTr (I.tmap s f.ta.toNat) || tmTr (I.tmap s f.tb.toNat))) = false := by
    by_cases h4 : code = 4
    · rw [(htr h4).1, (htr h4).2]
      simp
    · rw [beq_eq_false_iff_ne.mpr h4]
      rfl
  simp only [mmInt] at hexec
  refine completes_of_frame hr hexec ?_ ?_ hs noRegs_free ?_
  · rw [hop.1, hop.2, hs4, hscale, hmode]
    rfl
  · rw [htrip]
    rfl
  · simp only [beq_iff_eq, Bool.or_assoc]
    rfl

/-! ## MDRS (R301, R302) -/

theorem find_append {α : Type} (a b : Tab α) (n : Nat) : Tab.find (a ++ b) n = (Tab.find a n).or (Tab.find b n) := by
  induction a with
  | nil => rfl
  | cons e a ih =>
    simp only [List.cons_append, Tab.find, ih]
    split <;> rfl

/-- The elements of one plane. -/
theorem find_plane {α : Type} (j : Nat) (g : Nat → α) (l : List Nat) (e : Nat) :
    Tab.find (l.map fun x => (256 * j + x, g x)) (256 * j + e) = if e ∈ l then some (g e) else none := by
  induction l with
  | nil => rfl
  | cons x l ih =>
    simp only [List.map_cons, Tab.find, ih, List.mem_cons]
    by_cases h : x = e
    · simp [h]
    · simp [h, Ne.symm h]

theorem find_plane_other {α : Type} {j k : Nat} (g : Nat → α) {e : Nat} (he : e < 256) (hjk : j ≠ k) :
    Tab.find ((List.range 256).map fun x => (256 * j + x, g x)) (256 * k + e) = none := by
  rw [Option.eq_none_iff_forall_not_mem]
  intro a ha
  have hmem := Tab.mem_of_find ha
  simp only [List.mem_map, List.mem_range, Prod.mk.injEq] at hmem
  obtain ⟨x, hx, hkey, -⟩ := hmem
  omega

/-- A table of planes holds element e of plane k where plane k is among them. -/
theorem find_planes {α : Type} (g : Nat → Nat → α) {e : Nat} (he : e < 256) (k : Nat) (l : List Nat) :
    Tab.find (l.flatMap fun j => (List.range 256).map fun x => (256 * j + x, g j x)) (256 * k + e) =
      if k ∈ l then some (g k e) else none := by
  induction l with
  | nil => rfl
  | cons j l ih =>
    rw [List.flatMap_cons, find_append, ih]
    by_cases hj : j = k
    · rw [hj, find_plane, if_pos (List.mem_range.mpr he), if_pos (List.mem_cons_self ..)]
      rfl
    · rw [find_plane_other _ he hj, Option.none_or]
      simp only [List.mem_cons, Ne.symm hj, false_or]

/-- The bytes of a region take its elements only. -/
theorem regionBytes_congr (B : Block) (g : Region) {a b : Nat → Nat → Nat} (h : ∀ j e, j < g.planes → e < 256 → a j e = b j e) :
    regionBytes B g a = regionBytes B g b := by
  refine ListFacts.flatMap_eq_of_forall fun j hj => ListFacts.flatMap_eq_of_forall fun e he => ?_
  rw [h j e (List.mem_range.mp hj) (List.mem_range.mp he)]

theorem drainBytes_congr (B : Block) (g : Region) {a b : Nat → Nat → Nat} (h : ∀ j e, j < g.planes → e < 256 → a j e = b j e) :
    drainBytes B g a = drainBytes B g b := by
  unfold drainBytes
  split
  · refine ListFacts.flatMap_eq_of_forall fun j hj => List.map_congr_left fun e he => ?_
    have he' : e < 128 := List.mem_range.mp he
    rw [h j (2 * e) (List.mem_range.mp hj) (by omega), h j (2 * e + 1) (List.mem_range.mp hj) (by omega)]
  · exact regionBytes_congr B g h

theorem overflowBit_ne_zero (n : Nat) : 1#32 <<< (n % 32) ≠ 0#32 := by
  have hlt : n % 32 < 32 := Nat.mod_lt _ (by decide)
  intro h
  have hbit := congrArg (·.getLsbD (n % 32)) h
  simp [hlt] at hbit

/-- The elements that a drain converts, by plane. -/
def drained (s : State) (I : Issuer) (f : MM) (t : Tile) : Tab Conv :=
  (List.range (drainRegion s I f t).planes).flatMap fun j =>
    (List.range 256).map fun e => (256 * j + e, drainElem I (drainRegion s I f t).m t j e)

theorem drained_out (t : Tile) {j e : Nat} (hj : j < (drainRegion s I f t).planes) (he : e < 256) :
    (Tab.get { out := 0 } (drained s I f t) (256 * j + e)).out = (drainElem I (drainRegion s I f t).m t j e).out := by
  rw [Tab.get, drained, find_planes (fun j e => drainElem I (drainRegion s I f t).m t j e) he, if_pos (List.mem_range.mpr hj)]
  rfl

theorem drained_any (t : Tile) (p : Conv → Bool) : ((drained s I f t).any fun x => p x.2) = true ↔
    ∃ j e, j < (drainRegion s I f t).planes ∧ e < 256 ∧ p (drainElem I (drainRegion s I f t).m t j e) = true := by
  simp only [drained, List.any_flatMap, List.any_map, List.any_eq_true, List.mem_range, Function.comp]
  constructor
  · rintro ⟨j, hj, e, he, hp⟩
    exact ⟨j, e, hj, he, hp⟩
  · rintro ⟨j, e, hj, he, hp⟩
    exact ⟨j, hj, e, he, hp⟩

/-- What MDRS enters the queue with. -/
def drainOp (s : State) (I : Issuer) (f : MM) (t : Tile) : MatOp where
  b := 0
  q := 0
  sl := 0
  scratch := drainBytes I.blk (drainRegion s I f t) fun j e => (Tab.get { out := 0 } (drained s I f t) (256 * j + e)).out
  fold := some t.plane0
  stat := some (tmTensor (drainRegion s I f t).m, ((drained s I f t).filter fun x => x.2.sat).length,
    ((drained s I f t).filter fun x => x.2.nan).length)
  ovf := if (drained s I f t).any fun x => drainNonfin (drainRegion s I f t).m x.2 then
    1#32 <<< (tmTensor (drainRegion s I f t).m % 32) else 0
  failed := t.badIn (if tmFmt (drainRegion s I f t).m == 5 then [0, 1] else t.reads (drainRegion s I f t).planes)

theorem mdrs_completes (hr : MatReady s (.mdrs f) I f.ad)
    (hmap : (drainRegion s I f {}).ok I.blk.scratchLen [0, 1, 2, 3, 4, 5, 6] = true)
    (hok : (drainRegion s I f (tileNow s I f.ad)).ok I.blk.scratchLen [0, 1, 2, 3, 4, 5, 6] = true)
    (hres : tmFmt (drainRegion s I f (tileNow s I f.ad)).m ≠ 5 ∨ (tileNow s I f.ad).resOpen = true) :
    Completes (.mdrs f) s I (queueMat s I (drainOp s I f (tileNow s I f.ad))) := by
  have hexec : exec (.mdrs f) s = execMdrs f s := rfl
  simp only [execMdrs] at hexec
  refine completes_of_frame hr hexec hmap ?_ noRegs_full noRegs_free rfl
  refine Bool.and_eq_true_iff.mpr ⟨hok, ?_⟩
  rcases hres with h | h
  · rw [Bool.or_eq_true, bne_iff_ne]
    exact .inl h
  · rw [Bool.or_eq_true]
    exact .inr h

theorem drainOp_ovf (t : Tile) :
    ((drainOp s I f t).ovf = 0 ∨ (drainOp s I f t).ovf = 1#32 <<< (tmTensor (drainRegion s I f t).m % 32)) ∧
    ((drainOp s I f t).ovf ≠ 0 ↔ ∃ j e, j < (drainRegion s I f t).planes ∧ e < 256 ∧
      drainNonfin (drainRegion s I f t).m (drainElem I (drainRegion s I f t).m t j e) = true) := by
  rw [← drained_any]
  simp only [drainOp]
  split
  next h => exact ⟨.inr rfl, fun _ => h, fun _ => overflowBit_ne_zero _⟩
  next h => exact ⟨.inl rfl, fun h0 => absurd rfl h0, fun h' => absurd h' h⟩

/-! ## MLDA (R303) -/

/-- The tile that MLDA loads: an FP32 map moves its own planes. -/
theorem movedTile_eq (m : DWord) (t : Tile) (ld : Nat → Nat → Word) (res : Tile) :
    (if tmFmt (moveRegion m).m == 2 then
      { elems := planeElems (moveRegion m).planes ld, count := t.count, trip := (moveRegion m).planes == 3 } else res) =
    if tmFmt m = 2 then { elems := planeElems (fpPlanes m) ld, count := t.count, trip := fpPlanes m == 3 } else res := by
  by_cases hfmt : tmFmt m = 2
  · have hplanes : (moveRegion m).planes = fpPlanes m := if_pos (beq_iff_eq.mpr hfmt)
    rw [hplanes, if_pos hfmt]
    exact if_pos (beq_iff_eq.mpr hfmt)
  · rw [if_neg hfmt]
    exact if_neg fun h => hfmt (beq_iff_eq.mp h)

/-! ## MSIGX (R306) -/

/-- The one access of MSIGX. -/
def sigAccess (I : Issuer) (cmp : Bool) : LaneAct := if cmp then .rd 8 else .wr (leBytes 8 I.qr.sigv.toNat)

theorem msigx_performs {cmp : Bool} (h : (i, cmp) ∈ [(Instr.msigxSt f, false), (Instr.msigxCmp f, true)])
    (hi : QuireIssues s i I) (hmask : I.mask = I.qr.live) (heven : f.vs.toNat % 32 % 2 = 0) (hs : Full (I.srcS2 (f.vs.toNat % 32)))
    (hal : (I.s2 (f.vs.toNat % 32)).toNat % 8 = 0)
    (hfold : ∀ m ∈ (s.coreOf I.blk.core).matQ, m.b = I.b → m.q = I.q → m.fold = none)
    (hr : Reaches s I (!cmp) true [{ key := 0, thread := I.threads.headD 0, va := (I.s2 (f.vs.toNat % 32)).toNat, act := sigAccess I cmp }]) :
    Performs i s I (!cmp) true [{ key := 0, thread := I.threads.headD 0, va := (I.s2 (f.vs.toNat % 32)).toNat, act := sigAccess I cmp }]
      (if cmp then .msigx (I.s2 (f.vs.toNat % 32)) I.qr.sigv else .none) 0 fun s' =>
        queueAs s' I s.nextId { b := 0, q := 0, sl := 0, msigx := some (s.nextId, I.s2 (f.vs.toNat % 32), bits I.qr.tctl.toNat 2 2 == 2) } := by
  have hexec : exec i s = msigx i f s cmp := by
    simp only [List.mem_cons, List.not_mem_nil, Prod.mk.injEq, or_false] at h
    rcases h with ⟨rfl, rfl⟩ | ⟨rfl, rfl⟩ <;> rfl
  have hmis : misaligned [(0, (I.s2 (f.vs.toNat % 32)).toNat)] 8 = [] := by rw [misaligned_one, if_neg (not_not_intro hal)]
  have hnone : ((s.coreOf I.blk.core).matQ.any fun m => m.b == I.b && m.q == I.q && m.fold.isSome) = false := by
    rw [List.any_eq_false]
    intro m hm hany
    simp only [Bool.and_eq_true, beq_iff_eq] at hany
    rw [hfold m hm hany.1.1 hany.1.2] at hany
    exact absurd hany.2 (by decide)
  refine performs_of_exec ?_ hr
  rw [hexec, msigx, onQuire_eq hi]
  refine congrArg (Act.finish · s I) ?_
  refine (if_neg (by simp [hmask])).trans ((if_neg (by simp [heven])).trans ((withSrcs_full hs free_nil _).trans ?_))
  simp only [hmis, alignTrap, hnone, Bool.false_eq_true, if_false]
  rfl

/-- Settles O42: each word passes its frame, and its body is the queue entry that the statement writes out. -/
theorem matrixWordsComplete : Obligations.MatrixWordsComplete := by
  refine ⟨fun f s I i F code h hr => fun hop hopen => mmFloat_completes h hr hop hopen,
    fun f s I i w K code h hr => fun hop hscale hmode htrip htr hs => mmInt_completes h hr hop hscale hmode htrip htr hs,
    fun f s I hr hsel hscale hmode hopen hs => ?_, fun f s I hr => ?_, fun f s I hr => ?_, fun f s I hr => ?_, fun f s I hr hv hd => ?_,
    fun f s I hr => ?_, fun f s I hr => ?_, fun f s I hi hmask => ?_, fun f s I i cmp h hi hmask => ?_⟩
  case refine_1 =>
    refine completes_of_frame hr (show _ = execMcvt f s from rfl) ?_ hopen hs noRegs_free rfl
    rw [bne_iff_ne.mpr hsel, hscale, hmode]
    rfl
  case refine_2 => exact completes_of_frame hr (show _ = execMzero f s from rfl) rfl rfl noRegs_full noRegs_free rfl
  case refine_3 =>
    intro m t ld hok htile
    have hexec : exec (.mlda f) s = execMlda f s := rfl
    simp only [execMlda] at hexec
    refine completes_of_frame hr hexec hok ?_ noRegs_full noRegs_free ?_
    · by_cases hfmt : tmFmt m = 2
      · rw [if_pos hfmt] at htile
        refine (if_pos (beq_iff_eq.mpr hfmt)).trans ?_
        rw [htile]
        rfl
      · rw [if_neg hfmt] at htile
        refine (if_neg fun h => hfmt (beq_iff_eq.mp h)).trans ?_
        rw [htile]
        rfl
    · exact congrArg (fun T => Act.done (queueMat s I
        { b := 0, q := 0, sl := 0, tile := some (I.phys f.ad, T), used := some (I.phys f.ad, true)
          failed := (moveRegion m).bad (s.coreOf I.blk.core) I.blk })) (movedTile_eq m t ld _)
  case refine_4 =>
    intro m t hok htile
    have hexec : exec (.msta f) s = execMsta f s := rfl
    simp only [execMsta] at hexec
    refine completes_of_frame hr hexec hok ?_ noRegs_full noRegs_free ?_
    · rw [Bool.or_eq_true, beq_iff_eq]
      exact htile
    · simp only [beq_iff_eq]
      rfl
  case refine_5 =>
    have hexec : exec (.mdrv f) s = execMdrv f s := rfl
    simp only [execMdrv] at hexec
    exact completes_of_frame hr hexec hv rfl noRegs_full hd rfl
  case refine_6 =>
    intro t g c hmap hok hres
    refine ⟨drainOp s I f t, mdrs_completes hr hmap hok hres, rfl, rfl, rfl, rfl, rfl, ?_,
      drainBytes_congr _ _ fun j e hj he => drained_out t hj he, drainOp_ovf t⟩
    simp only [drainOp, beq_iff_eq]
    rfl
  case refine_7 => exact completes_of_frame hr (show _ = execMsig f s from rfl) rfl rfl noRegs_full noRegs_free rfl
  case refine_8 =>
    change execMtrip f s = _
    rw [execMtrip, onQuire_eq hi]
    exact congrArg (Act.finish · s I) (if_neg (by simp [hmask]))
  case refine_9 =>
    intro r rs heven hs hal hfold hr
    exact msigx_performs h hi hmask heven hs hal hfold hr

end Sys2Proof.MatrixProofs
end

section
/-! PROOFS. Residue arithmetic (10_numbers.md R208, R209, 13_matrix.md R298) and MAT_RETIRE (13_matrix.md R293, R295, R306). -/

namespace Sys2Proof.MatrixProofs

open Sys2Proof.Machine Sys2Proof.Safety Sys2Proof.Laws Sys2Proof.SystemProofs

/-! ## Residue words -/

/-- The three channels of a word of three bytes. -/
theorem bits_of_channels {a b c : Nat} (ha : a < 256) (hb : b < 256) (hc : c < 256) :
    bits (BitVec.ofNat 32 (a + b * 256 + c * 65536)).toNat 0 8 = a ∧
    bits (BitVec.ofNat 32 (a + b * 256 + c * 65536)).toNat 8 8 = b ∧
    bits (BitVec.ofNat 32 (a + b * 256 + c * 65536)).toNat 16 8 = c := by
  have hsmall : a + b * 256 + c * 65536 < 2 ^ 32 := by omega
  simp only [bits, BitVec.toNat_ofNat, Nat.mod_eq_of_lt hsmall, Nat.shiftRight_eq_div_pow]
  omega

/-- A channel modulo m, which its byte may exceed. -/
theorem channel_add (v m : Nat) (d : Int) (hm : 0 < m) (hm' : m ≤ 256) :
    (((((v % m : Nat) : Int) + d) % (m : Int)).toNat : Int) = ((v : Int) + d) % m ∧
      ((((v % m : Nat) : Int) + d) % (m : Int)).toNat < 256 := by
  have hpos : (0 : Int) < m := by omega
  have hnonneg := Int.emod_nonneg (((v % m : Nat) : Int) + d) (Int.ne_of_gt hpos)
  have hlt := Int.emod_lt_of_pos (((v % m : Nat) : Int) + d) hpos
  refine ⟨?_, by omega⟩
  rw [Int.toNat_of_nonneg hnonneg, Int.natCast_emod, Int.emod_add_emod]

theorem resAdd_channels (w : Word) (d : Int) :
    (bits (resAdd w d).toNat 0 8 : Int) = ((bits w.toNat 0 8 : Int) + d) % 256 ∧
    (bits (resAdd w d).toNat 8 8 : Int) = ((bits w.toNat 8 8 : Int) + d) % 255 ∧
    (bits (resAdd w d).toNat 16 8 : Int) = ((bits w.toNat 16 8 : Int) + d) % 253 := by
  obtain ⟨ha, ha'⟩ := channel_add (bits w.toNat 0 8) 256 d (by decide) (by decide)
  obtain ⟨hb, hb'⟩ := channel_add (bits w.toNat 8 8) 255 d (by decide) (by decide)
  obtain ⟨hc, hc'⟩ := channel_add (bits w.toNat 16 8) 253 d (by decide) (by decide)
  obtain ⟨h0, h8, h16⟩ := bits_of_channels ha' hb' hc'
  exact ⟨(congrArg Nat.cast h0).trans ha, (congrArg Nat.cast h8).trans hb, (congrArg Nat.cast h16).trans hc⟩

theorem foldl_add_eq_sum (g : Nat → Int) (l : List Nat) (a : Int) : l.foldl (fun a k => a + g k) a = a + (l.map g).sum := by
  induction l generalizing a with
  | nil => exact (Int.add_zero a).symm
  | cons x l ih => rw [List.foldl_cons, ih, List.map_cons, List.sum_cons, Int.add_assoc]

/-- The weights of the three channels are the idempotents of their moduli: the word of an integer in the symmetric range
stands for it. -/
theorem crt_resAdd {d : Int} (hlo : -8257920 ≤ d) (hhi : d ≤ 8257919) : crt (resAdd 0 d).toNat = d := by
  obtain ⟨ha, hb, hc⟩ := resAdd_channels 0 d
  have hzero : ∀ n, ((bits (0 : Word).toNat n 8 : Nat) : Int) = 0 := fun n => by simp [bits]
  rw [hzero, Int.zero_add] at ha hb hc
  unfold crt
  generalize bits (resAdd 0 d).toNat 0 8 = a at *
  generalize bits (resAdd 0 d).toNat 8 8 = b at *
  generalize bits (resAdd 0 d).toNat 16 8 = c at *
  simp only [resM]
  omega

/-- Settles O43: each channel is exact, a slice folds the products of its sum, and the weights invert the channels. -/
theorem residueArithmetic : Obligations.ResidueArithmetic := by
  refine ⟨resAdd_channels, fun f s I w K e => ?_, fun d hlo hhi => crt_resAdd hlo hhi⟩
  intro t
  rw [sliceRes, foldl_add_eq_sum, Int.zero_add]
  rfl

/-! ## The registers that a retired instruction writes -/

/-- The vector registers after the entries of a MAT instruction land, each by f of its words and the register before. -/
def landed (f : List Word → VReg → VReg) (v : Tab VReg) (regs : List (Nat × List Word)) : Tab VReg :=
  regs.foldl (fun v x => if x.1 < 64 then Tab.set v x.1 (f x.2 (Tab.get {} v x.1)) else v) v

theorem landed_append (f : List Word → VReg → VReg) (v : Tab VReg) (l : List (Nat × List Word)) (x : Nat × List Word) :
    landed f v (l ++ [x]) =
      if x.1 < 64 then Tab.set (landed f v l) x.1 (f x.2 (Tab.get {} (landed f v l) x.1)) else landed f v l := by
  rw [landed, List.foldl_append]
  rfl

/-- The last entry of a register stands in it. -/
theorem find_landed_new (v : Tab VReg) {r : Nat} (hr : r < 64) (regs : List (Nat × List Word)) :
    Tab.find (landed (fun ws _ => { lanes := ws }) v regs) r =
      ((regs.reverse.find? (·.1 == r)).map fun x => { lanes := x.2 }).or (Tab.find v r) := by
  induction regs using ListFacts.snoc_induction with
  | nil => rfl
  | snoc l x ih =>
    rw [landed_append, List.reverse_append, List.reverse_singleton, List.singleton_append, List.find?_cons]
    by_cases hx : x.1 = r
    · rw [if_pos (hx ▸ hr), hx, Tab.find_set_self, beq_self_eq_true]
      rfl
    · rw [beq_eq_false_iff_ne.mpr hx, ← ih]
      split
      · rw [Tab.find_set, if_neg hx]
      · rfl

/-- A register that a failed instruction was to write is full with its old value. -/
theorem get_landed_old (v : Tab VReg) {r : Nat} (hr : r < 64) (regs : List (Nat × List Word)) :
    Tab.get {} (landed (fun _ o => { o with full := true, note := none }) v regs) r =
      if regs.any (·.1 == r) then { Tab.get {} v r with full := true, note := none } else Tab.get {} v r := by
  induction regs using ListFacts.snoc_induction with
  | nil => rfl
  | snoc l x ih =>
    rw [landed_append, List.any_append, List.any_cons, List.any_nil, Bool.or_false]
    by_cases hx : x.1 = r
    · rw [if_pos (hx ▸ hr), hx, Tab.get_set_self, ih, beq_self_eq_true, Bool.or_true, if_pos rfl]
      split <;> rfl
    · rw [beq_eq_false_iff_ne.mpr hx, Bool.or_false, ← ih]
      split
      · rw [Tab.get_set, if_neg hx]
      · rfl

/-- The state after the registers land. -/
def landRegs (f : List Word → VReg → VReg) (s : State) (b q : Nat) (regs : List (Nat × List Word)) : State :=
  regs.foldl (fun s x => setVreg s b q x.1 (f x.2)) s

/-- What landing registers leaves: the quire but for its registers, every block but for its extended registers, and
every field but those two. -/
theorem landRegs_spec (f : List Word → VReg → VReg) (b q : Nat) (regs : List (Nat × List Word)) (s : State) :
    let t := landRegs f s b q regs
    t.mem = s.mem ∧ t.hostMem = s.hostMem ∧ t.cores = s.cores ∧
    Tab.find t.quires (quireKey b q) = (Tab.find s.quires (quireKey b q)).map (fun Q => { Q with v := landed f Q.v regs }) ∧
    ∃ e : Block → Tab (Tab VReg), Tab.find t.blocks b = (Tab.find s.blocks b).map fun B => { B with ext := e B } := by
  induction regs generalizing s with
  | nil => exact ⟨rfl, rfl, rfl, Option.map_id'.symm, (·.ext), Option.map_id'.symm⟩
  | cons x l ih =>
    obtain ⟨hmem, hhost, hcores, hquires, e, hblocks⟩ := ih (setVreg s b q x.1 (f x.2))
    have hcons : landRegs f s b q (x :: l) = landRegs f (setVreg s b q x.1 (f x.2)) b q l := rfl
    rw [hcons]
    by_cases hx : x.1 < 64
    · have hset : setVreg s b q x.1 (f x.2) = s.updQuire (quireKey b q) fun Q =>
          { Q with v := Tab.set Q.v x.1 (f x.2 (Tab.get {} Q.v x.1)) } := if_pos hx
      rw [hset] at hmem hhost hcores hquires hblocks ⊢
      refine ⟨hmem, hhost, hcores, hquires.trans ?_, e, hblocks⟩
      rw [State.updQuire_quires, Tab.find_modify, if_pos rfl, Option.map_map]
      simp only [landed, List.foldl_cons, if_pos hx]
      rfl
    · have hset : ∃ g : Block → Tab (Tab VReg), setVreg s b q x.1 (f x.2) = s.updBlock b fun B => { B with ext := g B } :=
        ⟨_, if_neg hx⟩
      obtain ⟨g, hset⟩ := hset
      rw [hset] at hmem hhost hcores hquires hblocks ⊢
      refine ⟨hmem, hhost, hcores, hquires.trans ?_, fun B => e { B with ext := g B }, hblocks.trans ?_⟩
      · simp only [landed, List.foldl_cons, if_neg hx]
        rfl
      · rw [State.updBlock_blocks, Tab.find_modify, if_pos rfl, Option.map_map]
        rfl

/-! ## The core that it writes -/

/-- The tile and the USED bit that a retired instruction leaves. -/
def retiredTile (c : Core) (m : MatOp) : Core :=
  { c with
    tiles := m.tile.elim c.tiles fun t => Tab.set c.tiles t.1 t.2
    accUsed := m.used.elim c.accUsed fun u => if u.2 then c.accUsed ||| (1#16 <<< u.1) else c.accUsed &&& ~~~(1#16 <<< u.1) }

theorem retiredTile_used (c : Core) (m : MatOp) {p : Nat} (hp : p < 16) : (retiredTile c m).accUsed.getLsbD p =
    if m.used.map (·.1) = some p then m.used.any (·.2) else c.accUsed.getLsbD p := by
  rw [retiredTile]
  cases m.used with
  | none => rfl
  | some u =>
    obtain ⟨n, on⟩ := u
    by_cases hn : n = p
    · cases on <;> simp [hn, hp]
    · have hbit : (1#16 <<< n).getLsbD p = false := by
        rw [BitVec.getLsbD_shiftLeft, BitVec.getLsbD_one]
        by_cases hlt : p < n
        · simp [hlt]
        · have : p - n ≠ 0 := by omega
          simp [this]
      cases on
      · simp only [Option.elim, Bool.false_eq_true, if_false, Option.map_some, Option.some.injEq, hn, BitVec.getLsbD_and,
          BitVec.getLsbD_not, hp, decide_true, hbit, Bool.not_false, Bool.and_true]
      · simp only [Option.elim, if_true, Option.map_some, Option.some.injEq, hn, BitVec.getLsbD_or, hbit, Bool.or_false, if_false]

/-- Bytes that a scatter changes are among those it was given. -/
theorem read_scatter (c : Core) (cells : List (Nat × Byte)) (a : Nat)
    (h : Memory.read (sramScatter c cells).1.sram a ≠ Memory.read c.sram a) : ∃ x ∈ cells, x.1 = a := by
  refine Classical.byContradiction fun hnone => ?_
  have hno : ∀ x ∈ cells, x.1 ≠ a := fun x hx heq => hnone ⟨x, hx, heq⟩
  have hkeep : ∀ (l : List (Nat × Byte)) (sram : List Host.Cell), (∀ x ∈ l, x.1 ≠ a) →
      Memory.read (l.foldl (fun l x => Memory.write l x.1 x.2) sram) a = Memory.read sram a := by
    intro l
    induction l with
    | nil => exact fun _ _ => rfl
    | cons x l ih =>
      intro sram hl
      rw [List.foldl_cons, ih _ fun y hy => hl y (List.mem_cons_of_mem _ hy),
        read_write_ne _ _ _ _ (hl x (List.mem_cons_self ..)).symm]
  refine h ((hkeep _ _ fun x hx => hno x ((List.mem_filter.mp hx).1)).trans ?_)
  split <;> rfl

theorem scatter_clean {c : Core} (cells : List (Nat × Byte)) (h : c.badSram = []) :
    (sramScatter c cells).1.sram = cells.foldl (fun l x => Memory.write l x.1 x.2) c.sram := by
  have hall : (cells.filter fun x => !c.badSram.contains (x.1 / 4)) = cells := List.filter_eq_self.mpr fun x _ => by rw [h]; rfl
  have hclean : c.badSram.isEmpty = true := by rw [h]; rfl
  simp only [sramScatter, hclean, if_true, hall]

theorem scatter_rest (c : Core) (cells : List (Nat × Byte)) : (sramScatter c cells).1.matQ = c.matQ ∧
    (sramScatter c cells).1.tiles = c.tiles ∧ (sramScatter c cells).1.accUsed = c.accUsed := by
  simp only [sramScatter]
  split <;> exact ⟨rfl, rfl, rfl⟩

/-! ## The statistics -/

/-- A block in which n events of kind k are counted for a tensor. -/
def counting (tensor k n : Nat) (B : Block) : Block :=
  if n = 0 then B else
    { B with stats := Tab.set B.stats tensor ((Tab.get [0, 0, 0, 0, 0, 0] B.stats tensor).set k
        ((Tab.get [0, 0, 0, 0, 0, 0] B.stats tensor).getD k 0 + n)) }

theorem addStat_blocks (s : State) (b tensor k n : Nat) :
    Tab.find (addStat s b tensor k n).blocks b = (Tab.find s.blocks b).map (counting tensor k n) := by
  by_cases hn : n = 0
  · rw [addStat, if_pos (beq_iff_eq.mpr hn), show counting tensor k n = id from funext fun B => if_pos hn, Option.map_id]
    rfl
  · rw [addStat, if_neg fun h => hn (beq_iff_eq.mp h), State.updBlock_blocks, Tab.find_modify, if_pos rfl]
    exact congrArg (Option.map · _) (funext fun B => (if_neg hn).symm)

theorem addStat_rest (s : State) (b tensor k n : Nat) : (addStat s b tensor k n).mem = s.mem ∧
    (addStat s b tensor k n).hostMem = s.hostMem ∧ (addStat s b tensor k n).cores = s.cores ∧
    (addStat s b tensor k n).quires = s.quires := by
  rw [addStat]
  split <;> exact ⟨rfl, rfl, rfl, rfl⟩

theorem counting_ovf (tensor k n : Nat) (B : Block) : (counting tensor k n B).ovf = B.ovf := by
  rw [counting]
  split <;> rfl

theorem counting_stats (T k n tensor : Nat) (B : Block) :
    Tab.get [0, 0, 0, 0, 0, 0] (counting T k n B).stats tensor =
      if tensor = T ∧ n ≠ 0 then (Tab.get [0, 0, 0, 0, 0, 0] B.stats tensor).set k
        ((Tab.get [0, 0, 0, 0, 0, 0] B.stats tensor).getD k 0 + n)
      else Tab.get [0, 0, 0, 0, 0, 0] B.stats tensor := by
  by_cases hn : n = 0
  · rw [counting, if_pos hn, if_neg fun h => h.2 hn]
  · rw [counting, if_neg hn, Tab.get_set]
    by_cases ht : T = tensor
    · rw [if_pos ht, if_pos ⟨ht.symm, hn⟩, ht]
    · rw [if_neg ht, if_neg fun h => ht h.1.symm]

theorem setOvf_blocks (s : State) (b : Nat) (m : Word) :
    Tab.find (setOvf s b m).blocks b = (Tab.find s.blocks b).map fun B => { B with ovf := B.ovf ||| m } := by
  by_cases hm : m = 0
  · rw [setOvf, if_pos (beq_iff_eq.mpr hm), hm]
    simp
  · rw [setOvf, if_neg fun h => hm (beq_iff_eq.mp h), State.updBlock_blocks, Tab.find_modify, if_pos rfl]

theorem setOvf_rest (s : State) (b : Nat) (m : Word) : (setOvf s b m).mem = s.mem ∧ (setOvf s b m).hostMem = s.hostMem ∧
    (setOvf s b m).cores = s.cores ∧ (setOvf s b m).quires = s.quires := by
  rw [setOvf]
  split <;> exact ⟨rfl, rfl, rfl, rfl⟩

end Sys2Proof.MatrixProofs
end

section
/-! PROOFS. MAT_RETIRE (13_matrix.md R293, R295, R306). -/

namespace Sys2Proof.MatrixProofs

open Sys2Proof.Machine Sys2Proof.Safety Sys2Proof.Laws Sys2Proof.SystemProofs

/-! ## The parts of a retirement that takes effect -/

/-- The tile and the USED bit of the instruction stand in the core. -/
def tileLands (c : Core) (m : MatOp) : Core :=
  let c := match m.tile with
    | some t => { c with tiles := Tab.set c.tiles t.1 t.2 }
    | none => c
  match m.used with
  | some u => { c with accUsed := if u.2 then c.accUsed ||| (1#16 <<< u.1) else c.accUsed &&& ~~~(1#16 <<< u.1) }
  | none => c

/-- H hears of a byte that met an uncorrectable word. -/
def lostTold (s : State) (b : Nat) (lost : Option Nat) : State :=
  match lost, Tab.find s.blocks b with
  | some a, some B => s.tell (.storeDropped B.ctx a)
  | _, _ => s

/-- The plane is folded into the signature. -/
def foldLands (s : State) (m : MatOp) : State :=
  match m.fold with
  | some ws => s.updQuire (quireKey m.b m.q) fun Q => { Q with sigv := sigFold Q.sigv ws }
  | none => s

/-- The events are counted. -/
def statLands (s : State) (m : MatOp) : State :=
  match m.stat with
  | some (t, sat, nan) => addStat (addStat s m.b t 0 sat) m.b t 2 nan
  | none => s

/-- The core's bytes, tile and USED bit after the instruction. -/
def retiredCore (c : Core) (m : MatOp) : Core := (sramScatter (retiredTile c m) m.scratch).1

theorem tileLands_eq (c : Core) (m : MatOp) : tileLands c m = retiredTile c m := by
  rw [tileLands, retiredTile]
  cases m.tile <;> cases m.used <;> rfl

theorem lostTold_rest (s : State) (b : Nat) (lost : Option Nat) : ∃ l, lostTold s b lost = { s with told := l } := by
  unfold lostTold
  cases lost with
  | none => exact ⟨_, rfl⟩
  | some a => cases Tab.find s.blocks b <;> exact ⟨_, rfl⟩

theorem foldLands_spec (s : State) (m : MatOp) :
    let t := foldLands s m
    t.mem = s.mem ∧ t.hostMem = s.hostMem ∧ t.cores = s.cores ∧ t.blocks = s.blocks ∧
    Tab.find t.quires (quireKey m.b m.q) = (Tab.find s.quires (quireKey m.b m.q)).map fun Q =>
      { Q with sigv := m.fold.elim Q.sigv (sigFold Q.sigv) } := by
  rw [foldLands]
  cases m.fold with
  | none => exact ⟨rfl, rfl, rfl, rfl, Option.map_id'.symm⟩
  | some ws => exact ⟨rfl, rfl, rfl, rfl, by rw [State.updQuire_quires, Tab.find_modify, if_pos rfl]; rfl⟩

/-- The block in which the instruction's events are counted. -/
def counted2 (m : MatOp) (B : Block) : Block :=
  m.stat.elim B fun x => counting x.1 2 x.2.2 (counting x.1 0 x.2.1 B)

theorem statLands_spec (s : State) (m : MatOp) :
    let t := statLands s m
    t.mem = s.mem ∧ t.hostMem = s.hostMem ∧ t.cores = s.cores ∧ t.quires = s.quires ∧
    Tab.find t.blocks m.b = (Tab.find s.blocks m.b).map (counted2 m) := by
  have hid : m.stat = none → counted2 m = id := fun h => funext fun B => by rw [counted2, h]; rfl
  have hsome : ∀ x, m.stat = some x → counted2 m = counting x.1 2 x.2.2 ∘ counting x.1 0 x.2.1 :=
    fun x h => funext fun B => by rw [counted2, h]; rfl
  rw [statLands]
  cases hst : m.stat with
  | none => exact ⟨rfl, rfl, rfl, rfl, by rw [hid hst, Option.map_id]; rfl⟩
  | some x =>
    obtain ⟨T, sat, nan⟩ := x
    obtain ⟨hmem, hhost, hcores, hquires⟩ := addStat_rest s m.b T 0 sat
    obtain ⟨hmem', hhost', hcores', hquires'⟩ := addStat_rest (addStat s m.b T 0 sat) m.b T 2 nan
    refine ⟨hmem'.trans hmem, hhost'.trans hhost, hcores'.trans hcores, hquires'.trans hquires, ?_⟩
    rw [hsome _ hst, ← Option.map_map, ← addStat_blocks, ← addStat_blocks]

theorem matEffects_eq (s : State) (c : Nat) (m : MatOp) :
    matEffects s c m =
      let s1 := s.updCore c fun core => tileLands core m
      let r := sramScatter (s1.coreOf c) m.scratch
      setOvf (statLands (foldLands (landRegs (fun ws _ => { lanes := ws })
        (lostTold (s1.updCore c fun _ => r.1) m.b r.2) m.b m.q m.vregs) m) m) m.b m.ovf := rfl

/-- What an instruction that did not fail leaves: its core, its quire, its block, and no byte of memory. -/
theorem matEffects_spec (s : State) (c : Nat) (m : MatOp) :
    let t := matEffects s c m
    t.mem = s.mem ∧ t.hostMem = s.hostMem ∧ t.coreOf c = retiredCore (s.coreOf c) m ∧
    Tab.find t.quires (quireKey m.b m.q) = (Tab.find s.quires (quireKey m.b m.q)).map (fun Q =>
      { Q with v := landed (fun ws _ => { lanes := ws }) Q.v m.vregs, sigv := m.fold.elim Q.sigv (sigFold Q.sigv) }) ∧
    ∃ e : Block → Tab (Tab VReg), Tab.find t.blocks m.b =
      (Tab.find s.blocks m.b).map fun B => { counted2 m { B with ext := e B } with ovf := B.ovf ||| m.ovf } := by
  intro t
  have ht : t = matEffects s c m := rfl
  rw [matEffects_eq] at ht
  simp only [coreOf_updCore, tileLands_eq] at ht
  have hcore : ((s.updCore c fun core => tileLands core m).updCore c fun _ =>
      (sramScatter (retiredTile (s.coreOf c) m) m.scratch).1).coreOf c = retiredCore (s.coreOf c) m := coreOf_updCore ..
  simp only [tileLands_eq] at hcore
  generalize hs0 : ((s.updCore c fun core => retiredTile core m).updCore c fun _ =>
      (sramScatter (retiredTile (s.coreOf c) m) m.scratch).1) = s0 at ht hcore
  obtain ⟨l, hlost⟩ := lostTold_rest s0 m.b (sramScatter (retiredTile (s.coreOf c) m) m.scratch).2
  rw [hlost] at ht
  obtain ⟨hmem1, hhost1, hcores1, hquires1, e, hblocks1⟩ :=
    landRegs_spec (fun ws _ => { lanes := ws }) m.b m.q m.vregs { s0 with told := l }
  generalize landRegs (fun ws _ => { lanes := ws }) { s0 with told := l } m.b m.q m.vregs = s1 at *
  obtain ⟨hmem2, hhost2, hcores2, hblocks2, hquires2⟩ := foldLands_spec s1 m
  generalize foldLands s1 m = s2 at *
  obtain ⟨hmem3, hhost3, hcores3, hquires3, hblocks3⟩ := statLands_spec s2 m
  generalize statLands s2 m = s3 at *
  obtain ⟨hmem4, hhost4, hcores4, hquires4⟩ := setOvf_rest s3 m.b m.ovf
  have hblocks4 := setOvf_blocks s3 m.b m.ovf
  rw [← ht] at hmem4 hhost4 hcores4 hquires4 hblocks4
  have hcores : t.cores = s0.cores := hcores4.trans (hcores3.trans (hcores2.trans hcores1))
  refine ⟨?_, ?_, ?_, ?_, e, ?_⟩
  · rw [hmem4, hmem3, hmem2, hmem1, ← hs0]
    rfl
  · rw [hhost4, hhost3, hhost2, hhost1, ← hs0]
    rfl
  · rw [State.coreOf, hcores]
    exact hcore
  · rw [hquires4, hquires3, hquires2, hquires1, Option.map_map, ← hs0]
    rfl
  · rw [hblocks4, hblocks3, hblocks2, hblocks1, Option.map_map, Option.map_map, ← hs0]
    refine congrArg (Option.map · _) (funext fun B => ?_)
    have hovf : ∀ C : Block, (counted2 m C).ovf = C.ovf := by
      intro C
      rw [counted2]
      cases m.stat with
      | none => rfl
      | some x => exact (counting_ovf ..).trans (counting_ovf ..)
    simp only [Function.comp, hovf]

/-! ## MAT_RETIRE -/

variable {s : State} {m : MatOp}

/-- An instruction before which only MSIGX words stand retires. -/
theorem matRetire_exec (hm : (s.coreOf s.subject.idx).matQ[s.subject.sub]? = some m) (hsig : m.msigx = none)
    (hfirst : ∀ x ∈ (s.coreOf s.subject.idx).matQ.take s.subject.sub, x.msigx ≠ none) :
    exec .matRetire s = .next (captureSr (if m.failed then matFails (popMat s s.subject.idx s.subject.sub) m
      else matEffects (popMat s s.subject.idx s.subject.sub) s.subject.idx m)) := by
  have hany : (((s.coreOf s.subject.idx).matQ.take s.subject.sub).any fun x => x.msigx.isNone) = false := by
    rw [List.any_eq_false]
    intro x hx hnone
    exact hfirst x hx (Option.isNone_iff_eq_none.mp hnone)
  change execMatRetire s = _
  unfold execMatRetire
  simp only [hm, hsig, hany, Bool.false_eq_true, if_false]

/-- An MSIGX whose access has completed retires. -/
theorem matRetire_msigx {id : Nat} {a : DWord} {trapOn : Bool} {op : PendOp}
    (hm : (s.coreOf s.subject.idx).matQ[s.subject.sub]? = some m) (hsig : m.msigx = some (id, a, trapOn))
    (hop : Tab.find s.ops id = some op) (hwait : op.waiting = 0) :
    exec .matRetire s = .next (captureSr (popMat (msigxReturn { s with ops := Tab.del s.ops id } m trapOn op)
      s.subject.idx s.subject.sub)) := by
  have hgo : (op.waiting != 0) = false := by rw [hwait]; rfl
  change execMatRetire s = _
  unfold execMatRetire
  simp only [hm, hsig, hop, hgo, Bool.false_eq_true, if_false]

/-- What the registers and the strand of a failed instruction are. -/
theorem matFails_spec (s : State) (m : MatOp) :
    let t := matFails s m
    t.mem = s.mem ∧ t.cores = s.cores ∧
    Tab.find t.quires (quireKey m.b m.q) = (Tab.find s.quires (quireKey m.b m.q)).map fun Q =>
      let Q' := { Q with v := landed (fun _ o => { o with full := true, note := none }) Q.v m.vregs }
      Q'.setSlot m.sl { Q'.slot m.sl with ctl := { (Q'.slot m.sl).ctl with due := (Q'.slot m.sl).ctl.due ++ [matErr m] } } := by
  obtain ⟨hmem, -, hcores, hquires, -⟩ :=
    landRegs_spec (fun _ o => { o with full := true, note := none }) m.b m.q m.vregs s
  refine ⟨hmem, hcores, ?_⟩
  have ht : matFails s m = (landRegs (fun _ o => { o with full := true, note := none }) s m.b m.q m.vregs).updQuire (quireKey m.b m.q)
      fun Q => Q.setSlot m.sl { Q.slot m.sl with ctl := { (Q.slot m.sl).ctl with due := (Q.slot m.sl).ctl.due ++ [matErr m] } } := rfl
  rw [ht, State.updQuire_quires, Tab.find_modify, if_pos rfl, hquires, Option.map_map]
  rfl

theorem setSlot_v (Q : Quire) (sl : Nat) (x : Slot) : (Q.setSlot sl x).v = Q.v := by
  rw [Quire.setSlot]
  split <;> rfl

theorem slot_setSlot (Q : Quire) (sl : Nat) (x : Slot) : (Q.setSlot sl x).slot sl = x := by
  by_cases h : sl = 0 <;> simp [Quire.slot, Quire.setSlot, h]

/-- Settles O44: the queue loses the entry, and its effects stand part by part. -/
theorem matrixRetirement : Obligations.MatrixRetirement := by
  refine ⟨fun s m hm hsig hfirst hok => ?_, fun s m st hm hsig hfirst hfail hst => ?_,
    fun s m id a v addr trapOn op hm hsig hop hwait hdest => ?_, fun s m id a trapOn hm hsig hop => ?_⟩
  case refine_1 =>
    intro c t
    have hexec := matRetire_exec hm hsig hfirst
    rw [hok] at hexec
    obtain ⟨hmem, hhost, hcore, hquires, e, hblocks⟩ := matEffects_spec (popMat s c s.subject.sub) c m
    have hpop : (popMat s c s.subject.sub).coreOf c =
        { s.coreOf c with matQ := (s.coreOf c).matQ.take s.subject.sub ++ (s.coreOf c).matQ.drop (s.subject.sub + 1) } :=
      coreOf_updCore ..
    obtain ⟨hmatQ, htiles, hused⟩ := scatter_rest (retiredTile ((popMat s c s.subject.sub).coreOf c) m) m.scratch
    refine ⟨hexec, hmem, hhost, ?_, fun p => ?_, fun p hp => ?_, fun x hx => ?_, fun hbad => ?_, fun Q hQ => ?_, fun B hB => ?_⟩
    · rw [hcore, retiredCore, hmatQ, hpop]
      rfl
    · rw [hcore, retiredCore, htiles, hpop, retiredTile]
      cases m.tile with
      | none => rfl
      | some x =>
        simp only [Option.elim, Tab.get_set, eq_comm (a := p)]
    · rw [hcore, retiredCore, hused, retiredTile_used _ _ hp, hpop]
    · rw [hcore, retiredCore] at hx
      refine read_scatter (retiredTile ((popMat s c s.subject.sub).coreOf c) m) m.scratch x fun h => hx ?_
      rw [h, hpop]
      rfl
    · rw [hcore, retiredCore, scatter_clean _ (by rw [hpop]; exact hbad), hpop]
      rfl
    · refine ⟨_, hquires.trans (congrArg _ hQ), ?_, fun r hr => ?_, rfl⟩
      · cases m.fold <;> rfl
      · refine (find_landed_new Q.v hr m.vregs).trans ?_
        cases m.vregs.reverse.find? (·.1 == r) <;> rfl
    · refine ⟨_, hblocks.trans (congrArg _ hB), rfl, fun tensor => ?_⟩
      change Tab.get [0, 0, 0, 0, 0, 0] (counted2 m { B with ext := e B }).stats tensor = _
      rw [counted2]
      cases m.stat with
      | none => rfl
      | some x =>
        obtain ⟨T, sat, nan⟩ := x
        simp only [Option.elim, counting_stats]
        by_cases htensor : tensor = T <;> by_cases hsat : sat = 0 <;> by_cases hnan : nan = 0 <;>
          simp only [htensor, hsat, hnan, ne_eq, not_true_eq_false, not_false_eq_true, and_self, and_true, and_false, or_self, or_true,
            or_false, if_true, if_false]
  case refine_2 =>
    intro t
    have hexec := matRetire_exec hm hsig hfirst
    rw [hfail] at hexec
    obtain ⟨hmem, hcores, hquires⟩ := matFails_spec (popMat s s.subject.idx s.subject.sub) m
    obtain ⟨Q, hQ, hctl⟩ := Option.map_eq_some_iff.mp hst
    refine ⟨hexec, hmem, hcores, fun Q' hQ' => ⟨_, hquires.trans (congrArg _ hQ'), fun r hr => ?_⟩, ?_⟩
    · rw [setSlot_v]
      exact get_landed_old Q'.v hr m.vregs
    · refine (congrArg (Option.map fun Q => (Q.slot m.sl).ctl) (hquires.trans (congrArg _ hQ))).trans ?_
      rw [Option.map_some, Option.map_some, slot_setSlot, ← hctl]
      rfl
  case refine_3 =>
    intro s' u then_
    have hexec := matRetire_msigx hm hsig hop hwait
    refine ⟨fun herrs hsame => ?_, fun herrs hother htrap => ?_, fun herrs hother htrap => ?_, fun x l herrs => ?_⟩
    · rw [msigxReturn] at hexec
      simp only [hdest, herrs, hsame, beq_self_eq_true, if_true] at hexec
      exact hexec
    · rw [msigxReturn] at hexec
      simp only [hdest, herrs, beq_eq_false_iff_ne.mpr hother, htrap, Bool.false_eq_true, if_false] at hexec
      exact hexec
    · rw [msigxReturn] at hexec
      simp only [hdest, herrs, beq_eq_false_iff_ne.mpr hother, htrap, Bool.false_eq_true, if_false, if_true] at hexec
      exact hexec
    · rw [msigxReturn] at hexec
      simp only [hdest, herrs] at hexec
      exact hexec
  case refine_4 =>
    change execMatRetire s = _
    unfold execMatRetire
    simp only [hm, hsig, hop]

end Sys2Proof.MatrixProofs
end

section
/-! PROOFS. The ENG words (06_engines.md R111 to R141). -/

namespace Sys2Proof.EngineProofs

open Sys2Proof.Machine Sys2Proof.Safety Sys2Proof.Laws Sys2Proof.MemoryProofs

variable {s : State} {I : Issuer} {i : Instr} {f : EE}

/-- Every word with a data command is the frame of its operands, for H where it is MIGR. -/
theorem engWords_frame {opc : Nat} {regs : List (BitVec 5)} {ok : Bool} {c : DWord × DWord × DWord × DWord × DWord}
    (h : (i, opc, regs, ok, c) ∈ engWords s I f) : ∃ (hOnly : Bool) (okOf : Issuer → Bool)
      (cmd : Issuer → DWord × DWord × DWord × DWord × DWord), exec i s = engFrame i f s opc regs hOnly okOf cmd ∧
      okOf I = ok ∧ cmd I = c ∧ (hOnly = true → opc = 12) := by
  simp only [engWords, List.mem_cons, List.not_mem_nil, Prod.mk.injEq, or_false] at h
  rcases h with ⟨rfl, rfl, rfl, rfl, rfl, rfl, rfl, rfl, rfl⟩ | ⟨rfl, rfl, rfl, rfl, rfl, rfl, rfl, rfl, rfl⟩ |
    ⟨rfl, rfl, rfl, rfl, rfl, rfl, rfl, rfl, rfl⟩ | ⟨rfl, rfl, rfl, rfl, rfl, rfl, rfl, rfl, rfl⟩ |
    ⟨rfl, rfl, rfl, rfl, rfl, rfl, rfl, rfl, rfl⟩ | ⟨rfl, rfl, rfl, rfl, rfl, rfl, rfl, rfl, rfl⟩ |
    ⟨rfl, rfl, rfl, rfl, rfl, rfl, rfl, rfl, rfl⟩ | ⟨rfl, rfl, rfl, rfl, rfl, rfl, rfl, rfl, rfl⟩ |
    ⟨rfl, rfl, rfl, rfl, rfl, rfl, rfl, rfl, rfl⟩ | ⟨rfl, rfl, rfl, rfl, rfl, rfl, rfl, rfl, rfl⟩
  case inr.inr.inr.inr.inr.inr.inr.inr.inr => exact ⟨_, _, _, rfl, rfl, rfl, fun _ => rfl⟩
  all_goals exact ⟨_, _, _, rfl, rfl, rfl, fun h => nomatch h⟩

/-- A command with valid operands and room in its pair is forked. -/
theorem engFrame_forks {opc : Nat} {regs : List (BitVec 5)} {hOnly : Bool} {ok : Issuer → Bool}
    {cmd : Issuer → DWord × DWord × DWord × DWord × DWord} (hi : Issues s i I) (hlevel : hOnly = true → I.st.level ≠ .u)
    (hlo : 8 ≤ f.q.toNat) (hhi : f.q.toNat ≤ 11) (hpairs : ∀ r ∈ regs, I.pairOk r.toNat = true)
    (hs : Full (regs.flatMap fun r => I.src64 r.toNat)) (hok : ok I = true) (htag : tagOk (cmd I).2.2.2.1 = true)
    (hroom : (Tab.get [] I.blk.pairs f.q.toNat).length < 16) :
    engFrame i f s opc regs hOnly ok cmd = .next (complete (forkEngine s I f.q.toNat opc (cmd I).1 (cmd I).2.1 (cmd I).2.2.1
      (cmd I).2.2.2.1 (cmd I).2.2.2.2) I) := by
  rw [engFrame, onUnit_eq hi]
  refine congrArg (Act.finish · s I) (a₂ := .done _) ?_
  refine (if_neg ?_).trans ((if_neg ?_).trans ((withSrcs_full hs free_nil _).trans ((if_neg ?_).trans (if_neg ?_))))
  · intro h
    obtain ⟨hh, hu⟩ := Bool.and_eq_true_iff.mp h
    exact hlevel hh (by simpa [Issuer.atU] using hu)
  · simpa [Nat.not_lt.mpr hlo, Nat.not_lt.mpr hhi] using hpairs
  · simp [hok, htag]
  · exact Nat.not_le.mpr hroom

theorem eraseDups_of_nodup {l : List Nat} (h : l.Nodup) : l.eraseDups = l := by
  induction l using ListFacts.snoc_induction with
  | nil => rfl
  | snoc l x ih =>
    obtain ⟨hrest, -, hnew⟩ := List.nodup_append.mp h
    rw [eraseDups_snoc, if_neg fun hx => hnew x hx x (List.mem_singleton.mpr rfl) rfl, ih hrest]

/-- The destinations of a pop. -/
def popDests (f : EE) : List Nat := [f.ra.toNat, f.rb.toNat, f.rc.toNat, f.rd.toNat]

/-- The block in which a pop waits. -/
def popQueued (I : Issuer) (f : EE) (poll : Bool) (B : Block) : Block :=
  { B with pops := B.pops ++ [{ unit := I.u, q := f.q.toNat, dests := popDests f, poll := poll, bank := !I.atU }] }

/-- What CWAIT and CPOLL leave: four empty destinations, and a pop that waits. -/
theorem popFrame_waits {poll : Bool} (hi : Issues s i I) (hlo : 12 ≤ f.q.toNat) (hpairs : ∀ r ∈ popDests f, I.pairOk r = true)
    (hnodup : (if I.fe then (popDests f).filter (· != 0) else popDests f).Nodup) (hd : Free ((popDests f).flatMap I.src64)) :
    popFrame i f s poll = .next (complete (((popDests f).foldl (fun s r => empty64 s I r) s).updBlock I.b (popQueued I f poll)) I) := by
  rw [popFrame, onUnit_eq hi]
  refine congrArg (Act.finish · s I) (a₂ := .done _) ?_
  refine (if_neg ?_).trans (withSrcs_full full_nil hd _)
  have hdups := eraseDups_of_nodup hnodup
  have hall := List.all_eq_true.mpr hpairs
  simp only [popDests] at hdups hall
  simp only [hdups, hall, decide_eq_false (Nat.not_lt.mpr hlo), Bool.not_true, bne_self_eq_false, Bool.or_self, Bool.false_eq_true,
    not_false_eq_true]

theorem forkEngine_spec (s : State) (I : Issuer) (q opc : Nat) (a b c d m : DWord) (B : Block) (hB : Tab.find s.blocks I.b = some B) :
    let t := forkEngine s I q opc a b c d m
    ∃ e B', Tab.find t.engs s.nextId = some e ∧ e.opc = opc ∧ e.ra = a ∧ e.rb = b ∧ e.rc = c ∧ e.tag = d ∧ e.level = I.st.level ∧
      e.phase = .queued ∧ (e.pkg, e.eng) = copyEngineOf s I.blk q ∧ Tab.find t.blocks I.b = some B' ∧
      Tab.get [] B'.pairs q = Tab.get [] B.pairs q ++ [{ op := s.nextId }] ∧ t.mem = s.mem ∧ t.cores = s.cores := by
  refine ⟨_, { B with pairs := Tab.set B.pairs q (Tab.get [] B.pairs q ++ [{ op := s.nextId }]) }, Tab.find_set_self _ _ _,
    rfl, rfl, rfl, rfl, rfl, rfl, rfl, rfl, ?_, Tab.get_set_self .., rfl, rfl⟩
  · rw [forkEngine, State.updBlock_blocks, Tab.find_modify, if_pos rfl, hB]
    rfl

/-- Settles O45: each word passes its frame, which forks the command or leaves the pop. -/
theorem engineWordsComplete : Obligations.EngineWordsComplete := by
  refine ⟨fun f s I i opc regs ok c h hi hlevel hlo hhi hpairs hs hok htag hroom => ?_,
    fun s I q opc a b c d m B hB => forkEngine_spec s I q opc a b c d m B hB,
    fun f s I hi hlevel hq hpair hs hsmall => ?_, fun f s I i poll h hi => fun hlo hpairs hnodup hd => ?_⟩
  · obtain ⟨hOnly, okOf, cmd, hexec, rfl, rfl, hmigr⟩ := engWords_frame h
    exact hexec.trans (engFrame_forks hi (fun hh => hlevel (hmigr hh)) hlo hhi hpairs hs hok htag hroom)
  · change execCarb f s = _
    rw [execCarb, onUnit_eq hi]
    refine congrArg (Act.finish · s I) (a₂ := .done _) ?_
    refine (if_neg ?_).trans ((if_neg ?_).trans ((withSrcs_full hs free_nil _).trans (if_neg (Nat.not_le.mpr hsmall))))
    · simpa [Issuer.atU] using hlevel
    · simp [hq, hpair]
  · have hexec : exec i s = popFrame i f s poll := by
      simp only [List.mem_cons, List.not_mem_nil, Prod.mk.injEq, or_false] at h
      rcases h with ⟨rfl, rfl⟩ | ⟨rfl, rfl⟩ <;> rfl
    exact hexec.trans (popFrame_waits hi hlo hpairs hnodup hd)

end Sys2Proof.EngineProofs
end

section
/-! PROOFS. The state after reset (03_memory.md, 05_fabric.md R98, 17_partitions.md R388, R389, R396). -/

namespace Sys2Proof.ResetProofs

open Sys2Proof.Machine Sys2Proof.Safety Sys2Proof.Laws

theorem reset_planes : ∀ b < 256, Tab.get 0 Pkg.reset.map b = b % 8 ∧ Tab.get 0 Pkg.reset.shadowMap b = b % 8 := by decide +kernel

theorem reset_planeWords : ∀ i < 16, planeRead Pkg.reset (8 * i) = 0x7654321076543210#64 ∧
    planeRead Pkg.reset (0x80 + 8 * i) = 0x7654321076543210#64 := by decide +kernel

/-- A word of an entry that no write has reached. -/
theorem reset_entry : ∀ k < 16, LayoutEnt.word {} (8 * k) = if k = 11 then 0x64#32 ++ 5400000#32 else if k = 12 then 10000 else 0 := by
  decide

theorem reset_layoutWords {i k : Nat} (hi : i < 32) (hk : k < 16) :
    layoutRead Pkg.reset (0x80 * i + 8 * k) = LayoutEnt.word {} (8 * k) ∧
    layoutRead Pkg.reset (0x1000 + 0x80 * i + 8 * k) = LayoutEnt.word {} (8 * k) := by
  have hword : (0x80 * i + 8 * k) % 0x80 = 8 * k := by omega
  constructor
  · unfold layoutRead
    rw [if_pos (by omega), hword]
    rfl
  · unfold layoutRead
    rw [if_neg (by omega), if_pos (by omega), show (0x1000 + 0x80 * i + 8 * k) % 0x80 = 8 * k by omega]
    rfl

/-- Settles O59: the tables are those of the map's and the spares' rules, and the registers are read word by word. -/
theorem resetState : Obligations.ResetState := by
  refine ⟨rfl, reset_planes, reset_planeWords, by decide +kernel, fun i k hi hk => ?_, by decide +kernel, by decide +kernel, rfl, rfl, rfl, rfl, rfl,
    rfl, rfl, rfl, rfl, rfl, wf_reset.1, wf_reset.2, fun c hc => nomatch hc⟩
  intro w
  obtain ⟨hshadow, hlive⟩ := reset_layoutWords hi hk
  rw [hshadow, hlive]
  exact ⟨reset_entry k hk, reset_entry k hk⟩

end Sys2Proof.ResetProofs
end

section
/-! PROOFS. The gate words (17_partitions.md R402, R403). -/

namespace Sys2Proof.GateProofs

open Sys2Proof.Machine Sys2Proof.Safety Sys2Proof.Laws

variable {s : State} {I : Issuer} {i : Instr} {f : EE}

/-- A gate word with permitted registers, full sources and a handle within its limit runs its body. -/
theorem gateFrame_ready {r : BitVec 5} {rs dsts : List (BitVec 5)} {k : Issuer → List DWord → Act} (hi : Issues s i I)
    (hpairs : ∀ x ∈ (r :: rs) ++ dsts, I.pairOk x.toNat = true) (hs : Full ((r :: rs).flatMap fun r => I.src64 r.toNat))
    (hd : Free (dsts.flatMap fun r => I.src64 r.toNat)) (hhandle : (I.r64 r.toNat).toNat < 65536) :
    gateFrame i s (r :: rs) dsts k = (k I ((r :: rs).map fun r => I.r64 r.toNat)).finish s I := by
  rw [gateFrame, onUnit_eq hi]
  refine congrArg (Act.finish · s I) ?_
  refine (if_neg ?_).trans ((withSrcs_full hs hd _).trans (if_neg (Nat.not_le.mpr hhandle)))
  rw [List.all_eq_true.mpr hpairs]
  decide

theorem sendGate_eq (s : State) (I : Issuer) (g : GateOp) : sendGate s I g = .wait (gateSent s I g) (.gate s.nextId) := rfl

theorem gateAddrOk_of {a : DWord} (hal : a.toNat % 32 = 0) (hlt : a.toNat < 2 ^ 52) : gateAddrOk a = true := by
  have hhigh : bits a.toNat 52 12 = 0 := by rw [bits, Nat.shiftRight_eq_div_pow, Nat.div_eq_of_lt hlt, Nat.zero_mod]
  rw [gateAddrOk, hal, hhigh]
  rfl

/-- The address of a message and the flag that it may not wait. -/
theorem message_operands_ok {a n : DWord} (hal : a.toNat % 32 = 0) (hlt : a.toNat < 2 ^ 52) (hn : n.toNat < 2) :
    ¬ (!gateAddrOk a || decide (2 ≤ n.toNat)) = true := by
  rw [gateAddrOk_of hal hlt, decide_eq_false (Nat.not_le.mpr hn)]
  decide

/-- What follows an access that was made. -/
theorem andThen_of_ok {α : Type} {r : Sync α} {s : State} {a : α} {k : State → α → Act} (h : r = .ok s a) : r.andThen k = k s a := by
  rw [h]
  rfl

theorem hgsend_waits {s1 : State} {m : List Byte} (hi : Issues s (.hgsend f) I)
    (hpairs : ∀ r ∈ [f.ra, f.rb, f.rc, f.rd], I.pairOk r.toNat = true) (hs : Full ([f.ra, f.rb, f.rc].flatMap fun r => I.src64 r.toNat))
    (hd : Free (I.src64 f.rd.toNat)) (hhandle : (I.r64 f.ra.toNat).toNat < 65536) (hal : (I.r64 f.rb.toNat).toNat % 32 = 0)
    (hlt : (I.r64 f.rb.toNat).toNat < 2 ^ 52) (hn : (I.r64 f.rc.toNat).toNat < 2) (hperf : unperformed s I.u I.mask s.nextId 5 = false)
    (hread : syncRead s I (I.r64 f.rb.toNat).toNat 32 = .ok s1 m) :
    WaitsAs (.hgsend f) s I (gateSent s1 I
      { gateOp I .send (I.r64 f.ra.toNat) with nb := I.r64 f.rc.toNat == 1, msg := m, dests := [f.rd.toNat] }) (.gate s1.nextId) := by
  change execHgsend f s = _
  rw [execHgsend, gateFrame_ready (rs := [f.rb, f.rc]) (dsts := [f.rd]) hi hpairs hs (by simpa using hd) hhandle]
  refine congrArg (Act.finish · s I) (a₂ := .wait _ _) ?_
  refine (if_neg (message_operands_ok hal hlt hn)).trans ((if_neg (by rw [hperf]; decide)).trans ?_)
  exact andThen_of_ok hread

theorem hgsig_waits (hi : Issues s (.hgsig f) I) (hpairs : ∀ r ∈ [f.ra, f.rb], I.pairOk r.toNat = true)
    (hs : Full ([f.ra, f.rb].flatMap fun r => I.src64 r.toNat)) (hhandle : (I.r64 f.ra.toNat).toNat < 65536)
    (hne : I.r64 f.rb.toNat ≠ 0) (hsmall : (I.r64 f.rb.toNat).toNat < 2 ^ 32) (hperf : unperformed s I.u I.mask s.nextId 5 = false) :
    WaitsAs (.hgsig f) s I (gateSent s I { gateOp I .sig (I.r64 f.ra.toNat) with opnd := I.r64 f.rb.toNat }) (.gate s.nextId) := by
  change execHgsig f s = _
  rw [execHgsig, gateFrame_ready (rs := [f.rb]) (dsts := []) hi hpairs hs free_nil hhandle]
  refine congrArg (Act.finish · s I) (a₂ := .wait _ _) ?_
  refine (if_neg ?_).trans (if_neg (by rw [hperf]; decide))
  change ¬ (I.r64 f.rb.toNat == 0 || decide (2 ^ 32 ≤ (I.r64 f.rb.toNat).toNat)) = true
  rw [beq_eq_false_iff_ne.mpr hne, decide_eq_false (Nat.not_le.mpr hsmall)]
  decide

theorem hgwait_waits (hi : Issues s (.hgwait f) I) (hpairs : ∀ r ∈ [f.ra, f.rb, f.rc, f.rd], I.pairOk r.toNat = true)
    (hs : Full ([f.ra, f.rb, f.rc].flatMap fun r => I.src64 r.toNat)) (hd : Free (I.src64 f.rd.toNat))
    (hhandle : (I.r64 f.ra.toNat).toNat < 65536) (hsmall : (I.r64 f.rc.toNat).toNat < 2 ^ 32) :
    WaitsAs (.hgwait f) s I (gateSent s I
      { gateOp I .wait (I.r64 f.ra.toNat) with
        opnd := I.r64 f.rb.toNat, timeout := if I.blk.node.det then 0 else (I.r64 f.rc.toNat).toNat, dests := [f.rd.toNat] })
      (.gate s.nextId) := by
  change execHgwait f s = _
  rw [execHgwait, gateFrame_ready (rs := [f.rb, f.rc]) (dsts := [f.rd]) hi hpairs hs (by simpa using hd) hhandle]
  exact congrArg (Act.finish · s I) (a₂ := .wait _ _) (if_neg (Nat.not_le.mpr hsmall))

theorem hgtake_waits {s1 : State} {p : SyncPiece} {ps : List SyncPiece} (hi : Issues s (.hgtake f) I)
    (hpairs : ∀ r ∈ [f.ra, f.rb, f.rc, f.rd], I.pairOk r.toNat = true) (hs : Full ([f.ra, f.rb, f.rc].flatMap fun r => I.src64 r.toNat))
    (hd : Free (I.src64 f.rd.toNat)) (hhandle : (I.r64 f.ra.toNat).toNat < 65536) (hal : (I.r64 f.rb.toNat).toNat % 32 = 0)
    (hlt : (I.r64 f.rb.toNat).toNat < 2 ^ 52) (hn : (I.r64 f.rc.toNat).toNat < 2)
    (hx : syncXlate s I true (I.r64 f.rb.toNat).toNat 32 = .ok s1 (p :: ps)) :
    WaitsAs (.hgtake f) s I (gateSent s1 I
      { gateOp I .take (I.r64 f.ra.toNat) with
        nb := I.r64 f.rc.toNat == 1, gpa := p.gpa, va := (I.r64 f.rb.toNat).toNat
        cnt := (p :: ps).any fun p => p.cnt, dests := [f.rd.toNat] })
      (.gate s1.nextId) := by
  change execHgtake f s = _
  rw [execHgtake, gateFrame_ready (rs := [f.rb, f.rc]) (dsts := [f.rd]) hi hpairs hs (by simpa using hd) hhandle]
  simp only [List.map_cons, List.map_nil, List.getD_cons_succ, List.getD_cons_zero, List.headD_cons]
  rw [if_neg (message_operands_ok hal hlt hn), andThen_of_ok hx, sendGate_eq]
  rfl

theorem hgqry_waits (hi : Issues s (.hgqry f) I) (hpairs : ∀ r ∈ [f.ra, f.rb, f.rd], I.pairOk r.toNat = true)
    (hs : Full (I.src64 f.ra.toNat)) (hd : Free ([f.rb, f.rd].flatMap fun r => I.src64 r.toNat))
    (hhandle : (I.r64 f.ra.toNat).toNat < 65536) :
    WaitsAs (.hgqry f) s I (gateSent s I { gateOp I .qry (I.r64 f.ra.toNat) with dests := [f.rb.toNat, f.rd.toNat] })
      (.gate s.nextId) := by
  change execHgqry f s = _
  rw [execHgqry]
  exact (gateFrame_ready (rs := []) (dsts := [f.rb, f.rd]) hi hpairs (by simpa using hs) hd hhandle).trans rfl

/-- Settles O49: each word passes its frame and sends its operation. -/
theorem gateWordsIssue : Obligations.GateWordsIssue :=
  ⟨fun _ _ _ _ _ hi hpairs hs hd hhandle hal hlt hn hperf hread => hgsend_waits hi hpairs hs hd hhandle hal hlt hn hperf hread,
    fun _ _ _ hi hpairs hs hhandle hne hsmall hperf => hgsig_waits hi hpairs hs hhandle hne hsmall hperf,
    fun _ _ _ hi hpairs hs hd hhandle hsmall => hgwait_waits hi hpairs hs hd hhandle hsmall,
    fun _ _ _ _ _ _ hi hpairs hs hd hhandle hal hlt hn hx => hgtake_waits hi hpairs hs hd hhandle hal hlt hn hx,
    fun _ _ _ hi hpairs hs hd hhandle => hgqry_waits hi hpairs hs hd hhandle⟩

end Sys2Proof.GateProofs
end

section
/-! PROOFS. The steps that end a unit's waits (09_registers.md R199 to R201, 14_control.md R325, R338, 15_scheduling.md R353,
R358, R359, 16_traps.md R373). -/

namespace Sys2Proof.WaitProofs

open Sys2Proof.Machine Sys2Proof.Safety Sys2Proof.Laws Sys2Proof.SystemProofs Sys2Proof.TransferProofs Sys2Proof.MatrixProofs

section Waiters

variable {s : State} {I : Issuer} {w : Wait}

theorem waiter_of (hw : WaitsFor s I w) : waiter s = some (I, w) := by
  rw [waiter, hw.1, Option.map_some, hw.2]

theorem qpush_ends {n : Nat} {v : DWord} (hw : WaitsFor s I (.qpush n v)) (hroom : (queueOf s I.b I.q n).length < 16) :
    Completes .queuePushAccept s I (pushQueue s I.b I.q n v) := by
  have hfifo : fifoSize = 16 := rfl
  change execQueuePushAccept s = _
  simp only [execQueuePushAccept, waiter_of hw, hfifo, hroom, if_true, finish_done]

theorem token_ends {v : DWord} (hw : WaitsFor s I (.token v)) (hrun : I.blk.front.done = false)
    (hroom : (queueOf s I.b I.q 1).length < 16) : Completes .queuePushAccept s I (pushQueue s I.b I.q 1 v) := by
  have hfifo : fifoSize = 16 := rfl
  change execQueuePushAccept s = _
  simp only [execQueuePushAccept, waiter_of hw, hrun, Bool.false_eq_true, if_false, hfifo, hroom, if_true, finish_done]

theorem dqpush_ends {t : Nat} {v : DWord} (hw : WaitsFor s I (.dqpush t v)) (hroom : (queueOf s I.b t 0).length < 16) :
    Completes .queuePushAccept s I (pushQueue s I.b t 0 v) := by
  have hfifo : fifoSize = 16 := rfl
  change execQueuePushAccept s = _
  simp only [execQueuePushAccept, waiter_of hw, hfifo, hroom, if_true, finish_done]

theorem qpop_ends {n rd ord : Nat} {old : List (Option Note)} {v : DWord} {l : List DWord} (hw : WaitsFor s I (.qpop n rd ord old))
    (hfirst : popEarlier I n ord = false) (hgood : headBad s I.b I.q n = false) (hq : queueOf s I.b I.q n = v :: l) :
    Completes .qpopDeliver s I (writeS2 (dropHead s I.b I.q n) I rd v) := by
  change execQpopDeliver s = _
  simp only [execQpopDeliver, waiter_of hw, hfirst, Bool.false_eq_true, if_false, popTo_done hq hgood, finish_done]
  rw [hq]
  rfl

theorem btok_ends {old : List (Option Note)} {v : DWord} {l : List DWord} (hw : WaitsFor s I (.btok old)) (hq : I.blk.q1 = v :: l)
    (hgood : headBad s I.b 0 1 = false) :
    JumpsTo .btokPop s I (writeX (dropHead s I.b 0 1) I 30 v) (I.blk.node.text + 4 * (v &&& 0xFFFFF#64)) := by
  change execBtokPop s = _
  simp only [execBtokPop, waiter_of hw, hq, takeToken, hgood, Bool.false_eq_true, if_false, finish_jump]

/-- The lock goes to the quire, unless its partner waits and is next, or both are due and the quire is the odd one. -/
theorem lock_comes {s : State} {b q : Nat} {L : XLock} (h : L.next = some q ∨ seeksLock s b (partnerQuire q) = false ∨
    (L.next ≠ some (partnerQuire q) ∧ q % 2 = 0)) : lockGoesElsewhere s b q L = false := by
  rw [lockGoesElsewhere]
  rcases h with h | h | ⟨hnext, heven⟩
  · rw [h]
    simp
  · rw [h, Bool.and_false, Bool.false_and]
  · rw [beq_eq_false_iff_ne.mpr hnext, heven]
    simp

theorem xacq_ends (hw : WaitsFor s I .xacq) (hfree : (Tab.get {} I.blk.locks (I.q / 2)).holder = none)
    (hcomes : lockGoesElsewhere s I.b I.q (Tab.get {} I.blk.locks (I.q / 2)) = false) :
    Completes .xacqGrant s I (setLock s I.b (I.q / 2) { holder := some I.q }) := by
  change execXacqGrant s = _
  simp only [execXacqGrant, waiter_of hw, hfree, hcomes, Option.isNone_none, Bool.not_false, Bool.and_self, if_true, finish_done]

theorem waitb_ends {self : Bool} {seq b : Nat} {n : Node} (hw : WaitsFor s I (.waitb self seq b))
    (hn : nodeOf s I.blk.part seq = some n) (hbit : b ∈ n.bits) : Completes .waitbComplete s I s := by
  change execWaitbComplete s = _
  simp only [execWaitbComplete, waiter_of hw, hn, List.contains_iff_mem.mpr hbit, if_true, finish_done]

theorem waitev_ends {cls rd : Nat} {v : DWord} {es : List EventQ} (hw : WaitsFor s I (.waitev cls rd))
    (hev : takeEvent (s.partOf I.blk.part).events I.blk.ctx cls I.u = some (v, es)) :
    Completes .waitevDeliver s I (write64 (s.updPart I.blk.part fun P => { P with events := es }) I rd v) := by
  change execWaitevDeliver s = _
  simp only [execWaitevDeliver, waiter_of hw, hev, finish_done]

end Waiters

/-! ## The lock's counter (R201) -/

theorem xlockStall_exec {s : State} {B : Block} {Q : Quire} {q : Nat} (hB : Tab.find s.blocks s.subject.idx = some B)
    (hq : (Tab.get {} B.locks s.subject.sub).holder = some q) (hstall : 65536 ≤ (Tab.get {} B.locks s.subject.sub).stall)
    (hQ : Tab.find s.quires (quireKey s.subject.idx q) = some Q)
    (hgate : ∀ st, unitStrand s (.slot s.subject.idx q (if Q.s0.free then 1 else 0)) = some st → gatePerformed s st.wait = false) :
    let u : UnitId := .slot s.subject.idx q (if Q.s0.free then 1 else 0)
    let s1 := freeLock s s.subject.idx q
    exec .xlockStall s = .next (if (unitStrand s1 u).any Strand.trapStands then
        updStrand s1 u fun c => { c with pend := c.pend ++ [{ cause := .xlockStall }] }
      else takeTrap (cancelWait s1 u) u { cause := .xlockStall }) := by
  intro u s1
  have hnot : ((unitStrand s u).any fun st => gatePerformed s st.wait) = false := by
    rw [Option.any_eq_false_iff_get]
    intro h
    exact hgate _ (Option.some_get h).symm
  change execXlockStall s = _
  unfold execXlockStall
  simp only [hB, hq, Option.getD_some, hQ, if_neg (Nat.not_lt.mpr hstall)]
  exact (if_neg (by rw [hnot]; decide)).trans (apply_ite Host.Outcome.next _ _ _).symm

/-! ## Barriers (R353) -/

theorem barrierRelease_exec {s : State} (hne : barrierParts s s.subject.idx s.subject.sub ≠ [])
    (hnode : 4 < s.subject.sub → nodeSwitchedOut s s.subject.idx = false)
    (hall : ∀ k ∈ barrierParts s s.subject.idx s.subject.sub,
      (Tab.get {} s.quires k).arrival = some s.subject.sub ∧ arrivalPending s k s.subject.sub = false) :
    Answers .barrierRelease s ((barrierParts s s.subject.idx s.subject.sub).foldl barNext
      ((barrierParts s s.subject.idx s.subject.sub).foldl (fun s k => s.updQuire k fun Q => { Q with arrival := none }) s)) := by
  have hin : (decide (4 < s.subject.sub) && nodeSwitchedOut s s.subject.idx) = false := by
    by_cases h : 4 < s.subject.sub
    · rw [hnode h, Bool.and_false]
    · rw [decide_eq_false h, Bool.false_and]
  have harrived : ((barrierParts s s.subject.idx s.subject.sub).all fun k =>
      (Tab.get {} s.quires k).arrival == some s.subject.sub && !arrivalPending s k s.subject.sub) = true := by
    rw [List.all_eq_true]
    intro k hk
    rw [(hall k hk).1, (hall k hk).2]
    simp
  change execBarrierRelease s = _
  unfold execBarrierRelease
  refine if_neg ?_
  rw [hin, harrived, List.isEmpty_eq_false_iff.mpr hne]
  decide

/-! ## Blocks whose WAITB is lost (R358), and WAITJ past its deadline (R338) -/

theorem freeSlot_masks (Q : Quire) : (Q.freeSlot 0).s0.mask = 0 ∧ (Q.freeSlot 1).s1.mask = 0 := ⟨rfl, rfl⟩

theorem stopBlock_spec {s : State} {b : Nat} {B : Block} (hB : Tab.find s.blocks b = some B) :
    (stopBlock s b).mem = s.mem ∧ (stopBlock s b).cores = s.cores ∧
    (∃ B', Tab.find (stopBlock s b).blocks b = some B' ∧ B'.front.done = true ∧ B'.ending = .stopped) ∧
    ∀ k Q, Tab.find (stopBlock s b).quires k = some Q → k / 16 = b → Q.live = 0 ∧ Q.s0.mask = 0 ∧ Q.s1.mask = 0 := by
  refine ⟨rfl, rfl, ⟨_, (Tab.find_modify ..).trans ((if_pos rfl).trans (congrArg _ hB)), rfl, rfl⟩, fun k Q hQ hk => ?_⟩
  have hmem := Tab.mem_of_find hQ
  simp only [stopBlock, State.updBlock_quires, List.mem_map] at hmem
  obtain ⟨e, -, he⟩ := hmem
  split at he
  next hin =>
    simp only [Prod.mk.injEq] at he
    rw [← he.2]
    exact ⟨rfl, freeSlot_masks _⟩
  next hout =>
    rw [he] at hout
    exact absurd (beq_iff_eq.mpr hk) hout

theorem waitb_lost {s : State} {I : Issuer} {self : Bool} {seq b : Nat} {n : Node} (hw : WaitsFor s I (.waitb self seq b))
    (hn : nodeOf s I.blk.part seq = some n) (hlost : bitLost s I.blk.part seq n b = true) :
    ∃ f : Node → Node, exec .waitbUnsatisfiable s = .next (stopBlock (updNode s I.blk.part I.blk.seq f) I.b) := by
  change ∃ f : Node → Node, execWaitbUnsatisfiable s = _
  simp only [execWaitbUnsatisfiable, waiter_of hw, hn, hlost, Bool.not_true, Bool.false_eq_true, if_false]
  exact ⟨_, rfl⟩

/-- The lanes of a slot go on at an address, under a record. -/
theorem run_slot (Q : Quire) (sl : Nat) (mask : Mask) (pc : DWord) (inner : Nat) (lvl : Level) :
    let x := (Q.run sl mask pc inner lvl).slot sl
    x.mask = mask ∧ x.ctl.pc = pc ∧ x.ctl.wait = .none ∧ x.innermost = inner := by
  rw [Quire.run, slot_setSlot]
  exact ⟨rfl, rfl, rfl, rfl⟩

theorem countIcnt_found {s : State} {I : Issuer} {Q : Quire} (hQ : Tab.find s.quires I.key = some Q) :
    ∃ Q', Tab.find (countIcnt s I).quires I.key = some Q' := by
  rw [countIcnt]
  split
  · exact ⟨Q, hQ⟩
  · exact ⟨_, (Tab.find_modify ..).trans ((if_pos rfl).trans (congrArg _ hQ))⟩

theorem countIcnt_mem (s : State) (I : Issuer) : (countIcnt s I).mem = s.mem := by
  rw [countIcnt]
  split <;> rfl

theorem waitj_expires {s : State} {I : Issuer} {id dl : Nat} {r : JoinRec} (hfe : I.fe = false) (hw : WaitsFor s I (.waitj id dl))
    (hdue : dl < coreCycles s I.blk.core) (hr : I.qr.joinRec id = some r) :
    ∃ t Q', exec .waitjExpiry s = .next t ∧ t.mem = s.mem ∧ Tab.find t.quires I.key = some Q' ∧
      (Q'.slot I.sl).mask = I.mask ∧ (Q'.slot I.sl).ctl.pc = r.jpc ∧ (Q'.slot I.sl).ctl.wait = .none ∧
      (Q'.slot I.sl).innermost = r.parent := by
  obtain ⟨-, hQ, -⟩ := issuerOf_quire hw.1 hfe
  obtain ⟨Q', hQ'⟩ := countIcnt_found (s := s) hQ
  have hexec : exec .waitjExpiry s = execWaitjExpiry s := rfl
  simp only [execWaitjExpiry, waiter_of hw, if_neg (Nat.not_le.mpr hdue), hr] at hexec
  refine ⟨_, _, hexec, countIcnt_mem s I, (Tab.find_modify ..).trans ((if_pos rfl).trans (congrArg _ hQ')), ?_⟩
  exact run_slot ..

/-- Settles O47: each wait's end under its condition. -/
theorem waitsEnd : Obligations.WaitsEnd := by
  refine ⟨fun s I n v hw hroom => qpush_ends hw hroom, fun s I v hw hrun hroom => token_ends hw hrun hroom,
    fun s I t v hw hroom => dqpush_ends hw hroom, fun s I n rd ord old v l hw hfirst hgood hq => qpop_ends hw hfirst hgood hq,
    fun s I old v l hw hq hgood => btok_ends hw hq hgood, fun s I hw hfree => ?_, fun s B Q q hB hq hstall hQ => ?_,
    fun s => fun hne hnode hall => barrierRelease_exec hne hnode hall, fun s I self seq b n hw hn hbit => waitb_ends hw hn hbit,
    fun s I self seq b n hw hn hlost => ?_, fun s I id dl r hfe _ _ hw hdue hr => waitj_expires hfe hw hdue hr,
    fun s I cls rd v es hw hev => waitev_ends hw hev⟩
  case refine_1 => exact fun h => xacq_ends hw hfree (lock_comes h)
  case refine_2 =>
    intro u hgate s1
    have hexec := xlockStall_exec hB hq hstall hQ hgate
    refine ⟨fun st hst hnone => ?_, fun st hst hstands => ?_⟩
    · rw [Answers, hexec, hst, Option.any_some, hnone]
      rfl
    · rw [Answers, hexec, hst, Option.any_some, hstands]
      rfl
  case refine_3 =>
    obtain ⟨f, hexec⟩ := waitb_lost hw hn hlost
    obtain ⟨hB, hb⟩ := issuerOf_block hw.1
    obtain ⟨hmem, hcores, ⟨B', hB', hdone, hending⟩, hquires⟩ :=
      stopBlock_spec (s := updNode s I.blk.part I.blk.seq f) (show Tab.find s.blocks I.b = _ from hb ▸ hB)
    exact ⟨_, B', hexec, hmem, hcores, hB', hdone, hending, hquires⟩

end Sys2Proof.WaitProofs
end

section
/-! PROOFS. CLAUSE_SELECT (02_instruction_words.md R24 to R31, 15_scheduling.md R360). -/

namespace Sys2Proof.SelectProofs

open Sys2Proof.Machine Sys2Proof.Safety Sys2Proof.Laws Sys2Proof.MatrixProofs

/-! ## The checks of a header (R28) -/

section Checks

variable {s s1 s2 : State} {I : Issuer} {h : Word} {c : Cls} {ws : List Word}

/-- What a header meets once its words have been fetched. -/
def wordsSel (s : State) (I : Issuer) (h : Word) (c : Cls) (r : Sync (List Word)) : Sel :=
  match r with
  | .no .stall => .idle
  | .no a => .meets I a
  | .ok s2 ws =>
    match hdrChecks s I h c ws with
    | some t => .meets I (.trap t)
    | none =>
      if hdrSp h && I.atU && stopNode s I.blk then .exits I s2
      else if hdrSp h && I.atU && preempted s I.blk then .stops I s2 (hdrLive h)
      else .clause I s2 c h ws

/-- A misplaced or malformed header. -/
theorem selection_malformed (hI : issuerOf s s.subject.unit 0 = some I) (hat : AtHeader s I)
    (hfetch : fetchWord s I (I.st.pc.toNat / 4 * 4) = .ok s1 h) (hbad : I.st.pc.toNat % 4 ≠ 0 ∨ hdrFormed h = false) :
    selection s s.subject.unit = .meets I (.trap (illegalClause h 1)) := by
  obtain ⟨hwait, hstop, hleft, hdue, hpend, hrun, hexp⟩ := hat
  have hcheck : (I.st.pc.toNat % 4 != 0 || !hdrFormed h) = true := by
    rcases hbad with hpc | hform
    · rw [bne_iff_ne.mpr hpc, Bool.true_or]
    · rw [hform, Bool.not_false, Bool.or_true]
  simp only [selection, hI, hwait, hstop, hleft, hrun, hexp, hdue, hpend, hfetch, hcheck, bne_self_eq_false, Bool.or_self,
    Bool.false_eq_true, if_false, if_true]

/-- A well-formed header in place meets the checks of its class, of its text, and of its words. -/
theorem selection_formed (hI : issuerOf s s.subject.unit 0 = some I) (hat : AtHeader s I)
    (hfetch : fetchWord s I (I.st.pc.toNat / 4 * 4) = .ok s1 h) (hpc : I.st.pc.toNat % 4 = 0) (hform : hdrFormed h = true)
    (hcls : hdrCls h = some c) : selection s s.subject.unit =
      if !clsAllowed I.fe c then .meets I (.trap (illegalClause h 2))
      else if I.fe && h.getLsbD 24 then .meets I (.trap (illegalClause h 3))
      else if I.atU && !inText s I (hdrN h) then .meets I (.trap (illegalClause h 4))
      else wordsSel s I h c (fetchWords s1 I (I.st.pc.toNat + 4) (hdrN h)) := by
  obtain ⟨hwait, hstop, hleft, hdue, hpend, hrun, hexp⟩ := hat
  simp only [selection, hI, hwait, hstop, hleft, hrun, hexp, hdue, hpend, hfetch, hpc, hform, hcls, bne_self_eq_false, Bool.or_self,
    Bool.not_true, Bool.false_eq_true, if_false]
  rfl

theorem select_traps {t : Trap} (hsel : selection s s.subject.unit = .meets I (.trap t)) :
    Answers .clauseSelect s (takeTrap s I.u t) := by
  change execClauseSelect s = _
  simp only [execClauseSelect, hsel, finish_trap]

theorem wordsSel_trap {t : Trap} (hc : hdrChecks s I h c ws = some t) : wordsSel s I h c (.ok s2 ws) = .meets I (.trap t) := by
  simp only [wordsSel, hc]

theorem text_ok (htext : I.st.level = .u → inText s I (hdrN h) = true) : (I.atU && !inText s I (hdrN h)) = false := by
  by_cases hu : I.st.level = .u
  · rw [htext hu, Bool.not_true, Bool.and_false]
  · rw [Issuer.atU, beq_eq_false_iff_ne.mpr hu, Bool.false_and]

theorem hdrChecks_transfer (htext : I.st.level = .u → inText s I (hdrN h) = true) (hct : ws.dropLast.any (isTransfer c) = true) :
    hdrChecks s I h c ws = some (illegalClause h 5) := by
  have hin := text_ok htext
  rw [Issuer.atU] at hin
  simp only [hdrChecks, bne, Bool.not_not, hin, hct, Bool.false_eq_true, if_false, if_true]

theorem hdrChecks_live (htext : I.st.level = .u → inText s I (hdrN h) = true) (hct : ws.dropLast.any (isTransfer c) = false)
    (hsp : hdrSp h = true) (hlive : I.blk.node.livecount ≤ hdrLive h) : hdrChecks s I h c ws = some (illegalClause h 6) := by
  have hin := text_ok htext
  rw [Issuer.atU] at hin
  simp only [hdrChecks, bne, Bool.not_not, hin, hct, hsp, decide_eq_true hlive, Bool.and_self, Bool.false_eq_true, if_false, if_true]

theorem hdrChecks_mode (hu : I.st.level = .u) (htext : inText s I (hdrN h) = true) (hct : ws.dropLast.any (isTransfer c) = false)
    (hlive : hdrSp h = true → hdrLive h < I.blk.node.livecount)
    (hmode : (I.fe = false ∧ h.getLsbD 24 ≠ I.ter) ∨ h.getLsbD 25 ≠ I.blk.node.det) :
    hdrChecks s I h c ws = some (modeMismatch h I) := by
  have hentry : (hdrSp h && decide (I.blk.node.livecount ≤ hdrLive h)) = false := by
    by_cases hsp : hdrSp h = true
    · rw [decide_eq_false (Nat.not_le.mpr (hlive hsp)), Bool.and_false]
    · rw [Bool.eq_false_iff.mpr hsp, Bool.false_and]
  simp only [hdrChecks, hu, bne_self_eq_false, Bool.not_false, htext, Bool.not_true, Bool.and_false, Bool.false_eq_true, if_false, hct,
    hentry, Bool.true_and]
  rcases hmode with ⟨hfe, hter⟩ | hdet
  · simp only [hfe, Bool.not_false, Bool.true_and, bne_iff_ne.mpr hter, if_true]
  · split
    · rfl
    · rw [if_pos (bne_iff_ne.mpr hdet)]

end Checks

/-! ## The header's form and its traps (R27, R28) -/

theorem clsOf_spec : ∀ n < 8, ((clsOf n).isSome = true ↔ n ≠ 7) ∧ ((clsOf n == some .mat) = true ↔ n = 4) := by decide

theorem hdrFormed_iff (h : Word) : hdrFormed h = true ↔ bits h.toNat 28 4 = 0xD ∧ h.getLsbD 23 = false ∧ bits h.toNat 26 2 = 0 ∧
    bits h.toNat 0 4 ≠ 0 ∧ bits h.toNat 4 3 ≠ 7 ∧ (h.getLsbD 7 = false → bits h.toNat 8 8 = 0) ∧
    (h.getLsbD 22 = true → bits h.toNat 4 3 = 4) := by
  obtain ⟨hsome, hmat⟩ := clsOf_spec (bits h.toNat 4 3) (Nat.mod_lt _ (by decide))
  simp only [hdrFormed, hdrN, hdrCls, hdrSp, hdrLive, Bool.and_eq_true, Bool.or_eq_true, Bool.not_eq_true', beq_iff_eq, bne_iff_ne,
    hsome, and_assoc]
  rw [beq_iff_eq] at hmat
  rw [hmat]
  refine and_congr_right fun _ => and_congr_right fun _ => and_congr_right fun _ => and_congr_right fun _ =>
    and_congr_right fun _ => and_congr ?_ ?_
  · cases h.getLsbD 7 <;> simp
  · cases h.getLsbD 22 <;> simp

theorem illegalClause_info (h : Word) {n : Nat} (hn : n ≤ 6) : (illegalClause h n).info.toNat = h.toNat + n * 2 ^ 32 := by
  have hlt := h.isLt
  simp only [illegalClause, BitVec.toNat_ofNat, Nat.shiftLeft_eq]
  omega

theorem modeMismatch_info (h : Word) (I : Issuer) : (modeMismatch h I).info.toNat =
    h.toNat + (if I.ter ∧ I.fe = false then 2 ^ 32 else 0) + (if I.blk.node.det then 2 ^ 33 else 0) := by
  have hlt := h.isLt
  simp only [modeMismatch, BitVec.toNat_ofNat, Bool.and_eq_true, Bool.not_eq_true']
  split <;> split <;> omega

/-! ## Entering a clause (R30) -/

section Enter

variable {s s1 : State} {I : Issuer} {c : Cls} {h : Word} {ws : List Word}

theorem select_enters (hsel : selection s s.subject.unit = .clause I s1 c h ws) (hkind : (kindClash s1 I h).2 = false)
    (hbusy : portBusy s I.blk.core c = false) (hmay : portMay s I.blk.core c I.u = true)
    (hacc : c = .mat → (s.coreOf I.blk.core).accOwn = I.blk.ctx) :
    Answers .clauseSelect s (enterClause (kindClash s1 I h).1 I c h (portCandidates s I.blk.core c)) := by
  have howned : (c == .mat && (s.coreOf I.blk.core).accOwn != I.blk.ctx) = false := by
    by_cases hm : c = .mat
    · rw [hacc hm, bne_self_eq_false, Bool.and_false]
    · rw [beq_eq_false_iff_ne.mpr hm, Bool.false_and]
  change execClauseSelect s = _
  simp only [execClauseSelect, hsel, hkind, hbusy, hmay, howned, Bool.not_true, Bool.or_self, Bool.false_eq_true, if_false]

/-- A change of a strand that is at most to its place among those that YIELD excludes. -/
def YieldOnly (f : Strand → Strand) : Prop := ∀ st, ∃ y, f st = { st with yielded := y }

theorem slot_setSlot_or (Q : Quire) (sl sl' : Nat) (x : Slot) : (Q.setSlot sl x).slot sl' = x ∧ Q.slot sl' = Q.slot sl ∨
    (Q.setSlot sl x).slot sl' = Q.slot sl' := by
  by_cases h : sl = 0 <;> by_cases h' : sl' = 0 <;> simp [Quire.slot, Quire.setSlot, h, h']

theorem updStrand_yield {f : Strand → Strand} (hf : YieldOnly f) {u v : UnitId} {st : Strand} (hst : unitStrand s u = some st) :
    ∃ y, unitStrand (updStrand s v f) u = some { st with yielded := y } := by
  have hsame : ∀ {t : State}, unitStrand t u = some st → ∃ y, unitStrand t u = some { st with yielded := y } :=
    fun h => ⟨st.yielded, h⟩
  cases u with
  | front b =>
    cases v with
    | slot b' q' sl' => exact hsame hst
    | front b' =>
      by_cases hb : b' = b
      · rw [unitStrand, Option.bind_eq_some_iff] at hst
        obtain ⟨B, hB, hrun⟩ := hst
        obtain ⟨y, hy⟩ := hf st
        refine ⟨y, ?_⟩
        simp only [unitStrand, updStrand, State.updBlock_blocks, Tab.find_modify, hb, if_true, hB, Option.map_some, Option.bind_some]
        split at hrun
        · cases hrun
        · next hd =>
          cases hrun
          rw [if_neg hd, hy]
      · refine hsame ?_
        rw [unitStrand, updStrand, State.updBlock_blocks, Tab.find_modify, if_neg hb]
        exact hst
  | slot b q sl =>
    cases v with
    | front b' => exact hsame hst
    | slot b' q' sl' =>
      by_cases hk : quireKey b' q' = quireKey b q
      · obtain ⟨Q, hQ, hctl⟩ := Option.map_eq_some_iff.mp hst
        simp only [unitStrand, updStrand, State.updQuire_quires, Tab.find_modify, hk, if_true, hQ, Option.map_some]
        rcases slot_setSlot_or Q sl' sl { Q.slot sl' with ctl := f (Q.slot sl').ctl } with ⟨hx, hs⟩ | hx
        · obtain ⟨y, hy⟩ := hf st
          exact ⟨y, by rw [hx, ← hs, hctl, hy]⟩
        · exact ⟨st.yielded, by rw [hx, hctl]⟩
      · refine hsame ?_
        rw [unitStrand, updStrand, State.updQuire_quires, Tab.find_modify, if_neg hk]
        exact hst

/-- Noting an issue changes what YIELD excludes, and nothing else. -/
theorem noteIssue_fold (u v : UnitId) (c : Cls) (us : List UnitId) {s : State} {st : Strand} (hst : unitStrand s v = some st) :
    let t := us.foldl (fun s w => match unitYield s w with
      | some seen => updStrand s w fun st => { st with yielded := some (seen ++ [(u, c)]) }
      | none => s) s
    (∃ y, unitStrand t v = some { st with yielded := y }) ∧ t.mem = s.mem := by
  induction us generalizing s st with
  | nil => exact ⟨⟨st.yielded, hst⟩, rfl⟩
  | cons w us ih =>
    simp only [List.foldl_cons]
    cases hw : unitYield s w with
    | none => exact ih hst
    | some seen =>
      obtain ⟨y, hy⟩ := updStrand_yield (f := fun st => { st with yielded := some (seen ++ [(u, c)]) }) (v := w)
        (fun st => ⟨_, rfl⟩) hst
      obtain ⟨⟨y', hy'⟩, hmem⟩ := ih hy
      exact ⟨⟨y', hy'⟩, hmem.trans (updStrand_mem ..)⟩

theorem updStrand_self {u : UnitId} {st : Strand} (f : Strand → Strand) (hst : unitStrand s u = some st) :
    unitStrand (updStrand s u f) u = some (f st) := by
  cases u with
  | front b =>
    rw [unitStrand, Option.bind_eq_some_iff] at hst
    obtain ⟨B, hB, hrun⟩ := hst
    simp only [unitStrand, updStrand, State.updBlock_blocks, Tab.find_modify, if_true, hB, Option.map_some, Option.bind_some]
    split at hrun
    · cases hrun
    · next hd =>
      cases hrun
      rw [if_neg hd]
  | slot b q sl =>
    obtain ⟨Q, hQ, hctl⟩ := Option.map_eq_some_iff.mp hst
    simp only [unitStrand, updStrand, State.updQuire_quires, Tab.find_modify, if_true, hQ, Option.map_some, slot_setSlot, hctl]

theorem enterClause_spec {cs : List UnitId} {st : Strand} (hst : unitStrand s I.u = some st) :
    ∃ st', unitStrand (enterClause s I c h cs) I.u = some st' ∧ st'.hdr = st.pc ∧ st'.pc = st.pc + 4 ∧
      st'.left = hdrN h ∧ st'.cls = c ∧ (enterClause s I c h cs).mem = s.mem := by
  obtain ⟨⟨y, hy⟩, hmem⟩ := noteIssue_fold I.u I.u c (coreUnits s I.blk.core) hst
  have hnoted : ∃ t, noteIssue s I.blk.core c I.u = t ∧ unitStrand t I.u = some { st with yielded := y } ∧ t.mem = s.mem :=
    ⟨_, rfl, hy, hmem⟩
  obtain ⟨t, ht, hst', hmem'⟩ := hnoted
  have hjoined : ∃ vs, (if h.getLsbD 18 then joinEngines t I.aliasThreads fun _ n => (Tab.find t.engs n).isNone else t) =
      { t with views := vs } := by
    split
    · exact ⟨_, joinEngines_views ..⟩
    · exact ⟨_, rfl⟩
  obtain ⟨vs, hvs⟩ := hjoined
  simp only [enterClause, ht, hvs]
  exact ⟨_, updStrand_self (st := { st with yielded := y }) _ (by cases hu : I.u <;> rw [hu] at hst' <;> exact hst'), rfl, rfl, rfl, rfl, (updStrand_mem ..).trans hmem'⟩

end Enter

/-! ## The choice at a port (R360) -/

section Choice

variable {p : PortState} {l : List UnitId} {u : UnitId}

theorem mayLead_mem (h : mayLead p l u = true) : u ∈ l := by
  rw [mayLead, Bool.and_eq_true] at h
  exact List.contains_iff_mem.mp h.1

/-- Of those that have issued at the port, none did before the one that leads. -/
theorem mayLead_least (h : mayLead p l u = true) {v : UnitId} (hv : v ∈ l) (hu0 : 0 < lastIssue p u) (hv0 : 0 < lastIssue p v) :
    lastIssue p u ≤ lastIssue p v := by
  rw [mayLead, Bool.and_eq_true] at h
  have hall := List.all_eq_true.mp h.2 v hv
  rw [beq_eq_false_iff_ne.mpr (Nat.ne_of_gt hu0), beq_eq_false_iff_ne.mpr (Nat.ne_of_gt hv0), Bool.or_false, Bool.or_eq_true,
    beq_iff_eq] at hall
  rcases hall with rfl | hlt
  · exact Nat.le_refl _
  · exact Nat.le_of_lt (of_decide_eq_true hlt)

theorem le_foldl_max (g : UnitId → Nat) (l : List UnitId) (m : Nat) : m ≤ l.foldl (fun m u => max m (g u)) m ∧
    ∀ v ∈ l, g v ≤ l.foldl (fun m u => max m (g u)) m := by
  induction l generalizing m with
  | nil => exact ⟨Nat.le_refl _, fun v hv => nomatch hv⟩
  | cons x l ih =>
    obtain ⟨hm, hl⟩ := ih (max m (g x))
    refine ⟨Nat.le_trans (Nat.le_max_left ..) hm, fun v hv => ?_⟩
    rcases List.mem_cons.mp hv with rfl | hv
    · exact Nat.le_trans (Nat.le_max_right ..) hm
    · exact hl v hv

theorem portMay_spec {s : State} {core : Nat} {c : Cls} (h : portMay s core c u = true) :
    let p := portAt s core c
    let cs := portCandidates s core c
    u ∈ cs ∧ (∀ v ∈ cs, 16 ≤ passedCount p v → 16 ≤ passedCount p u) ∧
    (c ≠ .front → (∀ v ∈ cs, passedCount p v < 16) → ∀ v ∈ cs, unitPrio s v ≤ unitPrio s u ∧
      (unitPrio s v = unitPrio s u → 0 < lastIssue p u → 0 < lastIssue p v → lastIssue p u ≤ lastIssue p v)) := by
  intro p cs
  have hchoice : (if !(cs.filter fun u => decide (16 ≤ passedCount p u)).isEmpty then
        mayLead p (cs.filter fun u => decide (16 ≤ passedCount p u)) u
      else if c == .front then mayLead p cs u
      else mayLead p (cs.filter fun v => unitPrio s v == cs.foldl (fun m v => max m (unitPrio s v)) 0) u) = true := h
  clear_value p cs
  by_cases hold : (cs.filter fun u => decide (16 ≤ passedCount p u)) = []
  · have hyoung : ∀ v ∈ cs, ¬ 16 ≤ passedCount p v := fun v hv h16 => by
      have hmem : v ∈ cs.filter fun u => decide (16 ≤ passedCount p u) := List.mem_filter.mpr ⟨hv, decide_eq_true h16⟩
      rw [hold] at hmem
      cases hmem
    by_cases hfront : c = .front
    · have hlead : mayLead p cs u = true := by
        rwa [hold, List.isEmpty_nil, if_neg (by decide), if_pos (beq_iff_eq.mpr hfront)] at hchoice
      exact ⟨mayLead_mem hlead, fun v hv h16 => absurd h16 (hyoung v hv), fun hne => absurd hfront hne⟩
    · have hlead : mayLead p (cs.filter fun v => unitPrio s v == cs.foldl (fun m v => max m (unitPrio s v)) 0) u = true := by
        rwa [hold, List.isEmpty_nil, if_neg (by decide), if_neg fun hf => hfront (beq_iff_eq.mp hf)] at hchoice
      obtain ⟨hmem, htop⟩ := List.mem_filter.mp (mayLead_mem hlead)
      rw [beq_iff_eq] at htop
      refine ⟨hmem, fun v hv h16 => absurd h16 (hyoung v hv), fun _ _ v hv => ⟨?_, fun hprio hu0 hv0 => ?_⟩⟩
      · rw [htop]
        exact (le_foldl_max _ cs 0).2 v hv
      · exact mayLead_least hlead (List.mem_filter.mpr ⟨hv, beq_iff_eq.mpr (hprio.trans htop)⟩) hu0 hv0
  · have hlead : mayLead p (cs.filter fun u => decide (16 ≤ passedCount p u)) u = true := by
      rwa [List.isEmpty_eq_false_iff.mpr hold, if_pos (by decide)] at hchoice
    obtain ⟨hmem, h16⟩ := List.mem_filter.mp (mayLead_mem hlead)
    exact ⟨hmem, fun _ _ _ => of_decide_eq_true h16, fun _ hyoung => absurd (of_decide_eq_true h16) (Nat.not_le.mpr (hyoung u hmem))⟩

end Choice

/-- Settles O48: the checks one after another, the entry, and the choice. -/
theorem clauseSelectEnters : Obligations.ClauseSelectEnters := by
  refine ⟨fun s s1 I h hI hat hfetch => ?_, fun h => ⟨hdrFormed_iff h, fun n hn => ⟨rfl, illegalClause_info h hn⟩,
      fun I => ⟨rfl, modeMismatch_info h I⟩⟩, fun s s1 I c h ws hsel hkind hbusy hmay hacc => select_enters hsel hkind hbusy hmay hacc,
    fun s1 I c h cs st hst => enterClause_spec hst, fun s core c u hmay => portMay_spec hmay⟩
  intro traps
  refine ⟨fun hbad => select_traps (selection_malformed hI hat hfetch hbad), fun c hpc hform hcls => ?_⟩
  have hsel := selection_formed hI hat hfetch hpc hform hcls
  refine ⟨fun hcl => select_traps ?_, fun hcl hfe hter => select_traps ?_, fun hcl hter => ⟨fun hu htext => select_traps ?_,
    fun s2 ws htext hws => ⟨fun hct => select_traps ?_, fun hct => ⟨fun hsp hlive => select_traps ?_,
      fun hlive hu hmode => select_traps ?_⟩⟩⟩⟩
  · rw [hsel, hcl]
    rfl
  · rw [hsel, hcl, hfe, hter]
    rfl
  all_goals
    have hnot : (I.fe && h.getLsbD 24) = false := by
      cases hfe : I.fe with
      | false => rfl
      | true => exact hter hfe
    rw [hsel, hcl, hnot]
  · rw [htext, Issuer.atU, hu]
    rfl
  · rw [text_ok htext, hws]
    exact wordsSel_trap (hdrChecks_transfer htext hct)
  · rw [text_ok htext, hws]
    exact wordsSel_trap (hdrChecks_live htext hct hsp hlive)
  · rw [text_ok htext, hws]
    exact wordsSel_trap (hdrChecks_mode hu (htext hu) hct hlive hmode)

end Sys2Proof.SelectProofs
end

section
/-! PROOFS. The gate steps (17_partitions.md R400, R403 to R406). -/

namespace Sys2Proof.GateProofs

open Sys2Proof.Machine Sys2Proof.Safety Sys2Proof.Laws

/-! ## Bytes of the record -/

theorem getElem?_readBytes (m : List Host.Cell) (a n i : Nat) :
    (Memory.readBytes m a n)[i]? = if i < n then some (Memory.read m (a + i)) else none := by
  induction n generalizing a i with
  | zero => rfl
  | succ n ih =>
    cases i with
    | zero => rfl
    | succ i =>
      rw [Memory.readBytes, List.getElem?_cons_succ, ih, show a + 1 + i = a + (i + 1) by omega]
      simp

theorem readBytes_eq_of_read {m m' : List Host.Cell} {a n : Nat} (h : ∀ i, i < n → Memory.read m (a + i) = Memory.read m' (a + i)) :
    Memory.readBytes m a n = Memory.readBytes m' a n := by
  refine List.ext_getElem? fun i => ?_
  rw [getElem?_readBytes, getElem?_readBytes]
  split
  · next hi => rw [h i hi]
  · rfl

/-- Reading what was written. -/
theorem readBytes_written {m : List Host.Cell} (hwf : Memory.wf m = true) {a n : Nat} {l : List Byte} (hl : l.length = n) :
    Memory.readBytes (Memory.writeBytes m a l) a n = l := by
  refine List.ext_getElem? fun i => ?_
  rw [getElem?_readBytes]
  by_cases hi : i < l.length
  · rw [if_pos (hl ▸ hi), read_writeBytes_in hwf a l i hi, List.getElem?_eq_getElem hi]
  · rw [if_neg (hl ▸ hi), List.getElem?_eq_none (Nat.not_lt.mp hi)]

/-- Reading beside what was written. -/
theorem readBytes_beside {m : List Host.Cell} {a b n : Nat} {l : List Byte} (h : b + n ≤ a ∨ a + l.length ≤ b) :
    Memory.readBytes (Memory.writeBytes m a l) b n = Memory.readBytes m b n :=
  readBytes_eq_of_read fun i hi => read_writeBytes_out m a (b + i) l (by omega)

/-- A field of an object's record stands in memory at its offset. -/
theorem fld_record (m : List Host.Cell) (a : Nat) {o n : Nat} (h : o + n ≤ 256) :
    fld (Memory.readBytes m a 256) o n = ofLe (Memory.readBytes m (a + o) n) := by
  refine congrArg ofLe (List.ext_getElem? fun i => ?_)
  rw [getElem?_readBytes, List.getElem?_take, List.getElem?_drop, getElem?_readBytes]
  by_cases hi : i < n
  · rw [if_pos hi, if_pos hi, if_pos (by omega), Nat.add_assoc]
  · rw [if_neg hi, if_neg hi]

theorem ofLe_leBytes (n v : Nat) : ofLe (leBytes n v) = v % 256 ^ n := by
  induction n generalizing v with
  | zero => simp [leBytes, ofLe, Nat.mod_one]
  | succ n ih =>
    rw [leBytes, ofLe, ih, BitVec.toNat_ofNat]
    exact (Nat.mod_mul ..).symm.trans (congrArg (v % ·) (Nat.pow_succ' ..).symm)

theorem ofLe_word (v : Nat) : ofLe (leBytes 8 v) = v % 2 ^ 64 := ofLe_leBytes 8 v

theorem ofLe_byte (v : Nat) : ofLe [BitVec.ofNat 8 v] = v % 256 := ofLe_leBytes 1 v

/-! ## Writes of the home -/

section Home

variable {s : State} {id : Nat} {g : GateOp} {a : Nat}

theorem gateOf_at (s : State) (a : Nat) : (gateOf s a).at_ = a := rfl

theorem counter_word (s : State) (a : Nat) : (gateOf s a).counter = gateWord s a 8 := fld_record s.mem a (by decide)
theorem seq_word (s : State) (a : Nat) : (gateOf s a).seq = gateWord s a 0x10 := fld_record s.mem a (by decide)
theorem mcount_byte (s : State) (a : Nat) : (gateOf s a).mcount = ofLe (Memory.readBytes s.mem (a + 1) 1) := fld_record s.mem a (by decide)
theorem mhead_byte (s : State) (a : Nat) : (gateOf s a).mhead = ofLe (Memory.readBytes s.mem (a + 2) 1) := fld_record s.mem a (by decide)

theorem answer_mem (s : State) (id : Nat) (g : GateOp) (rs : List DWord) : (answer s id g rs).mem = s.mem := by
  rw [answer]
  split <;> rfl

theorem answer_found (s : State) (id : Nat) (g : GateOp) (rs : List DWord) :
    Tab.find (answer s id g rs).gates id = some { g with state := .answered rs } := by
  rw [answer]
  exact Tab.find_set_self ..

theorem length_leBytes (n v : Nat) : (leBytes n v).length = n := MemoryProofs.length_leBytes n v

theorem wf_putGate {G : Gate} {o : Nat} {bs : List Byte} (h : Memory.wf s.mem = true) : Memory.wf (putGate s G o bs).mem = true :=
  wf_writeBytes h _ _

/-- Reading a field that was written. -/
theorem putGate_read (h : Memory.wf s.mem = true) (G : Gate) (o : Nat) {n : Nat} {bs : List Byte} (hbs : bs.length = n) :
    Memory.readBytes (putGate s G o bs).mem (G.at_ + o) n = bs := readBytes_written h hbs

/-- Reading beside a field that was written. -/
theorem putGate_beside (G : Gate) {o b n : Nat} {bs : List Byte} (h : b + n ≤ G.at_ + o ∨ G.at_ + o + bs.length ≤ b) :
    Memory.readBytes (putGate s G o bs).mem b n = Memory.readBytes s.mem b n := readBytes_beside h

/-- SEQ after an operation has taken its number. -/
theorem takeNumber_seq (h : Memory.wf s.mem = true) (a : Nat) :
    ofLe (Memory.readBytes (takeNumber s (gateOf s a)).mem (a + 0x10) 8) = (gateWord s a 0x10 + 1) % 2 ^ 64 := by
  refine (congrArg ofLe (putGate_read h (gateOf s a) 0x10 (length_leBytes ..))).trans ((ofLe_word _).trans ?_)
  exact congrArg (fun n => (n + 1) % 2 ^ 64) (seq_word s a)

theorem performGate_sig (h : Memory.wf s.mem = true) (hk : g.kind = .sig) :
    let t := performGate s id g a
    gateWord t a 8 = (gateWord s a 8 + g.opnd.toNat) % 2 ^ 64 ∧ gateWord t a 0x10 = (gateWord s a 0x10 + 1) % 2 ^ 64 ∧
    Tab.find t.gates id = some { g with state := .answered [] } ∧
    ∀ x, x < a + 8 ∨ a + 0x18 ≤ x → Memory.read t.mem x = Memory.read s.mem x := by
  have ht : performGate s id g a =
      answer (putGate (takeNumber s (gateOf s a)) (gateOf s a) 8 (leBytes 8 ((gateOf s a).counter + g.opnd.toNat))) id g [] := by
    simp only [performGate, hk]
  intro t
  have hmem : t.mem = (putGate (takeNumber s (gateOf s a)) (gateOf s a) 8 (leBytes 8 ((gateOf s a).counter + g.opnd.toNat))).mem :=
    (congrArg State.mem ht).trans (answer_mem ..)
  refine ⟨?_, ?_, ?_, fun x hx => ?_⟩
  · rw [gateWord, hmem]
    refine (congrArg ofLe (putGate_read (wf_putGate h) (gateOf s a) 8 (length_leBytes ..))).trans ((ofLe_word _).trans ?_)
    exact congrArg (fun n => (n + g.opnd.toNat) % 2 ^ 64) (counter_word s a)
  · rw [gateWord, hmem, putGate_beside _ (.inr (Nat.le_of_eq (by rw [gateOf_at, length_leBytes])))]
    exact takeNumber_seq h a
  · exact (congrArg (fun t => Tab.find t.gates id) ht).trans (answer_found ..)
  · rw [hmem, putGate, read_writeBytes_out _ _ _ _ (by rw [gateOf_at, length_leBytes]; omega), takeNumber, putGate,
      read_writeBytes_out _ _ _ _ (by rw [gateOf_at, length_leBytes]; omega)]

theorem performGate_wait (h : Memory.wf s.mem = true) (hk : g.kind = .wait) :
    let t := performGate s id g a
    (g.opnd.toNat ≤ (gateOf s a).counter →
      Tab.find t.gates id = some { g with state := .answered [BitVec.ofNat 64 (gateOf s a).counter] } ∧
      gateWord t a 0x10 = (gateWord s a 0x10 + 1) % 2 ^ 64) ∧
    ((gateOf s a).counter < g.opnd.toNat →
      t = setGateOp s id { g with state := .waiting, home := a, since := s.now }) := by
  refine ⟨fun hle => ?_, fun hlt => ?_⟩
  · have ht : performGate s id g a = answer (takeNumber s (gateOf s a)) id g [BitVec.ofNat 64 (gateOf s a).counter] := by
      simp only [performGate, hk, hle, if_true]
    rw [ht]
    refine ⟨answer_found .., ?_⟩
    rw [gateWord, answer_mem]
    exact takeNumber_seq h a
  · simp only [performGate, hk, if_neg (Nat.not_le.mpr hlt)]

theorem deposit_spec (h : Memory.wf s.mem = true) (hmsg : g.msg.length = 32) (hroom : (gateOf s a).mcount < 8) :
    let t := deposit s (gateOf s a) g
    Memory.readBytes t.mem (a + 0x100 + 32 * (((gateOf s a).mhead + (gateOf s a).mcount) % 8)) 32 = g.msg ∧
    (gateOf t a).mcount = (gateOf s a).mcount + 1 := by
  have hk : ((gateOf s a).mhead + (gateOf s a).mcount) % 8 < 8 := Nat.mod_lt _ (by decide)
  have hat := gateOf_at s a
  generalize gateOf s a = G at hk hat hroom ⊢
  subst hat
  intro t
  have ht : t = putGate (takeNumber (putGate (putGate s G (0x100 + 32 * ((G.mhead + G.mcount) % 8)) g.msg) G
      (0xA0 + 8 * ((G.mhead + G.mcount) % 8)) (leBytes 8 (g.part + (G.seq % 2 ^ 48) <<< 16))) G) G 1 [BitVec.ofNat 8 (G.mcount + 1)] := rfl
  generalize (G.mhead + G.mcount) % 8 = k at hk ht ⊢
  clear_value t
  subst ht
  constructor
  · rw [putGate_beside _ (.inr (by rw [List.length_singleton]; omega)), takeNumber,
      putGate_beside _ (.inr (by rw [length_leBytes]; omega)), putGate_beside _ (.inr (by rw [length_leBytes]; omega)), Nat.add_assoc]
    exact putGate_read h _ _ hmsg
  · rw [mcount_byte]
    refine (congrArg ofLe (putGate_read (wf_putGate (wf_putGate (wf_putGate h))) G 1 rfl)).trans ?_
    rw [ofLe_byte]
    omega

theorem performGate_send (h : Memory.wf s.mem = true) (hk : g.kind = .send) (hmsg : g.msg.length = 32) (hroom : (gateOf s a).mcount < 8) :
    let t := performGate s id g a
    let k := ((gateOf s a).mhead + (gateOf s a).mcount) % 8
    Memory.readBytes t.mem (a + 0x100 + 32 * k) 32 = g.msg ∧ (gateOf t a).mcount = (gateOf s a).mcount + 1 ∧
    Tab.find t.gates id = some { g with state := .answered [0] } := by
  have ht : performGate s id g a = answer (deposit s (gateOf s a) g) id g [0] := by
    simp only [performGate, hk, hroom, if_true]
  obtain ⟨hread, hcount⟩ := deposit_spec h hmsg hroom
  simp only [ht]
  refine ⟨?_, ?_, answer_found ..⟩
  · rw [answer_mem]
    exact hread
  · rw [gateOf, answer_mem]
    exact hcount

theorem withdraw_spec (h : Memory.wf s.mem = true) (hle : (gateOf s a).mcount ≤ 8) :
    let r := withdraw s (gateOf s a)
    (gateOf r.1 a).mcount = (gateOf s a).mcount - 1 ∧ (gateOf r.1 a).mhead = ((gateOf s a).mhead + 1) % 8 ∧
    r.2.1 = Memory.readBytes s.mem (a + 0x100 + 32 * (gateOf s a).mhead) 32 := by
  have hat := gateOf_at s a
  generalize gateOf s a = G at hat hle ⊢
  subst hat
  refine ⟨?_, ?_, rfl⟩
  · rw [mcount_byte]
    refine (congrArg ofLe (putGate_read (wf_putGate (wf_putGate h)) G 1 rfl)).trans ?_
    rw [ofLe_byte]
    omega
  · rw [mhead_byte, withdraw, putGate_beside _ (.inr (Nat.le_of_eq (by rw [List.length_singleton])))]
    refine (congrArg ofLe (putGate_read (wf_putGate h) G 2 rfl)).trans ?_
    rw [ofLe_byte]
    omega

theorem performGate_take (h : Memory.wf s.mem = true) (hk : g.kind = .take) (hne : (gateOf s a).mcount ≠ 0)
    (hle : (gateOf s a).mcount ≤ 8) (hseal : isSealed s g.part g.gpa = false) :
    let t := performGate s id g a
    (gateOf t a).mcount = (gateOf s a).mcount - 1 ∧ (gateOf t a).mhead = ((gateOf s a).mhead + 1) % 8 ∧
    ∃ w, Tab.find t.gates id =
      some { g with msg := Memory.readBytes s.mem (a + 0x100 + 32 * (gateOf s a).mhead) 32, state := .answered [w] } := by
  have ht : performGate s id g a = answer (withdraw s (gateOf s a)).1 id { g with msg := (withdraw s (gateOf s a)).2.1 }
      [(withdraw s (gateOf s a)).2.2] := by
    simp only [performGate, hk, beq_eq_false_iff_ne.mpr hne, hseal, Bool.false_eq_true, if_false]
  obtain ⟨hcount, hhead, hmsg⟩ := withdraw_spec h hle
  simp only [ht]
  refine ⟨?_, ?_, _, (answer_found ..).trans (by rw [hmsg])⟩
  · rw [gateOf, answer_mem]
    exact hcount
  · rw [gateOf, answer_mem]
    exact hhead

end Home

/-! ## GATE -/

section Steps

variable {s : State} {I : Issuer} {g : GateOp} {a : Nat}

theorem heldAtGate_nextId (s : State) (n : Nat) (a : Nat) (p : GateOp → Bool) :
    heldAtGate { s with nextId := n } a p = heldAtGate s a p := rfl

/-- An operation that its gate admits at once is performed there, and what it lets through after it. -/
theorem gate_admitted (h : GateOpen s I g a) :
    Answers .gate s (gateServed s (performGate { s with nextId := s.nextId + 1 } s.subject.idx (arrived s g a) a) a) := by
  obtain ⟨hg, hsent, hstamp, hreplay, hI, hat, hhome, hbad, hformed, hopen, ⟨e, hentry, hright, hrate⟩, hroom, htoken, hbefore⟩ := h
  have hlost : remoteLost s I.blk.pkg (gateHome a) = false := by
    rw [remoteLost, hhome, bne_self_eq_false, Bool.false_and]
  have hexec : exec .gate s = .next (gateMapped s s.subject.idx g a) := by
    change execGate s = _
    simp only [execGate, hg, hI, hat, hsent, hstamp, hlost, hbefore]
    rfl
  have hmapped : gateMapped s s.subject.idx g a = countWaiters (arriveGate s s.subject.idx g a) a := by
    simp only [gateMapped, hreplay, hstamp]
    rfl
  have hdenied : (!g.atH && !((gateOf s a).entryOf g.part).any fun e => bits ((gateOf s a).acl e) 16 4 &&& rightBit g.kind != 0) = false := by
    rw [hentry, Option.any_some, bne_iff_ne.mpr hright, Bool.not_true, Bool.and_false]
  have harrive : arriveGate s s.subject.idx g a = admitNew { s with nextId := s.nextId + 1 } s.subject.idx (arrived s g a) a := by
    have hbad' : gateBadUnit { s with nextId := s.nextId + 1 } a = none := hbad
    simp only [arriveGate, hbad', hformed, hopen, hdenied]
    rfl
  have hwaiting : admitWaiting { s with nextId := s.nextId + 1 } a = { s with nextId := s.nextId + 1 } := by
    rw [admitWaiting, heldAtGate_nextId, htoken]
    rfl
  have hadmit : admitGate { s with nextId := s.nextId + 1 } s.subject.idx (arrived s g a) a =
      performGate { s with nextId := s.nextId + 1 } s.subject.idx (arrived s g a) a := by
    unfold admitGate
    have hentry' : (gateOf { s with nextId := s.nextId + 1 } a).entryOf (arrived s g a).part = some e := hentry
    have hrate' : bits ((gateOf { s with nextId := s.nextId + 1 } a).acl e) 20 12 = 0 := hrate
    by_cases hq : ((arrived s g a).atH || (arrived s g a).kind == .qry) = true
    · simp only [hq, if_true]
    · simp only [hq, hentry', hrate', Bool.false_eq_true, if_false, beq_self_eq_true, if_true]
  have hfull : decide (1024 ≤ (s.gates.filter fun x => x.1 != s.subject.idx && x.2.inTable && gateHome x.2.home == gateHome a).length) = false := by
    refine decide_eq_false (Nat.not_le.mpr (Nat.lt_of_le_of_lt ?_ hroom))
    refine ListFacts.length_filter_le_of_imp _ fun x hx => ?_
    simp only [Bool.and_eq_true] at hx ⊢
    exact ⟨hx.1.2, hx.2⟩
  rw [Answers, hexec, hmapped, harrive, admitNew, hwaiting, hadmit, hfull]
  rfl

theorem gate_lost (hg : Tab.find s.gates s.subject.idx = some g) (hsent : g.state = .sent) (hI : issuerOf s g.unit 0 = some I)
    (hat : gateAt s g.part g.handle = some a) (hlost : remoteLost s I.blk.pkg (gateHome a) = true) :
    Answers .gate s (setGateOp s s.subject.idx { g with state := .trapped { cause := .memerr, detail := 4 } }) := by
  change execGate s = _
  simp only [execGate, hg, hI, hat, hsent, hlost]
  rfl

theorem gateAnswer_exec {rs : List DWord} (hg : Tab.find s.gates s.subject.idx = some g) (hI : issuerOf s g.unit 0 = some I)
    (hwait : I.st.wait = .gate s.subject.idx) (hstate : g.state = .answered rs) :
    let s1 := injectQueued { s with gates := Tab.del s.gates s.subject.idx } I.blk.pkg
    let s2 := if g.kind = .take ∧ (rs.headD 0).getLsbD 63 = true then storeTaken s1 I g else s1
    Completes .gateAnswer s I ((g.dests.zip rs).foldl (fun s x => write64 s I x.1 x.2) s2) := by
  change execGateAnswer s = _
  simp only [execGateAnswer, hg, hI, hwait, hstate, bne_self_eq_false, Bool.false_eq_true, if_false, Bool.and_eq_true, beq_iff_eq]

/-- Where every entry of a table that meets a condition is changed, a found entry that meets it is found changed. -/
theorem find_mapped {α : Type} (f : α → α) (p : α → Bool) {t : Tab α} {n : Nat} {x : α} (h : Tab.find t n = some x) :
    Tab.find (t.map fun e => if p e.2 then (e.1, f e.2) else e) n = some (if p x then f x else x) := by
  induction t with
  | nil => cases h
  | cons e t ih =>
    obtain ⟨k, v⟩ := e
    simp only [Tab.find] at h
    split at h
    · next hk =>
      cases h
      simp only [List.map_cons]
      split
      · simp only [Tab.find, hk, if_true]
      · simp only [Tab.find, hk, if_true]
    · next hk =>
      simp only [List.map_cons]
      split <;> simp only [Tab.find, hk, if_false, ih h]

theorem gateClose_exec (hwf : Memory.wf s.mem = true) (hat : gateAt s s.subject.part s.subject.idx = some a) :
    ∃ t, exec .gateClose s = .next t ∧ (gateOf t a).state = 1 ∧
      ∀ id g, Tab.find s.gates id = some g → g.home = a → g.inTable = true ∨ g.state = .tableFull →
        Tab.find t.gates id = some { g with state := .trapped (gateTrap g 1 .gateClosed 0) } := by
  have hexec : exec .gateClose s = execGateClose s := rfl
  simp only [execGateClose, hat] at hexec
  refine ⟨_, hexec, ?_, fun id g hg hhome hheld => ?_⟩
  · rw [Gate.state, gateOf, fld_record _ _ (by decide)]
    rw [countWaiters, readBytes_beside (.inl (by omega))]
    refine (congrArg (fun l => ofLe l % 4) (readBytes_written hwf (l := [1]) rfl)).trans rfl
  · have hmeets : (g.home == a && (g.inTable || g.state == .tableFull)) = true := by
      rw [hhome, beq_self_eq_true, Bool.true_and, Bool.or_eq_true, beq_iff_eq]
      exact hheld
    refine (find_mapped (fun g => { g with state := .trapped (gateTrap g 1 .gateClosed 0) })
      (fun g => g.home == a && (g.inTable || g.state == .tableFull)) hg).trans ?_
    rw [if_pos hmeets]

end Steps

/-- Settles O50: the arrival runs through its checks to the operation, whose writes are read back field by field. -/
theorem gateStepsComplete : Obligations.GateStepsComplete := by
  refine ⟨fun s I g a h => gate_admitted h, fun s I g a hg hsent hI hat hlost => gate_lost hg hsent hI hat hlost,
    fun s id g a h hk => performGate_sig h hk, fun s id g a h hk => performGate_wait h hk,
    fun s id g a h hk hmsg hroom => performGate_send h hk hmsg hroom,
    fun s id g a h hk hne hle _ hseal => performGate_take h hk hne hle hseal,
    fun s I g rs hg hI hwait hstate => gateAnswer_exec hg hI hwait hstate, fun s p hp hdue => ?_, fun s g hg hstate htime hdue hmoves => ?_,
    fun s g hg hstate hdue => ?_, fun s g a hg hat hne hheld => ?_, fun s a hwf hat => gateClose_exec hwf hat⟩
  case refine_1 =>
    change execGateTokenRefill s = _
    simp only [execGateTokenRefill, hp, if_neg (Nat.not_le.mpr hdue)]
  case refine_2 =>
    change execHgwaitTimeout s = _
    simp only [execHgwaitTimeout, hg, hstate, beq_eq_false_iff_ne.mpr htime, hmoves, decide_eq_false (Nat.not_lt.mpr hdue),
      bne_self_eq_false, Bool.or_self, Bool.false_eq_true, if_false]
  case refine_3 =>
    change execGateTableRetry s = _
    simp only [execGateTableRetry, hg, hstate, decide_eq_false (Nat.not_lt.mpr hdue), bne_self_eq_false, Bool.or_self,
      Bool.false_eq_true, if_false]
  case refine_4 =>
    intro c
    have hgo : (a == g.home || !(g.state == .heldMigr || g.inTable)) = false := by
      rw [beq_eq_false_iff_ne.mpr hne, Bool.false_or, Bool.not_eq_false', Bool.or_eq_true, beq_iff_eq]
      exact hheld
    change execGateRedirect s = _
    simp only [execGateRedirect, hg, hat, hgo, Bool.false_eq_true, if_false]
    rfl

end Sys2Proof.GateProofs
end

section
/-! PROOFS. The Ethernet packets of a reliable connection (05_fabric.md R107, 06_engines.md R139). -/

namespace Sys2Proof.FabricProofs

open Sys2Proof.Machine Sys2Proof.Safety Sys2Proof.Laws Sys2Proof.MemoryProofs

/-- Aborting peers changes engine operations only. -/
theorem abortPeers_rest (n : Nat) (gone : List (Nat × EngOp)) (s : State) : ∃ es, abortPeers s n gone = { s with engs := es } := by
  induction n generalizing s gone with
  | zero => exact ⟨_, rfl⟩
  | succ n ih =>
    rw [abortPeers]
    simp only []
    split
    · exact ⟨_, rfl⟩
    · obtain ⟨es, h⟩ := ih _ _
      exact ⟨es, h.trans rfl⟩

section Packets

variable {s t : State} {p : Pkg} {q : QPair} {part : Nat}

theorem failNetwork_pkgs (s : State) (f : EngOp → Bool) : (failNetwork s f).pkgs = s.pkgs ∧ (failNetwork s f).subject = s.subject := by
  rw [failNetwork]
  obtain ⟨es, h⟩ := abortPeers_rest (s.engs.map fun x : Nat × EngOp => if (s.engs.filter fun x => f x.2).any (·.1 == x.1) then
    (x.1, x.2.ends { status := 1, cause := 11, detail := min x.2.sent x.2.recvd }) else x).length (s.engs.filter fun x => f x.2)
    { s with engs := s.engs.map fun x : Nat × EngOp => if (s.engs.filter fun x => f x.2).any (·.1 == x.1) then
      (x.1, x.2.ends { status := 1, cause := 11, detail := min x.2.sent x.2.recvd }) else x }
  simp only [h, and_self]

/-- A packet of a queue pair of a port that is up. -/
theorem rocePacket_up (h : RoceUp s part q) {k : Nat → QPair → Option State} (hk : k part q = some t) : rocePacket s k = .next t := by
  obtain ⟨howner, hqp, hup⟩ := h
  simp only [rocePacket, howner, hqp, hup, hk]
  rfl

theorem port_up (hp : HasPkg s p) (hidx : s.subject.idx < 8) : (decide (8 ≤ s.subject.idx) || (Tab.find s.pkgs s.subject.pkg).isNone) = false := by
  rw [decide_eq_false (Nat.not_le.mpr hidx), show Tab.find s.pkgs s.subject.pkg = some p from hp]
  rfl

theorem linkFail_exec (hp : HasPkg s p) (hidx : s.subject.idx < 8) (hup : (Tab.get {} (s.pkgOf s.subject.pkg).eth s.subject.idx).up = true) :
    ∃ t, exec .ethernetLinkFail s = .next t ∧ (Tab.get {} (t.pkgOf s.subject.pkg).eth s.subject.idx).up = false := by
  have hexec : exec .ethernetLinkFail s = execEthernetLinkFail s := rfl
  rw [execEthernetLinkFail] at hexec
  simp only [port_up hp hidx, hup, Bool.not_true, Bool.or_self, Bool.false_eq_true, if_false] at hexec
  refine ⟨_, hexec, ?_⟩
  obtain ⟨hpkgs, hsub⟩ := failNetwork_pkgs s fun e => usesPort e s.subject.pkg s.subject.idx
  rw [updPort, hsub, pkgOf_updPkg_self (k := p) (by rw [hpkgs]; exact hp), Tab.get_set_self]

theorem roceSend_exec {e : EngOp} {k n : Nat} {ks : List Nat} {l : Nat × Nat × Nat} (he : Tab.find s.engs s.subject.idx = some e)
    (hout : e.outR = k :: ks) (hlink : linkOf e (leftRank e.coll) = some l) (hleft : e.left = some n)
    (hup : (Tab.get {} (s.pkgOf l.1).eth l.2.1).up = true) :
    let t := leftWay s s.subject.idx { e with outR := ks }
    Answers .roceSend s { t with engs := Tab.modify t.engs n fun c => { c with returned := k } } := by
  change execRoceSend s = _
  simp only [execRoceSend, he, hout, hlink, hleft, hup, Bool.not_true, Bool.false_eq_true, if_false]

theorem roceWriteImm_exec {e c : EngOp} {k r : Nat} {bs : List Byte} {rest : List (Nat × List Byte)} {l : Nat × Nat × Nat}
    (he : Tab.find s.engs s.subject.idx = some e) (hout : e.outW = (k, bs) :: rest) (hlink : linkOf e e.coll.rank = some l)
    (hright : e.right = some r) (hc : Tab.find s.engs r = some c) (hup : (Tab.get {} (s.pkgOf l.1).eth l.2.1).up = true)
    (hheld : engHeld s r = false)
    (hwrite : engWrite s c [((c.ring.getD c.coll.rank {}).stage + 64 + (k % 2) * halfBytes c.coll, bs)] = .ok t ()) :
    let told := { t with engs := Tab.modify t.engs r fun c => { c with arrived := k + 1 } }
    let u := leftWay told told.subject.idx { e with outW := rest }
    Answers .roceRdmaWriteImm s (updQp u l fun q =>
      { q with unacked := q.unacked - packets q bs.length, tries := 0, since := u.now }) := by
  change execRoceRdmaWriteImm s = _
  simp only [execRoceRdmaWriteImm, he, hout, hlink, hright, Option.bind_some, hc, Option.map_some, hup, hheld, Bool.not_true, Bool.or_self,
    Bool.false_eq_true, if_false, collAccess, hwrite]

theorem retransmit_exec (h : RoceUp s part q) (hun : q.unacked ≠ 0) (hdue : q.since + q.timeout ≤ s.now) :
    (q.tries < q.retries → Answers .roceRetransmitTimeout s
      (updQp s (s.subject.pkg, s.subject.idx, s.subject.sub) fun q =>
        { q with resent := q.resent + q.unacked, tries := q.tries + 1, since := s.now })) ∧
    (q.retries ≤ q.tries → Answers .roceRetransmitTimeout s
      (failNetwork (updQp s (s.subject.pkg, s.subject.idx, s.subject.sub) fun q => { q with unacked := 0, tries := 0 })
        fun e => e.collBusy && linkOf e e.coll.rank == some (s.subject.pkg, s.subject.idx, s.subject.sub))) := by
  have hgo : (q.unacked == 0 || decide (s.now < q.since + q.timeout)) = false := by
    rw [beq_eq_false_iff_ne.mpr hun, decide_eq_false (Nat.not_lt.mpr hdue)]
    rfl
  refine ⟨fun hlt => rocePacket_up h ?_, fun hle => rocePacket_up h ?_⟩
  · exact (if_neg (by rw [hgo]; decide)).trans (if_neg (Nat.not_le.mpr hlt))
  · exact (if_neg (by rw [hgo]; decide)).trans (if_pos hle)

theorem roceRead_exec {s1 : State} {l : List Byte} (h : RoceUp s part q)
    (hread : ctxReadAt s part q.ctx .s s.subject.off s.subject.val.toNat = (s1, some l)) :
    Answers .roceRdmaRead s
      (updQp s1 (s.subject.pkg, s.subject.idx, s.subject.sub) fun q => { q with reads := q.reads ++ [l] }) := by
  change execRoceRdmaRead s = _
  refine rocePacket_up h ?_
  simp only [hread]

end Packets

/-- Settles O58: each packet passes the checks of its row, and its row's effect is the statement's. -/
theorem ethernetSteps : Obligations.EthernetSteps := by
  refine ⟨fun s e k ks l n he hout hlink hleft hup => roceSend_exec he hout hlink hleft hup,
    fun s t e c k r bs rest l he hout hlink hright hc hup hheld hwrite => roceWriteImm_exec he hout hlink hright hc hup hheld hwrite,
    fun s id e h => ?_, fun s part q h => ?_, fun s s1 part q l h hread => roceRead_exec h hread, fun s p hp hidx => ?_,
    fun s part q h hun hdue => retransmit_exec h hun hdue, fun s part q h => ?_, fun s p hp hidx hsub => ?_,
    fun s p hp hidx hup => linkFail_exec hp hidx hup⟩
  case refine_1 =>
    rw [leftWay]
    split
    next k hk => exact absurd hk (h k)
    rfl
  case refine_2 =>
    change execRoceRdmaWrite s = _
    exact rocePacket_up h rfl
  case refine_3 => exact if_neg (by rw [port_up hp hidx]; decide)
  case refine_4 =>
    change execEcnMark s = _
    exact rocePacket_up h rfl
  case refine_5 =>
    refine if_neg ?_
    rw [decide_eq_false (Nat.not_le.mpr hsub), Bool.or_false, port_up hp hidx]
    decide

end Sys2Proof.FabricProofs
end

section
/-! PROOFS. The host link (04_translation.md R85 to R88, 05_fabric.md R109, R110). -/

namespace Sys2Proof.HostLinkProofs

open Sys2Proof.Machine Sys2Proof.Safety Sys2Proof.Laws Sys2Proof.MemoryProofs

section Rows

variable {s t : State} {p : Pkg} {m : Msg} {ha : Nat}

/-! ## Page requests (R87, R88) -/

theorem priDoorbell_slot (d : Nat × UnitId × DWord) (i : Nat) (hd : (s.pkgOf s.subject.pkg).doorbells[s.subject.idx]? = some d)
    (hbound : (s.pkgOf s.subject.pkg).bound d.1 = true)
    (hslot : ((List.range 32).find? fun i => (Tab.find (funcOf (s.pkgOf s.subject.pkg) d.1).pri i).isNone) = some i) :
    Answers .priDoorbell s (updFunc (s.updPkg s.subject.pkg fun p => { p with doorbells := p.doorbells.erase d }) s.subject.pkg d.1
      fun f =>
        let slot : PriSlot := { unit := d.2.1, page := bits d.2.2.toNat 16 36, write := d.2.2.getLsbD 0 }
        { f with pri := Tab.set f.pri i slot }) := by
  change execPriDoorbell s = _
  simp only [execPriDoorbell, hd, Option.filter, hbound, if_true, hslot]

/-- The request slot that a response names, where it is of the function's generation. -/
theorem pageResponse_late (hp : HasPkg s p) (hbound : p.bound s.subject.part = true)
    (h : ¬ bits s.subject.val.toNat 5 4 = (funcOf p s.subject.part).gen ∨
      Tab.find (funcOf p s.subject.part).pri (bits s.subject.val.toNat 0 5) = none) :
    Answers .pageRequestResponse s (s.updCounts s.subject.pkg s.subject.part fun c => { c with latePri := c.latePri + 1 }) := by
  have hnone : (if bits s.subject.val.toNat 5 4 == (funcOf p s.subject.part).gen then
      Tab.find (funcOf p s.subject.part).pri (bits s.subject.val.toNat 0 5) else none) = none := by
    rcases h with h | h
    · exact if_neg (by simpa using h)
    · rw [h, ite_self]
  have hp' : Tab.find s.pkgs s.subject.pkg = some p := hp
  change execPageRequestResponse s = _
  simp only [execPageRequestResponse, hp', Option.filter, hbound, if_true, hnone]

theorem pageResponse_row (hp : HasPkg s p) (hbound : p.bound s.subject.part = true) {r : PriSlot}
    (hgen : bits s.subject.val.toNat 5 4 = (funcOf p s.subject.part).gen)
    (hr : Tab.find (funcOf p s.subject.part).pri (bits s.subject.val.toNat 0 5) = some r) :
    let slot := bits s.subject.val.toNat 0 5
    let t := updFunc s s.subject.pkg s.subject.part fun f => { f with pri := Tab.del f.pri slot }
    (∀ c, unitCtx t s.subject.part r.unit = some c →
      Answers .pageRequestResponse s (t.updPart s.subject.part fun P =>
        { P with events := latchEvent P.events c 0 (some r.unit) (BitVec.ofNat 64 (slot + (s.subject.sub % 16) <<< 8)) })) ∧
    (unitCtx t s.subject.part r.unit = none → Answers .pageRequestResponse s t) := by
  have hp' : Tab.find s.pkgs s.subject.pkg = some p := hp
  constructor
  · intro c hc
    change execPageRequestResponse s = _
    simp only [execPageRequestResponse, hp', Option.filter, hbound, if_true, hgen, beq_self_eq_true, hr, hc]
  · intro hc
    change execPageRequestResponse s = _
    simp only [execPageRequestResponse, hp', Option.filter, hbound, if_true, hgen, beq_self_eq_true, hr, hc]

/-! ## Translation Requests (R85) -/

theorem translation_row (hm : HostMsg s m ha) (hats : m.ats = true) (hpkg : m.req.pkg = s.subject.pkg)
    (hpart : m.req.part = s.subject.part) (hbound : (s.pkgOf s.subject.pkg).bound s.subject.part = true)
    (hout : s.subject.idx ∈ atsOut s s.subject.pkg s.subject.part) :
    let page : AtcEnt := { page := ha >>> 12, dst := s.subject.off >>> 12, r := s.subject.flag, w := s.subject.flag2,
                           granule := m.req.gpa >>> 25 }
    let allowed := if m.req.write = true then s.subject.flag2 else s.subject.flag
    (s.subject.sub = 0 → Answers .atsTranslationCompletion s
      (putMsg (putAtc s m.req.pkg m.req.part page) s.subject.idx
        { m with ats := false, sent := s.now, sentAs := if allowed = true then some (((s.subject.off >>> 12) <<< 12) + ha % 4096) else none })) ∧
    (s.subject.sub ≠ 0 → Answers .atsTranslationCompletion s (failHost s s.subject.idx m)) := by
  obtain ⟨hfind, htgt⟩ := hm
  have hvalid : (!m.ats || m.req.pkg != s.subject.pkg || m.req.part != s.subject.part ||
      !(atsOut s s.subject.pkg s.subject.part).contains s.subject.idx) = false := by
    simp [hats, hpkg, hpart, hout]
  constructor
  · intro hsub
    change execAtsTranslationCompletion s = _
    simp only [execAtsTranslationCompletion, hbound, Bool.not_true, Bool.false_eq_true, if_false, hfind, htgt, hvalid, hsub,
      bne_self_eq_false]
  · intro hsub
    change execAtsTranslationCompletion s = _
    simp only [execAtsTranslationCompletion, hbound, Bool.not_true, Bool.false_eq_true, if_false, hfind, htgt, hvalid,
      bne_iff_ne.mpr hsub, if_true]

theorem wantTranslation_row {w : AtsWant} {ws : List AtsWant} (hfind : Tab.find s.msgs s.subject.idx = none)
    (hidx : s.subject.idx = 0) (hbound : (s.pkgOf s.subject.pkg).bound s.subject.part = true)
    (hw : wantsOf s s.subject.pkg s.subject.part = w :: ws) :
    let page : AtcEnt := { page := w.page, dst := s.subject.off >>> 12, r := s.subject.flag, w := s.subject.flag2,
                           granule := w.gpa >>> 25 }
    (s.subject.sub = 0 → Answers .atsTranslationCompletion s
      (wantMet (putAtc s s.subject.pkg s.subject.part page) s.subject.pkg w)) ∧
    (s.subject.sub ≠ 0 → Answers .atsTranslationCompletion s (wantFails s s.subject.pkg w)) := by
  rw [hidx] at hfind
  constructor
  · intro hsub
    change execAtsTranslationCompletion s = _
    simp only [execAtsTranslationCompletion, hbound, Bool.not_true, Bool.false_eq_true, if_false, hidx, hfind, hw,
      List.head?_cons, hsub, bne_self_eq_false]
  · intro hsub
    change execAtsTranslationCompletion s = _
    simp only [execAtsTranslationCompletion, hbound, Bool.not_true, Bool.false_eq_true, if_false, hidx, hfind, hw,
      List.head?_cons, bne_self_eq_false, bne_iff_ne.mpr hsub, if_true]

/-! ## A function's record -/

theorem funcOf_updFunc {pkg part : Nat} (f : Func → Func) (hp : Tab.find s.pkgs pkg = some p) :
    funcOf ((updFunc s pkg part f).pkgOf pkg) part = f (funcOf p part) := by
  have hpkg : s.pkgOf pkg = p := by rw [State.pkgOf, Tab.get, hp]; rfl
  rw [updFunc, pkgOf_updPkg_self hp, hpkg, funcOf, Tab.get_set_self]

theorem atc_putAtc {pkg part : Nat} (e : AtcEnt) (hp : Tab.find s.pkgs pkg = some p)
    (hlen : (funcOf p part).atc.length ≤ 1024) :
    let l := (funcOf ((putAtc s pkg part e).pkgOf pkg) part).atc
    e ∈ l ∧ l.length ≤ 1024 ∧ ∀ x ∈ l, x = e ∨ (x ∈ (funcOf p part).atc ∧ x.page ≠ e.page) := by
  have hold : ((funcOf p part).atc.filter fun x => x.page != e.page).length ≤ 1024 :=
    Nat.le_trans (List.length_filter_le ..) hlen
  have hfrom : ∀ x ∈ (funcOf p part).atc.filter fun x => x.page != e.page, x ∈ (funcOf p part).atc ∧ x.page ≠ e.page := by
    simp [List.mem_filter]
  rw [putAtc, funcOf_updFunc _ hp]
  simp only []
  generalize (funcOf p part).atc.filter (fun x => x.page != e.page) = old at hold hfrom
  refine ⟨by simp, ?_, fun x hx => ?_⟩
  · split <;> simp <;> omega
  · rcases List.mem_append.mp hx with hx | hx
    · refine .inr (hfrom x ?_)
      split at hx
      · exact hx
      · exact List.mem_of_mem_drop hx
    · exact .inl (List.mem_singleton.mp hx)

/-! ## Invalidations (R86) -/

theorem invalidation_row (hp : HasPkg s p) (hbound : p.bound s.subject.part = true) (hidx : s.subject.idx ≠ 0)
    (hroom : (funcOf p s.subject.part).invals.length < 32) :
    let v : Inval := { first := s.subject.off >>> 12, n := s.subject.idx, pasid := s.subject.flag, ctx := s.subject.ctx }
    let t := nextInval (updFunc s s.subject.pkg s.subject.part fun f => { f with invals := f.invals ++ [v] })
      s.subject.pkg s.subject.part
    Answers .atsInvalidationRequest s t := by
  have hpkg : s.pkgOf s.subject.pkg = p := by rw [State.pkgOf, Tab.get, show Tab.find s.pkgs s.subject.pkg = some p from hp]; rfl
  change execAtsInvalidationRequest s = _
  refine if_neg ?_
  simp [hpkg, hbound, hidx, Nat.not_le.mpr hroom]

/-- The first invalidation without a PASID begins at once: the entries of its pages go. -/
theorem atc_firstInval {pkg part : Nat} {v : Inval} (hp : Tab.find s.pkgs pkg = some p) (hpasid : v.pasid = false)
    (hbegun : v.begun = false) (hnone : (funcOf p part).invals = []) :
    (funcOf ((nextInval (updFunc s pkg part fun f => { f with invals := f.invals ++ [v] }) pkg part).pkgOf pkg) part).atc =
      (funcOf p part).atc.filter fun e => !(decide (v.first ≤ e.page) && decide (e.page < v.first + v.n)) := by
  have hfirst : Tab.find (updFunc s pkg part fun f => { f with invals := f.invals ++ [v] }).pkgs pkg =
      some ((updFunc s pkg part fun f => { f with invals := f.invals ++ [v] }).pkgOf pkg) := by
    rw [updFunc, State.pkgOf, Tab.get, State.updPkg_pkgs, Tab.find_modify, if_pos rfl, hp]
    rfl
  have hfunc := funcOf_updFunc (s := s) (part := part) (fun f => { f with invals := f.invals ++ [v] }) hp
  generalize updFunc s pkg part (fun f => { f with invals := f.invals ++ [v] }) = t at hfirst hfunc
  have hinvals : (funcOf (t.pkgOf pkg) part).invals = [v] := by rw [hfunc, hnone]; rfl
  have hatc : (funcOf (t.pkgOf pkg) part).atc = (funcOf p part).atc := by rw [hfunc]
  rw [nextInval, hinvals]
  simp only [hbegun, Bool.false_eq_true, if_false, beginInval, hpasid, Bool.not_false, if_true]
  have hsecond : ∀ f, Tab.find (updFunc t pkg part f).pkgs pkg = some ((updFunc t pkg part f).pkgOf pkg) := fun f => by
    rw [updFunc, State.pkgOf, Tab.get, State.updPkg_pkgs, Tab.find_modify, if_pos rfl, hfirst]
    rfl
  rw [funcOf_updFunc _ (hsecond _), funcOf_updFunc _ hfirst, hatc]

/-! ## Host writes (R108) -/

theorem inboundWrite_row {L : LayoutEnt} (hbytes : s.subject.bytes ≠ []) (hup : (s.pkgOf s.subject.pkg).linkUp = true)
    (hlayout : layoutOf s s.subject.pkg s.subject.part = some L) (hbound : (s.pkgOf s.subject.pkg).bound s.subject.part = true) :
    let parts := pieces (s.subject.bytes.length / 64 + 2) s.subject.off s.subject.bytes.length
    ((∃ p ∈ parts, isSealed s s.subject.part p.1 = true) →
      Answers .inboundWrite s (s.updCounts s.subject.pkg s.subject.part fun c => { c with hostRef := c.hostRef + 1 })) ∧
    ((∀ p ∈ parts, isSealed s s.subject.part p.1 = false) →
      (∀ t, gpaWrite s s.subject.pkg s.subject.part s.subject.off s.subject.bytes 0 = .ok t → Answers .inboundWrite s t) ∧
      (∀ g k n, gpaWrite s s.subject.pkg s.subject.part s.subject.off s.subject.bytes 0 ∈ [.s2 g, .mem g k, .win g n] →
        Answers .inboundWrite s (noThread s s.subject.part g)) ∧
      (∀ w, gpaWrite s s.subject.pkg s.subject.part s.subject.off s.subject.bytes 0 = .wait w →
        Answers .inboundWrite s (s.bar s.subject.pkg s.subject.part w))) := by
  have hempty : s.subject.bytes.isEmpty = false := by simpa using hbytes
  constructor
  · intro hsealed
    change execInboundWrite s = _
    simp only [execInboundWrite, hempty, hup, hlayout, hbound, Bool.not_true, Option.isNone_some, Bool.or_false,
      Bool.false_eq_true, if_false, List.any_eq_true.mpr hsealed, if_true]
  · intro hfree
    have hany : ((pieces (s.subject.bytes.length / 64 + 2) s.subject.off s.subject.bytes.length).any fun p =>
        isSealed s s.subject.part p.1) = false := by
      simpa [List.any_eq_false] using fun a b hab => hfree (a, b) hab
    have hrow : execInboundWrite s = match gpaWrite s s.subject.pkg s.subject.part s.subject.off s.subject.bytes 0 with
        | .ok s' => .next s'
        | .s2 g => .next (noThread s s.subject.part g)
        | .mem g _ => .next (noThread s s.subject.part g)
        | .win g _ => .next (noThread s s.subject.part g)
        | .wait w => .next (s.bar s.subject.pkg s.subject.part w) := by
      simp only [execInboundWrite, hempty, hup, hlayout, hbound, Bool.not_true, Option.isNone_some, Bool.or_false,
        Bool.false_eq_true, if_false, hany] <;> rfl
    refine ⟨fun t h => ?_, fun g k n h => ?_, fun w h => ?_⟩
    · change execInboundWrite s = _
      rw [hrow, h]
    · change execInboundWrite s = _
      rw [hrow]
      simp only [List.mem_cons, List.not_mem_nil, or_false] at h
      rcases h with h | h | h <;> rw [h]
    · change execInboundWrite s = _
      rw [hrow, h]

/-! ## Completions and timeouts (R109) -/

theorem hostCompletion_row (hm : HostMsg s m ha) (hats : m.ats = false) (hup : (s.pkgOf m.req.pkg).linkUp = true) :
    let r := performHostLine { s with msgs := Tab.del s.msgs s.subject.idx } m.req (m.sentAs.getD ha)
    (s.subject.flag = true → Answers .hostCompletion s (failHost s s.subject.idx m)) ∧
    (s.subject.flag = false → hostLineBusy s s.subject.idx m ha = false →
      Answers .hostCompletion s (mergeAnswer r.1 m.req.op 1 0 r.2)) := by
  obtain ⟨hfind, htgt⟩ := hm
  constructor
  · intro hflag
    change execHostCompletion s = _
    simp only [execHostCompletion, hfind, htgt, hats, hup, Bool.not_true, Bool.or_false, Bool.false_eq_true, if_false, hflag, if_true]
  · intro hflag hbusy
    change execHostCompletion s = _
    simp only [execHostCompletion, hfind, htgt, hats, hup, Bool.not_true, Bool.or_false, Bool.false_eq_true, if_false, hflag, hbusy]

theorem engHostFails_row {e : EngOp} {va : Nat} (hphase : e.phase ≠ .queued) (hva : engHostVa s e = some va) (id : Nat) :
    engHostFails s id e = .next (engBreak s id e 4 0 va) := by
  rw [engHostFails, if_neg (by simpa using hphase), hva]

theorem engineHost_row {e : EngOp} {va : Nat} (hfind : Tab.find s.msgs s.subject.idx = none)
    (heng : Tab.find s.engs s.subject.idx = some e) (hphase : e.phase ≠ .queued) (hva : engHostVa s e = some va) :
    (s.subject.flag = true → Answers .hostCompletion s (engBreak s s.subject.idx e 4 0 va)) ∧
    (∀ n, e.asked = some (va, n) → n + 5000000 ≤ s.now → Answers .completionTimeout s (engBreak s s.subject.idx e 4 0 va)) := by
  constructor
  · intro hflag
    change execHostCompletion s = _
    simp only [execHostCompletion, hfind, heng, hflag, if_true, engHostFails_row hphase hva]
  · intro n hasked hold
    have hdue : (e.asked.any fun a => decide (a.2 + 5000000 ≤ s.now) && engHostVa s e == some a.1) = true := by
      rw [hasked, Option.any_some, hva]
      exact Bool.and_eq_true_iff.mpr ⟨decide_eq_true hold, beq_self_eq_true _⟩
    change execCompletionTimeout s = _
    simp only [execCompletionTimeout, hfind, heng, hdue, if_true, engHostFails_row hphase hva]

theorem completionTimeout_msg (hm : HostMsg s m ha) (hold : m.sent + 5000000 ≤ s.now) :
    Answers .completionTimeout s (failHost s s.subject.idx m) := by
  obtain ⟨hfind, htgt⟩ := hm
  change execCompletionTimeout s = _
  simp only [execCompletionTimeout, hfind, htgt, Nat.not_lt.mpr hold, if_false]

theorem completionTimeout_want {w : AtsWant} {ws : List AtsWant} (hfind : Tab.find s.msgs s.subject.idx = none)
    (heng : Tab.find s.engs s.subject.idx = none) (hidx : s.subject.idx = 0)
    (hw : wantsOf s s.subject.pkg s.subject.part = w :: ws) (hold : w.sent + 5000000 ≤ s.now) :
    Answers .completionTimeout s (wantFails s s.subject.pkg w) := by
  rw [hidx] at hfind heng
  change execCompletionTimeout s = _
  simp only [execCompletionTimeout, hidx, hfind, heng, hw, List.head?_cons, bne_self_eq_false, Bool.false_or,
    decide_eq_false (Nat.not_lt.mpr hold), Bool.false_eq_true, if_false]

/-! ## Link and function resets (R110) -/

theorem linkDown_row (hp : HasPkg s p) (hup : p.linkUp = true) :
    let parts := ((validEnts p.layout).map fun e => e.podPart.toNat) ++ p.funcs.map (·.1)
    Answers .linkDown s (parts.eraseDups.foldl (fun t n => restartFunc t s.subject.pkg n)
      (s.updPkg s.subject.pkg fun p => { p with linkUp := false })) := by
  have hp' : Tab.find s.pkgs s.subject.pkg = some p := hp
  change execLinkDown s = _
  simp only [execLinkDown, hp', hup, Bool.not_true, Bool.false_eq_true, if_false]

theorem functionReset_row (hp : HasPkg s p) : Answers .functionReset s (restartFunc s s.subject.pkg s.subject.part) := by
  have hp' : Tab.find s.pkgs s.subject.pkg = some p := hp
  change execFunctionReset s = _
  simp only [execFunctionReset, hp', Option.isNone_some, Bool.false_eq_true, if_false]

/-- A function that has asked nothing of the host starts anew with no effect elsewhere. -/
theorem restartFunc_idle {pkg part : Nat} (hwants : wantsOf s pkg part = [])
    (hmsgs : ∀ m ∈ s.msgs, m.2.req.pkg = pkg → m.2.req.part = part → ∃ d, m.2.tgt = .dev d) :
    restartFunc s pkg part = updFunc s pkg part fun f => { f with gen := (f.gen + 1) % 16, pri := [], atc := [] } := by
  have hnone : failHosts (updFunc s pkg part Func.restart) (fun m => m.req.pkg == pkg && m.req.part == part) =
      updFunc s pkg part Func.restart := by
    rw [failHosts, List.filter_eq_nil_iff.mpr, List.foldl_nil]
    intro m hm
    by_cases hof : m.2.req.pkg = pkg ∧ m.2.req.part = part
    · obtain ⟨d, hd⟩ := hmsgs m hm hof.1 hof.2
      simp [hd]
    · simpa [not_and] using fun h₁ h₂ => absurd ⟨h₁, h₂⟩ hof
  have hwant : wantsOf (updFunc s pkg part Func.restart) pkg part = [] := by
    have hkeeps := pkgField_updPkg (s := s) (p := pkg) (q := pkg)
      (f := fun p => { p with funcs := Tab.set p.funcs part (funcOf p part).restart }) (·.atsWant) (fun _ => rfl)
    rw [wantsOf, updFunc]
    exact (congrArg _ hkeeps).trans hwants
  rw [restartFunc, hnone]
  simp only [hwant, List.foldl_nil]
  rfl

end Rows

/-- Settles O56: every row unfolds to the state it names; the ATC's size and an invalidation's effect go through the
function's record. -/
theorem hostLinkSteps : Obligations.HostLinkSteps := by
  unfold Obligations.HostLinkSteps
  refine ⟨fun s d i => priDoorbell_slot d i, fun s p hp hb => ⟨pageResponse_late hp hb, fun r => pageResponse_row hp hb⟩,
    fun s m ha => translation_row, fun s w ws => wantTranslation_row, fun s pkg part p e => atc_putAtc e,
    fun s p hp hb hidx hroom => ⟨invalidation_row hp hb hidx hroom, fun hflag hnone => atc_firstInval hp hflag rfl hnone⟩,
    fun s L => inboundWrite_row, fun s m ha => hostCompletion_row, fun s e va => engineHost_row, fun s m ha => completionTimeout_msg,
    fun s w ws => completionTimeout_want, fun s p => linkDown_row, fun s p => functionReset_row,
    fun s pkg part => restartFunc_idle⟩

end Sys2Proof.HostLinkProofs

end

section
/-! PROOFS. What no shared operation touches: the cycle, and which packages there are. The functions are gone through once,
in the order of the model's files. -/

namespace Sys2Proof.StandingProofs

open Sys2Proof.Machine Sys2Proof.Safety Sys2Proof.Laws

set_option Elab.async false

/-- The same cycle, and the same packages. -/
structure Standing (s t : State) : Prop where
  now : t.now = s.now
  found : ∀ p, (Tab.find t.pkgs p).isSome = (Tab.find s.pkgs p).isSome

namespace Standing

variable {s t u : State}

theorem refl {s : State} : Standing s s := ⟨rfl, fun _ => rfl⟩

theorem trans (h : Standing s t) (g : Standing t u) : Standing s u :=
  ⟨g.now.trans h.now, fun p => (g.found p).trans (h.found p)⟩

/-- A function that leaves the cycle and the table of packages. -/
theorem same (hn : t.now = s.now := by rfl) (hp : t.pkgs = s.pkgs := by rfl) : Standing s t := ⟨hn, fun p => by rw [hp]⟩

theorem updPkg (s : State) (p : Nat) (f : Pkg → Pkg) : Standing s (s.updPkg p f) := by
  refine ⟨rfl, fun q => ?_⟩
  rw [State.updPkg_pkgs, Tab.find_modify]
  split
  · next h => rw [← h, Option.isSome_map]
  · rfl

theorem find_map {f : Nat × Pkg → Nat × Pkg} (hf : ∀ e, (f e).1 = e.1) (l : Tab Pkg) (p : Nat) :
    (Tab.find (l.map f) p).isSome = (Tab.find l p).isSome := by
  induction l with
  | nil => rfl
  | cons e l ih =>
    obtain ⟨k, a⟩ := e
    have hk : (f (k, a)).1 = k := hf (k, a)
    simp only [List.map_cons, Tab.find, hk]
    split
    · rfl
    · exact ih

/-- A change of the packages in place. -/
theorem mapPkgs {f : Nat × Pkg → Nat × Pkg} (hf : ∀ e, (f e).1 = e.1) (hn : t.now = s.now := by rfl)
    (hp : t.pkgs = s.pkgs.map f := by rfl) : Standing s t := ⟨hn, fun p => by rw [hp, find_map hf]⟩

theorem fold {α β : Type} (f : β → α → β) (p : β → State) (h : ∀ b a, Standing (p b) (p (f b a))) (l : List α) (b : β) :
    Standing (p b) (p (l.foldl f b)) := by
  induction l generalizing b with
  | nil => exact refl
  | cons a l ih => exact (h b a).trans (ih _)

theorem foldState {α : Type} (f : State → α → State) (h : ∀ b a, Standing b (f b a)) (l : List α) (s : State) :
    Standing s (l.foldl f s) := fold f id h l s

end Standing

open Standing

/-! ## Lines -/

theorem standing_l2Fill (s : State) (p q l d) : Standing s (l2Fill s p q l d) := by
  unfold l2Fill
  simp only []
  split
  · exact refl
  · repeat' split
    all_goals first | exact updPkg .. | exact same

theorem standing_homeStore (s : State) (p q l a bs) : Standing s (homeStore s p q l a bs) :=
  Standing.trans (t := { s with mem := Memory.writeBytes s.mem a bs }) same (updPkg ..)

theorem standing_laneAtHome (p q l d c) (acc : State × Answer) (o) : Standing acc.1 (laneAtHome p q l d c acc o).1 := by
  unfold laneAtHome
  simp only []
  split
  · exact refl
  · exact same
  · split
    · exact refl
    · exact same
  · exact refl
  · exact standing_homeStore ..
  · split
    · exact standing_homeStore ..
    · exact refl

theorem standing_performDev (s : State) (h p l d c o) : Standing s (performDev s h p l d c o).1 := by
  unfold performDev
  exact (standing_l2Fill s h p l d).trans <|
    (foldState (fun s u => clearUnit s h p l d u) (fun b _ => Standing.trans (t := { b with bad := _ }) same (updPkg ..)) _ _).trans
      (fold (laneAtHome h p l d c) (·.1) (standing_laneAtHome h p l d c) o (_, {}))

theorem standing_pageWrite {s t : State} {p i o v m l u} (h : pageWrite s p i o v m l u = .ok t) : Standing s t := by
  have next : ∀ {a : State}, WinRes.ok a = .ok t → Standing s a → Standing s t := fun e ha => by
    injection e with e
    exact e ▸ ha
  unfold pageWrite at h
  simp only [] at h
  split at h
  · exact next h refl
  · split at h
    · exact next h refl
    · split at h
      · split at h
        · cases h
        · split at h
          · split at h
            · exact next h (Standing.trans same (updPkg ..))
            · exact next h same
          · exact next h same
      · split at h
        · split at h
          · exact next h same
          · exact next h refl
        · split at h
          · split at h
            · split at h
              · exact next h same
              · exact next h refl
            · split at h
              · exact next h same
              · exact next h refl
            · split at h
              · exact next h same
              · exact next h refl
            · split at h
              · exact next h same
              · exact next h refl
            · exact next h refl
          · exact next h refl

theorem standing_windowWrite {s t : State} {m o bs l u} (h : windowWrite s m o bs l u = .ok t) : Standing s t := by
  unfold windowWrite at h
  simp only [] at h
  split at h
  · injection h with h
    exact h ▸ updPkg ..
  · split at h
    · exact standing_pageWrite h
    · injection h with h
      exact h ▸ refl

theorem standing_laneAtWindow (h l d lv u) (acc : State × Answer) (o) : Standing acc.1 (laneAtWindow h l d lv u acc o).1 := by
  unfold laneAtWindow
  simp only []
  split
  · exact refl
  · exact refl
  · exact refl
  · split
    · next hw => exact standing_windowWrite hw
    · exact refl

theorem standing_performAt (s : State) (h p l d c lv u o) : Standing s (performAt s h p l d c lv u o).1 := by
  unfold performAt
  split
  · exact fold (laneAtWindow h l d lv u) (·.1) (standing_laneAtWindow h l d lv u) o (s, {})
  · exact standing_performDev s h p l d c o

theorem standing_trip (s : State) (k d a) : Standing s (trip s k d a) := by
  unfold trip
  split
  · exact refl
  · exact (updPkg s k _).trans (updPkg ..)

theorem standing_readTrips (s : State) (k p g l) : Standing s (readTrips s k p g l) := by
  unfold readTrips
  refine foldState _ (fun b a => ?_) _ s
  simp only [lineTrip]
  repeat' split
  all_goals first | exact refl | exact standing_trip ..

/-! ## Accesses of the hardware -/

theorem standing_linePut {s : State} {k p g bs c lv u} {t : State × Bool} (h : linePut s k p g bs c lv u = .ok t) : Standing s t.1 := by
  unfold linePut at h
  split at h
  · cases h
  · split at h
    · cases h
    · split at h
      · cases h
      · injection h with h
        exact h ▸ same
  · split at h
    · cases h
    · split at h
      · cases h
      · simp only [] at h
        split at h
        · cases h
        · injection h with h
          exact h ▸ (standing_performAt ..).trans (standing_trip ..)

/-- One line after another, while none faults. -/
theorem standing_lines {α : Type} (f : State × Bool → α → Dev (State × Bool)) (hf : ∀ x a y, f x a = .ok y → Standing x.1 y.1)
    (l : List α) (s : State) (r : Dev (State × Bool)) (hr : ∀ x, r = .ok x → Standing s x.1) (x : State × Bool)
    (hx : l.foldl (fun r a => match r with
      | .ok x => (match f x a with
        | .ok y => .ok (y.1, x.2 || y.2)
        | e => e)
      | e => e) r = .ok x) : Standing s x.1 := by
  induction l generalizing r with
  | nil => exact hr x hx
  | cons a l ih =>
    refine ih _ (fun y hy => ?_) hx
    cases r with
    | ok z =>
      simp only [] at hy
      split at hy
      · next w hw =>
        injection hy with hy
        exact hy ▸ (hr z rfl).trans (hf z a w hw)
      · next hw => exact absurd hy (hw y)
    | _ => cases hy

theorem standing_gpaStore {s : State} {k p g bs c lv u} {t : State × Bool} (h : gpaStore s k p g bs c lv u = .ok t) : Standing s t.1 := by
  unfold gpaStore at h
  refine standing_lines (fun x (a : Nat × Nat) => linePut x.1 k p a.1 ((bs.drop (a.1 - g)).take a.2) c lv u)
    (fun x a y hy => standing_linePut hy) _ s _ (fun x hx => ?_) t h
  injection hx with hx
  exact hx ▸ refl

theorem standing_noteStored (s : State) (p g w c bs) : Standing s (noteStored s p g w c bs) := by
  unfold noteStored
  split
  · exact refl
  · refine foldState _ (fun b a => ?_) _ s
    unfold noteStore
    split
    · exact refl
    · exact same

theorem standing_gpaWrite {s t : State} {k p g bs c lv u} (h : gpaWrite s k p g bs c lv u = .ok t) : Standing s t := by
  unfold gpaWrite gpaPut at h
  split at h
  · next x hx =>
    injection h with h
    split at hx
    · next y hy =>
      injection hx with hx
      exact h ▸ hx ▸ (standing_gpaStore hy).trans (standing_noteStored ..)
    all_goals cases hx
  all_goals cases h

theorem standing_gpaWriteAll {s t : State} {k p g bs c} (h : gpaWriteAll s k p g bs c = .ok t) : Standing s t := by
  unfold gpaWriteAll at h
  split at h
  · next x hx =>
    injection h with h
    exact h ▸ (standing_gpaStore hx).trans (standing_noteStored ..)
  all_goals cases h

/-! ## Translation -/

theorem standing_walkRead8 (s : State) (k p g l) : Standing s (walkRead8 s k p g l).1 := by
  unfold walkRead8
  split
  · exact standing_readTrips ..
  all_goals exact refl

theorem standing_walkFrom (s : State) (k p va m f l t) : Standing s (walkFrom s k p va m f l t).1 := by
  induction f generalizing s l t with
  | zero => exact refl
  | succ f ih =>
    unfold walkFrom
    simp only []
    have hread := standing_walkRead8 s k p (t + 8 * bits va (43 - 9 * l) 9) l
    split
    · next h =>
      rw [h] at hread
      exact hread
    · next h =>
      rw [h] at hread
      repeat' split
      all_goals first | exact hread | exact hread.trans (ih ..)

theorem standing_walk (s : State) (k p c va) : Standing s (walk s k p c va).1 := by
  have hroot : Standing s (rootOf s k p c).1 := by
    unfold rootOf
    split
    · exact refl
    · next L _ =>
      have hfirst := standing_walkRead8 s k p L.paging.toNat 0
      split
      · next h =>
        rw [h] at hfirst
        exact hfirst
      · next s1 roots h =>
        rw [h] at hfirst
        have hsecond := standing_walkRead8 s1 k p (roots + 8 * (c.toNat % 4096)) 0
        split
        · next h =>
          rw [h] at hsecond
          exact hfirst.trans hsecond
        · next h =>
          rw [h] at hsecond
          exact hfirst.trans hsecond
  unfold walk
  split
  · next h =>
    rw [h] at hroot
    exact hroot
  · next h =>
    rw [h] at hroot
    exact hroot.trans (standing_walkFrom ..)

theorem standing_markLeaf {s t : State} {k p c e pl w} (h : markLeaf s k p c e pl w = .ok t) : Standing s t := by
  unfold markLeaf at h
  simp only [] at h
  generalize (e ||| 0x40 ||| (if w then 0x80 else 0)) = e' at h
  split at h
  · injection h with h
    exact h ▸ refl
  · exact standing_gpaWrite h

theorem standing_installLast (s : State) (w : Who) (e) : Standing s (installLast s w e) := by
  unfold installLast
  split
  · exact same
  · exact refl

theorem standing_installEnt (s : State) (w : Who) (va e) : Standing s (installEnt s w va e) := by
  unfold installEnt
  refine (standing_installLast s w (e.sub (va >>> 16))).trans ?_
  generalize installLast s w (e.sub (va >>> 16)) = s1
  simp only []
  split
  · exact same
  · exact updPkg ..
  · exact refl

theorem standing_translate (s : State) (w : Who) (va wr) : Standing s (Machine.translate s w va wr).1 := by
  have hwalk := standing_walk s w.pkg w.part w.ctx va
  unfold Machine.translate
  simp only []
  generalize walk s w.pkg w.part w.ctx va = x at hwalk
  obtain ⟨s1, x⟩ := x
  cases x <;> simp only []
  all_goals repeat' split
  all_goals first
    | exact refl
    | exact hwalk
    | exact standing_installLast ..
    | (next h => exact hwalk.trans ((standing_markLeaf h).trans (standing_installEnt ..)))

/-! ## Accesses of a context -/

theorem standing_tell (s : State) (e) : Standing s (s.tell e) := same
theorem standing_updPart (s : State) (n f) : Standing s (s.updPart n f) := same
theorem standing_updCore (s : State) (g f) : Standing s (s.updCore g f) := same
theorem standing_sent (s : State) (c m h) : Standing s { s with cores := c, msgs := m, held := h } := same
theorem standing_preempts (s : State) (l) : Standing s { s with preempts := l } := same
theorem standing_scrubContext (s : State) (p c) : Standing s (scrubContext s p c) := same
theorem standing_bar (s : State) (k p q) : Standing s (s.bar k p q) := same

theorem standing_areaFault (s : State) (p c l va) : Standing s (areaFault s p c l va) := by
  unfold areaFault
  split
  · exact same
  · exact refl

theorem standing_ctxGpa (s : State) (p c l va w) : Standing s (ctxGpa s p c l va w).1 := by
  have htranslate := standing_translate s { pkg := homePkg s p, part := p, ctx := c, lvl := l } va w
  unfold ctxGpa
  generalize Machine.translate s { pkg := homePkg s p, part := p, ctx := c, lvl := l } va w = x at htranslate
  obtain ⟨s1, x⟩ := x
  cases x <;> simp only []
  all_goals repeat' split
  all_goals first
    | exact htranslate
    | exact htranslate.trans (standing_areaFault ..)
    | exact htranslate.trans (standing_tell ..)
    | exact htranslate.trans (standing_bar ..)

theorem standing_ctxReadAt (s : State) (p c l va n) : Standing s (ctxReadAt s p c l va n).1 := by
  unfold ctxReadAt
  refine fold _ (fun r : State × Option (List Byte) => r.1) (fun b a => ?_) _ (s, some [])
  obtain ⟨b, o⟩ := b
  cases o with
  | none => exact refl
  | some o =>
    have hgpa := standing_ctxGpa b p c l a.1 false
    simp only []
    generalize ctxGpa b p c l a.1 false = x at hgpa
    obtain ⟨s1, x⟩ := x
    cases x with
    | none => exact hgpa
    | some g =>
      simp only []
      split
      · exact hgpa.trans (standing_readTrips ..)
      · exact hgpa.trans (standing_bar ..)
      · exact hgpa.trans (standing_tell ..)
      · exact hgpa.trans (standing_areaFault ..)
      · exact hgpa.trans (standing_areaFault ..)

theorem standing_ctxWriteAt (s : State) (p c l va bs) : Standing s (ctxWriteAt s p c l va bs).1 := by
  unfold ctxWriteAt
  refine fold _ (fun r : State × Bool => r.1) (fun b a => ?_) _ (s, true)
  split
  · exact refl
  · have hgpa := standing_ctxGpa b.1 p c l a.1 true
    generalize ctxGpa b.1 p c l a.1 true = x at hgpa
    obtain ⟨s1, x⟩ := x
    cases x with
    | none => exact hgpa
    | some g =>
      simp only []
      split
      · next h => exact hgpa.trans (standing_gpaWriteAll h)
      · exact hgpa.trans (standing_bar ..)
      · exact hgpa.trans (standing_tell ..)
      · exact hgpa.trans (standing_areaFault ..)
      · exact hgpa.trans (standing_areaFault ..)

/-! ## Engines, blocks and nodes -/

theorem standing_clearWb (s : State) (e) : Standing s (clearWb s e) := by
  unfold clearWb
  split
  · split
    · next h => exact standing_gpaWrite h
    · exact same
    · exact same
  · exact same
  · exact same

theorem standing_abortPeers (s : State) (n gone) : Standing s (abortPeers s n gone) := by
  induction n generalizing s gone with
  | zero => exact refl
  | succ n ih =>
    unfold abortPeers
    simp only []
    split
    · exact refl
    · exact Standing.trans same (ih _ _)

theorem wantsFiltered_fst (m : AtsWant → Bool) (e : Nat × Pkg) : (if e.2.atsWant.isEmpty then e
    else (e.1, { e.2 with atsWant := e.2.atsWant.filter m })).1 = e.1 := by
  split <;> rfl

theorem standing_stopEngines (s : State) (f) : Standing s (stopEngines s f) := by
  unfold stopEngines
  simp only []
  have hclear : Standing s ((s.engs.filter fun e => f e.2).foldl (fun s e => if e.2.migrating then clearWb s e.2 else s) s) := by
    refine foldState _ (fun b e => ?_) _ s
    split
    · exact standing_clearWb ..
    · exact refl
  generalize (s.engs.filter fun e => f e.2).foldl (fun s e => if e.2.migrating then clearWb s e.2 else s) s = a at hclear ⊢
  have habort := Standing.trans hclear (Standing.trans (t := { a with engs := a.engs.filter fun e => !f e.2 }) same
    (standing_abortPeers { a with engs := a.engs.filter fun e => !f e.2 } a.engs.length
      (s.engs.filter fun e => f e.2)))
  generalize abortPeers { a with engs := a.engs.filter fun e => !f e.2 } a.engs.length
    (s.engs.filter fun e => f e.2) = b at habort ⊢
  exact habort.trans (mapPkgs (wantsFiltered_fst _))

theorem recountIf_now (c : Prop) [Decidable c] (o s : State) : (if c then s else recount o s).now = s.now := by
  obtain ⟨m, hm⟩ := recount_eq o s
  rw [hm]
  split <;> rfl

theorem recountIf_pkgs (c : Prop) [Decidable c] (o s : State) : (if c then s else recount o s).pkgs = s.pkgs := by
  obtain ⟨m, hm⟩ := recount_eq o s
  rw [hm]
  split <;> rfl

theorem standing_dropBlock (s : State) (b k) : Standing s (dropBlock s b k) := by
  unfold dropBlock
  split
  · exact refl
  · refine ⟨recountIf_now .., fun p => ?_⟩
    exact (congrArg (fun l => (Tab.find l p).isSome) (recountIf_pkgs ..)).trans (find_map (wantsFiltered_fst _) s.pkgs p)

theorem standing_journalRetire (s : State) (B) : Standing s (journalRetire s B) := by
  refine mapPkgs (fun e => ?_)
  split <;> rfl

theorem standing_killBlock (s : State) (b) : Standing s (killBlock s b) := by
  unfold killBlock
  split
  · exact refl
  · exact (standing_stopEngines s _).trans ((standing_dropBlock _ b false).trans
      ((standing_journalRetire _ _).trans (Standing.trans same (updPkg ..))))

theorem standing_scrubStores (s : State) (part ctx) : Standing s (scrubStores s part ctx) := by
  unfold scrubStores
  refine foldState _ (fun b g => ?_) _ s
  exact (standing_updCore b g _).trans (updPkg ..)

theorem standing_saveBit (s : State) (p c a i o) : Standing s (saveBit s p c a i o) := by
  have hread := standing_ctxReadAt s p c .h (a + i / 8) 1
  unfold saveBit
  simp only []
  split
  · next h =>
    rw [h] at hread
    exact hread.trans (standing_ctxWriteAt ..)
  · next h =>
    rw [h] at hread
    exact hread

theorem standing_putStatus (s : State) (p q) : Standing s (putStatus s p q) := by
  unfold putStatus
  split
  · exact refl
  · exact standing_ctxWriteAt ..

theorem standing_toldOnce {s t : State} (h : Standing s t) : Standing s (toldOnce s t) := by
  unfold toldOnce
  split
  · exact h.trans same
  · exact h

theorem standing_edges (s : State) (p n) : Standing s (edges s p n).1 := by
  unfold edges
  refine fold _ (fun r : State × List Nat => r.1) (fun b a => ?_) _ (s, [])
  simp only [edgeState]
  split
  · exact refl
  · exact standing_toldOnce (standing_ctxReadAt ..)

theorem standing_nodeStep (s : State) (p q) : Standing s (nodeStep s p q) := by
  unfold nodeStep
  split
  · exact refl
  · next n _ =>
    split
    · exact refl
    · have hput : ∀ (t : State) (n' : Node), Standing t (if n' == n then t else putStatus (updNode t p q fun _ => n') p q) := by
        intro t n'
        split
        · exact refl
        · exact (standing_updPart t ..).trans (standing_putStatus ..)
      exact (standing_edges s p n).trans (hput _ _)

theorem standing_settleNodes (s : State) (p) : Standing s (settleNodes s p) :=
  foldState _ (fun b _ => foldState _ (fun b q => standing_nodeStep b p q) _ b) _ s

theorem standing_killContext (s : State) (part ctx status) : Standing s (killContext s part ctx status) := by
  unfold killContext
  simp only []
  refine Standing.trans ?_ (standing_tell ..)
  refine Standing.trans ?_ (standing_settleNodes ..)
  refine Standing.trans ?_ (foldState _ (fun b q => standing_putStatus b part q) _ _)
  refine Standing.trans ?_ (standing_preempts ..)
  refine Standing.trans ?_ (standing_updPart ..)
  refine Standing.trans ?_ (standing_scrubContext ..)
  refine Standing.trans ?_ (standing_scrubStores ..)
  refine Standing.trans ?_ (standing_stopEngines ..)
  refine Standing.trans ?_ (foldState _ standing_killBlock _ _)
  exact (foldState _ (fun b v => standing_journalRetire b _) _ s).trans (foldState _ (fun b i => standing_saveBit b ..) _ _)

theorem standing_clearPackage (s : State) (pkg) : Standing s (clearPackage s pkg) := by
  unfold clearPackage
  simp only []
  refine Standing.trans ?_ (standing_sent ..)
  refine Standing.trans ?_ (standing_stopEngines ..)
  exact foldState _ (fun b k => (standing_stopEngines b _).trans (standing_dropBlock _ k false)) _ s

end Sys2Proof.StandingProofs

end
section
/-! PROOFS. Resets, power-on, attestation, power and cooling (00_scope.md R6, 17_partitions.md R408, R409). -/

namespace Sys2Proof.ManagementProofs

open Sys2Proof.Machine Sys2Proof.Safety Sys2Proof.Laws Sys2Proof.MemoryProofs Sys2Proof.StandingProofs

variable {s : State} {p : Pkg}

theorem modify_congr {α : Type} {t : Tab α} {n : Nat} {a : α} {f g : α → α} (ha : Tab.find t n = some a) (hfg : f a = g a) :
    Tab.modify t n f = Tab.modify t n g := by
  simp only [Tab.modify, ha, hfg]

/-- Two updates of a package that agree on it. -/
theorem updPkg_congr {pkg : Nat} {f g : Pkg → Pkg} (hp : Tab.find s.pkgs pkg = some p) (hfg : f p = g p) :
    s.updPkg pkg f = s.updPkg pkg g := by
  rw [State.updPkg, modify_congr hp hfg]
  rfl

/-! ## Resets (R6) -/

theorem moveMemory_cores (t : State) (pkg : Nat) (old new : Pkg) : (moveMemory t pkg old new).cores = t.cores := by
  unfold moveMemory
  split <;> rfl

/-- A package without cached lines is as before when memory moves. -/
theorem moveMemory_pkgOf {t : State} {pkg : Nat} {old new : Pkg} (hp : Tab.find t.pkgs pkg = some p) (hl2 : p.l2 = []) :
    (moveMemory t pkg old new).pkgOf pkg = p := by
  have hmap : ∀ (f : Pkg → Pkg) (l : Tab Pkg), Tab.find (l.map fun e => (e.1, f e.2)) pkg = (Tab.find l pkg).map f := by
    intro f l
    induction l with
    | nil => rfl
    | cons e l ih =>
      obtain ⟨k, a⟩ := e
      simp only [List.map_cons, Tab.find]
      split
      · rfl
      · exact ih
  unfold moveMemory
  split
  · rw [State.pkgOf, Tab.get, hp]
    rfl
  · simp only [State.pkgOf, Tab.get]
    rw [hmap (fun q => { q with l2 := q.l2.map fun l => { l with dpaLine := movedDpa pkg old new (l.dpaLine * 64) / 64 } }), hp]
    obtain ⟨⟩ := p
    simp only [] at hl2
    subst hl2
    rfl

theorem clearParts_pkgOf (t : State) (pkg : Nat) : (clearParts t).pkgOf pkg = t.pkgOf pkg := rfl

theorem clearParts_cores (t : State) : (clearParts t).cores = t.cores := rfl

theorem coldReset_row (hp : HasPkg s p) :
    ∃ t, exec .coldReset s = .next t ∧ t.pkgOf s.subject.pkg = { Pkg.reset with refills := s.now / 10000 } ∧
      (∀ c ∈ t.cores, c.1 / 384 ≠ s.subject.pkg) := by
  have hp' : Tab.find s.pkgs s.subject.pkg = some p := hp
  have hexec : exec .coldReset s = execColdReset s := rfl
  have hclear := standing_clearPackage s s.subject.pkg
  have hcores : ∀ c ∈ (clearPackage s s.subject.pkg).cores, c.1 / 384 ≠ s.subject.pkg := fun c hc => by
    simpa using (List.mem_filter.mp hc).2
  simp only [execColdReset, hp', Option.isNone_some, Bool.false_eq_true, if_false] at hexec
  generalize clearPackage s s.subject.pkg = c at hexec hclear hcores
  rw [hclear.now] at hexec
  have hl2 : ({ Pkg.reset with refills := s.now / 10000 } : Pkg).l2 = [] := rfl
  generalize ({ Pkg.reset with refills := s.now / 10000 } : Pkg) = r at hexec hl2 ⊢
  refine ⟨_, hexec, ?_, ?_⟩
  · obtain ⟨q, hq⟩ := Option.isSome_iff_exists.mp ((hclear.found s.subject.pkg).trans (congrArg Option.isSome hp'))
    rw [clearParts_pkgOf]
    refine moveMemory_pkgOf ?_ hl2
    rw [State.updPkg_pkgs, Tab.find_modify, if_pos rfl, hq]
    rfl
  · rw [clearParts_cores, moveMemory_cores]
    exact hcores

theorem powerOn_row (hp : HasPkg s p) (hlayout : validEnts p.layout = []) :
    Answers .powerOn s (if s.subject.flag = true then s.updPkg s.subject.pkg fun _ => { Pkg.reset with refills := s.now / 10000 }
      else (s.updPkg s.subject.pkg fun _ => { Pkg.reset with refills := s.now / 10000, halmetUp := false, recovery := true }).tell
        (.recovery s.subject.pkg)) := by
  have hp' : Tab.find s.pkgs s.subject.pkg = some p := hp
  change execPowerOn s = _
  simp only [execPowerOn, hp', hlayout, List.isEmpty_nil, Bool.not_true, Bool.false_eq_true, if_false]
  split <;> rfl

/-! ## Attestation (R408) -/

theorem answerSpdm_up (hp : HasPkg s p) (hup : p.halmetUp = true) (hlink : p.linkUp = true) {f : Pkg → SpdmAnswer} {a : SpdmAnswer}
    (ha : f p = a) : answerSpdm s f = .next (s.updPkg s.subject.pkg fun p => { p with spdm := p.spdm ++ [a] }) := by
  have hp' : Tab.find s.pkgs s.subject.pkg = some p := hp
  simp only [answerSpdm, hp', hup, hlink, Bool.not_true, Bool.or_self, Bool.false_eq_true, if_false]
  rw [updPkg_congr (g := fun p => { p with spdm := p.spdm ++ [a] }) hp' (by rw [ha])]

theorem spdm_row {i : Instr} {a : SpdmAnswer} (hi : (i, a) ∈ spdmRows p) (hp : HasPkg s p) (hup : p.halmetUp = true)
    (hlink : p.linkUp = true) : Answers i s (s.updPkg s.subject.pkg fun p => { p with spdm := p.spdm ++ [a] }) := by
  simp only [spdmRows, List.mem_cons, Prod.mk.injEq, List.not_mem_nil, or_false] at hi
  rcases hi with ⟨rfl, rfl⟩ | ⟨rfl, rfl⟩ | ⟨rfl, rfl⟩ | ⟨rfl, rfl⟩ | ⟨rfl, rfl⟩ | ⟨rfl, rfl⟩ | ⟨rfl, rfl⟩
  all_goals exact answerSpdm_up hp hup hlink rfl

/-! ## Power and cooling (R409) -/

theorem throttle_row (hp : HasPkg s p) (hdie : s.subject.idx < 8) (hclock : 135 < Tab.get 2700 p.clocks s.subject.idx) :
    Answers .throttle s (s.updPkg s.subject.pkg fun q =>
      { q with clocks := Tab.set q.clocks s.subject.idx (Tab.get 2700 p.clocks s.subject.idx - 135) }) := by
  have hp' : Tab.find s.pkgs s.subject.pkg = some p := hp
  change execThrottle s = _
  simp only [execThrottle, hp', decide_eq_false (Nat.not_le.mpr hdie), decide_eq_false (Nat.not_le.mpr hclock), Bool.or_self,
    Bool.false_eq_true, if_false]

theorem criticalTemperature_row (hp : HasPkg s p) :
    ∃ t, exec .criticalTemperature s = .next t ∧ (t.pkgOf s.subject.pkg).stopped = true ∧
      HEvent.critical s.subject.pkg ∈ t.told := by
  have hp' : Tab.find s.pkgs s.subject.pkg = some p := hp
  have hexec : exec .criticalTemperature s = execCriticalTemperature s := rfl
  simp only [execCriticalTemperature, hp'] at hexec
  refine ⟨_, hexec, ?_, List.mem_append_right _ (List.mem_singleton.mpr rfl)⟩
  have hkilled := Standing.foldState (fun t (w : Nat × Word) => killContext t w.1 w.2) (fun t w => standing_killContext t w.1 w.2 9)
    ((validEnts p.layout).flatMap fun e => (partContexts s e.podPart.toNat).map fun c => (e.podPart.toNat, c)) s
  have hfound := hkilled.found s.subject.pkg
  rw [hp'] at hfound
  obtain ⟨q, hq⟩ := Option.isSome_iff_exists.mp hfound
  exact congrArg Pkg.stopped (pkgOf_updPkg_self hq)

theorem peerToPeer_row (hp : HasPkg s p) :
    Answers .peerToPeerRequest s (s.updPkg s.subject.pkg fun p => { p with refusedP2p := p.refusedP2p + 1 }) := by
  have hp' : Tab.find s.pkgs s.subject.pkg = some p := hp
  change execPeerToPeerRequest s = _
  simp only [execPeerToPeerRequest, hp', Option.isNone_some, Bool.false_eq_true, if_false]

/-- Settles O57: a cold reset and the critical temperature go through what the cleared blocks and killed contexts leave
standing; the other rows unfold. -/
theorem managementSteps : Obligations.ManagementSteps := by
  unfold Obligations.ManagementSteps
  exact ⟨fun s p => coldReset_row, fun s p => powerOn_row, fun s p i a => spdm_row, fun s p => throttle_row,
    fun s p => criticalTemperature_row, fun s p => peerToPeer_row⟩

end Sys2Proof.ManagementProofs

end

section
/-! PROOFS. The fabric: requests at their home, the plane map, the quiesce and the scrub (05_fabric.md R93 to R106,
03_memory.md R60). -/

namespace Sys2Proof.FabricStepProofs

open Sys2Proof.Machine Sys2Proof.Safety Sys2Proof.Laws Sys2Proof.MemoryProofs

variable {s t : State} {p : Pkg} {m : Msg} {d : Nat}

/-! ## Requests (R95, R99 to R102) -/

theorem homeStep_arrives {k : Nat} (hm : MsgAt s m d .flying) (hkind : msgKind m = k) (hbusy : lineBusy s s.subject.idx m d = false)
    (hsent : sentBefore s m.req.pkg m.plane (d >>> 44) m.stamp = false) (hstops : homeStops s m d = false) :
    homeStep s k = .next (arriveMsg s s.subject.idx m d) := by
  obtain ⟨hfind, htgt, hstate⟩ := hm
  simp only [homeStep, hfind, htgt, hstate, hkind, bne_self_eq_false, hbusy, hsent, hstops, Bool.or_self, Bool.false_eq_true, if_false]

theorem home_row {i : Instr} {k : Nat} (hi : (i, k) ∈ [(Instr.read, 0), (Instr.write, 1), (Instr.atomic, 2)])
    (hm : MsgAt s m d .flying) (hkind : msgKind m = k) (hbusy : lineBusy s s.subject.idx m d = false)
    (hsent : sentBefore s m.req.pkg m.plane (d >>> 44) m.stamp = false) (hstops : homeStops s m d = false) :
    Answers i s (arriveMsg s s.subject.idx m d) := by
  simp only [List.mem_cons, Prod.mk.injEq, List.not_mem_nil, or_false] at hi
  rcases hi with ⟨rfl, rfl⟩ | ⟨rfl, rfl⟩ | ⟨rfl, rfl⟩
  all_goals exact homeStep_arrives hm hkind hbusy hsent hstops

/-- The home performs a request, holds it for its own version, or refuses it with that. -/
theorem arrive_home (id : Nat) (hreplay : m.replay = false) :
    let home := s.pkgOf (d >>> 44)
    (Tab.get 0 home.map (bucketOf d) = m.plane →
      let r := performLine s m.req d
      (arriveMsg s id m d).mem = r.1.mem ∧ Tab.find (arriveMsg s id m d).msgs id = some { m with state := .answered r.2 }) ∧
    (Tab.get 0 home.map (bucketOf d) ≠ m.plane → verAhead m.ver home.ver.toNat = true →
      arriveMsg s id m d = setMsgState s id m .heldHome) ∧
    (Tab.get 0 home.map (bucketOf d) ≠ m.plane → verAhead m.ver home.ver.toNat = false →
      arriveMsg s id m d = setMsgState s id m (.retryBack home.ver.toNat)) := by
  refine ⟨fun hmap => ?_, fun hmap hver => ?_, fun hmap hver => ?_⟩
  · have hserve : arriveMsg s id m d = setMsgState ((performLine s m.req d).1.updPkg (d >>> 44) fun p =>
        windowPut p m.req.pkg m.origin m.seq (performLine s m.req d).2) id m (.answered (performLine s m.req d).2) := by
      simp only [arriveMsg, hreplay, hmap, beq_self_eq_true, Bool.or_true, if_true, serveMsg, Bool.false_eq_true, if_false]
    rw [hserve]
    exact ⟨rfl, Tab.find_set_self ..⟩
  · simp only [arriveMsg, hreplay, beq_eq_false_iff_ne.mpr hmap, Bool.or_self, Bool.false_eq_true, if_false, hver, if_true]
  · simp only [arriveMsg, hreplay, beq_eq_false_iff_ne.mpr hmap, Bool.or_self, Bool.false_eq_true, if_false, hver]

theorem answerStep_settles {a : Answer} {data : Bool} (hm : MsgAt s m d (.answered a)) (hdata : msgReturns m = data) :
    answerStep s data = .next (settleMsg s s.subject.idx m a) := by
  obtain ⟨hfind, htgt, hstate⟩ := hm
  simp only [answerStep, hfind, htgt, hstate, hdata, beq_self_eq_true, if_true]

theorem answer_row {a : Answer} {i : Instr} {data : Bool} (hi : (i, data) ∈ [(Instr.resp, true), (Instr.ack, false)])
    (hm : MsgAt s m d (.answered a)) (hdata : msgReturns m = data) : Answers i s (settleMsg s s.subject.idx m a) := by
  simp only [List.mem_cons, Prod.mk.injEq, List.not_mem_nil, or_false] at hi
  rcases hi with ⟨rfl, rfl⟩ | ⟨rfl, rfl⟩
  all_goals exact answerStep_settles hm hdata

theorem retryMap_msg {v : Nat} (hfind : Tab.find s.msgs s.subject.idx = some m) (hstate : m.state = .retryBack v) :
    let t := setMsgState s s.subject.idx m (.retryWait v)
    Answers .retryMap s (injectQueued
      (if verReached (t.pkgOf m.req.pkg).ver.toNat v = true then inject t s.subject.idx else t) m.req.pkg) := by
  change execRetryMap s = _
  simp only [execRetryMap, hfind, hstate]

theorem retryMap_gate {g : GateOp} {v : Nat} (hmsg : Tab.find s.msgs s.subject.idx = none)
    (hgate : Tab.find s.gates s.subject.idx = some g) (hstate : g.state = .retryBack v) :
    let t := setGateOp s s.subject.idx { g with state := .retryWait v }
    Answers .retryMap s (injectQueued
      (if verReached (t.pkgOf (gatePkg s g)).ver.toNat v = true then
        injectGate t s.subject.idx { g with state := .retryBack v } g.home else t) (gatePkg s g)) := by
  have hg : { g with state := .retryBack v } = g := by rw [← hstate]
  change execRetryMap s = _
  simp only [execRetryMap, hmsg, hgate, hstate, hg]

/-! ## Links (R93, R94) -/

theorem flitCrcReplay_row (hp : HasPkg s p) :
    Answers .flitCrcReplay s (s.updPkg s.subject.pkg fun p => { p with crcReplays := p.crcReplays + 1 }) := by
  have hp' : Tab.find s.pkgs s.subject.pkg = some p := hp
  change execFlitCrcReplay s = _
  simp only [execFlitCrcReplay, hp', Option.isNone_some, Bool.false_eq_true, if_false]

theorem dieLaneReplace_row (hp : HasPkg s p) (hdir : s.subject.idx < 20) (hhalf : s.subject.idx ∉ p.half) :
    let n := s.subject.idx
    let used := Tab.get 0 p.spareLanes n
    Answers .dieLaneReplace s (if used < 4 then
        (s.updPkg s.subject.pkg fun p => { p with spareLanes := Tab.set p.spareLanes n (used + 1) }).tell
          (.boundaryLane s.subject.pkg n)
      else (raiseDevstat (s.updPkg s.subject.pkg fun p => { p with half := p.half ++ [n] }) s.subject.pkg 17).tell
        (.boundaryHalf s.subject.pkg n)) := by
  have hp' : Tab.find s.pkgs s.subject.pkg = some p := hp
  have hnew : (decide (20 ≤ s.subject.idx) || p.half.contains s.subject.idx) = false := by simp [hdir, hhalf]
  change execDieLaneReplace s = _
  simp only [execDieLaneReplace, hp', hnew, Bool.false_eq_true, if_false]
  split <;> rfl

/-! ## The plane map (R98) -/

theorem planeShadow_row (hp : HasPkg s p) (hword : s.subject.idx < 16) (hlo : 1 ≤ s.subject.sub) (hhi : s.subject.sub ≤ 3) :
    Answers .planeShadowWrite s (writeShadow s s.subject.pkg (16 * s.subject.idx) s.subject.val s.subject.sub) := by
  have hp' : Tab.find s.pkgs s.subject.pkg = some p := hp
  change execPlaneShadowWrite s = _
  refine if_neg ?_
  simp only [hp', Option.isNone_some, Bool.false_or, Bool.or_eq_true, decide_eq_true_eq, beq_iff_eq]
  omega

theorem planeFreeze_row (hp : HasPkg s p) (hrise : s.subject.val.extractLsb' 8 8 &&& ~~~p.frozen ≠ 0) :
    Answers .planeFreeze s (writeLive s s.subject.pkg s.subject.val) := by
  have hp' : Tab.find s.pkgs s.subject.pkg = some p := hp
  change execPlaneFreeze s = _
  simp only [execPlaneFreeze, hp', beq_eq_false_iff_ne.mpr hrise, Bool.false_eq_true, if_false]

/-- Injecting a request leaves its package's map and version. -/
theorem inject_map (s : State) (id pkg : Nat) : ((inject s id).pkgOf pkg).map = (s.pkgOf pkg).map ∧
    ((inject s id).pkgOf pkg).ver = (s.pkgOf pkg).ver := by
  unfold inject
  split
  · exact ⟨rfl, rfl⟩
  · split
    · exact ⟨rfl, rfl⟩
    · simp only []
      split
      · exact ⟨rfl, rfl⟩
      · exact ⟨pkgField_updPkg (·.map) fun _ => rfl, pkgField_updPkg (·.ver) fun _ => rfl⟩

theorem injectGate_map (s : State) (id : Nat) (g : GateOp) (home pkg : Nat) :
    ((injectGate s id g home).pkgOf pkg).map = (s.pkgOf pkg).map ∧ ((injectGate s id g home).pkgOf pkg).ver = (s.pkgOf pkg).ver := by
  unfold injectGate
  simp only []
  repeat' split
  all_goals first | exact ⟨rfl, rfl⟩ | exact ⟨pkgField_updPkg (·.map) fun _ => rfl, pkgField_updPkg (·.ver) fun _ => rfl⟩

theorem recheckHeld_map (s : State) (k pkg : Nat) : ((recheckHeld s k).pkgOf pkg).map = (s.pkgOf pkg).map ∧
    ((recheckHeld s k).pkgOf pkg).ver = (s.pkgOf pkg).ver := by
  have hfold : ∀ {α : Type} (f : State → α → State), (∀ b a, ((f b a).pkgOf pkg).map = (b.pkgOf pkg).map ∧
      ((f b a).pkgOf pkg).ver = (b.pkgOf pkg).ver) → ∀ (l : List α) (b : State),
      ((l.foldl f b).pkgOf pkg).map = (b.pkgOf pkg).map ∧ ((l.foldl f b).pkgOf pkg).ver = (b.pkgOf pkg).ver := by
    intro α f hf l
    induction l with
    | nil => exact fun b => ⟨rfl, rfl⟩
    | cons a l ih => exact fun b => ⟨(ih _).1.trans (hf b a).1, (ih _).2.trans (hf b a).2⟩
  have hgates := hfold (fun s (g : Nat × GateOp) => injectGate s g.1 g.2 g.2.home) (fun b g => injectGate_map b g.1 g.2 g.2.home pkg)
  have hmsgs := hfold inject (fun b id => inject_map b id pkg)
  unfold recheckHeld
  simp only []
  exact ⟨(hgates _ _).1.trans (hmsgs _ _).1, (hgates _ _).2.trans (hmsgs _ _).2⟩

theorem commitMap_live {pkg : Nat} (hp : Tab.find s.pkgs pkg = some p) (hquiet : p.quiesce = none)
    (hlive : ∀ b, b < 256 → p.live.getLsbD (Tab.get 0 p.shadowMap b) = true) :
    ((commitMap s pkg).pkgOf pkg).map = p.shadowMap ∧ ((commitMap s pkg).pkgOf pkg).ver = p.ver + 1 := by
  have hpkg : s.pkgOf pkg = p := by rw [State.pkgOf, Tab.get, hp]; rfl
  have hany : ((List.range 256).any fun b => !p.live.getLsbD (Tab.get 0 p.shadowMap b)) = false := by
    rw [List.any_eq_false]
    intro b hb
    rw [hlive b (List.mem_range.mp hb)]
    exact Bool.false_ne_true
  have hcommit : commitMap s pkg = copyMap s pkg := by
    simp only [commitMap, hpkg, hany, Bool.false_eq_true, if_false, hquiet]
  rw [hcommit, copyMap, (recheckHeld_map ..).1, (recheckHeld_map ..).2, pkgOf_updPkg_self hp, hpkg]
  exact ⟨rfl, rfl⟩

/-! ## The quiesce (R103 to R106) -/

theorem planeDead_row (s : State) :
    let ps := (s.pkgs.filter fun e => !e.2.left).map (·.1)
    s.subject.sub < 8 → (∃ k ∈ ps, (s.pkgOf k).live.getLsbD s.subject.sub = true) →
    Answers .planeDead s
      ((ps.foldl (fun t k => startQuiesce t s.subject.sub s.subject.flag k) (tickRest s ps)).tell (.planeLost s.subject.sub)) ∧
    ((∀ k ∈ ps, ∀ q, (s.pkgOf k).quiesce = some q → q.ticked = false) → tickRest s ps = s) := by
  intro ps hplane hlive
  constructor
  · obtain ⟨k, hk, hkl⟩ := hlive
    have hknown : (ps.all fun k => !(s.pkgOf k).live.getLsbD s.subject.sub) = false := by
      rw [List.all_eq_false]
      exact ⟨k, hk, by simp [hkl]⟩
    have hsome : ps.isEmpty = false := by
      cases hps : ps with
      | nil => rw [hps] at hk; cases hk
      | cons _ _ => rfl
    refine congrArg Host.Outcome.next ?_
    refine if_neg ?_
    rw [decide_eq_false (Nat.not_le.mpr hplane), hsome, hknown]
    exact Bool.false_ne_true
  · intro hticked
    have hall : (ps.all fun k => (s.pkgOf k).quiesce.all fun q => !q.ticked) = true := by
      rw [List.all_eq_true]
      intro k hk
      cases hq : (s.pkgOf k).quiesce with
      | none => rfl
      | some q => simp [hticked k hk q hq]
    simp only [tickRest, hall, if_true]

theorem planeMapCommit_row (hp : HasPkg s p) (hreplays : p.quiesce.isSome = true → replaysOut s s.subject.pkg = false)
    (hfrozen : ∀ q, p.quiesce = some q → q.back ≠ [] → frozenOut s s.subject.pkg = false) :
    Answers .planeMapCommit s (commitMap s s.subject.pkg) := by
  have hp' : Tab.find s.pkgs s.subject.pkg = some p := hp
  have hready : ((p.quiesce.isSome && replaysOut s s.subject.pkg) ||
      ((p.quiesce.any fun q => !q.back.isEmpty) && frozenOut s s.subject.pkg)) = false := by
    cases hq : p.quiesce with
    | none => rfl
    | some q =>
      rw [hreplays (by rw [hq]; rfl)]
      by_cases hback : q.back = []
      · simp [hback]
      · simp [hfrozen q hq hback]
  change execPlaneMapCommit s = _
  simp only [execPlaneMapCommit, hp', hready, Bool.false_eq_true, if_false]

theorem quiesceReport_row {q : Quiesce} (hq : (s.pkgOf s.subject.pkg).quiesce = some q) (hcoming : s.subject.idx ∈ q.coming) :
    Answers .quiesceReport s (tryResume (s.updPkg s.subject.pkg fun p =>
      { p with quiesce := some { q with coming := q.coming.erase s.subject.idx, reports := q.reports ++ [s.subject.idx] } })
      s.subject.pkg) := by
  change execQuiesceReport s = _
  simp only [execQuiesceReport, hq, List.contains_iff_mem.mpr hcoming, Bool.not_true, Bool.false_eq_true, if_false]

theorem packageFenceOut_row {q : Quiesce} (hq : (s.pkgOf s.subject.pkg).quiesce = some q) (hreports : s.subject.idx ∉ q.reports)
    (hawaited : s.subject.idx ∈ awaited s s.subject.pkg) (hbound : q.start + 200000 * (q.dead ++ q.back).length ≤ s.now) :
    let t := s.updPkg s.subject.pkg fun p => { p with fenced := p.fenced ++ [s.subject.idx] }
    Answers .packageFenceOut s (tryResume
      ((failGates (failMsgs t 4 fun m => m.req.pkg == s.subject.pkg && remoteMsg m == some s.subject.idx) s.subject.pkg).tell
        (.fencedOut s.subject.idx))
      s.subject.pkg) := by
  have hlate : (q.reports.contains s.subject.idx || !(awaited s s.subject.pkg).contains s.subject.idx ||
      decide (s.now < q.start + 200000 * (q.dead ++ q.back).length)) = false := by
    rw [List.contains_iff_mem.mpr hawaited, decide_eq_false (Nat.not_lt.mpr hbound)]
    simpa using hreports
  change execPackageFenceOut s = _
  simp only [execPackageFenceOut, hq, hlate, Bool.false_eq_true, if_false]

/-! ## The scrub (R60) -/

/-- The scrub reaches a line in a period. -/
def reachLine (s : State) (pkg line : Nat) : State :=
  s.updPkg pkg fun p => { p with scrubbed := Tab.set p.scrubbed line (scrubPeriod s p) }

/-- The package of a line that the scrub has reached, with the error it corrects. -/
def reachedPkg (p : Pkg) (line period n : Nat) (flag : Bool) : Pkg :=
  { p with
    scrubbed := Tab.set p.scrubbed line period
    corrected := if flag then Tab.set p.corrected n (Tab.get 0 p.corrected n + 1) else p.corrected }

theorem reachLine_found {pkg line : Nat} (hp : Tab.find s.pkgs pkg = some p) :
    Tab.find (reachLine s pkg line).pkgs pkg = some { p with scrubbed := Tab.set p.scrubbed line (scrubPeriod s p) } := by
  rw [reachLine, State.updPkg_pkgs, Tab.find_modify, if_pos rfl, hp]
  rfl

theorem countCorrected_eq (s : State) (pkg n : Nat) : ∃ l, countCorrected s pkg n =
    { (s.updPkg pkg fun p => { p with corrected := Tab.set p.corrected n (Tab.get 0 (s.pkgOf pkg).corrected n + 1) }) with told := l } := by
  unfold countCorrected
  simp only []
  split <;> exact ⟨_, rfl⟩

theorem corrected_reached {pkg line n : Nat} (hp : Tab.find s.pkgs pkg = some p) (flag : Bool) :
    let b := if flag then countCorrected (reachLine s pkg line) pkg n else reachLine s pkg line
    b.mem = s.mem ∧ b.bad = s.bad ∧ b.pkgOf pkg = reachedPkg p line (scrubPeriod s p) n flag := by
  have hfound := reachLine_found (line := line) hp
  have hpkg : (reachLine s pkg line).pkgOf pkg = { p with scrubbed := Tab.set p.scrubbed line (scrubPeriod s p) } := by
    rw [State.pkgOf, Tab.get, hfound]
    rfl
  cases flag with
  | true =>
    obtain ⟨l, hl⟩ := countCorrected_eq (reachLine s pkg line) pkg n
    simp only [if_true]
    rw [hl]
    refine ⟨rfl, rfl, (pkgOf_updPkg_self hfound).trans ?_⟩
    rw [hpkg]
    rfl
  | false => exact ⟨rfl, rfl, hpkg⟩

/-- The failing units of a line are told to H. -/
theorem scrubTells (s : State) (pkg : Nat) (us : List Nat) :
    ∃ l, us.foldl (fun s x => if s.bad.contains x then s.tell (.scrubFound pkg (x * 32)) else s) s = { s with told := l } ∧
      (∀ e ∈ s.told, e ∈ l) ∧ ∀ u ∈ us, u ∈ s.bad → HEvent.scrubFound pkg (u * 32) ∈ l := by
  induction us generalizing s with
  | nil => exact ⟨s.told, rfl, fun e he => he, fun u hu => absurd hu (List.not_mem_nil)⟩
  | cons x us ih =>
    rw [List.foldl_cons]
    split
    · next hbad =>
      obtain ⟨l, hl, hkept, htold⟩ := ih (s.tell (.scrubFound pkg (x * 32)))
      refine ⟨l, hl, fun e he => hkept e (List.mem_append_left _ he), fun u hu hub => ?_⟩
      rcases List.mem_cons.mp hu with rfl | hu
      · exact hkept _ (List.mem_append_right _ (List.mem_singleton.mpr rfl))
      · exact htold u hu hub
    · next hbad =>
      obtain ⟨l, hl, hkept, htold⟩ := ih s
      refine ⟨l, hl, hkept, fun u hu hub => ?_⟩
      rcases List.mem_cons.mp hu with rfl | hu
      · exact absurd (List.contains_iff_mem.mpr hub) hbad
      · exact htold u hu hub

/-- The two units of a line. -/
theorem unit_of_line {pkg off u : Nat} (hu : u / 2 = (pkg * 2 ^ 44 + off) / 64) :
    u = (pkg <<< 44 + off / 64 * 64) / 32 ∨ u = (pkg <<< 44 + off / 64 * 64) / 32 + 1 := by
  rw [Nat.shiftLeft_eq]
  omega

theorem backgroundScrub_row (hp : HasPkg s p) (hoff : s.subject.off < 2 ^ 41)
    (hdue : Tab.get 0 p.scrubbed (s.subject.off / 64) < scrubPeriod s p) :
    ∃ t, exec .backgroundScrub s = .next t ∧ t.mem = s.mem ∧ t.bad = s.bad ∧
      Tab.get 0 (t.pkgOf s.subject.pkg).scrubbed (s.subject.off / 64) = scrubPeriod s p ∧
      (s.subject.flag = true → Tab.get 0 (t.pkgOf s.subject.pkg).corrected (scrubUnit p (s.subject.off / 64 * 64)) =
        Tab.get 0 p.corrected (scrubUnit p (s.subject.off / 64 * 64)) + 1) ∧
      ∀ u ∈ s.bad, u / 2 = (s.subject.pkg * 2 ^ 44 + s.subject.off) / 64 →
        HEvent.scrubFound s.subject.pkg (u * 32) ∈ t.told := by
  have hp' : Tab.find s.pkgs s.subject.pkg = some p := hp
  have hline : (decide (2 ^ 35 ≤ s.subject.off / 64) || decide (scrubPeriod s p ≤ Tab.get 0 p.scrubbed (s.subject.off / 64))) = false := by
    rw [decide_eq_false (Nat.not_le.mpr hdue), decide_eq_false (by omega)]
    rfl
  have hrow : execBackgroundScrub s = .next ([(s.subject.pkg <<< 44 + s.subject.off / 64 * 64) / 32,
      (s.subject.pkg <<< 44 + s.subject.off / 64 * 64) / 32 + 1].foldl
      (fun t x => if t.bad.contains x then t.tell (.scrubFound s.subject.pkg (x * 32)) else t)
      (if s.subject.flag then countCorrected (reachLine s s.subject.pkg (s.subject.off / 64)) s.subject.pkg
        (scrubUnit p (s.subject.off / 64 * 64)) else reachLine s s.subject.pkg (s.subject.off / 64))) := by
    simp only [execBackgroundScrub, hp', hline, Bool.false_eq_true, if_false]
    rfl
  obtain ⟨hmem, hbad, hreached⟩ := corrected_reached (line := s.subject.off / 64)
    (n := scrubUnit p (s.subject.off / 64 * 64)) hp' s.subject.flag
  obtain ⟨l, hl, -, htold⟩ := scrubTells (if s.subject.flag then
      countCorrected (reachLine s s.subject.pkg (s.subject.off / 64)) s.subject.pkg
        (scrubUnit p (s.subject.off / 64 * 64))
      else reachLine s s.subject.pkg (s.subject.off / 64)) s.subject.pkg
    [(s.subject.pkg <<< 44 + s.subject.off / 64 * 64) / 32, (s.subject.pkg <<< 44 + s.subject.off / 64 * 64) / 32 + 1]
  rw [hl] at hrow
  refine ⟨_, hrow, hmem, hbad, ?_, fun hflag => ?_, fun u hu hul => htold u ?_ (hbad ▸ hu)⟩
  · exact (congrArg (fun q : Pkg => Tab.get 0 q.scrubbed (s.subject.off / 64)) hreached).trans (Tab.get_set_self ..)
  · refine (congrArg (fun q : Pkg => Tab.get 0 q.corrected (scrubUnit p (s.subject.off / 64 * 64))) hreached).trans ?_
    rw [hflag]
    exact Tab.get_set_self ..
  · simpa using unit_of_line hul

/-- Settles O55: the rows unfold; a commit goes through what injecting leaves of the package, the scrub through what it
tells. -/
theorem fabricSteps : Obligations.FabricSteps := by
  unfold Obligations.FabricSteps
  exact ⟨fun s m d i k => home_row, fun s id m d => arrive_home id, fun s m d a i data => answer_row,
    fun s m v => retryMap_msg, fun s g v => retryMap_gate, fun s p => flitCrcReplay_row, fun s p => dieLaneReplace_row,
    fun s p => planeShadow_row, fun s p => planeFreeze_row, planeDead_row, fun s p => planeMapCommit_row,
    fun s pkg p => commitMap_live, fun s q => quiesceReport_row, fun s q => packageFenceOut_row, fun s p => backgroundScrub_row⟩

end Sys2Proof.FabricStepProofs

end

section
/-! PROOFS. The layout of a package: commits, ticks, scrubs, frame releases and the loss of units (17_partitions.md R388 to
R398). -/

namespace Sys2Proof.LayoutProofs

open Sys2Proof.Machine Sys2Proof.Safety Sys2Proof.Laws Sys2Proof.MemoryProofs

variable {s t : State} {p : Pkg} {pkg : Nat}

theorem pkgOf_found (hp : Tab.find s.pkgs pkg = some p) : s.pkgOf pkg = p := by
  rw [State.pkgOf, Tab.get, hp]
  rfl

/-! ## What a tick settles -/

/-- The part of a package that commits and ticks move. -/
def tickView (p : Pkg) : Tab LayoutEnt × Tab LayoutEnt × Word × List ScrubWhat × Bool :=
  (p.layout, p.shadow, p.version, p.commitScrubs, p.committing)

/-- A package stands with a view. -/
def Ticks (s : State) (pkg : Nat) (v : Tab LayoutEnt × Tab LayoutEnt × Word × List ScrubWhat × Bool) : Prop :=
  ∃ q, Tab.find s.pkgs pkg = some q ∧ tickView q = v

section Ticks

variable {v : Tab LayoutEnt × Tab LayoutEnt × Word × List ScrubWhat × Bool}

theorem ticks_pkgOf (h : Ticks s pkg v) : tickView (s.pkgOf pkg) = v := by
  obtain ⟨q, hq, hv⟩ := h
  rw [pkgOf_found hq, hv]

theorem ticks_same (h : Ticks s pkg v) (hp : t.pkgs = s.pkgs) : Ticks t pkg v := by
  rw [Ticks, hp]
  exact h

theorem ticks_updPkg (h : Ticks s pkg v) {k : Nat} {f : Pkg → Pkg} (hf : ∀ q, tickView (f q) = tickView q) :
    Ticks (s.updPkg k f) pkg v := by
  obtain ⟨q, hq, hv⟩ := h
  by_cases hk : k = pkg
  · exact ⟨f q, by rw [State.updPkg_pkgs, Tab.find_modify, if_pos hk, hk, hq]; rfl, (hf q).trans hv⟩
  · exact ⟨q, by rw [State.updPkg_pkgs, Tab.find_modify, if_neg hk, hq], hv⟩

theorem find_mapSnd (f : Pkg → Pkg) (l : Tab Pkg) (k : Nat) :
    Tab.find (l.map fun e => (e.1, f e.2)) k = (Tab.find l k).map f := by
  induction l with
  | nil => rfl
  | cons e l ih =>
    obtain ⟨n, a⟩ := e
    simp only [List.map_cons, Tab.find]
    split
    · rfl
    · exact ih

theorem ticks_foldl {α : Type} {f : State → α → State} (hf : ∀ b a, Ticks b pkg v → Ticks (f b a) pkg v) (l : List α)
    (h : Ticks s pkg v) : Ticks (l.foldl f s) pkg v := by
  induction l generalizing s with
  | nil => exact h
  | cons a l ih => exact ih (hf s a h)

theorem loseUnit_pkgs (s : State) (a : Nat) : (loseUnit s a).pkgs = s.pkgs := by
  unfold loseUnit
  generalize List.range 8 = l
  induction l generalizing s with
  | nil => rfl
  | cons i l ih => exact ih _

theorem ticks_dropLines (h : Ticks s pkg v) (k : Nat) (f : L2Line → Bool) : Ticks (dropLines s k f) pkg v := by
  unfold dropLines
  simp only []
  refine ticks_foldl (fun b l hb => ?_) _ (ticks_updPkg h fun q => rfl)
  refine ticks_same hb ?_
  repeat' split
  all_goals simp only [loseUnit_pkgs]

theorem ticks_moveMemory (h : Ticks s pkg v) (k : Nat) (old new : Pkg) : Ticks (moveMemory s k old new) pkg v := by
  unfold moveMemory
  split
  · exact h
  · obtain ⟨q, hq, hv⟩ := h
    refine ⟨{ q with l2 := q.l2.map fun l => { l with dpaLine := movedDpa k old new (l.dpaLine * 64) / 64 } }, ?_, hv⟩
    simp only []
    rw [find_mapSnd (fun q => { q with l2 := q.l2.map fun l => { l with dpaLine := movedDpa k old new (l.dpaLine * 64) / 64 } }), hq]
    rfl

theorem ticks_raiseDevstat (h : Ticks s pkg v) (k bit : Nat) : Ticks (raiseDevstat s k bit) pkg v := by
  have hraised : Ticks (s.updPkg k fun p => { p with devstat := p.devstat ||| (1#64 <<< bit) ||| 1 }) pkg v :=
    ticks_updPkg h fun q => rfl
  unfold raiseDevstat
  simp only []
  split
  · exact hraised
  · exact ticks_same hraised rfl

end Ticks

theorem postEvents_pkgs (l : List LayoutEnt) (s : State) (cls : Nat) (v : DWord) :
    (l.foldl (fun s e => postEvent s e.podPart.toNat cls v) s).pkgs = s.pkgs := by
  have hpost : ∀ (s : State) (part : Nat), (postEvent s part cls v).pkgs = s.pkgs := by
    intro s part
    unfold postEvent
    generalize partContexts s part = cs
    induction cs generalizing s with
    | nil => rfl
    | cons c cs ih => exact ih _
  induction l generalizing s with
  | nil => rfl
  | cons e l ih => exact (ih _).trans (hpost ..)

/-! ## Commits (R391) -/

/-- The end of a commit after which nothing more is to commit. -/
theorem endCommit_settled (hp : Tab.find s.pkgs pkg = some p) (hshadow : p.shadow = p.layout) :
    (endCommit s pkg).pkgs = (s.updPkg pkg fun p => { p with committing := false, commitScrubs := [] }).pkgs := by
  have hpkg : (s.updPkg pkg fun p => { p with committing := false, commitScrubs := [] }).pkgOf pkg =
      { p with committing := false, commitScrubs := [] } := by
    rw [pkgOf_updPkg_self hp, pkgOf_found hp]
  unfold endCommit
  simp only []
  rw [hpkg]
  simp only [hshadow, beq_self_eq_true, if_true]
  exact postEvents_pkgs ..

theorem endCommit_row (hp : Tab.find s.pkgs pkg = some p) (hshadow : p.shadow = p.layout) :
    ((endCommit s pkg).pkgOf pkg).committing = false ∧ ((endCommit s pkg).pkgOf pkg).layout = p.layout := by
  have hpkg : (endCommit s pkg).pkgOf pkg = { p with committing := false, commitScrubs := [] } := by
    rw [State.pkgOf, endCommit_settled hp hshadow, ← State.pkgOf, pkgOf_updPkg_self hp, pkgOf_found hp]
  rw [hpkg]
  exact ⟨rfl, rfl⟩

theorem layoutCommit_row (hp : HasPkg s p) : Answers .layoutCommit s (startCommit s s.subject.pkg) := by
  have hp' : Tab.find s.pkgs s.subject.pkg = some p := hp
  change execLayoutCommit s = _
  simp only [execLayoutCommit, hp', Option.isNone_some, Bool.false_eq_true, if_false]

theorem startCommit_refused (hp : Tab.find s.pkgs pkg = some p) (hidle : p.committing = false) (hup : p.recovery = false)
    (herr : commitErr s pkg ≠ 0) (hcode : commitErr s pkg < 16) :
    ((startCommit s pkg).pkgOf pkg).err.toNat = commitErr s pkg ∧ ((startCommit s pkg).pkgOf pkg).layout = p.layout ∧
    ((startCommit s pkg).pkgOf pkg).committing = false ∧ (startCommit s pkg).blocks = s.blocks := by
  have hpkg := pkgOf_found hp
  have hrow : startCommit s pkg = s.updPkg pkg fun p => { p with err := BitVec.ofNat 4 (commitErr s pkg) } := by
    simp only [startCommit, hpkg, hidle, hup, Bool.or_self, Bool.false_eq_true, if_false, bne_iff_ne.mpr herr, if_true]
  rw [hrow, pkgOf_updPkg_self hp, hpkg]
  exact ⟨by simp only [BitVec.toNat_ofNat]; omega, rfl, hidle, rfl⟩

/-! ## The tick (R391, R156) -/

/-- The scrubs of a tick. -/
def tickScrubs (p : Pkg) : List ScrubWhat :=
  (changedQuads p).map ScrubWhat.quad ++ (changedBanks p ++ relistedBanks p).eraseDups.map ScrubWhat.bank ++
    (changedCopy p).map ScrubWhat.copyEng ++ (changedColl p).map ScrubWhat.collEng

/-- The layout that a package takes at its tick. -/
def tickedPkg (old : Pkg) (scrubs : List ScrubWhat) : Pkg :=
  { old with
    layout := old.shadow
    version := old.version + 1
    hsetbase := old.hshadow
    commitScrubs := scrubs
    scrubs := old.scrubs ++ scrubs.filter fun w => !old.scrubs.contains w
    measured := (old.shadow, old.map) }

/-- The tick before the end of its commit. -/
def tickMoved (s : State) (pkg : Nat) (p : Pkg) : State :=
  let s := dropLines s pkg fun l => banksOf p.layout l.part != banksOf p.shadow l.part
  let old := s.pkgOf pkg
  let new := tickedPkg old (tickScrubs p)
  let s := moveMemory (s.updPkg pkg fun _ => new) pkg old new
  let s := (newParts p).foldl (fun s n => s.updCounts pkg n fun _ => {}) s
  let s := { s with engs := s.engs.map fun e : Nat × EngOp => if e.2.phase == .queued then (e.1, rerouted s e.2) else e }
  if lossRetired new && !new.devstat.getLsbD 18 then raiseDevstat s pkg 18 else s

theorem layoutTick_eq (s : State) (pkg : Nat) : layoutTick s pkg =
    if (tickScrubs (s.pkgOf pkg)).isEmpty then endCommit (tickMoved s pkg (s.pkgOf pkg)) pkg else tickMoved s pkg (s.pkgOf pkg) := rfl

theorem ticks_tickMoved (hp : Tab.find s.pkgs pkg = some p) :
    Ticks (tickMoved s pkg p) pkg (p.shadow, p.shadow, p.version + 1, tickScrubs p, p.committing) := by
  unfold tickMoved
  simp only []
  have hdropped := ticks_dropLines ⟨p, hp, rfl⟩ pkg fun l => banksOf p.layout l.part != banksOf p.shadow l.part
  generalize dropLines s pkg (fun l => banksOf p.layout l.part != banksOf p.shadow l.part) = a at hdropped ⊢
  obtain ⟨q, hq, hview⟩ := hdropped
  rw [pkgOf_found hq]
  simp only [tickView, Prod.mk.injEq] at hview
  obtain ⟨hlayout, hshadow, hversion, hscrubs, hcommit⟩ := hview
  have hnew : Ticks (a.updPkg pkg fun _ => tickedPkg q (tickScrubs p)) pkg
      (p.shadow, p.shadow, p.version + 1, tickScrubs p, p.committing) := by
    refine ⟨tickedPkg q (tickScrubs p), ?_, ?_⟩
    · rw [State.updPkg_pkgs, Tab.find_modify, if_pos rfl, hq]
      rfl
    · simp only [tickView, tickedPkg, hshadow, hversion, hcommit]
  have hmoved := ticks_foldl (f := fun s n => s.updCounts pkg n fun _ => {}) (fun b n hb => ticks_updPkg hb fun q => rfl) (newParts p)
    (ticks_moveMemory hnew pkg q (tickedPkg q (tickScrubs p)))
  split
  · refine ticks_raiseDevstat ?_ pkg 18
    exact ticks_same hmoved rfl
  · exact ticks_same hmoved rfl

theorem layoutTick_view (hp : Tab.find s.pkgs pkg = some p) (hcommit : p.committing = true) :
    tickView ((layoutTick s pkg).pkgOf pkg) =
      (p.shadow, p.shadow, p.version + 1, tickScrubs p, decide (tickScrubs p ≠ [])) := by
  have hmoved := ticks_tickMoved hp
  rw [hcommit] at hmoved
  rw [layoutTick_eq, pkgOf_found hp]
  cases hscrubs : tickScrubs p with
  | cons w ws =>
    rw [hscrubs] at hmoved
    exact ticks_pkgOf hmoved
  | nil =>
    rw [hscrubs] at hmoved
    obtain ⟨q, hq, hview⟩ := hmoved
    simp only [tickView, Prod.mk.injEq] at hview
    obtain ⟨hlayout, hshadow, hversion, -, -⟩ := hview
    have hpkg : (endCommit (tickMoved s pkg p) pkg).pkgOf pkg = { q with committing := false, commitScrubs := [] } := by
      rw [State.pkgOf, endCommit_settled hq (hshadow.trans hlayout.symm), ← State.pkgOf, pkgOf_updPkg_self hq, pkgOf_found hq]
    simp only [List.isEmpty_nil, if_true, hpkg, tickView, hlayout, hshadow, hversion, ne_eq, not_true_eq_false, decide_false]

theorem layoutTick_row {s1 : State} {p1 : Pkg} (hp : HasPkg s p) (hcommit : p.committing = true) (hidle : p.commitScrubs = [])
    (hmsgs : ∀ m ∈ s.msgs, oldRequest p s.subject.pkg m.2 = false)
    (hblocks : ∀ e ∈ s.blocks, e.2.core ∉ quadCores s.subject.pkg (changedQuads p))
    (hengs : ∀ e ∈ s.engs, onChangedEngine p s.subject.pkg e.2 = false)
    (hsaved : moveSaved s (quadCores s.subject.pkg (changedQuads p)) = (s1, true)) (hp1 : Tab.find s1.pkgs s.subject.pkg = some p1)
    (hcommit1 : p1.committing = true) :
    let scrubs := (changedQuads p1).map ScrubWhat.quad ++ (changedBanks p1 ++ relistedBanks p1).eraseDups.map ScrubWhat.bank ++
      (changedCopy p1).map ScrubWhat.copyEng ++ (changedColl p1).map ScrubWhat.collEng
    ∃ t, exec .layoutTick s = .next t ∧ (t.pkgOf s.subject.pkg).layout = p1.shadow ∧
      (t.pkgOf s.subject.pkg).version = p1.version + 1 ∧ (t.pkgOf s.subject.pkg).commitScrubs = scrubs ∧
      ((t.pkgOf s.subject.pkg).committing = true ↔ scrubs ≠ []) := by
  have hpkg := pkgOf_found hp
  have hquiet : (!p.committing || !p.commitScrubs.isEmpty || (s.msgs.any fun m => oldRequest p s.subject.pkg m.2) ||
      (s.blocks.any fun e => (quadCores s.subject.pkg (changedQuads p)).contains e.2.core) ||
      (s.engs.any fun e => onChangedEngine p s.subject.pkg e.2)) = false := by
    have hm : (s.msgs.any fun m => oldRequest p s.subject.pkg m.2) = false :=
      List.any_eq_false.mpr fun m hm => by rw [hmsgs m hm]; exact Bool.false_ne_true
    have hb : (s.blocks.any fun e => (quadCores s.subject.pkg (changedQuads p)).contains e.2.core) = false :=
      List.any_eq_false.mpr fun e he => by simpa using hblocks e he
    have he : (s.engs.any fun e => onChangedEngine p s.subject.pkg e.2) = false :=
      List.any_eq_false.mpr fun e he => by rw [hengs e he]; exact Bool.false_ne_true
    rw [hm, hb, he, hcommit, hidle]
    rfl
  have hexec : exec .layoutTick s = execLayoutTick s := rfl
  simp only [execLayoutTick, hpkg, hquiet, Bool.false_eq_true, if_false, hsaved] at hexec
  have hview := layoutTick_view hp1 hcommit1
  simp only [tickView, Prod.mk.injEq] at hview
  obtain ⟨hlayout, -, hversion, hscrubs, hcommitting⟩ := hview
  refine ⟨_, hexec, hlayout, hversion, hscrubs, ?_⟩
  rw [hcommitting]
  exact decide_eq_true_iff

/-! ## Scrubs (R156) -/

/-- What the end of a scrub leaves of its unit. -/
def unitScrubbed (t : State) (pkg : Nat) : ScrubWhat → State
  | .quad n => (quadCores pkg [n]).foldl (fun s g => s.updCore g fun c => { ports := c.ports }) t
  | .copyEng n => dropEngTlb t pkg n
  | .collEng n => dropEngTlb t pkg (32 + n)
  | _ => t

theorem scrubComplete_row {w : ScrubWhat} (hp : HasPkg s p) (hw : p.scrubs[s.subject.idx]? = some w)
    (hquad : ∀ n, w = .quad n → ∀ e ∈ s.blocks, e.2.core ∉ quadCores s.subject.pkg [n]) :
    let t := s.updPkg s.subject.pkg fun p => { p with scrubs := p.scrubs.erase w, commitScrubs := p.commitScrubs.erase w }
    let u := unitScrubbed t s.subject.pkg w
    Answers .scrubComplete s (wakeBehind (if p.commitScrubs == [w] then endCommit u s.subject.pkg else u)) := by
  have hpkg := pkgOf_found hp
  change execScrubComplete s = _
  cases w with
  | quad n =>
    have hfree : (s.blocks.any fun e => (quadCores s.subject.pkg [n]).contains e.2.core) = false :=
      List.any_eq_false.mpr fun e he => by simpa using hquad n rfl e he
    simp only [execScrubComplete, hpkg, hw, hfree, Bool.false_eq_true, if_false, unitScrubbed]
  | _ => simp only [execScrubComplete, hpkg, hw, unitScrubbed]

theorem errclr_row (hp : HasPkg s p) : Answers .errclr s (s.updPkg s.subject.pkg fun p => { p with err := 0 }) := by
  have hp' : Tab.find s.pkgs s.subject.pkg = some p := hp
  change execErrclr s = _
  simp only [execErrclr, hp', Option.isNone_some, Bool.false_eq_true, if_false, clearErr]

/-! ## Frames (R394, R395) -/

theorem frameRelease_row (hp : HasPkg s p) : Answers .frameRelease s (writeFrgo s s.subject.pkg s.subject.val) := by
  have hp' : Tab.find s.pkgs s.subject.pkg = some p := hp
  change execFrameRelease s = _
  simp only [execFrameRelease, hp', Option.isNone_some, Bool.false_eq_true, if_false]

/-- Bytes that are cleared read zero, and the others as before. -/
theorem read_zeroRange (m : List Host.Cell) (a n x : Nat) :
    Memory.read (Memory.zeroRange m a n) x = if a ≤ x ∧ x < a + n then 0 else Memory.read m x := by
  induction m with
  | nil =>
    change Memory.unlisted = if a ≤ x ∧ x < a + n then 0 else Memory.unlisted
    exact (ite_self _).symm
  | cons c m ih =>
    obtain ⟨k, b⟩ := c
    simp only [Memory.zeroRange] at ih ⊢
    simp only [List.filter_cons]
    by_cases hk : k < a ∨ a + n ≤ k
    · rw [if_pos (by simpa using hk)]
      simp only [Memory.read]
      by_cases hx : k = x
      · rw [if_pos hx, if_pos hx, if_neg (by omega)]
      · rw [if_neg hx, if_neg hx, ih]
    · rw [if_neg (by simpa using hk), ih]
      simp only [Memory.read]
      by_cases hx : k = x
      · rw [if_pos (by omega), if_pos (by omega)]
      · rw [if_neg hx]

theorem frameReleaseDone_row {r : Nat × Nat × Nat} (hr : (s.pkgOf s.subject.pkg).releases[s.subject.idx]? = some r)
    (hbusy : frameBusy s r.1 = false) :
    ∃ t, exec .frameReleaseDone s = .next t ∧
      ∀ a, Memory.read t.mem a = if a / 2 ^ 25 = r.1 then 0 else Memory.read s.mem a := by
  have hexec : exec .frameReleaseDone s = execFrameReleaseDone s := rfl
  simp only [execFrameReleaseDone, hr, hbusy, Bool.false_eq_true, if_false] at hexec
  refine ⟨_, hexec, fun a => (read_zeroRange s.mem (r.1 <<< 25) (2 ^ 25) a).trans ?_⟩
  have hframe : (r.1 <<< 25 ≤ a ∧ a < r.1 <<< 25 + 2 ^ 25) ↔ a / 2 ^ 25 = r.1 := by
    rw [Nat.shiftLeft_eq]
    omega
  simp only [hframe]

/-! ## H's answers and registers (R78, R388, R396) -/

theorem s2respRelease_row (hp : HasPkg s p) :
    Answers .s2respRelease s (answerHeld s s.subject.pkg s.subject.part s.subject.idx false) := by
  have hp' : Tab.find s.pkgs s.subject.pkg = some p := hp
  change execS2respRelease s = _
  simp only [execS2respRelease, hp', Option.isNone_some, Bool.false_eq_true, if_false]

theorem s2respRefuse_row (hp : HasPkg s p) :
    Answers .s2respRefuse s (answerHeld s s.subject.pkg s.subject.part s.subject.idx true) := by
  have hp' : Tab.find s.pkgs s.subject.pkg = some p := hp
  change execS2respRefuse s = _
  simp only [execS2respRefuse, hp', Option.isNone_some, Bool.false_eq_true, if_false]

theorem placeWrite_row (hp : HasPkg s p) (hsub : s.subject.sub = 4 ∨ s.subject.sub = 8) (halign : s.subject.idx % s.subject.sub = 0)
    (hidx : s.subject.idx < 96) :
    Answers .placeWrite s (writePlace s s.subject.pkg s.subject.idx (leBytes s.subject.sub s.subject.val.toNat)) := by
  have hp' : Tab.find s.pkgs s.subject.pkg = some p := hp
  change execPlaceWrite s = _
  refine if_neg ?_
  rw [hp', halign, decide_eq_false (Nat.not_le.mpr hidx)]
  rcases hsub with hsub | hsub <;> simp [hsub]

theorem registerWrite_row (hp : HasPkg s p) (hflag : s.subject.flag = false) (hlo : winBase ≤ s.subject.off)
    (hhi : s.subject.off < 2 ^ 44) (hsub : s.subject.sub = 4 ∨ s.subject.sub = 8) :
    Answers .registerWrite s (
      if s.subject.off % s.subject.sub ≠ 0 then s.tell (.registerError s.subject.pkg)
      else if s.subject.sub = 8 then writeRegister s s.subject.pkg s.subject.off s.subject.val 3
      else if s.subject.off % 8 = 0 then writeRegister s s.subject.pkg s.subject.off s.subject.val 1
      else writeRegister s s.subject.pkg (s.subject.off - 4) (s.subject.val <<< 32) 2) := by
  have hp' : Tab.find s.pkgs s.subject.pkg = some p := hp
  have hwindow : (decide (s.subject.off < winBase) || decide (2 ^ 44 ≤ s.subject.off)) = false := by
    rw [decide_eq_false (Nat.not_lt.mpr hlo), decide_eq_false (Nat.not_le.mpr hhi)]
    rfl
  have hsize : (s.subject.sub == 4 || s.subject.sub == 8) = true := by
    rcases hsub with hsub | hsub <;> rw [hsub] <;> rfl
  change execRegisterWrite s = _
  simp only [execRegisterWrite, hp', hflag, Bool.false_eq_true, if_false, hwindow, hsize, Bool.not_true, Bool.false_or, bne_iff_ne,
    beq_iff_eq]
  by_cases halign : s.subject.off % s.subject.sub ≠ 0
  · rw [if_pos halign, if_pos halign]
  · rw [if_neg halign, if_neg halign]
    by_cases hwide : s.subject.sub = 8
    · rw [if_pos hwide, if_pos hwide]
    · rw [if_neg hwide, if_neg hwide]
      by_cases hlow : s.subject.off % 8 = 0
      · rw [if_pos hlow, if_pos hlow]
      · rw [if_neg hlow, if_neg hlow]

/-! ## The loss of units (R398) -/

theorem unitLoss_row (hp : HasPkg s p) :
    (s.subject.loss = .core → s.subject.idx < 384 → Answers .unitLoss s ((loseQuad s s.subject.pkg (s.subject.idx / 4)
      [coreGid s.subject.pkg s.subject.idx] (.core s.subject.pkg (physQuad s (coreGid s.subject.pkg s.subject.idx))
        (s.subject.idx % 4))).tell (.unitLost s.subject.pkg .core s.subject.idx))) ∧
    (s.subject.loss = .quad → s.subject.idx < 96 → Answers .unitLoss s ((loseQuad s s.subject.pkg s.subject.idx
      (quadCores s.subject.pkg [s.subject.idx]) (.quad s.subject.pkg (physQuad s (coreGid s.subject.pkg (4 * s.subject.idx))))).tell
        (.unitLost s.subject.pkg .quad s.subject.idx))) ∧
    (s.subject.loss = .die → s.subject.idx < 8 → Answers .unitLoss s ((loseDie s s.subject.pkg s.subject.idx).tell
      (.unitLost s.subject.pkg .die s.subject.idx))) ∧
    (s.subject.loss = .bank → s.subject.idx < 128 → Answers .unitLoss s ((s.updPkg s.subject.pkg fun p =>
      { p with lostBanks := addLost p.lostBanks [s.subject.idx] }).tell (.unitLost s.subject.pkg .bank s.subject.idx))) ∧
    (s.subject.loss = .group → s.subject.idx < 128 → Answers .unitLoss s ((s.updPkg s.subject.pkg fun p =>
      { p with lostGroups := addLost p.lostGroups [s.subject.idx] }).tell (.unitLost s.subject.pkg .group s.subject.idx))) := by
  have hp' : Tab.find s.pkgs s.subject.pkg = some p := hp
  refine ⟨?_, ?_, ?_, ?_, ?_⟩
  all_goals
    intro hloss hidx
    change execUnitLoss s = _
    simp only [execUnitLoss, hp', Option.isNone_some, Bool.false_eq_true, if_false, hloss, Nat.not_le.mpr hidx]

/-- Settles O54: the tick goes through what each of its parts leaves of the package's layout; the other rows unfold. -/
theorem layoutSteps : Obligations.LayoutSteps := by
  unfold Obligations.LayoutSteps
  refine ⟨fun s p => layoutCommit_row, fun s pkg p => startCommit_refused, fun s s1 p p1 => layoutTick_row,
    fun s p w hp hw hquad => ?_, fun s pkg p => endCommit_row, fun s p => errclr_row, fun s p => frameRelease_row,
    fun s r => frameReleaseDone_row, fun s p => s2respRelease_row, fun s p => s2respRefuse_row, fun s p => placeWrite_row,
    fun s p => registerWrite_row, fun s p => unitLoss_row⟩
  have hrow := scrubComplete_row hp hw hquad
  cases w <;> exact hrow

end Sys2Proof.LayoutProofs

end

section
/-! PROOFS. Pre-emption: slices, requests, halts, kills, saves, resumes and H's answers (15_scheduling.md R351, R361,
16_traps.md R367, R376 to R384). -/

namespace Sys2Proof.PreemptProofs

open Sys2Proof.Machine Sys2Proof.Safety Sys2Proof.Laws Sys2Proof.WaitProofs

variable {s t : State}

/-! ## Slices and requests (R361, R376) -/

theorem sliceExpiry_row {part : Nat} {ctx : Word} {L : LayoutEnt} (hrun : (s.coreOf s.subject.idx).running = some (part, ctx))
    (hlayout : layoutOf s (s.subject.idx / 384) part = some L) (hslice : L.slice.toNat ≤ (s.coreOf s.subject.idx).slice)
    (hnew : coreRequested s part ctx s.subject.idx = false) :
    Answers .sliceExpiry s (if otherWork s part s.subject.idx ctx = true then
        requestPreempt (s.updCore s.subject.idx fun c => { c with turns := c.turns.filter (· != ctx) ++ [ctx] }) part ctx
          [s.subject.idx] false
      else s.updCore s.subject.idx fun c => { c with slice := 0 }) := by
  change execSliceExpiry s = _
  simp only [execSliceExpiry, hrun, hlayout, decide_eq_false (Nat.not_lt.mpr hslice), hnew, Bool.or_self, Bool.false_eq_true, if_false]
  split <;> rfl

theorem hPreemptionRequest_row (h : blocksOn s s.subject.part s.subject.ctx s.subject.nums ≠ []) :
    Answers .hPreemptionRequest s (requestPreempt s s.subject.part s.subject.ctx s.subject.nums false) := by
  change execHPreemptionRequest s = _
  exact if_neg (by simpa using h)

theorem graceHalt_row {p : Preempt} (hp : Tab.find s.preempts s.subject.idx = some p) (hdue : p.start + graceTicks s p.part ≤ s.now) :
    Answers .graceHalt s (((blocksOn s p.part p.ctx p.cores).flatMap fun e => blockUnits s e.1).foldl haltUnit
      { s with preempts := Tab.set s.preempts s.subject.idx { p with grace := true } }) := by
  change execGraceHalt s = _
  simp only [execGraceHalt, hp, Nat.not_lt.mpr hdue, if_false]
  split
  · next h => exact congrArg Host.Outcome.next (eq_of_beq h).symm
  · rfl

/-! ## The kill (R379) -/

theorem kill_byHost (hflag : s.subject.flag = true) (hctx : s.subject.ctx ∈ partContexts s s.subject.part) :
    Answers .kill s (killContext s s.subject.part s.subject.ctx) := by
  change execKill s = _
  simp only [execKill, hflag, if_true, List.contains_iff_mem.mpr hctx]

theorem kill_byTimer {p : Preempt} (hflag : s.subject.flag = false) (hp : Tab.find s.preempts s.subject.idx = some p)
    (hdue : p.start + killTicks s p.part ≤ s.now) (hblocks : blocksOn s p.part p.ctx p.cores ≠ []) :
    Answers .kill s (killContext s p.part p.ctx) := by
  have hleft : (decide (s.now < p.start + killTicks s p.part) || (blocksOn s p.part p.ctx p.cores).isEmpty) = false := by
    rw [decide_eq_false (Nat.not_lt.mpr hdue)]
    simpa using hblocks
  change execKill s = _
  simp only [execKill, hflag, Bool.false_eq_true, if_false, hp, hleft]

theorem find_killBlock (s : State) (b k : Nat) : Tab.find (killBlock s b).blocks k = if b = k then none else Tab.find s.blocks k := by
  unfold killBlock
  split
  · next hnone =>
    split
    · next h => rw [← h, hnone]
    · rfl
  · change Tab.find (dropBlock (stopEngines s _) b false).blocks k = _
    rw [find_dropBlock, (same_stopEngines s _).1]

theorem find_killBlocks (bs : List Nat) (s : State) (k : Nat) :
    Tab.find (bs.foldl killBlock s).blocks k = if k ∈ bs then none else Tab.find s.blocks k := by
  induction bs generalizing s with
  | nil => rw [if_neg List.not_mem_nil]; rfl
  | cons b bs ih =>
    rw [List.foldl_cons, ih, find_killBlock]
    by_cases hb : b = k
    · rw [if_pos hb, if_pos (List.mem_cons.mpr (.inl hb.symm)), ite_self]
    · simp only [if_neg hb, List.mem_cons, Ne.symm hb, false_or]

theorem scrubStores_blocks (s : State) (part : Nat) (ctx : Word) : (scrubStores s part ctx).blocks = s.blocks := by
  unfold scrubStores
  simp only []
  generalize (s.cores.filter fun c => c.2.accOwn == ctx && coreIn s part c.1).map (·.1) = gs
  induction gs generalizing s with
  | nil => rfl
  | cons g gs ih => exact ih _

theorem journalRetires_blocks (vs : List Saved) (s : State) : (vs.foldl (fun s v => journalRetire s v.block) s).blocks = s.blocks := by
  induction vs generalizing s with
  | nil => rfl
  | cons v vs ih => exact ih _

theorem scrubContext_blocks (s : State) (part : Nat) (ctx : Word) : (scrubContext s part ctx).blocks = s.blocks := rfl

theorem saveBits_blocks (part : Nat) (ctx : Word) (l : List SaveSlot) (s : State) :
    (l.foldl (fun s i => saveBit s part ctx i.base i.idx false) s).blocks = s.blocks := by
  induction l generalizing s with
  | nil => rfl
  | cons i l ih => exact (ih _).trans (same_saveBit ..).1

theorem putStatuses_blocks (part : Nat) (l : List Nat) (s : State) :
    (l.foldl (fun s q => putStatus s part q) s).blocks = s.blocks := by
  induction l generalizing s with
  | nil => rfl
  | cons q l ih => exact (ih _).trans (same_putStatus ..).1

/-- The blocks after a kill are those that killing the context's blocks one by one leaves. -/
theorem killContext_blocks (s : State) (part : Nat) (ctx : Word) (status : Nat) : ∃ t : State, t.blocks = s.blocks ∧
    (killContext s part ctx status).blocks =
      (((t.blocks.filter fun e => e.2.part == part && e.2.ctx == ctx).map (·.1)).foldl killBlock t).blocks := by
  refine ⟨(((s.blocks.filter fun e => e.2.part == part && e.2.ctx == ctx).filterMap (·.2.saveSlot)) ++
      ((s.partOf part).saved.filter (·.ctx == ctx)).map (·.slot)).foldl (fun s i => saveBit s part ctx i.base i.idx false)
      (((s.partOf part).saved.filter (·.ctx == ctx)).foldl (fun s v => journalRetire s v.block) s),
    (saveBits_blocks ..).trans (journalRetires_blocks ..), ?_⟩
  unfold killContext
  simp only []
  rw [State.tell_blocks, (same_settleNodes _ part).1, putStatuses_blocks]
  simp only [State.updPart_blocks]
  rw [scrubContext_blocks, scrubStores_blocks, (same_stopEngines _ _).1]

theorem killContext_none {part b : Nat} {ctx : Word} {B : Block} (hB : Tab.find (killContext s part ctx).blocks b = some B)
    (hpart : B.part = part) : B.ctx ≠ ctx := by
  intro hctx
  obtain ⟨t, -, hkilled⟩ := killContext_blocks s part ctx 9
  rw [hkilled, find_killBlocks] at hB
  split at hB
  · cases hB
  · next hnot => exact hnot (List.mem_map.mpr ⟨(b, B), List.mem_filter.mpr ⟨Tab.mem_of_find hB, by simp [hpart, hctx]⟩, rfl⟩)

/-! ## Saving and resuming (R383, R384) -/

/-- What a save without a move records of a block. -/
def savedBlock (s : State) (b : Nat) (B : Block) (v : SaveSlot) (k : Block × List (Nat × Quire)) : Saved where
  b := b
  ctx := B.ctx
  slot := v
  core := B.core
  seq := B.seq
  idx := B.idx
  attempt := B.attempt
  moved := false
  block := { k.1 with saveSlot := none }
  quires := k.2
  scratch := cellsOf (s.coreOf B.core).sram B.scratchBase B.scratchLen

theorem blockSave_row {s0 s1 : State} {B : Block} {p : Preempt} {v : SaveSlot} {ks : List (UnitId × Keep)}
    (hB : Tab.find s.blocks s.subject.idx = some B) (hreq : requestOf s B = some p) (hslot : B.saveSlot = some v)
    (hquiet : blockQuiet s s.subject.idx B = true) (hdone : blockDone s s.subject.idx B = false) (hlayout : p.layout = false)
    (hkeeps : keepsOf s B (blockUnits s s.subject.idx) = (s0, some ks)) :
    let k := keptBlock s0 s.subject.idx B ks
    writeParts s0 B.part B.ctx v.at (blockImage s0 s.subject.idx k.1 k.2 (anyHalted s0 s.subject.idx)) = (s1, true) →
    ∃ t sv, exec .blockSave s = .next t ∧ Tab.find t.blocks s.subject.idx = none ∧ sv ∈ (t.partOf B.part).saved ∧
      sv.b = s.subject.idx ∧ sv.ctx = B.ctx ∧ sv.core = B.core ∧ sv.quires = k.2 := by
  intro k hwrite
  have hexec : exec .blockSave s = execBlockSave s := rfl
  simp only [execBlockSave, hB, hreq, hslot, hquiet, hdone, Bool.not_true, Bool.or_self, Bool.false_eq_true, if_false, hkeeps, hlayout,
    Bool.and_false] at hexec
  rw [hwrite] at hexec
  refine ⟨_, savedBlock s0 s.subject.idx B v k, hexec, ?_, ?_, rfl, rfl, rfl, rfl⟩
  · exact (find_dropBlock s1 s.subject.idx true s.subject.idx).trans (if_pos rfl)
  · rw [State.partOf, State.updPart_parts, Tab.get_set_self]
    exact List.mem_append_right _ (List.mem_singleton.mpr rfl)

theorem blockResume_row {v : Saved} (hv : (s.partOf s.subject.part).saved.find? (fun v => v.b == s.subject.idx) = some v)
    (hgang : v.block.node.gang = false) (hresume : resumeOne s s.subject.part v = .took t) : Answers .blockResume s t := by
  have hsaved : ((s.partOf s.subject.part).saved.any fun y => y.b == v.b) = true :=
    List.any_eq_true.mpr ⟨v, List.mem_of_find?_eq_some hv, beq_self_eq_true _⟩
  change execBlockResume s = _
  simp only [execBlockResume, hv, hgang, Bool.false_eq_true, if_false, Bool.false_and, List.foldl_cons, List.foldl_nil, hsaved, if_true,
    hresume]

/-! ## H's answer (R367) -/

theorem heldSlotAnswer_row {I : Issuer} {c : Trap} {pc : DWord} (hw : WaitsFor s I (.heldAtH c pc)) :
    let free := fun s : State => updStrand s I.u fun c => { c with wait := .none }
    (s.subject.sub = 0 → Answers .heldSlotAnswer s (clearPopTrap (dropPages (free s) I.u I.mask) I.u)) ∧
    (s.subject.sub = 1 → Answers .heldSlotAnswer s
      (takeTrap (free (injectedInfo s c).2) I.u { cause := .pageFault, info := (injectedInfo s c).1 })) ∧
    (s.subject.sub = 2 → Answers .heldSlotAnswer s (killContext s I.blk.part I.blk.ctx)) := by
  have hwaiter := waiter_of hw
  refine ⟨fun h => ?_, fun h => ?_, fun h => ?_⟩
  all_goals
    change execHeldSlotAnswer s = _
    simp only [execHeldSlotAnswer, hwaiter, h]

/-- Settles O53: the rows unfold; a kill goes through the blocks that each of its parts leaves, a save through what it
drops and records. -/
theorem preemptionCompletes : Obligations.PreemptionCompletes := by
  unfold Obligations.PreemptionCompletes
  exact ⟨fun s part ctx L => sliceExpiry_row, fun s => hPreemptionRequest_row, fun s p hp _ => graceHalt_row hp, fun s => kill_byHost,
    fun s p => kill_byTimer, fun s part ctx b B => killContext_none, fun s s0 s1 B p v ks => blockSave_row,
    fun s t v => blockResume_row, fun s I c pc => heldSlotAnswer_row⟩

end Sys2Proof.PreemptProofs

end

section
/-! PROOFS. Nodes and blocks: acceptance, withdrawal, status, dispatch and retirement (15_scheduling.md R344 to R357,
14_control.md R312, R320). -/

namespace Sys2Proof.SchedulerProofs

open Sys2Proof.Machine Sys2Proof.Safety Sys2Proof.Laws Sys2Proof.MemoryProofs Sys2Proof.TransferProofs Sys2Proof.TrapProofs

variable {s t : State} {I : Issuer} {f : XR}

/-! ## The words of a front-end (R312, R354, R355) -/

theorem nadd_completes (hi : FrontIssues s (.nadd f) I) (hs : Full [I.srcX f.xa.toNat]) (hd : Free [I.srcX f.xd.toNat])
    (halign : (I.xreg f.xa.toNat).val.toNat % 64 = 0) (hva : (I.xreg f.xa.toNat).val.toNat < 2 ^ 52)
    (hout : outstanding s I.u I.mask = []) :
    let r := acceptGraph s I.blk.part I.blk.ctx (I.st.level == .h) (poolPrio s I) [(I.xreg f.xa.toNat).val.toNat]
    Completes (.nadd f) s I (writeX r.1 I f.xd.toNat (BitVec.ofNat 64 r.2)) := by
  have hspace : (I.xreg f.xa.toNat).val.toNat >>> 52 = 0 := by rw [Nat.shiftRight_eq_div_pow]; omega
  refine front_completes hi rfl ?_
  rw [withSrcs_full hs hd]
  simp only [halign, hspace, bne_self_eq_false, Bool.or_self, Bool.false_eq_true, if_false, hout, List.isEmpty_nil, Bool.not_true]

theorem nwdraw_completes (hi : FrontIssues s (.nwdraw f) I) (hs : Full [I.srcX f.xa.toNat, I.srcX f.xb.toNat])
    (hd : Free [I.srcX f.xd.toNat]) :
    let hit := ((s.partOf I.blk.part).nodes.filter fun n => n.2.ctx == I.blk.ctx && withdrawable n.2 &&
      (n.2.nrec.tag ^^^ (I.xreg f.xa.toNat).val) &&& (I.xreg f.xb.toNat).val == 0).map (·.1)
    let t := withdrawAll s I.blk.part I.blk.ctx ((s.partOf I.blk.part).nodes.length + 1) hit
    Completes (.nwdraw f) s I (writeX (settleNodes t I.blk.part) I f.xd.toNat
      (BitVec.ofNat 64 (withdrawnCount t I.blk.part - withdrawnCount s I.blk.part))) := by
  refine front_completes hi rfl ?_
  rw [withSrcs_full hs hd]

theorem nstat_held (hi : FrontIssues s (.nstat f) I) (hs : Full [I.srcX f.xa.toNat]) (hd : Free [I.srcX f.xd.toNat]) {n : Nat × Node}
    (hn : nodeAt s I.blk.part I.blk.ctx (I.xreg f.xa.toNat).val.toNat = some n) :
    Completes (.nstat f) s I (writeX s I f.xd.toNat (BitVec.ofNat 64 (statusWord n.2))) := by
  refine front_completes hi rfl ?_
  rw [withSrcs_full hs hd]
  simp only [hn]

theorem nstat_loads (hi : FrontIssues s (.nstat f) I) (hs : Full [I.srcX f.xa.toNat]) (hd : Free [I.srcX f.xd.toNat])
    (hn : nodeAt s I.blk.part I.blk.ctx (I.xreg f.xa.toNat).val.toNat = none) (halign : (I.xreg f.xa.toNat).val.toNat % 8 = 0)
    (hr : Reaches s I false true [{ key := 0, thread := 0, va := (I.xreg f.xa.toNat).val.toNat + 0x40, act := .rd 8 }]) :
    Performs (.nstat f) s I false true [{ key := 0, thread := 0, va := (I.xreg f.xa.toNat).val.toNat + 0x40, act := .rd 8 }]
      (.xreg f.xd.toNat true (I.xbank f.xd.toNat)) 0 fun s => emptyX s I f.xd.toNat := by
  refine performs_of_exec ?_ hr
  change execNstat f s = _
  rw [execNstat, onFront_eq hi, withSrcs_full hs hd]
  simp only [hn]
  rw [frontAccess_eq, onceAt_aligned (by omega)]

/-! ## Launch queues (R344, R345) -/

theorem launchQueueTail_row {L : LayoutEnt} (hlayout : layoutOf s s.subject.pkg s.subject.part = some L) (hidx : s.subject.idx < 16)
    (hup : (s.pkgOf s.subject.pkg).linkUp = true)
    (hby : s.subject.flag = true ∨ (s.pkgOf s.subject.pkg).bound s.subject.part = true) :
    Answers .launchQueueTail s
      (updQueue s s.subject.part s.subject.idx fun q => tailWrite q (s.subject.val.setWidth 32) s.subject.flag) := by
  have hmay : (s.subject.flag || (s.pkgOf s.subject.pkg).bound s.subject.part) = true := by simpa using hby
  change execLaunchQueueTail s = _
  simp only [execLaunchQueueTail, hlayout, Option.isNone_some, decide_eq_false (Nat.not_le.mpr hidx), hup, hmay, Bool.not_true,
    Bool.or_self, Bool.false_eq_true, if_false]

/-- A tail within the queue makes entries available, and one beyond it sets ERR. -/
theorem tailWrite_moves {q : LaunchQ} {v : Word} {byH : Bool} (hv : v ≠ q.tail) :
    ((v - q.tail).toNat + (q.tail - q.head).toNat ≤ q.size.toNat →
      (tailWrite q v byH).tail = v ∧ (tailWrite q v byH).err = q.err ∧ (tailWrite q v byH).head = q.head) ∧
    (q.size.toNat < (v - q.tail).toNat + (q.tail - q.head).toNat → tailWrite q v byH = { q with err := true }) := by
  have hmoves : ((v - q.tail).toNat == 0) = false := by
    rw [beq_eq_false_iff_ne]
    intro h
    exact hv (by bv_omega)
  constructor
  · intro hfits
    simp only [tailWrite, hmoves, Bool.false_eq_true, if_false, hfits, if_true, and_self]
  · intro hbeyond
    simp only [tailWrite, hmoves, Bool.false_eq_true, if_false, Nat.not_le.mpr hbeyond]

theorem graphAccept_row {s1 : State} {l : List Byte} {q : LaunchQ} (hq : Tab.get {} (s.partOf s.subject.part).queues s.subject.idx = q)
    (hen : q.en = true) (hentry : q.head ≠ q.tail)
    (hread : ctxReadAt s s.subject.part q.ctx .u (q.base.toNat + 16 * (q.head.toNat % max 1 q.size.toNat)) 16 = (s1, some l))
    (halign : fld l 0 8 % 64 = 0) (hva : fld l 0 8 < 2 ^ 52) (hmin : 1 ≤ fld l 8 4) (hmax : fld l 8 4 ≤ 4096) (hzero : fld l 12 4 = 0) :
    let r := acceptGraph s1 s.subject.part q.ctx (entryByH q) 7 ((List.range (fld l 8 4)).map fun i => fld l 0 8 + nodeBytes * i)
    r.2 ≠ 3 →
    Answers .graphAccept s (updQueue r.1 s.subject.part s.subject.idx fun q => consumeEntry q (r.2 == 4)) := by
  intro r hroom
  have hwaits : (!q.en || q.head == q.tail) = false := by rw [hen, beq_eq_false_iff_ne.mpr hentry]; rfl
  have hspace : fld l 0 8 >>> 52 = 0 := by rw [Nat.shiftRight_eq_div_pow]; omega
  have hvalid : (fld l 0 8 % 64 != 0 || fld l 0 8 >>> 52 != 0 || fld l 8 4 == 0 || decide (4096 < fld l 8 4) || fld l 12 4 != 0) = false := by
    rw [halign, hspace, hzero, decide_eq_false (Nat.not_lt.mpr hmax), beq_eq_false_iff_ne.mpr (Nat.ne_of_gt hmin)]
    rfl
  change execGraphAccept s = _
  simp only [execGraphAccept, hq, hwaits, Bool.false_eq_true, if_false, hread, hvalid]
  exact if_neg (by simpa using hroom)

/-! ## Dispatch (R347 to R351) -/

theorem nodeReserve_row {n : Node} {k : Nat} (hn : nodeOf s s.subject.part s.subject.idx = some n) (hpassed : n.passedAt = some k)
    (hpool : inPool n = true) (hnew : n.reserving = false) (hdue : k + 100000 ≤ s.now) :
    Answers .nodeReserve s (updNode s s.subject.part s.subject.idx fun n => { n with reserving := true }) := by
  have hready : (!inPool n || n.reserving || decide (s.now < k + 100000)) = false := by
    rw [hpool, hnew, decide_eq_false (Nat.not_lt.mpr hdue)]
    rfl
  change execNodeReserve s = _
  simp only [execNodeReserve, hn, hpassed, hready, Bool.false_eq_true, if_false]

theorem blockDispatch_row {s1 : State} {seq : Nat} {l : List Nat} (hread : readRecords s s.subject.part = t) (hbarred : t.barred = s.barred)
    (hfirst : dispatchFirst t s.subject.part (ranked t s.subject.part) [] = (some (s1, seq), l)) :
    Answers .blockDispatch s (settleNodes (putStatus (markPassed s1 s.subject.part l) s.subject.part seq) s.subject.part) := by
  change execBlockDispatch s = _
  simp only [execBlockDispatch, hread, hfirst, hbarred, bne_self_eq_false, Bool.false_eq_true, if_false]

/-- The block that a node launches. -/
def launchedBlock (part seq : Nat) (N : Node) (idx attempt g step0 abase : Nat) : Block where
  part := part
  ctx := N.ctx
  pkg := g / 384
  core := g
  seq := seq
  nodeVa := N.va
  idx := idx
  nq := N.nrec.quires
  node := N.nrec
  seed := N.nrec.seed
  step0 := step0
  abase := abase
  attempt := attempt
  front := launchFront N.nrec idx

theorem residentBlock_found (s : State) (b : Nat) (B : Block) (qs : List Quire) :
    Tab.find (residentBlock s b B qs).blocks b = some B ∧
    (∀ q Q, qs[q]? = some Q → Tab.find (residentBlock s b B qs).quires (quireKey b q) = some Q) ∧
    ((residentBlock s b B qs).coreOf B.core).running = some (B.part, B.ctx) := by
  refine ⟨Tab.find_set_self .., fun q Q hQ => ?_, ?_⟩
  · refine (find_foldSet qs b 0 _ q).trans ?_
    obtain ⟨hlt, -⟩ := List.getElem?_eq_some_iff.mp hQ
    rw [if_pos ⟨Nat.zero_le q, by omega⟩, Nat.sub_zero, hQ]
  · unfold residentBlock
    simp only [State.coreOf]
    exact congrArg Core.running (Tab.get_set_self ..)

theorem placeBlock_launches (s : State) (part seq : Nat) (N : Node) (idx attempt g step0 abase : Nat) :
    let t := placeBlock s part seq N idx attempt g step0 abase
    (∃ B, Tab.find t.blocks s.nextId = some B ∧ B.core = g ∧ B.idx = idx ∧ B.seq = seq ∧ B.ctx = N.ctx ∧ B.seed = N.nrec.seed ∧
      B.step0 = step0 ∧ B.abase = abase ∧ B.front = launchFront N.nrec idx) ∧
    (∀ q, q < N.nrec.quires → Tab.find t.quires (quireKey s.nextId q) = some (launchQuire N.nrec idx q)) ∧
    (t.coreOf g).running = some (part, N.ctx) := by
  obtain ⟨hblock, hquires, hcore⟩ := residentBlock_found (takeTiles { s with nextId := s.nextId + 1 } g part N.ctx abase N.nrec.acctiles)
    s.nextId (launchedBlock part seq N idx attempt g step0 abase) ((List.range N.nrec.quires).map (launchQuire N.nrec idx))
  refine ⟨⟨_, hblock, rfl, rfl, rfl, rfl, rfl, rfl, rfl, rfl⟩, fun q hq => hquires q _ ?_, hcore⟩
  rw [List.getElem?_map, List.getElem?_range hq]
  rfl

/-! ## Retirement (R352) -/

theorem blockRetire_row {B : Block} (hB : Tab.find s.blocks s.subject.idx = some B) (hdone : blockDone s s.subject.idx B = true) :
    ∃ t, exec .blockRetire s = .next t ∧ Tab.find t.blocks s.subject.idx = none ∧
      ∀ k Q, Tab.find t.quires k = some Q → k / 16 ≠ s.subject.idx := by
  have hexec : exec .blockRetire s = execBlockRetire s := rfl
  simp only [execBlockRetire, hB, hdone, Bool.not_true, Bool.false_eq_true, if_false] at hexec
  have hstats : Same s (if (addStats s B).2 = true then (addStats s B).1
      else updNode (addStats s B).1 B.part B.seq fun n => { n with statsLost := true }) := by
    split
    · exact same_addStats s B
    · exact (same_addStats s B).trans (same_updNode ..)
  generalize (if (addStats s B).2 = true then (addStats s B).1
    else updNode (addStats s B).1 B.part B.seq fun n => { n with statsLost := true }) = a at hexec hstats
  have hbit : Same s (if (B.ending == .stopped) = true then (a, true) else setBit a B).1 := by
    split
    · exact hstats
    · exact hstats.trans (same_ctxAtomic ..)
  generalize (if (B.ending == .stopped) = true then (a, true) else setBit a B) = bit at hexec hbit
  refine ⟨_, hexec, ?_, fun k Q hQ => ?_⟩
  · rw [(same_settleNodes _ B.part).1]
    exact (find_dropBlock _ s.subject.idx true s.subject.idx).trans (if_pos rfl)
  · rw [(same_settleNodes _ B.part).2.1] at hQ
    have hslot : Same s (match B.saveSlot with
        | some i => saveBit bit.1 B.part B.ctx i.base i.idx false
        | none => bit.1) := by
      split
      · exact hbit.trans (same_saveBit ..)
      · exact hbit
    have hquires : ∀ b : State, Same s b → Tab.find (dropBlock b s.subject.idx true).quires k = some Q → k / 16 ≠ s.subject.idx := by
      intro b hb hk
      rw [dropBlock_quires, hb.1, hB] at hk
      simpa using (List.mem_filter.mp (Tab.mem_of_find hk)).2
    exact hquires _ hslot hQ

/-- Settles O52: the words complete by the front-end's rule; a launch goes through what makes a block resident, a retirement
through what dropping it leaves. -/
theorem schedulingCompletes : Obligations.SchedulingCompletes := by
  unfold Obligations.SchedulingCompletes
  exact ⟨fun f s I hi hs hd => nadd_completes hi hs hd, fun f s I => nwdraw_completes,
    fun f s I hi hs hd => ⟨fun n => nstat_held hi hs hd, nstat_loads hi hs hd⟩, fun s L => launchQueueTail_row,
    fun q v byH => tailWrite_moves, fun s s1 l => graphAccept_row rfl, fun s n k => nodeReserve_row,
    fun s t s1 seq l => blockDispatch_row, placeBlock_launches, fun s B => blockRetire_row⟩

end Sys2Proof.SchedulerProofs

end

section
/-! PROOFS. A step runs the word that its unit has fetched, or another agent's row (02_instruction_words.md R30, R32). -/

namespace Sys2Proof.StepProofs

open Sys2Proof.Machine Sys2Proof.Safety

/-- The unit of a word issues it: it has a word left, waits for nothing and runs, its package and its port let it, no WAITJ
of its quire has expired, and no trap is saved. -/
structure MayIssue (s : State) (u : UnitId) (I : Issuer) : Prop where
  unit : issuerOf s u 0 = some I
  left : I.st.left ≠ 0
  wait : I.st.wait = .none
  stop : I.st.stop = .run
  clocked : (s.pkgOf I.blk.pkg).stopped = false
  port : portElsewhere s I = false
  expiry : expiryDue s u = false
  pend : I.st.pend = []

variable {s s' : State} {u : UnitId} {I : Issuer} {w : Word}

theorem issueWord_fetched (h : MayIssue s u I) (hfetch : fetchWord s I I.st.pc.toNat = .ok s' w) :
    issueWord s u = match decode I.st.cls w with
      | .instr i => .runs (aim (takePort s' I) u) i
      | .reject _ => .meets (.next (takeTrap s u { cause := .illegalOp, info := w.setWidth 64 })) := by
  have hmay : (I.st.left == 0 || I.st.wait != .none || I.st.stop != .run || (s.pkgOf I.blk.pkg).stopped || portElsewhere s I ||
      expiryDue s u) = false := by
    rw [beq_eq_false_iff_ne.mpr h.left, h.wait, h.stop, h.clocked, h.port, h.expiry]
    rfl
  simp only [issueWord, h.unit, hmay, Bool.false_eq_true, if_false, h.pend, hfetch] <;> rfl

theorem stepWord_runs {i : Instr} {t : State} (h : MayIssue s u I) (hfetch : fetchWord s I I.st.pc.toNat = .ok s' w)
    (hdecode : decode I.st.cls w = .instr i) (hexec : exec i (aim (takePort s' I) u) = .next t) :
    stepWord s u = .next (afterIssue (aim (takePort s' I) u) t u) := by
  rw [stepWord, issueWord_fetched h hfetch, hdecode]
  simp only [hexec]

theorem stepWord_rejects {e : DecodeErr} (h : MayIssue s u I) (hfetch : fetchWord s I I.st.pc.toNat = .ok s' w)
    (hdecode : decode I.st.cls w = .reject e) :
    stepWord s u = .next (takeTrap s u { cause := .illegalOp, info := w.setWidth 64 }) := by
  rw [stepWord, issueWord_fetched h hfetch, hdecode]

theorem step_word {rest : List Move} (hagenda : s.agenda = .word u :: rest) :
    step s = settle { s with agenda := rest } (stepWord { s with agenda := rest } u) := by
  simp only [step, nextMove, hagenda]

theorem step_event {i : Instr} {sub : Subject} {rest : List Move} (hagenda : s.agenda = .event i sub :: rest) (hnone : encode i = none) :
    step s = settle { s with agenda := rest } (exec i { s with agenda := rest, subject := sub }) := by
  simp only [step, nextMove, hagenda, stepEvent, encodedWord, hnone, Option.isSome_none, Bool.false_eq_true, if_false]

/-- Asking for pages changes packages alone. -/
theorem wantPages_pkgs (l : List (Nat × AtsWant)) (s : State) : ∃ ps, l.foldl State.wantPage s = { s with pkgs := ps } := by
  induction l generalizing s with
  | nil => exact ⟨s.pkgs, rfl⟩
  | cons x l ih =>
    obtain ⟨ps, h⟩ := ih (s.wantPage x)
    exact ⟨ps, h⟩

theorem settled_row (s t : State) : (t.barred = s.barred → settled s t = t) ∧
    (t.barred ≠ s.barred → ∃ ps, settled s t = { s with pkgs := ps }) := by
  constructor
  · intro h
    simp only [settled, h, beq_self_eq_true, if_true]
  · intro h
    simp only [settled, beq_eq_false_iff_ne.mpr h, Bool.false_eq_true, if_false]
    exact wantPages_pkgs _ s

/-- Settles O4: the step takes the oldest move; a word's issue goes through the conditions of its unit. -/
theorem stepRunsDecodedWord : Obligations.StepRunsDecodedWord := by
  unfold Obligations.StepRunsDecodedWord
  refine ⟨fun s s' u rest I w hagenda hunit hleft hwait hstop hclocked hport hexpiry hpend hfetch => ?_,
    fun s i sub rest hagenda hnone => ?_, settled_row⟩
  · have h : MayIssue { s with agenda := rest } u I := ⟨hunit, hleft, hwait, hstop, hclocked, hport, hexpiry, hpend⟩
    refine ⟨fun i t hdecode hexec => ?_, fun e hdecode => ?_⟩
    · rw [step_word hagenda, stepWord_runs h hfetch hdecode hexec, settle]
    · rw [step_word hagenda, stepWord_rejects h hfetch hdecode, settle]
  · refine ⟨fun t hexec => ?_, fun r hexec => ?_⟩
    · rw [step_event hagenda hnone, hexec, settle]
    · rw [step_event hagenda hnone, hexec, settle]
      simp

end Sys2Proof.StepProofs

end

section
/-! PROOFS. The steps of an engine: a command starts, ends, and is popped (06_engines.md R114 to R123). -/

namespace Sys2Proof.EngineStepProofs

open Sys2Proof.Machine Sys2Proof.Safety

variable {s : State} {e : EngOp}

/-! ## The start of a command -/

/-- The first queued command of its pair may start: its engine has room, and its issuer's accesses are performed. -/
structure MayStart (s : State) (e : EngOp) : Prop where
  found : Tab.find s.engs s.subject.idx = some e
  queued : e.phase = .queued
  first : ∀ x ∈ s.engs, x.1 < s.subject.idx → x.2.b = e.b → x.2.q = e.q → x.2.phase ≠ .queued
  load : engineLoad s e.pkg e.eng < 8
  unbarred : engineBarred s e.pkg e.eng false = false
  free : engHeld s s.subject.idx = false
  performed : unperformed s e.unit (BitVec.allOnes 96) s.subject.idx 7 = false

theorem MayStart.noEarlier (h : MayStart s e) :
    (s.engs.any fun x => x.1 < s.subject.idx && x.2.b == e.b && x.2.q == e.q && x.2.phase == .queued) = false := by
  rw [List.any_eq_false]
  intro x hx hq
  simp only [Bool.and_eq_true, decide_eq_true_eq, beq_iff_eq] at hq
  obtain ⟨⟨⟨hid, hb⟩, hqueue⟩, hphase⟩ := hq
  exact h.first x hx hid hb hqueue hphase

theorem engineCommandStart_begins (h : MayStart s e) : Answers .engineCommandStart s (engBegin s s.subject.idx e) := by
  have hfirst := h.noEarlier
  have hload : ¬ 8 ≤ engineLoad s e.pkg e.eng := Nat.not_le.mpr h.load
  change execEngineCommandStart s = _
  simp only [execEngineCommandStart, h.found, h.free, h.queued, hfirst, hload, h.unbarred, h.performed, Bool.or_self,
    decide_false, Bool.false_eq_true, if_false]

theorem engBegin_started {id : Nat} (hgood : commandBad s id e = false) (hdata : e.opc < 8) : engBegin s id e = startedAs s id e := by
  have hgood' : commandBad (startedAs s id e) id { e with phase := .running, started := s.nextId, since := s.now } = false := hgood
  have hmigr : (e.opc == 12) = false := beq_eq_false_iff_ne.mpr (by omega)
  have hcoll : (e.opc == 8) = false := beq_eq_false_iff_ne.mpr (by omega)
  simp only [startedAs] at hgood' ⊢
  simp only [engBegin, hgood', hmigr, hcoll, Bool.false_eq_true, if_false]

theorem engBegin_bad {id : Nat} (hbad : commandBad s id e = true) :
    ∃ x, Tab.find (engBegin s id e).engs id = some x ∧ x.phase = .ended ∧ x.status = 1 ∧ x.cause = 4 ∧
      (engBegin s id e).mem = s.mem := by
  have hbad' : commandBad (startedAs s id e) id { e with phase := .running, started := s.nextId, since := s.now } = true := hbad
  have hrun : engBegin s id e = setEng (startedAs s id e) id
      (({ e with phase := .running, started := s.nextId, since := s.now } : EngOp).ends { status := 1, cause := 4 }) := by
    simp only [startedAs] at hbad' ⊢
    simp only [engBegin, hbad', if_true]
  rw [hrun]
  exact ⟨_, Tab.find_set_self .., rfl, rfl, rfl, rfl⟩

/-! ## The end of a command -/

theorem engineCompletion_ends {x : EngEnd} (hfound : Tab.find s.engs s.subject.idx = some e) (hrunning : e.phase = .running)
    (hfree : engHeld s s.subject.idx = false) (hends : (engRun s e).2.2 = .ends x) :
    Answers .engineCompletion s (engFinish (engRun s e).1 s.subject.idx ((engRun s e).2.1.ends x)) := by
  change execEngineCompletion s = _
  simp only [execEngineCompletion, hfound, hfree, hrunning, hends, Bool.false_eq_true, if_false]

theorem engineCompletion_faults {c r a : Nat} (hfound : Tab.find s.engs s.subject.idx = some e) (hrunning : e.phase = .running)
    (hfree : engHeld s s.subject.idx = false) (hstops : (engRun s e).2.2 = .stops (.fault c r a)) :
    Answers .engineCompletion s (engFinish (engMix (engRun s e).1 (engRun s e).2.1) s.subject.idx
      ((engRun s e).2.1.ends { status := 1, cause := c, reason := r, addr := a })) := by
  change execEngineCompletion s = _
  simp only [execEngineCompletion, hfound, hfree, hrunning, hstops, Bool.false_eq_true, if_false]

/-- An operation without a completion word, whose stores are answered, ends with its record. -/
theorem engFinish_wordless {id : Nat} (hplain : e.tag.getLsbD 63 = false) (hanswered : engPending s id = false) :
    engFinish s id e = { queueRecord s e id (e.record false) with engs := Tab.del s.engs id } := by
  simp only [engFinish, hanswered, hplain, Bool.false_eq_true, if_false, Bool.not_false, if_true]

theorem engineCompletion_ended (hfound : Tab.find s.engs s.subject.idx = some e) (hended : e.phase = .ended)
    (hplain : e.tag.getLsbD 63 = false) (hfree : engHeld s s.subject.idx = false) (hanswered : engPending s s.subject.idx = false) :
    Answers .engineCompletion s (engFinish s s.subject.idx e) := by
  have hgone : (Tab.find (engFinish s s.subject.idx e).engs s.subject.idx == some e) = false := by
    rw [engFinish_wordless hplain hanswered]
    simp only [Tab.find_del, if_true]
    rfl
  change execEngineCompletion s = _
  simp only [execEngineCompletion, hfound, hfree, hended, hgone, Bool.false_eq_true, if_false, Bool.false_and]

theorem engFinish_records {id : Nat} {B : Block} (hplain : e.tag.getLsbD 63 = false) (hanswered : engPending s id = false)
    (hblock : Tab.find s.blocks e.b = some B) :
    ∃ B', Tab.find (engFinish s id e).blocks e.b = some B' ∧ (engFinish s id e).mem = s.mem ∧
      Tab.find (engFinish s id e).engs id = none ∧
      Tab.get [] B'.pairs e.q =
        (Tab.get [] B.pairs e.q).map fun p => if p.op == id then { p with record := some (e.record false) } else p := by
  have hqueue : queueRecord s e id (e.record false) = s.updBlock e.b fun B => B.setRecord e.q id (e.record false) := by
    simp only [queueRecord, hblock]
  rw [engFinish_wordless hplain hanswered, hqueue]
  refine ⟨B.setRecord e.q id (e.record false), ?_, rfl, ?_, Tab.get_set_self ..⟩
  · simp only [State.updBlock, Tab.find_modify, hblock, if_true, Option.map_some]
  · simp only [Tab.find_del, if_true]

/-! ## Pops -/

/-- The block after pop p of a completion queue, whose pair then holds l. -/
def poppedBlock (s : State) (p : PopWait) (l : List PairEnt) (bad : List (Nat × Nat × Nat)) (t : State) : State :=
  t.updBlock s.subject.idx fun B => { B with pops := B.pops.erase p, pairs := Tab.set B.pairs (s.subject.sub - 4) l, badQ := bad }

variable {B : Block} {p : PopWait}

/-- The oldest pop of the subject's completion queue is p. -/
structure Pops (s : State) (B : Block) (p : PopWait) : Prop where
  block : Tab.find s.blocks s.subject.idx = some B
  oldest : B.pops.find? (fun p => p.q == s.subject.sub) = some p

theorem cwaitPop_answers {t : State} (h : popRecord s s.subject.idx s.subject.sub = some t) : Answers .cwaitPop s t := by
  change execCwaitPop s = _
  simp only [execCwaitPop, h]

theorem popRecord_record {r : EngRec} {x : PairEnt} {l : List PairEnt} (h : Pops s B p)
    (hpair : Tab.get [] B.pairs (s.subject.sub - 4) = x :: l) (hrec : x.record = some r) :
    popRecord s s.subject.idx s.subject.sub = some (popWrite (poppedBlock s p l
      (if B.badQ.isEmpty then [] else shiftBad (shiftBad B.badQ s.subject.sub 0) (s.subject.sub - 4) 0) (joinPop s p x.op)) p
      [r.w0, r.w1, r.w2, r.w3]
      (if B.badQ.contains (s.subject.sub, 0, 0) then some { memNote 3 0 with lanes := 1 } else none)) := by
  simp only [popRecord, h.block, h.oldest, Option.bind_some, hpair, List.head?_cons, hrec, Option.map_some, Option.getD_some,
    List.tail_cons, poppedBlock]

theorem popRecord_empty (h : Pops s B p) (hpoll : p.poll = true)
    (hnone : ∀ x l, Tab.get [] B.pairs (s.subject.sub - 4) = x :: l → x.record = none) :
    popRecord s s.subject.idx s.subject.sub = some (popWrite
      (poppedBlock s p (Tab.get [] B.pairs (s.subject.sub - 4)) B.badQ s) p [0, 0xFF, 0, 0] none) := by
  have hhead : ((Tab.get [] B.pairs (s.subject.sub - 4)).head?.bind (·.record)) = none := by
    cases hpair : Tab.get [] B.pairs (s.subject.sub - 4) with
    | nil => rfl
    | cons x l => exact hnone x l hpair
  simp only [popRecord, h.block, h.oldest, Option.bind_some, hhead, hpoll, if_true, poppedBlock, emptyRecord]

theorem cwaitPop_clean {r : EngRec} {x : PairEnt} {l : List PairEnt} (h : Pops s B p)
    (hpair : Tab.get [] B.pairs (s.subject.sub - 4) = x :: l) (hrec : x.record = some r) (hbad : B.badQ = []) :
    Answers .cwaitPop s (popWrite (poppedBlock s p l [] (joinPop s p x.op)) p [r.w0, r.w1, r.w2, r.w3] none) := by
  have hpop := popRecord_record h hpair hrec
  rw [hbad] at hpop
  exact cwaitPop_answers hpop

theorem cwaitPop_good {r : EngRec} {x : PairEnt} {l : List PairEnt} (h : Pops s B p)
    (hpair : Tab.get [] B.pairs (s.subject.sub - 4) = x :: l) (hrec : x.record = some r) (hbad : B.badQ ≠ [])
    (hgood : (s.subject.sub, 0, 0) ∉ B.badQ) :
    Answers .cwaitPop s (popWrite (poppedBlock s p l (shiftBad (shiftBad B.badQ s.subject.sub 0) (s.subject.sub - 4) 0)
      (joinPop s p x.op)) p [r.w0, r.w1, r.w2, r.w3] none) := by
  have hpop := popRecord_record h hpair hrec
  rw [if_neg (by simpa using hbad), if_neg (by simpa using hgood)] at hpop
  exact cwaitPop_answers hpop

theorem cwaitPop_uncorrectable {r : EngRec} {x : PairEnt} {l : List PairEnt} (h : Pops s B p)
    (hpair : Tab.get [] B.pairs (s.subject.sub - 4) = x :: l) (hrec : x.record = some r) (hbad : B.badQ ≠ [])
    (hword : (s.subject.sub, 0, 0) ∈ B.badQ) :
    Answers .cwaitPop s (popWrite (poppedBlock s p l (shiftBad (shiftBad B.badQ s.subject.sub 0) (s.subject.sub - 4) 0)
      (joinPop s p x.op)) p [r.w0, r.w1, r.w2, r.w3] (some { memNote 3 0 with lanes := 1 })) := by
  have hpop := popRecord_record h hpair hrec
  rw [if_neg (by simpa using hbad), if_pos (by simpa using hword)] at hpop
  exact cwaitPop_answers hpop

/-! ## MIGR and sweeps -/

/-- A MIGR waits for the writes to its old frame, and none is on its way. -/
structure Drained (s : State) (e : EngOp) : Prop where
  found : Tab.find s.engs s.subject.idx = some e
  phase : e.phase = .migrDrain
  free : engHeld s s.subject.idx = false
  quiet : writesInFlight s e.part [e.oldFrame] = false

theorem migrDrainDone_copies {t : State} (h : Drained s e) (hcopy : migrCopy s s.subject.idx e = some t) : Answers .migrDrainDone s t := by
  change execMigrDrainDone s = _
  have hdone : (e.phase == EngPhase.migrDone) = false := by rw [h.phase]; rfl
  have hdrain : (e.phase != EngPhase.migrDrain) = false := by rw [h.phase]; rfl
  simp only [execMigrDrainDone, h.found, hdone, hdrain, h.free, h.quiet, hcopy, Bool.false_and, Bool.or_self, Bool.false_eq_true, if_false]

theorem migrDrainDone_sealed (h : Drained s e) (hsealed : isSealed s e.part e.rb.toNat = true) :
    Answers .migrDrainDone s (migrFails s s.subject.idx e 2) :=
  migrDrainDone_copies h (by simp only [migrCopy, hsealed, if_true])

theorem migrDrainDone_done {s1 s2 : State} {n : Nat} (h : Drained s e) (hopen : isSealed s e.part e.rb.toNat = false)
    (hlines : migrLines s e = (s1, n, none))
    (hleaf : migrLeaf s1 e (fun v => v - bits v 16 36 <<< 16 + e.rb.toNat) = .inl s2) :
    Answers .migrDrainDone s
      (migrSweep (setEng s2 s.subject.idx { e with sent := n, phase := .migrSweep2 }) s.subject.idx { e with sent := n }) :=
  migrDrainDone_copies h (by simp only [migrCopy, hopen, hlines, hleaf, Bool.false_eq_true, if_false]; rfl)

theorem migrDrainDone_fails {s1 : State} {n c : Nat} (h : Drained s e) (hopen : isSealed s e.part e.rb.toNat = false)
    (hlines : migrLines s e = (s1, n, some (.fails c))) :
    Answers .migrDrainDone s (migrFails s1 s.subject.idx { e with sent := n } c) :=
  migrDrainDone_copies h (by simp only [migrCopy, hopen, hlines, Bool.false_eq_true, if_false])

theorem sweepComplete_goes {w : Sweep} (hfound : Tab.find s.sweeps s.subject.idx = some w) (hdue : sweepDue s s.subject.idx w = true) :
    Answers .sweepComplete s (sweepThen { (sweepApply s w) with sweeps := Tab.del s.sweeps s.subject.idx } s.subject.idx w) := by
  change execSweepComplete s = _
  simp only [execSweepComplete, hfound, hdue, Bool.not_true, Bool.false_eq_true, if_false]

end Sys2Proof.EngineStepProofs
end

section
/-! PROOFS. The steps of a collective: its start, its exchange, and the steps of its ring (06_engines.md R135 to R140). -/

namespace Sys2Proof.EngineStepProofs

open Sys2Proof.Machine Sys2Proof.Safety

variable {s : State} {e : EngOp}

theorem collReadyStart_enters {s1 s2 t : State} {l : List Byte} {x : Nat × Bool} (hfound : Tab.find s.engs s.subject.idx = some e)
    (hready : e.phase = .collReady) (hfree : engHeld s s.subject.idx = false) (hread : engRead s e e.coll.ready 8 = .ok s1 l)
    (hthresh : e.coll.thresh.toNat ≤ ofLe l) (hxlate : engXlate s1 e e.coll.ready false = .ok t x)
    (hzero : engWrite (joinAt t (.eng s.subject.idx) x.1 8) e [((e.ring.getD e.coll.rank {}).stage, leBytes 16 0)] = .ok s2 ()) :
    Answers .collReadyStart s (setEng s2 s.subject.idx { e with phase := .collExch, since := s2.now }) := by
  have hphase : (e.phase != EngPhase.collReady) = false := by rw [hready]; rfl
  have habove : ¬ ofLe l < e.coll.thresh.toNat := Nat.not_lt.mpr hthresh
  change execCollReadyStart s = _
  simp only [execCollReadyStart, hfound, hphase, hfree, hread, collAccess, habove, hxlate, collEnter, hzero, Bool.or_self,
    Bool.false_eq_true, if_false]

/-! ## The exchange -/

/-- A COLL in its exchange may meet c, operation n, on a side that no older one is to meet first. -/
structure Meets (s : State) (e c : EngOp) (n : Nat) (toLeft : Bool) : Prop where
  found : Tab.find s.engs s.subject.idx = some e
  phase : e.phase = .collExch
  unmet : (if toLeft then e.left else e.right) = none
  elder : elderWaits s e toLeft = false
  partner : partnerOf s s.subject.idx e toLeft = some (n, c)
  partnerElder : elderWaits s c (!toLeft) = false

/-- e has met operation n on a side. -/
def metBy (e : EngOp) (n : Nat) (toLeft : Bool) : EngOp := if toLeft then { e with left := some n } else { e with right := some n }

/-- c has been met by operation id from its other side. -/
def metFrom (c : EngOp) (id : Nat) (toLeft : Bool) : EngOp := if toLeft then { c with right := some id } else { c with left := some id }

/-- Both operations have met. -/
def metState (s : State) (e c : EngOp) (n : Nat) (toLeft : Bool) : State :=
  setEng (setEng s s.subject.idx (metBy e n toLeft)) n (metFrom c s.subject.idx toLeft)

/-- Both operations end, because their exchanged fields differ. -/
def unequalState (s : State) (e c : EngOp) (n : Nat) (toLeft : Bool) : State :=
  setEng (setEng (metState s e c n toLeft) s.subject.idx ((metBy e n toLeft).ends { status := 1, cause := 5 })) n
    ((metFrom c s.subject.idx toLeft).ends { status := 1, cause := 5 })

variable {c : EngOp} {n : Nat} {toLeft : Bool}

theorem exchangeSide_meets (h : Meets s e c n toLeft) : exchangeSide s s.subject.idx toLeft =
    if sameColl e.coll c.coll then some (collSettle (collSettle (metState s e c n toLeft) s.subject.idx) n)
    else some (abortPeers (unequalState s e c n toLeft) (unequalState s e c n toLeft).engs.length [(s.subject.idx, e), (n, c)]) := by
  have hphase : (e.phase != EngPhase.collExch) = false := by rw [h.phase]; rfl
  have hunmet : (if toLeft then e.left.isSome else e.right.isSome) = false := by
    have hside := h.unmet
    cases toLeft <;> simp_all
  simp only [exchangeSide, h.found, Option.bind_some, hphase, hunmet, h.elder, h.partner, h.partnerElder, Bool.or_self,
    Bool.false_eq_true, if_false]
  rfl

theorem collExchange_takes {t : State} (hflag : s.subject.flag = !toLeft) (h : exchangeSide s s.subject.idx toLeft = some t) :
    Answers .collExchange s t := by
  change execCollExchange s = _
  simp only [execCollExchange, hflag, Bool.not_not, h]

theorem collExchange_settles (hflag : s.subject.flag = !toLeft) (h : Meets s e c n toLeft) (hsame : sameColl e.coll c.coll = true) :
    Answers .collExchange s (collSettle (collSettle (metState s e c n toLeft) s.subject.idx) n) :=
  collExchange_takes hflag (by rw [exchangeSide_meets h, if_pos hsame])

theorem collExchange_differs (hflag : s.subject.flag = !toLeft) (h : Meets s e c n toLeft) (hdiffer : sameColl e.coll c.coll = false) :
    Answers .collExchange s
      (abortPeers (unequalState s e c n toLeft) (unequalState s e c n toLeft).engs.length [(s.subject.idx, e), (n, c)]) :=
  collExchange_takes hflag (by rw [exchangeSide_meets h, if_neg (by rw [hdiffer]; decide)])

/-! ## The steps of the ring -/

/-- COLL e of the subject is in its steps. -/
structure Stepping (s : State) (e : EngOp) : Prop where
  found : Tab.find s.engs s.subject.idx = some e
  phase : ∃ k, e.phase = .collStep k
  free : engHeld s s.subject.idx = false

theorem collStep_sends {t : State} (h : Stepping s e) (hflag : s.subject.flag = false) (hsend : collSend s s.subject.idx e = some t) :
    Answers .collStep s t := by
  obtain ⟨k, hphase⟩ := h.phase
  change execCollStep s = _
  simp only [execCollStep, h.found, hphase, h.free, hflag, hsend, Bool.false_eq_true, if_false]

theorem collStep_receives {t : State} (h : Stepping s e) (hflag : s.subject.flag = true) (hrecv : collRecv s s.subject.idx e = some t) :
    Answers .collStep s t := by
  obtain ⟨k, hphase⟩ := h.phase
  change execCollStep s = _
  simp only [execCollStep, h.found, hphase, h.free, hflag, hrecv, Bool.false_eq_true, if_false, if_true]

theorem phaseStep_zero (c : CollDesc) : phaseStep c 0 = 0 := by
  rw [phaseStep]
  split
  · exact Nat.zero_sub _
  · rfl

theorem readOwed_first {e : EngOp} (hfirst : e.sent = 0) (r : Nat) : readOwed e r = false := by
  rw [readOwed, hfirst]
  rfl

/-- The first step's data, from the rank's own bucket, goes into the right neighbour's first half. -/
theorem collSend_first {s1 s2 : State} {l : List Byte} {id : Nat} (hsent : e.sent = 0) (hsteps : 0 < collSteps e.coll)
    (hlink : linkOf e e.coll.rank = none) (hmid : e.mid = false)
    (hread : engRead s e (chunkAt e (sendChunk e.coll 0)) (chunkLen e.coll * elemBytes e.coll) = .ok s1 l)
    (hwrite : engWrite s1 e [((e.ring.getD (rightRank e.coll) {}).stage + 64,
      if reducing e.coll 0 then wordBytes (widen e.coll l) else l)] = .ok s2 ()) :
    collSend s id e = some (setEng s2 id { e with mid := true }) := by
  have hmore : (decide (collSteps e.coll ≤ 0) || decide (e.recvd < 0)) = false := by
    rw [decide_eq_false (Nat.not_le.mpr hsteps), decide_eq_false (Nat.not_lt_zero _), Bool.or_self]
  have hchunk : (reducing e.coll 0 && phaseStep e.coll 0 != 0) = false := by rw [phaseStep_zero]; exact Bool.and_false _
  have hhalf : (e.ring.getD (rightRank e.coll) {}).stage + 64 + 0 % 2 * halfBytes e.coll = (e.ring.getD (rightRank e.coll) {}).stage + 64 := by
    rw [Nat.zero_mod, Nat.zero_mul, Nat.add_zero]
  simp only [collSend, hsent, hmore, hlink, hmid, hchunk, hread, hhalf, hwrite, collAccess, EngR.andThen, readOwed_first hsent,
    Nat.zero_lt_two, if_true, Bool.false_eq_true, if_false]

/-- The word that says that a step's data stands in the right neighbour's half. -/
theorem collSend_tells {s2 : State} {id : Nat} (hsteps : e.sent < collSteps e.coll) (hrecvd : e.sent ≤ e.recvd)
    (hlink : linkOf e e.coll.rank = none) (hmid : e.mid = true) (hanswered : engPending s id = false)
    (hwrite : engWrite s e [((e.ring.getD (rightRank e.coll) {}).stage, leBytes 8 (e.sent + 1))] = .ok s2 ()) :
    collSend s id e = some (collDone s2 id { e with sent := e.sent + 1, mid := false }) := by
  have hmore : (decide (collSteps e.coll ≤ e.sent) || decide (e.recvd < e.sent)) = false := by
    rw [decide_eq_false (Nat.not_le.mpr hsteps), decide_eq_false (Nat.not_lt.mpr hrecvd), Bool.or_self]
  simp only [collSend, hmore, hlink, hmid, hanswered, hwrite, collAccess, if_true, Bool.false_eq_true, if_false]

theorem peerTimeout_fails (hfound : Tab.find s.engs s.subject.idx = some e) (hbusy : e.collBusy = true) (htimeout : e.coll.timeout ≠ 0)
    (hlate : e.since + 100 * e.coll.timeout < s.now) (howes : peerOwes s s.subject.idx e = true) :
    Answers .peerTimeout s (collFail s s.subject.idx e 12 0 0) := by
  have hset : (e.coll.timeout == 0) = false := beq_eq_false_iff_ne.mpr htimeout
  have hnow : decide (s.now ≤ e.since + 100 * e.coll.timeout) = false := decide_eq_false (Nat.not_le.mpr hlate)
  change execPeerTimeout s = _
  simp only [execPeerTimeout, hfound, hbusy, hset, hnow, howes, Bool.not_true, Bool.or_self, Bool.false_eq_true, if_false]

end Sys2Proof.EngineStepProofs
end

section
/-! PROOFS. What CPY and FILL write: pieces of the destination that cross no aligned eight, which take each byte of the
source or of the pattern to its place, and together cover it (06_engines.md R117, R126). -/

namespace Sys2Proof.EngineStepProofs

open Sys2Proof.Machine Sys2Proof.Safety

/-! ## The pieces of a range -/

theorem mem_eights {a n : Nat} {p : Nat × Nat} (hp : p ∈ eights (a, n)) : a ≤ p.1 ∧ p.1 - a + p.2 ≤ n := by
  simp only [eights, beq_iff_eq] at hp
  split at hp
  · exact absurd hp List.not_mem_nil
  · obtain ⟨i, hi, rfl⟩ := List.mem_map.mp hp
    have hi' := List.mem_range.mp hi
    split <;> omega

theorem getElem?_eights {a n i : Nat} (hsome : n ≠ 0) (hi : i < (a % 8 + n + 7) / 8) : (eights (a, n))[i]? =
    some (a + (if i = 0 then 0 else 8 * i - a % 8), min n (8 * (i + 1) - a % 8) - (if i = 0 then 0 else 8 * i - a % 8)) := by
  simp only [eights, beq_iff_eq, if_neg hsome, List.getElem?_map, List.getElem?_range hi, Option.map_some]

/-- Every byte of the range stands in one of its pieces. -/
theorem eights_cover {a n x : Nat} (hlow : a ≤ x) (hhigh : x < a + n) :
    ∃ (k : Nat) (p : Nat × Nat), (eights (a, n))[k]? = some p ∧ p.1 ≤ x ∧ x < p.1 + p.2 := by
  have hi : (x - a + a % 8) / 8 < (a % 8 + n + 7) / 8 := by omega
  refine ⟨_, _, getElem?_eights (by omega) hi, ?_⟩
  dsimp only
  split <;> omega

theorem getD_leBytes (w v j : Nat) (hj : j < w) : (leBytes w v).getD j 0 = BitVec.ofNat 8 (v / 2 ^ (8 * j)) := by
  induction w generalizing v j with
  | zero => exact absurd hj (Nat.not_lt_zero j)
  | succ w ih =>
    cases j with
    | zero => simp [leBytes]
    | succ j =>
      have hpow : v / 256 / 2 ^ (8 * j) = v / 2 ^ (8 * (j + 1)) := by
        rw [Nat.div_div_eq_div_mul, Nat.mul_add, Nat.pow_add, Nat.mul_comm]
      rw [← hpow, ← ih (v / 256) j (by omega)]
      rfl

theorem got_length {e : EngOp} {va n : Nat} {bs : List Byte} (h : e.got va n = some bs) : bs.length = n := by
  simp only [EngOp.got, beq_iff_eq] at h
  split at h
  · next hlen => exact Option.some.inj h ▸ hlen
  · exact absurd h (by simp)

/-! ## The parts of CPY and FILL -/

variable {e : EngOp}

/-- The one part of the data of CPY or FILL: its destination. -/
def plainSeg (e : EngOp) : EngSeg :=
  { dst := e.ra.toNat, src := if e.opc = 7 then 0 else e.rb.toNat, n := bits e.rc.toNat 0 40 }

theorem engParts_plain (hopc : e.opc = 0 ∨ e.opc = 7) : engParts e = segParts (plainSeg e) := by
  rcases hopc with h | h
  · simp [engParts, engSegs, plainSeg, h]
  · simp [engParts, plainSeg, h]

theorem mem_engParts {g : EngPart} (hopc : e.opc = 0 ∨ e.opc = 7) (hg : g ∈ engParts e) :
    g.seg = plainSeg e ∧ e.ra.toNat ≤ g.at_ ∧ g.at_ - e.ra.toNat + g.n ≤ bits e.rc.toNat 0 40 := by
  rw [engParts_plain hopc] at hg
  obtain ⟨p, hp, rfl⟩ := List.mem_map.mp hg
  obtain ⟨hlow, hhigh⟩ := mem_eights hp
  exact ⟨rfl, hlow, hhigh⟩

/-- The write that a part makes, once its bytes are known. -/
theorem put_part {k : Nat} {p : EngPut} (hplan : e.plan = none) (hput : e.put k = some p) :
    ∃ g bs, (engParts e)[k]? = some g ∧ partBytes e g = some bs ∧ p = { pad := g.seg.pad, at_ := g.at_, bytes := bs } := by
  simp only [EngOp.put, hplan, Option.bind_eq_some_iff, Option.map_eq_some_iff] at hput
  obtain ⟨g, hg, bs, hbs, hp⟩ := hput
  exact ⟨g, bs, hg, hbs, hp.symm⟩

theorem partBytes_copy {g : EngPart} (hcopy : e.opc = 0) (hseg : g.seg = plainSeg e) :
    partBytes e g = e.got (e.rb.toNat + (g.at_ - e.ra.toNat)) g.n := by
  simp [partBytes, hcopy, hseg, plainSeg]

theorem partBytes_fill {g : EngPart} (hfill : e.opc = 7) (hseg : g.seg = plainSeg e) : partBytes e g =
    some ((List.range g.n).map fun i => fillByte (fillWidth e.rc) e.rb.toNat (g.at_ - e.ra.toNat + i)) := by
  simp [partBytes, hfill, hseg, plainSeg]

theorem partBytes_length {g : EngPart} {bs : List Byte} (hopc : e.opc = 0 ∨ e.opc = 7) (hseg : g.seg = plainSeg e)
    (hbs : partBytes e g = some bs) : bs.length = g.n := by
  rcases hopc with h | h
  · rw [partBytes_copy h hseg] at hbs
    exact got_length hbs
  · rw [partBytes_fill h hseg] at hbs
    rw [← Option.some.inj hbs, List.length_map, List.length_range]

theorem fillByte_eq (rc : DWord) (pat o : Nat) :
    fillByte (fillWidth rc) pat o = BitVec.ofNat 8 (pat / 2 ^ (8 * (o % fillWidth rc))) := by
  have hwidth : 1 ≤ fillWidth rc := Nat.one_le_two_pow
  rw [fillByte, Nat.max_eq_right hwidth]
  exact getD_leBytes _ _ _ (Nat.mod_lt _ hwidth)

/-- Every write of CPY or FILL stands in memory, within the destination, and holds the bytes of its place. -/
theorem put_plain {k : Nat} {p : EngPut} (hplan : e.plan = none) (hput : e.put k = some p) (hopc : e.opc = 0 ∨ e.opc = 7) :
    p.pad = none ∧ e.ra.toNat ≤ p.at_ ∧ p.at_ - e.ra.toNat + p.bytes.length ≤ bits e.rc.toNat 0 40 ∧
    (e.opc = 7 → ∀ i, i < p.bytes.length →
      p.bytes[i]? = some (BitVec.ofNat 8 (e.rb.toNat / 2 ^ (8 * ((p.at_ - e.ra.toNat + i) % fillWidth e.rc))))) ∧
    (e.opc = 0 → e.got (e.rb.toNat + (p.at_ - e.ra.toNat)) p.bytes.length = some p.bytes) := by
  obtain ⟨g, bs, hg, hbs, rfl⟩ := put_part hplan hput
  obtain ⟨hseg, hlow, hhigh⟩ := mem_engParts hopc (List.mem_of_getElem? hg)
  have hlen := partBytes_length hopc hseg hbs
  refine ⟨by rw [hseg]; rfl, hlow, hlen ▸ hhigh, fun hfill i hi => ?_, fun hcopy => ?_⟩
  · rw [partBytes_fill hfill hseg] at hbs
    have hin : i < g.n := hlen ▸ hi
    simp only [← Option.some.inj hbs, List.getElem?_map, List.getElem?_range hin, Option.map_some, fillByte_eq]
  · rw [partBytes_copy hcopy hseg] at hbs
    exact hlen ▸ hbs

/-- The writes of CPY or FILL cover the destination. -/
theorem puts_cover {x : Nat} (hplan : e.plan = none) (hopc : e.opc = 0 ∨ e.opc = 7) (hlow : e.ra.toNat ≤ x)
    (hhigh : x < e.ra.toNat + bits e.rc.toNat 0 40) :
    ∃ k p, k < e.puts ∧ (engParts e)[k]? = some p ∧ p.at_ ≤ x ∧ x < p.at_ + p.n ∧
      ∀ q, e.put k = some q → q.at_ = p.at_ ∧ q.bytes.length = p.n := by
  obtain ⟨k, p, hk, hstart, hend⟩ := eights_cover hlow hhigh
  have hpart : (engParts e)[k]? = some { seg := plainSeg e, at_ := p.1, n := p.2 } := by
    rw [engParts_plain hopc, segParts, List.getElem?_map]
    change ((eights (e.ra.toNat, bits e.rc.toNat 0 40))[k]?).map _ = _
    rw [hk]
    rfl
  refine ⟨k, _, ?_, hpart, hstart, hend, fun q hq => ?_⟩
  · simp only [EngOp.puts, hplan]
    exact (List.getElem?_eq_some_iff.mp hpart).1
  · obtain ⟨g, bs, hg, hbs, rfl⟩ := put_part hplan hq
    obtain rfl := Option.some.inj (hpart.symm.trans hg)
    exact ⟨rfl, partBytes_length hopc rfl hbs⟩

end Sys2Proof.EngineStepProofs
end

section
/-! PROOFS. The writes of an operation in line accesses, and a run of CPY or FILL that ends has made them all
(06_engines.md R117, R126). -/

namespace Sys2Proof.EngineStepProofs

open Sys2Proof.Machine Sys2Proof.Safety

variable {s t : State} {e : EngOp}

/-! ## Line accesses -/

theorem lineRuns_flatten (e : EngOp) (ks : List Nat) : (lineRuns e ks).flatten = ks := by
  induction ks with
  | nil => rfl
  | cons k ks ih =>
    rw [lineRuns]
    split
    · next j js rest hruns =>
      rw [hruns] at ih
      split <;> simp [← ih]
    · simp [ih]

/-- In a line access each write goes on where the one before it ends. -/
def Follows (e : EngOp) (r : List Nat) : Prop := ∀ i a b, r[i]? = some a → r[i + 1]? = some b → putFollows e a b = true

theorem follows_single (k : Nat) : Follows e [k] := by
  intro i a b _ hb
  simp at hb

theorem follows_cons {k j : Nat} {js : List Nat} (hfirst : putFollows e k j = true) (hrest : Follows e (j :: js)) :
    Follows e (k :: j :: js) := by
  intro i a b ha hb
  cases i with
  | zero =>
    obtain rfl := Option.some.inj ha
    obtain rfl := Option.some.inj hb
    exact hfirst
  | succ i => exact hrest i a b ha hb

theorem lineRuns_follow (e : EngOp) (ks : List Nat) : ∀ r ∈ lineRuns e ks, Follows e r := by
  induction ks with
  | nil => exact fun r hr => absurd hr List.not_mem_nil
  | cons k ks ih =>
    rw [lineRuns]
    split
    · next j js rest hruns =>
      rw [hruns] at ih
      obtain ⟨hhead, htail⟩ := List.forall_mem_cons.mp ih
      split
      · next hfirst => exact List.forall_mem_cons.mpr ⟨follows_cons hfirst hhead, htail⟩
      · exact List.forall_mem_cons.mpr ⟨follows_single k, ih⟩
    · exact List.forall_mem_cons.mpr ⟨follows_single k, ih⟩

theorem putFollows_some {k j : Nat} (h : putFollows e k j = true) : ∃ p, e.put k = some p := by
  cases hput : e.put k with
  | none => simp [putFollows, hput] at h
  | some p => exact ⟨p, rfl⟩

/-! ## The operation as writes are made -/

/-- e' is e with more writes made. -/
def Wrote (e e' : EngOp) : Prop := ∃ l, e' = { e with early := l } ∧ e.early ⊆ l

theorem Wrote.refl (e : EngOp) : Wrote e e := ⟨e.early, rfl, fun _ h => h⟩

theorem Wrote.trans {e e' e'' : EngOp} (h : Wrote e e') (h' : Wrote e' e'') : Wrote e e'' := by
  obtain ⟨l, rfl, hl⟩ := h
  obtain ⟨l', rfl, hl'⟩ := h'
  exact ⟨l', rfl, fun _ hk => hl' (hl hk)⟩

theorem wrote_more (e : EngOp) (ks : List Nat) : Wrote e { e with early := e.early ++ ks } :=
  ⟨e.early ++ ks, rfl, fun _ h => List.mem_append_left _ h⟩

theorem Wrote.early {e e' : EngOp} (h : Wrote e e') {k : Nat} (hk : k ∈ e.early) : k ∈ e'.early := by
  obtain ⟨l, rfl, hl⟩ := h
  exact hl hk

theorem Wrote.put {e e' : EngOp} (h : Wrote e e') (k : Nat) : e'.put k = e.put k := by
  obtain ⟨l, rfl, -⟩ := h
  rfl

theorem Wrote.follows {e e' : EngOp} (h : Wrote e e') {r : List Nat} (hr : Follows e r) : Follows e' r := by
  obtain ⟨l, rfl, -⟩ := h
  exact hr

/-- The writes of ks that have bytes are made. -/
def Made (e : EngOp) (ks : List Nat) : Prop := ∀ k ∈ ks, ∀ p, e.put k = some p → k ∈ e.early

theorem Made.later {e e' : EngOp} {ks : List Nat} (h : Made e ks) (hw : Wrote e e') : Made e' ks :=
  fun k hk p hp => hw.early (h k hk p (hw.put k ▸ hp))

theorem made_more (e : EngOp) (ks : List Nat) : Made { e with early := e.early ++ ks } ks :=
  fun _ hk _ _ => List.mem_append_right _ hk

theorem andThen_ok {α β : Type} {r : EngR α} {f : State → α → EngR β} {b : β} (h : r.andThen f = .ok t b) :
    ∃ s a, r = .ok s a ∧ f s a = .ok t b := by
  cases r with
  | ok s a => exact ⟨s, a, rfl, h⟩
  | no s x => cases h

theorem engPutOne_made {e' : EngOp} {k : Nat} (h : engPutOne s e k = .ok t e') : Wrote e e' ∧ Made e' [k] := by
  have hdone : Wrote e { e with early := e.early ++ [k] } ∧ Made { e with early := e.early ++ [k] } [k] :=
    ⟨wrote_more e [k], made_more e [k]⟩
  rw [engPutOne] at h
  split at h
  · next hnone =>
    cases h
    refine ⟨Wrote.refl e, fun j hj p hp => ?_⟩
    rw [List.mem_singleton.mp hj, hnone] at hp
    cases hp
  · split at h
    · obtain ⟨s', b, -, hok⟩ := andThen_ok h
      cases hok
      exact hdone
    · split at h <;> cases h <;> exact hdone

theorem engPutRun_made {e' : EngOp} {ks : List Nat} (hrun : Follows e ks) (h : engPutRun s e ks = .ok t e') :
    Wrote e e' ∧ Made e' ks := by
  match ks, hrun, h with
  | [], _, h =>
    cases h
    exact ⟨Wrote.refl e, fun k hk => absurd hk List.not_mem_nil⟩
  | [k], _, h => exact engPutOne_made h
  | k :: j :: js, hrun, h =>
    obtain ⟨p, hp⟩ := putFollows_some (hrun 0 k j rfl rfl)
    simp only [engPutRun, hp] at h
    obtain ⟨s', b, -, hok⟩ := andThen_ok h
    cases hok
    exact ⟨wrote_more e _, made_more e _⟩

/-- One line access of the loop over them: nothing more is written after the first that cannot be made. -/
def putStep (acc : State × EngOp × Option EngStop) (r : List Nat) : State × EngOp × Option EngStop :=
  match acc.2.2 with
  | some _ => acc
  | none => match engPutRun acc.1 acc.2.1 r with
    | .ok s e => (s, e, none)
    | .no s x => (s, acc.2.1, some x)

theorem engPutAll_eq (s : State) (e : EngOp) (ks : List Nat) : engPutAll s e ks = (lineRuns e ks).foldl putStep (s, e, none) := rfl

theorem putStep_stopped (rs : List (List Nat)) (s : State) (e : EngOp) (x : EngStop) :
    rs.foldl putStep (s, e, some x) = (s, e, some x) := by
  induction rs with
  | nil => rfl
  | cons r rs ih => exact ih

theorem putSteps_made {e' : EngOp} (rs : List (List Nat)) (s : State) (e : EngOp) (hruns : ∀ r ∈ rs, Follows e r)
    (h : rs.foldl putStep (s, e, none) = (t, e', none)) : Wrote e e' ∧ Made e' rs.flatten := by
  induction rs generalizing s e with
  | nil =>
    cases h
    exact ⟨Wrote.refl _, fun k hk => absurd hk List.not_mem_nil⟩
  | cons r rs ih =>
    obtain ⟨hhead, htail⟩ := List.forall_mem_cons.mp hruns
    rw [List.foldl_cons, putStep] at h
    cases hrun : engPutRun s e r with
    | no s1 x =>
      simp only [hrun, putStep_stopped] at h
      cases h
    | ok s1 e1 =>
      simp only [hrun] at h
      obtain ⟨hwrote, hmade⟩ := engPutRun_made hhead hrun
      obtain ⟨hwrote', hmade'⟩ := ih s1 e1 (fun r hr => hwrote.follows (htail r hr)) h
      refine ⟨hwrote.trans hwrote', fun k hk => ?_⟩
      rcases List.mem_append.mp hk with hk | hk
      · exact hmade.later hwrote' k hk
      · exact hmade' k hk

theorem engPutAll_made {e' : EngOp} {ks : List Nat} (h : engPutAll s e ks = (t, e', none)) : Wrote e e' ∧ Made e' ks := by
  have hmade := putSteps_made (lineRuns e ks) s e (lineRuns_follow e ks) h
  rwa [lineRuns_flatten] at hmade

theorem put_lt {k : Nat} {p : EngPut} (hplan : e.plan = none) (h : e.put k = some p) : k < e.puts := by
  obtain ⟨g, bs, hg, -, -⟩ := put_part hplan h
  simp only [EngOp.puts, hplan]
  exact (List.getElem?_eq_some_iff.mp hg).1

/-- Once the writes that were left are made, all are. -/
theorem all_made {e' : EngOp} {k : Nat} {p : EngPut} (hplan : e.plan = none) (hwrote : Wrote e e') (hmade : Made e' e.left_)
    (hput : e'.put k = some p) : k ∈ e'.early := by
  by_cases hk : k ∈ e.early
  · exact hwrote.early hk
  · have hlt : k < e.puts := put_lt hplan (hwrote.put k ▸ hput)
    exact hmade k (List.mem_filter.mpr ⟨List.mem_range.mpr hlt, by simpa using hk⟩) p hput

/-! ## The run -/

/-- The operands of e' are those of e. -/
structure Operands (e e' : EngOp) : Prop where
  plan : e'.plan = e.plan
  opc : e'.opc = e.opc
  ra : e'.ra = e.ra
  rb : e'.rb = e.rb
  rc : e'.rc = e.rc

theorem Operands.refl (e : EngOp) : Operands e e := ⟨rfl, rfl, rfl, rfl, rfl⟩

theorem Operands.trans {e e' e'' : EngOp} (h : Operands e e') (h' : Operands e' e'') : Operands e e'' :=
  ⟨h'.plan.trans h.plan, h'.opc.trans h.opc, h'.ra.trans h.ra, h'.rb.trans h.rb, h'.rc.trans h.rc⟩

theorem Wrote.operands {e e' : EngOp} (h : Wrote e e') : Operands e e' := by
  obtain ⟨l, rfl, -⟩ := h
  exact ⟨rfl, rfl, rfl, rfl, rfl⟩

theorem engFetchOne_operands {e' : EngOp} {p : Nat × Nat} (h : engFetchOne s e p = .ok t e') : Operands e e' := by
  rw [engFetchOne] at h
  split at h
  · cases h
    exact Operands.refl e
  · obtain ⟨s', b, -, hok⟩ := andThen_ok h
    cases hok
    exact ⟨rfl, rfl, rfl, rfl, rfl⟩

/-- One piece of the loop over the pieces that are read. -/
def fetchStep (acc : State × EngOp × List EngStop) (p : Nat × Nat) : State × EngOp × List EngStop :=
  match engFetchOne acc.1 acc.2.1 p with
  | .ok s e => (s, e, acc.2.2)
  | .no s x => (s, acc.2.1, acc.2.2 ++ [x])

theorem fetchStep_operands (acc : State × EngOp × List EngStop) (p : Nat × Nat) : Operands acc.2.1 (fetchStep acc p).2.1 := by
  rw [fetchStep]
  split
  · next h => exact engFetchOne_operands h
  · exact Operands.refl _

theorem fetchSteps_operands (ps : List (Nat × Nat)) (acc : State × EngOp × List EngStop) :
    Operands acc.2.1 (ps.foldl fetchStep acc).2.1 := by
  induction ps generalizing acc with
  | nil => exact Operands.refl _
  | cons p ps ih => exact (fetchStep_operands acc p).trans (ih _)

theorem engFetch_operands (s : State) (e : EngOp) : Operands e (engFetch s e).2.1 := fetchSteps_operands (engSrcs e) (s, e, [])

/-- CPY and FILL have no descriptor. -/
theorem engDesc_plain (s : State) (hopc : e.opc = 0 ∨ e.opc = 7) : ∃ e', engDesc s e = .ok s e' ∧ Operands e e' := by
  unfold engDesc
  by_cases hdesc : e.desc.isSome
  · exact ⟨e, by simp only [hdesc, if_true], Operands.refl e⟩
  · refine ⟨{ e with desc := some ([], []) }, ?_, ⟨rfl, rfl, rfl, rfl, rfl⟩⟩
    rcases hopc with h | h <;> simp only [hdesc, h] <;> rfl

theorem engWriteOut_ends {e' : EngOp} {x y : EngEnd} (h : engWriteOut s e x = (t, e', .ends y)) :
    engPutAll s e e.left_ = (t, e', none) := by
  simp only [engWriteOut] at h
  split at h
  · cases h
  · injection h with hs hrest
    injection hrest with he hout
    split at hout
    · cases hout
    · next hnone => exact Prod.ext hs (Prod.ext he hnone)

theorem engRun_made {e' : EngOp} {x : EngEnd} (hplan : e.plan = none) (hopc : e.opc = 0 ∨ e.opc = 7)
    (h : engRun s e = (t, e', .ends x)) : Operands e e' ∧ ∀ k p, e'.put k = some p → k ∈ e'.early := by
  obtain ⟨d, hdesc, hd⟩ := engDesc_plain s hopc
  have hopc' : d.opc = 0 ∨ d.opc = 7 := hd.opc ▸ hopc
  have hserial : d.isSerial = false := by rcases hopc' with h | h <;> simp [EngOp.isSerial, h]
  have hcpym : (d.opc == 4) = false := by rcases hopc' with h | h <;> rw [h] <;> rfl
  have hf := engFetch_operands s d
  simp only [engRun, hdesc, hserial, hcpym, Bool.false_eq_true, if_false] at h
  split at h
  · cases h
  · obtain ⟨hwrote, hmade⟩ := engPutAll_made (engWriteOut_ends h)
    exact ⟨(hd.trans hf).trans hwrote.operands,
      fun k p hput => all_made ((hd.trans hf).plan.trans hplan) hwrote hmade hput⟩

end Sys2Proof.EngineStepProofs
end

section
/-! PROOFS. A line access of an operation writes the bytes of its writes one after another (06_engines.md R117). -/

namespace Sys2Proof.EngineStepProofs

open Sys2Proof.Machine Sys2Proof.Safety Sys2Proof.Laws Sys2Proof.MemoryProofs

variable {s : State} {e : EngOp}

/-- A line that is clean once the bank holds it takes the bytes that a lane stores. -/
theorem performDev_stores {pkg part line dline : Nat} {ctx : Word} {o : LaneOp} {bs : List Byte}
    (hclean : LineClean (l2Fill s pkg part line dline) pkg part line dline) (hact : o.act = .wr bs) :
    performDev s pkg part line dline ctx [o] =
      (homeStore (l2Fill s pkg part line dline) pkg part line (dline * 64 + o.off) bs, {}) := by
  have hbad : ((List.range 2).filter fun u => (unitFault (l2Fill s pkg part line dline) pkg part line dline u).isSome) = [] := by
    refine List.filter_eq_nil_iff.mpr fun u hu => ?_
    rw [hclean u (List.mem_range.mp hu)]
    exact Bool.false_ne_true
  simp only [performDev, hbad, curedUnits, List.filter_nil, ite_self, List.foldl_cons, List.foldl_nil]
  exact laneAtHome_wr hclean hact

/-- A write of the operation reaches a clean line of its own package. -/
structure PutsHere (s : State) (e : EngOp) (va g d : Nat) (bs : List Byte) : Prop where
  place : locate s e.pkg e.part g true = some (.dev d)
  home : d >>> 44 = e.pkg
  offset : d % 64 = g % 64
  memory : isWindow (d / 64 * 64) = false
  reach : engReach s e va g bs.length true = none
  clean : ∀ u, u < 2 → unitFault (l2Fill s e.pkg e.part (g / 64) (d / 64)) e.pkg e.part (g / 64) (d / 64) u = none

variable {va g d : Nat} {bs : List Byte}

theorem engReach_here (h : PutsHere s e va g d bs) :
    remoteLost s e.pkg e.pkg = false ∧ lineBarred s e.pkg e.part g d true = false := by
  have hreach := h.reach
  simp only [engReach, h.place, h.home] at hreach
  split at hreach
  · cases hreach
  · next hlost =>
    refine ⟨Bool.eq_false_iff.mpr hlost, ?_⟩
    split at hreach
    · cases hreach
    · split at hreach
      · cases hreach
      · next hfree =>
        simp only [bne_self_eq_false, Bool.and_false, Bool.not_false, Bool.true_and, Bool.or_eq_true, not_or] at hfree
        exact Bool.eq_false_iff.mpr hfree.2

/-- The line of the write, as its home leaves it. -/
def putHere (s : State) (e : EngOp) (g d : Nat) (bs : List Byte) : State :=
  homeStore (l2Fill s e.pkg e.part (g / 64) (d / 64)) e.pkg e.part (g / 64) d bs

theorem putHere_mem (s : State) (e : EngOp) (g d : Nat) (bs : List Byte) :
    (putHere s e g d bs).mem = Memory.writeBytes s.mem d bs ∧ (putHere s e g d bs).hostMem = s.hostMem := by
  obtain ⟨hmem, hhost⟩ := l2Fill_keeps s e.pkg e.part (g / 64) (d / 64)
  exact ⟨congrArg (Memory.writeBytes · d bs) hmem, hhost⟩

theorem linePut_here (h : PutsHere s e va g d bs) (u : Option UnitId) :
    linePut s e.pkg e.part g bs e.ctx e.level u = .ok (putHere s e g d bs, false) := by
  obtain ⟨hlost, hbarred⟩ := engReach_here h
  have hd : d / 64 * 64 + g % 64 = d := by
    have hoffset := h.offset
    omega
  have hlane : performAt s e.pkg e.part (g / 64) (d / 64) e.ctx e.level u [{ key := 0, off := g % 64, act := .wr bs }] =
      (putHere s e g d bs, {}) := by
    rw [performAt, if_neg (by rw [h.memory]; decide), performDev_stores h.clean rfl, hd]
    rfl
  simp only [linePut, h.place, h.home, hlost, hbarred, hlane, trip, beq_self_eq_true, Bool.false_eq_true, if_false, if_true]
  rfl

theorem engLinePut_here {s1 : State} {counted : Bool} (hxlate : engXlate s e va true = .ok s1 (g, false))
    (h : PutsHere s1 e va g d bs) :
    engLinePut s e va bs counted =
      .ok (noteStore (putHere s1 e g d bs) e.part (g / 64) (.eng e.id) (some (e.ctx, va)) (g % 64) bs) false := by
  simp only [engLinePut, hxlate, EngR.andThen, h.reach, h.place, h.home, linePut_here h, engMade, beq_self_eq_true, if_true,
    Bool.false_and, Bool.false_eq_true, if_false]

/-- The bytes of some writes, one after another. -/
def runBytes (e : EngOp) (ks : List Nat) : List Byte := ks.flatMap fun j => ((e.put j).map (·.bytes)).getD []

theorem engPutRun_line {k : Nat} {p : EngPut} (ks : List Nat) (hput : e.put k = some p) (hpad : p.pad = none) :
    engPutRun s e (k :: ks) = (engLinePut s e p.at_ (runBytes e (k :: ks)) (firstOfLine e p)).andThen
      fun s _ => .ok s { e with early := e.early ++ k :: ks } := by
  cases ks with
  | nil =>
    have hone : runBytes e [k] = p.bytes := by simp [runBytes, hput]
    rw [hone]
    simp only [engPutRun, engPutOne, hput, hpad]
  | cons j js => simp only [engPutRun, hput, runBytes]

theorem engPutRun_writes {s1 : State} {k : Nat} {p : EngPut} {ks : List Nat} (hput : e.put k = some p) (hpad : p.pad = none)
    (hxlate : engXlate s e p.at_ true = .ok s1 (g, false)) (h : PutsHere s1 e p.at_ g d (runBytes e (k :: ks))) :
    ∃ t, engPutRun s e (k :: ks) = .ok t { e with early := e.early ++ k :: ks } ∧
      t.mem = Memory.writeBytes s1.mem d (runBytes e (k :: ks)) ∧ t.hostMem = s1.hostMem := by
  have hviews := noteStore_views (putHere s1 e g d (runBytes e (k :: ks))) e.part (g / 64) (.eng e.id) (some (e.ctx, p.at_)) (g % 64)
    (runBytes e (k :: ks))
  obtain ⟨hmem, hhost⟩ := putHere_mem s1 e g d (runBytes e (k :: ks))
  refine ⟨_, by rw [engPutRun_line ks hput hpad, engLinePut_here hxlate h]; rfl, ?_, ?_⟩
  · rw [hviews]
    exact hmem
  · rw [hviews]
    exact hhost

/-! ## O46 -/

/-- Settles O46: row by row, each step's conditions leave one branch of its row; what CPY and FILL write comes from the
pieces of their one segment, a run that ends has gone through every line access, and a line access stores at its home. -/
theorem engineStepsComplete : Obligations.EngineStepsComplete := by
  unfold Obligations.EngineStepsComplete
  refine ⟨fun s e hfound hqueued hfirst hload hbarred hfree hperformed => ?start,
    fun s e x => engineCompletion_ends, fun s e c r a => engineCompletion_faults,
    fun s e hfound hended hplain hfree hanswered => engineCompletion_ended hfound hended hplain hfree hanswered,
    fun s id e B hplain hanswered => engFinish_records hplain hanswered,
    fun s B p hblock holdest => ?pop,
    fun s e hfound hphase hfree hquiet => ?drain,
    fun s w hfound hdue => sweepComplete_goes hfound hdue,
    fun s s1 e l hfound hready hfree hread hthresh s2 t x hxlate hzero =>
      collReadyStart_enters hfound hready hfree hread hthresh hxlate hzero,
    fun s e c n toLeft hfound hphase hflag hunmet helder hpartner hpartnerElder => ?exchange,
    fun s s1 s2 e k l hfound hphase hfree hflag hsent hsteps hlink hmid hread hwrite =>
      collStep_sends ⟨hfound, ⟨k, hphase⟩, hfree⟩ hflag (collSend_first hsent hsteps hlink hmid hread hwrite),
    fun s s2 e k hfound hphase hfree hflag hsteps hrecvd hlink hmid hanswered hwrite =>
      collStep_sends ⟨hfound, ⟨k, hphase⟩, hfree⟩ hflag (collSend_tells hsteps hrecvd hlink hmid hanswered hwrite),
    fun s t e k hfound hphase hfree hflag hrecv => collStep_receives ⟨hfound, ⟨k, hphase⟩, hfree⟩ hflag hrecv,
    fun s e hfound hbusy htimeout hlate howes => peerTimeout_fails hfound hbusy htimeout hlate howes,
    fun e k p hplan hput hopc => put_plain hplan hput hopc,
    fun e x hplan hopc hlow hhigh => puts_cover hplan hopc hlow hhigh,
    fun s t e e' x hplan hopc hrun => ?run,
    fun e ks => ⟨lineRuns_flatten e ks, lineRuns_follow e ks⟩,
    fun s s1 e k g d ks p hput hpad => ?writes⟩
  case start =>
    have h : MayStart s e := ⟨hfound, hqueued, hfirst, hload, hbarred, hfree, hperformed⟩
    exact ⟨engineCommandStart_begins h, engBegin_started, engBegin_bad⟩
  case pop =>
    have h : Pops s B p := ⟨hblock, holdest⟩
    exact ⟨fun r x l hpair hrec => ⟨cwaitPop_clean h hpair hrec,
      fun hbad => ⟨cwaitPop_good h hpair hrec hbad, cwaitPop_uncorrectable h hpair hrec hbad⟩⟩,
      fun hpoll hnone => cwaitPop_answers (popRecord_empty h hpoll hnone)⟩
  case drain =>
    have h : Drained s e := ⟨hfound, hphase, hfree, hquiet⟩
    exact ⟨migrDrainDone_sealed h, fun s1 s2 n => migrDrainDone_done h, fun s1 n c => migrDrainDone_fails h⟩
  case exchange =>
    have h : Meets s e c n toLeft := ⟨hfound, hphase, hunmet, helder, hpartner, hpartnerElder⟩
    exact ⟨collExchange_settles hflag h, collExchange_differs hflag h⟩
  case run =>
    obtain ⟨hop, hmade⟩ := engRun_made hplan hopc hrun
    exact ⟨hop.plan.trans hplan, hop.opc, hop.ra, hop.rb, hop.rc, hmade⟩
  case writes =>
    intro bs _ _ hxlate hplace hhome hoffset hmemory hreach hclean
    exact engPutRun_writes hput hpad hxlate ⟨hplace, hhome, hoffset, hmemory, hreach, hclean⟩

end Sys2Proof.EngineStepProofs
end
